-- ==== Sys2Proof/Word.lean ====
section
/-! DEFINITION. The word types of Plalarak and their plainest arithmetic (spec/00_scope.md R1, R2). -/

namespace Sys2Proof

/-- A byte of memory (R2). -/
abbrev Byte := BitVec 8
/-- An instruction word or a window register (R45, R131). -/
abbrev W32 := BitVec 32
/-- A scalar register, an address or a register pair (R48, R50). -/
abbrev W64 := BitVec 64
/-- A stream counter (R54). -/
abbrev W128 := BitVec 128

/-- Bits [hi:lo] of a natural number (R1: both ends included). -/
def bitsOf (n hi lo : Nat) : Nat := (n >>> lo) % 2 ^ (hi + 1 - lo)

/-- Bit i of a natural number. -/
def bitOf (n i : Nat) : Bool := (n >>> i) % 2 == 1

end Sys2Proof
end

