-- ==== Sys2Proof/Machine/Bits.lean ====
section
/-! DEFINITION. Bit-field, sign-extension and byte-order helpers, and finite maps from natural-number keys as
sorted lists (one canonical form, so that equal maps are equal data). -/

namespace Sys2Proof.Machine

/-- A finite map: keys strictly rising. -/
abbrev NMap (α : Type) := List (Nat × α)

/-- The entry at key k. -/
def mfind {α : Type} : NMap α → Nat → Option α
  | [], _ => none
  | (j, v) :: m, k => if k = j then some v else mfind m k

/-- The entry at key k, or the default. -/
def mget {α : Type} (d : α) (m : NMap α) (k : Nat) : α := (mfind m k).getD d

/-- Put v at key k, keeping the keys rising. -/
def mput {α : Type} : NMap α → Nat → α → NMap α
  | [], k, v => [(k, v)]
  | (j, w) :: m, k, v =>
    if k = j then (k, v) :: m
    else if k < j then (k, v) :: (j, w) :: m
    else (j, w) :: mput m k v

/-- Remove key k, wherever it is listed. -/
def mdel {α : Type} : NMap α → Nat → NMap α
  | [], _ => []
  | (j, w) :: m, k => if k = j then mdel m k else (j, w) :: mdel m k

/-- Put v at key k, where the default value is not listed. -/
def mset {α : Type} [DecidableEq α] (d : α) (m : NMap α) (k : Nat) (v : α) : NMap α :=
  if v = d then mdel m k else mput m k v

/-- Change the entry at key k, if there is one. -/
def mmod {α : Type} (m : NMap α) (k : Nat) (f : α → α) : NMap α :=
  match mfind m k with
  | none => m
  | some v => mput m k (f v)

/-- The keys strictly rise and stand above b. -/
def risingFrom {α : Type} : Nat → NMap α → Bool
  | _, [] => true
  | b, (k, _) :: m => decide (b ≤ k) && risingFrom (k + 1) m

/-- The canonical form of a map with default d: keys strictly rising, no entry equal to the default. -/
def canonical {α : Type} [DecidableEq α] (d : α) (m : NMap α) : Bool :=
  risingFrom 0 m && m.all (fun e => decide (e.2 ≠ d))

/-- A sorted set of natural numbers. -/
def sinsert (k : Nat) : List Nat → List Nat
  | [] => [k]
  | j :: l => if k = j then j :: l else if k < j then k :: j :: l else j :: sinsert k l

/-- The union of a sorted set and a list. -/
def sunion (l : List Nat) (xs : List Nat) : List Nat := xs.foldl (fun acc k => sinsert k acc) l

/-- Numbers from a, n of them. -/
def rangeFrom (a n : Nat) : List Nat := (List.range n).map (a + ·)

/-- The value of the low n bits of x read as two's complement. -/
def sext (n x : Nat) : Int :=
  let r := x % 2 ^ n
  if r < 2 ^ (n - 1) then (r : Int) else (r : Int) - (2 ^ n : Nat)

/-- The n-bit pattern of an integer: x modulo 2^n (R157 `Wrap`). -/
def wrapN (n : Nat) (x : Int) : Nat := (x % (2 ^ n : Nat)).toNat

/-- Little-endian value of a list of bytes (R2). -/
def leVal : List Byte → Nat
  | [] => 0
  | b :: bs => b.toNat + 256 * leVal bs

/-- The n bytes of a value, least significant first (R2). -/
def leBytes : Nat → Nat → List Byte
  | 0, _ => []
  | n + 1, v => BitVec.ofNat 8 v :: leBytes n (v / 256)

/-- The 32-bit words of a value, low word first. -/
def leWords : Nat → Nat → List W32
  | 0, _ => []
  | n + 1, v => BitVec.ofNat 32 v :: leWords n (v / 2 ^ 32)

/-- The value of a list of 32-bit words, low word first. -/
def wordsVal : List W32 → Nat
  | [] => 0
  | w :: ws => w.toNat + 2 ^ 32 * wordsVal ws

/-- Replace element i of a list. -/
def lset {α : Type} (l : List α) (i : Nat) (v : α) : List α := l.set i v

/-- Floor of the base-2 logarithm, 0 for 0. -/
def ilog2 (n : Nat) : Nat := Nat.log2 n

/-- Round n up to a multiple of m. -/
def roundUp (n m : Nat) : Nat := if m = 0 then n else (n + m - 1) / m * m

/-- The first element that satisfies p. -/
def firstOf {α : Type} (p : α → Bool) : List α → Option α
  | [] => none
  | a :: l => if p a then some a else firstOf p l

/-- The least by a key, first on ties. -/
def minBy {α : Type} (key : α → Nat) : List α → Option α
  | [] => none
  | a :: l =>
    match minBy key l with
    | none => some a
    | some b => if key a ≤ key b then some a else some b

/-- Insertion into a list sorted by a key, after equal keys. -/
def insBy {α : Type} (key : α → Nat) (x : α) : List α → List α
  | [] => [x]
  | a :: l => if key x < key a then x :: a :: l else a :: insBy key x l

/-- A list sorted by a key, stable. -/
def sortBy {α : Type} (key : α → Nat) (l : List α) : List α := l.foldl (fun acc x => insBy key x acc) []

/-- Remove repeats, keeping first occurrences. -/
def dedupN : List Nat → List Nat
  | [] => []
  | a :: l => a :: (dedupN l).filter (· ≠ a)

end Sys2Proof.Machine
end

