-- ==== Sys2Proof/Syntax.lean ====
section
/-! DEFINITION. The syntax of Plalarak: the fields of the instruction formats (spec/07 R131, R135, spec/12 R294),
the data that machine events carry, and the one inductive of instructions, one constructor per row of
spec/opcode_table.json. -/

namespace Sys2Proof

/-- Formats R and K (R131), and I7 with the immediate in field B: bit U and the three 7-bit fields. -/
structure FR where
  u : Bool
  d : BitVec 7
  a : BitVec 7
  b : BitVec 7
  deriving DecidableEq, Repr

/-- Format I14 (R131). -/
structure FI where
  u : Bool
  d : BitVec 7
  imm : BitVec 14
  deriving DecidableEq, Repr

/-- Format B (R131, R133). -/
structure FB where
  u : Bool
  off : BitVec 21
  deriving DecidableEq, Repr

/-- The modifier word (R135); `low` is IMM21, or OPT in its bits [20:16] when LIT = 0. -/
structure Mod where
  rnd : BitVec 3
  sat : Bool
  scope : BitVec 3
  ty : BitVec 3
  lit : Bool
  low : BitVec 21
  deriving DecidableEq, Repr

/-- Shroud format SR (R294). -/
structure SR where
  d : BitVec 5
  a : BitVec 5
  b : BitVec 5
  f : BitVec 12
  deriving DecidableEq, Repr

/-- Shroud format SI (R294). -/
structure SI where
  d : BitVec 5
  a : BitVec 5
  imm : BitVec 17
  deriving DecidableEq, Repr

/-- Shroud format SF (R294). -/
structure SF where
  d : BitVec 5
  a : BitVec 5
  fn : BitVec 4
  imm : BitVec 13
  deriving DecidableEq, Repr

/-- Shroud format SB (R294); `z` is the field that must be zero. -/
structure SB where
  a : BitVec 5
  z : BitVec 5
  off : BitVec 17
  deriving DecidableEq, Repr

/-- What the ECC of a quarter found when it was read (spec/24 R401). -/
inductive Ecc where
  | clean
  | corrected
  | uncorrectable
  deriving DecidableEq, Repr

/-- The delivery modes of the transport (spec/23 R392). -/
inductive Delivery where
  | rod
  | rud
  | rudi
  | uud
  deriving DecidableEq, Repr

/-- A message as it arrives at a port: its 32-byte header and body as raw bytes (spec/23 R384), the source endpoint
and the partition key of the flow that carried it (R385), its delivery mode and flow (R392). -/
structure Msg where
  port : Nat
  src : Nat
  pkey : Nat
  raw : List Byte
  mode : Delivery := .rod
  flow : Nat := 0
  deriving DecidableEq, Repr

/-- An incoming RMA access (spec/23 R392, R393): `va` in the window of context `ctx`, `len` bytes, the data of a put, the
opcode of R225, the TYPE and the operands of an atomic, the semaphore (core, index, amount) that a put increments when it
is complete, and its delivery mode and flow. -/
structure Rma where
  port : Nat
  ctx : Nat
  va : Nat
  len : Nat
  pkey : Nat
  data : List Byte
  sem : Option (Nat × Nat × Nat)
  aop : Nat
  ty : Nat
  opnd : Nat
  cmp : Nat
  mode : Delivery
  flow : Nat
  deriving DecidableEq, Repr

/-- What Maluk does to an admission heap of its own accord (spec/11 R287). -/
inductive HeapAct where
  | push (deadline req cost : Nat)
  | budget (value : Nat)
  deriving DecidableEq, Repr

/-- The instructions and machine events, one constructor per row of spec/opcode_table.json. Constructors named
`…Twin` are the M twins of R134, `moviLiteral` the L twin of MOVI; those from `send` to `vspk` are the shroud
instructions; the others without operand fields are the events of spec/95. -/
inductive Instr where
  | clauseIssue (core lane : Nat)
  | canvasGrant (core : Nat)
  | halyardCycle
  | canvasClaim (core : Nat)
  | intervalBoundary (wish : List Nat)
  | vmailWrite (cluster target : Nat)
  | voltageMoveDone (cluster : Nat)
  | halyardCtlWrite (die value : Nat)
  | binTimerExpiry (core bin : Nat)
  | binEntry (op : Nat)
  | launchEnd (launch : Nat)
  | loadComplete (op : Nat) (ecc : Ecc)
  | longOpResult (op : Nat)
  | writePerform (op part : Nat)
  | atomicPerform (op : Nat)
  | engineLineAcquire (op : Nat)
  | copyIssue (op : Nat)
  | copyComplete (op : Nat)
  | mmaComplete (op : Nat)
  | joinComplete (op : Nat)
  | normComplete (op : Nat)
  | pdrnComplete (op : Nat)
  | cmtRoundClose (team cleat : Nat)
  | arenaBlockNotice
  | pageFaultResolve (fault : Nat)
  | pageWalk (die : Nat)
  | preempt (core ctx : Nat)
  | placementPass (prefs : List (Nat × Nat))
  | drainStart
  | shroudDispatchDeliver (shroud : Nat)
  | shroudRoutineStart (shroud thread : Nat)
  | svcEcho (op : Nat)
  | svcNote (op : Nat)
  | svcAbortSelf (op : Nat)
  | openVi (m : Msg)
  | closeVi (m : Msg)
  | negotiate (m : Msg)
  | createCtx (m : Msg)
  | destroyCtx (m : Msg)
  | mapWindow (m : Msg)
  | unmapWindow (m : Msg)
  | loadObject (m : Msg)
  | unload (m : Msg)
  | launch (m : Msg)
  | abort (m : Msg)
  | unpark (m : Msg)
  | postGraph (m : Msg)
  | queryContext (m : Msg)
  | queryLaunch (m : Msg)
  | queryGrant (m : Msg)
  | attest (m : Msg)
  | subscribe (m : Msg)
  | assignHeap (m : Msg)
  | releaseHeap (m : Msg)
  | addQuota (m : Msg)
  | setArenaMax (m : Msg)
  | writeTap (m : Msg)
  | writeSteer (m : Msg)
  | clearTrip (m : Msg)
  | writePaths (m : Msg)
  | writePkeys (m : Msg)
  | rmaPut (r : Rma)
  | rmaGet (r : Rma)
  | rmaAtomic (r : Rma)
  | paceReceive (port pace : Nat)
  | linkLoss (port : Nat)
  | linkRestore (port : Nat)
  | powerOn (image : List Byte)
  | firstStage (reefMin : Nat) (image : List Byte)
  | malukStage
  | fullReset
  | thermalThrottle (die temp : Nat)
  | thermalRelease (die temp : Nat)
  | thermalShutdown (temp : Nat)
  | patrolScrub (quarter : Nat) (ecc : Ecc)
  | errorCounterPoll
  | sessionEndpointFails (vi : Nat)
  | walkEnd (walk : Nat)
  | svcOtherService (op : Nat)
  | queryOtherSubject (m : Msg)
  | malformedRequest (m : Msg)
  | coreRestart (core : Nat)
  | malukHeapPush (heap : Nat) (act : HeapAct)
  | packetRetransmit (port msg : Nat)
  | send (f : SR)
  | sjmp (f : SB)
  | sbrz (f : SB)
  | sbrnz (f : SB)
  | sloop (f : SB)
  | salu (f : SR)
  | salui (f : SF)
  | smovi (f : SI)
  | sld (f : SI)
  | sst (f : SI)
  | sfence (f : SR)
  | ssem (f : SR)
  | skey (f : SR)
  | vld (f : SR)
  | vst (f : SR)
  | valu (f : SR)
  | vfma (f : SR)
  | vsqrt (f : SR)
  | vdiv (f : SR)
  | vbcast (f : SR)
  | vred (f : SR)
  | vcmp (f : SR)
  | vsel (f : SR)
  | vspk (f : SR)
  | nop (f : FR)
  | bra (f : FB)
  | jmpi (f : FR)
  | call (f : FB)
  | calli (f : FR)
  | ret (f : FR)
  | exit (f : FR)
  | yield (f : FR)
  | spawn (f : FR)
  | bincfg (f : FI)
  | rejn (f : FR)
  | rejnCmt (f : FR)
  | bar (f : FR)
  | bara (f : FR)
  | barw (f : FR)
  | clset (f : FR)
  | waitf (f : FI)
  | trap (f : FI)
  | svc (f : FI)
  | brcT (k : BitVec 3) (f : FB)
  | brcF (k : BitVec 3) (f : FB)
  | bre (n k : BitVec 2) (f : FB)
  | iadd (f : FR)
  | isub (f : FR)
  | imul (f : FR)
  | imulh (f : FR)
  | imad (f : FR)
  | imadw (f : FR)
  | imin (f : FR)
  | imax (f : FR)
  | iabs (f : FR)
  | ineg (f : FR)
  | idiv (f : FR)
  | irem (f : FR)
  | isad (f : FR)
  | isetp (f : FR)
  | isel (f : FR)
  | lea (f : FR)
  | shl (f : FR)
  | shr (f : FR)
  | sar (f : FR)
  | rotl (f : FR)
  | iand (f : FR)
  | ior (f : FR)
  | ixor (f : FR)
  | inot (f : FR)
  | bfe (f : FR)
  | bfi (f : FR)
  | popc (f : FR)
  | clz (f : FR)
  | brev (f : FR)
  | prmt (f : FR)
  | mov (f : FR)
  | movi (f : FI)
  | movh (f : FI)
  | movrel (f : FR)
  | movrw (f : FR)
  | winb (f : FI)
  | srd (f : FI)
  | pand (f : FR)
  | por (f : FR)
  | pxor (f : FR)
  | pnot (f : FR)
  | ptov (f : FR)
  | vtop (f : FR)
  | fadd (f : FR)
  | fsub (f : FR)
  | fmul (f : FR)
  | ffma (f : FR)
  | fmin (f : FR)
  | fmax (f : FR)
  | fabs (f : FR)
  | fneg (f : FR)
  | fsetp (f : FR)
  | fclass (f : FR)
  | frcp (f : FR)
  | frsq (f : FR)
  | fsqrt (f : FR)
  | fdiv (f : FR)
  | fexp2 (f : FR)
  | flog2 (f : FR)
  | ftanh (f : FR)
  | fsin (f : FR)
  | fcos (f : FR)
  | fsigm (f : FR)
  | ferf (f : FR)
  | frnd (f : FR)
  | fscale (f : FR)
  | hadd2 (f : FR)
  | hsub2 (f : FR)
  | hmul2 (f : FR)
  | hfma2 (f : FR)
  | hmin2 (f : FR)
  | hmax2 (f : FR)
  | habs2 (f : FR)
  | hsetp2 (f : FR)
  | hdot2 (f : FR)
  | htanh2 (f : FR)
  | hrcp2 (f : FR)
  | cvtf (f : FR)
  | cvti (f : FR)
  | cvtif (f : FR)
  | cvtii (f : FR)
  | pack8 (f : FR)
  | unpk8 (f : FR)
  | pack4 (f : FR)
  | unpk4 (f : FR)
  | packds (f : FR)
  | unpkds (f : FR)
  | bscale (f : FR)
  | cvt2 (f : FR)
  | shfl (f : FR)
  | shflx (f : FR)
  | vote (f : FR)
  | ballot (f : FR)
  | ffs (f : FR)
  | gred (f : FR)
  | gscan (f : FR)
  | bcast (f : FR)
  | gmatch (f : FR)
  | gcount (f : FR)
  | wbind (f : FR)
  | wunb (f : FR)
  | wpos (f : FR)
  | dload (f : FR)
  | dkey (f : FR)
  | dpos (f : FR)
  | dget (f : FR)
  | dset (f : FR)
  | dskip (f : FR)
  | dfork (f : FR)
  | rand (f : FR)
  | dinfo (f : FR)
  | randn (f : FR)
  | dpeek (f : FR)
  | ld (f : FR)
  | st (f : FR)
  | lds (f : FR)
  | sts (f : FR)
  | ldo (f : FR)
  | ldv (f : FR)
  | stt (f : FR)
  | pref (f : FR)
  | lda (f : FR)
  | str (f : FR)
  | fence (f : FR)
  | atomAdd (f : FR)
  | atomFadd (f : FR)
  | atomMin (f : FR)
  | atomMax (f : FR)
  | atomAnd (f : FR)
  | atomOr (f : FR)
  | atomXor (f : FR)
  | atomXchg (f : FR)
  | atomCas (f : FR)
  | atomInc (f : FR)
  | atomDec (f : FR)
  | atomHadd2 (f : FR)
  | atomsAdd (f : FR)
  | atomsCas (f : FR)
  | atomsXchg (f : FR)
  | copy (f : FR)
  | copys (f : FR)
  | copym (f : FR)
  | copyr (f : FR)
  | seminc (f : FR)
  | semwait (f : FR)
  | semset (f : FR)
  | semrd (f : FR)
  | tgpost (f : FR)
  | tgwait (f : FR)
  | tginit (f : FR)
  | tglink (f : FR)
  | cpst (f : FR)
  | mma (f : FR)
  | mmaq (f : FR)
  | mmas (f : FR)
  | join (f : FR)
  | pcfg (f : FR)
  | pins (f : FR)
  | plup (f : FR)
  | pcnt (f : FR)
  | prd (f : FR)
  | pdrn (f : FR)
  | pclr (f : FR)
  | pdel (f : FR)
  | norm (f : FR)
  | smrg (f : FR)
  | spick (f : FR)
  | hpush (f : FR)
  | htake (f : FR)
  | hbud (f : FR)
  | hdel (f : FR)
  | hpeek (f : FR)
  | hlen (f : FR)
  | rmask (f : FR)
  | tret (f : FR)
  | trrd (f : FR)
  | cycrd (f : FR)
  | perfrd (f : FR)
  | seqbind (f : FR)
  | seqrd (f : FR)
  | privrd (f : FR)
  | privwr (f : FR)
  | tlbinv (f : FR)
  | ctxsw (f : FR)
  | cachefl (f : FR)
  | poisclr (f : FR)
  | halt (f : FR)
  | evpost (f : FR)
  | iaddTwin (f : FR) (m : Mod)
  | isubTwin (f : FR) (m : Mod)
  | imulTwin (f : FR) (m : Mod)
  | imulhTwin (f : FR) (m : Mod)
  | imadTwin (f : FR) (m : Mod)
  | imadwTwin (f : FR) (m : Mod)
  | iminTwin (f : FR) (m : Mod)
  | imaxTwin (f : FR) (m : Mod)
  | iabsTwin (f : FR) (m : Mod)
  | inegTwin (f : FR) (m : Mod)
  | idivTwin (f : FR) (m : Mod)
  | iremTwin (f : FR) (m : Mod)
  | isadTwin (f : FR) (m : Mod)
  | isetpTwin (f : FR) (m : Mod)
  | iselTwin (f : FR) (m : Mod)
  | leaTwin (f : FR) (m : Mod)
  | shlTwin (f : FR) (m : Mod)
  | shrTwin (f : FR) (m : Mod)
  | sarTwin (f : FR) (m : Mod)
  | rotlTwin (f : FR) (m : Mod)
  | iandTwin (f : FR) (m : Mod)
  | iorTwin (f : FR) (m : Mod)
  | ixorTwin (f : FR) (m : Mod)
  | inotTwin (f : FR) (m : Mod)
  | bfeTwin (f : FR) (m : Mod)
  | bfiTwin (f : FR) (m : Mod)
  | popcTwin (f : FR) (m : Mod)
  | clzTwin (f : FR) (m : Mod)
  | brevTwin (f : FR) (m : Mod)
  | prmtTwin (f : FR) (m : Mod)
  | movTwin (f : FR) (m : Mod)
  | moviLiteral (f : FI) (w : W32)
  | faddTwin (f : FR) (m : Mod)
  | fsubTwin (f : FR) (m : Mod)
  | fmulTwin (f : FR) (m : Mod)
  | ffmaTwin (f : FR) (m : Mod)
  | fminTwin (f : FR) (m : Mod)
  | fmaxTwin (f : FR) (m : Mod)
  | fabsTwin (f : FR) (m : Mod)
  | fnegTwin (f : FR) (m : Mod)
  | fsetpTwin (f : FR) (m : Mod)
  | fclassTwin (f : FR) (m : Mod)
  | frcpTwin (f : FR) (m : Mod)
  | frsqTwin (f : FR) (m : Mod)
  | fsqrtTwin (f : FR) (m : Mod)
  | fdivTwin (f : FR) (m : Mod)
  | fexp2Twin (f : FR) (m : Mod)
  | flog2Twin (f : FR) (m : Mod)
  | ftanhTwin (f : FR) (m : Mod)
  | fsinTwin (f : FR) (m : Mod)
  | fcosTwin (f : FR) (m : Mod)
  | fsigmTwin (f : FR) (m : Mod)
  | ferfTwin (f : FR) (m : Mod)
  | frndTwin (f : FR) (m : Mod)
  | fscaleTwin (f : FR) (m : Mod)
  | hadd2Twin (f : FR) (m : Mod)
  | hsub2Twin (f : FR) (m : Mod)
  | hmul2Twin (f : FR) (m : Mod)
  | hfma2Twin (f : FR) (m : Mod)
  | hmin2Twin (f : FR) (m : Mod)
  | hmax2Twin (f : FR) (m : Mod)
  | habs2Twin (f : FR) (m : Mod)
  | hsetp2Twin (f : FR) (m : Mod)
  | hdot2Twin (f : FR) (m : Mod)
  | htanh2Twin (f : FR) (m : Mod)
  | hrcp2Twin (f : FR) (m : Mod)
  | cvtfTwin (f : FR) (m : Mod)
  | cvtiTwin (f : FR) (m : Mod)
  | cvtifTwin (f : FR) (m : Mod)
  | cvtiiTwin (f : FR) (m : Mod)
  | pack8Twin (f : FR) (m : Mod)
  | unpk8Twin (f : FR) (m : Mod)
  | pack4Twin (f : FR) (m : Mod)
  | unpk4Twin (f : FR) (m : Mod)
  | packdsTwin (f : FR) (m : Mod)
  | unpkdsTwin (f : FR) (m : Mod)
  | bscaleTwin (f : FR) (m : Mod)
  | cvt2Twin (f : FR) (m : Mod)
  | shflTwin (f : FR) (m : Mod)
  | shflxTwin (f : FR) (m : Mod)
  | voteTwin (f : FR) (m : Mod)
  | ballotTwin (f : FR) (m : Mod)
  | ffsTwin (f : FR) (m : Mod)
  | gredTwin (f : FR) (m : Mod)
  | gscanTwin (f : FR) (m : Mod)
  | bcastTwin (f : FR) (m : Mod)
  | gmatchTwin (f : FR) (m : Mod)
  | gcountTwin (f : FR) (m : Mod)
  | wbindTwin (f : FR) (m : Mod)
  | wunbTwin (f : FR) (m : Mod)
  | wposTwin (f : FR) (m : Mod)
  | dloadTwin (f : FR) (m : Mod)
  | dkeyTwin (f : FR) (m : Mod)
  | dposTwin (f : FR) (m : Mod)
  | dgetTwin (f : FR) (m : Mod)
  | dsetTwin (f : FR) (m : Mod)
  | dskipTwin (f : FR) (m : Mod)
  | dforkTwin (f : FR) (m : Mod)
  | randTwin (f : FR) (m : Mod)
  | dinfoTwin (f : FR) (m : Mod)
  | randnTwin (f : FR) (m : Mod)
  | dpeekTwin (f : FR) (m : Mod)
  | ldTwin (f : FR) (m : Mod)
  | stTwin (f : FR) (m : Mod)
  | ldsTwin (f : FR) (m : Mod)
  | stsTwin (f : FR) (m : Mod)
  | ldoTwin (f : FR) (m : Mod)
  | ldvTwin (f : FR) (m : Mod)
  | sttTwin (f : FR) (m : Mod)
  | prefTwin (f : FR) (m : Mod)
  | ldaTwin (f : FR) (m : Mod)
  | strTwin (f : FR) (m : Mod)
  | fenceTwin (f : FR) (m : Mod)
  | atomAddTwin (f : FR) (m : Mod)
  | atomFaddTwin (f : FR) (m : Mod)
  | atomMinTwin (f : FR) (m : Mod)
  | atomMaxTwin (f : FR) (m : Mod)
  | atomAndTwin (f : FR) (m : Mod)
  | atomOrTwin (f : FR) (m : Mod)
  | atomXorTwin (f : FR) (m : Mod)
  | atomXchgTwin (f : FR) (m : Mod)
  | atomCasTwin (f : FR) (m : Mod)
  | atomIncTwin (f : FR) (m : Mod)
  | atomDecTwin (f : FR) (m : Mod)
  | atomHadd2Twin (f : FR) (m : Mod)
  | atomsAddTwin (f : FR) (m : Mod)
  | atomsCasTwin (f : FR) (m : Mod)
  | atomsXchgTwin (f : FR) (m : Mod)
  | copyTwin (f : FR) (m : Mod)
  | copysTwin (f : FR) (m : Mod)
  | copymTwin (f : FR) (m : Mod)
  | copyrTwin (f : FR) (m : Mod)
  | semincTwin (f : FR) (m : Mod)
  | semwaitTwin (f : FR) (m : Mod)
  | semsetTwin (f : FR) (m : Mod)
  | semrdTwin (f : FR) (m : Mod)
  | tgpostTwin (f : FR) (m : Mod)
  | tgwaitTwin (f : FR) (m : Mod)
  | tginitTwin (f : FR) (m : Mod)
  | tglinkTwin (f : FR) (m : Mod)
  | cpstTwin (f : FR) (m : Mod)
  | mmaTwin (f : FR) (m : Mod)
  | mmaqTwin (f : FR) (m : Mod)
  | mmasTwin (f : FR) (m : Mod)
  | joinTwin (f : FR) (m : Mod)
  | pcfgTwin (f : FR) (m : Mod)
  | pinsTwin (f : FR) (m : Mod)
  | plupTwin (f : FR) (m : Mod)
  | pcntTwin (f : FR) (m : Mod)
  | prdTwin (f : FR) (m : Mod)
  | pdrnTwin (f : FR) (m : Mod)
  | pclrTwin (f : FR) (m : Mod)
  | pdelTwin (f : FR) (m : Mod)
  | normTwin (f : FR) (m : Mod)
  | smrgTwin (f : FR) (m : Mod)
  | spickTwin (f : FR) (m : Mod)
  | hpushTwin (f : FR) (m : Mod)
  | htakeTwin (f : FR) (m : Mod)
  | hbudTwin (f : FR) (m : Mod)
  | hdelTwin (f : FR) (m : Mod)
  | hpeekTwin (f : FR) (m : Mod)
  | hlenTwin (f : FR) (m : Mod)
  | rmaskTwin (f : FR) (m : Mod)
  deriving DecidableEq, Repr

end Sys2Proof
end

