-- ==== Sys2Proof/Machine/Entries.lean ====
section
/-! DEFINITION. What each entry of the instruction chapters accepts (spec/07 R131-R140, spec/08 R156-R185,
spec/09 R186-R211, spec/10 R213-R250, spec/11 R251-R288, spec/20 R358): the use of each field, the modifier values,
whether it stands only last in its clause, its feature and privilege. -/

namespace Sys2Proof.Machine

/-- The width of an operand: 32 bits, 64 bits, by TYPE, by TYPE as a conversion destination, by OPT as a conversion
source. -/
inductive Wd where
  | w32 | w64 | wn | wty | wopt
  deriving DecidableEq, Repr

/-- How an entry uses a 7-bit field (R49, R131, R132). `out` is a destination whose value arrives from outside the
lane (R53). -/
inductive Fu where
  | zero | any
  | src (w : Wd) | dst (w : Wd) | out (w : Wd) | both (w : Wd) | outAny
  | idx (n : Nat) | setp (cond : Nat) | setpPair
  | win | winEven (hi : Nat) | svc | scalar | pair
  | block (n : Nat) | blockV (n : Nat) | blockR (n : Nat)
  | memLoad | memStore | ldo | addr | cas
  | cleat | cleatJoin | cleatNorm
  deriving DecidableEq, Repr

/-- Which OPT values an entry accepts. -/
inductive Ou where
  | mask (m : Nat) | srcLt (n : Nat) | shfl | vote | gred | gscan | ldst | cache | copyr | plup | pclr
  deriving DecidableEq, Repr

/-- What one entry accepts. `ty` and `rnd` are masks of accepted codes, `w64` the mask of TYPE codes of width 64. -/
structure Entry where
  d : Fu := .zero
  a : Fu := .zero
  b : Fu := .zero
  ty : Nat := 1
  w64 : Nat := 12
  rnd : Nat := 1
  sat : Bool := false
  scope : Bool := false
  opt : Ou := .mask 0
  imm : Bool := true
  last : Bool := false
  priv : Bool := false
  feat : Nat := 0
  deriving DecidableEq, Repr

/-- Row 0x00 of R137. -/
def entries00 : List (Nat × Entry) := [
  (0x000, {  }),  -- NOP
  (0x001, { last := true }),  -- BRA
  (0x002, { a := .src .w64, last := true }),  -- JMPI
  (0x003, { last := true }),  -- CALL
  (0x004, { d := .winEven 94, a := .src .w64, last := true }),  -- CALLI
  (0x005, { a := .src .w64, last := true }),  -- RET
  (0x006, { last := true }),  -- EXIT
  (0x007, { last := true }),  -- YIELD
  (0x008, { d := .out .w32, a := .src .w64, b := .pair }),  -- SPAWN
  (0x009, { d := .src .w32 }),  -- BINCFG
  (0x00A, { a := .idx 8, last := true }),  -- REJN
  (0x00B, { a := .idx 8, last := true }),  -- REJN_CMT
  (0x00C, { b := .any, last := true }),  -- BAR
  (0x00D, { b := .any }),  -- BARA
  (0x00E, { b := .any, last := true }),  -- BARW
  (0x00F, { d := .idx 8, a := .scalar }),  -- CLSET
  (0x010, { last := true }),  -- WAITF
  (0x011, {  }),  -- TRAP
  (0x012, { d := .svc })]  -- SVC

/-- Row 0x01 of R137. -/
def entries01 : List (Nat × Entry) := [
  (0x020, { last := true }),  -- BRC_T
  (0x021, { last := true }),  -- BRC_T
  (0x022, { last := true }),  -- BRC_T
  (0x023, { last := true }),  -- BRC_T
  (0x024, { last := true }),  -- BRC_T
  (0x025, { last := true }),  -- BRC_T
  (0x026, { last := true }),  -- BRC_T
  (0x027, { last := true }),  -- BRC_T
  (0x028, { last := true }),  -- BRC_F
  (0x029, { last := true }),  -- BRC_F
  (0x02A, { last := true }),  -- BRC_F
  (0x02B, { last := true }),  -- BRC_F
  (0x02C, { last := true }),  -- BRC_F
  (0x02D, { last := true }),  -- BRC_F
  (0x02E, { last := true }),  -- BRC_F
  (0x02F, { last := true }),  -- BRC_F
  (0x030, { last := true }),  -- BRE
  (0x031, { last := true }),  -- BRE
  (0x032, { last := true }),  -- BRE
  (0x033, { last := true }),  -- BRE
  (0x034, { last := true }),  -- BRE
  (0x035, { last := true }),  -- BRE
  (0x036, { last := true }),  -- BRE
  (0x037, { last := true }),  -- BRE
  (0x038, { last := true }),  -- BRE
  (0x039, { last := true }),  -- BRE
  (0x03A, { last := true }),  -- BRE
  (0x03B, { last := true }),  -- BRE
  (0x03C, { last := true }),  -- BRE
  (0x03D, { last := true }),  -- BRE
  (0x03E, { last := true }),  -- BRE
  (0x03F, { last := true })]  -- BRE

/-- Row 0x02 of R137. -/
def entries02 : List (Nat × Entry) := [
  (0x040, { d := .dst .wn, a := .src .wn, b := .src .wn, ty := 15, sat := true }),  -- IADD
  (0x041, { d := .dst .wn, a := .src .wn, b := .src .wn, ty := 15, sat := true }),  -- ISUB
  (0x042, { d := .dst .wn, a := .src .wn, b := .src .wn, ty := 15, sat := true }),  -- IMUL
  (0x043, { d := .dst .wn, a := .src .wn, b := .src .wn, ty := 15 }),  -- IMULH
  (0x044, { d := .both .wn, a := .src .wn, b := .src .wn, ty := 15, sat := true }),  -- IMAD
  (0x045, { d := .both .w64, a := .src .w32, b := .src .w32, ty := 3, sat := true }),  -- IMADW
  (0x046, { d := .dst .wn, a := .src .wn, b := .src .wn, ty := 15 }),  -- IMIN
  (0x047, { d := .dst .wn, a := .src .wn, b := .src .wn, ty := 15 }),  -- IMAX
  (0x048, { d := .dst .wn, a := .src .wn, ty := 5, sat := true }),  -- IABS
  (0x049, { d := .dst .wn, a := .src .wn, ty := 5, sat := true }),  -- INEG
  (0x04A, { d := .dst .wn, a := .src .wn, b := .src .wn, ty := 15 }),  -- IDIV
  (0x04B, { d := .dst .wn, a := .src .wn, b := .src .wn, ty := 15 }),  -- IREM
  (0x04C, { d := .both .wn, a := .src .wn, b := .src .wn, ty := 15 }),  -- ISAD
  (0x04D, { d := .setp 5, a := .src .wn, b := .src .wn, ty := 15 }),  -- ISETP
  (0x04E, { d := .dst .wn, a := .src .wn, b := .src .wn, ty := 5, opt := .mask 15 }),  -- ISEL
  (0x04F, { d := .dst .w64, a := .src .w64, b := .src .w32, opt := .mask 15 }),  -- LEA
  (0x050, { d := .dst .wn, a := .src .wn, b := .src .w32, ty := 5 }),  -- SHL
  (0x051, { d := .dst .wn, a := .src .wn, b := .src .w32, ty := 5 }),  -- SHR
  (0x052, { d := .dst .wn, a := .src .wn, b := .src .w32, ty := 5 }),  -- SAR
  (0x053, { d := .dst .wn, a := .src .wn, b := .src .w32, ty := 5 }),  -- ROTL
  (0x054, { d := .dst .wn, a := .src .wn, b := .src .wn, ty := 5 }),  -- IAND
  (0x055, { d := .dst .wn, a := .src .wn, b := .src .wn, ty := 5 }),  -- IOR
  (0x056, { d := .dst .wn, a := .src .wn, b := .src .wn, ty := 5 }),  -- IXOR
  (0x057, { d := .dst .wn, a := .src .wn, ty := 5 }),  -- INOT
  (0x058, { d := .dst .wn, a := .src .wn, b := .src .w32, ty := 15 }),  -- BFE
  (0x059, { d := .both .wn, a := .src .wn, b := .src .w32, ty := 5 }),  -- BFI
  (0x05A, { d := .dst .w32, a := .src .wn, ty := 5 }),  -- POPC
  (0x05B, { d := .dst .w32, a := .src .wn, ty := 5 }),  -- CLZ
  (0x05C, { d := .dst .wn, a := .src .wn, ty := 5 }),  -- BREV
  (0x05D, { d := .both .w32, a := .src .w32, b := .src .w32 })]  -- PRMT

/-- Row 0x03 of R137. -/
def entries03 : List (Nat × Entry) := [
  (0x060, { d := .dst .wn, a := .src .wn, ty := 5 }),  -- MOV
  (0x061, { d := .dst .w32 }),  -- MOVI
  (0x062, { d := .both .w32 }),  -- MOVH
  (0x063, { d := .dst .w32, a := .win, b := .src .w32 }),  -- MOVREL
  (0x064, { d := .win, a := .src .w32, b := .src .w32 }),  -- MOVRW
  (0x065, {  }),  -- WINB
  (0x066, { d := .any }),  -- SRD
  (0x067, { d := .idx 8, a := .idx 8, b := .idx 8 }),  -- PAND
  (0x068, { d := .idx 8, a := .idx 8, b := .idx 8 }),  -- POR
  (0x069, { d := .idx 8, a := .idx 8, b := .idx 8 }),  -- PXOR
  (0x06A, { d := .idx 8, a := .idx 8 }),  -- PNOT
  (0x06B, { d := .dst .w32, a := .idx 8 }),  -- PTOV
  (0x06C, { d := .idx 8, a := .src .w32 })]  -- VTOP

/-- Row 0x04 of R137. -/
def entries04 : List (Nat × Entry) := [
  (0x080, { d := .dst .w32, a := .src .w32, b := .src .w32, rnd := 31, sat := true }),  -- FADD
  (0x081, { d := .dst .w32, a := .src .w32, b := .src .w32, rnd := 31, sat := true }),  -- FSUB
  (0x082, { d := .dst .w32, a := .src .w32, b := .src .w32, rnd := 31, sat := true }),  -- FMUL
  (0x083, { d := .both .w32, a := .src .w32, b := .src .w32, rnd := 31, sat := true }),  -- FFMA
  (0x084, { d := .dst .w32, a := .src .w32, b := .src .w32 }),  -- FMIN
  (0x085, { d := .dst .w32, a := .src .w32, b := .src .w32 }),  -- FMAX
  (0x086, { d := .dst .w32, a := .src .w32 }),  -- FABS
  (0x087, { d := .dst .w32, a := .src .w32 }),  -- FNEG
  (0x088, { d := .setp 7, a := .src .w32, b := .src .w32 }),  -- FSETP
  (0x089, { d := .dst .w32, a := .src .w32 }),  -- FCLASS
  (0x08A, { d := .dst .w32, a := .src .w32 }),  -- FRCP
  (0x08B, { d := .dst .w32, a := .src .w32 }),  -- FRSQ
  (0x08C, { d := .dst .w32, a := .src .w32, rnd := 31, sat := true }),  -- FSQRT
  (0x08D, { d := .dst .w32, a := .src .w32, b := .src .w32, rnd := 31, sat := true }),  -- FDIV
  (0x08E, { d := .dst .w32, a := .src .w32 }),  -- FEXP2
  (0x08F, { d := .dst .w32, a := .src .w32 }),  -- FLOG2
  (0x090, { d := .dst .w32, a := .src .w32 }),  -- FTANH
  (0x091, { d := .dst .w32, a := .src .w32 }),  -- FSIN
  (0x092, { d := .dst .w32, a := .src .w32 }),  -- FCOS
  (0x093, { d := .dst .w32, a := .src .w32 }),  -- FSIGM
  (0x094, { d := .dst .w32, a := .src .w32 }),  -- FERF
  (0x095, { d := .dst .w32, a := .src .w32, rnd := 15 }),  -- FRND
  (0x096, { d := .dst .w32, a := .src .w32, b := .src .w32, rnd := 31, sat := true })]  -- FSCALE

/-- Row 0x05 of R137. -/
def entries05 : List (Nat × Entry) := [
  (0x0A0, { d := .dst .w32, a := .src .w32, b := .src .w32, ty := 3, rnd := 31, sat := true }),  -- HADD2
  (0x0A1, { d := .dst .w32, a := .src .w32, b := .src .w32, ty := 3, rnd := 31, sat := true }),  -- HSUB2
  (0x0A2, { d := .dst .w32, a := .src .w32, b := .src .w32, ty := 3, rnd := 31, sat := true }),  -- HMUL2
  (0x0A3, { d := .both .w32, a := .src .w32, b := .src .w32, ty := 3, rnd := 31, sat := true }),  -- HFMA2
  (0x0A4, { d := .dst .w32, a := .src .w32, b := .src .w32, ty := 3 }),  -- HMIN2
  (0x0A5, { d := .dst .w32, a := .src .w32, b := .src .w32, ty := 3 }),  -- HMAX2
  (0x0A6, { d := .dst .w32, a := .src .w32, ty := 3 }),  -- HABS2
  (0x0A7, { d := .setpPair, a := .src .w32, b := .src .w32, ty := 3 }),  -- HSETP2
  (0x0A8, { d := .both .w32, a := .src .w32, b := .src .w32, ty := 3, rnd := 31, sat := true }),  -- HDOT2
  (0x0A9, { d := .dst .w32, a := .src .w32, ty := 3 }),  -- HTANH2
  (0x0AA, { d := .dst .w32, a := .src .w32, ty := 3 })]  -- HRCP2

/-- Row 0x06 of R137. -/
def entries06 : List (Nat × Entry) := [
  (0x0C0, { d := .dst .w32, a := .src .w32, ty := 31, rnd := 31, sat := true, opt := .srcLt 5 }),  -- CVTF
  (0x0C1, { d := .dst .wty, a := .src .w32, ty := 255, rnd := 15, opt := .srcLt 3 }),  -- CVTI
  (0x0C2, { d := .dst .w32, a := .src .wopt, ty := 31, rnd := 31, sat := true, opt := .srcLt 8 }),  -- CVTIF
  (0x0C3, { d := .dst .wty, a := .src .wopt, ty := 255, sat := true, opt := .srcLt 8 }),  -- CVTII
  (0x0C4, { d := .both .w32, a := .src .w32, b := .src .w32, ty := 15, rnd := 31, sat := true, opt := .mask 1 }),  -- PACK8
  (0x0C5, { d := .dst .w32, a := .src .w32, ty := 15, opt := .mask 3 }),  -- UNPK8
  (0x0C6, { d := .both .w32, a := .src .w32, b := .src .w32, ty := 3, rnd := 31, opt := .mask 7 }),  -- PACK4
  (0x0C7, { d := .dst .w32, a := .src .w32, b := .src .w32, ty := 3, opt := .mask 7 }),  -- UNPK4
  (0x0C8, { d := .both .w32, a := .src .w32, b := .src .w32, opt := .mask 3, feat := 2 }),  -- PACKDS
  (0x0C9, { d := .dst .w32, a := .src .w32, b := .src .w32, opt := .mask 3, feat := 2 }),  -- UNPKDS
  (0x0CA, { d := .dst .w32, a := .src .w32, ty := 3, feat := 2 }),  -- BSCALE
  (0x0CB, { d := .dst .w32, a := .src .w32, b := .src .w32, ty := 3, rnd := 31, sat := true }),  -- CVT2
  (0x0D0, { d := .both .wn, a := .src .wn, b := .src .w32, ty := 5, opt := .shfl }),  -- SHFL
  (0x0D1, { d := .both .wn, a := .src .wn, b := .src .w32, ty := 5, opt := .shfl }),  -- SHFLX
  (0x0D2, { d := .idx 8, a := .idx 8, opt := .vote }),  -- VOTE
  (0x0D3, { d := .dst .w64, a := .idx 8 }),  -- BALLOT
  (0x0D4, { d := .dst .w32, a := .src .wn, ty := 5 }),  -- FFS
  (0x0D5, { d := .dst .wn, a := .src .wn, ty := 31, sat := true, opt := .gred }),  -- GRED
  (0x0D6, { d := .dst .wn, a := .src .wn, ty := 31, sat := true, opt := .gscan }),  -- GSCAN
  (0x0D7, { d := .both .wn, a := .src .wn, b := .src .w32, ty := 5, opt := .shfl }),  -- BCAST
  (0x0D8, { d := .dst .w64, a := .src .wn, ty := 5 }),  -- GMATCH
  (0x0D9, { d := .dst .w32 })]  -- GCOUNT

/-- Row 0x07 of R137. -/
def entries07 : List (Nat × Entry) := [
  (0x0E0, { d := .idx 4, a := .block 12 }),  -- WBIND
  (0x0E1, { d := .idx 4 }),  -- WUNB
  (0x0E2, { d := .dst .w64, a := .idx 4 }),  -- WPOS
  (0x0E3, { d := .idx 8, a := .block 6 }),  -- DLOAD
  (0x0E4, { a := .src .w64 }),  -- DKEY
  (0x0E5, { a := .src .w64, b := .src .w64 }),  -- DPOS
  (0x0E6, { d := .winEven 88 }),  -- DGET
  (0x0E7, { a := .winEven 88 }),  -- DSET
  (0x0E8, { a := .src .w64 }),  -- DSKIP
  (0x0E9, { a := .src .w64 }),  -- DFORK
  (0x0EA, { d := .dst .wn, ty := 3, w64 := 2 }),  -- RAND
  (0x0EB, { d := .dst .w32, a := .idx 8 }),  -- DINFO
  (0x0EC, { d := .dst .w32 }),  -- RANDN
  (0x0ED, { d := .dst .w32, a := .idx 8 })]  -- DPEEK

/-- Row 0x08 of R137. -/
def entries08 : List (Nat × Entry) := [
  (0x100, { d := .memLoad, a := .addr, b := .src .w32, ty := 255, opt := .ldst }),  -- LD
  (0x101, { d := .memStore, a := .addr, b := .src .w32, ty := 235, opt := .ldst }),  -- ST
  (0x102, { d := .memLoad, a := .src .w32, b := .src .w32, ty := 255, opt := .cache }),  -- LDS
  (0x103, { d := .memStore, a := .src .w32, b := .src .w32, ty := 235, opt := .cache }),  -- STS
  (0x104, { d := .ldo, a := .src .w64, ty := 7, opt := .cache }),  -- LDO
  (0x105, { d := .out .w32, a := .block 3 }),  -- LDV
  (0x106, { d := .out .w32, a := .block 3, opt := .mask 1 }),  -- STT
  (0x107, { a := .src .w64, b := .src .w32, ty := 7 }),  -- PREF
  (0x108, { d := .memLoad, a := .src .w64, b := .src .w32, ty := 255, scope := true, opt := .cache }),  -- LDA
  (0x109, { d := .memStore, a := .src .w64, b := .src .w32, ty := 235, scope := true, opt := .cache }),  -- STR
  (0x10A, { scope := true }),  -- FENCE
  (0x10B, { d := .out .wn, a := .src .w64, b := .src .wn, ty := 15 }),  -- ATOM_ADD
  (0x10C, { d := .out .wn, a := .src .w64, b := .src .wn, ty := 1 }),  -- ATOM_FADD
  (0x10D, { d := .out .wn, a := .src .w64, b := .src .wn, ty := 15 }),  -- ATOM_MIN
  (0x10E, { d := .out .wn, a := .src .w64, b := .src .wn, ty := 15 }),  -- ATOM_MAX
  (0x10F, { d := .out .wn, a := .src .w64, b := .src .wn, ty := 15 }),  -- ATOM_AND
  (0x110, { d := .out .wn, a := .src .w64, b := .src .wn, ty := 15 }),  -- ATOM_OR
  (0x111, { d := .out .wn, a := .src .w64, b := .src .wn, ty := 15 }),  -- ATOM_XOR
  (0x112, { d := .out .wn, a := .src .w64, b := .src .wn, ty := 15 }),  -- ATOM_XCHG
  (0x113, { d := .out .wn, a := .src .w64, b := .cas, ty := 15 }),  -- ATOM_CAS
  (0x114, { d := .out .wn, a := .src .w64, b := .src .wn, ty := 3, w64 := 2 }),  -- ATOM_INC
  (0x115, { d := .out .wn, a := .src .w64, b := .src .wn, ty := 3, w64 := 2 }),  -- ATOM_DEC
  (0x116, { d := .out .wn, a := .src .w64, b := .src .wn, ty := 3, w64 := 0 }),  -- ATOM_HADD2
  (0x117, { d := .out .wn, a := .src .w32, b := .src .wn, ty := 15 }),  -- ATOMS_ADD
  (0x118, { d := .out .wn, a := .src .w32, b := .cas, ty := 15 }),  -- ATOMS_CAS
  (0x119, { d := .out .wn, a := .src .w32, b := .src .wn, ty := 15 })]  -- ATOMS_XCHG

/-- Row 0x09 of R137. -/
def entries09 : List (Nat × Entry) := [
  (0x120, { d := .out .w32, a := .block 24, b := .src .w32 }),  -- COPY
  (0x121, { d := .out .w32, a := .block 6, opt := .mask 3 }),  -- COPYS
  (0x122, { d := .out .w32, a := .block 24, b := .src .w64, opt := .mask 1 }),  -- COPYM
  (0x123, { d := .out .w32, a := .block 24, b := .src .w64, ty := 31, opt := .copyr }),  -- COPYR
  (0x124, { a := .src .w32, b := .src .w32, scope := true }),  -- SEMINC
  (0x125, { a := .src .w32, b := .src .w32, scope := true, last := true }),  -- SEMWAIT
  (0x126, { a := .src .w32, b := .src .w32, scope := true }),  -- SEMSET
  (0x127, { d := .out .w32, a := .src .w32, scope := true }),  -- SEMRD
  (0x128, { a := .src .w64, feat := 7 }),  -- TGPOST
  (0x129, { a := .src .w64, last := true, feat := 7 }),  -- TGWAIT
  (0x12A, { a := .block 10, opt := .mask 1, feat := 7 }),  -- TGINIT
  (0x12B, { d := .out .w32, a := .block 4, feat := 7 }),  -- TGLINK
  (0x12C, { d := .dst .w32 })]  -- CPST

/-- Row 0x0A of R137. -/
def entries0A : List (Nat × Entry) := [
  (0x140, { d := .src .w32, a := .blockV 8, b := .cleat, opt := .mask 3, imm := false }),  -- MMA
  (0x141, { d := .src .w32, a := .blockV 8, b := .cleat, opt := .mask 3, imm := false }),  -- MMAQ
  (0x142, { d := .src .w32, a := .blockV 9, b := .cleat, opt := .mask 3, imm := false, feat := 1 }),  -- MMAS
  (0x143, { d := .src .w32, a := .block 4, b := .cleatJoin, imm := false, feat := 3 }),  -- JOIN
  (0x144, { a := .src .w32, imm := false }),  -- PCFG
  (0x145, { a := .src .w64, b := .src .w32, imm := false }),  -- PINS
  (0x146, { d := .out .w32, a := .src .w64, b := .src .w32, opt := .plup, imm := false }),  -- PLUP
  (0x147, { a := .src .w64, b := .src .w32, imm := false, feat := 3 }),  -- PCNT
  (0x148, { d := .out .w32, a := .src .w64, b := .src .w32, imm := false }),  -- PRD
  (0x149, { d := .out .w32, a := .block 9, b := .src .w32, opt := .mask 1, imm := false }),  -- PDRN
  (0x14A, { opt := .pclr, imm := false }),  -- PCLR
  (0x14B, { d := .out .w32, a := .src .w64, opt := .mask 1, imm := false }),  -- PDEL
  (0x14C, { d := .src .w32, a := .block 7, b := .cleatNorm, imm := false }),  -- NORM
  (0x14D, { d := .winEven 92, a := .block 3, imm := false, feat := 4 }),  -- SMRG
  (0x14E, { d := .winEven 94, a := .blockR 5, opt := .mask 1, imm := false, feat := 4 }),  -- SPICK
  (0x14F, { d := .out .w32, a := .src .w64, b := .src .w64, opt := .mask 15, imm := false, feat := 4 }),  -- HPUSH
  (0x150, { d := .out .w64, opt := .mask 15, imm := false, feat := 4 }),  -- HTAKE
  (0x151, { a := .src .w32, opt := .mask 31, imm := false, feat := 4 }),  -- HBUD
  (0x152, { d := .out .w32, a := .src .w32, opt := .mask 15, imm := false, feat := 4 }),  -- HDEL
  (0x153, { d := .out .w64, opt := .mask 15, imm := false, feat := 4 }),  -- HPEEK
  (0x154, { d := .out .w32, opt := .mask 15, imm := false, feat := 4 }),  -- HLEN
  (0x155, { d := .dst .w32, a := .src .w64, b := .src .w32, imm := false })]  -- RMASK

/-- Row 0x0B of R137. -/
def entries0B : List (Nat × Entry) := [
  (0x160, { a := .idx 2, last := true }),  -- TRET
  (0x161, { d := .dst .w32, a := .idx 8 }),  -- TRRD
  (0x162, { d := .dst .w64 }),  -- CYCRD
  (0x163, { d := .dst .w64, a := .idx 4 }),  -- PERFRD
  (0x164, { a := .src .w32, feat := 5 }),  -- SEQBIND
  (0x165, { d := .dst .w32, feat := 5 }),  -- SEQRD
  (0x166, { d := .outAny, a := .src .w32, priv := true }),  -- PRIVRD
  (0x167, { a := .src .w32, b := .src .w64, priv := true }),  -- PRIVWR
  (0x168, { a := .src .w64, b := .src .w32, priv := true }),  -- TLBINV
  (0x169, { a := .src .w32, b := .idx 2, priv := true }),  -- CTXSW
  (0x16A, { a := .src .w64, priv := true }),  -- CACHEFL
  (0x16B, { a := .src .w64, priv := true }),  -- POISCLR
  (0x16C, { a := .src .w32, priv := true }),  -- HALT
  (0x16D, { d := .out .w32, a := .src .w32, b := .src .w32, priv := true })]  -- EVPOST

/-- The entry of a base opcode (R137). -/
def entryOf (op : Nat) : Option Entry :=
  match op / 32 with
  | 0 => (entries00.find? (fun e => e.1 == op)).map (·.2)
  | 1 => (entries01.find? (fun e => e.1 == op)).map (·.2)
  | 2 => (entries02.find? (fun e => e.1 == op)).map (·.2)
  | 3 => (entries03.find? (fun e => e.1 == op)).map (·.2)
  | 4 => (entries04.find? (fun e => e.1 == op)).map (·.2)
  | 5 => (entries05.find? (fun e => e.1 == op)).map (·.2)
  | 6 => (entries06.find? (fun e => e.1 == op)).map (·.2)
  | 7 => (entries07.find? (fun e => e.1 == op)).map (·.2)
  | 8 => (entries08.find? (fun e => e.1 == op)).map (·.2)
  | 9 => (entries09.find? (fun e => e.1 == op)).map (·.2)
  | 10 => (entries0A.find? (fun e => e.1 == op)).map (·.2)
  | 11 => (entries0B.find? (fun e => e.1 == op)).map (·.2)
  | _ => none

/-- The mask m holds bit k. -/
def inMask (m k : Nat) : Bool := bitOf m k

/-- Option bits of a modifier word: [20:16] when LIT = 0, else zero (R135). -/
def optOf (m : Mod) : Nat := if m.lit then 0 else m.low.toNat / 2 ^ 16

/-- The bytes of an access by TYPE (R216). -/
def memBytes (ty : Nat) : Nat :=
  match ty with
  | 0 => 4 | 1 => 1 | 2 => 1 | 3 => 2 | 4 => 2 | 5 => 8 | 6 => 16 | _ => 32

/-- A 64-bit conversion code: `.I64`, `.N64` (R194). -/
def cvt64 (code : Nat) : Bool := code == 2 || code == 3

/-- Is an operand of this width 64 bits under the modifier? -/
def wide (e : Entry) (m : Mod) (w : Wd) : Bool :=
  match w with
  | .w32 => false
  | .w64 => true
  | .wn => inMask e.w64 m.ty.toNat
  | .wty => cvt64 m.ty.toNat
  | .wopt => cvt64 (optOf m % 8)

/-- A 64-bit operand needs an even window code (R48). -/
def pairOk (w : Bool) (code : Nat) : Bool := !w || 96 ≤ code || code % 2 == 0

/-- A block of n registers from a window code (R56). -/
def blockOk (n code : Nat) : Bool := code + n ≤ 96

/-- Is the field legal for its use (R48, R49, R53, R56, R131, R132, R216)? A 64-bit address may take any source code of R49, codes
112 to 127 among them: R214 names the window pair and the scalar register only (notes/assumptions/33.md). -/
def fieldOk (e : Entry) (m : Mod) (use : Fu) (code : Nat) : Bool :=
  let w := wide e m
  match use with
  | .zero => code == 0
  | .any => true
  | .src x => pairOk (w x) code
  | .dst x => decide (code ≤ 116) && pairOk (w x) code
  | .both x => decide (code ≤ 116) && pairOk (w x) code
  | .out x => (decide (code < 112) || code == 116) && pairOk (w x) code
  | .outAny => decide (code < 112) || code == 116
  | .idx n => decide (code < n)
  | .setp c => decide (code < 64) && decide (code / 8 ≤ c)
  | .setpPair => decide (code < 64) && code % 8 != 7
  | .win => decide (code < 96)
  | .winEven hi => decide (code ≤ hi) && code % 2 == 0
  | .svc => decide (code ≤ 88)
  | .scalar => decide (96 ≤ code) && decide (code ≤ 111)
  | .pair => decide (code < 112) && pairOk true code
  | .block n => blockOk n code
  | .blockV n => blockOk (if bitOf (optOf m) 1 then n + 6 else n) code
  | .blockR n => blockOk (if bitOf (optOf m) 0 then n + 2 else n) code
  | .memLoad =>
    match m.ty.toNat with
    | 6 => code % 4 == 0 && blockOk 4 code
    | 7 => code % 8 == 0 && blockOk 8 code
    | 5 => (decide (code < 112) || code == 116) && pairOk true code
    | _ => decide (code < 112) || code == 116
  | .memStore =>
    match m.ty.toNat with
    | 6 => code % 4 == 0 && blockOk 4 code
    | 7 => code % 8 == 0 && blockOk 8 code
    | 5 => pairOk true code
    | _ => true
  | .ldo => code % 8 == 0 && blockOk 8 code
  | .addr => bitOf (optOf m) 0 || pairOk true code
  | .cas => if w .wn then code % 4 == 0 && blockOk 4 code else code % 2 == 0 && blockOk 2 code
  | .cleat => decide (code < 32)
  | .cleatJoin => decide (code < 8)
  | .cleatNorm => decide (code / 8 ≤ 8)

/-- Is OPT accepted by the entry (R135 and the entries)? -/
def optOk (e : Entry) (m : Mod) : Bool :=
  let o := optOf m
  match e.opt with
  | .mask k => o &&& k == o
  | .srcLt n => decide (o < n)
  | .shfl => decide (o < 16)
  | .vote => decide (o < 3)
  | .gred => decide (o < 6) && (m.ty != 4 || decide (o < 3))
  | .gscan => decide (o < 16) && decide (o % 8 < 6) && (m.ty != 4 || decide (o % 8 < 3))
  | .ldst => decide (o < 8) && o / 2 != 3
  | .cache => decide (o < 8) && o / 2 != 3 && o % 2 == 0
  | .copyr => decide (o / 2 < 3)
  | .plup => o / 16 == 1 || decide (o < 2)
  | .pclr => decide (o < 3)

/-- SAT = 1 is accepted (R135); GRED and GSCAN take it for integer `.add` only (R200). -/
def satOk (e : Entry) (m : Mod) : Bool :=
  !m.sat || (e.sat && (match e.opt with
    | .gred => m.ty != 4 && optOf m == 0
    | .gscan => m.ty != 4 && optOf m % 8 == 0
    | _ => true))

/-- Field B is a source, so that LIT = 1 may replace it (R135). -/
def litOk (e : Entry) : Bool :=
  e.imm && (match e.b with
    | .src _ => true
    | _ => false)

/-- The modifier word is accepted by the entry (R135). -/
def modOk (e : Entry) (b : BitVec 7) (m : Mod) : Bool :=
  inMask e.rnd m.rnd.toNat && satOk e m && (if e.scope then decide (m.scope.toNat < 6) else m.scope == 0)
    && inMask e.ty m.ty.toNat
    && (if m.lit then litOk e && b == 0 else m.low.toNat % 2 ^ 16 == 0 && optOk e m)

/-- The three fields are legal under the modifier; under LIT = 1 field B is no operand. -/
def fieldsOk (e : Entry) (m : Mod) (f : FR) : Bool :=
  fieldOk e m e.d f.d.toNat && fieldOk e m e.a f.a.toNat && (m.lit || fieldOk e m e.b f.b.toNat)

/-- The modifier word that the base form of an opcode stands for (R136). -/
def baseMod (e : Entry) : Mod :=
  { rnd := 0, sat := false, scope := if e.scope then 4 else 0, ty := 0, lit := false, low := 0 }

/-- The immediate field of an I14 instruction is legal: the bin index of BINCFG (R165), the mask of WAITF (R166), the
selector and destination of SRD (R184). -/
def immOk (op : Nat) (f : FI) : Bool :=
  match op with
  | 0x009 => decide (f.imm.toNat < 32)
  | 0x010 => decide (f.imm.toNat < 4096)
  | 0x066 =>
    let d := f.d.toNat
    let k := f.imm.toNat
    let w := k == 0 || decide (6 ≤ k)
    decide (k ≤ 8) && decide (d ≤ 116) && pairOk w d && (!w || decide (d < 112))
  | _ => true

/-- Scalar registers of a shroud: n0 to n15 (R295). -/
def isS (r : BitVec 5) : Bool := decide (r.toNat < 16)
/-- Vector registers of a shroud: n16 to n31 (R295). -/
def isV (r : BitVec 5) : Bool := decide (16 ≤ r.toNat)

/-- RND in F[5:4] and `.sat` in F[6], the rest of F[11:4] zero (R302). -/
def roundBitsOk (f : Nat) : Bool := decide (f < 128)

/-- Legal fields of the shroud instructions of format SR (R295, R297-R305). -/
def srOk (op : Nat) (x : SR) : Bool :=
  let f := x.f.toNat
  match op with
  | 0 => x.d == 0 && x.a == 0 && x.b == 0 && f == 0
  | 5 => isS x.d && isS x.a && isS x.b && decide (f < 12)
  | 10 => x.d == 0 && x.a == 0 && x.b == 0 && decide (f < 6)
  | 11 => x.d == 0 && isS x.a && isS x.b && decide (f < 6)
  | 12 => x.d == 0 && isS x.a && isS x.b && f == 0
  | 13 => isV x.d && isS x.a && x.b == 0 && decide (f < 8) && f % 4 != 3 && (f / 4 == 0 || f % 4 != 0)
  | 14 =>
    isV x.d && isS x.a && decide (f < 256) && f % 4 != 3 && f / 4 % 2 == 0 && decide (f / 8 % 8 ≤ 4)
      && (if f / 8 % 8 == 4 then isS x.b else x.b == 0)
  | 15 =>
    isV x.d && isV x.a && roundBitsOk f && decide (f % 16 ≤ 6) && (decide (f % 16 ≤ 2) || f / 16 == 0)
      && (if f % 16 == 5 || f % 16 == 6 then x.b == 0 else isV x.b)
  | 16 => isV x.d && isV x.a && isV x.b && roundBitsOk f && f % 16 == 0
  | 17 => isV x.d && isV x.a && x.b == 0 && roundBitsOk f && f % 16 == 0
  | 18 => isV x.d && isV x.a && isV x.b && roundBitsOk f && f % 16 == 0
  | 19 => isV x.d && isS x.a && x.b == 0 && f == 0
  | 20 => isS x.d && isV x.a && x.b == 0 && decide (f < 3)
  | 21 => isV x.d && isV x.a && isV x.b && decide (f < 6)
  | 22 => isV x.d && isV x.a && isV x.b && f == 0
  | 23 => isV x.d && isV x.a && isS x.b && f == 0
  | _ => false

/-- Legal fields of the shroud instructions of format SI (R295, R299). -/
def siOk (op : Nat) (x : SI) : Bool :=
  match op with
  | 7 => isS x.d && x.a == 0
  | 8 => isS x.d && isS x.a
  | 9 => isS x.d && isS x.a
  | _ => false

end Sys2Proof.Machine
end

