-- ==== Sys2Proof/WellFormed.lean ====
section
/-! DEFINITION. When an instruction is well formed: its fields are legal under its entry (spec/07 R131, R132, R135,
R139, R140; spec/12 R295). What an ill-formed one is rejected for has a name. -/

namespace Sys2Proof

open Sys2Proof.Machine

/-- Why an encoding is not an instruction (R139, R295). -/
inductive DecodeError where
  | unassigned      -- no entry has this opcode
  | badField        -- a field, index, register code or immediate that the entry does not accept
  | badModifier     -- a modifier value that the entry does not accept
  | noExtension     -- a twin without its extension word
  | shortText       -- fewer bytes than an instruction word
  deriving DecidableEq, Repr

/-- The encoded shape of an instruction: its base opcode and fields. -/
inductive View where
  | r (op : Nat) (f : FR)
  | i (op : Nat) (f : FI)
  | b (op : Nat) (f : FB)
  | twin (op : Nat) (f : FR) (m : Mod)
  | literal (f : FI) (w : W32)
  | sr (op : Nat) (f : SR)
  | si (op : Nat) (f : SI)
  | sf (op : Nat) (f : SF)
  | sb (op : Nat) (f : SB)
  | event
  deriving DecidableEq, Repr

/-- The view of each constructor (R137, R138, R294). -/
def view (i : Instr) : View :=
  match i with
  | .clauseIssue _ _ => .event
  | .canvasGrant _ => .event
  | .halyardCycle => .event
  | .canvasClaim _ => .event
  | .intervalBoundary _ => .event
  | .vmailWrite _ _ => .event
  | .voltageMoveDone _ => .event
  | .halyardCtlWrite _ _ => .event
  | .binTimerExpiry _ _ => .event
  | .binEntry _ => .event
  | .launchEnd _ => .event
  | .loadComplete _ _ => .event
  | .longOpResult _ => .event
  | .writePerform _ _ => .event
  | .atomicPerform _ => .event
  | .engineLineAcquire _ => .event
  | .copyIssue _ => .event
  | .copyComplete _ => .event
  | .mmaComplete _ => .event
  | .joinComplete _ => .event
  | .normComplete _ => .event
  | .pdrnComplete _ => .event
  | .cmtRoundClose _ _ => .event
  | .arenaBlockNotice => .event
  | .pageFaultResolve _ => .event
  | .pageWalk _ => .event
  | .preempt _ _ => .event
  | .placementPass _ => .event
  | .drainStart => .event
  | .shroudDispatchDeliver _ => .event
  | .shroudRoutineStart _ _ => .event
  | .svcEcho _ => .event
  | .svcNote _ => .event
  | .svcAbortSelf _ => .event
  | .openVi _ => .event
  | .closeVi _ => .event
  | .negotiate _ => .event
  | .createCtx _ => .event
  | .destroyCtx _ => .event
  | .mapWindow _ => .event
  | .unmapWindow _ => .event
  | .loadObject _ => .event
  | .unload _ => .event
  | .launch _ => .event
  | .abort _ => .event
  | .unpark _ => .event
  | .postGraph _ => .event
  | .queryContext _ => .event
  | .queryLaunch _ => .event
  | .queryGrant _ => .event
  | .attest _ => .event
  | .subscribe _ => .event
  | .assignHeap _ => .event
  | .releaseHeap _ => .event
  | .addQuota _ => .event
  | .setArenaMax _ => .event
  | .writeTap _ => .event
  | .writeSteer _ => .event
  | .clearTrip _ => .event
  | .writePaths _ => .event
  | .writePkeys _ => .event
  | .rmaPut _ => .event
  | .rmaGet _ => .event
  | .rmaAtomic _ => .event
  | .paceReceive _ _ => .event
  | .linkLoss _ => .event
  | .linkRestore _ => .event
  | .powerOn _ => .event
  | .firstStage _ _ => .event
  | .malukStage => .event
  | .fullReset => .event
  | .thermalThrottle _ _ => .event
  | .thermalRelease _ _ => .event
  | .thermalShutdown _ => .event
  | .patrolScrub _ _ => .event
  | .errorCounterPoll => .event
  | .nop f => .r 0x000 f
  | .bra f => .b 0x001 f
  | .jmpi f => .r 0x002 f
  | .call f => .b 0x003 f
  | .calli f => .r 0x004 f
  | .ret f => .r 0x005 f
  | .exit f => .r 0x006 f
  | .yield f => .r 0x007 f
  | .spawn f => .r 0x008 f
  | .bincfg f => .i 0x009 f
  | .rejn f => .r 0x00A f
  | .rejnCmt f => .r 0x00B f
  | .bar f => .r 0x00C f
  | .bara f => .r 0x00D f
  | .barw f => .r 0x00E f
  | .clset f => .r 0x00F f
  | .waitf f => .i 0x010 f
  | .trap f => .i 0x011 f
  | .svc f => .i 0x012 f
  | .brcT k f => .b (0x020 + k.toNat) f
  | .brcF k f => .b (0x028 + k.toNat) f
  | .bre n k f => .b (0x030 + 4 * n.toNat + k.toNat) f
  | .iadd f => .r 0x040 f
  | .isub f => .r 0x041 f
  | .imul f => .r 0x042 f
  | .imulh f => .r 0x043 f
  | .imad f => .r 0x044 f
  | .imadw f => .r 0x045 f
  | .imin f => .r 0x046 f
  | .imax f => .r 0x047 f
  | .iabs f => .r 0x048 f
  | .ineg f => .r 0x049 f
  | .idiv f => .r 0x04A f
  | .irem f => .r 0x04B f
  | .isad f => .r 0x04C f
  | .isetp f => .r 0x04D f
  | .isel f => .r 0x04E f
  | .lea f => .r 0x04F f
  | .shl f => .r 0x050 f
  | .shr f => .r 0x051 f
  | .sar f => .r 0x052 f
  | .rotl f => .r 0x053 f
  | .iand f => .r 0x054 f
  | .ior f => .r 0x055 f
  | .ixor f => .r 0x056 f
  | .inot f => .r 0x057 f
  | .bfe f => .r 0x058 f
  | .bfi f => .r 0x059 f
  | .popc f => .r 0x05A f
  | .clz f => .r 0x05B f
  | .brev f => .r 0x05C f
  | .prmt f => .r 0x05D f
  | .mov f => .r 0x060 f
  | .movi f => .i 0x061 f
  | .movh f => .i 0x062 f
  | .movrel f => .r 0x063 f
  | .movrw f => .r 0x064 f
  | .winb f => .i 0x065 f
  | .srd f => .i 0x066 f
  | .pand f => .r 0x067 f
  | .por f => .r 0x068 f
  | .pxor f => .r 0x069 f
  | .pnot f => .r 0x06A f
  | .ptov f => .r 0x06B f
  | .vtop f => .r 0x06C f
  | .fadd f => .r 0x080 f
  | .fsub f => .r 0x081 f
  | .fmul f => .r 0x082 f
  | .ffma f => .r 0x083 f
  | .fmin f => .r 0x084 f
  | .fmax f => .r 0x085 f
  | .fabs f => .r 0x086 f
  | .fneg f => .r 0x087 f
  | .fsetp f => .r 0x088 f
  | .fclass f => .r 0x089 f
  | .frcp f => .r 0x08A f
  | .frsq f => .r 0x08B f
  | .fsqrt f => .r 0x08C f
  | .fdiv f => .r 0x08D f
  | .fexp2 f => .r 0x08E f
  | .flog2 f => .r 0x08F f
  | .ftanh f => .r 0x090 f
  | .fsin f => .r 0x091 f
  | .fcos f => .r 0x092 f
  | .fsigm f => .r 0x093 f
  | .ferf f => .r 0x094 f
  | .frnd f => .r 0x095 f
  | .fscale f => .r 0x096 f
  | .hadd2 f => .r 0x0A0 f
  | .hsub2 f => .r 0x0A1 f
  | .hmul2 f => .r 0x0A2 f
  | .hfma2 f => .r 0x0A3 f
  | .hmin2 f => .r 0x0A4 f
  | .hmax2 f => .r 0x0A5 f
  | .habs2 f => .r 0x0A6 f
  | .hsetp2 f => .r 0x0A7 f
  | .hdot2 f => .r 0x0A8 f
  | .htanh2 f => .r 0x0A9 f
  | .hrcp2 f => .r 0x0AA f
  | .cvtf f => .r 0x0C0 f
  | .cvti f => .r 0x0C1 f
  | .cvtif f => .r 0x0C2 f
  | .cvtii f => .r 0x0C3 f
  | .pack8 f => .r 0x0C4 f
  | .unpk8 f => .r 0x0C5 f
  | .pack4 f => .r 0x0C6 f
  | .unpk4 f => .r 0x0C7 f
  | .packds f => .r 0x0C8 f
  | .unpkds f => .r 0x0C9 f
  | .bscale f => .r 0x0CA f
  | .cvt2 f => .r 0x0CB f
  | .shfl f => .r 0x0D0 f
  | .shflx f => .r 0x0D1 f
  | .vote f => .r 0x0D2 f
  | .ballot f => .r 0x0D3 f
  | .ffs f => .r 0x0D4 f
  | .gred f => .r 0x0D5 f
  | .gscan f => .r 0x0D6 f
  | .bcast f => .r 0x0D7 f
  | .gmatch f => .r 0x0D8 f
  | .gcount f => .r 0x0D9 f
  | .wbind f => .r 0x0E0 f
  | .wunb f => .r 0x0E1 f
  | .wpos f => .r 0x0E2 f
  | .dload f => .r 0x0E3 f
  | .dkey f => .r 0x0E4 f
  | .dpos f => .r 0x0E5 f
  | .dget f => .r 0x0E6 f
  | .dset f => .r 0x0E7 f
  | .dskip f => .r 0x0E8 f
  | .dfork f => .r 0x0E9 f
  | .rand f => .r 0x0EA f
  | .dinfo f => .r 0x0EB f
  | .randn f => .r 0x0EC f
  | .dpeek f => .r 0x0ED f
  | .ld f => .r 0x100 f
  | .st f => .r 0x101 f
  | .lds f => .r 0x102 f
  | .sts f => .r 0x103 f
  | .ldo f => .r 0x104 f
  | .ldv f => .r 0x105 f
  | .stt f => .r 0x106 f
  | .pref f => .r 0x107 f
  | .lda f => .r 0x108 f
  | .str f => .r 0x109 f
  | .fence f => .r 0x10A f
  | .atomAdd f => .r 0x10B f
  | .atomFadd f => .r 0x10C f
  | .atomMin f => .r 0x10D f
  | .atomMax f => .r 0x10E f
  | .atomAnd f => .r 0x10F f
  | .atomOr f => .r 0x110 f
  | .atomXor f => .r 0x111 f
  | .atomXchg f => .r 0x112 f
  | .atomCas f => .r 0x113 f
  | .atomInc f => .r 0x114 f
  | .atomDec f => .r 0x115 f
  | .atomHadd2 f => .r 0x116 f
  | .atomsAdd f => .r 0x117 f
  | .atomsCas f => .r 0x118 f
  | .atomsXchg f => .r 0x119 f
  | .copy f => .r 0x120 f
  | .copys f => .r 0x121 f
  | .copym f => .r 0x122 f
  | .copyr f => .r 0x123 f
  | .seminc f => .r 0x124 f
  | .semwait f => .r 0x125 f
  | .semset f => .r 0x126 f
  | .semrd f => .r 0x127 f
  | .tgpost f => .r 0x128 f
  | .tgwait f => .r 0x129 f
  | .tginit f => .r 0x12A f
  | .tglink f => .r 0x12B f
  | .cpst f => .r 0x12C f
  | .mma f => .r 0x140 f
  | .mmaq f => .r 0x141 f
  | .mmas f => .r 0x142 f
  | .join f => .r 0x143 f
  | .pcfg f => .r 0x144 f
  | .pins f => .r 0x145 f
  | .plup f => .r 0x146 f
  | .pcnt f => .r 0x147 f
  | .prd f => .r 0x148 f
  | .pdrn f => .r 0x149 f
  | .pclr f => .r 0x14A f
  | .pdel f => .r 0x14B f
  | .norm f => .r 0x14C f
  | .smrg f => .r 0x14D f
  | .spick f => .r 0x14E f
  | .hpush f => .r 0x14F f
  | .htake f => .r 0x150 f
  | .hbud f => .r 0x151 f
  | .hdel f => .r 0x152 f
  | .hpeek f => .r 0x153 f
  | .hlen f => .r 0x154 f
  | .rmask f => .r 0x155 f
  | .tret f => .r 0x160 f
  | .trrd f => .r 0x161 f
  | .cycrd f => .r 0x162 f
  | .perfrd f => .r 0x163 f
  | .seqbind f => .r 0x164 f
  | .seqrd f => .r 0x165 f
  | .privrd f => .r 0x166 f
  | .privwr f => .r 0x167 f
  | .tlbinv f => .r 0x168 f
  | .ctxsw f => .r 0x169 f
  | .cachefl f => .r 0x16A f
  | .poisclr f => .r 0x16B f
  | .halt f => .r 0x16C f
  | .evpost f => .r 0x16D f
  | .iaddTwin f m => .twin 0x040 f m
  | .isubTwin f m => .twin 0x041 f m
  | .imulTwin f m => .twin 0x042 f m
  | .imulhTwin f m => .twin 0x043 f m
  | .imadTwin f m => .twin 0x044 f m
  | .imadwTwin f m => .twin 0x045 f m
  | .iminTwin f m => .twin 0x046 f m
  | .imaxTwin f m => .twin 0x047 f m
  | .iabsTwin f m => .twin 0x048 f m
  | .inegTwin f m => .twin 0x049 f m
  | .idivTwin f m => .twin 0x04A f m
  | .iremTwin f m => .twin 0x04B f m
  | .isadTwin f m => .twin 0x04C f m
  | .isetpTwin f m => .twin 0x04D f m
  | .iselTwin f m => .twin 0x04E f m
  | .leaTwin f m => .twin 0x04F f m
  | .shlTwin f m => .twin 0x050 f m
  | .shrTwin f m => .twin 0x051 f m
  | .sarTwin f m => .twin 0x052 f m
  | .rotlTwin f m => .twin 0x053 f m
  | .iandTwin f m => .twin 0x054 f m
  | .iorTwin f m => .twin 0x055 f m
  | .ixorTwin f m => .twin 0x056 f m
  | .inotTwin f m => .twin 0x057 f m
  | .bfeTwin f m => .twin 0x058 f m
  | .bfiTwin f m => .twin 0x059 f m
  | .popcTwin f m => .twin 0x05A f m
  | .clzTwin f m => .twin 0x05B f m
  | .brevTwin f m => .twin 0x05C f m
  | .prmtTwin f m => .twin 0x05D f m
  | .movTwin f m => .twin 0x060 f m
  | .moviLiteral f w => .literal f w
  | .faddTwin f m => .twin 0x080 f m
  | .fsubTwin f m => .twin 0x081 f m
  | .fmulTwin f m => .twin 0x082 f m
  | .ffmaTwin f m => .twin 0x083 f m
  | .fminTwin f m => .twin 0x084 f m
  | .fmaxTwin f m => .twin 0x085 f m
  | .fabsTwin f m => .twin 0x086 f m
  | .fnegTwin f m => .twin 0x087 f m
  | .fsetpTwin f m => .twin 0x088 f m
  | .fclassTwin f m => .twin 0x089 f m
  | .frcpTwin f m => .twin 0x08A f m
  | .frsqTwin f m => .twin 0x08B f m
  | .fsqrtTwin f m => .twin 0x08C f m
  | .fdivTwin f m => .twin 0x08D f m
  | .fexp2Twin f m => .twin 0x08E f m
  | .flog2Twin f m => .twin 0x08F f m
  | .ftanhTwin f m => .twin 0x090 f m
  | .fsinTwin f m => .twin 0x091 f m
  | .fcosTwin f m => .twin 0x092 f m
  | .fsigmTwin f m => .twin 0x093 f m
  | .ferfTwin f m => .twin 0x094 f m
  | .frndTwin f m => .twin 0x095 f m
  | .fscaleTwin f m => .twin 0x096 f m
  | .hadd2Twin f m => .twin 0x0A0 f m
  | .hsub2Twin f m => .twin 0x0A1 f m
  | .hmul2Twin f m => .twin 0x0A2 f m
  | .hfma2Twin f m => .twin 0x0A3 f m
  | .hmin2Twin f m => .twin 0x0A4 f m
  | .hmax2Twin f m => .twin 0x0A5 f m
  | .habs2Twin f m => .twin 0x0A6 f m
  | .hsetp2Twin f m => .twin 0x0A7 f m
  | .hdot2Twin f m => .twin 0x0A8 f m
  | .htanh2Twin f m => .twin 0x0A9 f m
  | .hrcp2Twin f m => .twin 0x0AA f m
  | .cvtfTwin f m => .twin 0x0C0 f m
  | .cvtiTwin f m => .twin 0x0C1 f m
  | .cvtifTwin f m => .twin 0x0C2 f m
  | .cvtiiTwin f m => .twin 0x0C3 f m
  | .pack8Twin f m => .twin 0x0C4 f m
  | .unpk8Twin f m => .twin 0x0C5 f m
  | .pack4Twin f m => .twin 0x0C6 f m
  | .unpk4Twin f m => .twin 0x0C7 f m
  | .packdsTwin f m => .twin 0x0C8 f m
  | .unpkdsTwin f m => .twin 0x0C9 f m
  | .bscaleTwin f m => .twin 0x0CA f m
  | .cvt2Twin f m => .twin 0x0CB f m
  | .shflTwin f m => .twin 0x0D0 f m
  | .shflxTwin f m => .twin 0x0D1 f m
  | .voteTwin f m => .twin 0x0D2 f m
  | .ballotTwin f m => .twin 0x0D3 f m
  | .ffsTwin f m => .twin 0x0D4 f m
  | .gredTwin f m => .twin 0x0D5 f m
  | .gscanTwin f m => .twin 0x0D6 f m
  | .bcastTwin f m => .twin 0x0D7 f m
  | .gmatchTwin f m => .twin 0x0D8 f m
  | .gcountTwin f m => .twin 0x0D9 f m
  | .wbindTwin f m => .twin 0x0E0 f m
  | .wunbTwin f m => .twin 0x0E1 f m
  | .wposTwin f m => .twin 0x0E2 f m
  | .dloadTwin f m => .twin 0x0E3 f m
  | .dkeyTwin f m => .twin 0x0E4 f m
  | .dposTwin f m => .twin 0x0E5 f m
  | .dgetTwin f m => .twin 0x0E6 f m
  | .dsetTwin f m => .twin 0x0E7 f m
  | .dskipTwin f m => .twin 0x0E8 f m
  | .dforkTwin f m => .twin 0x0E9 f m
  | .randTwin f m => .twin 0x0EA f m
  | .dinfoTwin f m => .twin 0x0EB f m
  | .randnTwin f m => .twin 0x0EC f m
  | .dpeekTwin f m => .twin 0x0ED f m
  | .ldTwin f m => .twin 0x100 f m
  | .stTwin f m => .twin 0x101 f m
  | .ldsTwin f m => .twin 0x102 f m
  | .stsTwin f m => .twin 0x103 f m
  | .ldoTwin f m => .twin 0x104 f m
  | .ldvTwin f m => .twin 0x105 f m
  | .sttTwin f m => .twin 0x106 f m
  | .prefTwin f m => .twin 0x107 f m
  | .ldaTwin f m => .twin 0x108 f m
  | .strTwin f m => .twin 0x109 f m
  | .fenceTwin f m => .twin 0x10A f m
  | .atomAddTwin f m => .twin 0x10B f m
  | .atomFaddTwin f m => .twin 0x10C f m
  | .atomMinTwin f m => .twin 0x10D f m
  | .atomMaxTwin f m => .twin 0x10E f m
  | .atomAndTwin f m => .twin 0x10F f m
  | .atomOrTwin f m => .twin 0x110 f m
  | .atomXorTwin f m => .twin 0x111 f m
  | .atomXchgTwin f m => .twin 0x112 f m
  | .atomCasTwin f m => .twin 0x113 f m
  | .atomIncTwin f m => .twin 0x114 f m
  | .atomDecTwin f m => .twin 0x115 f m
  | .atomHadd2Twin f m => .twin 0x116 f m
  | .atomsAddTwin f m => .twin 0x117 f m
  | .atomsCasTwin f m => .twin 0x118 f m
  | .atomsXchgTwin f m => .twin 0x119 f m
  | .copyTwin f m => .twin 0x120 f m
  | .copysTwin f m => .twin 0x121 f m
  | .copymTwin f m => .twin 0x122 f m
  | .copyrTwin f m => .twin 0x123 f m
  | .semincTwin f m => .twin 0x124 f m
  | .semwaitTwin f m => .twin 0x125 f m
  | .semsetTwin f m => .twin 0x126 f m
  | .semrdTwin f m => .twin 0x127 f m
  | .tgpostTwin f m => .twin 0x128 f m
  | .tgwaitTwin f m => .twin 0x129 f m
  | .tginitTwin f m => .twin 0x12A f m
  | .tglinkTwin f m => .twin 0x12B f m
  | .cpstTwin f m => .twin 0x12C f m
  | .mmaTwin f m => .twin 0x140 f m
  | .mmaqTwin f m => .twin 0x141 f m
  | .mmasTwin f m => .twin 0x142 f m
  | .joinTwin f m => .twin 0x143 f m
  | .pcfgTwin f m => .twin 0x144 f m
  | .pinsTwin f m => .twin 0x145 f m
  | .plupTwin f m => .twin 0x146 f m
  | .pcntTwin f m => .twin 0x147 f m
  | .prdTwin f m => .twin 0x148 f m
  | .pdrnTwin f m => .twin 0x149 f m
  | .pclrTwin f m => .twin 0x14A f m
  | .pdelTwin f m => .twin 0x14B f m
  | .normTwin f m => .twin 0x14C f m
  | .smrgTwin f m => .twin 0x14D f m
  | .spickTwin f m => .twin 0x14E f m
  | .hpushTwin f m => .twin 0x14F f m
  | .htakeTwin f m => .twin 0x150 f m
  | .hbudTwin f m => .twin 0x151 f m
  | .hdelTwin f m => .twin 0x152 f m
  | .hpeekTwin f m => .twin 0x153 f m
  | .hlenTwin f m => .twin 0x154 f m
  | .rmaskTwin f m => .twin 0x155 f m
  | .send f => .sr 0 f
  | .sjmp f => .sb 1 f
  | .sbrz f => .sb 2 f
  | .sbrnz f => .sb 3 f
  | .sloop f => .sb 4 f
  | .salu f => .sr 5 f
  | .salui f => .sf 6 f
  | .smovi f => .si 7 f
  | .sld f => .si 8 f
  | .sst f => .si 9 f
  | .sfence f => .sr 10 f
  | .ssem f => .sr 11 f
  | .skey f => .sr 12 f
  | .vld f => .sr 13 f
  | .vst f => .sr 14 f
  | .valu f => .sr 15 f
  | .vfma f => .sr 16 f
  | .vsqrt f => .sr 17 f
  | .vdiv f => .sr 18 f
  | .vbcast f => .sr 19 f
  | .vred f => .sr 20 f
  | .vcmp f => .sr 21 f
  | .vsel f => .sr 22 f
  | .vspk f => .sr 23 f
  | .sessionEndpointFails _ => .event
  | .walkEnd _ => .event
  | .svcOtherService _ => .event
  | .queryOtherSubject _ => .event
  | .malformedRequest _ => .event
  | .coreRestart _ => .event
  | .malukHeapPush _ _ => .event
  | .packetRetransmit _ _ => .event

/-- The rejection of an instruction that is not well formed; `none` for a well-formed one. -/
def check (i : Instr) : Option DecodeError :=
  match view i with
  | .event => none
  | .r op f =>
    match entryOf op with
    | none => some .unassigned
    | some e => if fieldsOk e (baseMod e) f then none else some .badField
  | .i op f =>
    match entryOf op with
    | none => some .unassigned
    | some e =>
      if (op == 0x066 || fieldOk e (baseMod e) e.d f.d.toNat) && immOk op f then none else some .badField
  | .b op _ =>
    match entryOf op with
    | none => some .unassigned
    | some _ => none
  | .twin op f m =>
    match entryOf op with
    | none => some .unassigned
    | some e =>
      if !modOk e f.b m then some .badModifier
      else if fieldsOk e m f then none else some .badField
  | .literal f _ => if f.imm == 0 && decide (f.d.toNat ≤ 116) then none else some .badField
  | .sr op f => if srOk op f then none else some .badField
  | .si op f => if siOk op f then none else some .badField
  | .sf _ f => if f.d.toNat < 16 && f.a.toNat < 16 && f.fn.toNat < 12 then none else some .badField
  | .sb op f => if f.z == 0 && (if op == 1 then f.a == 0 else f.a.toNat < 16) then none else some .badField

/-- The instruction is well formed. -/
def wellFormed (i : Instr) : Bool := (check i).isNone

end Sys2Proof
end

