-- ==== Sys2Proof/Decode.lean ====
section
/-! DEFINITION. The decoder of Plalarak words (spec/07 R131-R140) and of shroud words (spec/12 R294, R295), total on
any bits and rejecting by name, and the encoder, both written from the encoding tables of the spec. Definitions that
build an instruction are marked so that Lean makes no code for them: its runtime has no more than 244 constructors with
fields in one inductive; the kernel evaluates them. -/

namespace Sys2Proof

open Sys2Proof.Machine

/-- The fields of a word in formats R, K and I7 (R131). -/
def frOf (w : W32) : FR :=
  { u := w.getLsbD 31, d := w.extractLsb' 14 7, a := w.extractLsb' 7 7, b := w.extractLsb' 0 7 }
/-- The fields of a word in format I14 (R131). -/
def fiOf (w : W32) : FI := { u := w.getLsbD 31, d := w.extractLsb' 14 7, imm := w.extractLsb' 0 14 }
/-- The fields of a word in format B (R131). -/
def fbOf (w : W32) : FB := { u := w.getLsbD 31, off := w.extractLsb' 0 21 }
/-- The fields of a modifier word (R135). -/
def modOf (w : W32) : Mod :=
  { rnd := w.extractLsb' 29 3, sat := w.getLsbD 28, scope := w.extractLsb' 25 3, ty := w.extractLsb' 22 3,
    lit := w.getLsbD 21, low := w.extractLsb' 0 21 }
/-- The fields of a shroud word in format SR (R294). -/
def srOf (w : W32) : SR :=
  { d := w.extractLsb' 22 5, a := w.extractLsb' 17 5, b := w.extractLsb' 12 5, f := w.extractLsb' 0 12 }
/-- The fields of a shroud word in format SI (R294). -/
def siOf (w : W32) : SI := { d := w.extractLsb' 22 5, a := w.extractLsb' 17 5, imm := w.extractLsb' 0 17 }
/-- The fields of a shroud word in format SF (R294). -/
def sfOf (w : W32) : SF :=
  { d := w.extractLsb' 22 5, a := w.extractLsb' 17 5, fn := w.extractLsb' 13 4, imm := w.extractLsb' 0 13 }
/-- The fields of a shroud word in format SB (R294). -/
def sbOf (w : W32) : SB := { a := w.extractLsb' 22 5, z := w.extractLsb' 17 5, off := w.extractLsb' 0 17 }

/-- The opcode of a word, bit 30 (X) left out (R131, R134). -/
def opcodeOf (w : W32) : Nat := (w.extractLsb' 21 9).toNat
/-- Bit X: the word is a twin (R134). -/
def isTwin (w : W32) : Bool := w.getLsbD 30

/-- Entry of the row: the first pair with this key. -/
def look {α : Type} (k : Nat) : List (Nat × α) → Option α
  | [] => none
  | (j, x) :: l => if k = j then some x else look k l

/-- The instructions of row 0x00 (R137). -/
noncomputable def baseRow00 (w : W32) : List (Nat × Instr) := [
  (0, .nop (frOf w)),
  (1, .bra (fbOf w)),
  (2, .jmpi (frOf w)),
  (3, .call (fbOf w)),
  (4, .calli (frOf w)),
  (5, .ret (frOf w)),
  (6, .exit (frOf w)),
  (7, .yield (frOf w)),
  (8, .spawn (frOf w)),
  (9, .bincfg (fiOf w)),
  (10, .rejn (frOf w)),
  (11, .rejnCmt (frOf w)),
  (12, .bar (frOf w)),
  (13, .bara (frOf w)),
  (14, .barw (frOf w)),
  (15, .clset (frOf w)),
  (16, .waitf (fiOf w)),
  (17, .trap (fiOf w)),
  (18, .svc (fiOf w))]

/-- The instructions of row 0x02 (R137). -/
noncomputable def baseRow02 (w : W32) : List (Nat × Instr) := [
  (0, .iadd (frOf w)),
  (1, .isub (frOf w)),
  (2, .imul (frOf w)),
  (3, .imulh (frOf w)),
  (4, .imad (frOf w)),
  (5, .imadw (frOf w)),
  (6, .imin (frOf w)),
  (7, .imax (frOf w)),
  (8, .iabs (frOf w)),
  (9, .ineg (frOf w)),
  (10, .idiv (frOf w)),
  (11, .irem (frOf w)),
  (12, .isad (frOf w)),
  (13, .isetp (frOf w)),
  (14, .isel (frOf w)),
  (15, .lea (frOf w)),
  (16, .shl (frOf w)),
  (17, .shr (frOf w)),
  (18, .sar (frOf w)),
  (19, .rotl (frOf w)),
  (20, .iand (frOf w)),
  (21, .ior (frOf w)),
  (22, .ixor (frOf w)),
  (23, .inot (frOf w)),
  (24, .bfe (frOf w)),
  (25, .bfi (frOf w)),
  (26, .popc (frOf w)),
  (27, .clz (frOf w)),
  (28, .brev (frOf w)),
  (29, .prmt (frOf w))]

/-- The instructions of row 0x03 (R137). -/
noncomputable def baseRow03 (w : W32) : List (Nat × Instr) := [
  (0, .mov (frOf w)),
  (1, .movi (fiOf w)),
  (2, .movh (fiOf w)),
  (3, .movrel (frOf w)),
  (4, .movrw (frOf w)),
  (5, .winb (fiOf w)),
  (6, .srd (fiOf w)),
  (7, .pand (frOf w)),
  (8, .por (frOf w)),
  (9, .pxor (frOf w)),
  (10, .pnot (frOf w)),
  (11, .ptov (frOf w)),
  (12, .vtop (frOf w))]

/-- The instructions of row 0x04 (R137). -/
noncomputable def baseRow04 (w : W32) : List (Nat × Instr) := [
  (0, .fadd (frOf w)),
  (1, .fsub (frOf w)),
  (2, .fmul (frOf w)),
  (3, .ffma (frOf w)),
  (4, .fmin (frOf w)),
  (5, .fmax (frOf w)),
  (6, .fabs (frOf w)),
  (7, .fneg (frOf w)),
  (8, .fsetp (frOf w)),
  (9, .fclass (frOf w)),
  (10, .frcp (frOf w)),
  (11, .frsq (frOf w)),
  (12, .fsqrt (frOf w)),
  (13, .fdiv (frOf w)),
  (14, .fexp2 (frOf w)),
  (15, .flog2 (frOf w)),
  (16, .ftanh (frOf w)),
  (17, .fsin (frOf w)),
  (18, .fcos (frOf w)),
  (19, .fsigm (frOf w)),
  (20, .ferf (frOf w)),
  (21, .frnd (frOf w)),
  (22, .fscale (frOf w))]

/-- The instructions of row 0x05 (R137). -/
noncomputable def baseRow05 (w : W32) : List (Nat × Instr) := [
  (0, .hadd2 (frOf w)),
  (1, .hsub2 (frOf w)),
  (2, .hmul2 (frOf w)),
  (3, .hfma2 (frOf w)),
  (4, .hmin2 (frOf w)),
  (5, .hmax2 (frOf w)),
  (6, .habs2 (frOf w)),
  (7, .hsetp2 (frOf w)),
  (8, .hdot2 (frOf w)),
  (9, .htanh2 (frOf w)),
  (10, .hrcp2 (frOf w))]

/-- The instructions of row 0x06 (R137). -/
noncomputable def baseRow06 (w : W32) : List (Nat × Instr) := [
  (0, .cvtf (frOf w)),
  (1, .cvti (frOf w)),
  (2, .cvtif (frOf w)),
  (3, .cvtii (frOf w)),
  (4, .pack8 (frOf w)),
  (5, .unpk8 (frOf w)),
  (6, .pack4 (frOf w)),
  (7, .unpk4 (frOf w)),
  (8, .packds (frOf w)),
  (9, .unpkds (frOf w)),
  (10, .bscale (frOf w)),
  (11, .cvt2 (frOf w)),
  (16, .shfl (frOf w)),
  (17, .shflx (frOf w)),
  (18, .vote (frOf w)),
  (19, .ballot (frOf w)),
  (20, .ffs (frOf w)),
  (21, .gred (frOf w)),
  (22, .gscan (frOf w)),
  (23, .bcast (frOf w)),
  (24, .gmatch (frOf w)),
  (25, .gcount (frOf w))]

/-- The instructions of row 0x07 (R137). -/
noncomputable def baseRow07 (w : W32) : List (Nat × Instr) := [
  (0, .wbind (frOf w)),
  (1, .wunb (frOf w)),
  (2, .wpos (frOf w)),
  (3, .dload (frOf w)),
  (4, .dkey (frOf w)),
  (5, .dpos (frOf w)),
  (6, .dget (frOf w)),
  (7, .dset (frOf w)),
  (8, .dskip (frOf w)),
  (9, .dfork (frOf w)),
  (10, .rand (frOf w)),
  (11, .dinfo (frOf w)),
  (12, .randn (frOf w)),
  (13, .dpeek (frOf w))]

/-- The instructions of row 0x08 (R137). -/
noncomputable def baseRow08 (w : W32) : List (Nat × Instr) := [
  (0, .ld (frOf w)),
  (1, .st (frOf w)),
  (2, .lds (frOf w)),
  (3, .sts (frOf w)),
  (4, .ldo (frOf w)),
  (5, .ldv (frOf w)),
  (6, .stt (frOf w)),
  (7, .pref (frOf w)),
  (8, .lda (frOf w)),
  (9, .str (frOf w)),
  (10, .fence (frOf w)),
  (11, .atomAdd (frOf w)),
  (12, .atomFadd (frOf w)),
  (13, .atomMin (frOf w)),
  (14, .atomMax (frOf w)),
  (15, .atomAnd (frOf w)),
  (16, .atomOr (frOf w)),
  (17, .atomXor (frOf w)),
  (18, .atomXchg (frOf w)),
  (19, .atomCas (frOf w)),
  (20, .atomInc (frOf w)),
  (21, .atomDec (frOf w)),
  (22, .atomHadd2 (frOf w)),
  (23, .atomsAdd (frOf w)),
  (24, .atomsCas (frOf w)),
  (25, .atomsXchg (frOf w))]

/-- The instructions of row 0x09 (R137). -/
noncomputable def baseRow09 (w : W32) : List (Nat × Instr) := [
  (0, .copy (frOf w)),
  (1, .copys (frOf w)),
  (2, .copym (frOf w)),
  (3, .copyr (frOf w)),
  (4, .seminc (frOf w)),
  (5, .semwait (frOf w)),
  (6, .semset (frOf w)),
  (7, .semrd (frOf w)),
  (8, .tgpost (frOf w)),
  (9, .tgwait (frOf w)),
  (10, .tginit (frOf w)),
  (11, .tglink (frOf w)),
  (12, .cpst (frOf w))]

/-- The instructions of row 0x0A (R137). -/
noncomputable def baseRow0A (w : W32) : List (Nat × Instr) := [
  (0, .mma (frOf w)),
  (1, .mmaq (frOf w)),
  (2, .mmas (frOf w)),
  (3, .join (frOf w)),
  (4, .pcfg (frOf w)),
  (5, .pins (frOf w)),
  (6, .plup (frOf w)),
  (7, .pcnt (frOf w)),
  (8, .prd (frOf w)),
  (9, .pdrn (frOf w)),
  (10, .pclr (frOf w)),
  (11, .pdel (frOf w)),
  (12, .norm (frOf w)),
  (13, .smrg (frOf w)),
  (14, .spick (frOf w)),
  (15, .hpush (frOf w)),
  (16, .htake (frOf w)),
  (17, .hbud (frOf w)),
  (18, .hdel (frOf w)),
  (19, .hpeek (frOf w)),
  (20, .hlen (frOf w)),
  (21, .rmask (frOf w))]

/-- The instructions of row 0x0B (R137). -/
noncomputable def baseRow0B (w : W32) : List (Nat × Instr) := [
  (0, .tret (frOf w)),
  (1, .trrd (frOf w)),
  (2, .cycrd (frOf w)),
  (3, .perfrd (frOf w)),
  (4, .seqbind (frOf w)),
  (5, .seqrd (frOf w)),
  (6, .privrd (frOf w)),
  (7, .privwr (frOf w)),
  (8, .tlbinv (frOf w)),
  (9, .ctxsw (frOf w)),
  (10, .cachefl (frOf w)),
  (11, .poisclr (frOf w)),
  (12, .halt (frOf w)),
  (13, .evpost (frOf w))]

/-- The branches of row 0x01 (R137): predicate or end flag in the opcode. -/
noncomputable def branchRow (cell : Nat) (w : W32) : Option Instr :=
  if cell < 8 then some (.brcT (BitVec.ofNat 3 cell) (fbOf w))
  else if cell < 16 then some (.brcF (BitVec.ofNat 3 cell) (fbOf w))
  else some (.bre (BitVec.ofNat 2 (cell / 4)) (BitVec.ofNat 2 cell) (fbOf w))

/-- The base instruction of an opcode (R137). -/
noncomputable def baseInstr (op : Nat) (w : W32) : Option Instr :=
  match op / 32 with
  | 0 => look (op % 32) (baseRow00 w)
  | 1 => branchRow (op % 32) w
  | 2 => look (op % 32) (baseRow02 w)
  | 3 => look (op % 32) (baseRow03 w)
  | 4 => look (op % 32) (baseRow04 w)
  | 5 => look (op % 32) (baseRow05 w)
  | 6 => look (op % 32) (baseRow06 w)
  | 7 => look (op % 32) (baseRow07 w)
  | 8 => look (op % 32) (baseRow08 w)
  | 9 => look (op % 32) (baseRow09 w)
  | 10 => look (op % 32) (baseRow0A w)
  | 11 => look (op % 32) (baseRow0B w)
  | _ => none

/-- The twins of row 0x12 (R138). -/
noncomputable def twinRow12 (w x : W32) : List (Nat × Instr) := [
  (0, .iaddTwin (frOf w) (modOf x)),
  (1, .isubTwin (frOf w) (modOf x)),
  (2, .imulTwin (frOf w) (modOf x)),
  (3, .imulhTwin (frOf w) (modOf x)),
  (4, .imadTwin (frOf w) (modOf x)),
  (5, .imadwTwin (frOf w) (modOf x)),
  (6, .iminTwin (frOf w) (modOf x)),
  (7, .imaxTwin (frOf w) (modOf x)),
  (8, .iabsTwin (frOf w) (modOf x)),
  (9, .inegTwin (frOf w) (modOf x)),
  (10, .idivTwin (frOf w) (modOf x)),
  (11, .iremTwin (frOf w) (modOf x)),
  (12, .isadTwin (frOf w) (modOf x)),
  (13, .isetpTwin (frOf w) (modOf x)),
  (14, .iselTwin (frOf w) (modOf x)),
  (15, .leaTwin (frOf w) (modOf x)),
  (16, .shlTwin (frOf w) (modOf x)),
  (17, .shrTwin (frOf w) (modOf x)),
  (18, .sarTwin (frOf w) (modOf x)),
  (19, .rotlTwin (frOf w) (modOf x)),
  (20, .iandTwin (frOf w) (modOf x)),
  (21, .iorTwin (frOf w) (modOf x)),
  (22, .ixorTwin (frOf w) (modOf x)),
  (23, .inotTwin (frOf w) (modOf x)),
  (24, .bfeTwin (frOf w) (modOf x)),
  (25, .bfiTwin (frOf w) (modOf x)),
  (26, .popcTwin (frOf w) (modOf x)),
  (27, .clzTwin (frOf w) (modOf x)),
  (28, .brevTwin (frOf w) (modOf x)),
  (29, .prmtTwin (frOf w) (modOf x))]

/-- The twins of row 0x13 (R138). -/
noncomputable def twinRow13 (w x : W32) : List (Nat × Instr) := [
  (0, .movTwin (frOf w) (modOf x)),
  (1, .moviLiteral (fiOf w) x)]

/-- The twins of row 0x14 (R138). -/
noncomputable def twinRow14 (w x : W32) : List (Nat × Instr) := [
  (0, .faddTwin (frOf w) (modOf x)),
  (1, .fsubTwin (frOf w) (modOf x)),
  (2, .fmulTwin (frOf w) (modOf x)),
  (3, .ffmaTwin (frOf w) (modOf x)),
  (4, .fminTwin (frOf w) (modOf x)),
  (5, .fmaxTwin (frOf w) (modOf x)),
  (6, .fabsTwin (frOf w) (modOf x)),
  (7, .fnegTwin (frOf w) (modOf x)),
  (8, .fsetpTwin (frOf w) (modOf x)),
  (9, .fclassTwin (frOf w) (modOf x)),
  (10, .frcpTwin (frOf w) (modOf x)),
  (11, .frsqTwin (frOf w) (modOf x)),
  (12, .fsqrtTwin (frOf w) (modOf x)),
  (13, .fdivTwin (frOf w) (modOf x)),
  (14, .fexp2Twin (frOf w) (modOf x)),
  (15, .flog2Twin (frOf w) (modOf x)),
  (16, .ftanhTwin (frOf w) (modOf x)),
  (17, .fsinTwin (frOf w) (modOf x)),
  (18, .fcosTwin (frOf w) (modOf x)),
  (19, .fsigmTwin (frOf w) (modOf x)),
  (20, .ferfTwin (frOf w) (modOf x)),
  (21, .frndTwin (frOf w) (modOf x)),
  (22, .fscaleTwin (frOf w) (modOf x))]

/-- The twins of row 0x15 (R138). -/
noncomputable def twinRow15 (w x : W32) : List (Nat × Instr) := [
  (0, .hadd2Twin (frOf w) (modOf x)),
  (1, .hsub2Twin (frOf w) (modOf x)),
  (2, .hmul2Twin (frOf w) (modOf x)),
  (3, .hfma2Twin (frOf w) (modOf x)),
  (4, .hmin2Twin (frOf w) (modOf x)),
  (5, .hmax2Twin (frOf w) (modOf x)),
  (6, .habs2Twin (frOf w) (modOf x)),
  (7, .hsetp2Twin (frOf w) (modOf x)),
  (8, .hdot2Twin (frOf w) (modOf x)),
  (9, .htanh2Twin (frOf w) (modOf x)),
  (10, .hrcp2Twin (frOf w) (modOf x))]

/-- The twins of row 0x16 (R138). -/
noncomputable def twinRow16 (w x : W32) : List (Nat × Instr) := [
  (0, .cvtfTwin (frOf w) (modOf x)),
  (1, .cvtiTwin (frOf w) (modOf x)),
  (2, .cvtifTwin (frOf w) (modOf x)),
  (3, .cvtiiTwin (frOf w) (modOf x)),
  (4, .pack8Twin (frOf w) (modOf x)),
  (5, .unpk8Twin (frOf w) (modOf x)),
  (6, .pack4Twin (frOf w) (modOf x)),
  (7, .unpk4Twin (frOf w) (modOf x)),
  (8, .packdsTwin (frOf w) (modOf x)),
  (9, .unpkdsTwin (frOf w) (modOf x)),
  (10, .bscaleTwin (frOf w) (modOf x)),
  (11, .cvt2Twin (frOf w) (modOf x)),
  (16, .shflTwin (frOf w) (modOf x)),
  (17, .shflxTwin (frOf w) (modOf x)),
  (18, .voteTwin (frOf w) (modOf x)),
  (19, .ballotTwin (frOf w) (modOf x)),
  (20, .ffsTwin (frOf w) (modOf x)),
  (21, .gredTwin (frOf w) (modOf x)),
  (22, .gscanTwin (frOf w) (modOf x)),
  (23, .bcastTwin (frOf w) (modOf x)),
  (24, .gmatchTwin (frOf w) (modOf x)),
  (25, .gcountTwin (frOf w) (modOf x))]

/-- The twins of row 0x17 (R138). -/
noncomputable def twinRow17 (w x : W32) : List (Nat × Instr) := [
  (0, .wbindTwin (frOf w) (modOf x)),
  (1, .wunbTwin (frOf w) (modOf x)),
  (2, .wposTwin (frOf w) (modOf x)),
  (3, .dloadTwin (frOf w) (modOf x)),
  (4, .dkeyTwin (frOf w) (modOf x)),
  (5, .dposTwin (frOf w) (modOf x)),
  (6, .dgetTwin (frOf w) (modOf x)),
  (7, .dsetTwin (frOf w) (modOf x)),
  (8, .dskipTwin (frOf w) (modOf x)),
  (9, .dforkTwin (frOf w) (modOf x)),
  (10, .randTwin (frOf w) (modOf x)),
  (11, .dinfoTwin (frOf w) (modOf x)),
  (12, .randnTwin (frOf w) (modOf x)),
  (13, .dpeekTwin (frOf w) (modOf x))]

/-- The twins of row 0x18 (R138). -/
noncomputable def twinRow18 (w x : W32) : List (Nat × Instr) := [
  (0, .ldTwin (frOf w) (modOf x)),
  (1, .stTwin (frOf w) (modOf x)),
  (2, .ldsTwin (frOf w) (modOf x)),
  (3, .stsTwin (frOf w) (modOf x)),
  (4, .ldoTwin (frOf w) (modOf x)),
  (5, .ldvTwin (frOf w) (modOf x)),
  (6, .sttTwin (frOf w) (modOf x)),
  (7, .prefTwin (frOf w) (modOf x)),
  (8, .ldaTwin (frOf w) (modOf x)),
  (9, .strTwin (frOf w) (modOf x)),
  (10, .fenceTwin (frOf w) (modOf x)),
  (11, .atomAddTwin (frOf w) (modOf x)),
  (12, .atomFaddTwin (frOf w) (modOf x)),
  (13, .atomMinTwin (frOf w) (modOf x)),
  (14, .atomMaxTwin (frOf w) (modOf x)),
  (15, .atomAndTwin (frOf w) (modOf x)),
  (16, .atomOrTwin (frOf w) (modOf x)),
  (17, .atomXorTwin (frOf w) (modOf x)),
  (18, .atomXchgTwin (frOf w) (modOf x)),
  (19, .atomCasTwin (frOf w) (modOf x)),
  (20, .atomIncTwin (frOf w) (modOf x)),
  (21, .atomDecTwin (frOf w) (modOf x)),
  (22, .atomHadd2Twin (frOf w) (modOf x)),
  (23, .atomsAddTwin (frOf w) (modOf x)),
  (24, .atomsCasTwin (frOf w) (modOf x)),
  (25, .atomsXchgTwin (frOf w) (modOf x))]

/-- The twins of row 0x19 (R138). -/
noncomputable def twinRow19 (w x : W32) : List (Nat × Instr) := [
  (0, .copyTwin (frOf w) (modOf x)),
  (1, .copysTwin (frOf w) (modOf x)),
  (2, .copymTwin (frOf w) (modOf x)),
  (3, .copyrTwin (frOf w) (modOf x)),
  (4, .semincTwin (frOf w) (modOf x)),
  (5, .semwaitTwin (frOf w) (modOf x)),
  (6, .semsetTwin (frOf w) (modOf x)),
  (7, .semrdTwin (frOf w) (modOf x)),
  (8, .tgpostTwin (frOf w) (modOf x)),
  (9, .tgwaitTwin (frOf w) (modOf x)),
  (10, .tginitTwin (frOf w) (modOf x)),
  (11, .tglinkTwin (frOf w) (modOf x)),
  (12, .cpstTwin (frOf w) (modOf x))]

/-- The twins of row 0x1A (R138). -/
noncomputable def twinRow1A (w x : W32) : List (Nat × Instr) := [
  (0, .mmaTwin (frOf w) (modOf x)),
  (1, .mmaqTwin (frOf w) (modOf x)),
  (2, .mmasTwin (frOf w) (modOf x)),
  (3, .joinTwin (frOf w) (modOf x)),
  (4, .pcfgTwin (frOf w) (modOf x)),
  (5, .pinsTwin (frOf w) (modOf x)),
  (6, .plupTwin (frOf w) (modOf x)),
  (7, .pcntTwin (frOf w) (modOf x)),
  (8, .prdTwin (frOf w) (modOf x)),
  (9, .pdrnTwin (frOf w) (modOf x)),
  (10, .pclrTwin (frOf w) (modOf x)),
  (11, .pdelTwin (frOf w) (modOf x)),
  (12, .normTwin (frOf w) (modOf x)),
  (13, .smrgTwin (frOf w) (modOf x)),
  (14, .spickTwin (frOf w) (modOf x)),
  (15, .hpushTwin (frOf w) (modOf x)),
  (16, .htakeTwin (frOf w) (modOf x)),
  (17, .hbudTwin (frOf w) (modOf x)),
  (18, .hdelTwin (frOf w) (modOf x)),
  (19, .hpeekTwin (frOf w) (modOf x)),
  (20, .hlenTwin (frOf w) (modOf x)),
  (21, .rmaskTwin (frOf w) (modOf x))]

/-- The twin of an opcode with its extension word (R134, R138). -/
noncomputable def twinInstr (op : Nat) (w x : W32) : Option Instr :=
  match op / 32 with
  | 2 => look (op % 32) (twinRow12 w x)
  | 3 => look (op % 32) (twinRow13 w x)
  | 4 => look (op % 32) (twinRow14 w x)
  | 5 => look (op % 32) (twinRow15 w x)
  | 6 => look (op % 32) (twinRow16 w x)
  | 7 => look (op % 32) (twinRow17 w x)
  | 8 => look (op % 32) (twinRow18 w x)
  | 9 => look (op % 32) (twinRow19 w x)
  | 10 => look (op % 32) (twinRow1A w x)
  | _ => none

/-- Decode one instruction word with the word that follows it (R134, R139). -/
noncomputable def decodeWord (w : W32) (next : Option W32) : Except DecodeError Instr :=
  let found : Except DecodeError Instr :=
    if isTwin w then
      match twinInstr (opcodeOf w) w 0 with
      | none => .error .unassigned
      | some _ =>
        match next with
        | none => .error .noExtension
        | some x =>
          match twinInstr (opcodeOf w) w x with
          | some i => .ok i
          | none => .error .unassigned
    else
      match baseInstr (opcodeOf w) w with
      | some i => .ok i
      | none => .error .unassigned
  match found with
  | .error e => .error e
  | .ok i =>
    match check i with
    | some e => .error e
    | none => .ok i

/-- The slots an instruction word takes: two for a twin (R134). -/
def slotsOf (w : W32) : Nat := if isTwin w then 2 else 1

/-- The shroud instruction of an opcode (R294). -/
noncomputable def shroudRow (w : W32) : List (Nat × Instr) := [
  (0, .send (srOf w)),
  (1, .sjmp (sbOf w)),
  (2, .sbrz (sbOf w)),
  (3, .sbrnz (sbOf w)),
  (4, .sloop (sbOf w)),
  (5, .salu (srOf w)),
  (6, .salui (sfOf w)),
  (7, .smovi (siOf w)),
  (8, .sld (siOf w)),
  (9, .sst (siOf w)),
  (10, .sfence (srOf w)),
  (11, .ssem (srOf w)),
  (12, .skey (srOf w)),
  (13, .vld (srOf w)),
  (14, .vst (srOf w)),
  (15, .valu (srOf w)),
  (16, .vfma (srOf w)),
  (17, .vsqrt (srOf w)),
  (18, .vdiv (srOf w)),
  (19, .vbcast (srOf w)),
  (20, .vred (srOf w)),
  (21, .vcmp (srOf w)),
  (22, .vsel (srOf w)),
  (23, .vspk (srOf w))]

/-- Decode one shroud word (R294, R295). -/
noncomputable def decodeShroud (w : W32) : Except DecodeError Instr :=
  match look (w.extractLsb' 27 5).toNat (shroudRow w) with
  | none => .error .unassigned
  | some i =>
    match check i with
    | some e => .error e
    | none => .ok i

/-- The little-endian word at the head of a list of bytes (R2, R122). -/
def wordAt : List Byte → Option W32
  | a :: b :: c :: d :: _ => some (d ++ c ++ b ++ a)
  | _ => none

/-- Decode the instruction at the head of a list of text bytes (R122, R134). -/
noncomputable def decodeBytes (bs : List Byte) : Except DecodeError Instr :=
  match wordAt bs with
  | none => .error .shortText
  | some w => decodeWord w (wordAt (bs.drop 4))

/-- Decode the shroud instruction at the head of a list of bytes (R294). -/
noncomputable def decodeShroudBytes (bs : List Byte) : Except DecodeError Instr :=
  match wordAt bs with
  | none => .error .shortText
  | some w => decodeShroud w

/-- The bytes of an instruction whose bits are w, numbered as the opcode table numbers them: 8 bytes, the bits above
nbits zero. -/
def tableBytes (nbits w : Nat) : List Byte := leBytes 8 (w % 2 ^ nbits)

/-- The instruction the decoder reads from a table word: the core decoder's, or, where it refuses, the shroud
decoder's (the two encoding spaces overlap, R137). -/
noncomputable def decodeTableWord (nbits w : Nat) : Option Instr :=
  match decodeBytes (tableBytes nbits w) with
  | .ok i => some i
  | .error _ =>
    match decodeShroudBytes (tableBytes nbits w) with
    | .ok i => some i
    | .error _ => none

/-- The bit of a Boolean field. -/
def bit1 (b : Bool) : BitVec 1 := BitVec.ofBool b

/-- Words of formats R, K and I7 (R131). -/
def wordR (x : BitVec 1) (op : Nat) (f : FR) : W32 := bit1 f.u ++ x ++ BitVec.ofNat 9 op ++ f.d ++ f.a ++ f.b
/-- Words of format I14 (R131). -/
def wordI (x : BitVec 1) (op : Nat) (f : FI) : W32 := bit1 f.u ++ x ++ BitVec.ofNat 9 op ++ f.d ++ f.imm
/-- Words of format B (R131). -/
def wordB (op : Nat) (f : FB) : W32 := bit1 f.u ++ (0 : BitVec 1) ++ BitVec.ofNat 9 op ++ f.off
/-- The modifier word (R135). -/
def wordM (m : Mod) : W32 := m.rnd ++ bit1 m.sat ++ m.scope ++ m.ty ++ bit1 m.lit ++ m.low

/-- The words of an instruction (R131, R134, R135, R294); a machine event has none. -/
def encode (i : Instr) : List W32 :=
  match view i with
  | .r op f => [wordR 0 op f]
  | .i op f => [wordI 0 op f]
  | .b op f => [wordB op f]
  | .twin op f m => [wordR 1 op f, wordM m]
  | .literal f w => [wordI 1 0x061 f, w]
  | .sr op f => [BitVec.ofNat 5 op ++ f.d ++ f.a ++ f.b ++ f.f]
  | .si op f => [BitVec.ofNat 5 op ++ f.d ++ f.a ++ f.imm]
  | .sf op f => [BitVec.ofNat 5 op ++ f.d ++ f.a ++ f.fn ++ f.imm]
  | .sb op f => [BitVec.ofNat 5 op ++ f.a ++ f.z ++ f.off]
  | .event => []

/-- Decode a list of words by the core decoder. -/
noncomputable def decodeWords (ws : List W32) : Except DecodeError Instr :=
  match ws with
  | [] => .error .shortText
  | w :: ws => decodeWord w ws.head?

/-- The instruction belongs to the core's instruction set. -/
def isCore (i : Instr) : Bool :=
  match view i with
  | .r _ _ => true
  | .i _ _ => true
  | .b _ _ => true
  | .twin _ _ _ => true
  | .literal _ _ => true
  | _ => false

/-- The instruction is a machine event. -/
def isEvent (i : Instr) : Bool :=
  match view i with
  | .event => true
  | _ => false

end Sys2Proof
end

