-- ==== Sys2Proof/Config.lean ====
section
/-! DEFINITION. What the part fixes (spec/01 R8, R12, R13, R14), and what an implementation, its fuses, its firmware
image or its policy fix and the spec does not: opaque constants, so that no proof can rest on a value of them. -/

namespace Sys2Proof.Config

/-- Compute dies (R8). -/
def dies : Nat := 8
/-- Cores of a die (R8). -/
def coresPerDie : Nat := 48
/-- Cores of the package (R8). -/
def cores : Nat := 384
/-- Clusters of the package (R8). -/
def clusters : Nat := 192
/-- Shrouds of the package (R8). -/
def shrouds : Nat := 128
/-- Mast cores (R8). -/
def mastCores : Nat := 8
/-- Lanes of a core (R8). -/
def lanes : Nat := 64
/-- Ports (R8). -/
def ports : Nat := 8
/-- Groups a lane holds at most (R24). -/
def groupsPerLane : Nat := 4
/-- Budgets of a core (R13, R332). -/
def coreGroups : Nat := 256
def coreThreads : Nat := 8192
def coreRegs : Nat := 524288
def coreBarriers : Nat := 64
def corePockets : Nat := 2048
/-- Scratchpad of a cluster in bytes (R8, R332). -/
def clusterScratch : Nat := 3145728
/-- Copies of a core that are not complete (R242). -/
def coreCopies : Nat := 64
/-- Entries of an admission heap (R14). -/
def heapEntries : Nat := 4096
/-- Records of a shroud queue (R290). -/
def shroudQueue : Nat := 4096
/-- Slots of the EVPOST queue (R360). -/
def evqSlots : Nat := 256
/-- Feature bits the part can grant (R324). -/
def featureMask : Nat := 1023

/-- The part's results of the approximating instructions away from their exact points (R191, R192;
notes/assumptions/4.md). -/
opaque approx : Nat → W32 → W32
/-- A result that a rule leaves unstated for some operands: the case, and the operands. -/
opaque unstated : Nat → List W32 → W32
/-- Which value an overlapping copy's element receives (R233), fresh for each count: true the one written by the copy. -/
opaque copyPick : Nat → Bool

/-- The hashes of the boot keys, fused in the I/O die (R398). -/
opaque fusedEcdsa : List Byte
opaque fusedLms : List Byte
/-- The boot keys whose hashes are fused: a point of P-384, and an LMS key's identifier and root (R398). -/
opaque bootPoint : Nat × Nat
opaque bootLmsIdent : List Byte
opaque bootLmsRoot : List Byte
/-- The fused minimum security version (R398). -/
opaque fusedSvn : Nat
/-- Maluk's key list: the class of a key index, 1 operator, 2 fabric management, 0 none (R385). -/
opaque keyClass : Nat → Nat
/-- The point of a key of Maluk's key list (R385). -/
opaque keyPoint : Nat → Nat × Nat
/-- The source endpoints that Maluk's policy admits (R385). -/
opaque admits : Nat → Bool
/-- Maluk's feature policy for a VI (R324). -/
opaque policy : Nat → Nat
/-- A VI's allowance for ARENA_MAX, in blocks (R339). -/
opaque arenaAllowance : Nat → Nat
/-- Sequence slots of the package that Maluk can give out (R326, R381). -/
opaque sequenceSlots : Nat
/-- The identity keys' signatures, LMS with a leaf (R399). -/
opaque identitySign : List Byte → List Byte
opaque identityLms : Nat → List Byte → List Byte
/-- The alias public keys of a boot, and their signatures, LMS with a leaf (R399, R400). -/
opaque aliasKeys : Nat → List Byte
opaque aliasSign : Nat → List Byte → List Byte
opaque aliasLms : Nat → Nat → List Byte → List Byte
/-- Leaves of the identity LMS counter (R399). -/
def identityLeaves : Nat := 1048576
/-- Leaves of the alias LMS tree (R400). -/
def aliasLeaves : Nat := 1048576
/-- The fixed voltage of the memory and I/O rail in mV, which no rule gives (R377; notes/assumptions/25.md). -/
opaque ioRail : Nat
/-- Frames of the region of a context's register and pocket images (R326; notes/assumptions/28.md). -/
def imageFrames : Nat := 8192
/-- Dies of the package: 8 compute dies, the I/O die, 16 base dies (R8, R405). -/
def allDies : Nat := 25
/-- Frames of 4 KiB in the package's memory (R12: 1,536 GiB). -/
def frames : Nat := 402653184

end Sys2Proof.Config
end

