-- ==== Sys2Proof/Machine/Num.lean ====
section
/-! DEFINITION. Number formats and exact arithmetic (spec/04 R64-R83): values, one rounding, special values, and the
results of the approximating instructions as free values inside their bounds (spec/09 R191, R192). -/

namespace Sys2Proof.Machine

/-- The floating-point formats (R64). -/
inductive Fmt where
  | f32 | bf16 | f16 | e5m2 | e4m3 | e2m1
  deriving DecidableEq, Repr

/-- Mantissa bits (R64). -/
def mbits : Fmt → Nat
  | .f32 => 23 | .bf16 => 7 | .f16 => 10 | .e5m2 => 2 | .e4m3 => 3 | .e2m1 => 1
/-- Exponent bias (R64). -/
def bias : Fmt → Nat
  | .f32 => 127 | .bf16 => 127 | .f16 => 15 | .e5m2 => 15 | .e4m3 => 7 | .e2m1 => 1
/-- Bits below the sign (R64). -/
def magBits : Fmt → Nat
  | .f32 => 31 | .bf16 => 15 | .f16 => 15 | .e5m2 => 7 | .e4m3 => 7 | .e2m1 => 3
/-- Magnitude code of the largest finite value (R64). -/
def maxMag : Fmt → Nat
  | .f32 => 0x7F7FFFFF | .bf16 => 0x7F7F | .f16 => 0x7BFF | .e5m2 => 0x7B | .e4m3 => 0x7E | .e2m1 => 7
/-- Magnitude code of infinity, where the format has one (special encodings). -/
def infMag : Fmt → Option Nat
  | .f32 => some 0x7F800000 | .bf16 => some 0x7F80 | .f16 => some 0x7C00 | .e5m2 => some 0x7C
  | .e4m3 => none | .e2m1 => none
/-- The canonical NaN (special encodings); E2M1 has none. -/
def nanCode : Fmt → Nat
  | .f32 => 0x7FC00000 | .bf16 => 0x7FC0 | .f16 => 0x7E00 | .e5m2 => 0x7E | .e4m3 => 0x7F | .e2m1 => 0

/-- An exact value: NaN, an infinity, or (-1)^neg * m * 2^e. -/
inductive FV where
  | nan
  | inf (neg : Bool)
  | fin (neg : Bool) (m : Nat) (e : Int)
  deriving DecidableEq, Repr

/-- The value of an encoding (R65). -/
def fval (f : Fmt) (code : Nat) : FV :=
  let neg := bitOf code (magBits f)
  let mag := code % 2 ^ magBits f
  let isNan : Bool := match infMag f with
    | some i => decide (i < mag)
    | none => f == .e4m3 && mag == 0x7F
  if isNan then .nan
  else if infMag f == some mag then .inf neg
  else
    let ef := mag / 2 ^ mbits f
    let mf := mag % 2 ^ mbits f
    if ef = 0 then .fin neg mf (1 - (bias f : Int) - mbits f)
    else .fin neg (mf + 2 ^ mbits f) ((ef : Int) - bias f - mbits f)

/-- Sign and magnitude as an encoding. -/
def withSign (f : Fmt) (neg : Bool) (mag : Nat) : Nat := (if neg then 2 ^ magBits f else 0) + mag

/-- The sign of a value; NaN counts as positive. -/
def fneg? : FV → Bool
  | .nan => false
  | .inf n => n
  | .fin n _ _ => n

/-- The value is ±0. -/
def isZero : FV → Bool
  | .fin _ m _ => m == 0
  | _ => false

/-- The value is NaN. -/
def isNaN : FV → Bool
  | .nan => true
  | _ => false

/-- The value is infinite. -/
def isInf : FV → Bool
  | .inf _ => true
  | _ => false

/-- An infinite result: saturated or not (R73). -/
def infResult (f : Fmt) (sat neg : Bool) : Nat :=
  match infMag f with
  | some i => withSign f neg (if sat then maxMag f else i)
  | none => withSign f neg (maxMag f)

/-- The magnitude m * 2^e cut to the format's grid: the lower code, the remainder and the bits it was cut by. -/
def cut (f : Fmt) (m : Nat) (e : Int) : Nat × Nat × Nat :=
  let qmin : Int := 1 - (bias f : Int) - mbits f
  let q := max ((ilog2 m : Int) + e - mbits f) qmin
  let base := (q - qmin).toNat * 2 ^ mbits f
  if q ≤ e then (base + m * 2 ^ (e - q).toNat, 0, 0)
  else
    let s := (q - e).toNat
    (base + m / 2 ^ s, m % 2 ^ s, s)

/-- Does the mode round the magnitude up (R71, R72)? `u` is the word drawn under `.SR`; `rest` says that the exact
value lies above the digits kept. -/
def roundsUp (mode u : Nat) (neg odd rest : Bool) (rem s : Nat) : Bool :=
  match mode with
  | 0 => decide (2 ^ s < 2 * rem) || (decide (2 * rem = 2 ^ s) && s != 0 && (rest || odd))
  | 1 => false
  | 2 => neg && (rem != 0 || rest)
  | 3 => !neg && (rem != 0 || rest)
  | _ => decide (u < rem * 2 ^ 32 / 2 ^ s)

/-- Is an overflow in this mode delivered as infinity (IEEE 754; R72 under `.SR`)? -/
def overflowsToInf (mode : Nat) (neg : Bool) : Bool :=
  match mode with
  | 0 => true | 1 => false | 2 => neg | 3 => !neg | _ => true

/-- Round an exact value once (R71-R73, R75). -/
def roundF (f : Fmt) (mode : Nat) (sat : Bool) (u : Nat) (v : FV) (rest : Bool := false) : Nat :=
  match v with
  | .nan => nanCode f
  | .inf neg => infResult f sat neg
  | .fin neg m e =>
    if m = 0 then withSign f neg 0
    else
      let (lo, rem, s) := cut f m e
      let c := if roundsUp mode u neg (lo % 2 == 1) rest rem s then lo + 1 else lo
      if c ≤ maxMag f then withSign f neg c
      else if overflowsToInf mode neg then infResult f sat neg
      else withSign f neg (maxMag f)

/-- A signed integer times 2^e as a value; a zero gets the sign `zneg`. -/
def ofInt (zneg : Bool) (x : Int) (e : Int) : FV :=
  if x = 0 then .fin zneg 0 e else .fin (decide (x < 0)) x.natAbs e

/-- The signed mantissa. -/
def signed (neg : Bool) (m : Nat) : Int := if neg then -(m : Int) else m

/-- The exact sum, with IEEE 754's sign of an exact zero under the mode (R71, R75). -/
def addV (mode : Nat) (a b : FV) : FV :=
  match a, b with
  | .nan, _ => .nan
  | _, .nan => .nan
  | .inf x, .inf y => if x == y then .inf x else .nan
  | .inf x, _ => .inf x
  | _, .inf y => .inf y
  | .fin na ma ea, .fin nb mb eb =>
    let e := min ea eb
    let x := signed na (ma * 2 ^ (ea - e).toNat) + signed nb (mb * 2 ^ (eb - e).toNat)
    let z := if ma = 0 ∧ mb = 0 ∧ na = nb then na else mode == 2
    ofInt z x e

/-- The exact product (R75). -/
def mulV (a b : FV) : FV :=
  match a, b with
  | .nan, _ => .nan
  | _, .nan => .nan
  | .inf x, .inf y => .inf (x != y)
  | .inf x, .fin y m _ => if m = 0 then .nan else .inf (x != y)
  | .fin x m _, .inf y => if m = 0 then .nan else .inf (x != y)
  | .fin x m e, .fin y n g => .fin (x != y) (m * n) (e + g)

/-- The value with its sign inverted. -/
def negV : FV → FV
  | .nan => .nan
  | .inf x => .inf (!x)
  | .fin x m e => .fin (!x) m e

/-- Quotient digits kept beyond any format's mantissa. -/
def divBits : Nat := 160

/-- The quotient and whether digits were left over (R75, R188). -/
def divV (a b : FV) : FV × Bool :=
  match a, b with
  | .nan, _ => (.nan, false)
  | _, .nan => (.nan, false)
  | .inf _, .inf _ => (.nan, false)
  | .inf x, .fin y _ _ => (.inf (x != y), false)
  | .fin x _ e, .inf y => (.fin (x != y) 0 e, false)
  | .fin x m e, .fin y n g =>
    if n = 0 then (if m = 0 then .nan else .inf (x != y), false)
    else (.fin (x != y) (m * 2 ^ divBits / n) (e - g - divBits), m * 2 ^ divBits % n != 0)

/-- Integer square root by its bits from bit k - 1 down. -/
def isqrtBits (n : Nat) : Nat → Nat → Nat
  | 0, r => r
  | k + 1, r => isqrtBits n k (if (r + 2 ^ k) * (r + 2 ^ k) ≤ n then r + 2 ^ k else r)

/-- Integer square root. -/
def isqrt (n : Nat) : Nat := isqrtBits n (ilog2 n / 2 + 1) 0

/-- The square root and whether digits were left over (R75, R188). -/
def sqrtV (a : FV) : FV × Bool :=
  match a with
  | .nan => (.nan, false)
  | .inf neg => (if neg then .nan else .inf false, false)
  | .fin neg m e =>
    if m = 0 then (.fin neg 0 e, false)
    else if neg then (.nan, false)
    else
      let odd := e % 2 ≠ 0
      let n := (if odd then 2 * m else m) * 2 ^ divBits
      let g := ((if odd then e - 1 else e) - divBits) / 2
      let r := isqrt n
      (.fin false r g, r * r != n)

/-- Comparison of two values that are no NaN, -0 below +0 only when `zs` asks for it. -/
def ltV (zs : Bool) (a b : FV) : Bool :=
  match a, b with
  | .nan, _ => false
  | _, .nan => false
  | .inf x, .inf y => x && !y
  | .inf x, .fin _ _ _ => x
  | .fin _ _ _, .inf y => !y
  | .fin x m e, .fin y n g =>
    let h := min e g
    let p := signed x (m * 2 ^ (e - h).toNat)
    let q := signed y (n * 2 ^ (g - h).toNat)
    decide (p < q) || (zs && p == q && m == 0 && x && !y)

/-- Equality of two values that are no NaN; -0 equals +0. -/
def eqV (a b : FV) : Bool := !isNaN a && !isNaN b && !ltV false a b && !ltV false b a

/-- FMIN and FMAX (R189). -/
def minmax (f : Fmt) (isMax : Bool) (a b : Nat) : Nat :=
  let x := fval f a
  let y := fval f b
  if isNaN x && isNaN y then nanCode f
  else if isNaN x then b
  else if isNaN y then a
  else if isMax then (if ltV true x y then b else a)
  else (if ltV true y x then b else a)

/-- The conditions of FSETP (R189). -/
def fcond (cond : Nat) (x y : FV) : Bool :=
  let nan := isNaN x || isNaN y
  match cond with
  | 0 => !nan && eqV x y
  | 1 => nan || !eqV x y
  | 2 => !nan && ltV false x y
  | 3 => !nan && (ltV false x y || eqV x y)
  | 4 => !nan && ltV false y x
  | 5 => !nan && (ltV false y x || eqV x y)
  | 6 => !nan
  | _ => nan

/-- FCLASS (R190). -/
def fclass (a : Nat) : Nat :=
  let v := fval .f32 a
  let k := match v with
    | .nan => if bitOf a 22 then 9 else 8
    | .inf neg => if neg then 0 else 7
    | .fin neg m _ =>
      if m = 0 then (if neg then 3 else 4)
      else if m < 2 ^ 23 then (if neg then 2 else 5)
      else (if neg then 1 else 6)
  2 ^ k

/-- FABS and FNEG (R188): a NaN result is canonical (R75). -/
def fabsF (f : Fmt) (a : Nat) : Nat := if isNaN (fval f a) then nanCode f else a % 2 ^ magBits f
def fnegF (f : Fmt) (a : Nat) : Nat :=
  if isNaN (fval f a) then nanCode f else withSign f (!bitOf a (magBits f)) (a % 2 ^ magBits f)

/-- An exact value rounded to an integer under a mode (R194, R188 FRND); `none` for NaN and infinities. -/
def roundInt (mode : Nat) (v : FV) : Option Int :=
  match v with
  | .fin neg m e =>
    if 0 ≤ e then some (signed neg (m * 2 ^ e.toNat))
    else
      let s := (-e).toNat
      let lo := m / 2 ^ s
      some (signed neg (if roundsUp mode 0 neg (lo % 2 == 1) false (m % 2 ^ s) s then lo + 1 else lo))
  | _ => none

/-- Clamp to an N-bit integer range (R73 `Sat`). -/
def clampInt (n : Nat) (sgn : Bool) (x : Int) : Int :=
  let lo : Int := if sgn then -((2 ^ (n - 1) : Nat) : Int) else 0
  let hi : Int := if sgn then ((2 ^ (n - 1) : Nat) : Int) - 1 else ((2 ^ n : Nat) : Int) - 1
  max lo (min hi x)

/-- Floating point to an N-bit integer: saturates, NaN gives 0 (R73). -/
def toInt (n : Nat) (sgn : Bool) (mode : Nat) (v : FV) : Int :=
  match v with
  | .nan => 0
  | .inf neg =>
    if neg then (if sgn then -((2 ^ (n - 1) : Nat) : Int) else 0)
    else clampInt n sgn ((2 ^ n : Nat) : Int)
  | .fin _ _ _ => clampInt n sgn ((roundInt mode v).getD 0)

/-- FRND (R188). -/
def frnd (mode a : Nat) : Nat :=
  match fval .f32 a with
  | .nan => nanCode .f32
  | .inf _ => a
  | .fin neg m e =>
    if m = 0 ∨ 0 ≤ e then a
    else roundF .f32 0 false 0 (ofInt neg ((roundInt mode (.fin neg m e)).getD 0) 0)

/-! ### Named lane operations on FP32 words under `.RNE`, as pseudocode uses them -/

def faddN (a b : Nat) : Nat := roundF .f32 0 false 0 (addV 0 (fval .f32 a) (fval .f32 b))
def fsubN (a b : Nat) : Nat := roundF .f32 0 false 0 (addV 0 (fval .f32 a) (negV (fval .f32 b)))
def fmulN (a b : Nat) : Nat := roundF .f32 0 false 0 (mulV (fval .f32 a) (fval .f32 b))
def ffmaN (a b c : Nat) : Nat := roundF .f32 0 false 0 (addV 0 (mulV (fval .f32 a) (fval .f32 b)) (fval .f32 c))
def fdivN (a b : Nat) : Nat :=
  let q := divV (fval .f32 a) (fval .f32 b)
  roundF .f32 0 false 0 q.1 q.2
def fsqrtN (a : Nat) : Nat :=
  let q := sqrtV (fval .f32 a)
  roundF .f32 0 false 0 q.1 q.2
def fltN (a b : Nat) : Bool := ltV false (fval .f32 a) (fval .f32 b)

/-! ### Exact sums (R78, R193, R303) -/

/-- What a sum has met so far (R78). -/
structure Sum where
  neg : Bool := true      -- every term so far is -0
  x : Int := 0
  e : Int := 0
  nan : Bool := false
  pinf : Bool := false
  ninf : Bool := false
  deriving DecidableEq, Repr

/-- Add one exact term (R78). -/
def sumAdd (s : Sum) (t : FV) : Sum :=
  match t with
  | .nan => { s with nan := true, neg := false }
  | .inf true => { s with ninf := true, neg := false }
  | .inf false => { s with pinf := true, neg := false }
  | .fin n m e =>
    let h := if m = 0 then s.e else if s.x = 0 then e else min s.e e
    let a := if s.x = 0 then 0 else s.x * ((2 ^ (s.e - h).toNat : Nat) : Int)
    let b := if m = 0 then 0 else signed n (m * 2 ^ (e - h).toNat)
    { s with x := a + b, e := h, neg := s.neg && m == 0 && n }

/-- The sum as a value. -/
def sumVal (s : Sum) : FV :=
  if s.nan || (s.pinf && s.ninf) then .nan
  else if s.pinf then .inf false
  else if s.ninf then .inf true
  else ofInt s.neg s.x s.e

/-- The sum of a list of exact terms, rounded once to FP32 under `.RNE` (R78). -/
def sumRound (ts : List FV) : Nat := roundF .f32 0 false 0 (sumVal (ts.foldl sumAdd {}))

/-- Chunks of 32. -/
def chunks32 {α : Type} : Nat → List α → List (List α)
  | 0, _ => []
  | n + 1, l => if l.isEmpty then [] else l.take 32 :: chunks32 n (l.drop 32)

/-- `ChunkSum` (R281): 32 exact terms, one rounding, chunks added in order under `.RNE`. -/
def chunkSum (ts : List FV) : Nat :=
  match (chunks32 (ts.length + 1) ts).map sumRound with
  | [] => 0
  | c :: cs => cs.foldl faddN c

/-! ### Approximating instructions (R191, R192): exact points, else a free value inside the bound -/

/-- Fractional bits of the fixed-point helpers. -/
def fx : Nat := 96
def fxOne : Nat := 2 ^ fx
/-- log2 e, ln 2 is not needed; pi and 2/sqrt pi in fixed point (rounded down). -/
def log2e : Nat := 0x171547652b82fe1777d0ffda0
def piFx : Nat := 0x3243f6a8885a308d313198a2e
def twoOverSqrtPi : Nat := 0x120dd750429b6d11ae3a914fe

/-- 2^(x / 2^96) for a fraction x, in fixed point: the product of the roots of two that the bits of x name. -/
def exp2Frac (x : Nat) : Nat → Nat → Nat → Nat
  | 0, _, acc => acc
  | k + 1, root, acc =>
    let r := isqrt (root * fxOne)
    exp2Frac (2 * x) k r (if fxOne ≤ 2 * x % (2 * fxOne) then acc * r / fxOne else acc)

/-- log2 of a mantissa in [1, 2), bit by bit, in fixed point. -/
def log2Frac : Nat → Nat → Nat → Nat
  | 0, _, acc => acc
  | k + 1, y, acc =>
    let z := y * y / fxOne
    if 2 * fxOne ≤ z then log2Frac k (z / 2) (2 * acc + 1) else log2Frac k z (2 * acc)

/-- A power series: term (n+1) = term n * x2 / (d n), alternating when `alt`; the sum of `w n` weighted terms. -/
def series (x2 : Nat) (d w : Nat → Nat) (alt : Bool) : Nat → Nat → Nat → Int → Int
  | 0, _, _, acc => acc
  | k + 1, n, t, acc =>
    let y : Int := (t / w n : Nat)
    series x2 d w alt k (n + 1) (t * x2 / fxOne / d n) (if alt && n % 2 == 1 then acc - y else acc + y)

/-- sin and cos of x in [0, pi/4], in fixed point. -/
def sinFx (x : Nat) : Int := series (x * x / fxOne) (fun n => (2 * n + 2) * (2 * n + 3)) (fun _ => 1) true 16 0 x 0
def cosFx (x : Nat) : Int := series (x * x / fxOne) (fun n => (2 * n + 1) * (2 * n + 2)) (fun _ => 1) true 16 0 fxOne 0
/-- erf of x in [0, 4], in fixed point. -/
def erfFx (x : Nat) : Int :=
  (series (x * x / fxOne) (fun n => n + 1) (fun n => 2 * n + 1) true 90 0 x 0) * (twoOverSqrtPi : Int) / (fxOne : Int)

/-- A magnitude m * 2^e in fixed point, rounded down. -/
def toFx (m : Nat) (e : Int) : Nat :=
  if 0 ≤ e + fx then m * 2 ^ (e + fx).toNat else m / 2 ^ (-(e + fx)).toNat

/-- 2^(-y) of a fixed-point y, in fixed point; 0 when y is 80 or more. -/
def exp2Neg (y : Nat) : Nat :=
  if 80 * fxOne ≤ y then 0
  else
    let i := y / fxOne
    let f := y % fxOne
    if f = 0 then fxOne / 2 ^ i else exp2Frac (fxOne - f) 64 (2 * fxOne) fxOne / 2 ^ (i + 1)

/-- The finite value of a code lies within the absolute bound 2^-b of the fixed-point value x; 2^-64 is kept for the
error of x. -/
def withinAbs (f : Fmt) (b : Nat) (x : Int) (code : Nat) : Bool :=
  match fval f code with
  | .fin neg m e =>
    let c : Int := if 0 ≤ e + fx then signed neg (m * 2 ^ (e + fx).toNat) else signed neg m
    let s : Nat := if 0 ≤ e + fx then 1 else 2 ^ (-(e + fx)).toNat
    decide ((c - x * (s : Int)).natAbs ≤ (2 ^ (fx - b) - 2 ^ (fx - 64)) * s)
  | _ => false

/-- A free value within the absolute bound 2^-b of the fixed-point value x; the value of the format nearest to x where the
free one would pass the bound, and where the format has none within it. -/
def nearAbs (f : Fmt) (b : Nat) (x : Int) (w : W32) : Nat :=
  let c := roundF f 0 false 0 (ofInt false (x * ((2 ^ (31 + b) : Nat) : Int) + w.toInt * (fxOne : Int))
    (-((fx + 31 + b : Nat) : Int)))
  if withinAbs f b x c then c else roundF f 0 false 0 (ofInt false x (-(fx : Int)))

/-- The magnitude of code c lies within n ulp of m * 2^e, which is no value of the format; an ulp is the step of the format
at m * 2^e, and the codes above the greatest finite one stand on the same grid. -/
def withinUlp (f : Fmt) (n m : Nat) (e : Int) (c : Nat) : Bool :=
  let qmin : Int := 1 - (bias f : Int) - mbits f
  let q := max ((ilog2 m : Int) + e - mbits f) qmin
  let ce := qmin + ((c / 2 ^ mbits f - 1 : Nat) : Int)
  let cm := if c < 2 ^ mbits f then c else c % 2 ^ mbits f + 2 ^ mbits f
  let low := min (min e q) ce
  let v : Int := (cm * 2 ^ (ce - low).toNat : Nat)
  decide ((v - ((m * 2 ^ (e - low).toNat : Nat) : Int)).natAbs < n * 2 ^ (q - low).toNat)

/-- A free value within n ulp of the magnitude m * 2^e, which is no value of the format: any code that lies so. -/
def nearUlp (f : Fmt) (n : Nat) (neg : Bool) (m : Nat) (e : Int) (w : W32) : Nat :=
  let lo := (cut f m e).1
  if maxMag f < lo then infResult f false neg
  else
    let codes := ((List.range (3 * n + 1)).map (fun k => lo + k - 2 * n)).eraseDups.filter (withinUlp f n m e)
    let c := codes.getD (w.toNat % codes.length) lo
    if maxMag f < c then infResult f false neg else withSign f neg c

/-- FRCP and HRCP2 (R191, R192). -/
def rcpF (f : Fmt) (a : Nat) : Nat :=
  match fval f a with
  | .nan => nanCode f
  | .inf neg => withSign f neg 0
  | .fin neg m e =>
    if m = 0 then infResult f false neg
    else
      let q := divV (.fin false 1 0) (.fin false m e)
      match q with
      | (.fin _ n g, rest) =>
        let (lo, rem, _) := cut f n g
        if rem = 0 ∧ !rest ∧ lo ≤ maxMag f then withSign f neg lo
        else nearUlp f 1 neg n g (Config.approx 0 (BitVec.ofNat 32 a))
      | _ => nanCode f

/-- FRSQ (R191). -/
def frsq (a : Nat) : Nat :=
  match fval .f32 a with
  | .nan => nanCode .f32
  | .inf neg => if neg then nanCode .f32 else 0
  | .fin neg m e =>
    if m = 0 then infResult .f32 false neg
    else if neg then nanCode .f32
    else
      let s := sqrtV (.fin false m e)
      match divV (.fin false 1 0) s.1 with
      | (.fin _ n g, rest) =>
        let (lo, rem, _) := cut .f32 n g
        if rem = 0 ∧ !rest ∧ !s.2 then lo else nearUlp .f32 1 false n g (Config.approx 1 (BitVec.ofNat 32 a))
      | _ => nanCode .f32

/-- FEXP2 (R191). -/
def fexp2 (a : Nat) : Nat :=
  match fval .f32 a with
  | .nan => nanCode .f32
  | .inf neg => if neg then 0 else infResult .f32 false false
  | .fin neg m e =>
    if m = 0 then 0x3F800000
    else if 9 ≤ (ilog2 m : Int) + e then
      if neg then (if e < 0 ∧ m % 2 ^ (-e).toNat ≠ 0 then nearUlp .f32 2 false 1 (-512) (Config.approx 2 (BitVec.ofNat 32 a)) else 0)
      else infResult .f32 false false
    else
      let whole := 0 ≤ e ∨ m % 2 ^ (-e).toNat = 0
      if whole then
        let n : Int := (roundInt 1 (.fin neg m e)).getD 0
        roundF .f32 0 false 0 (.fin false 1 n)
      else
        let y := toFx m e
        -- 2^a = 2^k * r with r in [1, 2)
        let k : Int := if neg then -((y / fxOne : Nat) : Int) - 1 else (y / fxOne : Nat)
        let fr := if neg then fxOne - y % fxOne else y % fxOne
        let r := if fr = fxOne then 2 * fxOne - 1 else exp2Frac fr 64 (2 * fxOne) fxOne
        nearUlp .f32 2 false r (k - fx) (Config.approx 2 (BitVec.ofNat 32 a))

/-- FLOG2 (R191). -/
def flog2 (a : Nat) : Nat :=
  match fval .f32 a with
  | .nan => nanCode .f32
  | .inf neg => if neg then nanCode .f32 else infResult .f32 false false
  | .fin neg m e =>
    if m = 0 then infResult .f32 false true
    else if neg then nanCode .f32
    else
      let k : Int := (ilog2 m : Int) + e
      if m = 2 ^ ilog2 m then roundF .f32 0 false 0 (ofInt false k 0)
      else
        let fr := log2Frac fx (m * fxOne / 2 ^ ilog2 m) 0
        let x : Int := k * (fxOne : Int) + (fr : Int)
        let w := Config.approx 3 (BitVec.ofNat 32 a)
        if k = -1 ∨ k = 0 then nearAbs .f32 22 x w
        else nearUlp .f32 2 (decide (x < 0)) x.natAbs (-(fx : Int)) w

/-- FTANH and HTANH2 (R191, R192): absolute error 2^-b. -/
def tanhF (f : Fmt) (b id a : Nat) : Nat :=
  match fval f a with
  | .nan => nanCode f
  | .inf neg => roundF f 0 false 0 (.fin neg 1 0)
  | .fin neg m e =>
    if m = 0 then a
    else
      let t := if 6 ≤ (ilog2 m : Int) + e then 0 else exp2Neg (2 * toFx m e * log2e / fxOne)
      let x : Int := ((fxOne - t) * fxOne / (fxOne + t) : Nat)
      nearAbs f b (if neg then -x else x) (Config.approx id (BitVec.ofNat 32 a))

/-- FSIGM (R191). -/
def fsigm (a : Nat) : Nat :=
  match fval .f32 a with
  | .nan => nanCode .f32
  | .inf neg => if neg then 0 else 0x3F800000
  | .fin neg m e =>
    if m = 0 then 0x3F000000
    else
      let t := if 6 ≤ (ilog2 m : Int) + e then 0 else exp2Neg (toFx m e * log2e / fxOne)
      let x : Int := ((if neg then t else fxOne) * fxOne / (fxOne + t) : Nat)
      nearAbs .f32 22 x (Config.approx 7 (BitVec.ofNat 32 a))

/-- FERF (R191). -/
def ferf (a : Nat) : Nat :=
  match fval .f32 a with
  | .nan => nanCode .f32
  | .inf neg => if neg then 0xBF800000 else 0x3F800000
  | .fin neg m e =>
    if m = 0 then a
    else
      let x : Int := if 2 ≤ (ilog2 m : Int) + e then fxOne else erfFx (toFx m e)
      nearAbs .f32 21 (if neg then -x else x) (Config.approx 8 (BitVec.ofNat 32 a))

/-- sin and cos of 2 pi times a fraction of a turn in fixed point, by the eighth of the turn it lies in. -/
def turnFx (isCos : Bool) (t : Nat) : Int :=
  let t := (if isCos then t + fxOne / 4 else t) % fxOne
  let q := t * 4 / fxOne
  let r := t * 4 % fxOne                       -- quarter turn fraction
  let small := 2 * r ≤ fxOne
  let ang := (if small then r else fxOne - r) * piFx / (2 * fxOne)
  match q with
  | 0 => if small then sinFx ang else cosFx ang
  | 1 => if small then cosFx ang else sinFx ang
  | 2 => -(if small then sinFx ang else cosFx ang)
  | _ => -(if small then cosFx ang else sinFx ang)

/-- FSIN and FCOS (R191): exact at multiples of 0.25 turn, with the signs of zero the table gives. -/
def fturn (isCos : Bool) (a : Nat) : Nat :=
  match fval .f32 a with
  | .nan => nanCode .f32
  | .inf _ => nanCode .f32
  | .fin neg m e =>
    let quarter := m = 0 ∨ -2 ≤ e ∨ m % 2 ^ (-2 - e).toNat = 0
    if quarter then
      -- a = k / 4 turns
      let k : Int := signed neg (if -2 ≤ e then m * 2 ^ (e + 2).toNat else m / 2 ^ (-2 - e).toNat)
      match (if isCos then k + 1 else k) % 4 with
      | 1 => 0x3F800000
      | 3 => 0xBF800000
      | _ => if isCos then 0 else withSign .f32 neg 0
    else
      let fr := toFx m e % fxOne
      let t := if neg then (fxOne - fr) % fxOne else fr
      nearAbs .f32 22 (turnFx isCos t) (Config.approx (if isCos then 6 else 5) (BitVec.ofNat 32 a))

/-! ### Block formats (R67-R70, R74, R196) -/

/-- 2 to the power of an E8M0 code (R67). -/
def scaleExp (s : Nat) : Int := (s : Int) - 127

/-- The value times 2^k. -/
def shiftV (v : FV) (k : Int) : FV :=
  match v with
  | .fin n m e => .fin n m (e + k)
  | x => x

/-- A DS8 term: (−1)^sign 2^(−k) in units of 2^-6; code 7 is absent (R69). -/
def ds8Term (t : Nat) : Int :=
  if t % 8 = 7 then 0 else (if 8 ≤ t then -1 else 1) * ((2 ^ (6 - t % 8) : Nat) : Int)

/-- The value of a DS8 byte under scale s (R69). -/
def ds8Val (b s : Nat) : FV :=
  if s = 255 then .nan
  else
    let x := ds8Term (b / 16) + ds8Term (b % 16)
    let z := b / 16 % 8 == 7 && b % 8 == 7 && decide (128 ≤ b)
    ofInt z x (scaleExp s - 6)

/-- The candidate of a list nearest to x, the earlier one on a tie. -/
def nearest (x : Int) : List (Int × Nat) → Int × Nat → Int × Nat
  | [], best => best
  | c :: cs, best => nearest x cs (if (x - c.1).natAbs < (x - best.1).natAbs then c else best)

/-- The DS8 encoding of an exact finite v (R70). -/
def ds8Enc (neg : Bool) (m : Nat) (e : Int) : Nat :=
  let g := min e (-6)
  let unit (k : Nat) : Int := ((2 ^ (-(k : Int) - g).toNat : Nat) : Int)
  let v : Int := ((m * 2 ^ (e - g).toNat : Nat) : Int)
  if 2 * unit 0 ≤ v then (if neg then 0x88 else 0x00)
  else
    let mags : List (Int × Nat) := (List.range 7).map (fun k => (unit k, k))
    let a := nearest v (mags.drop 1 ++ [(0, 7)]) (unit 0, 0)
    let r := v - a.1
    let cands := (List.range 7).reverse.flatMap (fun k => [(unit k, k), (-(unit k), k + 8)])
    let b := nearest r cands (0, 7)
    let sg : Nat := if neg then 8 else 0
    let bs := if b.2 % 8 = 7 then 7 else if neg then (b.2 + 8) % 16 else b.2
    (sg + a.2) * 16 + bs

/-- BSCALE (R196, R74): E = floor(log2 |a|) - k, clamped. -/
def bscale (k a : Nat) : Nat :=
  match fval .f32 (a % 2 ^ 31) with
  | .nan => 255
  | .inf _ => 255
  | .fin _ m e =>
    if m = 0 then 127
    else (max (-127) (min 127 ((ilog2 m : Int) + e - k)) + 127).toNat

/-- The float formats of conversion codes 0 to 4 (R194). -/
def cvtFmt : Nat → Fmt
  | 0 => .f32 | 1 => .bf16 | 2 => .f16 | 3 => .e4m3 | _ => .e5m2

/-- Bits and signedness of integer conversion codes (R194). -/
def cvtInt : Nat → Nat × Bool
  | 0 => (32, true) | 1 => (32, false) | 2 => (64, true) | 3 => (64, false)
  | 4 => (8, true) | 5 => (8, false) | 6 => (16, true) | _ => (16, false)

/-- Does a float-to-float conversion widen exactly (R82)? A conversion to the same format does not widen
(notes/assumptions/21.md). -/
def widens (dst src : Nat) : Bool :=
  match dst, src with
  | 0, 0 => false
  | 0, _ => true
  | 1, 3 => true
  | 1, 4 => true
  | 2, 3 => true
  | 2, 4 => true
  | _, _ => false

end Sys2Proof.Machine
end

