-- ==== Sys2Proof/Machine/State.lean ====
section
/-! DEFINITION. The state of the Umagon G9 as plain data: everything the spec gives the machine (INVENTORY.md,
## State), the reasons a step can stop, and the machine right after power-on. -/

namespace Sys2Proof.Machine

/-- Reasons the machine stops. `noRun` and `noRoutine` are raised by the meaning of a lane or shroud instruction when
it is executed while its agent has nothing in flight; no step of the machine reaches them (safe). -/
inductive Fault where
  | noRun
  | noRoutine
  deriving DecidableEq, Repr

/-- Reasons an instruction has no meaning. `notModelled` stands in arms of Dispatch.lean only (safe). -/
inductive Refusal where
  | notModelled (mnemonic : String)
  deriving DecidableEq, Repr

/-- How far the writes of an operation have to be visible before what waits for it goes on (R104, R110): `order`, ahead
of it in the core's L1 alone; `done`, performed; or seen by a core, by the cores of a die, or by every agent. -/
inductive Reach where
  | order
  | done
  | core (k : Nat)
  | die (d : Nat)
  | all
  deriving DecidableEq, Repr

/-- What an access waits for: an operation, and how far; where `quarter` is given, its write of that quarter alone. -/
structure Dep where
  op : Nat
  reach : Reach := .done
  quarter : Option Nat := none
  deriving DecidableEq, Repr

/-- A thread of a core: group and `tid`. -/
structure Tid where
  gid : Nat
  tid : Nat
  deriving DecidableEq, Repr

/-- What a WAITING thread waits for (R20). -/
inductive Wait where
  | cleat (c : Nat)                    -- REJN (R36)
  | commit (c : Nat) (hdr : W64) (slot exec : Nat)   -- REJN.CMT, where it stands (R37), and its execution (R351)
  | second (c : Nat)                   -- a second signature of an open round (R36)
  | bar (b : Nat)                      -- BAR, BARW (R169)
  | flags (mask : Nat) (hdr : W64) (slot exec : Nat)  -- WAITF, where it stands (R170, R256), and its execution (R351)
  | sem (index threshold : Nat)        -- SEMWAIT (R228)
  | task (pa : Nat)                    -- TGWAIT on the record at this physical address (R250)
  deriving DecidableEq, Repr

/-- Thread states (R20). `parked n` names the parked sub-group (R351). -/
inductive TState where
  | ready
  | waiting (w : Wait)
  | parked (sub : Nat)
  | exited
  | neverLaunched
  deriving DecidableEq, Repr

/-- A bound stream pattern (R201, R202). -/
structure Stream where
  base : W64
  esize : Nat      -- log2 of the element size
  write : Bool
  scratch : Bool
  ndim : Nat       -- dimensions used, minus 1
  ext : Nat
  count : List Nat
  stride : List Int
  index : List Nat
  deriving DecidableEq, Repr

/-- A stream register: its binding and its four end flags (R53). -/
structure StreamReg where
  bind : Option Stream := none
  flags : BitVec 4 := 0
  deriving DecidableEq, Repr

/-- A distribution descriptor (R207, R208). -/
structure Dist where
  table : W64 := 0
  kind : Nat := 0
  count : W32 := 0
  p1 : W32 := 0
  p2 : W32 := 0x3F800000
  deriving DecidableEq, Repr

/-- The trap record (R348). -/
structure TrapRec where
  status : W32 := 0
  clause : W64 := 0
  addr : W64 := 0
  info : W32 := 0
  info2 : W32 := 0
  opcode : W32 := 0
  deriving DecidableEq, Repr

/-- Handler mode: the return point and the place of the trap that entered it (R349, R350, R359). -/
structure Handler where
  point : W64       -- the return point (R347)
  clause : W64      -- the header of the trapping clause
  slot : Nat
  ext : Bool
  header : Bool     -- a header fault (R126)
  code : Nat
  record : TrapRec := {}   -- the record as the trap wrote it, for the fault event of a second trap (R350)
  deriving DecidableEq, Repr

/-- A deferred trap that waits to be raised (R256). -/
structure Deferred where
  code : Nat
  flag : Nat        -- 15: counted on no flag
  opcode : Nat
  addr : W64
  info2 : W32
  deriving DecidableEq, Repr

/-- A thread (R45-R63). -/
structure Thread where
  st : TState := .ready
  pc : W64 := 0
  regs : NMap W32 := []          -- v0-v1023, default 0
  pend : List Nat := []          -- pending window registers, by absolute index
  rpois : List Nat := []         -- poisoned registers
  wb : Nat := 0
  preds : BitVec 8 := 0
  streams : NMap StreamReg := []
  key : W64 := 0
  ctr : W128 := 0
  idx : BitVec 2 := 0
  seq : Option Nat := none       -- bound sequence slot, package-wide
  handler : Option Handler := none
  trap : TrapRec := {}
  arrived : List Nat := []       -- barriers it has arrived at in their open phase
  fence : List Dep := []         -- what its later accesses wait for
  deferred : List Deferred := []
  deriving DecidableEq, Repr

/-- A counted execution outstanding on a flag (R128). -/
structure Tok where
  id : Nat
  flag : Nat
  left : Nat
  deriving DecidableEq, Repr

/-- A run in flight: its threads, the clause header and the slot it stands at (R22, R130). -/
structure Flight where
  run : List Nat
  hdr : W64
  w0 : W32
  w1 : W32
  slot : Nat
  sum : Nat          -- canvas prices charged so far
  isHead : Bool
  past : List Nat := []   -- threads that have passed the slot while a later one stalls the lane (R26)
  tok : Nat := 0          -- the count that the part of the run already past the slot is counted on (R128); 0 none
  sub : Nat := 0          -- the sub-group of the threads that have trapped at the slot (R351); 0 none
  stall : Option Bool := none  -- the slot has been executed and stalls (R26); true: its cycles count as unflagged (R59)
  deriving DecidableEq, Repr

/-- A group (R18, R21, R27, R29). -/
structure Group where
  launch : Nat
  team : Option Nat := none      -- none for a spawned group
  grp : Nat := 0                 -- its index in the team, or its bin number (R42)
  core : Nat := 0
  lane : Nat := 0
  width : Nat := 16
  threads : List Thread := []
  scal : NMap W64 := []
  spend : List Nat := []         -- pending scalar registers
  spois : List Nat := []         -- poisoned scalar registers (R103, R401)
  dists : NMap Dist := []
  toks : List Tok := []
  flight : Option Flight := none
  yHead : List Nat := []         -- the last head run's members
  yRest : List (Nat × TState × W64) := []
  yCount : Nat := 0
  yNow : Bool := false
  yCursor : W64 := 0
  grant : Option Nat := none     -- precedence grant, with its age
  passOver : Bool := false       -- it used a grant in this rotation
  susp : Bool := false           -- suspended on its core (R353)
  bound : Nat := 0               -- binding order
  stalls : W64 := 0
  clauses : W64 := 0
  canvasCycles : W64 := 0
  tlbMisses : W64 := 0
  deriving DecidableEq, Repr

/-- A tap entry (R379). -/
structure Tap where
  active : Bool := false
  steerEn : Bool := false
  nprobe : Nat := 0
  less : BitVec 4 := 0
  n : Nat := 0
  steerBase : Nat := 0
  probes : List Nat := []
  bias : List W32 := []
  thresh : List W32 := []
  deriving DecidableEq, Repr

/-- A cleat call's operands, as the first signer recorded them (R34). -/
structure Call where
  opcode : Nat
  fmt : W32
  regs : List W32
  chunks : Nat        -- CHUNKS + 1
  tap : Nat           -- 0 none
  zskip : Bool
  vstat : Bool
  flag : Nat
  entry : Tap := {}   -- NORM: its tap's entry, as it stood when the round issued (R378)
  deriving DecidableEq, Repr

/-- What one signer supplies: its operand registers under REG = 1 (R273), its SETB count, and the operations that
stand before its signature (R115). -/
structure Signer where
  who : Tid
  aRegs : List W32
  bRegs : List W32
  tok : Nat
  flag : Nat
  deps : List Dep := []
  deriving DecidableEq, Repr

/-- A cleat (R33-R37). -/
structure Cleat where
  mask : W32
  next : Option W32 := none
  sig : Option (Nat × W32 × Nat) := none    -- opcode, format word, REG bits
  signers : List Signer := []
  call : Option Call := none
  diverged : Bool := false
  trapped : List Tid := []
  deriving DecidableEq, Repr

/-- One part of a pocket (R258, R259): its words, the kind of the latest add, its poison. -/
structure Part where
  key : Nat
  val : List W32
  count : Bool
  pois : Bool
  deriving DecidableEq, Repr

/-- A region of a pocket table: ways by bucket * 4 + way, and the spill chains as lists of blocks (R258, R260). -/
structure Region where
  ways : NMap Part := []
  chains : NMap (List (List Part)) := []
  deriving DecidableEq, Repr

/-- A resident team (R18, R31, R257). -/
structure Team where
  launch : Nat
  index : Nat
  cluster : Nat
  home : Nat
  groups : List Nat
  scratch : NMap Byte := []      -- by rotated byte position, default 0
  spois : List Nat := []         -- words of poisoned scratchpad quarters, by position / 4
  cleats : NMap Cleat := []
  cfg : W32 := 0                 -- pocket configuration, as applied in pocket order
  cfgNew : W32 := 0              -- pocket configuration in force at issue
  fine : Region := {}
  coarse : Region := {}
  spilled : Bool := false        -- its barrier entries are in its image (R357)
  barDeps : NMap (List Dep) := [] -- per barrier, what the open phase's arrivals stand after (R114)
  barDone : NMap (List Dep) := [] -- the same of the last completed phase
  ended : Bool := false          -- all its groups have ended (R43)
  held : List Nat := []          -- operations that were held for its start, in issue order (R39)
  image : Nat × Nat := (0, 0)    -- its pocket image, in its context's region: address and frames (R262, R333)
  deriving DecidableEq, Repr

/-- A shroud routine of a kernel: word offset in the section and length in words (R308). -/
structure Routine where
  off : Nat
  len : Nat
  deriving DecidableEq, Repr

/-- A loaded kernel (R147, R153, R329). -/
structure Kernel where
  ctx : Nat
  kid : Nat
  text : Nat := 0                -- virtual address of the text section
  size : Nat := 0
  chain : List Nat := []         -- offsets of the clause headers (R123)
  entry : Nat := 0
  trapvec : Option Nat := none
  regs : Nat := 1
  group : Nat := 16
  team : Nat := 1
  gang : Nat := 1
  bars : Nat := 0
  scratch : Nat := 0
  args : Nat := 0
  coarse : Nat := 0
  fine : Nat := 0
  dataBase : Nat := 0
  dataSize : Nat := 0
  shroud : Nat := 0              -- physical address of the shroud section
  routines : List Routine := []
  deriving DecidableEq, Repr

/-- A launch (R330). -/
structure Launch where
  ctx : Nat
  kid : Nat
  tag : Nat                      -- LAUNCH_TAG
  teams : Nat
  args : Nat
  key : W64
  pos : W128
  privBytes : Nat
  privBase : Nat
  priority : Nat
  single : Bool
  endpoint : Nat
  utag : Nat
  placed : Nat := 0
  done : Nat := 0                -- teams ended
  gangs : List (Nat × Nat) := [] -- started gangs: gang index, time
  aborted : Bool := false
  ended : Bool := false
  order : Nat := 0               -- order of arrival in its queue
  deriving DecidableEq, Repr

/-- What a window of a context is (R343, R386, R62, R122). -/
inductive WinKind where
  | user | heap | text | data | args | priv
  deriving DecidableEq, Repr

/-- A window of a context's global space. -/
structure Window where
  va : Nat
  size : Nat
  kind : WinKind
  read : Bool
  write : Bool
  exec : Bool
  fabric : Bool := false
  pkey : Nat := 0
  deriving DecidableEq, Repr

/-- A context: its record (R326), windows, taps and accounts. -/
structure Ctx where
  vi : Nat
  recAt : Nat := 0               -- physical address of its record, which holds FLAGS (R326)
  priv : Bool := false
  heapBase : Nat := 0
  heapLimit : Nat := 0
  heapOff : Nat := 0
  root : Nat := 0                -- PT_ROOT
  imageBase : Nat := 0           -- Config.imageFrames frames: register images, then pocket images (R45, R262)
  arenaBase : Nat := 0
  arenaBlocks : Nat := 256
  arenaMax : Nat := 0
  arenaUsed : Nat := 0           -- blocks in chains
  grown : List Nat := []         -- frames of the blocks that notices have added to the arena (R339)
  semImage : Nat := 0
  heapMap : NMap Nat := []       -- HEAP_MAP: slot to package heap
  quota : Int := 0
  seqBase : Nat := 0
  seqCount : Nat := 0
  windows : List Window := []
  taps : NMap Tap := []
  dying : Bool := false          -- DESTROY_CTX or CLOSE_VI has aborted its launches
  deriving DecidableEq, Repr

/-- A virtual interface (R323, R324, R385). -/
structure Vi where
  src : Nat
  pkey : Nat
  grant : Nat
  endpoint : Nat
  subs : List (Nat × Nat) := []  -- endpoint, kinds
  closing : Bool := false
  nextKid : Nat := 1                   -- next KERNEL_ID of the session (R329)
  launches : Nat := 0                  -- launches of the session so far (R390)
  seq : Option Nat := none             -- SEQ of the last request of the session that took effect (R389)
  deriving DecidableEq, Repr

/-- A thread held in a spawn bin: payload (R40, R164). -/
structure Bin where
  bound : Option (Nat × Nat) := none   -- launch, entry address
  timer : Nat := 0
  since : Nat := 0
  held : List W64 := []
  ready : Bool := false                -- its group waits for room (R42)
  deriving DecidableEq, Repr

/-- A clause in a canvas queue (R28, R365). -/
structure CanvasWait where
  gid : Nat
  need : Nat
  pc : W64                             -- where the clause begins
  headAt : Option Nat := none          -- halyard time at which it became head
  granted : Option (Nat × Nat) := none  -- share and free units that its grant moved to it (R365)
  deriving DecidableEq, Repr

/-- A core. -/
structure Core where
  halted : Bool := false
  last : NMap Nat := []                -- per lane, the binding number of the group that issued last in its turn (R27)
  canvas : List CanvasWait := []
  share : Nat := 1                     -- share units held
  free : Nat := 0                      -- free units held
  spentShare : Nat := 0
  spentFree : Nat := 0
  bins : NMap Bin := []
  sems : NMap W32 := []                -- by context * 64 + index (R98)
  susp : List Nat := []                -- contexts suspended on the core
  byCtxsw : List Nat := []             -- those of them that CTXSW of a privileged context suspended (R356)
  deriving DecidableEq, Repr

/-- A claim for canvas: core, time (R366). -/
structure Claim where
  core : Nat
  at_ : Nat
  deriving DecidableEq, Repr

/-- A compute die (R362-R369, R374). -/
structure Die where
  reef : Nat := 7
  reefMin : Nat := 0
  reefOpen : Bool := false             -- firmware has written REEF_MIN (R374)
  cars : NMap Nat := []                -- by car, default 0
  phase : Nat := 0                     -- the car at station 0
  reserve : Nat := 48
  surplus : Nat := 0                   -- units still to withdraw (R369)
  claims : List Claim := []
  hot : Bool := false                  -- thermal force (R405)
  temp : Nat := 0                      -- junction temperature in °C (R405)
  deriving DecidableEq, Repr

/-- A cluster: byte balance and voltage mailbox (R370, R375). -/
structure Cluster where
  balance : Int := 32768
  cur : Nat := 450
  target : Nat := 450
  moving : Bool := false
  moveAt : Nat := 0
  fromMv : Nat := 450
  pending : Option Nat := none
  deriving DecidableEq, Repr

/-- An entry of an admission heap (R286). -/
structure HeapEnt where
  deadline : Nat
  req : W32
  cost : W32
  deriving DecidableEq, Repr

/-- An admission heap (R286, R338). -/
structure Heap where
  owner : Option (Nat × Nat) := none
  bud : W32 := 0
  ents : List HeapEnt := []
  releasing : Option (Nat × Nat) := none   -- VI and SEQ of a RELEASE_HEAP that waits to complete
  deriving DecidableEq, Repr

/-- A shroud thread that runs a routine (R292). -/
structure SThread where
  ctx : Nat
  launch : Nat
  record : Nat                         -- virtual address of its record
  routine : Nat
  code : Nat                           -- physical address of its first word
  len : Nat
  word : Nat := 0                      -- word offset in the routine
  n : NMap W64 := []
  v : NMap (List W32) := []
  npois : List Nat := []               -- poisoned scalar registers
  vpois : NMap Nat := []               -- poisoned elements of a vector register, as a mask
  sk : W64 := 0
  st : W64 := 0
  poisoned : Nat := 0                  -- quarters written poisoned
  fence : List Dep := []
  deriving DecidableEq, Repr

/-- A task record waiting at a shroud (R290). -/
structure Queued where
  ctx : Nat
  launch : Nat
  record : Nat
  routine : Nat := 0                   -- ENTRY, as the dispatch found it
  deriving DecidableEq, Repr

/-- A shroud (R290). -/
structure Shroud where
  queue : List Queued := []
  held : List Queued := []
  threads : NMap SThread := []
  deriving DecidableEq, Repr

/-- A message of a port in flight, by its operation, with its flow if that is ROD and the path table it uses (R393). -/
structure PortMsg where
  id : Nat
  flow : Option Nat
  path : List Nat
  deriving DecidableEq, Repr

/-- A port (R392-R395). -/
structure Port where
  up : Bool := false
  paths : List Nat := []
  paceEn : Bool := false
  pkeys : List Nat := []
  flight : List PortMsg := []
  dropped : Nat := 0
  resent : Nat := 0
  deriving DecidableEq, Repr

/-- One byte location: global by physical address, or a team's scratchpad by position. -/
inductive Loc where
  | g (pa : Nat)
  | s (team pos : Nat)
  deriving DecidableEq, Repr

/-- Where a result goes: the registers of threads (by absolute index), or a scalar register, and how many words. -/
structure Dst where
  gid : Nat := 0
  regs : List (Nat × Nat) := []
  scal : Option Nat := none
  n : Nat := 1
  preds : List (Nat × Nat) := []
  deriving DecidableEq, Repr

/-- Who issued an operation. -/
inductive Who where
  | thread (t : Tid)
  | shroud (k t : Nat)
  | port (p : Nat)
  deriving DecidableEq, Repr

/-- One lane of an atomic request (R97). -/
structure ALane where
  tid : Nat
  x : Nat
  y : Nat
  dst : Dst
  deriving DecidableEq, Repr

/-- The completion word (R234), split. -/
structure Compl where
  en : Bool := false
  scope : Nat := 0
  die : Nat := 0
  core : Nat := 0
  index : Nat := 0
  amount : Nat := 0
  deriving DecidableEq, Repr

/-- The bytes of one element of a copy: its virtual address while its page is still to be checked or made present
(R239, R240), and its locations; none: not resolved, or a forbidden page. -/
structure Dest where
  va : Option Nat
  locs : Option (List Loc)
  rot : Nat := 0                       -- ROT of a scratchpad base, which says where its quarters lie (R90)
  deriving DecidableEq, Repr

/-- One element of a copy (R233, R237). -/
structure Elem where
  src : Option Dest                    -- none: the fill value
  dst : List Dest                      -- one for each destination
  deriving DecidableEq, Repr

/-- A copy (R229-R242). -/
structure Copy where
  esize : Nat
  elems : List Elem
  fill : Nat
  red : Option (Nat × Nat)             -- COPYR: operation, element type
  compl : Compl
  orient : Nat                         -- orientation of the destination lines
  srcOrient : Nat := 0                 -- orientation of the source lines
  strict : Bool
  forbid : Nat
  abort : Bool
  charge : Nat
  dst : Dst
  deriving DecidableEq, Repr

/-- A drain (R268). -/
structure Drain where
  fine : Bool
  keys : Nat
  vals : Nat
  lo : Nat
  hi : Nat
  max : Nat
  compl : Compl
  dst : Dst
  placed : Bool := false               -- its place in the pocket order has said which lines it writes
  deriving DecidableEq, Repr

/-- Pocket operations of threads (R263-R267), in pocket order. -/
inductive PocketOp where
  | cfg (w : W32)
  | add (key : Nat) (v : W32) (count : Bool)
  | lookup (key : Nat) (coarse : Bool) (elem : Nat) (dst : Dst)
  | read (key : Nat) (addr : W32) (dst : Dst)
  | del (key : Nat) (coarse : Bool) (dst : Dst)
  | clear (sel : Nat)
  deriving DecidableEq, Repr

/-- Heap operations (R287). -/
inductive HeapOp where
  | push (deadline : Nat) (req cost : W32) (dst : Dst)
  | take (dst : Dst)
  | budget (v : W32) (add : Bool)
  | remove (req : W32) (dst : Dst)
  | peek (dst : Dst)
  | size (dst : Dst)
  deriving DecidableEq, Repr

/-- Privileged operations (R358, R360, R361). -/
inductive SysOp where
  | read (sel : Nat) (dst : Dst)
  | write (sel : Nat) (v : W64)
  | tlbInv (va ctx : Nat) (all sent : Bool)
  | preempt (ctx : Nat) (sent : Bool)
  | resume (ctx : Nat)
  | flush (pa : Nat)
  | clearPoison (pa : Nat)
  | halt (core : Nat)
  | event (vi code : Nat) (dst : Dst)
  deriving DecidableEq, Repr

/-- Operations in flight. -/
inductive OpKind where
  | load (locs : List Loc) (fmt : Nat) (dst : Dst)
  | store (parts : List (List (Loc × Byte))) (pois : List Bool)
  | tileRead (pa team : Nat) (addr : W32) (dst : Dst)
  | tileWrite (pa team : Nat) (addr : W32) (aon : Bool) (data : Option (List Byte)) (pois : List Bool) (left : List Nat)
      (dst : Dst)
  | atomic (locs : List Loc) (op : Nat) (wide : Bool) (lanes : List ALane)
  | copy (c : Copy) (issued : Bool) (lines : List Nat)
  | call (c : Call) (team : Nat) (signers : List Signer) (ranks : List Tid)
  | drain (d : Drain) (team : Nat) (lines : List Nat)
  | pocket (p : PocketOp) (team : Nat)
  | semInc (core ctx index : Nat) (v : W32) (set : Bool)
  | semRead (core ctx index : Nat) (dst : Dst)
  | heap (h : Nat) (o : HeapOp)
  | post (va : Nat) (locs : List Loc)
  | release (va : Nat)
  | graph (vi seq va : Nat)              -- a POST_GRAPH whose record's line an engine owns (R99, R389)
  | link (va succ : Nat) (locs : List Loc) (dst : Dst)
  | go (va : Nat) (parts : List (List (Loc × Byte)))
  | spawn (entry : Nat) (payload : W64) (dst : Dst)
  | service (n : Nat) (args : List W32) (dst : Dst)
  | system (o : SysOp)
  | long (dst : Dst) (v : Nat)
  deriving DecidableEq, Repr

/-- An operation in flight: who issued it, the counted execution it belongs to, and what it waits for. -/
structure Op where
  id : Nat
  who : Who
  ctx : Nat
  launch : Nat
  core : Nat
  tok : Nat := 0
  flag : Nat := 15
  opcode : Nat := 0
  run : List Nat := []                 -- the run of a uniform instruction: each of its threads counts as executing it (R105)
  deps : List Dep := []
  l1 : Option Nat := none              -- its place among the stores that are written into its core's L1 (R88)
  kind : OpKind
  deriving DecidableEq, Repr

/-- An event sent (R388): `endpoint` 0 means the subscribers of its kind; `op` marks operator endpoints; `dests` are the
endpoints it went to; `seq` its number among the events of its header's VI (R384), `at_` its place among all messages. -/
structure Event where
  kind : Nat
  vi : Nat
  endpoint : Nat
  op : Bool
  body : List Byte
  dests : List Nat := []
  seq : Nat := 0
  at_ : Nat := 0
  deriving DecidableEq, Repr

/-- A slot of the event queue (R360, R391): the VI and the body; none: the VI's default endpoint, which EVPOST posts to;
the endpoint of the launch that a NOTE comes from. -/
structure EvSlot where
  vi : Nat
  endpoint : Option Nat := none
  body : List Byte
  deriving DecidableEq, Repr

/-- A response sent (R389), with its place among all messages. -/
structure Resp where
  kind : Nat
  vi : Nat
  seq : Nat
  status : Nat
  body : List Byte
  auth : Nat := 0
  at_ : Nat := 0
  deriving DecidableEq, Repr

/-- What a port answers a peer whose RMA access it served: the data of a get or the old value of an atomic, whether it is
poisoned; or status LINK_DOWN for a message of a lost link (R392-R394). -/
structure RmaAns where
  port : Nat
  status : Nat
  pois : Bool
  data : List Byte
  deriving DecidableEq, Repr

/-- A page fault that waits for Maluk (R351, R352). -/
structure PageFault where
  sub : Nat
  ctx : Nat
  va : Nat
  reason : Nat
  threads : List Tid
  deriving DecidableEq, Repr

/-- A cached translation: unit (core 0-383, die 384-391, base die 400-415), context, page, frame, permissions (R344). -/
structure TlbEnt where
  unit : Nat
  ctx : Nat
  page : Nat
  size : Nat
  pa : Nat
  read : Bool
  write : Bool
  exec : Bool
  deriving DecidableEq, Repr

/-- The execution that makes a translation request (R345): a run at one instruction (its group, the clauses the group has
issued, the slot), an operation, or a shroud thread. -/
inductive Exec where
  | run (gid clause slot : Nat)
  | op (id : Nat)
  | routine (k t : Nat)
  deriving DecidableEq, Repr

/-- A translation miss waiting at a walk scheduler, or walking (R345). -/
structure Walk where
  id : Nat
  die : Nat
  unit : Nat
  ctx : Nat
  va : Nat
  at_ : Nat
  exec : Exec                          -- the execution that made it
  going : Bool := false
  deriving DecidableEq, Repr

/-- A line held by a cache (R87, R93, R328): unit (L1 of core 0-383, L2 of die 384-391, RDC of die 392-399, LLC of base
die 400-415, which holds whole sectors), context, sector, row or column line, orientation; quarters of it that have been
invalidated; and the mask of dirty bytes, by sector offset. -/
structure Line where
  unit : Nat
  ctx : Nat
  sector : Nat
  part : Nat
  orient : Nat
  gone : List Nat := []
  dirty : Nat := 0
  deriving DecidableEq, Repr

/-- A copy of a quarter in an L1 or RDC that a performed write has not reached yet (R87, R107): the unit, the context whose
line it is in (R328), what the copy holds, and the operation that wrote the quarter. -/
structure Stale where
  unit : Nat
  ctx : Nat
  quarter : Nat
  bytes : List Byte
  pois : Bool
  op : Nat
  deriving DecidableEq, Repr

/-- The stages of boot (R397, R398, R405). -/
inductive Boot where
  | off                                -- before ROM
  | rom                                -- ROM has verified the first-stage image
  | first                              -- the first stage has verified the Maluk image
  | maluk                              -- Maluk serves
  | halted (stage cause : Nat)         -- a stage failed (R398)
  | shutdown (until_ : Nat)            -- thermal shutdown: core rails lose power at this halyard time (R405)
  deriving DecidableEq, Repr

/-- A candidate of the launch scheduler (R334). -/
inductive Cand where
  | gang (launch team : Nat)
  | spawn (core bin : Nat)
  | head (launch team : Nat)
  | resume (core ctx : Nat)
  deriving DecidableEq, Repr

/-- The agent that goes on when no turn is listed. -/
inductive Agent where
  | none
  | group (gid : Nat)
  | shroud (k t : Nat)
  deriving DecidableEq, Repr

/-- A word that carries ECC (R401): of a quarter of global memory in HBM4, with its side-band, or in a cache that holds it; a
thread's register, a group's scalar register, a register of a shroud thread; the parts of a key in a team's pocket table; the
quarter of a scratchpad position under a rotation; another SRAM word of a counting unit (a tag, a queue, a semaphore, a heap
entry). -/
inductive Place where
  | quarter (q : Nat)
  | cached (unit q : Nat)
  | reg (gid tid reg : Nat)
  | scal (gid reg : Nat)
  | sreg (k t reg : Nat)
  | svec (k t reg elem : Nat)
  | word (unit : Nat)
  | pocket (team : Nat) (coarse : Bool) (key : Nat)
  | scratch (team pos rot : Nat)
  deriving DecidableEq, Repr

/-- Who moves next: a machine event, an agent, a store's write into its core's L1 (R88), the invalidation of a copy that
a performed write has left behind (R87), or the environment: a queued event delivered, a translation dropped, an ECC error
found (R401), a collective packet sent (R395), a die's temperature reported (R405), the out-of-band status read (R404). -/
inductive Turn where
  | event (i : Instr)
  | agent (a : Agent)
  | l1 (op : Nat)
  | inval (unit quarter : Nat)
  | deliver
  | dropTlb (index : Nat)
  | ecc (place : Place) (e : Ecc)
  | packet (port : Nat)
  | temp (die celsius : Nat)
  | status
  deriving DecidableEq, Repr

/-- Pace state of the device (R395, R396). -/
structure Pace where
  got : Option Nat := none             -- greatest PACE received in this interval
  target : Nat := 0
  above : Nat := 0                     -- intervals in a row with the target above A
  below : Nat := 0
  applied : Nat := 0
  since : Option Nat := none           -- intervals since the last move
  deriving DecidableEq, Repr

/-- What the out-of-band interface shows (R404): the stage with the mast cores that run it, each die's temperature (compute dies
0-7, the I/O die 8, base dies 9-24), each cluster's core rail and the memory and I/O rail in mV (R377), and the corrected and
uncorrectable errors of each unit. -/
structure Status where
  stage : Boot
  masts : List Nat
  temps : List Nat
  rails : List Nat
  ioRail : Nat
  errors : NMap (Nat × Nat)
  deriving DecidableEq, Repr

/-- Boot results and secure storage (R385, R397-R400). -/
structure Secure where
  svn1 : Nat := 0
  svn2 : Nat := 0
  meas1 : List Byte := []
  meas2 : List Byte := []
  boots : Nat := 0
  leaf : Nat := 0                      -- identity LMS leaf counter
  cert : List Byte := []               -- the alias certificate (R399)
  noLms : Bool := false
  aliasLeaf : Nat := 0
  counters : NMap Nat := []            -- per key, the last COUNTER accepted
  deriving DecidableEq, Repr

/-- The state of the package. -/
structure State where
  boot : Boot := .off
  masts : List Nat := []               -- mast cores that run (R397)
  time : Nat := 0                      -- ns of the halyard clock
  timebase : W64 := 0
  boundary : Nat := 1000               -- halyard time of the next interval boundary (R363)
  mem : List Host.Cell := []
  vers : NMap Nat := []                -- version words, by sector
  pois : List Nat := []                -- poisoned quarters
  cached : List Line := []             -- lines the caches hold, the newest first
  stale : List Stale := []             -- copies not yet invalidated
  owned : List (Nat × Nat) := []       -- engine-owned 128-byte lines: line, operation
  ops : List Op := []
  nextId : Nat := 1
  vis : NMap Vi := []
  ctxs : NMap Ctx := []
  kernels : NMap Kernel := []
  launches : NMap Launch := []
  teams : NMap Team := []
  groups : NMap Group := []
  cores : NMap Core := []
  dies : NMap Die := []
  temps : NMap Nat := []               -- junction temperatures of the other dies in °C: I/O die 8, base dies 9-24 (R405)
  clusters : NMap Cluster := []
  heaps : NMap Heap := []
  shrouds : NMap Shroud := []
  ports : NMap Port := []
  seqWords : NMap W32 := []
  tlb : List TlbEnt := []
  walks : List Walk := []
  faults : List PageFault := []
  notices : List Nat := []             -- operations that wait for an arena block
  refused : List Nat := []             -- operations whose notice was refused
  evq : List EvSlot := []              -- the event queue (R360, R391)
  events : List Event := []
  responses : List Resp := []
  outN : Nat := 0                      -- messages numbered so far (R389)
  evSeq : NMap Nat := []               -- per header VI, the events posted (R384)
  answers : List RmaAns := []
  opSubs : List (Nat × Nat) := []      -- the operator's subscriptions
  passed : List (Cand × Nat) := []
  draining : List Cand := []
  turnVi : NMap Nat := []              -- per priority, the VI that holds the turn (R334)
  pace : Pace := {}
  paceSent : List (Nat × Nat) := []    -- collective packets sent with PACE: port, reef level (R395)
  secure : Secure := {}
  report : List (Nat × Nat) := []      -- out-of-band reports: stage, cause; 0 is success (R404)
  status : List Status := []           -- out-of-band status as it has been read (R404)
  nextFrame : Nat := 16
  retired : List Nat := []
  eccC : NMap (List Nat) := []         -- corrected errors, by frame: when each was found (R401, R403)
  eccU : NMap Nat := []                -- uncorrectable errors, by frame
  eccUnits : NMap (Nat × Nat) := []    -- corrected and uncorrectable errors, by unit (R401)
  seqNext : Nat := 0
  freeN : Nat := 0
  cur : Agent := .none
  turns : List Turn := []
  deriving DecidableEq, Repr

/-- The machine right after power-on: nothing booted, no context, memory with nothing listed. Registers the spec
gives no reset value for hold the values of notes/assumptions/2.md and 12-14. -/
def State.reset : State := {}

end Sys2Proof.Machine
end

