-- ==== Sys2Proof/Machine/Ops.lean ====
section
/-! DEFINITION. The named operations over the state: units and agents by number, memory with its versions, poison and
cached orientations (spec/05), translation (spec/20 R341-R344), operations in flight and the orders between them
(spec/06), events (spec/23 R388), and taking a trap and returning from one (spec/20 R346-R352, R359). -/

namespace Sys2Proof.Machine

/-! ### Units by number -/

def getCore (s : State) (k : Nat) : Core := mget {} s.cores k
def setCore (s : State) (k : Nat) (c : Core) : State := { s with cores := mset {} s.cores k c }
def getDie (s : State) (k : Nat) : Die := mget {} s.dies k
def setDie (s : State) (k : Nat) (d : Die) : State := { s with dies := mset {} s.dies k d }
def getCluster (s : State) (k : Nat) : Cluster := mget {} s.clusters k
def setCluster (s : State) (k : Nat) (c : Cluster) : State := { s with clusters := mset {} s.clusters k c }
def getHeap (s : State) (k : Nat) : Heap := mget {} s.heaps k
def setHeap (s : State) (k : Nat) (h : Heap) : State := { s with heaps := mset {} s.heaps k h }
def getShroud (s : State) (k : Nat) : Shroud := mget {} s.shrouds k
def setShroud (s : State) (k : Nat) (h : Shroud) : State := { s with shrouds := mset {} s.shrouds k h }
def getPort (s : State) (k : Nat) : Port := mget {} s.ports k
def setPort (s : State) (k : Nat) (p : Port) : State := { s with ports := mset {} s.ports k p }

def getGroup (s : State) (gid : Nat) : Option Group := mfind s.groups gid
def modGroup (s : State) (gid : Nat) (f : Group → Group) : State := { s with groups := mmod s.groups gid f }
def modTeam (s : State) (t : Nat) (f : Team → Team) : State := { s with teams := mmod s.teams t f }
def modCtx (s : State) (c : Nat) (f : Ctx → Ctx) : State := { s with ctxs := mmod s.ctxs c f }
def modLaunch (s : State) (l : Nat) (f : Launch → Launch) : State := { s with launches := mmod s.launches l f }

/-- A thread of a group. -/
def thread (g : Group) (tid : Nat) : Thread := g.threads.getD tid { st := .neverLaunched }
def setThread (g : Group) (tid : Nat) (t : Thread) : Group := { g with threads := g.threads.set tid t }
def modThread (s : State) (gid tid : Nat) (f : Thread → Thread) : State :=
  modGroup s gid (fun g => setThread g tid (f (thread g tid)))
/-- Change several threads of a group. -/
def modThreads (s : State) (gid : Nat) (tids : List Nat) (f : Nat → Thread → Thread) : State :=
  modGroup s gid (fun g => tids.foldl (fun g t => setThread g t (f t (thread g t))) g)

/-- Key of a kernel in the map of kernels. -/
def kernelKey (ctx kid : Nat) : Nat := ctx * 2 ^ 32 + kid
def getKernel (s : State) (ctx kid : Nat) : Option Kernel := mfind s.kernels (kernelKey ctx kid)

/-- A thread is live (R20). -/
def live (t : Thread) : Bool :=
  match t.st with
  | .exited => false
  | .neverLaunched => false
  | _ => true

/-- The die of a core, and its cluster: cores 2c and 2c + 1 share cluster c (R8). -/
def dieOf (core : Nat) : Nat := core / Config.coresPerDie
def clusterOf (core : Nat) : Nat := core / 2

/-! ### Placement of addresses (R86) -/

def stackOf (pa : Nat) : Nat := Nat.xor (bitsOf pa 15 12) (bitsOf pa 19 16)
def channelOf (pa : Nat) : Nat := bitsOf pa 11 10 * 128 + bitsOf pa 26 20
def homeDie (pa : Nat) : Nat := stackOf pa / 2

/-! ### Memory: bytes, versions, poison (R85, R95, R103) -/

def rdByte (s : State) (pa : Nat) : Byte := mget 0 s.mem pa
def rdBytes (s : State) (pa n : Nat) : List Byte := (rangeFrom pa n).map (rdByte s)
def wrByte (s : State) (pa : Nat) (b : Byte) : State := { s with mem := mset 0 s.mem pa b }
/-- Little-endian read of n bytes. -/
def rdMem (s : State) (pa n : Nat) : Nat := leVal (rdBytes s pa n)
/-- Put bytes at an address, with no version or poison effect. -/
def wrBytes : State → Nat → List Byte → State
  | s, _, [] => s
  | s, pa, b :: bs => wrBytes (wrByte s pa b) (pa + 1) bs

def sectorOf (pa : Nat) : Nat := pa / 1024
def quarterOf (pa : Nat) : Nat := pa / 32
def version (s : State) (sector : Nat) : Nat := mget 0 s.vers sector
/-- Add to a sector's version word, modulo 2^32 (R95). -/
def bumpVersion (s : State) (sector k : Nat) : State :=
  { s with vers := mset 0 s.vers sector ((version s sector + k) % 2 ^ 32) }
def isPoisoned (s : State) (quarter : Nat) : Bool := s.pois.contains quarter
def setPoison (s : State) (quarter : Nat) (on : Bool) : State :=
  { s with pois := if on then sinsert quarter s.pois else s.pois.filter (· ≠ quarter) }

/-! ### Caches (R87, R88, R93, R94; notes/assumptions/37.md) -/

/-- The units of a die's L2 and remote-data cache, and of a base die's LLC. -/
def l2Unit (die : Nat) : Nat := 384 + die
def rdcUnit (die : Nat) : Nat := 392 + die
def llcUnit (stack : Nat) : Nat := 400 + stack

/-- Lines of 128 bytes that a unit holds, or sectors of the LLC (R12). -/
def cacheLines (unit : Nat) : Nat := if unit < Config.cores then 2048 else if unit < 392 then 262144 else 131072

/-- The second level of a core's die for an address: its L2 holds home lines, its RDC the others (R9, R87). -/
def secondUnit (core pa : Nat) : Nat := if homeDie pa = dieOf core then l2Unit (dieOf core) else rdcUnit (dieOf core)

/-- The line of an address in an orientation: 0 for ROW, k for COL lines of elements of 2^(k-1) bytes (R92, R93). -/
def linePart (orient pa : Nat) : Nat :=
  let off := pa % 1024
  if orient = 0 then off / 128
  else
    let e := 2 ^ (orient - 1)
    off / 32 / (32 / e) * (8 / e) + off % 32 / e / 4

/-- The line of an address in a unit: a whole sector in the LLC. -/
def lineAt (unit ctx orient pa : Nat) : Line :=
  if 400 ≤ unit then { unit := unit, ctx := ctx, sector := sectorOf pa, part := 0, orient := 0 }
  else { unit := unit, ctx := ctx, sector := sectorOf pa, part := linePart orient pa, orient := orient }

/-- Two lines are one: the same unit, context, sector, part and orientation (R93, R328). -/
def Line.is (a b : Line) : Bool :=
  a.unit == b.unit && a.ctx == b.ctx && a.sector == b.sector && a.part == b.part && a.orient == b.orient

/-- The ROW line holds a quarter. -/
def Line.holds (l : Line) (q : Nat) : Bool :=
  l.orient == 0 && l.sector == q / 32 && l.part == q % 32 / 4 && !l.gone.contains q

/-- The dirty bytes of an L2 line that leaves go to its sector, where the LLC holds it (R94). -/
def mergeLine (ls : List Line) (l : Line) : List Line :=
  if l.dirty = 0 then ls
  else ls.map (fun x => if 400 ≤ x.unit ∧ x.sector = l.sector then { x with dirty := Nat.lor x.dirty l.dirty } else x)

/-- Lines leave their caches, their dirty bytes merged; what they held is stale no more. -/
def dropCached (s : State) (p : Line → Bool) : State :=
  let keep := s.cached.filter (fun l => !p l)
  { s with
    cached := (s.cached.filter p).foldl mergeLine keep
    stale := s.stale.filter (fun t => keep.any (fun l => l.unit == t.unit && l.ctx == t.ctx && l.holds t.quarter)) }

/-- A full unit drops its oldest line before it takes another (R12). -/
def roomFor (s : State) (l : Line) : State :=
  let mine := s.cached.filter (fun x => x.unit == l.unit)
  match mine.getLast? with
  | some x => if cacheLines l.unit ≤ mine.length then dropCached s x.is else s
  | none => s

/-- A unit comes to hold a line (R93). -/
def fillLine (s : State) (l : Line) : State :=
  let there := s.cached.any l.is
  { s with
    cached := if there then s.cached.map (fun x => if l.is x then { x with gone := [] } else x) else l :: (roomFor s l).cached
    stale := if there then s.stale else (roomFor s l).stale }

/-- A copy of a quarter in a unit is invalidated (R87). -/
def invalQuarter (s : State) (unit q : Nat) : State :=
  { s with
    cached := s.cached.map (fun l => if l.unit == unit && l.holds q then { l with gone := q :: l.gone } else l)
    stale := s.stale.filter (fun t => !(t.unit == unit && t.quarter == q)) }

/-- Who writes at a home: an operation of a core, whose L1 and RDC are updated with it (R87), a shroud (R102), or another
agent. -/
inductive Writer where
  | home
  | shroud
  | core (k op : Nat)
  deriving DecidableEq, Repr

/-- An L1 or an RDC, which hold copies of what a home L2 holds. -/
def isCopy (unit : Nat) : Bool := decide (unit < Config.cores) || (decide (392 ≤ unit) && decide (unit < 400))

/-- The lines that a write of a quarter leaves with an old copy: none but L1s' and RDCs', and not the writer's own. -/
def leftBehind (s : State) (w : Writer) (q : Nat) : List Line :=
  match w with
  | .core k _ => s.cached.filter (fun l => l.holds q && isCopy l.unit && l.unit != k && l.unit != rdcUnit (dieOf k))
  | _ => []

/-- A write of a quarter is accepted: the copies that an earlier write has left behind are gone before (R87). A core's write
leaves the copies of other units behind, until each is invalidated (R107); an engine's, a shroud's, a port's and Maluk's
invalidates them at once, and a shroud takes the quarter from the home L2 too (R102). -/
def acceptCopies (s : State) (w : Writer) (q : Nat) : State :=
  let s := ((s.stale.filter (fun t => t.quarter == q)).map (·.unit)).foldl (fun s u => invalQuarter s u q) s
  let drop (s : State) : State :=
    { s with cached := s.cached.map (fun l => if l.holds q && isCopy l.unit then { l with gone := q :: l.gone } else l) }
  match w with
  | .home => drop s
  | .shroud => drop (dropCached s (fun l => l.holds q && decide (384 ≤ l.unit) && decide (l.unit < 392)))
  | .core _ op =>
    let bs := rdBytes s (q * 32) 32
    let p := isPoisoned s q
    { s with stale := s.stale ++ (leftBehind s w q).map (fun l =>
        { unit := l.unit, ctx := l.ctx, quarter := q, bytes := bs, pois := p, op := op }) }

/-- The home L2 holds written bytes dirty, or the LLC where the L2 does not hold their line (R87). -/
def markDirty (ls : List Line) (orient pa : Nat) : List Line :=
  let l2 (l : Line) : Bool :=
    l.unit == l2Unit (homeDie pa) && l.sector == sectorOf pa && l.orient == orient && l.part == linePart orient pa
  let llc (l : Line) : Bool := decide (400 ≤ l.unit) && l.sector == sectorOf pa
  let hit := ls.any l2
  ls.map (fun l => if (if hit then l2 l else llc l) then { l with dirty := Nat.lor l.dirty (2 ^ (pa % 1024)) } else l)

/-- One write to a quarter is performed, indivisibly with its version increment (R85, R87, R94, R95, R103): bytes by
address, all in one quarter. Lines of the sector in another orientation are merged and gone before. -/
def performQuarter (s : State) (w : Writer) (orient : Nat) (bs : List (Nat × Byte)) (pois : Bool) : State :=
  match bs with
  | [] => s
  | (pa, _) :: _ =>
    let q := quarterOf pa
    let s := dropCached s (fun l => l.sector == sectorOf pa && l.orient != orient && decide (l.unit < 400))
    let s := acceptCopies s w q
    let s := { s with cached := bs.foldl (fun ls x => markDirty ls orient x.1) s.cached }
    let s := bumpVersion (bs.foldl (fun s x => wrByte s x.1 x.2) s) (sectorOf pa) 2
    if pois then setPoison s q true else if bs.length = 32 then setPoison s q false else s

/-! ### Scratchpad (R89, R90) -/

/-- The fields of a scratchpad address. -/
structure SAddr where
  remote : Bool
  member : Nat
  resv : Nat
  rot : Nat
  off : Nat
  deriving DecidableEq, Repr

def saddr (w : Nat) : SAddr :=
  { remote := bitOf w 31, member := bitsOf w 30 27, resv := bitsOf w 26 25, rot := bitsOf w 24 22, off := bitsOf w 21 0 }

/-- The position of the byte at an offset under a rotation: bank row, bank, byte (R90). -/
def spos (rot a : Nat) : Nat :=
  let r := if rot = 0 then 0 else bitsOf a (10 + rot) (6 + rot)
  a / 128 * 128 + (bitsOf a 6 2 + r) % 32 * 4 + a % 4

/-- The team a scratchpad address reaches: its own, or a gang member's index (R38, R89). -/
def steam (k : Kernel) (t : Team) (a : SAddr) : Option Nat :=
  if a.remote then some (t.index / k.gang * k.gang + a.member) else none

/-- Members of a team's gang (R38): the last gang holds the remainder. -/
def gangMembers (k : Kernel) (l : Launch) (index : Nat) : Nat := min k.gang (l.teams - index / k.gang * k.gang)

/-- The key of team `index` of a launch in the map of teams. -/
def teamKey (launch index : Nat) : Nat := launch * 2 ^ 24 + index

def rdScratch (s : State) (team pos : Nat) : Byte :=
  match mfind s.teams team with
  | none => 0
  | some t => mget 0 t.scratch pos
def wrScratch (s : State) (team pos : Nat) (b : Byte) : State :=
  modTeam s team (fun t => { t with scratch := mset 0 t.scratch pos b })
/-- The words of the 32-byte quarter under a position: eight neighbours by OFFSET, where the rotation has put them (R85,
R90, R103). -/
def quarterWords (rot pos : Nat) : List Nat :=
  let row := pos / 128
  let r := if rot = 0 then 0 else bitsOf (row * 128) (10 + rot) (6 + rot)
  let w := (pos / 4 + 32 - r) % 32
  (rangeFrom (w / 8 * 8) 8).map (fun v => row * 32 + (v + r) % 32)
/-- Mark the words of scratchpad quarters as poisoned, or no longer (R103). -/
def poisonScratch (s : State) (team : Nat) (ws : List Nat) (on : Bool) : State :=
  modTeam s team (fun t => { t with spois := if on then sunion t.spois ws else t.spois.filter (fun x => !ws.contains x) })

/-- Scratchpad poison under a position. -/
def scratchPoisoned (s : State) (team pos : Nat) : Bool :=
  match mfind s.teams team with
  | none => false
  | some t => t.spois.contains (pos / 4)

/-! ### Operations in flight and what a load sees (R87, R88, R106, R107) -/

/-- The locations of a tile's scratchpad side (R221). -/
def tileScratch (team : Nat) (addr : W32) : List Loc :=
  let a := saddr addr.toNat
  (rangeFrom a.off 1024).map (fun p => .s team (spos a.rot p))

/-- Locations an operation will write. -/
def partLocs (ps : List (List (Loc × Byte))) : List Loc := ps.flatMap (fun p => p.map (·.1))

/-- The value a pending store holds for a location, the last one listed. -/
def pendingByte (l : Loc) : List (Loc × Byte) → Option Byte
  | [] => none
  | (k, b) :: ps => match pendingByte l ps with
    | some c => some c
    | none => if k = l then some b else none

/-- A location of the global space. -/
def isGlobal (l : Loc) : Bool :=
  match l with
  | .g _ => true
  | .s _ _ => false

/-- Global bytes that an operation stores when it is performed, and which its thread or its core can see before (R88,
R107). -/
def storedBytes (o : Op) : List (Loc × Byte) :=
  match o.kind with
  | .store ps _ => (ps.flatMap id).filter (fun x => isGlobal x.1)
  | .go _ ps => (ps.flatMap id).filter (fun x => isGlobal x.1)
  | _ => []

/-- The operation stands in this agent's program order: its own, or a uniform one of its run (R105). -/
def isOwn (who : Who) (o : Op) : Bool :=
  o.who == who || (match who, o.who with
    | .thread t, .thread u => t.gid == u.gid && o.run.contains t.tid
    | _, _ => false)

/-- How late a pending store stands for a viewer of a core (R107): one that is written into the core's L1, at its place
there; the viewer's own that is not, after those. Another's is not seen. `before` leaves out the viewer's later ones. -/
def viewRank (core : Nat) (who : Who) (before : Nat) (o : Op) : Option (Bool × Nat) :=
  match o.l1 with
  | some k => if o.core = core then some (false, k) else none
  | none => if isOwn who o && decide (o.id < before) then some (true, o.id) else none

/-- A rank stands later than another. -/
def laterRank (a b : Bool × Nat) : Bool := if a.1 == b.1 then decide (a.2 < b.2) else b.1

/-- The latest pending store of a list that a viewer sees at a location. -/
def overlay (core : Nat) (who : Who) (before : Nat) (l : Loc) : List Op → Option ((Bool × Nat) × Byte) → Option Byte
  | [], acc => acc.map (·.2)
  | o :: os, acc =>
    overlay core who before l os
      (match viewRank core who before o, pendingByte l (storedBytes o) with
        | some r, some b => if acc.all (fun a => laterRank a.1 r) then some (r, b) else acc
        | _, _ => acc)

/-- An access of a core that reads at the home leaves no older copy of a quarter in its L1 or its die's RDC (R94, R97). -/
def freshQuarter (s : State) (core q : Nat) : State :=
  if core < Config.cores then invalQuarter (invalQuarter s core q) (rdcUnit (dieOf core)) q else s

/-- A load of a core fills its L1, unless it is not allocated there, its die's second level, the home L2 and the LLC (R87); an
L1 that is filled from an RDC holds what that holds. -/
def fillFrom (s : State) (core ctx orient pa : Nat) (l1 : Bool) : State :=
  if Config.cores ≤ core then s
  else
    let s := fillLine s (lineAt (llcUnit (stackOf pa)) ctx orient pa)
    let s := fillLine s (lineAt (l2Unit (homeDie pa)) ctx orient pa)
    let s := fillLine s (lineAt (secondUnit core pa) ctx orient pa)
    if !l1 then s
    else
      let l := lineAt core ctx orient pa
      let s := fillLine s l
      { s with stale := s.stale ++ s.stale.filterMap (fun t =>
          if t.unit == rdcUnit (dieOf core) && t.ctx == ctx && l.holds t.quarter
              && !s.stale.any (fun x => x.unit == core && x.ctx == ctx && x.quarter == t.quarter)
          then some { t with unit := core } else none) }

/-- The copy of a quarter that a core reads in place of its home's: one that is not yet invalidated in its L1 or its die's
RDC (R87, R107), in a line of its context (R328). -/
def staleAt (s : State) (core ctx q : Nat) : Option Stale :=
  if core < Config.cores then
    s.stale.find? (fun t => t.quarter == q && t.ctx == ctx && (t.unit == core || t.unit == rdcUnit (dieOf core)))
  else none

/-- The byte at a location as its home holds it. -/
def homeByte (s : State) (l : Loc) : Byte :=
  match l with
  | .g pa => rdByte s pa
  | .s t p => rdScratch s t p

/-- The byte at a location as a core's caches or its home hold it. -/
def copyByte (s : State) (core ctx : Nat) (l : Loc) : Byte :=
  match l with
  | .g pa => (match staleAt s core ctx (quarterOf pa) with
    | some t => t.bytes.getD (pa % 32) 0
    | none => rdByte s pa)
  | .s t p => rdScratch s t p

/-- The byte a load of this viewer returns now (R88, R107). -/
def seenByte (s : State) (core ctx : Nat) (who : Who) (before : Nat) (l : Loc) : Byte :=
  match overlay core who before l s.ops none with
  | some b => b
  | none => copyByte s core ctx l

/-- Is the byte's quarter or word poisoned? -/
def locPoisoned (s : State) (l : Loc) : Bool :=
  match l with
  | .g pa => isPoisoned s (quarterOf pa)
  | .s t p => scratchPoisoned s t p

/-- Does this viewer read poison at the location (R103): its quarter is poisoned as it sees it, and no pending store that
it sees covers the quarter whole? -/
def seenPoison (s : State) (core ctx : Nat) (who : Who) (l : Loc) : Bool :=
  match l with
  | .s t p => scratchPoisoned s t p
  | .g pa =>
    let q := quarterOf pa
    (match staleAt s core ctx q with
      | some t => t.pois
      | none => isPoisoned s q)
      && !s.ops.any (fun o => (viewRank core who s.nextId o).isSome
        && (rangeFrom (q * 32) 32).all (fun a => (pendingByte (.g a) (storedBytes o)).isSome))

/-- Perform a write of bytes that lie in one quarter; `rot` places the words of a scratchpad's (R90). -/
def performPart (s : State) (w : Writer) (orient : Nat) (part : List (Loc × Byte)) (pois : Bool) (rot : Nat := 0) : State :=
  match part with
  | [] => s
  | (.g _, _) :: _ =>
    performQuarter s w orient (part.filterMap (fun x => match x.1 with
      | .g pa => some (pa, x.2)
      | .s _ _ => none)) pois
  | (.s t p, _) :: _ =>
    let s := part.foldl (fun s x => match x.1 with
      | .s t p => wrScratch s t p x.2
      | .g _ => s) s
    if pois then poisonScratch s t (quarterWords rot p) true
    else if part.length = 32 then poisonScratch s t (part.map (fun x => match x.1 with
      | .s _ q => q / 4
      | .g _ => p / 4)) false
    else s

def findOp (s : State) (id : Nat) : Option Op := s.ops.find? (fun o => o.id == id)
def dropOp (s : State) (id : Nat) : State := { s with ops := s.ops.filter (fun o => o.id != id) }
def putOp (s : State) (o : Op) : State := { s with ops := s.ops.map (fun p => if p.id = o.id then o else p) }
/-- A reach goes beyond the writer's own core: copies elsewhere may hide a write from it. -/
def Reach.wide (r : Reach) : Bool :=
  match r with
  | .order => false
  | .done => false
  | _ => true

/-- A reach takes in the readers of a unit's copies. -/
def Reach.covers (r : Reach) (unit : Nat) : Bool :=
  match r with
  | .order => false
  | .done => false
  | .core k => unit == k || unit == rdcUnit (dieOf k)
  | .die d => (decide (unit < Config.cores) && dieOf unit == d) || unit == rdcUnit d
  | .all => true

/-- A copy left behind keeps a write from the reach that a wait names. -/
def Dep.kept (d : Dep) (t : Stale) : Bool :=
  d.op == t.op && d.quarter.all (· == t.quarter) && d.reach.covers t.unit

/-- An operation in flight keeps a wait: but for one of reach `order`, once the store stands in its core's L1. -/
def Dep.keeps (d : Dep) (o : Op) : Bool := d.op == o.id && (d.reach != .order || o.l1.isNone)

/-- All that is waited for has come about: the operations are performed, and their writes have reached as far as asked. -/
def depsDone (s : State) (deps : List Dep) : Bool :=
  s.ops.all (fun o => !deps.any (fun d => d.keeps o)) && s.stale.all (fun t => !deps.any (fun d => d.kept t))

/-- Waits for operations to be performed. -/
def performed (ids : List Nat) : List Dep := ids.map (fun i => { op := i })

/-- Waits joined, each once. -/
def joinDeps (a b : List Dep) : List Dep := a ++ b.filter (fun d => !a.contains d)

/-- Operations that read or write at the home of their global bytes, past the core's L1. -/
def atHome (o : Op) : Bool :=
  match o.kind with
  | .store _ _ => true
  | .go _ _ => true
  | .tileRead _ _ _ _ => true
  | .tileWrite _ _ _ _ _ _ _ _ => true
  | .atomic _ _ _ _ => true
  | .link _ _ _ _ => true
  | .post _ _ => true
  | .system (.flush _) => true
  | .system (.clearPoison _) => true
  | _ => false

/-- Engine operations, which fences do not wait for (R110). -/
def isEngine (o : Op) : Bool :=
  match o.kind with
  | .copy _ _ _ => true
  | .call _ _ _ _ => true
  | .drain _ _ _ => true
  | _ => false

/-- Accesses of an agent that a fence, a release or an engine issue waits for (R110, R115, R120). -/
def isAccess (o : Op) : Bool :=
  match o.kind with
  | .load _ _ _ => true
  | .store _ _ => true
  | .tileRead _ _ _ _ => true
  | .tileWrite _ _ _ _ _ _ _ _ => true
  | .atomic _ _ _ _ => true
  | .go _ _ => true
  | .link _ _ _ _ => true
  | .post _ _ => true
  | .semInc _ _ _ _ _ => true
  | .semRead _ _ _ _ => true
  | _ => false

/-- An operation on a semaphore. -/
def semOf (o : Op) : Option (Nat × Nat × Nat) :=
  match o.kind with
  | .semInc c x i _ _ => some (c, x, i)
  | .semRead c x i _ => some (c, x, i)
  | _ => none

/-- Pending stores that a core's threads see (R88). -/
def isStore (o : Op) : Bool :=
  match o.kind with
  | .store _ _ => true
  | .tileRead _ _ _ _ => true
  | .tileWrite _ _ _ _ _ _ _ _ => true
  | .go _ _ => true
  | .atomic _ _ _ _ => true
  | .link _ _ _ _ => true
  | .post _ _ => true
  | _ => false

/-- Locations an operation reads or writes; of an engine, those it writes. -/
def opLocs (o : Op) : List Loc :=
  match o.kind with
  | .load ls _ _ => ls
  | .store ps _ => partLocs ps
  | .go _ ps => partLocs ps
  | .tileRead pa t a _ => (rangeFrom pa 1024).map .g ++ tileScratch t a
  | .tileWrite pa t a _ _ _ _ _ => (rangeFrom pa 1024).map .g ++ tileScratch t a
  | .atomic ls _ _ _ => ls
  | .link _ _ ls _ => ls
  | .post _ ls => ls
  | .system (.flush pa) => (rangeFrom (pa / 1024 * 1024) 1024).map .g
  | .system (.clearPoison pa) => (rangeFrom pa 32).map .g
  | .copy c _ _ => c.elems.flatMap (fun e => (e.dst.filterMap (·.locs)).flatMap id)
  | _ => []

/-- Two lists of locations share one. -/
def meets (a b : List Loc) : Bool := a.any (fun l => b.contains l)

/-- A store in the core's L1 stands before this operation, which waits at the home for the store's common byte (R106). -/
def l1Blocked (s : State) (o : Op) : Bool :=
  atHome o && s.ops.any (fun p => p.core == o.core && p.id != o.id && (match p.l1, o.l1 with
    | some j, some k => decide (j < k)
    | some _, none => true
    | none, _ => false)
    && meets ((storedBytes p).map (·.1)) (opLocs o))

/-- The quarter of a location is written whole by an operation when it is performed, which clears its poison (R103). -/
def covers (o : Op) (l : Loc) : Bool :=
  match l with
  | .g pa => (rangeFrom (quarterOf pa * 32) 32).all (fun a => match o.kind with
    | .store ps _ => (partLocs ps).contains (.g a)
    | .go _ ps => (partLocs ps).contains (.g a)
    | .tileWrite tile _ _ _ _ _ _ _ => decide (tile ≤ a ∧ a < tile + 1024)
    | _ => false)
  | .s _ _ => (match o.kind with
    | .store ps _ => ps.any (fun p => p.length == 32 && p.any (fun x => x.1 == l))
    | .tileRead _ t a _ => (tileScratch t a).contains l
    | _ => false)

/-- The 128-byte lines of global locations, ascending (R99, R101). -/
def linesOf (ls : List Loc) : List Nat :=
  sunion [] (ls.filterMap (fun l => match l with
    | .g pa => some (pa / 128)
    | .s _ _ => none))

/-- The readers outside the core that the instance of a scope takes in (R104): for the team's, its other core when its groups
lie on two. -/
def scopeReach (s : State) (g : Group) (scope : Nat) : Reach :=
  match scope with
  | 0 => .done
  | 1 => .done
  | 2 => match g.team.bind (mfind s.teams) with
    | none => .done
    | some t => match t.groups.findSome? (fun j => (getGroup s j).bind (fun h => if h.core ≠ g.core then some h.core else none)) with
      | some k => .core k
      | none => .done
  | 3 => .die (dieOf g.core)
  | _ => .all

/-- The stores, whoever wrote them, that the threads of a context on a core see and that readers within a reach beyond the core
may not see yet (R110): those in the core's L1, and performed ones that some copy still hides. -/
def visibleDeps (s : State) (core ctx : Nat) (r : Reach) : List Dep :=
  if r.wide then
    s.ops.filterMap (fun o => if o.core == core && o.l1.isSome then some { op := o.id, reach := r } else none)
    ++ s.stale.filterMap (fun t =>
      if (staleAt s core ctx t.quarter).isNone then some { op := t.op, reach := r, quarter := some t.quarter } else none)
  else []

/-- What a fence of a thread waits for (R110): its own accesses, and the stores of others that it sees. A store that one of its
loads in flight will return joins when that load has returned (`carry`). -/
def fenceDeps (s : State) (core ctx : Nat) (who : Who) (r : Reach) : List Dep :=
  s.ops.filterMap (fun o => if isOwn who o && isAccess o then some { op := o.id, reach := r } else none)
    ++ visibleDeps s core ctx r

/-- Put an operation in flight. -/
def addOp (s : State) (o : Op) : State := { s with ops := s.ops ++ [{ o with id := s.nextId }], nextId := s.nextId + 1 }

/-! ### Completion flags (R128, R129) -/

/-- Outstanding count of a flag. -/
def flagCount (g : Group) (f : Nat) : Nat := (g.toks.filter (fun t => t.flag == f && decide (0 < t.left))).length

/-- Every flag of a mask has count zero. -/
def flagsZero (g : Group) (mask : Nat) : Bool := (List.range 12).all (fun f => !bitOf mask f || flagCount g f == 0)

/-- A counted execution of n operations begins; a flag of 15 counts nothing. -/
def addTok (g : Group) (id flag n : Nat) : Group :=
  if flag < 12 ∧ 0 < n then { g with toks := g.toks ++ [{ id := id, flag := flag, left := n }] } else g

/-- More operations join a counted execution. -/
def raiseTok (g : Group) (id n : Nat) : Group :=
  { g with toks := g.toks.map (fun t => if t.id = id then { t with left := t.left + n } else t) }

/-- One operation of a counted execution has completed. -/
def lowerTok (g : Group) (id : Nat) : Group :=
  let ts := g.toks.map (fun t => if t.id = id then { t with left := t.left - 1 } else t)
  { g with toks := ts.filter (fun t => decide (0 < t.left)) }

/-! ### Events -/

/-- The endpoints of a list of subscriptions that subscribe an event kind. -/
def subscribers (kind : Nat) (l : List (Nat × Nat)) : List Nat := dedupN ((l.filter (fun x => bitOf x.2 (kind - 0x80))).map (·.1))

/-- The endpoints that an event goes to: its own, else those of its VI, or of the operator, subscribed to its kind (R388,
R390). -/
def eventDests (s : State) (e : Event) : List Nat :=
  if e.endpoint ≠ 0 then [e.endpoint]
  else if e.op then subscribers e.kind s.opSubs
  else subscribers e.kind (((mfind s.vis e.vi).map (·.subs)).getD [])

/-- Post an event (R388). -/
def post (s : State) (e : Event) : State :=
  { s with
    events := s.events ++ [{ e with dests := eventDests s e, seq := mget 0 s.evSeq e.vi, at_ := s.outN }]
    evSeq := mset 0 s.evSeq e.vi ((mget 0 s.evSeq e.vi + 1) % 2 ^ 32)
    outN := s.outN + 1 }
/-- An event about a launch goes to its endpoint (R388). -/
def postLaunch (s : State) (lid kind : Nat) (body : List Byte) : State :=
  match mfind s.launches lid with
  | none => s
  | some l =>
    let vi := match mfind s.ctxs l.ctx with
      | some c => c.vi
      | none => 0
    post s { kind := kind, vi := vi, endpoint := l.endpoint, op := false, body := body }
/-- Pad a body to a multiple of 8 bytes (R390). -/
def pad8 (b : List Byte) : List Byte := b ++ List.replicate ((8 - b.length % 8) % 8) 0
/-- The trap record as 32 bytes (R348). -/
def trapBytes (t : TrapRec) : List Byte :=
  leBytes 4 t.status.toNat ++ leBytes 8 t.clause.toNat ++ leBytes 8 t.addr.toNat ++ leBytes 4 t.info.toNat
    ++ leBytes 4 t.info2.toNat ++ leBytes 4 t.opcode.toNat


/-! ### Semaphores (R98, R228) -/

def semKey (ctx index : Nat) : Nat := ctx * 64 + index
def semVal (s : State) (core ctx index : Nat) : W32 := mget 0 (getCore s core).sems (semKey ctx index)
def satAdd32 (a b : W32) : W32 := BitVec.ofNat 32 (min (a.toNat + b.toNat) 0xFFFFFFFF)

/-- Threads of a context on a core that wait for a semaphore return when its value reaches their threshold (R228). -/
def wakeSem (s : State) (core ctx index : Nat) (v : W32) : State :=
  { s with groups := s.groups.map (fun (gid, g) =>
      let mine := g.core == core && (match mfind s.launches g.launch with
        | some l => l.ctx == ctx
        | none => false)
      (gid, if mine then
        { g with threads := g.threads.map (fun t =>
            match t.st with
            | .waiting (.sem i th) => if i = index && decide (th ≤ v.toNat) then { t with st := .ready } else t
            | _ => t) }
      else g)) }

/-- Set a semaphore and release its waiters. -/
def setSem (s : State) (core ctx index : Nat) (v : W32) : State :=
  let c := getCore s core
  wakeSem (setCore s core { c with sems := mset 0 c.sems (semKey ctx index) v }) core ctx index v

/-- A completion word's increment (R234, R242). On a core where the context has never been placed R98 names no value to add to:
the increment is kept, from zero, and seen when the context is first placed there (notes/assumptions/33.md). -/
def complete (s : State) (ctx : Nat) (w : Compl) : State :=
  if w.en then
    let core := w.die * Config.coresPerDie + w.core
    setSem s core ctx w.index (satAdd32 (semVal s core ctx w.index) (BitVec.ofNat 32 w.amount))
  else s

/-- The completion word, split (R234); `none` when it breaks R234. -/
def complOf (w : Nat) : Option Compl :=
  let c : Compl :=
    { en := bitOf w 31, scope := bitsOf w 30 28, die := bitsOf w 27 25, core := bitsOf w 24 19,
      index := bitsOf w 18 13, amount := bitsOf w 12 0 }
  if c.en then (if c.scope < 6 ∧ c.core < 48 then some c else none)
  else (if w = 0 then some c else none)

/-! ### Writing results (R50, R59, R60) -/

/-- Write words to consecutive registers of a thread, and clear their pending bits and poison. -/
def putRegs (t : Thread) (abs : Nat) (ws : List W32) (pois : Bool) : Thread :=
  let ks := rangeFrom abs ws.length
  { t with
    regs := (ks.zip ws).foldl (fun m kv => mset 0 m kv.1 kv.2) t.regs
    pend := t.pend.filter (fun k => !ks.contains k)
    rpois := if pois then sunion t.rpois ks else t.rpois.filter (fun k => !ks.contains k) }

/-- A result arrives: written to each thread's registers, or to the scalar register; an exited thread discards it
(R60). A poisoned one marks the registers, and what reads one of them raises POISON (R103, R401). -/
def arrive (s : State) (d : Dst) (v : Nat) (pois : Bool) : State :=
  modGroup s d.gid (fun g =>
    let g := d.regs.foldl (fun g r =>
      let t := thread g r.1
      if t.st = .exited then g else setThread g r.1 (putRegs t r.2 (leWords d.n v) pois)) g
    match d.scal with
    | none => g
    | some k => { g with
        scal := mset 0 g.scal k (BitVec.ofNat 64 v)
        spend := g.spend.filter (· ≠ k)
        spois := if pois then sinsert k g.spois else g.spois.filter (· ≠ k) })

/-- The predicates that go with a result (R265). -/
def arrivePreds (s : State) (d : Dst) (b : Bool) : State :=
  modGroup s d.gid (fun g => d.preds.foldl (fun g p =>
    let t := thread g p.1
    setThread g p.1 { t with preds := (t.preds &&& ~~~(1#8 <<< p.2)) ||| (if b then 1#8 <<< p.2 else 0#8) }) g)

/-! ### Page tables and translation (R341-R344) -/

/-- The kind of an access. -/
inductive Acc where
  | read | write | fetch
  deriving DecidableEq, Repr

/-- Permission of an access (R342). -/
def permits (a : Acc) (r w x : Bool) : Bool :=
  match a with
  | .read => r
  | .write => w
  | .fetch => x

/-- A translation: frame of the page, its size and its permissions. -/
structure Leaf where
  page : Nat
  size : Nat
  pa : Nat
  read : Bool
  write : Bool
  exec : Bool
  deriving DecidableEq, Repr

/-- VA bits and page size of the levels L0 to L4 (R342). -/
def levelShift : Nat → Nat
  | 0 => 48 | 1 => 39 | 2 => 30 | 3 => 21 | _ => 12
def levelBits : Nat → Nat
  | 0 => 8 | _ => 9

/-- A leaf entry read at a level. -/
def leafOf (level va ent : Nat) : Except Nat Leaf :=
  let size := if level = 4 ∧ bitOf ent 5 then 2 ^ 16 else 2 ^ levelShift level
  let frame := bitsOf ent 47 12 * 4096
  if frame % size ≠ 0 then .error 4
  else .ok { page := va / size * size, size := size, pa := frame, read := bitOf ent 2, write := bitOf ent 3, exec := bitOf ent 4 }

/-- The walk from a level down, with `n` levels left (R342, R343). -/
def walkFrom (s : State) (va : Nat) : Nat → Nat → Nat → Except Nat Leaf
  | 0, _, _ => .error 4
  | n + 1, level, table =>
    let ent := rdMem s (table + (va >>> levelShift level) % 2 ^ levelBits level * 8) 8
    if !bitOf ent 0 then .error 0
    else if bitsOf ent 63 48 ≠ 0 ∨ bitsOf ent 11 6 ≠ 0 ∨ (bitOf ent 5 ∧ level ≠ 4) then .error 4
    else if bitOf ent 1 then (if level < 2 then .error 4 else leafOf level va ent)
    else if level = 4 then .error 4
    else walkFrom s va n (level + 1) (bitsOf ent 47 12 * 4096)

/-- The walk of a context's tables (R342). -/
def walk (s : State) (c : Ctx) (va : Nat) : Except Nat Leaf := walkFrom s va 5 0 c.root

/-- The windows of a context that hold an address. -/
def windowsAt (c : Ctx) (va : Nat) : List Window := c.windows.filter (fun w => decide (w.va ≤ va ∧ va < w.va + w.size))

/-- A cached translation of a unit: its own, or its die's second level (R344). -/
def tlbFind (s : State) (unit ctx va : Nat) : Option TlbEnt :=
  s.tlb.find? (fun e => (e.unit == unit || (decide (unit < Config.cores) && e.unit == 384 + dieOf unit))
    && e.ctx == ctx && decide (e.page ≤ va ∧ va < e.page + e.size))

/-- Translate a global address for an access (R84, R341, R343); the error is the reason of R343. A launch's argument block
is readable and not writable, whatever its page permits (R62). -/
def translate (s : State) (unit ctx va : Nat) (a : Acc) : Except Nat Nat :=
  match mfind s.ctxs ctx with
  | none => .error 1
  | some c =>
    let ws := windowsAt c va
    let args := ws.any (fun w => w.kind == .args)
    if 2 ^ 56 ≤ va then .error 3
    else if a = .write ∧ args then .error 2
    else if c.heapBase ≤ va ∧ va < c.heapLimit then
      (if a = .fetch then .error 2 else .ok ((va + c.heapOff) % 2 ^ 48))
    else if ws.isEmpty then .error 1
    else
      match tlbFind s unit ctx va with
      | some e => if permits a (e.read || args) e.write e.exec then .ok (e.pa + (va - e.page)) else .error 2
      | none =>
        match walk s c va with
        | .error r => .error r
        | .ok l => if permits a (l.read || args) l.write l.exec then .ok (l.pa + (va - l.page)) else .error 2

/-- The first byte of a range that lies in an argument block, which a write of the range may not reach (R62). -/
def argsIn (s : State) (ctx va n : Nat) : Option Nat :=
  (mfind s.ctxs ctx).bind (fun c =>
    (c.windows.find? (fun w => w.kind == .args && decide (w.va < va + n ∧ va < w.va + w.size))).map (fun w => max va w.va))

/-- Does the access miss the first-level TLB (R344): not in the heap and not held there? -/
def missesTlb (s : State) (unit ctx va : Nat) : Bool :=
  match mfind s.ctxs ctx with
  | none => false
  | some c =>
    !(decide (c.heapBase ≤ va ∧ va < c.heapLimit)) &&
      !(s.tlb.any (fun e => e.unit == unit && e.ctx == ctx && decide (e.page ≤ va ∧ va < e.page + e.size)))

/-- A miss asks the die's walk scheduler (R345), once for each page. -/
def askWalk (s : State) (die unit ctx va : Nat) (exec : Exec) : State :=
  if s.walks.any (fun w => w.unit == unit && w.ctx == ctx && w.va / 4096 == va / 4096) then s
  else { s with
    walks := s.walks ++ [{ id := s.nextId, die := die, unit := unit, ctx := ctx, va := va, at_ := s.time, exec := exec }]
    nextId := s.nextId + 1 }

/-- Entries that a translation unit holds (R344). -/
def tlbSize (unit : Nat) : Nat := if unit < Config.cores then 512 else if unit < 400 then 32768 else 4096

/-- A unit comes to hold a translation; a full one drops its oldest. -/
def tlbFill (s : State) (e : TlbEnt) : State :=
  let l := s.tlb.filter (fun x => !(x.unit == e.unit && x.ctx == e.ctx && x.page == e.page && x.size == e.size))
  let mine := l.filter (fun x => x.unit == e.unit)
  let l := if tlbSize e.unit ≤ mine.length then (match mine.head? with
    | some x => l.erase x
    | none => l) else l
  { s with tlb := l ++ [e] }

/-- The die whose walk scheduler serves a translation unit: a core's, or a base die's. -/
def walkDie (unit : Nat) : Nat := if unit < Config.cores then dieOf unit else (unit - 400) / 2

/-- A unit translates an address: one that it does not hold comes from its die's second level, or asks for a walk
(R344). -/
def touchUnit (s : State) (unit ctx va : Nat) (exec : Exec) : State :=
  if missesTlb s unit ctx va then
    match tlbFind s unit ctx va with
    | some e => tlbFill s { e with unit := unit }
    | none => askWalk s (walkDie unit) unit ctx va exec
  else s

/-- A first-level miss is counted for the group that makes the access (R358). -/
def countMiss (s : State) (gid core ctx va : Nat) : State :=
  if missesTlb s core ctx va then modGroup s gid (fun g => { g with tlbMisses := g.tlbMisses + 1 }) else s

/-- The execution of a group's run at a slot. -/
def runExec (s : State) (gid slot : Nat) : Exec := .run gid (((getGroup s gid).map (·.clauses.toNat)).getD 0) slot

/-- A core's access to an address for a run at a slot. -/
def touchTlb (s : State) (gid core ctx slot va : Nat) : State :=
  touchUnit (countMiss s gid core ctx va) core ctx va (runExec s gid slot)

/-! ### Accesses and engines (R101, R106, R115) -/

/-- Bytes of a drained value. -/
def drainSize (d : Drain) : Nat := if d.fine then 4 else 4096

/-- The lines of a range of addresses on pages that a unit can write now. -/
def rangeLines (s : State) (unit ctx va n : Nat) : List Nat :=
  if n = 0 then []
  else (List.range ((va % 4096 + n + 4095) / 4096)).flatMap (fun i =>
    let lo := max va ((va / 4096 + i) * 4096)
    let hi := min (va + n) ((va / 4096 + i + 1) * 4096)
    match translate s unit ctx (lo % 2 ^ 64) .write with
    | .ok pa => rangeFrom (pa / 128) ((pa + (hi - lo) - 1) / 128 - pa / 128 + 1)
    | .error _ => [])

/-- The global lines that an engine writes (R101); before its place in the pocket order says which, those that a drain may
write. -/
def engineLines (s : State) (o : Op) : List Nat :=
  match o.kind with
  | .copy _ _ _ => linesOf (opLocs o)
  | .drain d _ ls =>
    if d.placed then ls
    else rangeLines s o.core o.ctx d.keys (8 * d.max) ++ rangeLines s o.core o.ctx d.vals (drainSize d * d.max)
  | _ => []

/-- What an access to these locations waits for: the thread's own accesses of a common byte (R106), where a load sees its
thread's own pending store, and a store stands after one in the core's L1; and engines of the core that write a common
line (R115). A store to a word that an `STT` still reads stands after it, so that the old value is the one stored, of the two
that R223 allows (notes/assumptions/42.md). -/
def overlapDeps (s : State) (core : Nat) (who : Who) (locs : List Loc) (stores : Bool) : List Dep :=
  let lines := linesOf locs
  s.ops.filterMap (fun o =>
    if isOwn who o && isAccess o && meets (opLocs o) locs then
      (if (storedBytes o).isEmpty then some { op := o.id }
       else if stores then some { op := o.id, reach := .order }
       else none)
    else if o.core == core && isEngine o && (engineLines s o).any (fun l => lines.contains l) then some { op := o.id }
    else none)

/-- Does an access of this viewer meet poison as it issues (R103)? A quarter that an earlier access of its own, or an engine
that it waits for, may still write whole is judged when the access is performed. -/
def issuePoison (s : State) (core ctx : Nat) (who : Who) (l : Loc) : Bool :=
  seenPoison s core ctx who l && !s.ops.any (fun o =>
    (isOwn who o && isAccess o && covers o l)
      || (o.core == core && isEngine o && (linesOf [l]).any (fun x => (engineLines s o).contains x)))

/-! ### Maluk's frames and mappings -/

/-- The next frame Maluk allocates, past retired ones (R403). -/
def nextFree (retired : List Nat) : Nat → Nat → Nat
  | 0, k => k
  | n + 1, k => if retired.contains k then nextFree retired n (k + 1) else k

/-- Allocate a frame: its address; none beyond the memory of the package (R12). -/
def allocFrame (s : State) : Option (Nat × State) :=
  let k := nextFree s.retired s.retired.length s.nextFrame
  if Config.frames ≤ k then none else some (k * 4096, { s with nextFrame := k + 1 })

/-- n frames in a row, past retired ones; none beyond the memory of the package (R12). -/
def allocRun (s : State) (n align : Nat) : Option (Nat × State) :=
  let first := roundUp s.nextFrame align
  let k := if s.retired.any (fun r => decide (first ≤ r ∧ r < first + n)) then
      roundUp (max first (s.retired.foldl max 0 + 1)) align else first
  if Config.frames < k + n then none else some (k * 4096, { s with nextFrame := k + n })

/-- Write a page-table entry. -/
def wrEntry (s : State) (pa v : Nat) : State := wrBytes s pa (leBytes 8 v)

/-- Map one 4 KiB page from a level down, making tables as needed (R342); it stays unmapped where no frame is left for
one. -/
def mapFrom (va frame flags : Nat) : Nat → Nat → Nat → State → State
  | 0, _, _, s => s
  | n + 1, level, table, s =>
    let pa := table + (va >>> levelShift level) % 2 ^ levelBits level * 8
    if level = 4 then wrEntry s pa (frame + flags + 3)
    else
      let ent := rdMem s pa 8
      if bitOf ent 0 then mapFrom va frame flags n (level + 1) (bitsOf ent 47 12 * 4096) s
      else
        match allocFrame s with
        | none => s
        | some (f, s) => mapFrom va frame flags n (level + 1) f (wrEntry s pa (f + 1))

/-- READ, WRITE and EXEC as entry bits. -/
def permFlags (r w x : Bool) : Nat := (if r then 4 else 0) + (if w then 8 else 0) + (if x then 16 else 0)

/-- The permissions Maluk gives a page: those of the windows that hold it, a page shared by windows of several kinds
getting every permission that one of them has. -/
def pagePerms (c : Ctx) (va : Nat) : Nat :=
  let ws := c.windows.filter (fun w => decide (w.va < va / 4096 * 4096 + 4096 ∧ va / 4096 * 4096 < w.va + w.size) && w.kind != .args)
  permFlags (ws.any (·.read)) (ws.any (·.write)) (ws.any (·.exec))

/-- Maluk makes the page of an address present (R352), while it has a frame for it. -/
def makePresent (s : State) (ctx va : Nat) : State :=
  match mfind s.ctxs ctx with
  | none => s
  | some c =>
    match walk s c va with
    | .error 0 =>
      match allocFrame s with
      | none => s
      | some (f, s) => mapFrom va f (pagePerms c va) 5 0 c.root s
    | _ => s

/-! ### Context records (R326) -/

/-- The FLAGS of a context's record, as memory holds them: VALID, PRIV, SUSPENDED. -/
def ctxFlags (s : State) (c : Ctx) : Nat := rdMem s (c.recAt + 4) 4

/-- QUOTA of a context's record, as memory holds it (R371). -/
def quotaOf (s : State) (c : Ctx) : Int := sext 64 (rdMem s (c.recAt + 0x60) 8)

/-- The addresses of a context's QUOTA. -/
def quotaBytes (s : State) (ctx : Nat) : List Nat :=
  match mfind s.ctxs ctx with
  | none => []
  | some c => rangeFrom (c.recAt + 0x60) 8

/-- The 128 bytes of a context's record; SUSPENDED is not Maluk's to change. -/
def recordBytes (s : State) (id : Nat) (c : Ctx) : List Byte :=
  leBytes 4 id ++ leBytes 4 ((if c.priv then 3 else 1) + (if bitOf (ctxFlags s c) 2 then 4 else 0)) ++ leBytes 2 c.vi
    ++ leBytes 6 0 ++ leBytes 8 c.heapBase ++ leBytes 8 c.heapLimit ++ leBytes 8 c.heapOff ++ leBytes 8 c.root
    ++ leBytes 8 c.imageBase ++ leBytes 8 c.arenaBase ++ leBytes 4 c.arenaBlocks ++ leBytes 4 c.arenaMax
    ++ leBytes 8 c.semImage
    ++ (List.range 16).flatMap (fun i => leBytes 1 (match mfind c.heapMap i with
      | some h => 128 + h % 16
      | none => 0))
    ++ leBytes 8 (wrapN 64 c.quota) ++ leBytes 4 c.seqBase ++ leBytes 4 c.seqCount ++ leBytes 16 0

/-- Maluk writes a context's record. -/
def writeRecord (s : State) (id : Nat) : State :=
  match mfind s.ctxs id with
  | none => s
  | some c => wrBytes s c.recAt (recordBytes s id c)

/-- Maluk changes a context's record, with the QUOTA that the record holds. -/
def modRecord (s : State) (id : Nat) (f : Ctx → Ctx) : State :=
  writeRecord (modCtx s id (fun c => f { c with quota := quotaOf s c })) id

/-- What hardware takes from a context's record when it reads it. -/
def loadRecord (s : State) (c : Ctx) : Ctx :=
  let at_ (off n : Nat) : Nat := rdMem s (c.recAt + off) n
  { c with
    priv := bitOf (at_ 4 4) 1, vi := at_ 8 2, heapBase := at_ 0x10 8, heapLimit := at_ 0x18 8, heapOff := at_ 0x20 8,
    root := at_ 0x28 8, imageBase := at_ 0x30 8, arenaBase := at_ 0x38 8, arenaBlocks := at_ 0x40 4,
    arenaMax := at_ 0x44 4, semImage := at_ 0x48 8,
    heapMap := (List.range 16).foldl (fun m i => if bitOf (at_ (0x50 + i) 1) 7 then mput m i (at_ (0x50 + i) 1 % 16) else m) []
    quota := quotaOf s c, seqBase := at_ 0x68 4, seqCount := at_ 0x6C 4 }

/-- Hardware reads a context's record: when it places a team, and when it switches context. -/
def readRecord (s : State) (id : Nat) : State := modCtx s id (loadRecord s)

/-- Make every page of a range present. -/
def makeRange (s : State) (ctx va n : Nat) : State :=
  (List.range ((va % 4096 + n + 4095) / 4096)).foldl (fun s i => makePresent s ctx (va + i * 4096)) s

/-! ### Bounds of thread registers (R63) -/

/-- A trap with its record fields (R348). -/
structure Trap where
  code : Nat
  addr : Nat := 0
  info : Nat := 0
  info2 : Nat := 0
  deferred : Bool := false
  opcode : Option Nat := none
  deriving DecidableEq, Repr

/-- Trap codes (R346). -/
def cUSER : Nat := 0x00
def cILLEGAL : Nat := 0x01
def cTARGET : Nat := 0x02
def cMUST : Nat := 0x03
def cREG : Nat := 0x04
def cBAR : Nat := 0x05
def cSCRATCH : Nat := 0x06
def cCANVAS : Nat := 0x07
def cDIVERGE : Nat := 0x08
def cEXHAUST : Nat := 0x09
def cPAGE : Nat := 0x0A
def cWINDOW : Nat := 0x0B
def cALIGN : Nat := 0x0C
def cPOISON : Nat := 0x0D
def cFIELD : Nat := 0x0E
def cARENA : Nat := 0x0F
def cTELLTALE : Nat := 0x10
def cPRIV : Nat := 0x11

/-! ### Taking a trap (R311, R346-R352) -/

/-- Where a trap stands: the flight, the opcode with X, whether the slot holds a twin, whether the whole run takes it,
whether it is a header fault. -/
structure TrapAt where
  hdr : W64
  slot : Nat
  opcode : Nat
  ext : Bool
  uniform : Bool
  header : Bool
  deriving DecidableEq, Repr

/-- The resume point of a trap (R347). -/
def resumePoint (a : TrapAt) : W64 := if a.slot = 0 then a.hdr else a.hdr + 8 + BitVec.ofNat 64 (4 * a.slot)

/-- The trap record that a trap writes (R348). -/
def recordOf (a : TrapAt) (t : Trap) : TrapRec :=
  { status := BitVec.ofNat 32 (t.code + (if a.header || t.deferred then 0 else a.slot) * 2 ^ 8
      + (if a.ext then 2 ^ 12 else 0) + (if a.uniform then 2 ^ 13 else 0) + (if t.deferred then 2 ^ 14 else 0))
    clause := a.hdr
    addr := BitVec.ofNat 64 t.addr
    info := BitVec.ofNat 32 t.info
    info2 := BitVec.ofNat 32 t.info2
    opcode := BitVec.ofNat 32 (if a.header then 0x3FF else t.opcode.getD a.opcode) }

/-- The handler mode that a trap enters (R349, R350). -/
def handlerOf (a : TrapAt) (t : Trap) : Handler :=
  { point := resumePoint a, clause := a.hdr, slot := a.slot, ext := a.ext, header := a.header, code := t.code,
    record := recordOf a t }

/-- The records of a fault event: the first trap's and the second's for a thread in handler mode (R350). -/
def faultRecs (h : Option Handler) (r : TrapRec) : List TrapRec :=
  match h with
  | some h => [h.record, r]
  | none => [r]

/-- Post the FAULT event of a parked thread: TAG, the records, the thread and group (R350, R388). -/
def postFault (s : State) (lid gid tid : Nat) (recs : List TrapRec) : State :=
  match mfind s.launches lid with
  | none => s
  | some l => postLaunch s lid 0x81 (pad8 (leBytes 8 l.utag ++ recs.flatMap trapBytes ++ leBytes 4 tid
      ++ leBytes 4 (((getGroup s gid).map (·.grp)).getD 0)))

/-- A thread leaves its run (R22). -/
def leaveRun (g : Group) (tid : Nat) : Group :=
  { g with flight := g.flight.map (fun f => { f with run := f.run.filter (· ≠ tid) }) }

/-- Deliver a user-class trap to a thread (R350): the vector, or parking with a FAULT event. The thread's own state is
otherwise as the trapping instruction found it (R311). -/
def deliverUser (s : State) (k : Option Kernel) (lid gid tid sub : Nat) (a : TrapAt) (tr : Trap) : State :=
  match getGroup s gid with
  | none => s
  | some g =>
    let t := thread g tid
    let r := recordOf a tr
    match k.bind (·.trapvec), t.handler with
    | some v, none =>
      modThread s gid tid (fun t => { t with
        st := .ready
        pc := BitVec.ofNat 64 (((k.map (·.text)).getD 0) + v)
        trap := r
        handler := some (handlerOf a tr) })
    | _, h =>
      let s := modThread s gid tid (fun t => { t with st := .parked sub, pc := resumePoint a, trap := r })
      postFault s lid gid tid (faultRecs h r)

/-- Park a thread on a page fault: the record is written, and the fault waits for Maluk (R350-R352). -/
def parkPage (s : State) (gid tid sub : Nat) (a : TrapAt) (tr : Trap) : State :=
  modThread s gid tid (fun t => { t with st := .parked sub, pc := resumePoint a, trap := recordOf a tr })

/-- The pending walks of executions are discarded (R345). -/
def dropWalks (s : State) (p : Exec → Bool) : State := { s with walks := s.walks.filter (fun w => w.going || !p w.exec) }

/-- Add a thread to the page fault of its sub-group. -/
def notePage (fs : List PageFault) (sub ctx : Nat) (tr : Trap) (t : Tid) : List PageFault :=
  match fs with
  | [] => [{ sub := sub, ctx := ctx, va := tr.addr, reason := tr.info2, threads := [t] }]
  | f :: r =>
    if f.sub = sub ∧ f.va = tr.addr ∧ f.reason = tr.info2 then { f with threads := f.threads ++ [t] } :: r
    else f :: notePage r sub ctx tr t

/-- Taking traps: threads of one execution that trap, each with its own (R22, R346, R351). They leave the run; those that park
are of the sub-group `sub`. The execution's pending walks are discarded (R345). -/
def takeTrapsAs (s : State) (sub : Nat) (k : Option Kernel) (ctx lid gid : Nat) (a : TrapAt) (ts : List (Nat × Trap)) : State :=
  ts.foldl (fun s (tid, tr) =>
    let s := dropWalks (modGroup s gid (fun g => leaveRun g tid)) (· == runExec s gid a.slot)
    if tr.code = cPAGE ∧ !tr.deferred then
      { parkPage s gid tid sub a tr with faults := notePage s.faults sub ctx tr { gid := gid, tid := tid } }
    else deliverUser s k lid gid tid sub a tr) s

/-- The sub-group of the threads that trap at the slot of a run in flight: the one that earlier ones have formed, else a new
one (R351). -/
def subOf (s : State) (gid : Nat) : Nat :=
  match ((getGroup s gid).bind (·.flight)).map (·.sub) with
  | some n => if n = 0 then s.nextId else n
  | none => s.nextId

/-- A run in flight keeps the number of the sub-group that its trapping threads form. -/
def keepSub (g : Group) (sub : Nat) : Group := { g with flight := g.flight.map (fun f => { f with sub := sub }) }

/-- Threads of a run in flight trap at its slot (R351). -/
def takeTraps (s : State) (k : Option Kernel) (ctx lid gid : Nat) (a : TrapAt) (ts : List (Nat × Trap)) : State :=
  if ts.isEmpty then s
  else
    let sub := subOf s gid
    takeTrapsAs (modGroup { s with nextId := s.nextId + 1 } gid (fun g => keepSub g sub)) sub k ctx lid gid a ts

/-- Kernel of a launch. -/
def kernelOf (s : State) (lid : Nat) : Option Kernel := (mfind s.launches lid).bind (fun l => getKernel s l.ctx l.kid)
/-- Context number of a launch. -/
def ctxOf (s : State) (lid : Nat) : Nat := ((mfind s.launches lid).map (·.ctx)).getD 0

/-! ### Deferred traps (R256) -/

/-- Deferred traps of a thread split into the first that `p` names and the others. -/
def takeDeferred (p : Deferred → Bool) : List Deferred → Option (Deferred × List Deferred)
  | [] => none
  | d :: l =>
    if p d then some (d, l)
    else (takeDeferred p l).map (fun x => (x.1, d :: x.2))

/-- A deferred trap as a thread raises it: its INFO is the flag index (R348). -/
def deferTrap (d : Deferred) : Trap :=
  { code := d.code, addr := d.addr.toNat, info := d.flag, info2 := d.info2.toNat, deferred := true, opcode := some d.opcode }

/-- The launch's report of a fault that a thread has not raised before it exited (R256): a FAULT event. -/
def reportDeferred (s : State) (lid : Nat) (x : Tid) (pc : W64) (d : Deferred) : State :=
  let a : TrapAt := { hdr := pc, slot := 0, opcode := d.opcode, ext := false, uniform := false, header := false }
  postFault s lid x.gid x.tid [recordOf a (deferTrap d)]

/-- A deferred trap waits at each thread of a launch that signed or issued the operation; that of a thread that has exited
passes to the launch's report. -/
def noteDeferred (s : State) (lid : Nat) (xs : List Tid) (d : Deferred) : State :=
  xs.foldl (fun s x =>
    match (getGroup s x.gid).map (fun g => thread g x.tid) with
    | some t =>
      if live t then modThread s x.gid x.tid (fun t => { t with deferred := t.deferred ++ [d] })
      else reportDeferred s lid x t.pc d
    | none => reportDeferred s lid x 0 d) s

/-- The deferred traps that a wait on a mask of flags raises: those counted on one of them, and those counted on no
flag. -/
def namedBy (mask : Nat) (d : Deferred) : Bool := d.flag == 15 || bitOf mask d.flag

/-- A thread's wait on flags is over: it returns to READY (R170), or raises a deferred trap at its WAITF (R256). -/
def wakeThread (s : State) (gid : Nat) (g : Group) (tid : Nat) : State :=
  let t := thread g tid
  match t.st with
  | .waiting (.flags mask hdr slot exec) =>
    if !flagsZero g mask then s
    else
      let s := modThread s gid tid (fun t => { t with st := .ready })
      match takeDeferred (namedBy mask) t.deferred with
      | none => s
      | some (d, r) =>
        let s := modThread s gid tid (fun t => { t with deferred := r })
        takeTrapsAs s exec (kernelOf s g.launch) (ctxOf s g.launch) g.launch gid
          { hdr := hdr, slot := slot, opcode := 0x010, ext := false, uniform := false, header := false } [(tid, deferTrap d)]
  | _ => s

/-- Every thread of a group whose flags are all zero goes on. -/
def wakeFlags (s : State) (gid : Nat) : State :=
  match getGroup s gid with
  | none => s
  | some g => (List.range g.threads.length).foldl (fun s i => wakeThread s gid g i) s

/-- A counted execution of a group falls by one (R128). -/
def lowerFlag (s : State) (gid tok : Nat) : State :=
  if tok = 0 then s else wakeFlags (modGroup s gid (fun g => lowerTok g tok)) gid

/-- A wait list after an operation has left: what waited for it as far as a scope waits for the stores that its core sees now,
one of which it may have returned (R105, R110, R111). -/
def carryDeps (s : State) (o : Op) (ds : List Dep) : List Dep :=
  ds.foldl (fun acc d => if d.op = o.id then joinDeps acc (visibleDeps s o.core o.ctx d.reach) else acc) ds

/-- Every list of waits, after an operation has left: of operations, threads, barrier phases, cleat signers and shrouds. -/
def carry (s : State) (o : Op) : State :=
  let f := carryDeps s o
  { s with
    ops := s.ops.map (fun p => { p with deps := f p.deps })
    groups := s.groups.map (fun x => (x.1, { x.2 with threads := x.2.threads.map (fun t => { t with fence := f t.fence }) }))
    teams := s.teams.map (fun x => (x.1, { x.2 with
      cleats := x.2.cleats.map (fun c => (c.1, { c.2 with signers := c.2.signers.map (fun g => { g with deps := f g.deps }) }))
      barDeps := x.2.barDeps.map (fun b => (b.1, f b.2))
      barDone := x.2.barDone.map (fun b => (b.1, f b.2)) }))
    shrouds := s.shrouds.map (fun x => (x.1, { x.2 with
      threads := x.2.threads.map (fun t => (t.1, { t.2 with fence := f t.2.fence })) })) }

/-- An operation has completed: it leaves, its flag count falls (R128), and threads that waited on it go on. -/
def finishOp (s : State) (o : Op) : State :=
  let s := carry (dropOp s o.id) o
  match o.who with
  | .thread t => lowerFlag s t.gid o.tok
  | _ => s

/-! ### Returning from a trap (R349, R359) -/

/-- The counter `TRET.SKIP` gives: the next slot after the trapping instruction, or the next clause header; after a
header fault the next header of the chain. -/
def skipPoint (h : Handler) (len : Nat) : W64 :=
  let next := h.clause + 8 + BitVec.ofNat 64 (4 * (if len = 0 then 1 else len))
  if h.header then next
  else
    let k := h.slot + (if h.ext then 2 else 1)
    if len ≤ k then next else h.clause + 8 + BitVec.ofNat 64 (4 * k)

end Sys2Proof.Machine
end

