-- ==== Sys2Proof/Machine/Flags.lean ====
section
/-! DEFINITION. The fields of a clause header (spec/07 R124, R125), the group's runs and yield rule (spec/02 R21-R30),
predicates and end flags, the clause chain (R123), and moving a run past a slot or out of its clause. -/

namespace Sys2Proof.Machine

/-! ### Header fields (R124) -/

def hLen (w : W32) : Nat := bitsOf w.toNat 3 0
def hWait (w : W32) : Nat := bitsOf w.toNat 15 4
def hSeta (w : W32) : Nat := bitsOf w.toNat 19 16
def hSetb (w : W32) : Nat := bitsOf w.toNat 23 20
def hCanvas (w : W32) : Nat := bitsOf w.toNat 27 24
def hMust (w : W32) : Nat := bitsOf w.toNat 31 30

/-- The header check of R126: the trap code it raises. -/
def headerTrap (w0 w1 : W32) : Option Nat :=
  if bitsOf w1.toNat 31 30 ≠ 0 ∨ hLen w0 = 0 ∨ (12 ≤ hSeta w0 ∧ hSeta w0 ≤ 14) ∨ (12 ≤ hSetb w0 ∧ hSetb w0 ≤ 14) then some cILLEGAL
  else if hMust w0 ≠ 0 then some cMUST
  else none

/-- The reuse bits of a slot (R58, R125); no result depends on them. -/
def reuseBits (w1 : W32) (slot : Nat) : Nat := bitsOf w1.toNat (2 * slot + 1) (2 * slot)

/-- The header after a clause of LEN slots at H (R123, R161). -/
def nextHeader (hdr : W64) (len : Nat) : W64 := hdr + 8 + BitVec.ofNat 64 (4 * len)

/-- The address is a clause header of the kernel's text section (R123). -/
def isHeader (k : Kernel) (a : W64) : Bool := decide (k.text ≤ a.toNat) && k.chain.contains (a.toNat - k.text)

/-! ### Predicates and end flags -/

def pred (t : Thread) (k : Nat) : Bool := t.preds.getLsbD k
def setPred (t : Thread) (k : Nat) (b : Bool) : Thread :=
  { t with preds := (t.preds &&& ~~~(1#8 <<< k)) ||| (if b then 1#8 <<< k else 0#8) }
def streamReg (t : Thread) (i : Nat) : StreamReg := mget {} t.streams i
def setStream (t : Thread) (i : Nat) (r : StreamReg) : Thread := { t with streams := mset {} t.streams i r }
def endFlag (t : Thread) (n k : Nat) : Bool := (streamReg t n).flags.getLsbD k

/-! ### Runs (R21, R29, R30) -/

/-- The READY threads of a group with their counters. -/
def readyPcs (g : Group) : List (Nat × W64) :=
  (List.range g.threads.length).filterMap (fun i =>
    let t := thread g i
    if t.st = .ready then some (i, t.pc) else none)

/-- The smallest counter of a list. -/
def minPc : List (Nat × W64) → Option W64
  | [] => none
  | (_, p) :: l =>
    match minPc l with
    | none => some p
    | some q => if p ≤ q then some p else some q

/-- The threads of a list that stand at a counter. -/
def atPc (l : List (Nat × W64)) (p : W64) : List Nat := (l.filter (fun x => x.2 == p)).map (·.1)

/-- The head run: READY threads at the smallest counter (R21). -/
def headRun (g : Group) : List Nat :=
  match minPc (readyPcs g) with
  | none => []
  | some p => atPc (readyPcs g) p

/-- The yield run and its counter (R30): the smallest counter above both the head run's and the cursor, else the second
smallest. -/
def yieldRun (g : Group) : Option (List Nat × W64) :=
  match minPc (readyPcs g) with
  | none => none
  | some h =>
    let above := (readyPcs g).filter (fun x => decide (h < x.2))
    match minPc (above.filter (fun x => decide (g.yCursor < x.2))) with
    | some p => some (atPc above p, p)
    | none =>
      match minPc above with
      | some p => some (atPc above p, p)
      | none => none

/-- State and counter of the threads outside a run (R29). -/
def restOf (g : Group) (run : List Nat) : List (Nat × TState × W64) :=
  (List.range g.threads.length).filterMap (fun i =>
    if run.contains i then none else some (i, (thread g i).st, (thread g i).pc))

/-- The yield count after a clause (R29): reset when the head run's membership or anything outside it has changed, one
more when every thread of the head run took a branch backward. -/
def yieldAfter (g : Group) (fl : Flight) (back : Bool) : Group :=
  let h := headRun g
  let r := restOf g h
  let same := fl.isHead && h == fl.run && r == g.yRest
  { g with yHead := h, yRest := r, yCount := if same then (if back then g.yCount + 1 else g.yCount) else 0 }

/-- A clause ends: its threads get their counters and the flight is over (R22). -/
def endClause (g : Group) (pcs : List (Nat × W64)) (back : Bool) : Group :=
  match g.flight with
  | none => g
  | some fl =>
    let g := pcs.foldl (fun g x => setThread g x.1 { thread g x.1 with pc := x.2 }) g
    yieldAfter { g with flight := none } fl back

/-- The run moves past `n` slots; past the last one its clause ends at the next header. -/
def advance (g : Group) (n : Nat) : Group :=
  match g.flight with
  | none => g
  | some fl =>
    if fl.run.isEmpty then endClause g [] false
    else if fl.slot + n < hLen fl.w0 then { g with flight := some { fl with slot := fl.slot + n, past := [], tok := 0, sub := 0, stall := none } }
    else endClause g (fl.run.map (fun t => (t, nextHeader fl.hdr (hLen fl.w0)))) false

/-- Threads have passed the slot that the run stands at, while a later one stalls the lane (R26). -/
def passed (g : Group) (ts : List Nat) : Group :=
  { g with flight := g.flight.map (fun f => { f with past := f.past ++ ts }) }

/-- The run stalls at its slot (R26, R129). A stall that counts adds one unflagged-stall event when it is first found, and one
for each cycle that passes while it lasts (R59). -/
def stallGroup (g : Group) (counted : Bool) : Group :=
  { g with flight := g.flight.map (fun f => { f with stall := some counted })
           stalls := if counted && !g.flight.any (·.stall == some true) then g.stalls + 1 else g.stalls }

/-- A cycle passes for a group (R59). -/
def stallCycle (g : Group) : Group := if g.flight.any (·.stall == some true) then { g with stalls := g.stalls + 1 } else g

end Sys2Proof.Machine
end

