-- ==== Sys2Proof/Machine/Philox.lean ====
section
/-! DEFINITION. The counter-based generator Philox-4x32-10 and stream positions (spec/09 R205). -/

namespace Sys2Proof.Machine

/-- The four words and two keys of a round. -/
structure PhiloxState where
  x0 : W32
  x1 : W32
  x2 : W32
  x3 : W32
  k0 : W32
  k1 : W32
  deriving DecidableEq, Repr

/-- One round (R205). -/
def philoxRound (s : PhiloxState) : PhiloxState :=
  let p0 := 0xD2511F53 * s.x0.toNat
  let p1 := 0xCD9E8D57 * s.x2.toNat
  { x0 := BitVec.ofNat 32 (p1 / 2 ^ 32) ^^^ s.x1 ^^^ s.k0
    x1 := BitVec.ofNat 32 p1
    x2 := BitVec.ofNat 32 (p0 / 2 ^ 32) ^^^ s.x3 ^^^ s.k1
    x3 := BitVec.ofNat 32 p0
    k0 := s.k0 + 0x9E3779B9
    k1 := s.k1 + 0xBB67AE85 }

/-- n rounds. -/
def philoxRounds : Nat → PhiloxState → PhiloxState
  | 0, s => s
  | n + 1, s => philoxRounds n (philoxRound s)

/-- The four words of a block, by index (R205). -/
def philox (key : W64) (ctr : W128) (i : Nat) : W32 :=
  let s := philoxRounds 10
    { x0 := ctr.extractLsb' 0 32, x1 := ctr.extractLsb' 32 32, x2 := ctr.extractLsb' 64 32, x3 := ctr.extractLsb' 96 32,
      k0 := key.extractLsb' 0 32, k1 := key.extractLsb' 32 32 }
  match i with
  | 0 => s.x0
  | 1 => s.x1
  | 2 => s.x2
  | _ => s.x3

/-- A stream position: ctr * 4 + idx, modulo 2^130 (R205). -/
def position (ctr : W128) (idx : BitVec 2) : Nat := ctr.toNat * 4 + idx.toNat

end Sys2Proof.Machine
end

