-- ==== Sys2Proof/Machine/Operands.lean ====
section
/-! DEFINITION. Every operand form of spec/03 (R45-R57), stream elements (spec/09 R202-R204) and draws (R206-R210), the
checks that precede them (R63, R140), and how a run executes a lane instruction: sources read for each participant,
traps taken, results written (R22, R25, R26, R57). -/

namespace Sys2Proof.Machine

/-- Why a thread does not execute its instruction now: a trap, or a stall (counted or not). -/
inductive Stop where
  | trap (t : Trap)
  | stall (counted : Bool)
  deriving DecidableEq, Repr

/-- The run that executes: its group, flight, kernel, launch and context, the instruction's opcode with X, entry,
modifier and fields. -/
structure Cx where
  gid : Nat
  g : Group
  fl : Flight
  k : Kernel
  l : Launch
  ctx : Nat
  c : Ctx
  grant : Nat
  opcode : Nat
  ext : Bool
  e : Entry
  m : Mod
  f : FR

/-- The run in flight of the current agent, for an instruction of this opcode and fields. -/
def runCx (s : State) (opcode : Nat) (ext : Bool) (e : Entry) (m : Mod) (f : FR) : Option Cx :=
  match s.cur with
  | .group gid =>
    match getGroup s gid with
    | none => none
    | some g =>
      match g.flight, mfind s.launches g.launch with
      | some fl, some l =>
        match getKernel s l.ctx l.kid, mfind s.ctxs l.ctx with
        | some k, some c =>
          some { gid := gid, g := g, fl := fl, k := k, l := l, ctx := l.ctx, c := c,
                 grant := match mfind s.vis c.vi with
                   | some v => v.grant
                   | none => Config.featureMask,
                 opcode := opcode, ext := ext, e := e, m := m, f := f }
        | _, _ => none
      | _, _ => none
  | _ => none

/-- Slots the instruction takes. -/
def Cx.slots (cx : Cx) : Nat := if cx.ext then 2 else 1
/-- The instruction with bit U of no effect: one with no thread-register source, which each thread executes (R131). -/
def Cx.each (cx : Cx) : Cx := { cx with f := { cx.f with u := false } }
/-- Its bit U. -/
def Cx.uni (cx : Cx) : Bool := cx.f.u
/-- The instruction stands last in its clause. -/
def Cx.isLast (cx : Cx) : Bool := decide (hLen cx.fl.w0 ≤ cx.fl.slot + cx.slots)
/-- Where its traps stand. -/
def Cx.here (cx : Cx) (uniform : Bool) : TrapAt :=
  { hdr := cx.fl.hdr, slot := cx.fl.slot, opcode := cx.opcode, ext := cx.ext, uniform := uniform, header := false }
/-- The clause after this one is there. -/
def Cx.hasNext (cx : Cx) : Bool := isHeader cx.k (nextHeader cx.fl.hdr (hLen cx.fl.w0))
/-- The lowest-numbered thread of the run. -/
def Cx.low (cx : Cx) : Nat := cx.fl.run.headD 0
/-- Bit k of the grant. -/
def Cx.granted (cx : Cx) (k : Nat) : Bool := bitOf cx.grant k
/-- Option bits of the modifier. -/
def Cx.opt (cx : Cx) : Nat := optOf cx.m
/-- TYPE of the modifier. -/
def Cx.ty (cx : Cx) : Nat := cx.m.ty.toNat
/-- RND of the modifier. -/
def Cx.rnd (cx : Cx) : Nat := cx.m.rnd.toNat
/-- Who a thread of the run is. -/
def Cx.who (cx : Cx) (tid : Nat) : Who := .thread { gid := cx.gid, tid := tid }
/-- The threads that count as executing what thread `tid` executes: each of a uniform run (R105). -/
def Cx.by (cx : Cx) (tid : Nat) : List Nat := if cx.uni then cx.fl.run else [tid]
/-- What later accesses of these threads wait for (R110, R111). -/
def Cx.fence (cx : Cx) (tid : Nat) : List Dep := (cx.by tid).flatMap (fun t => (thread cx.g t).fence)
/-- Key of the group's team. -/
def Cx.team (cx : Cx) : Option Nat := cx.g.team

/-- The threads of the run that have not passed the instruction yet (R26). -/
def Cx.todo (cx : Cx) : List Nat := cx.fl.run.filter (fun t => !cx.fl.past.contains t)

/-- A thread at work on an instruction: a copy of it that commits when the instruction retires (R206), the addresses it
has touched, and a trap that stands late in the trap order and waits for the earlier ones (`noteRd`). `lane` marks an
instruction of the lane pipeline, whose later accesses do not depend on its draws. -/
structure Work where
  th : Thread
  vas : List Nat := []
  lines : List Nat := []      -- the global addresses it has read at once, whose lines its core comes to hold
  lane : Bool := false
  note : Option Trap := none

/-- Reading operands works on a thread's copy and may stop. -/
abbrev Rd := StateT Work (Except Stop)

/-- The place of a trap among those of one instruction (R173, R212, R215, R255): the checks of its fields and operands,
then the faults of its accesses in the order they are made, then DRAW_EXHAUST and a computed target. That a poisoned
operand register stands with the accesses is notes/assumptions/33.md. -/
def trapRank (code : Nat) : Nat :=
  match code with
  | 0x06 => 1
  | 0x0A => 1
  | 0x0D => 1
  | 0x09 => 2
  | 0x02 => 2
  | _ => 0

/-- The trap that an instruction raises when `t` is met and `n` has been noted before: the first of their order. -/
def firstTrap (n : Option Trap) (t : Trap) : Trap :=
  match n with
  | none => t
  | some n => if trapRank n.code ≤ trapRank t.code then n else t

/-- Stop with a trap, or with the noted one that stands before it. -/
def trapRd {α : Type} (t : Trap) : Rd α := do
  let w ← get
  throw (.trap (firstTrap w.note t))
/-- Note a trap: the checks that stand before it in the trap order are made first. -/
def noteRd (t : Trap) : Rd Unit := modify (fun w => { w with note := some (firstTrap w.note t) })
/-- A noted trap is raised. -/
def settleRd : Rd Unit := do
  let w ← get
  match w.note with
  | some t => throw (.trap t)
  | none => pure ()
/-- The noted trap, for an instruction that raises it later still (R255). -/
def takeNote : Rd (Option Trap) := do
  let w ← get
  set { w with note := none }
  pure w.note
/-- Read an operand whose access may fault, where checks of other operands stand before the fault: none, and the fault is
noted. -/
def readLate {α : Type} (x : Rd α) : Rd (Option α) := fun w =>
  match x w with
  | .ok (v, w') => .ok (some v, w')
  | .error (.trap t) =>
    if trapRank t.code = 1 then .ok (none, { w with note := some (firstTrap w.note t) }) else .error (.trap t)
  | .error e => .error e
/-- Stop with a stall. -/
def stallRd {α : Type} (counted : Bool) : Rd α := throw (.stall counted)

/-! ### Register fields of an instruction and their bounds (R47, R48, R56, R63) -/

/-- A register operand: field code, words, read, written. -/
structure Use where
  code : Nat
  words : Nat
  reads : Bool
  writes : Bool
  deriving DecidableEq, Repr

/-- The register operand a field names, if it names one. -/
def useOf (e : Entry) (m : Mod) (u : Fu) (code : Nat) : List Use :=
  let w (x : Wd) : Nat := if wide e m x then 2 else 1
  let mb := (memBytes m.ty.toNat + 3) / 4
  match u with
  | .src x => [⟨code, w x, true, false⟩]
  | .dst x => [⟨code, w x, false, true⟩]
  | .out x => [⟨code, w x, false, true⟩]
  | .both x => [⟨code, w x, true, true⟩]
  | .scalar => [⟨code, 1, true, false⟩]
  | .pair => [⟨code, 2, true, false⟩]
  | .block n => [⟨code, n, true, false⟩]
  | .blockV n => [⟨code, if bitOf (optOf m) 1 then n + 6 else n, true, false⟩]
  | .blockR n => [⟨code, if bitOf (optOf m) 0 then n + 2 else n, true, false⟩]
  | .memLoad => [⟨code, mb, false, true⟩]
  | .memStore => [⟨code, mb, true, false⟩]
  | .ldo => [⟨code, 8, false, true⟩]
  | .addr => [⟨code, if bitOf (optOf m) 0 then 1 else 2, true, false⟩]
  | .cas => [⟨code, if wide e m .wn then 4 else 2, true, false⟩]
  | .winEven hi => [⟨code, if hi = 92 then 3 else if hi = 88 then 8 else 2, true, true⟩]
  | .svc => [⟨code, 1, false, true⟩, ⟨code + 1, 7, true, false⟩]
  | _ => []

/-- The register operands of an instruction, in field order A, B, D. -/
def uses (e : Entry) (m : Mod) (f : FR) : List Use :=
  useOf e m e.a f.a.toNat ++ (if m.lit then [] else useOf e m e.b f.b.toNat) ++ useOf e m e.d f.d.toNat

/-- The bound check of one window operand (R63): the absolute index of the trap. -/
def boundOf (n wb : Nat) (u : Use) : Option Nat :=
  if u.code < 96 ∧ n < wb + u.code + u.words then some (max (wb + u.code) n) else none

/-- The bound check of a list of operands. -/
def boundsOf (n wb : Nat) (us : List Use) : Option Trap :=
  match us with
  | [] => none
  | u :: r => match boundOf n wb u with
    | some i => some { code := cREG, info := i }
    | none => boundsOf n wb r

/-- A stream operand whose binding does not admit its use (R53). -/
def boundStream (t : Thread) (u : Use) : Bool :=
  if 112 ≤ u.code ∧ u.code < 116 then
    match (streamReg t (u.code - 112)).bind with
    | none => false
    | some b => (!u.reads || !b.write) && (!u.writes || b.write)
  else true

/-- The binding trap of a list of operands, before any access is made (R53, R173, R212, R215, R255). -/
def bindingTrap (t : Thread) (us : List Use) : Option Trap :=
  if us.all (boundStream t) then none else some { code := cILLEGAL }

/-- An operand is a pending register (R26, R59). -/
def pendingUse (g : Group) (t : Thread) (u : Use) : Bool :=
  if u.code < 96 then (rangeFrom (t.wb + u.code) u.words).any (fun k => t.pend.contains k)
  else if u.code < 112 then g.spend.contains (u.code - 96)
  else false

/-! ### Global and scratchpad locations -/

/-- The byte locations of a scratchpad access (R89, R218): the OFFSET of `a` replaced by `off`. -/
def scratchLocs (s : State) (cx : Cx) (a : SAddr) (off : Int) (n : Nat) : Except Trap (List Loc) :=
  let word : Nat := (if a.remote then 2 ^ 31 else 0) + a.member * 2 ^ 27 + a.resv * 2 ^ 25 + a.rot * 2 ^ 22
    + wrapN 22 off
  let bad : Except Trap (List Loc) := .error { code := cSCRATCH, addr := word }
  match cx.team.bind (fun t => (mfind s.teams t).map (fun x => (t, x))) with
  | none => bad
  | some (tk, t) =>
    if a.remote ∧ !cx.granted 8 then .error { code := cILLEGAL }
    else if a.resv ≠ 0 ∨ off < 0 ∨ (cx.k.scratch : Int) < off + n then bad
    else if a.remote ∧ gangMembers cx.k cx.l t.index ≤ a.member then bad
    else
      let key := match steam cx.k t a with
        | none => tk
        | some i => teamKey cx.g.launch i
      .ok ((rangeFrom off.toNat n).map (fun p => .s key (spos a.rot p)))

/-- The byte locations of a global access that lies in one page. -/
def globalLocs (s : State) (cx : Cx) (va n : Nat) (a : Acc) : Except Trap (List Loc) :=
  let bad (at_ r : Nat) : Except Trap (List Loc) :=
    .error { code := cPAGE, addr := at_, info := (if a = .write then 1 else if a = .fetch then 2 else 0), info2 := r }
  match translate s cx.g.core cx.ctx va a, (if a = .write then argsIn s cx.ctx va n else none) with
  | .error r, _ => bad va r
  | .ok _, some x => bad x 2
  | .ok pa, none => .ok ((rangeFrom pa n).map .g)

/-- The team of a scratchpad location has not started (R39). -/
def heldLoc (s : State) (l : Loc) : Bool :=
  match l with
  | .g _ => false
  | .s t _ => (mfind s.teams t).isNone

/-- A global location lies in a line that an engine owns (R99). -/
def ownedLoc (s : State) (l : Loc) : Bool :=
  match l with
  | .g pa => s.owned.any (fun o => o.1 == pa / 128)
  | .s _ _ => false

/-- What an access of a run to these locations waits for: what it does for each thread that counts as executing it (R105). A
uniform load waits until its threads' own stores stand in the core's L1, where it sees each of them (R106, R107). -/
def runOverlap (s : State) (cx : Cx) (tid : Nat) (locs : List Loc) (stores : Bool) : List Dep :=
  (cx.by tid).flatMap (fun t => overlapDeps s cx.g.core (cx.who t) locs (stores || cx.uni))

/-- Operations in flight that an access made at once has to wait for. -/
def blockedNow (s : State) (cx : Cx) (tid : Nat) (locs : List Loc) : Bool :=
  !depsDone s (cx.fence tid) || locs.any (fun l => heldLoc s l || ownedLoc s l)
    || !depsDone s (runOverlap s cx tid locs false)

/-- Read bytes at once, as a stream element or a table entry is read (R186, R204, R210). -/
def readNow (s : State) (cx : Cx) (tid addr : Nat) (locs : List Loc) : Rd (List Byte) := do
  if blockedNow s cx tid locs then stallRd true
  else if locs.any (seenPoison s cx.g.core cx.ctx (cx.who tid)) then trapRd { code := cPOISON, addr := addr }
  else
    match locs with
    | .g pa :: _ => modify (fun w => { w with lines := w.lines ++ [pa] })
    | _ => pure ()
    pure (locs.map (seenByte s cx.g.core cx.ctx (cx.who tid) s.nextId))

/-- Note a touched address. -/
def touch (va : Nat) : Rd Unit := modify (fun w => { w with vas := w.vas ++ [va] })

/-- An `Except Trap` as a read. -/
def liftT {α : Type} (x : Except Trap α) : Rd α :=
  match x with
  | .ok a => pure a
  | .error t => trapRd t

/-! ### Streams (R53, R202, R204) -/

/-- Σ iₖ × STRIDEₖ over the dimensions in use (R202). -/
def streamSum : Nat → List Nat → List Int → Int
  | 0, i :: _, t :: _ => (i : Int) * t
  | n + 1, i :: is, t :: ts => (i : Int) * t + streamSum n is ts
  | _, _, _ => 0

/-- Advance the indices by one element; the end flags it sets (R202). -/
def streamAdvance (b : Stream) : Stream × BitVec 4 :=
  let step : (Bool × List Nat × Nat) → Nat → (Bool × List Nat × Nat) := fun (carry, idx, fl) k =>
    if carry then
      let i := idx.getD k 0 + 1
      if i = b.count.getD k 1 then (true, idx.set k 0, fl + 2 ^ k) else (false, idx.set k i, fl)
    else (carry, idx, fl)
  let (carry, idx, fl) := (List.range (b.ndim + 1)).foldl step (true, b.index, 0)
  let fl := if carry then fl + ((List.range 4).filter (fun k => decide (b.ndim < k))).foldl (fun a k => a + 2 ^ k) 0 else fl
  ({ b with index := idx }, BitVec.ofNat 4 fl)

/-- The locations of a stream's current element, with the address. -/
def streamLocs (s : State) (cx : Cx) (b : Stream) (a : Acc) : Except Trap (Nat × List Loc) :=
  let sum := streamSum b.ndim b.index b.stride
  if b.scratch then
    let w := saddr (b.base.toNat % 2 ^ 32)
    (scratchLocs s cx w ((w.off : Int) + sum) (2 ^ b.esize)).map (fun l => (b.base.toNat % 2 ^ 32, l))
  else
    let va := wrapN 64 ((b.base.toNat : Int) + sum)
    (globalLocs s cx va (2 ^ b.esize) a).map (fun l => (va, l))

/-- Commit an access to a stream in the copy: indices advanced, end flags those it set. -/
def streamDone (i : Nat) (b : Stream) : Rd Unit :=
  modify (fun w =>
    let (b, fl) := streamAdvance b
    { w with th := setStream w.th i { bind := some b, flags := fl } })

/-- The element as an operand value under EXT (R202). -/
def streamExtend (b : Stream) (v : Nat) (wide : Bool) : Nat :=
  let n := 8 * 2 ^ b.esize
  let x := match b.ext with
    | 1 => wrapN 64 (sext n v)
    | 2 => roundF .f32 0 false 0 (fval .bf16 v)
    | 3 => roundF .f32 0 false 0 (fval .f16 v)
    | _ => v
  if wide then x else x % 2 ^ 32

/-- The next element of a read-bound stream (R53). -/
def readStream (s : State) (cx : Cx) (tid i : Nat) (wide : Bool) : Rd Nat := do
  let w ← get
  match (streamReg w.th i).bind with
  | none => trapRd { code := cILLEGAL }
  | some b =>
    if b.write then trapRd { code := cILLEGAL }
    else
      let (addr, locs) ← liftT (streamLocs s cx b .read)
      if !b.scratch then touch addr
      let bs ← readNow s cx tid addr locs
      streamDone i b
      pure (streamExtend b (leVal bs) wide)

/-! ### Draws (R206-R210) -/

/-- The next word of the thread's stream (R205). -/
def nextWord : Rd W32 := do
  let w ← get
  let t := w.th
  let u := philox t.key t.ctr t.idx.toNat
  let t := if t.idx = 3 then { t with idx := 0, ctr := t.ctr + 1 } else { t with idx := t.idx + 1 }
  set { w with th := t }
  pure u

/-- Read n bytes of a table at once (R210). -/
def readTable (s : State) (cx : Cx) (tid va n : Nat) : Rd Nat := do
  let va := va % 2 ^ 64
  let locs ← liftT (globalLocs s cx va n .read)
  touch va
  let bs ← readNow s cx tid va locs
  pure (leVal bs)

/-- k * 2^-24 as an FP32 word, exactly (k below 2^24). -/
def u24 (k : Nat) : Nat := roundF .f32 0 false 0 (.fin false k (-24))

/-- V(u) of R208. -/
def vOf (u : W32) : Nat := u24 (2 * (u.toNat / 2 ^ 9) + 1)

/-- -LN2 of R208. -/
def negLn2 : Nat := 0xBF317218

/-- The REJECT routine (R209), with `n` attempts left. -/
def rejectDraw (s : State) (cx : Cx) (tid dix : Nat) (d : Dist) : Nat → Rd Nat
  | 0 => do
    let w ← get
    if w.lane then noteRd { code := cEXHAUST, info := dix } else trapRd { code := cEXHAUST, info := dix }
    pure 0
  | n + 1 => do
    let lg := ilog2 d.count.toNat
    let u1 ← nextWord
    let j := u1.toNat / 2 ^ (32 - lg)
    let sg := bitOf u1.toNat 24
    let x0 ← readTable s cx tid (d.table.toNat + 4 * j) 4
    let x1 ← readTable s cx tid (d.table.toNat + 4 * (j + 1)) 4
    let x := fmulN x0 (u24 (u1.toNat % 2 ^ 24))
    let accept (x : Nat) : Nat := ffmaN d.p2.toNat (if sg then Nat.xor x (2 ^ 31) else x) d.p1.toNat
    if fltN x x1 then pure (accept x)
    else
      let u2 ← nextWord
      if fltN (fmulN (u24 (u2.toNat / 2 ^ 8)) (fsubN x0 x1)) (fsubN x0 x) then pure (accept x)
      else rejectDraw s cx tid dix d n

/-- One variate under a descriptor (R208). -/
def drawFrom (s : State) (cx : Cx) (tid dix : Nat) (d : Dist) : Rd Nat := do
  match d.kind with
  | 0 =>
    let u ← nextWord
    pure (ffmaN (fsubN d.p2.toNat d.p1.toNat) (u24 (u.toNat / 2 ^ 8)) d.p1.toNat)
  | 1 =>
    let u ← nextWord
    let n := u.toNat / 2 ^ 8 * (d.count.toNat - 1)
    let i := n / 2 ^ 24
    let t0 ← readTable s cx tid (d.table.toNat + 4 * i) 4
    let t1 ← readTable s cx tid (d.table.toNat + 4 * (i + 1)) 4
    pure (ffmaN (fsubN t1 t0) (u24 (n % 2 ^ 24)) t0)
  | 2 =>
    let u ← nextWord
    let n := u.toNat * d.count.toNat
    let i := n / 2 ^ 32
    let ent ← readTable s cx tid (d.table.toNat + 8 * i) 8
    pure (if n % 2 ^ 32 < ent % 2 ^ 32 then i else ent / 2 ^ 32)
  | 3 => rejectDraw s cx tid dix d 64
  | 4 =>
    let u ← nextWord
    let p := fval .f32 d.p1.toNat
    let lim := if isNaN p || !ltV false (.fin false 0 0) p then 0
      else if !ltV false p (.fin false 1 0) then 2 ^ 32
      else match p with
        | .fin _ m e => if 0 ≤ e + 32 then m * 2 ^ (e + 32).toNat else m / 2 ^ (-(e + 32)).toNat
        | _ => 0
    pure (if u.toNat < lim then 1 else 0)
  | _ =>
    let u ← nextWord
    let g := fmulN negLn2 (flog2 (fmulN negLn2 (flog2 (vOf u))))
    pure (ffmaN d.p2.toNat g d.p1.toNat)

/-- The group's descriptor of a distribution register (R54). -/
def distOf (g : Group) (i : Nat) : Dist := mget {} g.dists i

/-! ### Sources -/

/-- Words of consecutive registers of a thread; a poisoned one raises POISON (R401), after the checks of what the words
hold (R212, R215, R255). -/
def readRegs (abs n : Nat) : Rd (List W32) := do
  let w ← get
  if (rangeFrom abs n).any (fun k => w.th.rpois.contains k) then noteRd { code := cPOISON }
  pure ((rangeFrom abs n).map (mget 0 w.th.regs))

/-- A source operand by its field code (R49-R51). A variate is one 32-bit word: as a 64-bit operand it is extended with zeros,
which R49 leaves open (notes/assumptions/33.md). -/
def readCode (s : State) (cx : Cx) (tid code : Nat) (wide : Bool) : Rd Nat := do
  if code < 96 then
    let w ← get
    let ws ← readRegs (w.th.wb + code) (if wide then 2 else 1)
    pure (wordsVal ws)
  else if code < 112 then
    if cx.g.spois.contains (code - 96) then noteRd { code := cPOISON }
    let v := (mget 0 cx.g.scal (code - 96)).toNat
    pure (if wide then v else v % 2 ^ 32)
  else if code < 116 then readStream s cx tid (code - 112) wide
  else if code = 116 then pure 0
  else if code = 117 then pure tid
  else if code = 118 then pure cx.g.grp
  else if code = 119 then
    pure (match cx.team.bind (mfind s.teams) with
      | some t => t.index
      | none => 0xFFFFFFFF)
  else drawFrom s cx tid (code - 120) (distOf cx.g (code - 120))

/-- Operand A. -/
def readA (s : State) (cx : Cx) (tid : Nat) (wide : Bool) : Rd Nat := readCode s cx tid cx.f.a.toNat wide
/-- Operand D as a source (R132). -/
def readD (s : State) (cx : Cx) (tid : Nat) (wide : Bool) : Rd Nat := readCode s cx tid cx.f.d.toNat wide
/-- Operand B, or the sign-extended IMM21 (R135). -/
def readB (s : State) (cx : Cx) (tid : Nat) (wide : Bool) : Rd Nat :=
  if cx.m.lit then pure (wrapN (if wide then 64 else 32) (sext 21 cx.m.low.toNat))
  else readCode s cx tid cx.f.b.toNat wide
/-- A register block (R56). -/
def readBlock (code n : Nat) : Rd (List W32) := do
  let w ← get
  readRegs (w.th.wb + code) n

/-- Width of a `.wn` operand. -/
def Cx.wide (cx : Cx) : Bool := inMask cx.e.w64 cx.m.ty.toNat
/-- Its number of bits. -/
def Cx.bits (cx : Cx) : Nat := if cx.wide then 64 else 32
/-- A signed TYPE of R156. -/
def Cx.sgn (cx : Cx) : Bool := cx.ty == 0 || cx.ty == 2

/-! ### Destinations -/

/-- Where field D of a thread leads: registers from an absolute index, a scalar register, an element of a write-bound
stream, or nowhere. -/
inductive Plan where
  | win (abs : Nat)
  | scal (k : Nat)
  | strm (b : Stream) (addr : Nat) (locs : List Loc)
  | none
  deriving DecidableEq, Repr

/-- Take the destination of field D (R53: after all reads; the stream's address is taken and it advances). -/
def planD (s : State) (cx : Cx) (code : Nat) : Rd Plan := do
  let w ← get
  if code < 96 then pure (.win (w.th.wb + code))
  else if code < 112 then pure (.scal (code - 96))
  else if code < 116 then
    match (streamReg w.th (code - 112)).bind with
    | none => trapRd { code := cILLEGAL }
    | some b =>
      if !b.write then trapRd { code := cILLEGAL }
      else
        let (addr, locs) ← liftT (streamLocs s cx b .write)
        if !b.scratch then touch addr
        streamDone (code - 112) b
        pure (.strm b addr locs)
  else pure .none

/-- What an instruction does for one thread: words for D, what a scalar D receives, predicates, a change of the
thread, and whether the result comes after the lane pipeline. -/
structure Out where
  words : List W32 := []
  scalar : Option W64 := none
  preds : List (Nat × Bool) := []
  upd : Thread → Thread := id
  long : Bool := false

/-- A result of one register, of a pair, or of the entry's width. -/
def out32 (v : Nat) : Out := { words := [BitVec.ofNat 32 v] }
def out64 (v : Nat) : Out := { words := leWords 2 v }
def outN (cx : Cx) (v : Nat) : Out := if cx.wide then out64 v else out32 v

/-- A participant that has read its sources. -/
structure Got (α : Type) where
  tid : Nat
  val : α
  work : Work
  plan : Plan

/-- Outcome of reading for a list of participants: a stall, or those that go on and those that trap. -/
structure ReadRes (α : Type) where
  stall : Option Bool := none
  got : List (Got α) := []
  traps : List (Nat × Trap) := []

/-- A trap that stands between the bounds and the stream traps: REG_BOUND of an index that MOVREL or MOVRW computes (R63,
R173), PRIV of a heap slot (R255, R286). -/
def earlyTrap (s : State) (cx : Cx) (tid : Nat) : Option Trap :=
  let t := thread cx.g tid
  let check (code : Nat) (w : Work) : Option Trap :=
    match (readB s cx tid false).run w with
    | .ok (b, _) => if cx.k.regs ≤ t.wb + code + b then some { code := cREG, info := t.wb + code + b } else none
    | .error _ => none
  match cx.opcode % 512 with
  | 0x063 => check cx.f.a.toNat { th := t }
  | 0x064 =>
    match (readA s cx tid false).run { th := t } with
    | .ok (_, w) => check cx.f.d.toNat w
    | .error (.trap _) => check cx.f.d.toNat { th := t }
    | .error _ => none
  | op =>
    if 0x14F ≤ op ∧ op ≤ 0x154 ∧ (mfind cx.c.heapMap (bitsOf cx.opt 3 0)).isNone then some { code := cPRIV } else none

/-- One participant: bounds (R63), pending registers (R59), bindings (R53), sources, then the destination; a noted trap
last. -/
def readOne {α : Type} (s : State) (cx : Cx) (rd : Nat → Rd α) (hasD : Bool) (tid : Nat) : Except Stop (Got α) :=
  let t := thread cx.g tid
  let us := uses cx.e cx.m cx.f
  match boundsOf cx.k.regs t.wb us with
  | some tr => .error (.trap tr)
  | none =>
    if us.any (pendingUse cx.g t) then .error (.stall true)
    else
      match earlyTrap s cx tid, bindingTrap t us with
      | some tr, _ => .error (.trap tr)
      | none, some tr => .error (.trap tr)
      | none, none =>
        match (do
            let v ← rd tid
            let p ← if hasD then planD s cx cx.f.d.toNat else pure Plan.none
            settleRd
            pure (v, p) : Rd (α × Plan)).run { th := t, lane := decide (0x040 ≤ cx.opcode % 512 ∧ cx.opcode % 512 < 0x100) } with
        | .error e => .error e
        | .ok ((v, p), w) => .ok { tid := tid, val := v, work := w, plan := p }

/-- The participants in ascending `tid`; the first that stalls stalls the lane, and those before it have passed (R26). -/
def readAll {α : Type} (s : State) (cx : Cx) (rd : Nat → Rd α) (hasD : Bool) : List Nat → ReadRes α
  | [] => {}
  | t :: ts =>
    match readOne s cx rd hasD t with
    | .error (.stall b) => { stall := some b }
    | .error (.trap tr) =>
      let r := readAll s cx rd hasD ts
      { r with traps := (t, tr) :: r.traps }
    | .ok g =>
      let r := readAll s cx rd hasD ts
      { r with got := g :: r.got }

/-- The destinations of the other threads under U = 1 (R57): who is out of bounds, and whether one is pending. A stream
destination of a thread that is not write-bound, or whose element faults, traps that thread too (R53, R204; R57 names the
bound alone: notes/assumptions/33.md). -/
def othersD (s : State) (cx : Cx) (words : Nat) (tids : List Nat) : Bool × List (Nat × Trap) :=
  let code := cx.f.d.toNat
  let u : Use := ⟨code, words, false, true⟩
  tids.foldl (fun (p, ts) t =>
    let th := thread cx.g t
    match boundsOf cx.k.regs th.wb [u] with
    | some tr => (p, ts ++ [(t, tr)])
    | none =>
      if 112 ≤ code ∧ code < 116 then
        match (planD s cx code).run { th := th } with
        | .error (.trap tr) => (p, ts ++ [(t, tr)])
        | _ => (p, ts)
      else (p || pendingUse cx.g th u, ts)) (false, [])

/-- A store of one thread's bytes, with what it waits for. -/
def storeOp (s : State) (cx : Cx) (tid : Nat) (fence : List Dep) (parts : List (List (Loc × Byte))) : Op :=
  { id := 0, who := cx.who tid, ctx := cx.ctx, launch := cx.g.launch, core := cx.g.core,
    opcode := cx.opcode, deps := fence ++ overlapDeps s cx.g.core (cx.who tid) (partLocs parts) true,
    kind := .store parts (parts.map (fun _ => false)) }

/-- The bytes a stream element stores (R202). The upper four bytes of an 8-byte element that takes a 32-bit result are
zero, which the rule leaves open (notes/assumptions/33.md). -/
def streamBytes (b : Stream) (v : Nat) : List Byte :=
  let x := match b.ext with
    | 2 => roundF .bf16 0 false 0 (fval .f32 (v % 2 ^ 32))
    | 3 => roundF .f16 0 false 0 (fval .f32 (v % 2 ^ 32))
    | _ => v
  leBytes (2 ^ b.esize) x

/-- Write a thread's result: its copy commits, with the changes of `o` and the words at `p` (R50, R59, R202). -/
def commitOne (cx : Cx) (s : State) (first : Bool) (tid : Nat) (t : Thread) (p : Plan) (o : Out) : State :=
  let t := o.preds.foldl (fun t q => setPred t q.1 q.2) (o.upd t)
  let v := wordsVal o.words
  match p with
  | .win abs =>
    if o.long then
      let t := { t with pend := sunion t.pend (rangeFrom abs o.words.length) }
      let s := modThread s cx.gid tid (fun _ => t)
      addOp s { id := 0, who := cx.who tid, ctx := cx.ctx, launch := cx.g.launch, core := cx.g.core, opcode := cx.opcode,
                kind := .long { gid := cx.gid, regs := [(tid, abs)], n := o.words.length } v }
    else modThread s cx.gid tid (fun _ => putRegs t abs o.words false)
  | .scal k =>
    let s := modThread s cx.gid tid (fun _ => t)
    let w := o.scalar.getD (BitVec.ofNat 64 v)
    if !first then s
    else if o.long then
      let s := modGroup s cx.gid (fun g => { g with spend := sinsert k g.spend })
      addOp s { id := 0, who := cx.who tid, ctx := cx.ctx, launch := cx.g.launch, core := cx.g.core, opcode := cx.opcode,
                kind := .long { gid := cx.gid, scal := some k, n := 2 } w.toNat }
    else modGroup s cx.gid (fun g => { g with scal := mset 0 g.scal k w, spois := g.spois.filter (· ≠ k) })
  | .strm b _ locs =>
    let s := modThread s cx.gid tid (fun _ => t)
    addOp s (storeOp s cx tid t.fence [locs.zip (streamBytes b v)])
  | .none => modThread s cx.gid tid (fun _ => t)

/-- The addresses of the participants go through the core's TLB, and what they have read at once through its L1. -/
def touchAll {α : Type} (s : State) (cx : Cx) (gs : List (Got α)) : State :=
  gs.foldl (fun s g =>
    let s := g.work.vas.foldl (fun s va => touchTlb s cx.gid cx.g.core cx.ctx cx.fl.slot va) s
    g.work.lines.foldl (fun s pa => fillFrom s cx.g.core cx.ctx 0 pa true) s) s

/-- The run stalls. -/
def stallRun (s : State) (cx : Cx) (counted : Bool) : State := modGroup s cx.gid (fun g => stallGroup g counted)

/-- The addresses of the page faults among traps. -/
def faultVas (ts : List (Nat × Trap)) : List Nat :=
  dedupN (ts.filterMap (fun t => if t.2.code = cPAGE ∧ !t.2.deferred then some t.2.addr else none))

/-- Take traps of threads of this run; an access that page-faults has missed the TLB. -/
def trapRun (s : State) (cx : Cx) (uniform : Bool) (ts : List (Nat × Trap)) : State :=
  takeTraps ((faultVas ts).foldl (fun s va => countMiss s cx.gid cx.g.core cx.ctx va) s) (some cx.k) cx.ctx cx.g.launch cx.gid (cx.here uniform) ts

/-- The whole run takes one trap. -/
def trapWhole (s : State) (cx : Cx) (uniform : Bool) (t : Trap) : State :=
  modGroup (trapRun s cx uniform (cx.fl.run.map (fun i => (i, t)))) cx.gid (fun g => advance g cx.slots)

/-- Commit the results of a lane instruction to every thread that receives one (R25, R57): under U = 1 the
lowest-numbered thread's result goes to every thread of the run. -/
def commitAll (s : State) (cx : Cx) (outs : List (Got Out)) : State :=
  outs.foldl (fun (acc : State × Bool) g => (commitOne cx acc.1 acc.2 g.tid g.work.th g.plan g.val, false))
    (s, cx.fl.past.isEmpty) |>.1

/-- The other threads of a uniform instruction, each with its own destination (R57). -/
def uniformOuts (s : State) (cx : Cx) (hasD : Bool) (o : Out) (tids : List Nat) : List (Got Out) :=
  tids.filterMap (fun t =>
    let th := thread cx.g t
    if !hasD ∨ (96 ≤ cx.f.d.toNat ∧ cx.f.d.toNat < 112) then
      some { tid := t, val := o, work := { th := th }, plan := .none }
    else match (planD s cx cx.f.d.toNat).run { th := th } with
      | .ok (p, w) => some { tid := t, val := o, work := w, plan := p }
      | .error _ => none)

/-- Threads of the run that have read retire: those that trap leave the run, the others commit (R22, R25). -/
def laneRetire {α : Type} (s : State) (cx : Cx) (r : ReadRes α) (fin : List (Got α) → Got α → Out) : State :=
  commitAll (trapRun (touchAll s cx r.got) cx false r.traps) cx (r.got.map (fun g => { g with val := fin r.got g }))

/-- The threads before one that stalls wait with it: where the results need every thread's sources (`whole`, R197), and
where field D is a scalar register, which the instruction writes once (R50; notes/assumptions/33.md). -/
def Cx.together (cx : Cx) (hasD whole : Bool) : Bool :=
  whole || (hasD && decide (96 ≤ cx.f.d.toNat ∧ cx.f.d.toNat < 112))

/-- A lane instruction of the run: `rd` reads a participant's sources, `fin` computes a participant's result from all of
them; `hasD` says that field D is a destination. A thread that stalls holds those after it (R26). Under U = 1 it is
executed once, for the lowest-numbered thread (R57). -/
def laneExec {α : Type} (s : State) (cx : Cx) (hasD : Bool) (rd : Nat → Rd α) (fin : List (Got α) → Got α → Out)
    (whole : Bool := false) : State :=
  if cx.uni then
    let r := readAll s cx rd hasD [cx.low]
    match r.stall, r.traps, r.got with
    | some b, _, _ => stallRun s cx b
    | none, (_, t) :: _, _ => trapWhole s cx true t
    | none, [], g :: _ =>
      let o := fin [g] g
      let rest := cx.fl.run.filter (· ≠ g.tid)
      let (pend, traps) := if hasD then othersD s cx o.words.length rest else (false, [])
      if pend then stallRun s cx true
      else
        let s := touchAll s cx r.got
        let s := trapRun s cx false traps
        let tids := rest.filter (fun t => !(traps.map (·.1)).contains t)
        let s := commitAll s cx ({ g with val := o } :: uniformOuts s cx hasD o tids)
        modGroup s cx.gid (fun g => advance g cx.slots)
    | none, [], [] => modGroup s cx.gid (fun g => advance g cx.slots)
  else
    let r := readAll s cx rd hasD cx.todo
    match r.stall with
    | some b =>
      if cx.together hasD whole then stallRun s cx b
      else stallRun (modGroup (laneRetire s cx r fin) cx.gid (fun g => passed g (r.got.map (·.tid)))) cx b
    | none => modGroup (laneRetire s cx r fin) cx.gid (fun g => advance g cx.slots)

/-! ### The checks every core instruction passes first (R130, R139, R140) -/

/-- The canvas price of an opcode (R289); `chunks` is CHUNKS + 1. -/
def price (op chunks : Nat) : Nat :=
  match op with
  | 0x140 => chunks
  | 0x141 => chunks
  | 0x142 => chunks
  | 0x143 => 2
  | 0x14C => 1
  | _ => 0

/-- A transfer that never falls through to the next clause: BRA, JMPI, CALL, CALLI, RET, EXIT, TRET, and the
conditional branches, which check it for each thread themselves. -/
def noFall (op : Nat) : Bool :=
  [0x001, 0x002, 0x003, 0x004, 0x005, 0x006, 0x160].contains op || decide (0x020 ≤ op ∧ op < 0x040)

/-- The decode trap of an instruction in its clause (R139, R140): ILLEGAL, then PRIV, then ILLEGAL_TARGET for a target
that the encoding fixes. `feats` are the features its options need beyond the entry's. -/
def decodeTrap (cx : Cx) (legal : Bool) (feats : List Nat) : Option Trap :=
  let op := cx.opcode % 512
  if !legal || (cx.e.last && !decide (cx.fl.slot + cx.slots = hLen cx.fl.w0))
      || decide (hLen cx.fl.w0 < cx.fl.slot + cx.slots) || (cx.e.feat :: feats).any (fun k => !cx.granted k) then
    some { code := cILLEGAL }
  else if cx.e.priv && !cx.c.priv then some { code := cPRIV }
  else if cx.isLast && !noFall op && !cx.hasNext then some { code := cTARGET }
  else none

/-- Charge the price, or say by how much it would cross the line (R130). -/
def canvasTrap (cx : Cx) (p : Nat) : Option Trap :=
  if hCanvas cx.fl.w0 < cx.fl.sum + p then some { code := cCANVAS, info := cx.fl.sum + p } else none

/-- Features that the modifier's options need (R151). -/
def featsOf (op : Nat) (b : BitVec 7) (m : Mod) : List Nat :=
  (if m.scope = 5 then [9] else [])
  ++ (if op = 0x0C6 ∧ m.ty = 0 then [2] else [])
  ++ (if op = 0x0C7 ∧ m.ty = 0 then [2] else [])
  ++ (if (op = 0x140 ∨ op = 0x141 ∨ op = 0x142) ∧ bitOf (optOf m) 1 then [4] else [])
  ++ (if op = 0x14C ∧ b.toNat / 8 ≠ 0 then [5] else [])

/-- Execute an instruction of the run in flight: the checks of R139, R140 and R130, then its own meaning. -/
def withRun (s : State) (opcode : Nat) (ext : Bool) (e : Entry) (m : Mod) (f : FR) (legal : Bool)
    (body : Cx → State) : Host.Outcome State Fault Refusal :=
  match runCx s opcode ext e m f with
  | none => .fault .noRun
  | some cx =>
    match decodeTrap cx legal (featsOf (opcode % 512) f.b m) with
    | some t => .next (trapWhole s cx cx.uni t)
    | none =>
      let p := price (opcode % 512) (f.b.toNat / 8 % 4 + 1)
      match canvasTrap cx p with
      | some t => .next (trapWhole s cx false t)
      | none => .next (body cx)

/-- Run a body under the entry of its opcode; the opcodes written in this model all have one. -/
def withEntry (op : Nat) (k : Entry → Host.Outcome State Fault Refusal) : Host.Outcome State Fault Refusal :=
  match entryOf op with
  | some e => k e
  | none => .fault .noRun

/-- A base instruction of formats R, K and I7 (R136). -/
def coreR (op : Nat) (f : FR) (s : State) (body : Cx → State) : Host.Outcome State Fault Refusal :=
  withEntry op (fun e => withRun s op false e (baseMod e) f (fieldsOk e (baseMod e) f) body)

/-- An M twin (R134, R135). -/
def coreT (op : Nat) (f : FR) (m : Mod) (s : State) (body : Cx → State) : Host.Outcome State Fault Refusal :=
  withEntry op (fun e => withRun s (op + 512) true e m f (modOk e f.b m && fieldsOk e m f) body)

/-- An instruction of format I14 (R131): field A is no register. -/
def coreI (op : Nat) (f : FI) (s : State) (body : Cx → State) : Host.Outcome State Fault Refusal :=
  withEntry op (fun e =>
    withRun s op false e (baseMod e) { u := f.u, d := f.d, a := 0, b := 0 }
      ((op == 0x066 || fieldOk e (baseMod e) e.d f.d.toNat) && immOk op f) body)

/-- A branch (R131, R133). -/
def coreB (op : Nat) (f : FB) (s : State) (body : Cx → State) : Host.Outcome State Fault Refusal :=
  withEntry op (fun e => withRun s op false e (baseMod e) { u := f.u, d := 0, a := 0, b := 0 } true body)

/-- Charge the price of the instruction to its clause. -/
def charge (g : Group) (p : Nat) : Group := { g with flight := g.flight.map (fun f => { f with sum := f.sum + p }) }

end Sys2Proof.Machine
end

