-- ==== Sys2Proof/Machine/Fetch.lean ====
section
/-! DEFINITION. Fetching the next instruction of a run in flight (spec/05 R84, spec/07 R122, R139, spec/20 R343) and of a
shroud routine (spec/12 R291, R308), and placing one instruction where it is fetched next. -/

namespace Sys2Proof.Machine

/-- What the fetch of an agent gives. -/
inductive Fetched where
  | idle                                        -- the agent has nothing in flight
  | trap (w : W32) (t : Trap)                   -- the run cannot fetch its word, or the extension word of its twin `w`
  | word (w : W32) (next : Option W32)          -- its word, and the word after it in its clause

/-- A word of text, fetched with execute permission. -/
def fetchWord (s : State) (core ctx : Nat) (va : W64) : Except Trap W32 :=
  match translate s core ctx va.toNat .fetch with
  | .error r => .error { code := cPAGE, addr := va.toNat, info := 2, info2 := r }
  | .ok pa =>
    if isPoisoned s (quarterOf pa) then .error { code := cPOISON, addr := va.toNat }
    else .ok (BitVec.ofNat 32 (rdMem s pa 4))

/-- Address of a slot of a clause (R122). -/
def slotAddr (hdr : W64) (slot : Nat) : W64 := hdr + 8 + BitVec.ofNat 64 (4 * slot)

/-- The word at the slot a run stands at, with the next word when its clause has one. -/
def fetchLane (s : State) (gid : Nat) : Fetched :=
  match getGroup s gid with
  | none => .idle
  | some g =>
    match g.flight, mfind s.launches g.launch with
    | some fl, some l =>
      match fetchWord s g.core l.ctx (slotAddr fl.hdr fl.slot) with
      | .error t => .trap 0 t
      | .ok w =>
        if isTwin w && decide (fl.slot + 1 < hLen fl.w0) then
          match fetchWord s g.core l.ctx (slotAddr fl.hdr (fl.slot + 1)) with
          | .error t => .trap w t
          | .ok x => .word w (some x)
        else .word w none
    | _, _ => .idle

/-- A word that a run fetches at its slot is translated by its core (R344); a run that stalls there has fetched it before, so
that no further miss counts (R358). -/
def touchWord (s : State) (gid core ctx : Nat) (fl : Flight) (va : Nat) : State :=
  if fl.stall.isSome then touchUnit s core ctx va (runExec s gid fl.slot) else touchTlb s gid core ctx fl.slot va

/-- The words that a run fetches at its slot: the slot's, and the next one's when the fetch gives it. -/
def touchFetch (s : State) (gid : Nat) (next : Option W32) : State :=
  match getGroup s gid with
  | none => s
  | some g =>
    match g.flight, mfind s.launches g.launch with
    | some fl, some l =>
      let s := touchWord s gid g.core l.ctx fl (slotAddr fl.hdr fl.slot).toNat
      if next.isSome then touchWord s gid g.core l.ctx fl (slotAddr fl.hdr (fl.slot + 1)).toNat else s
    | _, _ => s

/-- Every thread of a run takes a trap at its slot, for a word that could not be fetched or is not an instruction
(R139); bit U of the word is the record's UNIFORM bit (R57, R348). -/
def trapSlot (s : State) (gid : Nat) (w : W32) (t : Trap) : State :=
  match getGroup s gid with
  | none => s
  | some g =>
    match g.flight, mfind s.launches g.launch with
    | some fl, some l =>
      let ext := isTwin w
      let a : TrapAt :=
        { hdr := fl.hdr, slot := fl.slot, opcode := (w.extractLsb' 21 10).toNat, ext := ext, uniform := w.getLsbD 31, header := false }
      let s := if t.code = cPAGE then countMiss s gid g.core l.ctx t.addr else s
      let s := takeTraps s (getKernel s l.ctx l.kid) l.ctx g.launch gid a (fl.run.map (fun i => (i, t)))
      modGroup s gid (fun g => advance g 1)
    | _, _ => s

/-- A run whose slot cannot be fetched: the words before the page that faults, or up to the poisoned one, have been
translated. -/
def trapFetch (s : State) (gid : Nat) (w : W32) (t : Trap) : State :=
  let ext := isTwin w
  let poison := decide (t.code = cPOISON)
  trapSlot (if ext || poison then touchFetch s gid (if ext && poison then some w else none) else s) gid w t

/-- The word a shroud thread stands at (R308). -/
def fetchShroud (s : State) (k t : Nat) : Option W32 :=
  (mfind (getShroud s k).threads t).map (fun x => BitVec.ofNat 32 (rdMem s (x.code + 4 * x.word) 4))

/-! ### Placing one instruction where it is fetched next -/

/-- Addresses used by `placeLane`: the text section, its frame, and the root table. -/
def placedText : Nat := 0x100000
def placedFrame : Nat := 0x40000000
def placedRoot : Nat := 0x40001000
def placedRecord : Nat := 0x40010000

/-- The header of a clause of n slots with CANVAS 15 and no flags (R124). -/
def placedHeader (n : Nat) : Nat := 0x0FFF0000 + n

/-- A context, kernel, launch, team and group with one thread whose clause in flight stands at slot 0 of a text that
holds the instruction and then an EXIT; the core holds the text's translation. -/
def placeLane (s : State) (slots : Nat) (bs : List Byte) : State :=
  let text := leBytes 4 (placedHeader slots) ++ leBytes 4 0 ++ bs.take (4 * slots)
    ++ leBytes 4 (placedHeader 1) ++ leBytes 4 0 ++ leBytes 4 0x00C00000
  let s := { s with nextFrame := max s.nextFrame (placedRecord / 4096 + 1) }
  let s := wrBytes s placedFrame text
  let s := mapFrom placedText placedFrame (permFlags false false true) 5 0 placedRoot s
  let s : State := { s with
    boot := .maluk
    turns := []
    cur := .group 1
    tlb := { unit := 0, ctx := 1, page := placedText, size := 4096, pa := placedFrame, read := false, write := false,
             exec := true } :: s.tlb
    vis := mput s.vis 1 { src := 0, pkey := 0, grant := Config.featureMask, endpoint := 1 }
    ctxs := mput s.ctxs 1
      { vi := 1, recAt := placedRecord, priv := true, root := placedRoot, quota := 1,
        windows := [{ va := placedText, size := 4096, kind := .text, read := false, write := false, exec := true }] }
    kernels := mput s.kernels (kernelKey 1 1)
      { ctx := 1, kid := 1, text := placedText, size := text.length, chain := [0, 8 + 4 * slots], regs := 1024, bars := 16,
        scratch := 65536 }
    launches := mput s.launches 1
      { ctx := 1, kid := 1, tag := 0, teams := 1, args := 0, key := 0, pos := 0, privBytes := 0, privBase := 0,
        priority := 0, single := true, endpoint := 1, utag := 0, placed := 1 }
    teams := mput s.teams (teamKey 1 0) { launch := 1, index := 0, cluster := 0, home := 0, groups := [1] }
    groups := mput s.groups 1
      { launch := 1, team := some (teamKey 1 0), width := 16,
        threads := [{ pc := BitVec.ofNat 64 placedText }],
        flight := some
          { run := [0], hdr := BitVec.ofNat 64 placedText, w0 := BitVec.ofNat 32 (placedHeader slots), w1 := 0, slot := 0,
            sum := 0, isHead := true } } }
  writeRecord s 1

/-- A shroud thread whose routine stands at the instruction. -/
def placeShroud (s : State) (bs : List Byte) : State :=
  let s := wrBytes s placedFrame (bs.take 4)
  let s : State := { s with
    boot := .maluk
    turns := []
    cur := .shroud 0 0
    ctxs := mput s.ctxs 1 { vi := 1, recAt := placedRecord, root := placedRoot, quota := 1 }
    shrouds := mput s.shrouds 0
      { getShroud s 0 with
        threads := mput (getShroud s 0).threads 0
          { ctx := 1, launch := 1, record := 0, routine := 0, code := placedFrame, len := 1 } } }
  writeRecord s 1

end Sys2Proof.Machine
end

