-- ==== Sys2Proof/Machine/PocketTable.lean ====
section
/-! DEFINITION. The team's pocket table (spec/11 R257-R261): buckets, probes, spill chains, the parts of a key and their
combination, and the configuration word. -/

namespace Sys2Proof.Machine

/-! ### Configuration (R258) -/

def coarseOn (w : W32) : Bool := bitOf w.toNat 15
def coarseLog (w : W32) : Nat := bitsOf w.toNat 14 12
def fineOn (w : W32) : Bool := bitOf w.toNat 4
def fineLog (w : W32) : Nat := bitsOf w.toNat 3 0

/-- The configuration at team start, from c KiB coarse and f KiB fine. -/
def startCfg (c f : Nat) : W32 :=
  BitVec.ofNat 32 ((if 16 ≤ c then 2 ^ 15 + ilog2 (c / 16) * 2 ^ 12 else 0)
    + (if 4 ≤ f then 2 ^ 4 + min 15 (ilog2 (16 * f)) else 0))

/-- A configuration word that `PCFG` accepts for an allocation. -/
def cfgOk (w : W32) (c f : Nat) : Bool :=
  bitsOf w.toNat 31 16 == 0 && bitsOf w.toNat 11 5 == 0 &&
    decide ((if coarseOn w then 16384 * 2 ^ coarseLog w else 0) + (if fineOn w then 64 * 2 ^ fineLog w else 0) ≤ (c + f) * 1024)

/-! ### Buckets and probes (R259) -/

/-- The home bucket of a key in a region of 2^lg buckets. -/
def homeBucket (lg key : Nat) : Nat :=
  if lg = 0 then 0 else key * 0x9E3779B97F4A7C15 % 2 ^ 64 / 2 ^ (64 - lg)

/-- The buckets of the probe range. -/
def probeRange (lg key : Nat) : List Nat :=
  (List.range (min 8 (2 ^ lg))).map (fun i => (homeBucket lg key + i) % 2 ^ lg)

/-- The way slots of the probe range, in order. -/
def probeWays (lg key : Nat) : List Nat := (probeRange lg key).flatMap (fun b => (List.range 4).map (b * 4 + ·))

/-- The way that holds a key. -/
def wayOf (r : Region) (lg key : Nat) : Option Nat :=
  firstOf (fun i => (mfind r.ways i).any (fun p => p.key == key)) (probeWays lg key)

/-- The lowest free way of the first bucket of the range that has one. -/
def freeWay (r : Region) (lg key : Nat) : Option Nat := firstOf (fun i => (mfind r.ways i).isNone) (probeWays lg key)

/-- PocketAdd of values (R79): FP32 round to nearest even, or modulo 2^32 in count mode. -/
def pocketAdd (count : Bool) (old t : W32) : W32 :=
  if count then old + t else BitVec.ofNat 32 (faddN old.toNat t.toNat)

/-- Add to a part; the part takes the kind of the add. -/
def partAdd (count pois : Bool) (t : List W32) (p : Part) : Part :=
  { p with val := p.val.zipWith (pocketAdd count) t, count := count, pois := p.pois || pois }

/-- A new part with value (-0) + t, or 0 + t in count mode. -/
def newPart (key : Nat) (count pois : Bool) (t : List W32) : Part :=
  { key := key, val := t.map (pocketAdd count (if count then 0 else 0x80000000)), count := count, pois := pois }

/-! ### Spill chains (R260) -/

/-- Insert a part in key order. -/
def insPart (p : Part) : List Part → List Part
  | [] => [p]
  | q :: l => if p.key < q.key then p :: q :: l else q :: insPart p l

/-- Insert into the block of a chain that takes the key, splitting a full block into 128 and 127 entries. -/
def chainInsert (p : Part) : List (List Part) → List (List Part)
  | [] => [[p]]
  | [b] =>
    if b.length < 255 then [insPart p b]
    else if (b.drop 128).head?.any (fun q => decide (q.key ≤ p.key)) then [b.take 128, insPart p (b.drop 128)]
    else [insPart p (b.take 128), b.drop 128]
  | b :: c :: r =>
    if c.head?.any (fun q => decide (q.key ≤ p.key)) then b :: chainInsert p (c :: r)
    else if b.length < 255 then insPart p b :: c :: r
    else if (b.drop 128).head?.any (fun q => decide (q.key ≤ p.key)) then b.take 128 :: insPart p (b.drop 128) :: c :: r
    else insPart p (b.take 128) :: b.drop 128 :: c :: r

/-- Change the part of a key in a chain. -/
def chainMod (key : Nat) (f : Part → Part) (ch : List (List Part)) : List (List Part) :=
  ch.map (fun b => b.map (fun p => if p.key = key then f p else p))

def chainHas (key : Nat) (ch : List (List Part)) : Bool := ch.any (fun b => b.any (fun p => p.key == key))
def chainFind (key : Nat) (ch : List (List Part)) : Option Part := (ch.flatMap id).find? (fun p => p.key == key)
/-- Remove a key; emptied blocks leave. -/
def chainDrop (key : Nat) (ch : List (List Part)) : List (List Part) :=
  (ch.map (fun b => b.filter (fun p => p.key != key))).filter (fun b => !b.isEmpty)

/-- Arena blocks of a chain: its blocks, and under coarse a data block for each entry. -/
def chainBlocks (coarse : Bool) (ch : List (List Part)) : Nat :=
  ch.length + (if coarse then (ch.map List.length).foldl (· + ·) 0 else 0)
/-- Arena blocks of a region. -/
def regionBlocks (coarse : Bool) (r : Region) : Nat := (r.chains.map (fun c => chainBlocks coarse c.2)).foldl (· + ·) 0

/-- The result of one add: the region, and the arena blocks it needs. -/
structure Added where
  region : Region
  blocks : Nat

/-- PocketProbe (R259). -/
def pocketProbe (r : Region) (coarse : Bool) (lg key : Nat) (count pois : Bool) (t : List W32) : Added :=
  match wayOf r lg key with
  | some i => { region := { r with ways := mmod r.ways i (partAdd count pois t) }, blocks := 0 }
  | none =>
    match freeWay r lg key with
    | some i => { region := { r with ways := mput r.ways i (newPart key count pois t) }, blocks := 0 }
    | none =>
      let h := homeBucket lg key
      let ch := mget [] r.chains h
      let ch' := if chainHas key ch then chainMod key (partAdd count pois t) ch
        else chainInsert (newPart key count pois t) ch
      { region := { r with chains := mput r.chains h ch' }, blocks := chainBlocks coarse ch' - chainBlocks coarse ch }

/-! ### Reading and removing (R261) -/

/-- The parts of a key, older first: the chain's, then the buckets'. -/
def partsOf (r : Region) (lg key : Nat) : List Part :=
  (chainFind key (mget [] r.chains (homeBucket lg key))).toList ++ ((wayOf r lg key).bind (mfind r.ways)).toList

/-- The combination of a key's parts in age order, by the kind of the newer part. -/
def combine (ps : List Part) : Option Part :=
  match ps with
  | [] => none
  | [p] => some p
  | p :: q :: _ =>
    some { key := p.key, val := p.val.zipWith (pocketAdd q.count) q.val, count := q.count, pois := p.pois || q.pois }

/-- Remove every part of a key. -/
def dropKey (r : Region) (lg key : Nat) : Region :=
  let h := homeBucket lg key
  let ways := match wayOf r lg key with
    | some i => mdel r.ways i
    | none => r.ways
  let ch := chainDrop key (mget [] r.chains h)
  { ways := ways, chains := if ch.isEmpty then mdel r.chains h else mput r.chains h ch }

/-- The keys of a region, ascending. -/
def keysOf (r : Region) : List Nat :=
  sunion [] (r.ways.map (fun w => w.2.key) ++ r.chains.flatMap (fun c => (c.2.flatMap id).map Part.key))

/-! ### The table of a team -/

/-- Put a region back, and account the arena blocks of the change (R260, R339). -/
def setRegion (s : State) (ctx key : Nat) (coarse : Bool) (r : Region) : State :=
  match mfind s.teams key with
  | none => s
  | some t =>
    let old := regionBlocks coarse (if coarse then t.coarse else t.fine)
    let s := modTeam s key (fun t => if coarse then { t with coarse := r } else { t with fine := r })
    modCtx s ctx (fun c => { c with arenaUsed := c.arenaUsed + regionBlocks coarse r - old })

/-- Blocks the arena has left for an add that needs n. -/
def arenaHas (s : State) (ctx n : Nat) : Bool :=
  match mfind s.ctxs ctx with
  | none => false
  | some c => n == 0 || decide (c.arenaUsed + n ≤ c.arenaBlocks)

/-- The team's region with its log of buckets, if its configuration enables it. -/
def regionOf (t : Team) (coarse : Bool) : Option (Region × Nat) :=
  if coarse then (if coarseOn t.cfg then some (t.coarse, coarseLog t.cfg) else none)
  else if fineOn t.cfg then some (t.fine, fineLog t.cfg) else none

/-- The home core of a team, whose pocket unit holds its table (R257). -/
def homeOf (s : State) (key : Nat) : Option Nat := (mfind s.teams key).map (·.home)

/-- Earlier operations that reach the pocket unit of the team's home core, in whose order a new one stands (R261). -/
def pocketDeps (s : State) (key : Nat) : List Nat :=
  let here (t : Nat) : Bool := t == key || homeOf s t == homeOf s key
  (s.ops.filter (fun o =>
    match o.kind with
    | .pocket _ t => here t
    | .call c t _ _ => here t && c.opcode != 0x14C
    | .drain _ t _ => here t
    | _ => false)).map (·.id)

end Sys2Proof.Machine
end

