-- ==== Sys2Proof/Machine/Rounds.lean ====
section
/-! DEFINITION. What the threads of a team do together: barrier phases (spec/02 R32, spec/08 R169, spec/06 R114), cleat
rounds (spec/02 R33-R37, spec/22 R383), deferred traps (spec/11 R256), and the end of groups and teams (spec/02 R43). -/

namespace Sys2Proof.Machine

/-! ### The team's threads -/

/-- The team's resident groups. -/
def teamGroups (s : State) (t : Team) : List (Nat × Group) :=
  t.groups.filterMap (fun gid => (getGroup s gid).map (fun g => (gid, g)))

/-- Live threads of a group. -/
def liveTids (g : Group) : List Nat := (List.range g.threads.length).filter (fun i => live (thread g i))

/-- The live threads of the team, in order of (`grp`, `tid`). -/
def teamThreads (s : State) (t : Team) : List Tid :=
  (teamGroups s t).flatMap (fun x => (liveTids x.2).map (fun i => { gid := x.1, tid := i }))

/-- A thread by its identity. -/
def threadAt (s : State) (x : Tid) : Thread :=
  match getGroup s x.gid with
  | none => { st := .neverLaunched }
  | some g => thread g x.tid

/-- What a thread's accesses stand after for a release at team scope (R110, R114). -/
def releaseDeps (s : State) (x : Tid) (scope : Nat) : List Dep :=
  match getGroup s x.gid with
  | none => []
  | some g => (thread g x.tid).fence ++ fenceDeps s g.core (ctxOf s g.launch) (.thread x) (scopeReach s g scope)

/-- Later accesses of a thread wait for these, and for what they waited for that has not come about (R110). -/
def addFence (s : State) (x : Tid) (ds : List Dep) : State :=
  modThread s x.gid x.tid (fun t => { t with fence := joinDeps (t.fence.filter (fun d => !depsDone s [d])) ds })

/-! ### Barriers (R32, R169) -/

/-- A parked thread (R20). -/
def isParked (t : Thread) : Bool :=
  match t.st with
  | .parked _ => true
  | _ => false

/-- The open phase of barrier b completes when every participant has arrived; a parked one has not yet (R32, R351). -/
def barrierCheck (s : State) (key b : Nat) : State :=
  match mfind s.teams key with
  | none => s
  | some t =>
    let ps := teamThreads s t
    if ps.isEmpty || !ps.all (fun x => (threadAt s x).arrived.contains b && !isParked (threadAt s x)) then s
    else
      let ids := mget [] t.barDeps b
      let s := modTeam s key (fun t => { t with barDeps := mdel t.barDeps b, barDone := mput t.barDone b ids })
      ps.foldl (fun s x =>
        let w := threadAt s x
        let s := modThread s x.gid x.tid (fun t => { t with arrived := t.arrived.filter (· ≠ b) })
        if w.st = .waiting (.bar b) then
          addFence (modThread s x.gid x.tid (fun t => { t with st := .ready })) x ids
        else s) s

/-- A thread arrives at barrier b: once in a phase (R169); what it released joins the phase (R114). -/
def barrierArrive (s : State) (key b : Nat) (x : Tid) : State :=
  if (threadAt s x).arrived.contains b then s
  else
    let ids := releaseDeps s x 2
    let s := modThread s x.gid x.tid (fun t => { t with arrived := sinsert b t.arrived })
    modTeam s key (fun t => { t with barDeps := mput t.barDeps b (joinDeps (mget [] t.barDeps b) ids) })

/-- `BARW` after the phase: the thread observes the last completed phase (R114, R169). -/
def barrierObserve (s : State) (key b : Nat) (x : Tid) : State :=
  match mfind s.teams key with
  | none => s
  | some t => addFence s x (mget [] t.barDone b)

/-! ### Cleats (R33-R37) -/

/-- Opcodes of REJN and REJN.CMT as signatures (R36). -/
def opRejn : Nat := 0x00A
def opCmt : Nat := 0x00B

/-- A cleat of a team; at team start every group of the team is a member (R33). -/
def cleatOf (t : Team) (c : Nat) : Cleat :=
  (mfind t.cleats c).getD { mask := BitVec.ofNat 32 (2 ^ t.groups.length - 1) }
def setCleat (s : State) (key c : Nat) (cl : Cleat) : State :=
  modTeam s key (fun t => { t with cleats := mput t.cleats c cl })

/-- The declared set: the live threads of the member groups (R33). -/
def declaredSet (s : State) (t : Team) (cl : Cleat) : List Tid :=
  (teamThreads s t).filter (fun x => match getGroup s x.gid with
    | some g => bitOf cl.mask.toNat g.grp
    | none => false)

/-- A thread has signed the open round. -/
def hasSigned (cl : Cleat) (x : Tid) : Bool := cl.signers.any (fun g => g.who == x)

/-- The declared set is covered (R34-R36). -/
def covered (s : State) (t : Team) (cl : Cleat) : Bool :=
  (declaredSet s t cl).all (fun x => hasSigned cl x || (cl.diverged && cl.trapped.contains x))

/-- A grant of precedence for a group (R27). No rule says what a second grant does to a group that still holds one: the older
grant is kept (notes/assumptions/34.md). -/
def grantGroup (s : State) (gid : Nat) : State :=
  let age := s.nextId
  let s := { s with nextId := s.nextId + 1 }
  modGroup s gid (fun g => if g.grant.isNone then { g with grant := some age } else g)

/-- The round is over: the waiting mask takes effect (R33), and second signatures go on afresh (R36). -/
def endRound (s : State) (key c : Nat) (cl : Cleat) : State :=
  let s := setCleat s key c { mask := cl.next.getD cl.mask }
  match mfind s.teams key with
  | none => s
  | some t => t.groups.foldl (fun s gid => modGroup s gid (fun g =>
      { g with threads := g.threads.map (fun th =>
          if th.st = .waiting (.second c) then { th with st := .ready } else th) })) s

/-- Distinct counted executions of a list of signers. -/
def signerToks : List Signer → List (Nat × Nat)
  | [] => []
  | x :: l => let r := signerToks l
    if x.tok = 0 ∨ r.contains (x.who.gid, x.tok) then r else (x.who.gid, x.tok) :: r

/-- The signers' SETB counts fall (R34, R35). -/
def lowerSigners (s : State) (sg : List Signer) : State :=
  (signerToks sg).foldl (fun s x => lowerFlag s x.1 x.2) s

/-- A released waiter returns to READY at the next clause, and its group receives a grant (R36). -/
def releaseSigner (s : State) (x : Tid) : State :=
  grantGroup (modThread s x.gid x.tid (fun t => { t with st := .ready })) x.gid

/-- The call of a closed round goes in flight, after what its signers' signatures stand after and after the stores that they
see as it closes (R34, R115, R261). -/
def issueCall (s : State) (key : Nat) (t : Team) (cl : Cleat) (call : Call) : State :=
  match cl.signers with
  | [] => s
  | f :: _ =>
    let core := ((getGroup s f.who.gid).map (·.core)).getD t.home
    let call := match call.tap, mfind s.ctxs (ctxOf s t.launch) with
      | 0, _ => call
      | n + 1, some c => { call with entry := mget {} c.taps n }
      | _, none => call
    addOp s
      { id := 0, who := .thread f.who, ctx := ctxOf s t.launch, launch := t.launch, core := core, flag := call.flag,
        opcode := ((cl.sig.map (·.1)).getD call.opcode),
        deps := cl.signers.flatMap (·.deps) ++ performed (if call.opcode = 0x14C then [] else pocketDeps s key)
          ++ (sunion [] (cl.signers.filterMap (fun g => (getGroup s g.who.gid).map (·.core)))).flatMap
            (fun k => visibleDeps s k (ctxOf s t.launch) .all),
        kind := .call call key cl.signers (declaredSet s t cl) }

/-- Close a covered round: a diverged one issues nothing (R35), a rejoin releases its signers (R36), an engine call
issues (R34). A commit round waits for CMT_ROUND_CLOSE (R37). -/
def closeCheck (s : State) (key c : Nat) : State :=
  match mfind s.teams key with
  | none => s
  | some t =>
    let cl := cleatOf t c
    match cl.sig with
    | none => s
    | some (op, _, _) =>
      if !covered s t cl || op == opCmt then s
      else if cl.diverged then
        let s := endRound (lowerSigners s cl.signers) key c cl
        if op = opRejn then cl.signers.foldl (fun s x => releaseSigner s x.who) s else s
      else if op = opRejn then
        cl.signers.foldl (fun s x => releaseSigner s x.who) (endRound s key c cl)
      else
        match cl.call with
        | none => endRound s key c cl
        | some call => endRound (issueCall s key t cl call) key c cl

/-- Every round and phase of a team that a leaving thread may complete (R32, R33). -/
def teamCheck (s : State) (key : Nat) : State :=
  let s := (List.range 8).foldl (fun s c => closeCheck s key c) s
  (List.range 16).foldl (fun s b => barrierCheck s key b) s

/-- After threads of groups have been unparked: the phases that this completes (R32, R351). -/
def afterUnpark (s : State) (gids : List Nat) : State :=
  (sunion [] (gids.filterMap (fun gid => (getGroup s gid).bind (·.team)))).foldl teamCheck s

/-- How a thread's signature went. -/
inductive Signed where
  | done | outside | second
  | diverged (fmt : W32)
  deriving DecidableEq, Repr

/-- A thread signs cleat c with an opcode, format word (none: it could not be read) and REG bits (R33-R36). -/
def sign (s : State) (key c : Nat) (sg : Signer) (op : Nat) (fmt : Option W32) (reg : Nat) (call : Option Call) :
    Signed × State :=
  match mfind s.teams key with
  | none => (.outside, s)
  | some t =>
    let cl := cleatOf t c
    if !(declaredSet s t cl).contains sg.who then (.outside, s)
    else if hasSigned cl sg.who then (.second, s)
    else
      match cl.sig with
      | none =>
        (.done, setCleat s key c { cl with sig := some (op, fmt.getD 0, reg), signers := [sg], call := call })
      | some (op', fmt', reg') =>
        if cl.diverged || op' != op || fmt.any (fun f => fmt' != f) || reg' != reg then
          (.diverged fmt', setCleat s key c { cl with diverged := true, trapped := cl.trapped ++ [sg.who] })
        else (.done, setCleat s key c { cl with signers := cl.signers ++ [sg] })

/-! ### Commit rounds (R37, R321, R383) -/

/-- Status word of a bound sequence slot. -/
def seqWord (s : State) (k : Nat) : W32 := mget 0 s.seqWords k
def tripped (s : State) (k : Nat) : Bool := bitOf (seqWord s k).toNat 31

/-- Engine work of the signers is still open: a call in flight, or a signed round of another cleat (R37, R321). -/
def commitBusy (s : State) (t : Team) (c : Nat) (cl : Cleat) : Bool :=
  s.ops.any (fun o => match o.kind with
    | .call _ _ sg _ => sg.any (fun x => hasSigned cl x.who)
    | _ => false)
  || (List.range 8).any (fun d => d != c && (match (cleatOf t d).sig with
      | some (op, _, _) => op != opRejn && op != opCmt && (cleatOf t d).signers.any (fun x => hasSigned cl x.who)
      | none => false))

/-- One signer of a closing commit round: a deferred trap of the awaited work, TELLTALE, or release (R37, R256). -/
def commitSigner (s : State) (t : Team) (x : Tid) : State :=
  let th := threadAt s x
  match th.st with
  | .waiting (.commit _ hdr slot exec) =>
    let a : TrapAt := { hdr := hdr, slot := slot, opcode := opCmt, ext := false, uniform := false, header := false }
    let trap (s : State) (tr : Trap) : State :=
      takeTrapsAs s exec (kernelOf s t.launch) (ctxOf s t.launch) t.launch x.gid a [(x.tid, tr)]
    match takeDeferred (fun d => d.flag == 15 || [0x140, 0x141, 0x142, 0x143, 0x14C].contains (d.opcode % 512)) th.deferred with
    | some (d, r) => trap (modThread s x.gid x.tid (fun t => { t with deferred := r })) (deferTrap d)
    | none =>
      match th.seq with
      | some k => if tripped s k then trap s { code := cTELLTALE, info := k } else releaseSigner s x
      | none => releaseSigner s x
  | _ => s

/-- CMT_ROUND_CLOSE: the round closes once covered, with its engine work complete (R37). -/
def commitClose (s : State) (key c : Nat) : State :=
  match mfind s.teams key with
  | none => s
  | some t =>
    let cl := cleatOf t c
    match cl.sig with
    | none => s
    | some (op, _, _) =>
      if op != opCmt || !covered s t cl || commitBusy s t c cl then s
      else cl.signers.foldl (fun s x => commitSigner s t x.who) (endRound s key c cl)

/-! ### Ends (R41-R43) -/

/-- Operations, routines and dispatches of a launch that still hold its bins (R43). -/
def spawnsOpen (s : State) (lid : Nat) : Bool :=
  s.ops.any (fun o => o.launch == lid && (match o.kind with
    | .spawn _ _ _ => true
    | .post _ _ => true
    | .go _ _ => true
    | _ => false))
  || s.shrouds.any (fun h => h.2.queue.any (fun q => q.launch == lid) || h.2.held.any (fun q => q.launch == lid)
      || h.2.threads.any (fun t => t.2.launch == lid))

/-- The timer of a bin that holds threads has expired (R41): T cycles after the first entry, of at least 1 ns each. -/
def binDue (s : State) (c : Core) (b : Bin) : Bool :=
  match b.bound with
  | none => false
  | some (lid, _) => b.timer != 0 && !b.held.isEmpty && !b.ready && decide (b.since + b.timer ≤ s.time)
      && !c.susp.contains (ctxOf s lid)

/-- A core's bin is ready to launch the threads it holds (R41, R165). -/
def binReady (s : State) (core bin : Nat) : State :=
  let c := getCore s core
  setCore s core { c with bins := mset {} c.bins bin { mget {} c.bins bin with ready := true } }

/-- No team waits to be placed, and no group of the launch is resident. -/
def groupsEnded (s : State) (l : Launch) (lid : Nat) : Bool :=
  (l.aborted || l.placed == l.teams) && s.groups.all (fun g => g.2.launch != lid)

/-- Bins that hold threads of an ended launch launch them at once (R43). -/
def binFlush (s : State) (lid : Nat) : State :=
  match mfind s.launches lid with
  | none => s
  | some l =>
    if !groupsEnded s l lid || spawnsOpen s lid
        || s.cores.any (fun c => c.2.bins.any (fun b => b.2.ready && (b.2.bound.map (·.1)) == some lid)) then s
    else { s with cores := s.cores.map (fun (k, c) =>
      (k, { c with bins := c.bins.map (fun (i, b) =>
        (i, if (b.bound.map (·.1)) == some lid && !b.held.isEmpty then { b with ready := true } else b)) })) }

/-- A team ends with its last group: its pockets and chains are discarded (R43, R257). -/
def teamEnd (s : State) (key : Nat) : State :=
  match mfind s.teams key with
  | none => s
  | some t =>
    if t.ended || t.groups.any (fun gid => (getGroup s gid).isSome) then s
    else
      let ctx := ctxOf s t.launch
      let s := setRegion (setRegion s ctx key false {}) ctx key true {}
      let s := modTeam s key (fun t => { t with ended := true, cleats := [], barDeps := [], barDone := [], image := (0, 0) })
      modLaunch s t.launch (fun l => { l with done := l.done + 1 })

/-- A group with no live thread ends (R43). -/
def groupEnd (s : State) (gid : Nat) : State :=
  match getGroup s gid with
  | none => s
  | some g =>
    if !(liveTids g).isEmpty then s
    else
      let s := { s with groups := mdel s.groups gid }
      let s := match g.team with
        | none => s
        | some key => teamEnd s key
      binFlush s g.launch

/-- A thread exits: a deferred fault that it has not raised passes to the launch's report (R162, R256). -/
def exitThread (s : State) (gid tid : Nat) : State :=
  match getGroup s gid with
  | none => s
  | some g =>
    let t := thread g tid
    let s := modThread s gid tid (fun t => { t with st := .exited, deferred := [], arrived := [] })
    t.deferred.foldl (fun s d => reportDeferred s g.launch { gid := gid, tid := tid } t.pc d) s

/-- After threads of a group have exited: rounds, phases and ends that this completes (R32, R33, R43). -/
def afterExit (s : State) (gid : Nat) : State :=
  match getGroup s gid with
  | none => s
  | some g =>
    let s := match g.team with
      | none => s
      | some key => teamCheck s key
    groupEnd s gid

end Sys2Proof.Machine
end

