-- ==== Sys2Proof/Machine/Async.lean ====
section
/-! DEFINITION. Instructions whose operation goes in flight: counted executions (spec/07 R128, R129), pending destinations
(spec/03 R59, R57), and signing a cleat (spec/02 R34, R35). -/

namespace Sys2Proof.Machine

/-- What a participant asks for: its operation, given where the result goes, and what the operation waits for. -/
structure Req where
  kind : Dst → OpKind
  locs : List Loc := []
  stores : Bool := false
  deps : List Dep := []
  n : Option Nat := none      -- registers of the result, where the operands say
  after : Nat → State → List Nat := fun _ _ => []    -- operations in whose order it stands, as it is issued, by the token
  list : List Loc := []       -- bytes of a list that it has read, whose loads count on SETA (R213)
  prep : State → OpKind → State × OpKind := fun s k => (s, k)   -- what Maluk resolves while the operation waits
  acquire : Bool := false     -- later accesses of the thread wait for it (R111)

/-- Where a result of `words` registers goes: field D of each thread, or the scalar register for the first. -/
def dstFor (cx : Cx) (words : Nat) (tids : List Nat) (first : Bool) : Dst :=
  let code := cx.f.d.toNat
  if code < 96 then { gid := cx.gid, n := words, regs := tids.map (fun t => (t, (thread cx.g t).wb + code)) }
  else if code < 112 ∧ first then { gid := cx.gid, n := words, scal := some (code - 96) }
  else { gid := cx.gid, n := words }

/-- Mark the destination pending (R59). -/
def setPending (s : State) (d : Dst) : State :=
  modGroup s d.gid (fun g =>
    let g := d.regs.foldl (fun g r =>
      let t := thread g r.1
      setThread g r.1 { t with pend := sunion t.pend (rangeFrom r.2 d.n) }) g
    match d.scal with
    | none => g
    | some k => { g with spend := sinsert k g.spend })

/-- A participant's operation goes in flight, and the loads of its list, which count on SETA (R213). -/
def issueOne (s : State) (cx : Cx) (tok flag : Nat) (d : Dst) (g : Got Req) : State :=
  let th := g.work.th
  let who := cx.who g.tid
  let deps := cx.fence g.tid ++ runOverlap s cx g.tid g.val.locs g.val.stores ++ g.val.deps ++ performed (g.val.after tok s)
  let s := setPending (modThread s cx.gid g.tid (fun _ => th)) d
  let (s, kind) := g.val.prep s (g.val.kind d)
  let id := s.nextId
  let s := addOp s
    { id := 0, who := who, ctx := cx.ctx, launch := cx.g.launch, core := cx.g.core, tok := tok, flag := flag,
      opcode := cx.opcode, run := if cx.uni then cx.fl.run else [], deps := deps, kind := kind }
  let s := if g.val.list.isEmpty then s else addOp s
    { id := 0, who := who, ctx := cx.ctx, launch := cx.g.launch, core := cx.g.core, tok := tok + 1,
      flag := hSeta cx.fl.w0, opcode := cx.opcode, kind := .load g.val.list 0 { gid := cx.gid } }
  if g.val.acquire then
    (cx.by g.tid).foldl (fun s t => addFence s { gid := cx.gid, tid := t } (performed [id])) s
  else s

/-- A counted instruction that would raise a flag above 63 stalls instead (R129). -/
def guard63 (old new : State) (cx : Cx) : State :=
  match getGroup new cx.gid with
  | none => new
  | some g => if (List.range 12).any (fun f => decide (63 < flagCount g f)) then stallRun old cx true else new

/-- The flag that loads count on, and the one that stores, atomics and calls count on (R124). -/
def Cx.seta (cx : Cx) : Nat := hSeta cx.fl.w0
def Cx.setb (cx : Cx) : Nat := hSetb cx.fl.w0

/-- Where each participant's result goes. -/
def reqDst (cx : Cx) (words : Nat) (hasD : Bool) (g : Got Req) (tids : List Nat) (first : Bool) : Dst :=
  if hasD then dstFor cx (g.val.n.getD words) tids first else { gid := cx.gid, n := g.val.n.getD words }

/-- The token of the execution (R128): that of its threads which have passed the slot, else a new one. -/
def tokOf (s : State) (cx : Cx) : Nat := if cx.fl.tok = 0 then s.nextId else cx.fl.tok

/-- A counted execution of n operations begins, and the loads of their lists on SETA; or n more join it. -/
def beginCount (s : State) (cx : Cx) (flag n lists : Nat) : State :=
  if cx.fl.tok = 0 then
    modGroup { s with nextId := s.nextId + 2 } cx.gid (fun g => addTok (addTok g s.nextId flag n) (s.nextId + 1) cx.seta lists)
  else modGroup s cx.gid (fun g => raiseTok (raiseTok g cx.fl.tok n) (cx.fl.tok + 1) lists)

/-- Participants' operations go in flight, in ascending `tid`, on the token `tok`. -/
def issueAll (s : State) (cx : Cx) (tok flag words : Nat) (hasD : Bool) (gs : List (Got Req)) : State :=
  (gs.foldl (fun (acc : State × Bool) g =>
    (issueOne acc.1 cx tok flag (reqDst cx words hasD g [g.tid] acc.2) g, false)) (s, cx.fl.past.isEmpty)).1

/-- The number of participants that read a list. -/
def listReads (gs : List (Got Req)) : Nat := (gs.filter (fun g => !g.val.list.isEmpty)).length

/-- The participants before the one that stalls have issued: the execution keeps its counts until its last thread has
passed (R26, R128). -/
def issuePart (s : State) (cx : Cx) (flag words : Nat) (hasD : Bool) (gs : List (Got Req)) : State :=
  if gs.isEmpty then s
  else
    let hold := if cx.fl.tok = 0 then 1 else 0
    let k := listReads gs
    let tok := tokOf s cx
    let s := issueAll (beginCount s cx flag (gs.length + hold) (if k = 0 then 0 else k + hold)) cx tok flag words hasD gs
    modGroup s cx.gid (fun g => passed { g with flight := g.flight.map (fun f => { f with tok := tok }) } (gs.map (·.tid)))

/-- The last participants issue. -/
def issueRest (s : State) (cx : Cx) (flag words : Nat) (hasD : Bool) (gs : List (Got Req)) : State :=
  issueAll (beginCount s cx flag gs.length (listReads gs)) cx (tokOf s cx) flag words hasD gs

/-- The hold of a group's execution on its counts ends; threads that wait on a flag that becomes 0 go on (R128, R170). -/
def letGo (s : State) (gid tok : Nat) : State := if tok = 0 then s else lowerFlag (lowerFlag s gid tok) gid (tok + 1)

/-- An instruction whose participants each put one operation in flight, counted on a flag; `words` registers of D
become pending. Under U = 1 one operation goes for the run, and its result to every thread (R57). No more than `room`
participants issue: the next one stalls. -/
def asyncExec (s : State) (cx : Cx) (flag words : Nat) (hasD : Bool) (rd : Nat → Rd Req) (room : Nat := 64) : State :=
  let past (s : State) : State := modGroup s cx.gid (fun g => advance g cx.slots)
  if cx.uni then
    let r := readAll s cx rd false [cx.low]
    match r.stall, r.traps, r.got with
    | some b, _, _ => stallRun s cx b
    | none, (_, t) :: _, _ => trapWhole s cx true t
    | none, [], g :: _ =>
      let rest := cx.fl.run.filter (· ≠ g.tid)
      let (pend, traps) := if hasD then othersD s cx (g.val.n.getD words) rest else (false, [])
      if pend || room == 0 then stallRun s cx true
      else
        let s' := trapRun (touchAll s cx r.got) cx false traps
        let tids := cx.fl.run.filter (fun t => !(traps.map (·.1)).contains t)
        let tok := tokOf s' cx
        guard63 s (past (issueOne (beginCount s' cx flag 1 (listReads [g])) { cx with fl := { cx.fl with run := tids } } tok flag
          (reqDst cx words hasD g tids true) g)) cx
    | none, [], [] => past s
  else
    let r := readAll s cx rd false (cx.todo.take room)
    let stop := match r.stall with
      | some b => some b
      | none => if room < cx.todo.length then some true else none
    match stop with
    | some b =>
      if cx.together hasD false then stallRun s cx b
      else guard63 s (stallRun (issuePart (trapRun (touchAll s cx r.got) cx false r.traps) cx flag words hasD r.got) cx b) cx
    | none =>
      guard63 s (letGo (past (issueRest (trapRun (touchAll s cx r.got) cx false r.traps) cx flag words hasD r.got)) cx.gid cx.fl.tok) cx

/-- What a release at a scope waits for: of each thread of the run when the instruction is uniform (R105, R110). -/
def relDeps (s : State) (cx : Cx) (tid scope : Nat) : List Dep :=
  (cx.by tid).flatMap (fun t => releaseDeps s { gid := cx.gid, tid := t } scope)

/-- The operations in flight of one execution of a run, in whose order a further one stands (R163, R228). -/
def ofExecution (s : State) (gid tok : Nat) : List Nat :=
  (s.ops.filter (fun o => o.tok == tok && (match o.who with
    | .thread t => t.gid == gid
    | _ => false))).map (·.id)

/-- The stores and atomics in flight of the threads that count as executing an instruction. -/
def ownStores (s : State) (cx : Cx) (tid : Nat) : List Nat :=
  (cx.by tid).flatMap (fun t => (s.ops.filter (fun o => isOwn (cx.who t) o && isStore o)).map (·.id))

/-! ### Completion words (R234) -/

/-- A completion word of `.FAB` scope needs FABRIC (R151, R154); where the trap stands among the others is the model's choice
(notes/assumptions/33.md). -/
def complGranted (cx : Cx) (w : Nat) : Rd Unit :=
  if bitOf w 31 ∧ bitsOf w 30 28 = 5 ∧ !cx.granted 9 then trapRd { code := cILLEGAL } else pure ()

/-! ### Signing (R34-R36) -/

/-- What one thread signs with. -/
structure Sig where
  fmt : W32 := 0
  known : Bool := true         -- its format word has been read
  reg : Nat := 0
  call : Option Call := none
  aRegs : List W32 := []
  bRegs : List W32 := []
  late : Option Trap := none   -- a trap that FMT_DIVERGE precedes (R255)

/-- State of a run that signs: traps so far, and the threads that have passed the instruction. -/
structure SignAcc where
  s : State
  traps : List (Nat × Trap) := []
  mine : List Nat := []

/-- The thread leaves the run at its instruction and waits for the open round to close (R36). -/
def waitSecond (s : State) (cx : Cx) (tid c : Nat) : State :=
  let s := modGroup s cx.gid (fun g => leaveRun g tid)
  modThread s cx.gid tid (fun t => { t with st := .waiting (.second c), pc := resumePoint (cx.here false) })

/-- The count that an execution's signatures of the open round belong to; 0 for none yet (R34). -/
def roundTok (s : State) (key c gid : Nat) (mine : List Nat) : Nat :=
  match mfind s.teams key with
  | none => 0
  | some t => (((cleatOf t c).signers.find? (fun x => x.who.gid == gid && mine.contains x.who.tid)).map (·.tok)).getD 0

/-- A thread's copy commits as its instruction retires (R53, R54); none where another thread's operands serve it. -/
def commitWork (s : State) (gid tid : Nat) (th : Option Thread) : State :=
  match th with
  | none => s
  | some t => modThread s gid tid (fun _ => t)

/-- One thread of a run signs cleat c; `wait` is what a rejoin signer becomes, `th` its copy. A counted signature adds 1 to
the SETB flag for each round of the execution (R34, R128). A thread that traps or is held commits nothing (R36, R53); one that
is held has not passed the instruction. -/
def signOne (cx : Cx) (key c : Nat) (counted : Bool) (wait : Option Wait) (acc : SignAcc) (tid : Nat) (sg : Sig)
    (th : Option Thread) : SignAcc :=
  let x : Tid := { gid := cx.gid, tid := tid }
  let s := acc.s
  let held := acc
  let acc := { acc with mine := acc.mine ++ [tid] }
  let old := if counted then roundTok s key c cx.gid held.mine else 0
  let tok := if counted then (if old = 0 then s.nextId else old) else 0
  let signer : Signer :=
    { who := x, aRegs := sg.aRegs, bRegs := sg.bRegs, tok := tok, flag := cx.setb,
      deps := if counted then releaseDeps s x 4 else [] }
  match sign s key c signer cx.opcode (if sg.known then some sg.fmt else none) sg.reg sg.call with
  | (.outside, s) => { acc with s := modThread (commitWork s cx.gid tid th) cx.gid tid (fun t =>
      if wait.isSome then { t with pc := nextHeader cx.fl.hdr (hLen cx.fl.w0) } else t) }
  | (.second, s) => { held with s := waitSecond s cx tid c }
  | (.diverged fmt, s) =>
    { acc with s := closeCheck s key c, traps := acc.traps ++ [(tid, { code := cDIVERGE, info2 := fmt.toNat })] }
  | (.done, s) =>
    match sg.late with
    | some t => { acc with traps := acc.traps ++ [(tid, t)] }
    | none =>
      let s := commitWork s cx.gid tid th
      let s := if counted && old == 0 then
        modGroup { s with nextId := s.nextId + 1 } cx.gid (fun g => addTok g tok cx.setb 1) else s
      let s := match wait with
        | some w => modThread s cx.gid tid (fun t => { t with st := .waiting w, pc := nextHeader cx.fl.hdr (hLen cx.fl.w0) })
        | none => s
      { acc with s := closeCheck s key c }

/-- Threads sign in ascending `tid`, with what each signs with and its copy. -/
def signEach (cx : Cx) (key c : Nat) (counted : Bool) (wait : Option Wait) (acc : SignAcc)
    (sigs : List (Nat × Sig × Option Thread)) : SignAcc :=
  sigs.foldl (fun acc x => signOne cx key c counted wait acc x.1 x.2.1 x.2.2) acc

/-- The threads of a run sign; those that diverge trap. -/
def signRun (s : State) (cx : Cx) (key c : Nat) (counted : Bool) (wait : Option Wait)
    (sigs : List (Nat × Sig × Option Thread)) : State :=
  let acc := signEach cx key c counted wait { s := s, mine := cx.fl.past } sigs
  trapRun acc.s cx false acc.traps

/-- Threads sign in ascending `tid`, each reading its operands as it signs; a stall holds the one that meets it and those
after it (R26). -/
def signThreads (cx : Cx) (key c : Nat) (rd : State → Nat → Rd Sig) : List Nat → SignAcc → SignAcc × Option Bool
  | [], acc => (acc, none)
  | t :: ts, acc =>
    match readOne acc.s cx (rd acc.s) false t with
    | .error (.stall b) => (acc, some b)
    | .error (.trap tr) => signThreads cx key c rd ts { acc with traps := acc.traps ++ [(t, tr)] }
    | .ok g =>
      signThreads cx key c rd ts (signOne cx key c true none { acc with s := touchAll acc.s cx [g] } t g.val (some g.work.th))

end Sys2Proof.Machine
end

