-- ==== Sys2Proof/Machine/Memory.lean ====
section
/-! DEFINITION. Loads, stores, column loads, tiles, prefetch and fences (spec/10 R213-R224, spec/05 R84-R96, spec/06
R106-R111). An operation goes in flight here; the events of Complete.lean perform it. -/

namespace Sys2Proof.Machine

/-! ### Addresses (R218) -/

/-- The offset operand, sign-extended (R214). -/
def offsetRd (s : State) (cx : Cx) (tid : Nat) : Rd Int := do
  let b ← readB s cx tid false
  pure (sext 32 b)

/-- The alignment check (R85). -/
def alignRd (addr : Nat) (x : Int) (n : Nat) : Rd Unit :=
  if x % (n : Int) = 0 then pure () else trapRd { code := cALIGN, addr := addr }

/-- Read poison raises POISON (R103); what is judged at the access's return is `latePoison`'s. -/
def poisonRd (s : State) (cx : Cx) (tid addr : Nat) (locs : List Loc) : Rd Unit :=
  if locs.any (issuePoison s cx.g.core cx.ctx (cx.who tid)) then trapRd { code := cPOISON, addr := addr } else pure ()

/-- An aligned global access. -/
def globalRd (s : State) (cx : Cx) (va n : Nat) (a : Acc) : Rd (List Loc) := do
  alignRd va va n
  let ls ← liftT (globalLocs s cx va n a)
  touch va
  pure ls

/-- The index of a thread in its launch (R61, R91). -/
def threadIndex (cx : Cx) (t : Team) (tid : Nat) : Nat := (t.index * cx.k.team + cx.g.grp) * cx.k.group + tid

/-- The virtual address of a private offset (R91). -/
def privVa (cx : Cx) (t : Team) (tid p : Nat) : Nat :=
  cx.l.privBase + ((p / 4) * roundUp (cx.l.teams * cx.k.team * cx.k.group) 32 + threadIndex cx t tid) * 4 + p % 4

/-- The locations of a private access: one piece of up to 4 bytes, or 4-byte words (R91). -/
def privLocs (s : State) (cx : Cx) (tid : Nat) (p : Int) (n : Nat) (a : Acc) : Except Trap (List Loc) :=
  let bad : Except Trap (List Loc) :=
    .error { code := cPAGE, addr := wrapN 64 p, info := if a = .write then 1 else 0, info2 := 1 }
  match cx.team.bind (mfind s.teams) with
  | none => bad
  | some t =>
    if p < 0 ∨ (cx.l.privBytes : Int) ≤ p then bad
    else
      let m := min n 4
      (List.range (n / m)).foldl (fun acc i =>
        match acc with
        | .error e => .error e
        | .ok ls => match globalLocs s cx (privVa cx t tid (p.toNat + 4 * i)) m a with
          | .error e => .error e
          | .ok l => .ok (ls ++ l)) (.ok [])

/-- An aligned access of `LD` or `ST`: global, or private under `.prv`. -/
def ldstRd (s : State) (cx : Cx) (tid : Nat) (a : Nat) (b : Int) (acc : Acc) : Rd (Nat × List Loc) := do
  let n := memBytes cx.ty
  if bitOf cx.opt 0 then
    let p := (a : Int) + b
    alignRd (wrapN 64 p) p n
    let ls ← liftT (privLocs s cx tid p n acc)
    pure (wrapN 64 p, ls)
  else
    let va := wrapN 64 ((a : Int) + b)
    let ls ← globalRd s cx va n acc
    pure (va, ls)

/-- A gang member's scratchpad needs the feature of R151; the check stands with those of R140 (R154, R215). -/
def remoteRd (cx : Cx) (a : SAddr) : Rd Unit := if a.remote ∧ !cx.granted 8 then trapRd { code := cILLEGAL } else pure ()
/-- The same for the scratchpad addresses of a block. -/
def remotesRd (cx : Cx) : List Nat → Rd Unit
  | [] => pure ()
  | a :: r => do
    remoteRd cx (saddr a)
    remotesRd cx r

/-- An aligned scratchpad access (R89, R218). -/
def scratchRd (s : State) (cx : Cx) (a : Nat) (b : Int) (n : Nat) : Rd (Nat × List Loc) := do
  let w := saddr a
  remoteRd cx w
  let off := (w.off : Int) + b
  let addr := a / 2 ^ 22 * 2 ^ 22 + wrapN 22 off
  alignRd addr off n
  let ls ← liftT (scratchLocs s cx w off n)
  pure (addr, ls)

/-! ### Loads and stores (R216, R217) -/

/-- Words of a loaded value. -/
def Cx.memWords (cx : Cx) : Nat := (memBytes cx.ty + 3) / 4

/-- How a load extends its value (TYPE), with 16 more when it is not allocated in L1. -/
def Cx.loadFmt (cx : Cx) : Nat := cx.ty + (if bitsOf cx.opt 2 1 = 1 then 16 else 0)

/-- A load: its address, then its operation (R106). -/
def loadRun (s : State) (cx : Cx) (acquire : Bool) (addr : Nat → Rd (Nat × List Loc)) : State :=
  asyncExec s cx cx.seta cx.memWords true (fun tid => do
    let (a, ls) ← addr tid
    poisonRd s cx tid a ls
    pure { kind := fun d => .load ls cx.loadFmt d, locs := ls, acquire := acquire })

/-- The value stored: its low bytes (R216). -/
def storeValue (s : State) (cx : Cx) (tid : Nat) : Rd Nat := do
  if 6 ≤ cx.ty then
    let ws ← readBlock cx.f.d.toNat cx.memWords
    pure (wordsVal ws)
  else readD s cx tid (cx.ty == 5)

/-- The pieces in which a store is performed: one, or the words of a private store (R85, R91). -/
def pieces (n : Nat) (ps : List (Loc × Byte)) : List (List (Loc × Byte)) :=
  (List.range ((ps.length + n - 1) / n)).map (fun i => (ps.drop (n * i)).take n)

/-- A store: its operands, then the value, the address, then its operation; `rel` is what a release waits for (R111). R55
does not place the value of field D: it is read after A and B (notes/assumptions/33.md), and its own faults stand after
the address's ALIGN (R215). -/
def storeRun (s : State) (cx : Cx) (rel : Nat → List Dep) (ops : Nat → Rd (Nat × Int))
    (addr : Nat → Nat × Int → Rd (Nat × List Loc)) : State :=
  asyncExec s cx cx.setb 1 false (fun tid => do
    let ab ← ops tid
    let v ← readLate (storeValue s cx tid)
    let (_, ls) ← addr tid ab
    let n := memBytes cx.ty
    let ps := pieces (if 0x101 = cx.opcode % 512 ∧ bitOf cx.opt 0 then 4 else n) (ls.zip (leBytes n (v.getD 0)))
    pure { kind := fun _ => .store ps (ps.map (fun _ => false)), locs := ls, stores := true, deps := rel tid })

/-- The operands of LD and ST: the address, 32 bits wide under `.prv`, and the offset. -/
def ldstOps (s : State) (cx : Cx) (tid : Nat) : Rd (Nat × Int) := do
  let a ← readA s cx tid (!bitOf cx.opt 0)
  let b ← offsetRd s cx tid
  pure (a, b)
/-- The operands of a scratchpad access. -/
def ldsOps (s : State) (cx : Cx) (tid : Nat) : Rd (Nat × Int) := do
  let a ← readA s cx tid false
  let b ← offsetRd s cx tid
  pure (a, b)
/-- The operands of LDA and STR. -/
def ldaOps (s : State) (cx : Cx) (tid : Nat) : Rd (Nat × Int) := do
  let a ← readA s cx tid true
  let b ← offsetRd s cx tid
  pure (a, b)
/-- The global address of LDA and STR. -/
def ldaAddr (s : State) (cx : Cx) (acc : Acc) (ab : Nat × Int) : Rd (Nat × List Loc) := do
  let va := wrapN 64 ((ab.1 : Int) + ab.2)
  let ls ← globalRd s cx va (memBytes cx.ty) acc
  pure (va, ls)

def ldRun (s : State) (cx : Cx) : State :=
  loadRun s cx false (fun t => do let (a, b) ← ldstOps s cx t; ldstRd s cx t a b .read)
def stRun (s : State) (cx : Cx) : State :=
  storeRun s cx (fun _ => []) (ldstOps s cx) (fun t ab => ldstRd s cx t ab.1 ab.2 .write)
def ldsRun (s : State) (cx : Cx) : State :=
  loadRun s cx false (fun t => do let (a, b) ← ldsOps s cx t; scratchRd s cx a b (memBytes cx.ty))
def stsRun (s : State) (cx : Cx) : State :=
  storeRun s cx (fun _ => []) (ldsOps s cx) (fun _ ab => scratchRd s cx ab.1 ab.2 (memBytes cx.ty))
/-- LDA: later accesses of the thread wait for it (R111). -/
def ldaRun (s : State) (cx : Cx) : State :=
  loadRun s cx true (fun t => do let ab ← ldaOps s cx t; ldaAddr s cx .read ab)
/-- STR: a fence at its scope, then the store (R111). -/
def strRun (s : State) (cx : Cx) : State :=
  storeRun s cx (fun t => relDeps s cx t cx.m.scope.toNat) (ldaOps s cx) (fun _ ab => ldaAddr s cx .write ab)

/-! ### Column loads, tiles, prefetch (R219-R223) -/

/-- LDO (R220, R92): the elements of a column line. -/
def ldoRun (s : State) (cx : Cx) : State :=
  asyncExec s cx cx.seta 8 true (fun tid => do
    let a ← readA s cx tid true
    let e := 4 / 2 ^ cx.ty
    let row := a % 1024 / 32
    if row % (32 / e) ≠ 0 ∨ a % 32 % e ≠ 0 then trapRd { code := cALIGN, addr := a }
    let base ← liftT (globalLocs s cx a 1 .read)
    touch a
    let ls := base.flatMap (fun l => match l with
      | .g pa => (List.range (32 / e)).flatMap (fun i => (rangeFrom (pa + 32 * i) e).map Loc.g)
      | .s _ _ => [])
    poisonRd s cx tid a ls
    pure { kind := fun d => .load ls (8 + cx.loadFmt) d, locs := ls })

/-- The operand block of a tile instruction: the tile's address, the scratchpad's (R221). -/
def tileOps (cx : Cx) : Rd (Nat × Nat) := do
  let ws ← readBlock cx.f.a.toNat 3
  let va := wordsVal (ws.take 2)
  let sa := (ws.getD 2 0).toNat
  remoteRd cx (saddr sa)
  alignRd va va 1024
  alignRd sa ((saddr sa).off : Int) 32
  pure (va, sa)

/-- Key of the team whose scratchpad an address names. -/
def scratchTeam (s : State) (cx : Cx) (a : SAddr) : Nat :=
  match cx.team.bind (fun t => (mfind s.teams t).map (fun x => (t, x))) with
  | none => 0
  | some (tk, t) => match steam cx.k t a with
    | none => tk
    | some i => teamKey cx.g.launch i

/-- LDV (R222): one read of the tile, and the writes of the scratchpad at the same point. -/
def ldvRun (s : State) (cx : Cx) : State :=
  asyncExec s cx cx.seta 1 true (fun tid => do
    let (va, sa) ← tileOps cx
    let gl ← liftT (globalLocs s cx va 1024 .read)
    touch va
    poisonRd s cx tid va gl
    let sl ← liftT (scratchLocs s cx (saddr sa) (saddr sa).off 1024)
    let pa := gl.foldl (fun m l => match l with
      | .g p => min m p
      | .s _ _ => m) (2 ^ 48)
    pure { kind := fun d => .tileRead pa (scratchTeam s cx (saddr sa)) (BitVec.ofNat 32 sa) d, locs := gl ++ sl,
           stores := true })

/-- STT (R223): the source is read when the first quarter is performed; quarters in no promised order, or the whole
tile at once under `.aon`. -/
def sttRun (s : State) (cx : Cx) : State :=
  asyncExec s cx cx.setb 1 true (fun tid => do
    let (va, sa) ← tileOps cx
    let sl ← liftT (scratchLocs s cx (saddr sa) (saddr sa).off 1024)
    poisonRd s cx tid sa sl
    let gl ← liftT (globalLocs s cx va 1024 .write)
    touch va
    let pa := gl.foldl (fun m l => match l with
      | .g p => min m p
      | .s _ _ => m) (2 ^ 48)
    pure { kind := fun d => .tileWrite pa (scratchTeam s cx (saddr sa)) (BitVec.ofNat 32 sa) (bitOf cx.opt 0) none []
             (List.range 32) d, locs := gl ++ sl, stores := true })

/-- The cache that a prefetch fills: L1, the die's second level for the address, or the LLC of its stack (R9, R219). -/
def prefUnit (cx : Cx) (pa : Nat) : Nat :=
  match cx.ty with
  | 0 => cx.g.core
  | 1 => secondUnit cx.g.core pa
  | _ => llcUnit (stackOf pa)

/-- PREF (R219): it never traps; an address that fails a check is dropped. -/
def prefRun (s : State) (cx : Cx) : State :=
  let tids := if cx.uni then [cx.low] else cx.fl.run
  let r := readAll s cx (fun tid => do
    let (a, b) ← ldaOps s cx tid
    pure (wrapN 64 ((a : Int) + b))) false tids
  match r.stall with
  | some b => stallRun s cx b
  | none =>
    let s := r.got.foldl (fun s g =>
      let s := modThread s cx.gid g.tid (fun _ => g.work.th)
      match translate s cx.g.core cx.ctx g.val .read with
      | .ok pa => fillLine s (lineAt (prefUnit cx pa) cx.ctx 0 pa)
      | .error _ => s) s
    modGroup s cx.gid (fun g => advance g cx.slots)

/-! ### Fences (R224, R110) -/

/-- FENCE: later accesses, engine calls and spawns of each thread of the run wait. -/
def fenceRun (s : State) (cx : Cx) : State :=
  let s := cx.fl.run.foldl (fun s' t =>
    let x : Tid := { gid := cx.gid, tid := t }
    addFence s' x (releaseDeps s x cx.m.scope.toNat)) s
  modGroup s cx.gid (fun g => advance g cx.slots)

/-- LD (R217). -/
def execLd (f : FR) (s : State) := coreR 0x100 f s (fun cx => ldRun s cx)
/-- The twin of the above (R134). -/
def execLdTwin (f : FR) (m : Mod) (s : State) := coreT 0x100 f m s (fun cx => ldRun s cx)
/-- ST (R217). -/
def execSt (f : FR) (s : State) := coreR 0x101 f s (fun cx => stRun s cx)
/-- The twin of the above (R134). -/
def execStTwin (f : FR) (m : Mod) (s : State) := coreT 0x101 f m s (fun cx => stRun s cx)
/-- LDS (R217). -/
def execLds (f : FR) (s : State) := coreR 0x102 f s (fun cx => ldsRun s cx)
/-- The twin of the above (R134). -/
def execLdsTwin (f : FR) (m : Mod) (s : State) := coreT 0x102 f m s (fun cx => ldsRun s cx)
/-- STS (R217). -/
def execSts (f : FR) (s : State) := coreR 0x103 f s (fun cx => stsRun s cx)
/-- The twin of the above (R134). -/
def execStsTwin (f : FR) (m : Mod) (s : State) := coreT 0x103 f m s (fun cx => stsRun s cx)
/-- LDO (R220). -/
def execLdo (f : FR) (s : State) := coreR 0x104 f s (fun cx => ldoRun s cx)
/-- The twin of the above (R134). -/
def execLdoTwin (f : FR) (m : Mod) (s : State) := coreT 0x104 f m s (fun cx => ldoRun s cx)
/-- LDV (R222). -/
def execLdv (f : FR) (s : State) := coreR 0x105 f s (fun cx => ldvRun s cx)
/-- The twin of the above (R134). -/
def execLdvTwin (f : FR) (m : Mod) (s : State) := coreT 0x105 f m s (fun cx => ldvRun s cx)
/-- STT (R223). -/
def execStt (f : FR) (s : State) := coreR 0x106 f s (fun cx => sttRun s cx)
/-- The twin of the above (R134). -/
def execSttTwin (f : FR) (m : Mod) (s : State) := coreT 0x106 f m s (fun cx => sttRun s cx)
/-- PREF (R219). -/
def execPref (f : FR) (s : State) := coreR 0x107 f s (fun cx => prefRun s cx)
/-- The twin of the above (R134). -/
def execPrefTwin (f : FR) (m : Mod) (s : State) := coreT 0x107 f m s (fun cx => prefRun s cx)
/-- LDA (R217, R111). -/
def execLda (f : FR) (s : State) := coreR 0x108 f s (fun cx => ldaRun s cx)
/-- The twin of the above (R134). -/
def execLdaTwin (f : FR) (m : Mod) (s : State) := coreT 0x108 f m s (fun cx => ldaRun s cx)
/-- STR (R217, R111). -/
def execStr (f : FR) (s : State) := coreR 0x109 f s (fun cx => strRun s cx)
/-- The twin of the above (R134). -/
def execStrTwin (f : FR) (m : Mod) (s : State) := coreT 0x109 f m s (fun cx => strRun s cx)
/-- FENCE (R224). -/
def execFence (f : FR) (s : State) := coreR 0x10A f s (fun cx => fenceRun s cx)
/-- The twin of the above (R134). -/
def execFenceTwin (f : FR) (m : Mod) (s : State) := coreT 0x10A f m s (fun cx => fenceRun s cx)

end Sys2Proof.Machine
end

