-- ==== Sys2Proof/Machine/Atomics.lean ====
section
/-! DEFINITION. Atomics (spec/10 R225, R226, spec/05 R97, spec/06 R109): lanes of a run that name one location go in one
request; ATOMIC_PERFORM applies it. -/

namespace Sys2Proof.Machine

/-- The new value of a location: opcode, TYPE, old value, operands (R225). -/
def atomNew (op ty m x y : Nat) : Nat :=
  let w64 := if op = 0x114 ∨ op = 0x115 then ty = 1 else 2 ≤ ty ∧ op ≠ 0x116 ∧ op ≠ 0x10C
  let w := if w64 then 64 else 32
  let sg := ty == 0 || ty == 2
  let less (a b : Nat) : Bool := if sg then decide (sext w a < sext w b) else decide (a < b)
  let half (a b : Nat) : Nat :=
    let f : Fmt := if ty = 0 then .bf16 else .f16
    roundF f 0 false 0 (addV 0 (fval f a) (fval f b))
  match op with
  | 0x10B => (m + x) % 2 ^ w
  | 0x117 => (m + x) % 2 ^ w
  | 0x10C => faddN m x
  | 0x10D => if less x m then x else m
  | 0x10E => if less m x then x else m
  | 0x10F => Nat.land m x
  | 0x110 => Nat.lor m x
  | 0x111 => Nat.xor m x
  | 0x112 => x
  | 0x119 => x
  | 0x113 => if m = x then y else m
  | 0x118 => if m = x then y else m
  | 0x114 => if x ≤ m then 0 else m + 1
  | 0x115 => if m = 0 ∨ x < m then x else m - 1
  | _ => half (m % 2 ^ 16) (x % 2 ^ 16) + half (m / 2 ^ 16) (x / 2 ^ 16) * 2 ^ 16

/-- What a lane asks for. -/
structure AReq where
  locs : List Loc
  x : Nat
  y : Nat

/-- The operands of an atomic: x and, for the CAS forms, the pair of a block (R225). -/
def atomB (s : State) (cx : Cx) (tid : Nat) (cas : Bool) : Rd (Nat × Nat) := do
  if cas then
    let n := if cx.wide then 2 else 1
    let ws ← readBlock cx.f.b.toNat (2 * n)
    pure (wordsVal (ws.take n), wordsVal (ws.drop n))
  else
    let x ← readB s cx tid cx.wide
    pure (x, 0)

/-- One lane of an atomic. -/
def atomRd (s : State) (cx : Cx) (tid : Nat) (scratch cas : Bool) : Rd AReq := do
  let a ← readA s cx tid (!scratch)
  let xy ← readLate (atomB s cx tid cas)
  let (x, y) := xy.getD (0, 0)
  let n := if cx.wide then 8 else 4
  let (addr, ls) ← if scratch then scratchRd s cx a 0 n
    else do
      let ls ← globalRd s cx a n .write
      pure (a, ls)
  poisonRd s cx tid addr ls
  pure { locs := ls, x := x, y := y }

/-- Group the lanes that name one location, in order of the lowest lane (R97). -/
def combineLanes : Nat → List (Got AReq) → List (List (Got AReq))
  | 0, _ => []
  | _, [] => []
  | n + 1, g :: r =>
    (g :: r.filter (fun h => h.val.locs == g.val.locs)) :: combineLanes n (r.filter (fun h => h.val.locs != g.val.locs))

/-- A request goes in flight: what its lanes' accesses stand after, and each lane's destination. -/
def issueAtomic (cx : Cx) (words tok : Nat) (first : Nat) (s : State) (gs : List (Got AReq)) : State :=
  match gs with
  | [] => s
  | g0 :: _ =>
    let tids := gs.flatMap (fun g => cx.by g.tid)
    let deps := gs.flatMap (fun g => cx.fence g.tid ++ runOverlap s cx g.tid g.val.locs true)
    let dst (g : Got AReq) : Dst := dstFor cx words (cx.by g.tid) (g.tid == first)
    let s := gs.foldl (fun s g => setPending (modThread s cx.gid g.tid (fun _ => g.work.th)) (dst g)) s
    addOp s
      { id := 0, who := cx.who g0.tid, ctx := cx.ctx, launch := cx.g.launch, core := cx.g.core, tok := tok, flag := cx.setb,
        opcode := cx.opcode, run := tids, deps := deps,
        kind := .atomic g0.val.locs (cx.opcode % 512 * 8 + cx.ty) cx.wide
          (gs.map (fun g => { tid := g.tid, x := g.val.x, y := g.val.y, dst := dst g })) }

/-- An atomic of a run (R97, R128, R57). Its lanes are combined by location, so the run issues together: a lane that stalls
holds the others (notes/assumptions/33.md). -/
def atomRun (s : State) (cx : Cx) (scratch cas : Bool) : State :=
  let words := if cx.wide then 2 else 1
  let r := readAll s cx (fun t => atomRd s cx t scratch cas) false (if cx.uni then [cx.low] else cx.fl.run)
  let rest := if cx.uni then cx.fl.run.filter (· ≠ cx.low) else []
  let (pend, others) := othersD s cx words rest
  match r.stall with
  | some b => stallRun s cx b
  | none =>
    match cx.uni, r.traps with
    | true, (_, t) :: _ => trapWhole s cx true t
    | _, _ =>
      if pend then stallRun s cx true
      else
        let s' := trapRun (touchAll s cx r.got) cx false (r.traps ++ others)
        let cx' := { cx with fl := { cx.fl with run := cx.fl.run.filter (fun t => !(others.map (·.1)).contains t) } }
        let reqs := combineLanes (r.got.length + 1) r.got
        let tok := s'.nextId
        let s' := modGroup { s' with nextId := tok + 1 } cx.gid (fun g => addTok g tok cx.setb reqs.length)
        let first := (r.got.head?.map (·.tid)).getD 0
        let s' := reqs.foldl (issueAtomic cx' words tok first) s'
        guard63 s (modGroup s' cx.gid (fun g => advance g cx.slots)) cx

/-- ATOM.ADD (R225). -/
def execAtomAdd (f : FR) (s : State) := coreR 0x10B f s (fun cx => atomRun s cx false false)
/-- The twin of the above (R134). -/
def execAtomAddTwin (f : FR) (m : Mod) (s : State) := coreT 0x10B f m s (fun cx => atomRun s cx false false)
/-- ATOM.FADD (R225). -/
def execAtomFadd (f : FR) (s : State) := coreR 0x10C f s (fun cx => atomRun s cx false false)
/-- The twin of the above (R134). -/
def execAtomFaddTwin (f : FR) (m : Mod) (s : State) := coreT 0x10C f m s (fun cx => atomRun s cx false false)
/-- ATOM.MIN (R225). -/
def execAtomMin (f : FR) (s : State) := coreR 0x10D f s (fun cx => atomRun s cx false false)
/-- The twin of the above (R134). -/
def execAtomMinTwin (f : FR) (m : Mod) (s : State) := coreT 0x10D f m s (fun cx => atomRun s cx false false)
/-- ATOM.MAX (R225). -/
def execAtomMax (f : FR) (s : State) := coreR 0x10E f s (fun cx => atomRun s cx false false)
/-- The twin of the above (R134). -/
def execAtomMaxTwin (f : FR) (m : Mod) (s : State) := coreT 0x10E f m s (fun cx => atomRun s cx false false)
/-- ATOM.AND (R225). -/
def execAtomAnd (f : FR) (s : State) := coreR 0x10F f s (fun cx => atomRun s cx false false)
/-- The twin of the above (R134). -/
def execAtomAndTwin (f : FR) (m : Mod) (s : State) := coreT 0x10F f m s (fun cx => atomRun s cx false false)
/-- ATOM.OR (R225). -/
def execAtomOr (f : FR) (s : State) := coreR 0x110 f s (fun cx => atomRun s cx false false)
/-- The twin of the above (R134). -/
def execAtomOrTwin (f : FR) (m : Mod) (s : State) := coreT 0x110 f m s (fun cx => atomRun s cx false false)
/-- ATOM.XOR (R225). -/
def execAtomXor (f : FR) (s : State) := coreR 0x111 f s (fun cx => atomRun s cx false false)
/-- The twin of the above (R134). -/
def execAtomXorTwin (f : FR) (m : Mod) (s : State) := coreT 0x111 f m s (fun cx => atomRun s cx false false)
/-- ATOM.XCHG (R225). -/
def execAtomXchg (f : FR) (s : State) := coreR 0x112 f s (fun cx => atomRun s cx false false)
/-- The twin of the above (R134). -/
def execAtomXchgTwin (f : FR) (m : Mod) (s : State) := coreT 0x112 f m s (fun cx => atomRun s cx false false)
/-- ATOM.CAS (R225). -/
def execAtomCas (f : FR) (s : State) := coreR 0x113 f s (fun cx => atomRun s cx false true)
/-- The twin of the above (R134). -/
def execAtomCasTwin (f : FR) (m : Mod) (s : State) := coreT 0x113 f m s (fun cx => atomRun s cx false true)
/-- ATOM.INC (R225). -/
def execAtomInc (f : FR) (s : State) := coreR 0x114 f s (fun cx => atomRun s cx false false)
/-- The twin of the above (R134). -/
def execAtomIncTwin (f : FR) (m : Mod) (s : State) := coreT 0x114 f m s (fun cx => atomRun s cx false false)
/-- ATOM.DEC (R225). -/
def execAtomDec (f : FR) (s : State) := coreR 0x115 f s (fun cx => atomRun s cx false false)
/-- The twin of the above (R134). -/
def execAtomDecTwin (f : FR) (m : Mod) (s : State) := coreT 0x115 f m s (fun cx => atomRun s cx false false)
/-- ATOM.HADD2 (R225). -/
def execAtomHadd2 (f : FR) (s : State) := coreR 0x116 f s (fun cx => atomRun s cx false false)
/-- The twin of the above (R134). -/
def execAtomHadd2Twin (f : FR) (m : Mod) (s : State) := coreT 0x116 f m s (fun cx => atomRun s cx false false)
/-- ATOMS.ADD (R225). -/
def execAtomsAdd (f : FR) (s : State) := coreR 0x117 f s (fun cx => atomRun s cx true false)
/-- The twin of the above (R134). -/
def execAtomsAddTwin (f : FR) (m : Mod) (s : State) := coreT 0x117 f m s (fun cx => atomRun s cx true false)
/-- ATOMS.CAS (R225). -/
def execAtomsCas (f : FR) (s : State) := coreR 0x118 f s (fun cx => atomRun s cx true true)
/-- The twin of the above (R134). -/
def execAtomsCasTwin (f : FR) (m : Mod) (s : State) := coreT 0x118 f m s (fun cx => atomRun s cx true true)
/-- ATOMS.XCHG (R225). -/
def execAtomsXchg (f : FR) (s : State) := coreR 0x119 f s (fun cx => atomRun s cx true false)
/-- The twin of the above (R134). -/
def execAtomsXchgTwin (f : FR) (m : Mod) (s : State) := coreT 0x119 f m s (fun cx => atomRun s cx true false)

end Sys2Proof.Machine
end

