-- ==== Sys2Proof/Machine/Tasks.lean ====
section
/-! DEFINITION. Task records (spec/10 R244-R250): posting, releasing successors, dispatch to bins and shrouds; and charges to
an energy quota (spec/21 R371-R373). -/

namespace Sys2Proof.Machine

/-! ### Energy quotas (R371-R373) -/

/-- Subtract from the QUOTA of a context's record, at its home; the crossing to zero or below posts a QUOTA event. -/
def chargeQuota (s : State) (ctx n : Nat) : State :=
  match mfind s.ctxs ctx with
  | none => s
  | some c =>
    let q := quotaOf s c
    let s := wrBytes (modCtx s ctx (fun c => { c with quota := q - n })) (c.recAt + 0x60) (leBytes 8 (wrapN 64 (q - n)))
    if 0 < q ∧ q - n ≤ 0 then
      post s { kind := 0x84, vi := c.vi, endpoint := 0, op := false, body := pad8 (leBytes 4 ctx) }
    else s

/-- The quota is exhausted. -/
def exhausted (s : State) (ctx : Nat) : Bool :=
  match mfind s.ctxs ctx with
  | none => true
  | some c => decide (quotaOf s c ≤ 0)

/-! ### Accesses of agents without a core -/

/-- The unit number of an agent that has no translation unit of its own: nothing is cached under it. -/
def homeUnit : Nat := 1000

/-- Translate for an agent that Maluk serves while it waits: a page not present is made present (R239, R291). -/
def resolvePa (s : State) (unit ctx va : Nat) (a : Acc) : State × Except Nat Nat :=
  match translate s unit ctx va a with
  | .error 0 =>
    let s := makePresent s ctx va
    (s, translate s unit ctx va a)
  | r => (s, r)

/-- The same where the translation unit comes to hold what it uses (R344, R345). -/
def resolveAt (s : State) (unit ctx va : Nat) (a : Acc) (exec : Exec) : State × Except Nat Nat :=
  match resolvePa s unit ctx va a with
  | (s, .ok pa) => (touchUnit s unit ctx va exec, .ok pa)
  | (s, .error r) => (s, .error r)

/-- Write a word at its home for a writer. -/
def wrWordBy (s : State) (w : Writer) (pa v : Nat) : State := performQuarter s w 0 ((rangeFrom pa 4).zip (leBytes 4 v)) false
/-- Write a word of a record as the task graph does. -/
def wrWord (s : State) (pa v : Nat) : State := wrWordBy s .home pa v

/-! ### Records (R244) -/

/-- Threads that wait for a record whose POSTED bit is set go on (R250). -/
def wakeTasks (s : State) : State :=
  { s with groups := s.groups.map (fun (gid, g) =>
      (gid, { g with threads := g.threads.map (fun t =>
        match t.st with
        | .waiting (.task pa) => if bitOf (rdMem s (pa + 4) 4) 2 then { t with st := .ready } else t
        | _ => t) })) }

/-- The launch of a record: the unended launch of the context with its tag and kernel (R249). -/
def recLaunch (s : State) (ctx pa : Nat) : Option (Nat × Launch) :=
  s.launches.find? (fun l => l.2.ctx == ctx && !l.2.ended
    && l.2.tag == rdMem s (pa + 6) 2 && l.2.kid == rdMem s (pa + 0x24) 4)

/-- Report TASK_FAULT: record address, fault code, word offset (R388). -/
def postTaskFault (s : State) (ctx : Nat) (lid : Option Nat) (va code off : Nat) : State :=
  let body := leBytes 8 va ++ leBytes 4 code ++ leBytes 4 off
  match lid with
  | some l => postLaunch s l 0x82 body
  | none =>
    let vi := ((mfind s.ctxs ctx).map (·.vi)).getD 0
    post s { kind := 0x82, vi := vi, endpoint := 0, op := false, body := body }

/-- Set bits of a record's FLAGS. -/
def setFlags (s : State) (pa bits : Nat) : State := wrWord s (pa + 4) (Nat.lor (rdMem s (pa + 4) 4) bits)

/-- Fault codes of task reports (R388). -/
def cUNDERFLOW : Nat := 0x100
def cNOLAUNCH : Nat := 0x101
def cBADENTRY : Nat := 0x102

/-- Put a record at its shroud's queue, or hold it at a full one (R290). -/
def enqueue (s : State) (k : Nat) (q : Queued) : State :=
  let h := getShroud s k
  setShroud s k (if h.queue.length < Config.shroudQueue && h.held.isEmpty then { h with queue := h.queue ++ [q] }
    else { h with held := h.held ++ [q] })

/-- The shroud that a TARGET names: base die in [6:3], shroud in [2:0]. -/
def shroudOf (target : Nat) : Nat := bitsOf target 6 3 * 8 + bitsOf target 2 0

/-- Dispatch a record at `pa`, at most once (R249); true when it is a marker, which is posted at that moment. A core field of
48 to 63 in a record that TGINIT has not checked counts on into the next die (notes/assumptions/42.md). -/
def dispatch (s : State) (ctx va pa : Nat) : State × Bool :=
  let fl := rdMem s (pa + 4) 4
  if bitOf fl 3 then (s, false)
  else
    let s := setFlags s pa 8
    let fail (s : State) (lid : Option Nat) (code : Nat) : State × Bool :=
      (postTaskFault (setFlags s pa 16) ctx lid va code 0, false)
    let entry := rdMem s (pa + 8) 8
    let target := rdMem s (pa + 0x18) 4
    match recLaunch s ctx pa with
    | none => fail s none cNOLAUNCH
    | some (lid, l) =>
      match getKernel s ctx l.kid with
      | none => fail s (some lid) cBADENTRY
      | some k =>
        match bitsOf fl 1 0 with
        | 0 =>
          if isHeader k (BitVec.ofNat 64 entry) then
            (addOp s { id := 0, who := .port 0, ctx := ctx, launch := lid,
                       core := bitsOf target 8 6 * Config.coresPerDie + bitsOf target 5 0,
                       kind := .spawn entry (BitVec.ofNat 64 (rdMem s (pa + 0x10) 8)) {} }, false)
          else fail s (some lid) cBADENTRY
        | 1 =>
          if entry < k.routines.length then
            (enqueue s (shroudOf target) { ctx := ctx, launch := lid, record := va, routine := entry }, false)
          else fail s (some lid) cBADENTRY
        | 2 => (s, true)
        | _ => fail s (some lid) cBADENTRY

/-- A location lies in a line that an engine owns (R99). -/
def ownedLine (s : State) (pa : Nat) : Bool := s.owned.any (fun o => o.1 == pa / 128)

/-- Release one successor of a posted record (R248): a marker that it dispatches is posted at that moment. A line that an
engine owns holds the release until the engine leaves it (R99). A successor whose page the context may not write is passed
over: R248 names no outcome (notes/assumptions/42.md). -/
def release (post : State → Nat → State) (ctx : Nat) (s : State) (va : Nat) : State :=
  match resolvePa s homeUnit ctx va .write with
  | (s, .error _) => s
  | (s, .ok pa) =>
    if ownedLine s pa then
      addOp s { id := 0, who := .port 0, ctx := ctx, launch := 0, core := Config.cores, kind := .release va }
    else
      let n := rdMem s pa 4
      if n = 0 then postTaskFault (setFlags s pa 16) ctx ((recLaunch s ctx pa).map (·.1)) va cUNDERFLOW 0
      else
        let s := wrWord s pa (n - 1)
        if n = 1 then
          let (s, marker) := dispatch s ctx va pa
          if marker then post s va else s
        else s

/-- Post a record at its home (R248), once, and release its successors; `n` bounds the markers that are posted within. -/
def postTree (ctx : Nat) : Nat → State → Nat → State
  | 0, s, _ => s
  | n + 1, s, va =>
    match resolvePa s homeUnit ctx va .write with
    | (s, .error _) => s
    | (s, .ok pa) =>
      if bitOf (rdMem s (pa + 4) 4) 2 then s
      else
        let s := setFlags s pa 4
        let s := match complOf (rdMem s (pa + 0x1C) 4) with
          | some c => complete s ctx c
          | none => s
        let succ := (List.range (min 11 (rdMem s (pa + 0x20) 4))).map (fun i => rdMem s (pa + 0x28 + 8 * i) 8)
        succ.foldl (release (postTree ctx n) ctx) s

/-- Posts within a post that memory can hold: each is of a marker whose count was above zero, and a count above zero lists
a byte of memory. -/
def postBound (s : State) : Nat := 8 * s.mem.length + 16

/-- `TGPOST` performed (R248). -/
def postRecord (s : State) (ctx va : Nat) : State := wakeTasks (postTree ctx (postBound s) s va)

/-- A release that an engine's line has held (R99). -/
def releaseHeld (s : State) (ctx va : Nat) : State := wakeTasks (release (postTree ctx (postBound s)) ctx s va)

/-- Dispatch a record and post it if it is a marker. -/
def dispatchRecord (s : State) (ctx va pa : Nat) : State :=
  let (s, marker) := dispatch s ctx va pa
  if marker then postRecord s ctx va else s

end Sys2Proof.Machine
end

