-- ==== Sys2Proof/Machine/Copy.lean ====
section
/-! DEFINITION. Copy instructions (spec/10 R229-R242): the layout record and its checks, the elements of a window, and
the copy as it goes in flight. The events of Complete.lean issue it, take its lines and perform it. -/

namespace Sys2Proof.Machine

/-! ### The layout record (R229-R231) -/

/-- A layout record, or the linear copy of COPYS. -/
structure Layout where
  src : Nat
  dst : Nat
  srcS : Bool
  dstS : Bool
  esize : Nat
  mode : Nat
  orient : Nat
  sorient : Nat
  hem : Nat
  ext : List Nat
  sstr : List Int
  org : List Int
  win : List Nat
  dstr : List Int
  resv : Bool
  deriving DecidableEq, Repr

/-- An encoded stride (R231). -/
def strideOf (w : Nat) : Int := sext 64 (wrapN 64 (sext 27 w * (2 ^ bitsOf w 31 27 : Nat)))

/-- The fields of 24 registers; dimensions above NDIM are dropped (R229, R230). -/
def layoutOf (ws : List W32) : Layout :=
  let w (i : Nat) : Nat := (ws.getD i 0).toNat
  let f := w 4
  let n := bitsOf f 7 6 + 1
  let size := 2 ^ bitsOf f 1 0
  let hem := if size = 8 then w 5 + 2 ^ 32 * w 5 else w 5 % 2 ^ (8 * size)
  let wins := [bitsOf (w 18) 15 0, bitsOf (w 18) 31 16, bitsOf (w 19) 15 0, bitsOf (w 19) 31 16]
  { src := wordsVal (ws.take 2), dst := wordsVal ((ws.drop 2).take 2), srcS := bitOf f 4, dstS := bitOf f 5, esize := size,
    mode := bitsOf f 9 8, orient := bitsOf f 13 12, sorient := bitsOf f 11 10, hem := hem
    ext := (rangeFrom 6 n).map w, sstr := (rangeFrom 10 n).map (fun i => strideOf (w i)),
    org := (rangeFrom 14 n).map (fun i => sext 32 (w i)), win := wins.take n,
    dstr := (rangeFrom 20 (n - 1)).map (fun i => strideOf (w i)),
    resv := bitsOf f 31 14 != 0 || bitsOf f 3 2 != 0 || w 23 != 0 }

/-- The copy of a COPYS block: words in order (R235). -/
def linearOf (ws : List W32) (srcS dstS : Bool) : Layout :=
  let n := (ws.getD 4 0).toNat / 4
  { src := wordsVal (ws.take 2), dst := wordsVal ((ws.drop 2).take 2), srcS := srcS, dstS := dstS, esize := 4, mode := 0,
    orient := 0, sorient := 0, hem := 0, ext := [n], sstr := [4], org := [0], win := [n], dstr := [], resv := false }

/-! ### The elements of a window (R233) -/

/-- The window's elements in order, dimension 0 fastest. -/
def windowIdx : List Nat → List (List Nat)
  | [] => [[]]
  | w :: r => (windowIdx r).flatMap (fun js => (List.range w).map (fun j => j :: js))

/-- The sum of products of two lists. -/
def dot : List Int → List Int → Int
  | a :: as, b :: bs => a * b + dot as bs
  | _, _ => 0

/-- The source of a window element: `none` where nothing is written, `some none` for the hem value, else its offset. -/
def elemSrc (l : Layout) (j : List Nat) : Option (Option Int) :=
  let c := (j.zip l.org).map (fun x => x.2 + (x.1 : Int))
  let inside := (c.zip l.ext).all (fun x => decide (0 ≤ x.1 ∧ x.1 < (x.2 : Int)))
  if inside then some (some (dot c l.sstr))
  else match l.mode with
    | 0 => some none
    | 1 => none
    | _ => some (some (dot ((c.zip l.ext).map (fun x => min (max x.1 0) ((x.2 : Int) - 1))) l.sstr))

/-- The destination offset of a window element. -/
def elemDst (l : Layout) (j : List Nat) : Int :=
  match j with
  | [] => 0
  | a :: r => (a : Int) * l.esize + dot (r.map Int.ofNat) l.dstr

/-- The elements that are written: source offset or hem, destination offset. -/
def elemsOf (l : Layout) : List (Option Int × Int) :=
  (windowIdx l.win).filterMap (fun j => (elemSrc l j).map (fun x => (x, elemDst l j)))

/-! ### Pages as engines check them (R239, R240) -/

/-- A window's partition key is denied by every port's table. R239 does not say which port's table denies a page: one that any
port's table holds is permitted (notes/assumptions/42.md). -/
def fabricDenied (s : State) (w : Window) : Bool := w.fabric && !s.ports.any (fun p => p.2.pkeys.contains w.pkey)

/-- The reason for which a page is forbidden to an engine (R239); a page that is only not present is permitted where a
window permits it. -/
def engineForbids (s : State) (unit ctx va : Nat) (a : Acc) : Option Nat :=
  match mfind s.ctxs ctx with
  | none => some 1
  | some c =>
    let ws := windowsAt c va
    match translate s unit ctx va a with
    | .ok _ => if a = .write ∧ ws.any (fabricDenied s) then some 2 else none
    | .error 0 => if ws.any (fun w => permits a w.read (w.write && w.kind != .args) w.exec)
        && !(a == .write && ws.any (fabricDenied s)) then none else some 2
    | .error r => some r

/-- Resolve the bytes of an element: a page not present is made present. `keep` keeps the address, for a page that the
engine checks when it reaches it (R240). -/
def resolveDest (unit ctx n : Nat) (a : Acc) (x : Exec) (keep : Bool) (s : State) (d : Dest) : State × Dest :=
  match d.va with
  | none => (s, d)
  | some va =>
    let left := if keep then some va else none
    match engineForbids s unit ctx va a with
    | some _ => (s, { va := left, locs := none })
    | none =>
      match resolveAt s unit ctx va a x with
      | (s, .ok pa) => (s, { va := left, locs := some ((rangeFrom pa n).map .g) })
      | (s, .error _) => (s, { va := left, locs := none })

/-- Resolve a list of destinations. -/
def resolveDests (unit ctx n : Nat) (x : Exec) (keep : Bool) : List Dest → State → State × List Dest
  | [], s => (s, [])
  | d :: r, s =>
    let (s, d) := resolveDest unit ctx n .write x keep s d
    let (s, r) := resolveDests unit ctx n x keep r s
    (s, d :: r)

/-- Resolve the elements of a copy. -/
def resolveElems (unit ctx n : Nat) (x : Exec) (keep : Bool) : List Elem → State → State × List Elem
  | [], s => (s, [])
  | e :: r, s =>
    let (s, src) := match e.src with
      | none => (s, none)
      | some d =>
        let (s, d) := resolveDest unit ctx n .read x false s d
        (s, some d)
    let (s, dst) := resolveDests unit ctx n x keep e.dst s
    let (s, r) := resolveElems unit ctx n x keep r s
    (s, { src := src, dst := dst } :: r)

/-- What Maluk makes present for a copy; `keep` for a copy with a destination list. -/
def prepCopy (unit ctx : Nat) (x : Exec) (keep : Bool) (s : State) (k : OpKind) : State × OpKind :=
  match k with
  | .copy c i ls =>
    let (s, es) := resolveElems unit ctx c.esize x keep c.elems s
    (s, .copy { c with elems := es } i ls)
  | k => (s, k)

/-! ### Checks at issue (R232, R235, R240) -/

/-- Step 1 for a base: a scratchpad base with a high word or reserved bits. -/
def baseResv (space : Bool) (b : Nat) : Bool := space && (decide (2 ^ 32 ≤ b) || (saddr b).resv != 0)
/-- Step 2 for a base. -/
def baseAlign (space : Bool) (b n : Nat) : Bool := (if space then (saddr b).off else b) % n == 0

/-- The bytes of an element at an offset from a base. -/
def elemDest (s : State) (cx : Cx) (space : Bool) (base : Nat) (off : Int) (n : Nat) : Except Trap Dest :=
  if space then
    let a := saddr base
    (scratchLocs s cx a ((a.off : Int) + off) n).map (fun l => { va := none, locs := some l, rot := a.rot })
  else .ok { va := some (wrapN 64 ((base : Int) + off)), locs := none }

/-- The destinations of one element. -/
def elemDests (s : State) (cx : Cx) (l : Layout) (off : Int) : List Nat → Except Trap (List Dest)
  | [] => .ok []
  | b :: bs =>
    match elemDest s cx l.dstS b off l.esize with
    | .error t => .error t
    | .ok d => (elemDests s cx l off bs).map (fun r => d :: r)

/-- The elements of a copy with their bytes; step 3. -/
def elemsAt (s : State) (cx : Cx) (l : Layout) (dsts : List Nat) : List (Option Int × Int) → Except Trap (List Elem)
  | [] => .ok []
  | (so, d) :: r =>
    let src : Except Trap (Option Dest) := match so with
      | none => .ok none
      | some o => (elemDest s cx l.srcS l.src o l.esize).map some
    match src, elemDests s cx l d dsts, elemsAt s cx l dsts r with
    | .error t, _, _ => .error t
    | _, .error t, _ => .error t
    | _, _, .error t => .error t
    | .ok a, .ok b, .ok c => .ok ({ src := a, dst := b } :: c)

/-- A forbidden page as a precise trap (R240). -/
def pageTrap (s : State) (cx : Cx) (a : Acc) (d : Dest) : Option Trap :=
  match d.va with
  | none => none
  | some va => (engineForbids s cx.g.core cx.ctx va a).map (fun r => { code := cPAGE, addr := va, info := 3, info2 := r })

/-- Step 4: source pages, and the destination pages of a copy without a list. -/
def pagesTrap (s : State) (cx : Cx) (keep : Bool) (es : List Elem) : Option Trap :=
  es.findSome? (fun e =>
    match e.src.bind (pageTrap s cx .read) with
    | some t => some t
    | none => if keep then none else e.dst.findSome? (pageTrap s cx .write))

/-- A copy that needs a feature of R151 which is not granted: a fabric window without FABRIC, or a gang member's scratchpad. The
trap stands with those of R140, before the checks of the record (R154, R215). -/
def copyDenied (cx : Cx) (l : Layout) (dsts : List Nat) : Bool :=
  let hit (base : Nat) (off : Int) : Bool := (windowsAt cx.c (wrapN 64 ((base : Int) + off))).any (·.fabric)
  (!cx.granted 9 && (elemsOf l).any (fun x =>
    (!l.srcS && x.1.any (hit l.src)) || (!l.dstS && dsts.any (fun b => hit b x.2))))
  || (!cx.granted 8 && ((l.srcS && (saddr l.src).remote) || (l.dstS && dsts.any (fun b => (saddr b).remote))))

/-- Metered bytes (R241). -/
def copyCharge (l : Layout) (red : Bool) (es : List Elem) : Nat :=
  l.esize * (es.map (fun e => (if e.src.isSome then 1 else 0) + e.dst.length * (if red then 2 else 1))).foldl (· + ·) 0

/-- The copy that a checked record describes (R232); the first failing step decides the trap. The ALIGN trap of a length or
a stride reports the source base, which no rule gives (notes/assumptions/9.md). -/
def copyReq (s : State) (cx : Cx) (tid : Nat) (l : Layout) (bad misaligned : Bool) (dsts : List Nat) (keep : Bool)
    (compl : Nat) (red : Option (Nat × Nat)) (strict : Bool) (list : List Loc := []) : Rd Req := do
  complGranted cx compl
  if copyDenied cx l dsts then trapRd { code := cILLEGAL }
  if l.resv ∨ bad ∨ l.mode = 3 ∨ l.ext.contains 0 ∨ l.win.contains 0 ∨ baseResv l.srcS l.src
      ∨ dsts.any (baseResv l.dstS) then trapRd { code := cFIELD }
  match complOf compl with
  | none => trapRd { code := cFIELD }
  | some w =>
    if misaligned ∨ !baseAlign l.srcS l.src l.esize then trapRd { code := cALIGN, addr := l.src }
    match dsts.find? (fun b => !baseAlign l.dstS b l.esize) with
    | some b => trapRd { code := cALIGN, addr := b }
    | none => pure ()
    if (l.sstr ++ l.dstr).any (fun x => x % (l.esize : Int) != 0) then trapRd { code := cALIGN, addr := l.src }
    let es ← liftT (elemsAt s cx l dsts (elemsOf l))
    match pagesTrap s cx keep es with
    | some t => trapRd t
    | none => pure ()
    let c (d : Dst) : Copy :=
      { esize := l.esize, elems := es, fill := l.hem, red := red, compl := w, orient := l.orient, srcOrient := l.sorient, strict := strict,
        forbid := 0, abort := false, charge := copyCharge l red.isSome es, dst := d }
    pure { kind := fun d => .copy (c d) false [], deps := relDeps s cx tid 4, prep := prepCopy cx.g.core cx.ctx (runExec s cx.gid cx.fl.slot) keep,
           list := list }

/-! ### The instructions -/

/-- Copies of a core that are not complete (R242). -/
def openCopies (s : State) (core : Nat) : Nat :=
  (s.ops.filter (fun o => o.core == core && (match o.kind with
    | .copy _ _ _ => true
    | _ => false))).length

/-- A copy instruction: the thread that would pass 64 incomplete copies of the core stalls its lane (R242). -/
def copyExec (s : State) (cx : Cx) (rd : Nat → Rd Req) : State :=
  asyncExec s cx cx.setb 1 true rd (Config.coreCopies - openCopies s cx.g.core)

/-- COPY (R235). -/
def copyRun (s : State) (cx : Cx) : State :=
  copyExec s cx (fun t => do
    let ws ← readBlock cx.f.a.toNat 24
    let w ← readLate (readB s cx t false)
    let l := layoutOf ws
    copyReq s cx t l false false [l.dst] false (w.getD 0) none false)

/-- COPYS (R235). -/
def copysRun (s : State) (cx : Cx) : State :=
  copyExec s cx (fun t => do
    let ws ← readBlock cx.f.a.toNat 6
    let n := (ws.getD 4 0).toNat
    let l := linearOf ws (bitOf cx.opt 0) (bitOf cx.opt 1)
    copyReq s cx t l (decide (n < 4 ∨ 16777216 < n)) (n % 4 != 0) [l.dst] false (ws.getD 5 0).toNat none false)

/-- Eight bytes of a destination list, read as the thread's loads read them (R236), and where they lie. -/
def listWord (s : State) (cx : Cx) (tid va : Nat) : Rd (Nat × List Loc) := do
  let ls ← globalRd s cx (va % 2 ^ 64) 8 .read
  let bs ← readNow s cx tid (va % 2 ^ 64) ls
  pure (leVal bs, ls)

/-- The destination bases of a list. -/
def listBases (s : State) (cx : Cx) (tid va : Nat) : Nat → Rd (List (Nat × List Loc))
  | 0 => pure []
  | n + 1 => do
    let b ← listWord s cx tid (va + 8)
    let r ← listBases s cx tid (va + 8) n
    pure (b :: r)

/-- Step 1 of R232 for the record of a copy with a list. -/
def recordResv (l : Layout) : Bool :=
  l.resv || l.mode == 3 || l.ext.contains 0 || l.win.contains 0 || baseResv l.srcS l.src

/-- Step 2 of R232 for the record of a copy with a list. -/
def recordMisaligned (l : Layout) : Bool :=
  !baseAlign l.srcS l.src l.esize || (l.sstr ++ l.dstr).any (fun x => x % (l.esize : Int) != 0)

/-- A trap of a step is preceded by the record's ALIGN trap, if it has one (R215). -/
def afterAlign {α : Type} (l : Layout) (x : Rd α) : Rd α := fun w =>
  match x w with
  | .error (.trap t) => .error (.trap (if recordMisaligned l then { code := cALIGN, addr := l.src } else t))
  | r => r

/-- Try a read, and leave the thread as it was: none where it traps. -/
def tryRd {α : Type} (x : Rd α) : Rd (Option α) := fun w =>
  match x w with
  | .ok (v, _) => .ok (some v, w)
  | .error (.trap _) => .ok (none, w)
  | .error e => .error e

/-- The features that a copy with a list needs, which its list says (R151, R154): they are checked before the record (R215). -/
def listDenied (s : State) (cx : Cx) (tid : Nat) (l : Layout) (va : Option Nat) : Rd Unit := do
  let hd ← match va with
    | none => pure none
    | some va => tryRd (listWord s cx tid va)
  let w := (hd.map (·.1)).getD 0
  complGranted cx (w / 2 ^ 32)
  let bs ← match va with
    | none => pure none
    | some va => if w % 2 ^ 32 ≤ 16 then tryRd (listBases s cx tid va (w % 2 ^ 32)) else pure none
  if copyDenied cx l ((bs.getD []).map (·.1)) then trapRd { code := cILLEGAL }

/-- What COPYM and COPYR read: the block, the list, then the copy (R235, R236); the record's own traps stand before the
page faults of the list (R215). The list's bytes are read as the copy issues; its loads count on SETA until they return
(R213). -/
def copyListRd (red : Cx → Option (Nat × Nat)) (size : Cx → Nat) (s : State) (cx : Cx) (t : Nat) : Rd Req := do
  let ws ← readBlock cx.f.a.toNat 24
  let va? ← readLate (readB s cx t true)
  let va := va?.getD 0
  let l := layoutOf ws
  let bad := (red cx).isSome && size cx != l.esize
  listDenied s cx t l va?
  if recordResv l ∨ bad then trapRd { code := cFIELD }
  if va?.isNone then afterAlign l settleRd
  let (hd, l0) ← afterAlign l (listWord s cx t va)
  let n := hd % 2 ^ 32
  let ok := decide (1 ≤ n ∧ n ≤ 16)
  if !ok ∨ (complOf (hd / 2 ^ 32)).isNone then trapRd { code := cFIELD }
  let bs ← afterAlign l (listBases s cx t va n)
  copyReq s cx t l false false (bs.map (·.1)) true (hd / 2 ^ 32) (red cx) (bitOf cx.opt 0) (l0 ++ bs.flatMap (·.2))

/-- COPYM and COPYR: operation and element type of a reduction, and the bytes of the type. -/
def copyListRun (s : State) (cx : Cx) (red : Cx → Option (Nat × Nat)) (size : Cx → Nat) : State :=
  copyExec s cx (copyListRd red size s cx)

/-- COPYM (R237). -/
def copymRun (s : State) (cx : Cx) : State := copyListRun s cx (fun _ => none) (fun _ => 0)
/-- COPYR (R235, R237): operation OPT[3:1], element type TYPE. -/
def copyrRun (s : State) (cx : Cx) : State :=
  copyListRun s cx (fun cx => some (bitsOf cx.opt 3 1, cx.ty)) (fun cx => if cx.ty = 1 ∨ cx.ty = 2 then 2 else 4)

/-- COPY (R235). -/
def execCopy (f : FR) (s : State) := coreR 0x120 f s (fun cx => copyRun s cx)
/-- The twin of the above (R134). -/
def execCopyTwin (f : FR) (m : Mod) (s : State) := coreT 0x120 f m s (fun cx => copyRun s cx)
/-- COPYS (R235). -/
def execCopys (f : FR) (s : State) := coreR 0x121 f s (fun cx => copysRun s cx)
/-- The twin of the above (R134). -/
def execCopysTwin (f : FR) (m : Mod) (s : State) := coreT 0x121 f m s (fun cx => copysRun s cx)
/-- COPYM (R235). -/
def execCopym (f : FR) (s : State) := coreR 0x122 f s (fun cx => copymRun s cx)
/-- The twin of the above (R134). -/
def execCopymTwin (f : FR) (m : Mod) (s : State) := coreT 0x122 f m s (fun cx => copymRun s cx)
/-- COPYR (R235). -/
def execCopyr (f : FR) (s : State) := coreR 0x123 f s (fun cx => copyrRun s cx)
/-- The twin of the above (R134). -/
def execCopyrTwin (f : FR) (m : Mod) (s : State) := coreT 0x123 f m s (fun cx => copyrRun s cx)

end Sys2Proof.Machine
end

