-- ==== Sys2Proof/Machine/Gen.lean ====
section
/-! DEFINITION. The generation loop (spec/11 R284-R288): SMRG, SPICK, the admission heaps and RMASK. -/

namespace Sys2Proof.Machine

/-! ### Sampling (R283-R285) -/

/-- E(a, m) of R283. -/
def expE (a m : Nat) : Nat := fexp2 (fmulN (fsubN a m) 0x3FB8AA3B)

def f32NaN (x : Nat) : Bool := isNaN (fval .f32 x)
def f32Zero (x : Nat) : Bool := isZero (fval .f32 x)
/-- x > +0. -/
def f32Pos (x : Nat) : Bool := fltN 0 x
def negInf32 : Nat := 0xFF800000
def canon32 : Nat := 0x7FC00000
def noToken : Nat := 0xFFFFFFFF

/-- The greatest of a list, -0 below +0. -/
def greatest (l : List Nat) : Nat :=
  match l with
  | [] => negInf32
  | a :: r => r.foldl (minmax .f32 true) a

/-- The running FADD sums of a list, each with its index. -/
def prefixSums (l : List Nat) : List Nat :=
  match l with
  | [] => []
  | a :: r => (r.foldl (fun (acc : List Nat × Nat) w => let c := faddN acc.2 w; (acc.1 ++ [c], c)) ([a], a)).1

/-- The least index whose sum exceeds x, else the greatest with a positive weight. -/
def pickIndex (x : Nat) (ws cs : List Nat) : Option Nat :=
  let n := ws.length
  match firstOf (fun k => fltN x (cs.getD k 0)) (List.range n) with
  | some k => some k
  | none => firstOf (fun k => f32Pos (ws.getD k 0)) (List.range n).reverse

/-- A 32-bit word of the scratchpad at an offset from an address. -/
def scratchWord (s : State) (cx : Cx) (tid addr off : Nat) : Rd Nat := do
  let a := saddr addr
  let ls ← liftT (scratchLocs s cx a ((a.off : Int) + off) 4)
  let bs ← readNow s cx tid addr ls
  pure (leVal bs)

/-- Words at offsets from an address. -/
def scratchWords (s : State) (cx : Cx) (tid addr : Nat) : List Nat → Rd (List Nat)
  | [] => pure []
  | o :: r => do
    let v ← scratchWord s cx tid addr o
    let vs ← scratchWords s cx tid addr r
    pure (v :: vs)

/-- The result of SMRG from the statistics and the drawn word (R284): tile, x, status. -/
def smrgOf (ms ss : List Nat) (u : W32) : Nat × Nat × Nat :=
  if (ms ++ ss).any f32NaN then (noToken, canon32, 2)
  else
    let m := greatest ms
    if m = negInf32 then (noToken, 0, 1)
    else
      let ws := (ms.zip ss).map (fun x => fmulN x.2 (expE x.1 m))
      let cs := prefixSums ws
      let c := cs.getLastD 0
      if f32NaN c then (noToken, canon32, 2)
      else if f32Zero c then (noToken, 0, 1)
      else
        let x := fmulN (u24 (u.toNat / 2 ^ 8)) c
        let tile := match pickIndex x ws cs with
          | some k => k
          | none => (Config.unstated 0 (u :: (ms ++ ss).map (BitVec.ofNat 32))).toNat % ms.length
        let prev := if tile = 0 then 0 else cs.getD (tile - 1) 0
        (tile, fdivN (fsubN x prev) (expE (ms.getD tile 0) m), 0)

/-- SMRG (R284). The words have R85's alignment. All M are read before all S: the rule gives no order of the reads, which
decides whose fault is raised (notes/assumptions/42.md). -/
def smrgRun (s : State) (cx : Cx) : State :=
  laneExec s cx true (fun t => do
    let ws ← readBlock cx.f.a.toNat 3
    let w (i : Nat) : Nat := (ws.getD i 0).toNat
    let nt := w 2
    remotesRd cx [w 0]
    if nt < 1 ∨ 256 < nt then trapRd { code := cFIELD }
    if w 1 % 8 ≠ 0 ∨ (saddr (w 0)).off % 4 ≠ 0 then trapRd { code := cALIGN, addr := w 0 }
    let ms ← scratchWords s cx t (w 0) ((List.range nt).map (fun k => w 1 * k))
    let ss ← scratchWords s cx t (w 0) ((List.range nt).map (fun k => w 1 * k + 4))
    let u ← nextWord
    pure (smrgOf ms ss u)) (fun _ g =>
      { words := [BitVec.ofNat 32 g.val.1, BitVec.ofNat 32 g.val.2.1, BitVec.ofNat 32 g.val.2.2], long := true })

/-- A weight of SPICK (R285); under `.resid` a NaN operand makes it NaN. -/
def spickWeight (l m : Nat) (resid : Option (Nat × Nat)) : Nat :=
  let e := expE l m
  match resid with
  | none => e
  | some (sump, q) =>
    if f32NaN m || f32NaN sump || f32NaN q || f32NaN e then canon32
    else minmax .f32 true 0 (fsubN (fdivN e sump) q)

/-- The result of SPICK from the weights (R285): token, status. -/
def spickOf (vbase x : Nat) (ls ws : List Nat) : Nat × Nat :=
  if f32NaN x || (ls ++ ws).any f32NaN then (noToken, 2)
  else if ws.all f32Zero then (noToken, 1)
  else ((vbase + (pickIndex x ws (prefixSums ws)).getD 0) % 2 ^ 32, 0)

/-- SPICK (R285). -/
def spickRun (s : State) (cx : Cx) : State :=
  let resid := bitOf cx.opt 0
  laneExec s cx true (fun t => do
    let ws ← readBlock cx.f.a.toNat (if resid then 7 else 5)
    let w (i : Nat) : Nat := (ws.getD i 0).toNat
    let vn := w 1
    remotesRd cx (if resid then [w 0, w 5] else [w 0])
    if vn < 1 ∨ 128 < vn then trapRd { code := cFIELD }
    if (saddr (w 0)).off % 4 ≠ 0 then trapRd { code := cALIGN, addr := w 0 }
    if resid ∧ (saddr (w 5)).off % 4 ≠ 0 then trapRd { code := cALIGN, addr := w 5 }
    let offs := (List.range vn).map (4 * ·)
    let ls ← scratchWords s cx t (w 0) offs
    if resid then
      let qs ← scratchWords s cx t (w 5) offs
      let u ← nextWord
      let wts := (ls.zip qs).map (fun x => spickWeight x.1 (w 3) (some (w 6, x.2)))
      pure (spickOf (w 2) (fmulN (u24 (u.toNat / 2 ^ 8)) ((prefixSums wts).getLastD 0)) ls wts)
    else pure (spickOf (w 2) (w 4) ls (ls.map (fun l => spickWeight l (w 3) none)))) (fun _ g =>
      { words := [BitVec.ofNat 32 g.val.1, BitVec.ofNat 32 g.val.2], long := true })

/-! ### Admission heaps (R286, R287) -/

/-- Operations on a heap in flight, in whose order a new one stands. -/
def heapDeps (s : State) (h : Nat) : List Nat :=
  (s.ops.filter (fun o => match o.kind with
    | .heap k _ => k == h
    | _ => false)).map (·.id)

/-- A heap instruction: the slot's heap, or PRIV (R286); then its operation. -/
def heapExec (s : State) (cx : Cx) (flag words : Nat) (hasD acquire : Bool) (rel : Nat → List Dep)
    (op : Nat → Rd (Dst → HeapOp)) : State :=
  asyncExec s cx flag words hasD (fun t => do
    match mfind cx.c.heapMap (bitsOf cx.opt 3 0) with
    | none => trapRd { code := cPRIV }
    | some h =>
      let o ← op t
      pure { kind := fun d => .heap h (o d), deps := rel t, after := fun _ s => heapDeps s h, acquire := acquire })

/-- HPUSH (R287): a release at device scope. -/
def hpushRun (s : State) (cx : Cx) : State :=
  heapExec s cx cx.setb 1 true false (fun t => relDeps s cx t 4) (fun t => do
    let a ← readA s cx t true
    let b ← readB s cx t true
    pure (fun d => .push a (BitVec.ofNat 32 b) (BitVec.ofNat 32 (b / 2 ^ 32)) d))
/-- HTAKE (R287): an acquire at device scope. -/
def htakeRun (s : State) (cx : Cx) : State :=
  heapExec s cx cx.setb 2 true true (fun _ => []) (fun _ => pure (fun d => .take d))
/-- HBUD (R287). -/
def hbudRun (s : State) (cx : Cx) : State :=
  heapExec s cx cx.setb 1 false false (fun _ => []) (fun t => do
    let a ← readA s cx t false
    pure (fun _ => .budget (BitVec.ofNat 32 a) (bitOf cx.opt 4)))
/-- HDEL (R287). -/
def hdelRun (s : State) (cx : Cx) : State :=
  heapExec s cx cx.setb 1 true false (fun _ => []) (fun t => do
    let a ← readA s cx t false
    pure (fun d => .remove (BitVec.ofNat 32 a) d))
/-- HPEEK (R287). -/
def hpeekRun (s : State) (cx : Cx) : State :=
  heapExec s cx cx.seta 2 true false (fun _ => []) (fun _ => pure (fun d => .peek d))
/-- HLEN (R287). -/
def hlenRun (s : State) (cx : Cx) : State :=
  heapExec s cx cx.seta 1 true false (fun _ => []) (fun _ => pure (fun d => .size d))

/-! ### Training masks (R288) -/

/-- The keep mask of 32 elements. -/
def keepMask (t : Thread) (e0 : Nat) (b : Nat) : Nat :=
  (List.range 32).foldl (fun m j =>
    let e := (e0 + j) % 2 ^ 64
    let ctr : W128 := BitVec.ofNat 128 (t.ctr.toNat / 2 ^ 64 * 2 ^ 64 + e / 4)
    if (philox t.key ctr (e % 4)).toNat ≤ b then m + 2 ^ j else m) 0

/-- RMASK (R288). -/
def rmaskRun (s : State) (cx : Cx) : State :=
  laneExec s cx true (fun t => do
    let a ← readA s cx t true
    let b ← readB s cx t false
    pure (keepMask (thread cx.g t) a b)) (fun _ g => { out32 g.val with long := true })

/-- SMRG (R284). -/
def execSmrg (f : FR) (s : State) := coreR 0x14D f s (fun cx => smrgRun s cx)
/-- The twin of the above (R134). -/
def execSmrgTwin (f : FR) (m : Mod) (s : State) := coreT 0x14D f m s (fun cx => smrgRun s cx)
/-- SPICK (R285). -/
def execSpick (f : FR) (s : State) := coreR 0x14E f s (fun cx => spickRun s cx)
/-- The twin of the above (R134). -/
def execSpickTwin (f : FR) (m : Mod) (s : State) := coreT 0x14E f m s (fun cx => spickRun s cx)
/-- HPUSH (R287). -/
def execHpush (f : FR) (s : State) := coreR 0x14F f s (fun cx => hpushRun s cx)
/-- The twin of the above (R134). -/
def execHpushTwin (f : FR) (m : Mod) (s : State) := coreT 0x14F f m s (fun cx => hpushRun s cx)
/-- HTAKE (R287). -/
def execHtake (f : FR) (s : State) := coreR 0x150 f s (fun cx => htakeRun s cx)
/-- The twin of the above (R134). -/
def execHtakeTwin (f : FR) (m : Mod) (s : State) := coreT 0x150 f m s (fun cx => htakeRun s cx)
/-- HBUD (R287). -/
def execHbud (f : FR) (s : State) := coreR 0x151 f s (fun cx => hbudRun s cx)
/-- The twin of the above (R134). -/
def execHbudTwin (f : FR) (m : Mod) (s : State) := coreT 0x151 f m s (fun cx => hbudRun s cx)
/-- HDEL (R287). -/
def execHdel (f : FR) (s : State) := coreR 0x152 f s (fun cx => hdelRun s cx)
/-- The twin of the above (R134). -/
def execHdelTwin (f : FR) (m : Mod) (s : State) := coreT 0x152 f m s (fun cx => hdelRun s cx)
/-- HPEEK (R287). -/
def execHpeek (f : FR) (s : State) := coreR 0x153 f s (fun cx => hpeekRun s cx)
/-- The twin of the above (R134). -/
def execHpeekTwin (f : FR) (m : Mod) (s : State) := coreT 0x153 f m s (fun cx => hpeekRun s cx)
/-- HLEN (R287). -/
def execHlen (f : FR) (s : State) := coreR 0x154 f s (fun cx => hlenRun s cx)
/-- The twin of the above (R134). -/
def execHlenTwin (f : FR) (m : Mod) (s : State) := coreT 0x154 f m s (fun cx => hlenRun s cx)
/-- RMASK (R288). -/
def execRmask (f : FR) (s : State) := coreR 0x155 f s (fun cx => rmaskRun s cx)
/-- The twin of the above (R134). -/
def execRmaskTwin (f : FR) (m : Mod) (s : State) := coreT 0x155 f m s (fun cx => rmaskRun s cx)

end Sys2Proof.Machine
end

