-- ==== Sys2Proof/Machine/Control.lean ====
section
/-! DEFINITION. Control transfer, spawning, rejoins, barriers, waits, traps and service calls (spec/08 R158-R173). -/

namespace Sys2Proof.Machine

/-! ### Transfers (R159-R161) -/

/-- The clause ends in a transfer: each thread's taken target, or none where it falls through. A taken transfer ends
handler mode (R349); a backward one taken by every thread counts for the yield rule (R29). -/
def transferRun (s : State) (cx : Cx) (dest : List (Nat × Option W64)) : State :=
  let s := dest.foldl (fun s x =>
    if x.2.isSome then modThread s cx.gid x.1 (fun t => { t with handler := none }) else s) s
  let back := !dest.isEmpty && dest.all (fun x => match x.2 with
    | some a => decide (a ≤ slotAddr cx.fl.hdr cx.fl.slot)
    | none => false)
  modGroup s cx.gid (fun g =>
    endClause g (dest.map (fun x => (x.1, x.2.getD (nextHeader cx.fl.hdr (hLen cx.fl.w0))))) back)

/-- The target of a branch (R133). -/
def branchTarget (cx : Cx) (f : FB) : W64 := cx.fl.hdr + BitVec.ofInt 64 (4 * sext 21 f.off.toNat)

/-- A branch on a condition of each thread, or of the lowest-numbered one under U = 1 (R159). A thread whose next
header is none traps (R123). -/
def branchRun (s : State) (cx : Cx) (f : FB) (cond : Thread → Bool) : State :=
  let target := branchTarget cx f
  let takes (t : Nat) : Bool := cond (thread cx.g (if cx.uni then cx.low else t))
  let bad (t : Nat) : Bool := if takes t then !isHeader cx.k target else !cx.hasNext
  let s := trapRun s cx false ((cx.fl.run.filter bad).map (fun t => (t, { code := cTARGET })))
  transferRun s cx ((cx.fl.run.filter (fun t => !bad t)).map (fun t => (t, if takes t then some target else none)))

/-- The bound and pending checks of a link pair in a thread's window (R63, R59). -/
def checkLink (cx : Cx) (code : Nat) : Rd Unit := do
  let w ← get
  let u : Use := ⟨code, 2, false, true⟩
  match boundsOf cx.k.regs w.th.wb [u] with
  | some t => trapRd t
  | none => if pendingUse cx.g w.th u then stallRd true else pure ()

/-- The link pairs of the other threads of a uniform run: whether one is pending, and who is out of bounds (R57). -/
def othersLink (cx : Cx) (code : Nat) : List Nat → Bool × List (Nat × Trap)
  | [] => (false, [])
  | t :: ts =>
    let r := othersLink cx code ts
    match (checkLink cx code).run { th := thread cx.g t } with
    | .error (.stall _) => (true, r.2)
    | .error (.trap tr) => (r.1, (t, tr) :: r.2)
    | .ok _ => r

/-- Write the return address into a thread's link pair (R161). -/
def putLink (s : State) (cx : Cx) (code : Option Nat) (tid : Nat) : State :=
  match code with
  | none => s
  | some c => modThread s cx.gid tid (fun t =>
      putRegs t (t.wb + c) (leWords 2 (nextHeader cx.fl.hdr (hLen cx.fl.w0)).toNat) false)

/-- Threads of a run execute their transfers: those whose target is no header trap, and the others have their link pair and their
counter, at which they go on when the run's last thread has passed (R26). -/
def jumpEach (s : State) (cx : Cx) (link : Option Nat) (r : ReadRes Nat) (bad go : List (Got Nat)) : State :=
  go.foldl (fun s g => putLink (modThread s cx.gid g.tid (fun _ => { g.work.th with pc := BitVec.ofNat 64 g.val })) cx link g.tid)
    (trapRun (touchAll s cx r.got) cx false (r.traps ++ bad.map (fun g => (g.tid, { code := cTARGET }))))

/-- A transfer whose target each thread supplies (R160, R161); under U = 1 the lowest-numbered thread supplies it for
the run. `link` is the code of the link pair. -/
def jumpRun (s : State) (cx : Cx) (link : Option Nat) (target : Nat → Rd Nat) : State :=
  let rd (tid : Nat) : Rd Nat := do
    match link with
    | some c => checkLink cx c
    | none => pure ()
    target tid
  let bad (a : Nat) : Bool := !isHeader cx.k (BitVec.ofNat 64 a)
  if cx.uni then
    match readOne s cx rd false cx.low with
    | .error (.stall b) => stallRun s cx b
    | .error (.trap t) => trapWhole s cx true t
    | .ok g =>
      if bad g.val then trapWhole s cx true { code := cTARGET }
      else
        let rest := cx.fl.run.filter (· ≠ g.tid)
        let (pend, traps) := match link with
          | none => (false, [])
          | some c => othersLink cx c rest
        if pend then stallRun s cx true
        else
          let s := trapRun (touchAll s cx [g]) cx false traps
          let s := modThread s cx.gid g.tid (fun _ => g.work.th)
          let go := cx.fl.run.filter (fun t => !(traps.map (·.1)).contains t)
          transferRun (go.foldl (fun s t => putLink s cx link t) s) cx (go.map (fun t => (t, some (BitVec.ofNat 64 g.val))))
  else
    let r := readAll s cx rd false cx.todo
    let go := r.got.filter (fun g => !bad g.val)
    let s := jumpEach s cx link r (r.got.filter (fun g => bad g.val)) go
    match r.stall with
    | some b => stallRun (modGroup s cx.gid (fun g => passed g (go.map (·.tid)))) cx b
    | none => transferRun s cx ((cx.fl.run.filter (fun t => cx.fl.past.contains t)).map (fun t => (t, some (thread cx.g t).pc))
        ++ go.map (fun g => (g.tid, some (BitVec.ofNat 64 g.val))))

/-- NOP (R158). -/
def execNop (f : FR) (s : State) := coreR 0x000 f s (fun cx => modGroup s cx.gid (fun g => advance g 1))
/-- BRA (R159). -/
def execBra (f : FB) (s : State) := coreB 0x001 f s (fun cx => branchRun s cx f (fun _ => true))
/-- JMPI (R160). -/
def execJmpi (f : FR) (s : State) := coreR 0x002 f s (fun cx => jumpRun s cx none (fun t => readA s cx t true))
/-- CALL (R161): the link pair is window codes 0 and 1; a target that is no header traps at decode (R140). -/
def execCall (f : FB) (s : State) := coreB 0x003 f s (fun cx =>
  let target := branchTarget cx f
  if isHeader cx.k target then jumpRun s { cx with f := { cx.f with u := false } } (some 0) (fun _ => pure target.toNat)
  else trapWhole s cx false { code := cTARGET })
/-- CALLI (R161). -/
def execCalli (f : FR) (s : State) :=
  coreR 0x004 f s (fun cx => jumpRun s cx (some f.d.toNat) (fun t => readA s cx t true))
/-- RET (R161). -/
def execRet (f : FR) (s : State) := coreR 0x005 f s (fun cx => jumpRun s cx none (fun t => readA s cx t true))
/-- EXIT (R162, R43). -/
def execExit (f : FR) (s : State) := coreR 0x006 f s (fun cx =>
  let s := cx.fl.run.foldl (fun s t => exitThread s cx.gid t) s
  afterExit (modGroup s cx.gid (fun g => endClause g [] false)) cx.gid)
/-- YIELD (R162, R29): the next clause boundary is a yield. -/
def execYield (f : FR) (s : State) := coreR 0x007 f s (fun cx =>
  modGroup s cx.gid (fun g => { advance g 1 with yNow := true }))
/-- BRC.T (R159). -/
def execBrcT (k : BitVec 3) (f : FB) (s : State) :=
  coreB (0x020 + k.toNat) f s (fun cx => branchRun s cx f (fun t => pred t k.toNat))
/-- BRC.F (R159). -/
def execBrcF (k : BitVec 3) (f : FB) (s : State) :=
  coreB (0x028 + k.toNat) f s (fun cx => branchRun s cx f (fun t => !pred t k.toNat))
/-- BRE (R159). -/
def execBre (n k : BitVec 2) (f : FB) (s : State) :=
  coreB (0x030 + 4 * n.toNat + k.toNat) f s (fun cx => branchRun s cx f (fun t => endFlag t n.toNat k.toNat))

/-! ### Spawning (R163, R165) -/

/-- SPAWN (R163): the thread's part is in its bin when BIN_ENTRY has placed it, in ascending `tid` of the run. Under U = 1 it waits
for the earlier accesses of every thread of the run, for R105 counts it as executed by each (notes/assumptions/42.md). -/
def execSpawn (f : FR) (s : State) := coreR 0x008 f s (fun cx =>
  asyncExec s cx cx.setb 1 true (fun tid => do
    let a ← readA s cx tid true
    let b ← readB s cx tid true
    if isHeader cx.k (BitVec.ofNat 64 a) then
      pure { kind := fun d => .spawn a (BitVec.ofNat 64 b) d, deps := relDeps s cx tid 4,
             after := fun tok s => ofExecution s cx.gid tok }
    else trapRd { code := cTARGET }))

/-- A bin's timer is set; a bin whose new deadline has passed launches at once. -/
def setTimer (s : State) (core bin v : Nat) : State :=
  let c := getCore s core
  let b : Bin := { mget {} c.bins bin with timer := v % 2 ^ 16 }
  let s := setCore s core { c with bins := mset {} c.bins bin b }
  if binDue s (getCore s core) b then binReady s core bin else s

/-- BINCFG (R165): the run's threads set the timer in ascending `tid`, so the last one's stands; a bin whose new deadline
has passed launches at once. -/
def execBincfg (f : FI) (s : State) := coreI 0x009 f s (fun cx =>
  let rd (tid : Nat) : Rd Nat := readD s cx tid false
  let r := readAll s cx rd false (if cx.uni then [cx.low] else cx.todo)
  match cx.uni, r.traps, r.stall with
  | true, _, some b => stallRun s cx b
  | true, (_, t) :: _, none => trapWhole s cx true t
  | _, _, stall =>
    let s := r.got.foldl (fun s g => setTimer (modThread s cx.gid g.tid (fun _ => g.work.th)) cx.g.core f.imm.toNat g.val)
      (trapRun (touchAll s cx r.got) cx false r.traps)
    match stall with
    | some b => stallRun (modGroup s cx.gid (fun g => passed g (r.got.map (·.tid)))) cx b
    | none => modGroup s cx.gid (fun g => advance g 1))

/-! ### Rejoin, cleats and barriers (R166-R170) -/

/-- A barrier or cleat instruction: BAR_BOUND for a spawned group, or for a barrier index at or beyond `.bars`
(R31, R42, R166). -/
def teamRun (s : State) (cx : Cx) (index : Nat) (inRange : Bool) (body : Nat → State) : State :=
  match cx.team with
  | some key => if inRange then body key else trapWhole s cx false { code := cBAR, info := index }
  | none => trapWhole s cx false { code := cBAR, info := index }

/-- REJN and REJN.CMT (R36, R37, R167): the run's threads sign and wait. -/
def rejoinRun (s : State) (cx : Cx) (wait : Wait) : State :=
  let c := cx.f.a.toNat
  teamRun s cx c true (fun key =>
    let s := signRun s cx key c false (some wait) (cx.fl.run.map (fun t => (t, {}, none)))
    modGroup s cx.gid (fun g => endClause g [] false))

/-- REJN (R36, R167). -/
def execRejn (f : FR) (s : State) := coreR 0x00A f s (fun cx => rejoinRun s cx (.cleat f.a.toNat))
/-- REJN.CMT (R37, R167). -/
def execRejnCmt (f : FR) (s : State) :=
  coreR 0x00B f s (fun cx => rejoinRun { s with nextId := s.nextId + 1 } cx (.commit f.a.toNat cx.fl.hdr cx.fl.slot s.nextId))

/-- BAR (R169): the threads arrive in ascending `tid`; one that completes the phase releases those that wait. -/
def execBar (f : FR) (s : State) := coreR 0x00C f s (fun cx =>
  let b := f.b.toNat
  teamRun s cx b (decide (b < cx.k.bars)) (fun key =>
    let next := nextHeader cx.fl.hdr (hLen cx.fl.w0)
    let s := cx.fl.run.foldl (fun s t =>
      barrierCheck (modThread (barrierArrive s key b { gid := cx.gid, tid := t }) cx.gid t
        (fun t => { t with st := .waiting (.bar b), pc := next })) key b) s
    modGroup s cx.gid (fun g => endClause g [] false)))
/-- BARA (R169). -/
def execBara (f : FR) (s : State) := coreR 0x00D f s (fun cx =>
  let b := f.b.toNat
  teamRun s cx b (decide (b < cx.k.bars)) (fun key =>
    let s := cx.fl.run.foldl (fun s t => barrierCheck (barrierArrive s key b { gid := cx.gid, tid := t }) key b) s
    modGroup s cx.gid (fun g => advance g 1)))
/-- BARW (R169). -/
def execBarw (f : FR) (s : State) := coreR 0x00E f s (fun cx =>
  let b := f.b.toNat
  teamRun s cx b (decide (b < cx.k.bars)) (fun key =>
    let next := nextHeader cx.fl.hdr (hLen cx.fl.w0)
    let s := cx.fl.run.foldl (fun s t =>
      if (thread cx.g t).arrived.contains b then
        modThread s cx.gid t (fun t => { t with st := .waiting (.bar b), pc := next })
      else modThread (barrierObserve s key b { gid := cx.gid, tid := t }) cx.gid t (fun t => { t with pc := next })) s
    modGroup s cx.gid (fun g => endClause g [] false)))

/-- CLSET (R168, R33): the mask waits while the round has signers. -/
def execClset (f : FR) (s : State) := coreR 0x00F f s (fun cx =>
  let c := f.d.toNat
  teamRun s cx c true (fun key =>
    match readOne s cx (fun t => readA s cx t false) false cx.low with
    | .error (.stall b) => stallRun s cx b
    | .error (.trap t) => trapWhole s cx true t
    | .ok g =>
      let v : W32 := BitVec.ofNat 32 g.val
      let s := match mfind s.teams key with
        | none => s
        | some t =>
          let cl := cleatOf t c
          setCleat s key c (if cl.sig.isSome then { cl with next := some v } else { cl with mask := v })
      modGroup s cx.gid (fun g => advance g 1)))

/-- WAITF (R170, R256). -/
def execWaitf (f : FI) (s : State) := coreI 0x010 f s (fun cx =>
  let next := nextHeader cx.fl.hdr (hLen cx.fl.w0)
  let s := modThreads { s with nextId := s.nextId + 1 } cx.gid cx.fl.run (fun _ t =>
    { t with st := .waiting (.flags f.imm.toNat cx.fl.hdr cx.fl.slot s.nextId), pc := next })
  wakeFlags (modGroup s cx.gid (fun g => endClause g [] false)) cx.gid)

/-! ### Traps and services (R171, R172) -/

/-- TRAP (R171). -/
def execTrap (f : FI) (s : State) :=
  coreI 0x011 f s (fun cx => trapWhole s cx false { code := cUSER, info := f.imm.toNat })

/-- SVC (R172): seven argument registers, a status register, one request for each thread. Under U = 1 it waits for the earlier
stores and atomics of every thread of the run (R105, notes/assumptions/42.md). -/
def execSvc (f : FI) (s : State) := coreI 0x012 f s (fun cx =>
  asyncExec s cx cx.setb 1 true (fun tid => do
    let args ← readBlock (f.d.toNat + 1) 7
    pure { kind := fun d => .service f.imm.toNat args d, deps := performed (ownStores s cx tid) }))

end Sys2Proof.Machine
end

