-- ==== Sys2Proof/Machine/Matrix.lean ====
section
/-! DEFINITION. The cleat calls (spec/11 R252-R256, R269-R282): MMA, MMAQ, MMAS, JOIN and NORM as each thread of a run
checks its operands and signs. The events of Complete.lean perform the calls. -/

namespace Sys2Proof.Machine

/-! ### Formats (R269, R270) -/

/-- Bytes of 32 elements of a format. -/
def fmtBytes (f : Nat) : Nat :=
  match f with
  | 0 => 64 | 1 => 64 | 4 => 16 | 7 => 16 | 8 => 128 | _ => 32

/-- The accepted pairs of a matrix call or a join. -/
def pairAccepted (op fa fb : Nat) : Bool :=
  match op with
  | 0x141 => fa == 0 && fb == 7
  | 0x143 => [0, 1, 8].contains fa && [0, 1, 8].contains fb
  | _ => (decide (fa < 2) && decide (fb < 2)) || (fa / 2 == 1 && fb / 2 == 1) || (fa / 2 == 2 && fb / 2 == 2) || (fa == 6 && fb == 6)

/-- The format has E8M0 scales. -/
def scaled (f : Nat) : Bool := f == 4 || f == 5

/-! ### Operand descriptors (R272, R273) -/

/-- An operand descriptor. -/
structure Desc where
  reg : Bool
  resv : Nat
  chunk : Nat      -- bytes from one K-chunk to the next
  row : Nat
  base : Nat
  deriving DecidableEq, Repr

def descOf (x : Nat) : Desc :=
  { reg := bitOf x 63, resv := bitsOf x 62 60, chunk := 64 * bitsOf x 59 48, row := bitsOf x 47 32, base := bitsOf x 31 0 }

/-- The window code of a descriptor with REG = 1. -/
def Desc.code (d : Desc) : Nat := bitsOf d.base 6 0

/-- The RESERVED_FIELD cases of a descriptor; n registers under REG = 1. -/
def descBad (d : Desc) (n : Nat) : Bool :=
  d.resv != 0 || (d.reg && (d.base / 2 ^ 7 != 0 || d.chunk != 0 || d.row != 0 || decide (96 < d.code + n)))

/-- The ALIGN cases of a descriptor. -/
def descMis (d : Desc) : Bool := !d.reg && (d.row % 16 != 0 || (saddr d.base).off % 16 != 0)

/-- The bound of the registers that a descriptor names (R63). -/
def descBound (cx : Cx) (wb : Nat) (d : Desc) (n : Nat) : Option Trap :=
  if d.reg ∧ d.base / 2 ^ 7 = 0 ∧ d.code + n ≤ 96 then boundsOf cx.k.regs wb [⟨d.code, n, true, false⟩] else none

/-- The registers of a signer (R273). -/
def descRegs (cx : Cx) (d : Desc) (n : Nat) : Rd (List W32) := do
  if !d.reg then pure []
  else
    let w ← get
    if pendingUse cx.g w.th ⟨d.code, n, true, false⟩ then stallRd true
    else readBlock d.code n

/-- CHUNKS + 1 of a call: that of the open round's first signer, or the thread's own when it is the first (R34, R273). -/
def roundChunks (s : State) (cx : Cx) : Nat :=
  let own := cx.f.b.toNat / 8 % 4 + 1
  match cx.team.bind (mfind s.teams) with
  | none => own
  | some t => ((cleatOf t (cx.f.b.toNat % 8)).call.map (·.chunks)).getD own

/-- A scratchpad range that a call reaches: address, offset, bytes. -/
abbrev Span := Nat × Nat × Nat

/-- The first range out of bounds (R89). -/
def spansTrap (s : State) (cx : Cx) : List Span → Option Trap
  | [] => none
  | (a, o, n) :: r =>
    match (if n = 0 then .ok [] else scratchLocs s cx (saddr a) ((saddr a).off + o) n : Except Trap (List Loc)) with
    | .error t => some t
    | .ok _ => spansTrap s cx r

/-- A gang member's range needs the feature of R151, which is checked with the traps of R140 (R154, R255). -/
def spansRd (cx : Cx) (l : List Span) : Rd Unit :=
  remotesRd cx ((l.filter (fun x => x.2.2 != 0)).map (·.1))

/-- The ranges of a matrix operand: each row's bytes of each chunk, and its scales. -/
def descSpans (d : Desc) (bytes chunks : Nat) (scale : Option (Nat × Nat)) : List Span :=
  (if d.reg then [] else
    (List.range chunks).flatMap (fun c => (List.range 128).map (fun i => (d.base, d.chunk * c + d.row * i, bytes))))
  ++ (match scale with
    | none => []
    | some (a, n) => [(a, 0, n * 128 * chunks)])

/-! ### Signing (R34, R255) -/

/-- The threads of a uniform run sign with the lowest-numbered thread's operands; its copy alone commits (R34, R57). -/
def uniformSigs (cx : Cx) (g : Got Sig) : List (Nat × Sig × Option Thread) :=
  cx.fl.run.map (fun t => (t, g.val, if t = g.tid then some g.work.th else none))

/-- A call's threads have signed: past its slots its price is charged (R130); or the lane stalls at one of them. -/
def callEndRun (s : State) (cx : Cx) (r : SignAcc × Option Bool) : State :=
  let s' := trapRun r.1.s cx false r.1.traps
  match r.2 with
  | some b => guard63 s (stallRun (modGroup s' cx.gid (fun g => passed g (r.1.mine.filter (fun t => !cx.fl.past.contains t)))) cx b) cx
  | none =>
    let p := price (cx.opcode % 512) (cx.f.b.toNat / 8 % 4 + 1)
    guard63 s (modGroup s' cx.gid (fun g => advance (charge g p) cx.slots)) cx

/-- Who signs: every thread of the run, in ascending `tid`. -/
def callRun (s : State) (cx : Cx) (rd : State → Nat → Rd Sig) : State :=
  let c := cx.f.b.toNat % 8
  teamRun s cx c true (fun key =>
    let acc : SignAcc := { s := s, mine := cx.fl.past }
    if cx.uni then
      match readOne s cx (rd s) false cx.low with
      | .error (.stall b) => stallRun s cx b
      | .error (.trap t) => trapWhole s cx true t
      | .ok g => callEndRun s cx (signEach cx key c true none { acc with s := touchAll s cx [g] } (uniformSigs cx g), none)
    else callEndRun s cx (signThreads cx key c rd cx.todo acc))

/-- The configuration word in force at issue for the run's team. -/
def cfgInForce (s : State) (cx : Cx) : W32 := ((cx.team.bind (mfind s.teams)).map (·.cfgNew)).getD 0

/-- The six registers of `.vstat` are out of range (R282). -/
def vstatBad (x : List W32) : Bool :=
  let sh := (x.getD 5 0).toNat
  sh / 2 ^ 16 != 0 || !decide (1 ≤ bitsOf sh 7 0 ∧ bitsOf sh 7 0 ≤ 128) || !decide (1 ≤ bitsOf sh 15 8 ∧ bitsOf sh 15 8 ≤ 128)

/-- The scratchpad ranges of `.vstat`. -/
def vstatSpans (x : List W32) : List Span :=
  let vr := bitsOf (x.getD 5 0).toNat 15 8
  [((x.getD 2 0).toNat, 0, 512 * vr), ((x.getD 3 0).toNat, 0, 8 * vr)]

/-- One signer of MMA, MMAQ or MMAS (R269-R276, R282). The format word is read after the block, and an ungranted format
traps where the word has been read: R55 and R140 place neither (notes/assumptions/33.md). A fault of the word's own access
and a poisoned register stand with the scratchpad's faults, after FMT_DIVERGE (R255). -/
def mmaSig (s : State) (cx : Cx) (tid : Nat) : Rd Sig := do
  let op := cx.opcode % 512
  let n := if op = 0x142 then 9 else 8
  let vs := bitOf cx.opt 1
  let ws ← readBlock cx.f.a.toNat (if vs then n + 6 else n)
  let fw? ← readLate (readD s cx tid false)
  let known := fw?.isSome
  let fw := fw?.getD 0
  let fa := bitsOf fw 23 20
  let fb := bitsOf fw 19 16
  if (scaled fa ∨ scaled fb) ∧ !cx.granted 2 then trapRd { code := cILLEGAL }
  let chunks := roundChunks s cx
  let da := descOf (wordsVal (ws.take 2))
  let db := descOf (wordsVal ((ws.drop 2).take 2))
  let w (i : Nat) : Nat := (ws.getD i 0).toNat
  let na := if known then chunks * fmtBytes fa / 4 else 0
  let nb := if known then chunks * fmtBytes fb / 4 else 0
  let ext := ws.drop n
  let spans := descSpans da (fmtBytes fa) chunks (if scaled fa then some (w 6, 1) else none)
      ++ descSpans db (if op = 0x142 then fmtBytes fb / 2 else fmtBytes fb) chunks
          (if scaled fb then some (w 7, 1) else if op = 0x141 then some (w 7, 4) else none)
      ++ (if op = 0x142 then [(w 8, 0, 512 * chunks)] else [])
      ++ (if vs then vstatSpans ext else [])
  spansRd cx spans
  let t ← get
  match descBound cx t.th.wb da na, descBound cx t.th.wb db nb with
  | some tr, _ => trapRd tr
  | _, some tr => trapRd tr
  | none, none => pure ()
  if (known ∧ (bitsOf fw 31 24 ≠ 0 ∨ bitsOf fw 15 0 ≠ 0 ∨ !pairAccepted op fa fb)) ∨ descBad da na ∨ descBad db nb
      ∨ (vs ∧ vstatBad ext) ∨ !coarseOn (cfgInForce s cx) then trapRd { code := cFIELD }
  if descMis da then trapRd { code := cALIGN, addr := da.base }
  if descMis db then trapRd { code := cALIGN, addr := db.base }
  if vs ∧ wordsVal (ext.take 2) % 64 ≠ 0 then trapRd { code := cALIGN, addr := wordsVal (ext.take 2) }
  let ar ← descRegs cx da na
  let br ← descRegs cx db nb
  let note ← takeNote
  pure { fmt := BitVec.ofNat 32 fw, known := known, reg := (if da.reg then 1 else 0) + (if db.reg then 2 else 0), aRegs := ar,
         bRegs := br, late := note.or (spansTrap s cx spans),
         call := some { opcode := op, fmt := BitVec.ofNat 32 fw, regs := ws, chunks := chunks, tap := 0,
                        zskip := bitOf cx.opt 0, vstat := vs, flag := cx.setb } }

/-- One signer of JOIN (R279). -/
def joinSig (s : State) (cx : Cx) (tid : Nat) : Rd Sig := do
  let ws ← readBlock cx.f.a.toNat 4
  let fw? ← readLate (readD s cx tid false)
  let fw := fw?.getD 0
  let w (i : Nat) : Nat := (ws.getD i 0).toNat
  let spans : List Span := [(w 0, 0, 12 * w 1), (w 2, 0, 12 * w 3)]
  spansRd cx spans
  if (fw?.isSome ∧ (bitsOf fw 31 24 ≠ 0 ∨ bitsOf fw 15 0 ≠ 0 ∨ !pairAccepted 0x143 (bitsOf fw 23 20) (bitsOf fw 19 16)))
      ∨ 1048576 < w 1 ∨ 1048576 < w 3 ∨ !fineOn (cfgInForce s cx) then trapRd { code := cFIELD }
  if (saddr (w 0)).off % 4 ≠ 0 then trapRd { code := cALIGN, addr := w 0 }
  if (saddr (w 2)).off % 4 ≠ 0 then trapRd { code := cALIGN, addr := w 2 }
  let note ← takeNote
  pure { fmt := BitVec.ofNat 32 fw, known := fw?.isSome, late := note.or (spansTrap s cx spans),
         call := some { opcode := 0x143, fmt := BitVec.ofNat 32 fw, regs := ws, chunks := 1, tap := 0, zskip := false,
                        vstat := false, flag := cx.setb } }

/-- The format word of NORM is accepted (R280). -/
def normFmtOk (fw : Nat) : Bool :=
  bitsOf fw 31 24 == 0 && bitsOf fw 13 0 == 0 && decide (bitsOf fw 15 14 < 2) && [0, 8].contains (bitsOf fw 23 20)
    && [0, 1, 8].contains (bitsOf fw 19 16)

/-- Bytes of an element of NORM's formats. -/
def normSize (f : Nat) : Nat := if f = 8 then 4 else 2

/-- One signer of NORM (R280): ALIGN is for PITCH alone, IN, OUT and GAMMA have any alignment (notes/assumptions/16.md). -/
def normSig (s : State) (cx : Cx) (tid : Nat) : Rd Sig := do
  let ws ← readBlock cx.f.a.toNat 7
  let fw? ← readLate (readD s cx tid false)
  let fw := fw?.getD 0
  let w (i : Nat) : Nat := (ws.getD i 0).toNat
  let tap := cx.f.b.toNat / 8
  let n := bitsOf (w 3) 15 0
  let rows := bitsOf (w 3) 23 16
  let row (a f : Nat) : List Span := (List.range rows).map (fun i => (a, w 4 * i, n * normSize f))
  let spans := row (w 0) (bitsOf fw 23 20) ++ row (w 1) (bitsOf fw 19 16) ++ [(w 2, 0, 4 * n)]
  spansRd cx spans
  if (fw?.isSome ∧ !normFmtOk fw) ∨ n % 32 ≠ 0 ∨ n < 32 ∨ 8192 < n ∨ rows < 1 ∨ 128 < rows ∨ bitsOf (w 3) 31 24 ≠ 0
      ∨ (tap ≠ 0 ∧ cx.c.seqCount < w 6 + rows) then trapRd { code := cFIELD }
  if w 4 % 16 ≠ 0 then trapRd { code := cALIGN, addr := w 0 }
  let note ← takeNote
  pure { fmt := BitVec.ofNat 32 fw, known := fw?.isSome,
         late := note.or (spansTrap s cx spans),
         call := some { opcode := 0x14C, fmt := BitVec.ofNat 32 fw, regs := ws, chunks := 1, tap := tap, zskip := false,
                        vstat := false, flag := cx.setb } }

/-- MMA (R274). -/
def execMma (f : FR) (s : State) := coreR 0x140 f s (fun cx => callRun s cx (fun s => mmaSig s cx))
/-- The twin of the above (R134). -/
def execMmaTwin (f : FR) (m : Mod) (s : State) := coreT 0x140 f m s (fun cx => callRun s cx (fun s => mmaSig s cx))
/-- MMAQ (R275). -/
def execMmaq (f : FR) (s : State) := coreR 0x141 f s (fun cx => callRun s cx (fun s => mmaSig s cx))
/-- The twin of the above (R134). -/
def execMmaqTwin (f : FR) (m : Mod) (s : State) := coreT 0x141 f m s (fun cx => callRun s cx (fun s => mmaSig s cx))
/-- MMAS (R276). -/
def execMmas (f : FR) (s : State) := coreR 0x142 f s (fun cx => callRun s cx (fun s => mmaSig s cx))
/-- The twin of the above (R134). -/
def execMmasTwin (f : FR) (m : Mod) (s : State) := coreT 0x142 f m s (fun cx => callRun s cx (fun s => mmaSig s cx))
/-- JOIN (R279). -/
def execJoin (f : FR) (s : State) := coreR 0x143 f s (fun cx => callRun s cx (fun s => joinSig s cx))
/-- The twin of the above (R134). -/
def execJoinTwin (f : FR) (m : Mod) (s : State) := coreT 0x143 f m s (fun cx => callRun s cx (fun s => joinSig s cx))
/-- NORM (R280, R281). -/
def execNorm (f : FR) (s : State) := coreR 0x14C f s (fun cx => callRun s cx (fun s => normSig s cx))
/-- The twin of the above (R134). -/
def execNormTwin (f : FR) (m : Mod) (s : State) := coreT 0x14C f m s (fun cx => callRun s cx (fun s => normSig s cx))

end Sys2Proof.Machine
end

