-- ==== Sys2Proof/Machine/Pockets.lean ====
section
/-! DEFINITION. Pocket instructions of threads (spec/11 R257-R268). They go in flight in pocket order; the events of
Complete.lean perform them. -/

namespace Sys2Proof.Machine

/-- A thread's operation on its team's pocket table, in the order of the pocket unit (R261). -/
def pocketReq (key : Nat) (kind : Dst → PocketOp) (deps : List Dep) : Req :=
  { kind := fun d => .pocket (kind d) key, deps := deps, after := fun _ s => pocketDeps s key }

/-- A disabled region raises RESERVED_FIELD (R264-R267), before the faults of the operands' accesses (R255). -/
def regionRd (s : State) (cx : Cx) (coarse : Bool) : Rd Unit :=
  let w := cfgInForce s cx
  if coarse && !coarseOn w || !coarse && !fineOn w then trapRd { code := cFIELD } else pure ()

/-- PCFG (R263): the word in force at issue changes at once, the table at its place in the pocket order. -/
def pcfgRun (s : State) (cx : Cx) : State :=
  teamRun s cx 0 true (fun key => asyncExec s cx cx.setb 1 false (fun t => do
    let a ← readA s cx t false
    let w : W32 := BitVec.ofNat 32 a
    if !cfgOk w cx.k.coarse cx.k.fine then trapRd { code := cFIELD }
    pure { pocketReq key (fun _ => .cfg w) [] with
      prep := fun s k => (modTeam s key (fun t => { t with cfgNew := w }), k) }))

/-- PINS and PCNT (R264). -/
def pinsRun (s : State) (cx : Cx) (count : Bool) : State :=
  teamRun s cx 0 true (fun key => asyncExec s cx cx.setb 1 false (fun t => do
    let k ← readLate (readA s cx t true)
    let v ← readLate (readB s cx t false)
    regionRd s cx false
    pure (pocketReq key (fun _ => .add (k.getD 0) (BitVec.ofNat 32 (v.getD 0)) count) [])))

/-- An earlier operation of the pocket order that may change which pockets are poisoned. -/
def poisonOpen (s : State) (key : Nat) : Bool :=
  s.ops.any (fun o => match o.kind with
    | .pocket (.cfg _) t => t == key
    | .pocket (.del _ _ _) t => t == key
    | .pocket (.clear _) t => t == key
    | .call c t _ _ => t == key && c.opcode != 0x14C
    | .drain _ t _ => t == key
    | _ => false)

/-- A part that a lookup reads is poisoned (R265). -/
def pocketPoisoned (s : State) (key : Nat) (coarse : Bool) (k : Nat) : Bool :=
  match (mfind s.teams key).bind (fun t => regionOf t coarse) with
  | none => false
  | some (r, lg) => (partsOf r lg k).any (·.pois)

/-- PLUP (R265). -/
def plupRun (s : State) (cx : Cx) : State :=
  teamRun s cx 0 true (fun key => asyncExec s cx cx.seta 1 true (fun t => do
    let k ← readLate (readA s cx t true)
    let b ← readLate (readB s cx t false)
    let k := k.getD 0
    let b := b.getD 0
    let coarse := bitOf cx.opt 0
    regionRd s cx coarse
    if coarse ∧ b / 2 ^ 10 ≠ 0 then trapRd { code := cFIELD }
    if poisonOpen s key then stallRd false
    if pocketPoisoned s key coarse k then trapRd { code := cPOISON }
    let who := if cx.uni then cx.fl.run else [t]
    pure (pocketReq key (fun d => .lookup k coarse b
      (if bitOf cx.opt 4 then
        { d with preds := (if cx.f.d.toNat < 96 then d.regs.map (·.1) else who).map (fun i => (i, bitsOf cx.opt 3 1)) }
      else d)) [])))

/-- PRD (R266): an engine operation on the scratchpad. -/
def prdRun (s : State) (cx : Cx) : State :=
  teamRun s cx 0 true (fun key => asyncExec s cx cx.seta 1 true (fun t => do
    let k ← readLate (readA s cx t true)
    let b ← readLate (readB s cx t false)
    let k := k.getD 0
    let b := b.getD 0
    remotesRd cx [b]
    regionRd s cx true
    alignRd b ((saddr b).off : Int) 128
    let _ ← liftT (scratchLocs s cx (saddr b) (saddr b).off 4096)
    pure (pocketReq key (fun d => .read k (BitVec.ofNat 32 b) d) (relDeps s cx t 4))))

/-- The block of PDRN (R268). -/
def drainOf (ws : List W32) (fine : Bool) (w : Compl) (d : Dst) : Drain :=
  { fine := fine, keys := wordsVal (ws.take 2), vals := wordsVal ((ws.drop 2).take 2), lo := wordsVal ((ws.drop 4).take 2),
    hi := wordsVal ((ws.drop 6).take 2), max := (ws.getD 8 0).toNat, compl := w, dst := d }

/-- PDRN (R268): later accesses of the core wait at every line that it may write until its place in the pocket order
says which it writes. -/
def pdrnRun (s : State) (cx : Cx) : State :=
  teamRun s cx 0 true (fun key => asyncExec s cx cx.setb 1 true (fun t => do
    let ws ← readBlock cx.f.a.toNat 9
    let b ← readLate (readB s cx t false)
    let b := b.getD 0
    let fine := bitOf cx.opt 0
    let d0 := drainOf ws fine {} {}
    complGranted cx b
    regionRd s cx (!fine)
    if d0.max < 1 ∨ 16777215 < d0.max ∨ d0.hi < d0.lo then trapRd { code := cFIELD }
    match complOf b with
    | none => trapRd { code := cFIELD }
    | some w =>
      alignRd d0.keys d0.keys 8
      alignRd d0.vals d0.vals (if fine then 4 else 128)
      pure { pocketReq key (fun _ => .clear 0) (relDeps s cx t 4) with
        kind := fun d => .drain (drainOf ws fine w d) key [] }))

/-- PCLR (R267). -/
def pclrRun (s : State) (cx : Cx) : State :=
  teamRun s cx 0 true (fun key => asyncExec s cx cx.setb 1 false (fun _ => do
    let sel := bitsOf cx.opt 1 0
    if sel = 1 then regionRd s cx true
    if sel = 2 then regionRd s cx false
    pure (pocketReq key (fun _ => .clear sel) [])))

/-- PDEL (R267). -/
def pdelRun (s : State) (cx : Cx) : State :=
  teamRun s cx 0 true (fun key => asyncExec s cx cx.setb 1 true (fun t => do
    let k ← readLate (readA s cx t true)
    let coarse := bitOf cx.opt 0
    regionRd s cx coarse
    pure (pocketReq key (fun d => .del (k.getD 0) coarse d) [])))

/-- PCFG (R263). -/
def execPcfg (f : FR) (s : State) := coreR 0x144 f s (fun cx => pcfgRun s cx)
/-- The twin of the above (R134). -/
def execPcfgTwin (f : FR) (m : Mod) (s : State) := coreT 0x144 f m s (fun cx => pcfgRun s cx)
/-- PINS (R264). -/
def execPins (f : FR) (s : State) := coreR 0x145 f s (fun cx => pinsRun s cx false)
/-- The twin of the above (R134). -/
def execPinsTwin (f : FR) (m : Mod) (s : State) := coreT 0x145 f m s (fun cx => pinsRun s cx false)
/-- PLUP (R265). -/
def execPlup (f : FR) (s : State) := coreR 0x146 f s (fun cx => plupRun s cx)
/-- The twin of the above (R134). -/
def execPlupTwin (f : FR) (m : Mod) (s : State) := coreT 0x146 f m s (fun cx => plupRun s cx)
/-- PCNT (R264). -/
def execPcnt (f : FR) (s : State) := coreR 0x147 f s (fun cx => pinsRun s cx true)
/-- The twin of the above (R134). -/
def execPcntTwin (f : FR) (m : Mod) (s : State) := coreT 0x147 f m s (fun cx => pinsRun s cx true)
/-- PRD (R266). -/
def execPrd (f : FR) (s : State) := coreR 0x148 f s (fun cx => prdRun s cx)
/-- The twin of the above (R134). -/
def execPrdTwin (f : FR) (m : Mod) (s : State) := coreT 0x148 f m s (fun cx => prdRun s cx)
/-- PDRN (R268). -/
def execPdrn (f : FR) (s : State) := coreR 0x149 f s (fun cx => pdrnRun s cx)
/-- The twin of the above (R134). -/
def execPdrnTwin (f : FR) (m : Mod) (s : State) := coreT 0x149 f m s (fun cx => pdrnRun s cx)
/-- PCLR (R267). -/
def execPclr (f : FR) (s : State) := coreR 0x14A f s (fun cx => pclrRun s cx)
/-- The twin of the above (R134). -/
def execPclrTwin (f : FR) (m : Mod) (s : State) := coreT 0x14A f m s (fun cx => pclrRun s cx)
/-- PDEL (R267). -/
def execPdel (f : FR) (s : State) := coreR 0x14B f s (fun cx => pdelRun s cx)
/-- The twin of the above (R134). -/
def execPdelTwin (f : FR) (m : Mod) (s : State) := coreT 0x14B f m s (fun cx => pdelRun s cx)

end Sys2Proof.Machine
end

