-- ==== Sys2Proof/Machine/Engines.lean ====
section
/-! DEFINITION. What the engines do when they perform their work: copies (spec/10 R233-R242), matrix calls and joins
(spec/04 R78, spec/11 R271-R279), the `.vstat` epilogue (R282, R283), normalisation with its tap (R280, R281, spec/22
R378-R382), and drains (R268). -/

namespace Sys2Proof.Machine

/-! ### Outcomes -/

/-- How an engine's work ends: done, waiting for an arena block, or failed with a deferred trap (R256, R260). -/
inductive Work1 where
  | ok (s : State)
  | wait (s : State)
  | fail (s : State) (code : Nat) (addr info2 : Nat)

/-- Maluk is notified that an operation lacks an arena block (R260, R339). -/
def noticeArena (s : State) (id : Nat) : State :=
  if s.notices.contains id then s else { s with notices := s.notices ++ [id] }

/-! ### Pocket adds (R259, R260) -/

/-- An add to a pocket. -/
structure PAdd where
  key : Nat
  val : List W32
  count : Bool
  pois : Bool

/-- Adds in order while the arena has blocks; whether one lacked a block. -/
def addAll (coarse : Bool) (lg avail : Nat) : List PAdd → Region → Nat → Region × Bool
  | [], r, _ => (r, false)
  | a :: l, r, used =>
    let x := pocketProbe r coarse lg a.key a.count a.pois a.val
    if x.blocks = 0 ∨ used + x.blocks ≤ avail then addAll coarse lg avail l x.region (used + x.blocks) else (r, true)

/-- Adds to a team's table: a region disabled since, or an arena that Maluk refuses to enlarge, fails (R256, R260). The
table of a team that has ended is gone (R257). -/
def addTable (s : State) (id ctx key : Nat) (coarse : Bool) (adds : List PAdd) : Work1 :=
  match mfind s.teams key, mfind s.ctxs ctx with
  | some t, some c =>
    if t.ended then .ok s
    else match regionOf t coarse with
      | none => .fail s cARENA 0 0
      | some (r, lg) =>
        let (r', lacking) := addAll coarse lg (c.arenaBlocks - c.arenaUsed) adds r 0
        if !lacking then .ok (setRegion s ctx key coarse r')
        else if s.refused.contains id then .fail (setRegion s ctx key coarse r') cARENA 0 0
        else .wait (noticeArena s id)
  | _, _ => .ok s

/-! ### Scratchpad operands -/

/-- The team whose scratchpad an address of a team's call names (R38, R89). -/
def callTeam (s : State) (key : Nat) (a : SAddr) : Nat :=
  match mfind s.teams key with
  | none => key
  | some t => match (kernelOf s t.launch).bind (fun k => steam k t a) with
    | none => key
    | some i => teamKey t.launch i

/-- Bytes of a call's operand: n of them at an offset. -/
def callLocs (s : State) (key addr off n : Nat) : List Loc :=
  let a := saddr addr
  let k := callTeam s key a
  (rangeFrom (a.off + off) n).map (fun p => .s k (spos a.rot p))

/-- Their values, and whether one is poisoned. -/
def callBytes (s : State) (key addr off n : Nat) : List Byte × Bool :=
  let ls := callLocs s key addr off n
  (ls.map (homeByte s), ls.any (locPoisoned s))

/-- Bytes that begin at an offset of a quarter, cut at the quarters that follow. -/
def quarterCuts (o : Nat) (ps : List (Loc × Byte)) : List (List (Loc × Byte)) := ps.take (32 - o) :: pieces 32 (ps.drop (32 - o))

/-- Write a call's result bytes, quarter by quarter (R85, R103). -/
def callWrite (s : State) (key addr off : Nat) (bs : List Byte) (pois : Bool) : State :=
  let a := saddr addr
  (quarterCuts ((a.off + off) % 32) ((callLocs s key addr off bs.length).zip bs)).foldl
    (fun s p => performPart s .home 0 p pois a.rot) s

/-- A member of the gang that a call names has not started (R39). -/
def callHeld (s : State) (key : Nat) (addrs : List Nat) : Bool :=
  addrs.any (fun a => (mfind s.teams (callTeam s key (saddr a))).isNone)

/-! ### Matrix calls (R78, R272-R277) -/

def zeroV : FV := .fin false 0 0

/-- Bits of element k of a row. -/
def elemBits (f : Nat) (bs : List Byte) (k : Nat) : Nat :=
  match f with
  | 0 => leVal ((bs.drop (2 * k)).take 2)
  | 1 => leVal ((bs.drop (2 * k)).take 2)
  | 4 => (bs.getD (k / 2) 0).toNat / 2 ^ (4 * (k % 2)) % 16
  | 7 => (bs.getD (k / 2) 0).toNat / 2 ^ (4 * (k % 2)) % 16
  | 8 => leVal ((bs.drop (4 * k)).take 4)
  | _ => (bs.getD k 0).toNat

/-- Value times Scale (R65, R67-R69). -/
def elemValue (f scale code : Nat) : FV :=
  match f with
  | 0 => fval .bf16 code
  | 1 => fval .f16 code
  | 2 => fval .e4m3 code
  | 3 => fval .e5m2 code
  | 4 => if scale = 255 then .nan else shiftV (fval .e2m1 code) (scaleExp scale)
  | 5 => ds8Val code scale
  | 6 => ofInt false (sext 8 code) 0
  | _ => fval .f32 code

/-- The INT4 prologue under a parameter word: a nonzero [31:20] is NaN (R68, R275). -/
def int4Value (par code : Nat) : FV :=
  if bitsOf par 31 20 ≠ 0 then .nan
  else fval .bf16 (roundF .bf16 0 false 0
    (mulV (ofInt false (sext 4 code - sext 4 (bitsOf par 19 16)) 0) (fval .bf16 (par % 2 ^ 16))))

/-- One row of A or column of B in a chunk: its values, where the values of a 2:4 array stand, its poison. -/
structure Row where
  vals : List FV
  at_ : List Nat := []
  pois : Bool := false

/-- A product of the array: `.zskip` omits one of a zero A; an integer zero is +0 (R78, R277). -/
def arrayProduct (zskip int : Bool) (a b : FV) : FV :=
  if zskip && isZero a then zeroV
  else
    let p := mulV a b
    if int && isZero p then zeroV else p

/-- The chunk term of a result element (R78); under 2:4 sparsity the omitted products are +0 (R276). -/
def chunkTerm (zskip int sparse : Bool) (a b : Row) : W32 :=
  let ps := if sparse then
      (b.at_.zip b.vals).map (fun x => arrayProduct zskip int (a.vals.getD x.1 zeroV) x.2) ++ List.replicate 16 zeroV
    else (a.vals.zip b.vals).map (fun x => arrayProduct zskip int x.1 x.2)
  BitVec.ofNat 32 (sumRound ps)

/-- The registers of the signer of a rank, if there is one (R273). -/
def rankRegs (sg : List Signer) (ranks : List Tid) (i : Nat) (regs : Signer → List W32) : Option (List W32) :=
  match ranks[i]? with
  | none => none
  | some x => (sg.find? (fun g => g.who == x)).map regs

/-- The bytes of row i of chunk c of an operand, and its poison. -/
def operandBytes (s : State) (key : Nat) (d : Desc) (n c i : Nat) (regs : Nat → Option (List W32)) : List Byte × Bool :=
  if d.reg then
    match regs i with
    | none => (List.replicate n 0, false)
    | some ws => (((ws.flatMap (fun w => leBytes 4 w.toNat)).drop (n * c)).take n, false)
  else callBytes s key d.base (d.chunk * c + d.row * i) n

/-- Rows of operand A, or columns of B of `MMA`, in chunk c. -/
def plainRow (s : State) (key f : Nat) (d : Desc) (scale c i : Nat) (regs : Nat → Option (List W32)) : Row :=
  if d.reg && (regs i).isNone then { vals := List.replicate 32 zeroV }
  else
    let (bs, p) := operandBytes s key d (fmtBytes f) c i regs
    let (sc, q) := if scaled f then callBytes s key scale (128 * c + i) 1 else ([], false)
    { vals := (List.range 32).map (fun k => elemValue f (leVal sc) (elemBits f bs k)), pois := p || q }

/-- Columns of B of `MMAQ` (R275). -/
def int4Row (s : State) (key : Nat) (d : Desc) (par c j : Nat) (regs : Nat → Option (List W32)) : Row :=
  if d.reg && (regs j).isNone then { vals := List.replicate 32 zeroV }
  else
    let (bs, p) := operandBytes s key d 16 c j regs
    let (w, q) := callBytes s key par (4 * (128 * c + j)) 4
    { vals := (List.range 32).map (fun k => int4Value (leVal w) (elemBits 7 bs k)), pois := p || q }

/-- Columns of B of `MMAS`: 16 values and the places that META gives them (R276); the values of a column without a signer
are +0 at their places (R273). -/
def sparseRow (s : State) (key f : Nat) (d : Desc) (scale mta c j : Nat) (regs : Nat → Option (List W32)) : Row :=
  let (w, r) := callBytes s key mta (4 * (128 * c + j)) 4
  let md := leVal w
  let places := (List.range 16).map (fun k =>
    4 * (k / 2) + bitsOf md (4 * (k / 2) + 2 * (k % 2) + 1) (4 * (k / 2) + 2 * (k % 2)))
  if d.reg && (regs j).isNone then { vals := List.replicate 16 zeroV, at_ := places, pois := r }
  else
  let n := fmtBytes f / 2
  let (bs, p) := if d.reg then
      match regs j with
      | none => (List.replicate n 0, false)
      | some ws => (((ws.flatMap (fun w => leBytes 4 w.toNat)).drop (fmtBytes f * c)).take n, false)
    else callBytes s key d.base (d.chunk * c + d.row * j) n
  let (sc, q) := if scaled f then callBytes s key scale (128 * c + j) 1 else ([], false)
  { vals := (List.range 16).map (fun k => elemValue f (leVal sc) (elemBits f bs k)), at_ := places, pois := p || q || r }

/-- The key of pocket (p, q) of a call (R274). -/
def callKey (key p q : Nat) : Nat :=
  bitsOf key 63 40 * 2 ^ 40 + (bitsOf key 39 20 + p) % 2 ^ 20 * 2 ^ 20 + (bitsOf key 19 0 + q) % 2 ^ 20

/-- The pocket adds of one chunk, q then p (R274). -/
def chunkAdds (key : Nat) (zskip int sparse : Bool) (as bs : List Row) : List PAdd :=
  (List.range 4).flatMap (fun q => (List.range 4).map (fun p =>
    let ra := (as.drop (32 * p)).take 32
    let rb := (bs.drop (32 * q)).take 32
    { key := callKey key p q, val := ra.flatMap (fun a => rb.map (chunkTerm zskip int sparse a)), count := false,
      pois := ra.any (·.pois) || rb.any (·.pois) }))

/-- All pocket adds of a matrix call (R274-R276). -/
def mmaAdds (s : State) (key : Nat) (c : Call) (sg : List Signer) (ranks : List Tid) : List PAdd :=
  let w (i : Nat) : Nat := (c.regs.getD i 0).toNat
  let fa := bitsOf c.fmt.toNat 23 20
  let fb := bitsOf c.fmt.toNat 19 16
  let da := descOf (wordsVal (c.regs.take 2))
  let db := descOf (wordsVal ((c.regs.drop 2).take 2))
  let k := wordsVal ((c.regs.drop 4).take 2)
  let ra (i : Nat) := rankRegs sg ranks i (·.aRegs)
  let rb (i : Nat) := rankRegs sg ranks i (·.bRegs)
  (List.range c.chunks).flatMap (fun ch =>
    let as := (List.range 128).map (fun i => plainRow s key fa da (w 6) ch i ra)
    let bs := (List.range 128).map (fun j => match c.opcode % 512 with
      | 0x141 => int4Row s key db (w 7) ch j rb
      | 0x142 => sparseRow s key fb db (w 7) (w 8) ch j rb
      | _ => plainRow s key fb db (w 7) ch j rb)
    chunkAdds k c.zskip (fa == 6) (c.opcode % 512 == 0x142) as bs)

/-! ### JOIN (R279) -/

/-- A tuple of a stream. -/
structure Tuple where
  k : Nat
  out : Nat
  val : FV
  pois : Bool

/-- The tuples of a stream. -/
def tuplesOf (s : State) (key addr n f : Nat) : List Tuple :=
  (List.range n).map (fun i =>
    let (bs, p) := callBytes s key addr (12 * i) 12
    let v := leVal (bs.drop 8)
    { k := leVal (bs.take 4), out := leVal ((bs.drop 4).take 4),
      val := if f = 8 then fval .f32 v else fval (if f = 0 then .bf16 else .f16) (v % 2 ^ 16), pois := p })

/-- The merge as R279 writes it; `n` bounds its steps. -/
def joinPairs : Nat → List Tuple → List Tuple → List (Tuple × Tuple)
  | 0, _, _ => []
  | _, [], _ => []
  | _, _, [] => []
  | n + 1, a :: l, b :: r =>
    if a.k < b.k then joinPairs n l (b :: r)
    else if b.k < a.k then joinPairs n (a :: l) r
    else
      let le := (a :: l).takeWhile (fun x => x.k == a.k)
      let re := (b :: r).takeWhile (fun x => x.k == b.k)
      le.flatMap (fun x => re.map (fun y => (x, y)))
        ++ joinPairs n ((a :: l).drop le.length) ((b :: r).drop re.length)

/-- The pocket adds of a join. -/
def joinAdds (s : State) (key : Nat) (c : Call) : List PAdd :=
  let w (i : Nat) : Nat := (c.regs.getD i 0).toNat
  let l := tuplesOf s key (w 0) (w 1) (bitsOf c.fmt.toNat 23 20)
  let r := tuplesOf s key (w 2) (w 3) (bitsOf c.fmt.toNat 19 16)
  (joinPairs (l.length + r.length) l r).map (fun x =>
    { key := x.1.out * 2 ^ 32 + x.2.out, val := [BitVec.ofNat 32 (roundF .f32 0 false 0 (mulV x.1.val x.2.val))],
      count := false, pois := x.1.pois || x.2.pois })

/-! ### Memory as an engine reads it -/

/-- Bytes of global memory that an engine reads, page by page: not-present pages are made present, a forbidden one gives
its address and reason, poison is noted (R239, R256). -/
def engineRead (s : State) (unit ctx : Nat) (x : Exec) : Nat → Nat → State × Except (Nat × Nat) (List Byte × Bool)
  | _, 0 => (s, .ok ([], false))
  | va, n + 1 =>
    let va := va % 2 ^ 64
    match engineForbids s unit ctx va .read with
    | some r => (s, .error (va, r))
    | none =>
      match resolveAt s unit ctx va .read x with
      | (s, .error r) => (s, .error (va, r))
      | (s, .ok pa) =>
        match engineRead s unit ctx x (va + 1) n with
        | (s, .error e) => (s, .error e)
        | (s, .ok (bs, p)) => (s, .ok (rdByte s pa :: bs, p || isPoisoned s (quarterOf pa)))

/-! ### The `.vstat` epilogue (R282, R283) -/

/-- The count of a token as PLUP would read it: 0 where the key is absent or the fine region is disabled. -/
def tokenCount (s : State) (key k : Nat) : Nat × Bool :=
  match (mfind s.teams key).bind (fun t => regionOf t false) with
  | none => (0, false)
  | some (r, lg) => match combine (partsOf r lg k) with
    | none => (0, false)
    | some p => ((p.val.headD 0).toNat, p.pois)

/-- A result element in its pocket. -/
def resultElem (s : State) (key k i j : Nat) : Nat × Bool :=
  match (mfind s.teams key).bind (fun t => regionOf t true) with
  | none => (0, false)
  | some (r, lg) => match combine (partsOf r lg (callKey k (i / 32) (j / 32))) with
    | none => (0, false)
    | some p => ((p.val.getD (32 * (i % 32) + j % 32) 0).toNat, p.pois)

/-- The parameters of a row record. -/
structure VRow where
  inv : Nat
  rep : Nat
  pres : Nat
  freq : Nat
  bias : Nat
  mask : Nat
  cbase : Nat
  pen : Bool

def vrowOf (bs : List Byte) : VRow :=
  let w (o n : Nat) : Nat := leVal ((bs.drop o).take n)
  { inv := w 0 4, rep := w 4 4, pres := w 8 4, freq := w 12 4, bias := w 16 8, mask := w 24 8, cbase := w 32 8,
    pen := bitOf (w 40 4) 0 }

/-- An adjusted logit from the result element, its bias, its count and its mask bit (R283). -/
def vlogit (r : VRow) (l : Nat) (bias : Option Nat) (cnt : Nat) (masked : Bool) : Nat :=
  let l := match bias with
    | some b => faddN l b
    | none => l
  let l := if r.pen && decide (0 < cnt) then
      let l := if f32Pos l then fdivN l r.rep else fmulN l r.rep
      fsubN (fsubN l r.pres) (fmulN r.freq (roundF .f32 0 false 0 (ofInt false cnt 0)))
    else l
  let l := fmulN l r.inv
  if masked then negInf32 else l

/-- The logits of a row, with the poison that its reads met. R283 states no modulus for v = VBASE + j: it is taken modulo 2^32
(notes/assumptions/42.md). -/
def vlogits (s : State) (unit ctx : Nat) (x : Exec) (key k vbase i : Nat) (r : VRow) :
    List Nat → State × Except (Nat × Nat) (List Nat × Bool)
  | [] => (s, .ok ([], false))
  | j :: js =>
    let v := (vbase + j) % 2 ^ 32
    let (s, b) := if r.bias = 0 then (s, .ok ([], false)) else engineRead s unit ctx x (r.bias + 4 * v) 4
    let (s, m) := if r.mask = 0 then (s, .ok ([255], false)) else engineRead s unit ctx x (r.mask + v / 8) 1
    match b, m with
    | .error e, _ => (s, .error e)
    | _, .error e => (s, .error e)
    | .ok (bb, bp), .ok (mb, mp) =>
      let (e, ep) := resultElem s key k i j
      let (c, cp) := tokenCount s key ((r.cbase + v) % 2 ^ 64)
      let l := vlogit r e (if r.bias = 0 then none else some (leVal bb)) c (!bitOf (leVal mb) (v % 8))
      match vlogits s unit ctx x key k vbase i r js with
      | (s, .error e) => (s, .error e)
      | (s, .ok (ls, p)) => (s, .ok (l :: ls, bp || mp || ep || (r.pen && cp) || p))

/-- M and S of a row (R283). -/
def vstats (ls : List Nat) : Nat × Nat :=
  let m := if ls.any f32NaN then canon32 else greatest ls
  (m, if m = negInf32 ∨ f32NaN m then 0 else ls.foldl (fun a l => faddN a (expE l m)) 0)

/-- Rows i of the epilogue, ascending. -/
def vstatRows (unit ctx : Nat) (y : Exec) (key k : Nat) (x : List W32) : List Nat → State → Work1
  | [], s => .ok s
  | i :: is, s =>
    let w (n : Nat) : Nat := (x.getD n 0).toNat
    let vn := bitsOf (w 5) 7 0
    match engineRead s unit ctx y (wordsVal (x.take 2) + 64 * i) 64 with
    | (s, .error (va, r)) => .fail s cPAGE va r
    | (s, .ok (bs, p)) =>
      let r := vrowOf bs
      match vlogits s unit ctx y key k (w 4) i r (List.range vn) with
      | (s, .error (va, e)) => .fail s cPAGE va e
      | (s, .ok (ls, q)) =>
        let (m, t) := vstats ls
        let s := callWrite s key (w 2) (512 * i) (ls.flatMap (leBytes 4)) (p || q)
        let s := callWrite s key (w 3) (8 * i) (leBytes 4 m ++ leBytes 4 t) (p || q)
        vstatRows unit ctx y key k x is s

/-- A matrix call performed: its adds, then its epilogue (R274, R278, R283). -/
def mmaPerform (s : State) (o : Op) (c : Call) (key : Nat) (sg : List Signer) (ranks : List Tid) : Work1 :=
  match addTable s o.id o.ctx key true (mmaAdds s key c sg ranks) with
  | .ok s =>
    if c.vstat then
      let x := c.regs.drop (if c.opcode % 512 = 0x142 then 9 else 8)
      vstatRows o.core o.ctx (.op o.id) key (wordsVal ((c.regs.drop 4).take 2)) x (List.range (bitsOf (x.getD 5 0).toNat 15 8)) s
    else .ok s
  | r => r

/-! ### NORM and its tap (R280, R281, R378-R382) -/

/-- N FP32 words at a physical address, and whether one is poisoned. -/
def tapVector (s : State) (pa n : Nat) : List Nat × Bool :=
  ((List.range n).map (fun j => rdMem s (pa + 4 * j) 4), (List.range n).any (fun j => isPoisoned s (quarterOf (pa + 4 * j))))

/-- One probe trips on a row (R380). -/
def probeTrips (e : Tap) (k : Nat) (x ws : List Nat) : Bool :=
  let sc := faddN (chunkSum ((x.zip ws).map (fun p => mulV (fval .f32 p.1) (fval .f32 p.2)))) (e.bias.getD k 0).toNat
  let th := (e.thresh.getD k 0).toNat
  f32NaN sc || (if e.less.getLsbD k then fltN sc th else fltN th sc)

/-- The probe of a row: its trips and the steering vector, and whether a weight or steering quarter is poisoned. -/
def probeRow (s : State) (e : Tap) (slot : Nat) (x : List Nat) : Nat × List Nat × Bool :=
  let v := bitsOf (seqWord s slot).toNat 15 8
  let (st, sp) := if e.steerEn && v != 0 then tapVector s (e.steerBase + 4 * e.n * (v - 1)) e.n
    else (List.replicate e.n 0x80000000, false)
  let ks := List.range e.nprobe
  let vs := ks.map (fun k => (k, tapVector s (e.probes.getD k 0) e.n))
  let pois := sp || vs.any (fun w => w.2.2)
  let trips := (vs.filter (fun w => pois || probeTrips e w.1 x w.2.1)).foldl (fun a w => a + 2 ^ w.1) 0
  (trips, st, pois)

/-- A tripped row updates its word in one step, and the operator is told (R382, R380). -/
def tripRow (s : State) (ctx tap slot trips : Nat) (pois : Bool) : State :=
  let vi := ((mfind s.ctxs ctx).map (·.vi)).getD 0
  let ev (s : State) (kind : Nat) (ws : List Nat) : State :=
    post s { kind := kind, vi := vi, endpoint := 0, op := true, body := pad8 (ws.flatMap (leBytes 4)) }
  let s := if trips = 0 then s else
    let w := (seqWord s slot).toNat
    let w' := 2 ^ 31 + tap * 2 ^ 24 + trips * 2 ^ 20 + bitsOf w 15 8 * 2 ^ 8 + min 255 (w % 256 + 1)
    ev { s with seqWords := mset 0 s.seqWords slot (BitVec.ofNat 32 w') } 0x85 [ctx, vi, slot, w']
  if pois then ev s 0x8A [ctx, tap, slot] else s

/-- FP32 code of an element of INFMT, and back. -/
def fromIn (f v : Nat) : Nat := if f = 8 then v else roundF .f32 0 false 0 (fval .bf16 v)
def toFmt (f v : Nat) : Nat := roundF (if f = 0 then .bf16 else if f = 1 then .f16 else .f32) 0 false 0 (fval .f32 v)

/-- The normalised row (R281). -/
def normRow (x gamma : List Nat) (ln : Bool) (eps outf : Nat) : List Nat :=
  let n := roundF .f32 0 false 0 (ofInt false x.length 0)
  let x := if ln then
      let mu := fdivN (chunkSum (x.map (fval .f32))) n
      x.map (fun v => fsubN v mu)
    else x
  let v := fdivN (chunkSum (x.map (fun v => mulV (fval .f32 v) (fval .f32 v)))) n
  let rs := frsq (faddN v eps)
  (x.zip gamma).map (fun p => toFmt outf (fmulN (fmulN p.1 rs) p.2))

/-- One row of a NORM call; `active`: its tap is active for the call. -/
def normOne (ctx key : Nat) (c : Call) (active : Bool) (s : State) (i : Nat) : State :=
  let w (k : Nat) : Nat := (c.regs.getD k 0).toNat
  let inf := bitsOf c.fmt.toNat 23 20
  let outf := bitsOf c.fmt.toNat 19 16
  let n := bitsOf (w 3) 15 0
  let (raw, p) := callBytes s key (w 0) (w 4 * i) (n * normSize inf)
  let (gm, q) := callBytes s key (w 2) 0 (4 * n)
  let x := (List.range n).map (fun j => fromIn inf (leVal ((raw.drop (normSize inf * j)).take (normSize inf))))
  let gamma := (List.range n).map (fun j => leVal ((gm.drop (4 * j)).take 4))
  let (s, x) := if active then
      let slot := ((mfind s.ctxs ctx).map (·.seqBase)).getD 0 + w 6 + i
      let (trips, st, pois) := probeRow s c.entry slot x
      let s := tripRow s ctx (c.tap - 1) slot trips pois
      let y := (x.zip st).map (fun v => toFmt inf (faddN v.1 v.2))
      (callWrite s key (w 0) (w 4 * i) (y.flatMap (leBytes (normSize inf))) p, y.map (fromIn inf))
    else (s, x)
  callWrite s key (w 1) (w 4 * i)
    ((normRow x gamma (bitsOf c.fmt.toNat 15 14 == 1) (w 5) outf).flatMap (leBytes (normSize outf))) (p || q)

/-- A NORM call performed (R281); a tap whose N differs is inactive and reported (R379). -/
def normPerform (s : State) (o : Op) (c : Call) (key : Nat) : State :=
  let sh := (c.regs.getD 3 0).toNat
  let n := bitsOf sh 15 0
  let on := c.tap != 0 && c.entry.active
  let s := if on && c.entry.n != n then
      post s { kind := 0x86, vi := ((mfind s.ctxs o.ctx).map (·.vi)).getD 0, endpoint := 0, op := true,
               body := pad8 (leBytes 4 o.ctx ++ leBytes 4 (c.tap - 1) ++ leBytes 4 c.entry.n) }
    else s
  (List.range (bitsOf sh 23 16)).foldl (normOne o.ctx key c (on && c.entry.n == n)) s

/-! ### Copies (R233, R237, R238) -/

/-- Bytes that a copy has written so far, the latest first. -/
abbrev Written := List (Loc × Byte)

def lookupW (w : Written) (l : Loc) : Option Byte := (w.find? (fun x => x.1 == l)).map (·.2)

/-- A location as the copy has left it. -/
def afterW (s : State) (w : Written) (l : Loc) : Byte := (lookupW w l).getD (homeByte s l)

/-- The value of a source element: as it stood, or as this copy has written it (R233). -/
def sourceValue (s : State) (pick : Bool) (w : Written) (ls : List Loc) : Nat :=
  leVal (ls.map (if pick then afterW s w else homeByte s))

/-- A combination of COPYR (R237): operation, element type, old value, v. -/
def combineElem (op ty m v : Nat) : Nat :=
  let fp (f : Fmt) : Nat := match op with
    | 0 => roundF f 0 false 0 (addV 0 (fval f m) (fval f v))
    | 1 => minmax f false m v
    | _ => minmax f true m v
  let int (less : Bool) : Nat := match op with
    | 0 => (m + v) % 2 ^ 32
    | 1 => if less then m else v
    | _ => if less then v else m
  match ty with
  | 0 => fp .f32
  | 1 => fp .bf16
  | 2 => fp .f16
  | 3 => int (decide (sext 32 m < sext 32 v))
  | _ => int (decide (m < v))

/-- What a copy has written, and the locations whose source was poisoned. -/
structure CopyAcc where
  w : Written := []
  pois : List Loc := []
  any : Bool := false
  n : Nat

/-- One element to one destination. A reduction reads the destination: one that is poisoned is reported, and written poisoned
(R103). -/
def copyDest (s : State) (c : Copy) (v : Nat) (p : Bool) (a : CopyAcc) (d : Dest) : CopyAcc :=
  match d.locs with
  | none => a
  | some ls =>
    let x := match c.red with
      | none => v
      | some (op, ty) => combineElem op ty (leVal (ls.map (afterW s a.w))) v
    let p := p || (c.red.isSome && ls.any (locPoisoned s))
    { a with w := (ls.zip (leBytes c.esize x)).reverse ++ a.w, pois := if p then ls ++ a.pois else a.pois, any := a.any || p }

/-- One element to every destination, its source read once (R237). Of the values that R233 allows in an overlapping copy the
free choice is between the one at issue and one that an element earlier in window order has written; an element whose source
only later elements write has the one at issue (notes/assumptions/42.md). -/
def copyElem (s : State) (c : Copy) (a : CopyAcc) (e : Elem) : CopyAcc :=
  let src := (e.src.bind (·.locs)).getD []
  let v := if e.src.isSome then sourceValue s (Config.copyPick a.n) a.w src else c.fill
  let p := src.any (locPoisoned s)
  e.dst.foldl (copyDest s c v p) { a with any := a.any || p, n := a.n + 1 }

/-- The words of the scratchpad quarters that destinations lie in, each with its team. -/
def destQuarters (ds : List Dest) : List (Nat × List Nat) :=
  (ds.filterMap (fun d => match d.locs with
    | some (.s t p :: _) => some (t, quarterWords d.rot p)
    | _ => none)).foldl (fun l x => if l.contains x then l else x :: l) []

/-- After its writes a scratchpad quarter is poisoned if one of them was, or no longer if they cover it (R103). -/
def settleScratch (w : Written) (pois : List Loc) (s : State) (q : Nat × List Nat) : State :=
  if pois.any (fun l => match l with
    | .s t p => t == q.1 && q.2.contains (p / 4)
    | .g _ => false) then poisonScratch s q.1 q.2 true
  else if q.2.all (fun k => (rangeFrom (4 * k) 4).all (fun p => (lookupW w (.s q.1 p)).isSome)) then
    poisonScratch s q.1 q.2 false
  else s

/-- Perform written bytes: each global quarter as one write (R85), which the home L2 holds in the orientation of the
destination (R93), and scratchpad bytes at their banks. -/
def performWritten (s : State) (ctx orient : Nat) (w : Written) (pois : List Loc) (qs : List (Nat × List Nat)) : State :=
  let gs := sunion [] (w.filterMap (fun x => match x.1 with
    | .g pa => some (quarterOf pa)
    | .s _ _ => none))
  let s := gs.foldl (fun s q =>
    let bs := (rangeFrom (q * 32) 32).filterMap (fun pa => (lookupW w (.g pa)).map (fun b => (pa, b)))
    let s := bs.foldl (fun s x => fillLine s (lineAt (l2Unit (homeDie x.1)) ctx orient x.1)) s
    performQuarter s .home orient bs (pois.any (fun l => match l with
      | .g pa => quarterOf pa == q
      | .s _ _ => false))) s
  let s := w.reverse.foldl (fun s x => match x.1 with
    | .s t p => wrScratch s t p x.2
    | .g _ => s) s
  qs.foldl (settleScratch w pois) s

/-- Lines of the sources that a copy reads come into the caches, in the orientation that its layout selects (R93). -/
def fillSources (s : State) (o : Op) (c : Copy) : State :=
  (c.elems.foldl (fun (acc : List Nat × State) e =>
    match (e.src.bind (·.locs)).bind (·.head?) with
    | some (.g pa) =>
      let k := sectorOf pa * 64 + linePart c.srcOrient pa
      if acc.1.contains k then acc else (k :: acc.1, fillFrom acc.2 o.core o.ctx c.srcOrient pa false)
    | _ => acc) ([], s)).2

/-- A copy performed, and its status word (R238). -/
def copyPerform (s : State) (o : Op) (c : Copy) : State × Nat :=
  if c.abort then (s, 2 ^ 31 + 2 ^ 29 + c.forbid)
  else
    let a := c.elems.foldl (copyElem s c) { n := s.freeN }
    (performWritten (fillSources { s with freeN := a.n } o c) o.ctx c.orient a.w a.pois (destQuarters (c.elems.flatMap (·.dst))), 2 ^ 31 + (if a.any then 2 ^ 30 else 0) + c.forbid)

/-! ### Drains (R268) -/

/-- The locations of a range as an engine writes it, in 4-byte pieces; a forbidden page gives its address and reason. -/
def engineLocs (s : State) (unit ctx : Nat) (x : Exec) : Nat → Nat → State × Except (Nat × Nat) (List Loc)
  | _, 0 => (s, .ok [])
  | va, n + 1 =>
    let va := va % 2 ^ 64
    match resolveDest unit ctx 4 .write x false s { va := some va, locs := none } with
    | (s, d) => match d.locs with
      | none => (s, .error (va, (engineForbids s unit ctx va .write).getD 0))
      | some ls =>
        match engineLocs s unit ctx x (va + 4) n with
        | (s, .error e) => (s, .error e)
        | (s, .ok r) => (s, .ok (ls ++ r))

/-- An entry of a drain: its key, and its key and value locations. -/
structure DEnt where
  key : Nat
  kl : List Loc
  vl : List Loc

/-- The entries up to the first forbidden page. -/
def drainEntries (unit ctx : Nat) (x : Exec) (d : Drain) : List Nat → Nat → State → State × List DEnt × Option (Nat × Nat)
  | [], _, s => (s, [], none)
  | k :: ks, e, s =>
    match engineLocs s unit ctx x (d.keys + 8 * e) 2 with
    | (s, .error f) => (s, [], some f)
    | (s, .ok kl) =>
      match engineLocs s unit ctx x (d.vals + drainSize d * e) (drainSize d / 4) with
      | (s, .error f) => (s, [], some f)
      | (s, .ok vl) =>
        let (s, r, f) := drainEntries unit ctx x d ks (e + 1) s
        (s, { key := k, kl := kl, vl := vl } :: r, f)

/-- The keys in a drain's range, ascending. -/
def drainKeys (s : State) (key : Nat) (d : Drain) : List Nat :=
  match (mfind s.teams key).bind (fun t => regionOf t (!d.fine)) with
  | none => []
  | some (r, _) => (keysOf r).filter (fun k => decide (d.lo ≤ k ∧ k ≤ d.hi))

/-- What a drain will write at its place in the pocket order, and the forbidden page it met. -/
def drainPlan (s : State) (o : Op) (d : Drain) (key : Nat) : State × List DEnt × Option (Nat × Nat) :=
  drainEntries o.core o.ctx (.op o.id) d ((drainKeys s key d).take d.max) 0 s

/-- The lines of a drain's entries. -/
def planLines (es : List DEnt) : List Nat := linesOf (es.flatMap (fun e => e.kl ++ e.vl))

/-- A drain performed, and its status word. -/
def drainPerform (s : State) (o : Op) (d : Drain) (key : Nat) (es : List DEnt) (fault : Bool) : State × Nat :=
  match (mfind s.teams key).bind (fun t => regionOf t (!d.fine)) with
  | none => (s, 2 ^ 31 + (if fault then 2 ^ 28 else 0))
  | some (r, lg) =>
    let all := drainKeys s key d
    let parts := es.filterMap (fun e => (combine (partsOf r lg e.key)).map (fun p => (e, p)))
    let w : Written := parts.flatMap (fun x =>
      x.1.kl.zip (leBytes 8 x.1.key) ++ x.1.vl.zip (x.2.val.flatMap (fun v => leBytes 4 v.toNat)))
    let pois := parts.flatMap (fun x => if x.2.pois then x.1.vl else [])
    let s := performWritten s o.ctx 0 w pois []
    let s := setRegion s o.ctx key (!d.fine) (es.foldl (fun r e => dropKey r lg e.key) r)
    (s, 2 ^ 31 + (if es.length < all.length then 2 ^ 30 else 0) + (if pois.isEmpty then 0 else 2 ^ 29)
      + (if fault then 2 ^ 28 else 0) + es.length)

end Sys2Proof.Machine
end

