-- ==== Sys2Proof/Machine/Room.lean ====
section
/-! DEFINITION. Room on cores and clusters (spec/19 R332, R333, R357), lane binding (spec/02 R24), the start of teams and
spawned groups (spec/03 R61, spec/08 R164, spec/02 R31, R39), pre-emption and resumption (spec/20 R353-R357). -/

namespace Sys2Proof.Machine

/-! ### Operations held for a gang member (R39) -/

/-- The teams whose scratchpads these locations lie in. -/
def locTeams (ls : List Loc) : List Nat :=
  sunion [] (ls.filterMap (fun l => match l with
    | .s t _ => some t
    | .g _ => none))

/-- The scratchpad addresses of a cleat call. -/
def callAddrs (c : Call) : List Nat :=
  let w (i : Nat) : Nat := (c.regs.getD i 0).toNat
  let op := c.opcode % 512
  if op = 0x143 then [w 0, w 2]
  else if op = 0x14C then [w 0, w 1, w 2]
  else
    let da := descOf (wordsVal (c.regs.take 2))
    let db := descOf (wordsVal ((c.regs.drop 2).take 2))
    let x := c.regs.drop (if op = 0x142 then 9 else 8)
    (if da.reg then [] else [da.base]) ++ (if db.reg then [] else [db.base])
      ++ (if scaled (bitsOf c.fmt.toNat 23 20) then [w 6] else [])
      ++ (if op = 0x141 ∨ scaled (bitsOf c.fmt.toNat 19 16) then [w 7] else [])
      ++ (if op = 0x142 then [w 8] else [])
      ++ (if c.vstat then [(x.getD 2 0).toNat, (x.getD 3 0).toNat] else [])

/-- The teams whose scratchpads an operation touches. -/
def opTeams (s : State) (o : Op) : List Nat :=
  match o.kind with
  | .copy c _ _ => locTeams (c.elems.flatMap (fun e =>
      ((e.src.bind (·.locs)).getD []) ++ (e.dst.filterMap (·.locs)).flatMap id))
  | .call c t _ _ => sunion [] ((callAddrs c).map (fun a => callTeam s t (saddr a)))
  | .pocket (.read _ a _) t => [callTeam s t (saddr a.toNat)]
  | _ => locTeams (opLocs o)

/-- An operation held before this one at a team's start is still in flight. -/
def heldBefore (s : State) (id : Nat) : Bool :=
  s.teams.any (fun t => t.2.held.contains id &&
    s.ops.any (fun o => decide (o.id < id) && t.2.held.contains o.id))

/-- The team's groups may issue: every operation held for its start has been performed. -/
def heldDone (s : State) (t : Team) : Bool := depsDone s (performed t.held)

/-! ### Budgets (R332) -/

/-- Sum of a list. -/
def sumN (l : List Nat) : Nat := l.foldl (· + ·) 0

/-- Registers that a thread of a kernel is charged (R332). -/
def regCharge (k : Kernel) : Nat := (k.regs + 31) / 32 * 32

/-- A suspended group that has stopped (R353): one that is still in a clause completes it first. -/
def away (g : Group) : Bool := g.susp && g.flight.isNone

/-- The groups that take room on a core. -/
def coreGroupsOf (s : State) (core : Nat) : List Group :=
  (s.groups.map (·.2)).filter (fun g => g.core == core && !away g)

/-- What is in use on a core: groups, threads, registers. -/
structure Used where
  groups : Nat
  threads : Nat
  regs : Nat
  deriving DecidableEq, Repr

def usedOn (s : State) (core : Nat) : Used :=
  let gs := coreGroupsOf s core
  { groups := gs.length
    threads := sumN (gs.map (·.width))
    regs := sumN (gs.map (fun g => g.width * ((kernelOf s g.launch).map regCharge).getD 0)) }

/-- n more groups of a kernel fit on a core. -/
def groupsFit (s : State) (core n : Nat) (k : Kernel) : Bool :=
  let u := usedOn s core
  decide (u.groups + n ≤ Config.coreGroups) && decide (u.threads + n * k.group ≤ Config.coreThreads)
    && decide (u.regs + n * k.group * regCharge k ≤ Config.coreRegs)

/-- A team with a group that takes room. -/
def present (s : State) (t : Team) : Bool := t.groups.any (fun gid => match getGroup s gid with
  | some g => !away g
  | none => false)

/-- Teams that have not ended, with their kernels. -/
def openTeams (s : State) : List (Nat × Team × Kernel) :=
  s.teams.filterMap (fun t => if t.2.ended then none else (kernelOf s t.2.launch).map (fun k => (t.1, t.2, k)))

/-- Barrier-table entries in use on a home core; `absent` counts those of absent teams too, which may be spilled (R357). -/
def barsUsed (s : State) (core : Nat) (absent : Bool) : Nat :=
  sumN ((openTeams s).map (fun x =>
    if x.2.1.home = core ∧ !x.2.1.spilled ∧ (absent || present s x.2.1) then x.2.2.bars else 0))

/-- Pocket allocation in use on a home core, in KiB. -/
def pocketsUsed (s : State) (core : Nat) : Nat :=
  sumN ((openTeams s).map (fun x => if x.2.1.home = core ∧ present s x.2.1 then x.2.2.coarse + x.2.2.fine else 0))

/-- Scratchpad in use on a cluster, in bytes. -/
def scratchUsed (s : State) (cluster : Nat) : Nat :=
  sumN ((openTeams s).map (fun x => if x.2.1.cluster = cluster ∧ present s x.2.1 then x.2.2.scratch else 0))

/-- Home resources of a team fit. -/
def homeFits (s : State) (home bars pockets scratch : Nat) : Bool :=
  decide (barsUsed s home false + bars ≤ Config.coreBarriers)
    && decide (pocketsUsed s home + pockets ≤ Config.corePockets)
    && decide (scratchUsed s (clusterOf home) + scratch ≤ Config.clusterScratch)

/-- The other core of a cluster. -/
def otherCore (core : Nat) : Nat := if core % 2 = 0 then core + 1 else core - 1

/-- Groups of a team that a mask puts on the home core: group 0, and those of its bits (R332). -/
def onHome (mask : Nat) (i : Nat) : Bool := i == 0 || bitOf mask i

/-- A team of a kernel fits with this home core and division. -/
def teamFits (s : State) (k : Kernel) (single : Bool) (home mask : Nat) : Bool :=
  let n := ((List.range k.team).filter (onHome mask)).length
  decide (home < Config.cores) && (!single || n == k.team) && groupsFit s home n k
    && (n == k.team || groupsFit s (otherCore home) (k.team - n) k)
    && homeFits s home k.bars (k.coarse + k.fine) k.scratch

/-- A team could fit in an empty cluster (R331). -/
def everFits (k : Kernel) (single : Bool) : Bool :=
  (List.range k.team).any (fun i => teamFits {} k single 0 (2 ^ (k.team - i) - 1))

/-! ### Lane binding (R24) -/

/-- Groups bound to a lane. -/
def laneLoad (s : State) (core lane : Nat) : Nat := ((coreGroupsOf s core).filter (fun g => g.lane == lane)).length

/-- The lane with the fewest resident groups, the lowest on a tie. -/
def pickLane (s : State) (core : Nat) : Nat := (minBy (laneLoad s core) (List.range Config.lanes)).getD 0

/-! ### Starting groups (R61, R164) -/

/-- Bytes of the argument block, from an offset on (R61, R62). -/
def argBytes (ctx : Nat) : Nat → Nat → State → State × List Byte
  | 0, _, s => (s, [])
  | n + 1, va, s =>
    match resolvePa s homeUnit ctx va .read with
    | (s, .error _) =>
      let (s, r) := argBytes ctx n (va + 1) s
      (s, 0 :: r)
    | (s, .ok pa) =>
      let (s, r) := argBytes ctx n (va + 1) s
      (s, rdByte s pa :: r)

/-- `s0` to `s15` from the argument block (R61, R62). -/
def argScalars (s : State) (l : Launch) (k : Kernel) : State × NMap W64 :=
  let (s, bs) := argBytes l.ctx (min k.args 128) l.args s
  (s, (List.range 16).foldl (fun m i => mset 0 m i (BitVec.ofNat 64 (leVal ((bs.drop (8 * i)).take 8)))) [])

/-- A group becomes resident: bound to a lane, with a new place in the order of binding. -/
def addGroup (s : State) (g : Group) : State × Nat :=
  let gid := s.nextId
  let g := { g with lane := pickLane s g.core, bound := gid }
  ({ s with groups := mput s.groups gid g, nextId := gid + 1 }, gid)

/-- A launched thread at its start. -/
def launchedThread (l : Launch) (k : Kernel) (team grp tid : Nat) : Thread :=
  let g := (team * k.team + grp) * k.group + tid
  { pc := BitVec.ofNat 64 (k.text + k.entry), key := l.key, ctr := l.pos + BitVec.ofNat 128 (g * 2 ^ 64) }

/-- Group `grp` of a team at its start. -/
def launchedGroup (l : Launch) (k : Kernel) (lid key team grp core : Nat) (sc : NMap W64) : Group :=
  { launch := lid, team := some key, grp := grp, core := core, width := k.group, scal := sc,
    threads := (List.range k.group).map (launchedThread l k team grp) }

/-- Spill barrier entries of absent teams while a home core lacks `need` of them (R357). -/
def spillBars (home need : Nat) : List Nat → State → State
  | [], s => s
  | key :: r, s =>
    if barsUsed s home true + need ≤ Config.coreBarriers then s
    else spillBars home need r (modTeam s key (fun t => { t with spilled := true }))

/-- Make room in a barrier table. -/
def makeBars (s : State) (home need : Nat) : State :=
  spillBars home need ((openTeams s).filterMap (fun x =>
    if x.2.1.home = home ∧ !x.2.1.spilled ∧ !present s x.2.1 then some x.1 else none)) s

/-- Two runs of frames share one. -/
def runsMeet (a b : Nat × Nat) : Bool := decide (a.1 < b.1 + 4096 * b.2 ∧ b.1 < a.1 + 4096 * a.2)

/-- The pocket images of a context's teams. -/
def teamImages (s : State) (ctx : Nat) : List (Nat × Nat) :=
  (s.teams.filter (fun t => ctxOf s t.2.launch == ctx)).map (·.2.image)

/-- Memory for a team's pocket image, equal to its pocket allocation (R262, R333): the first frames of its context's region
that no other image takes and none of which is retired (R326, R403); none where the region has no room. -/
def reserveImage (s : State) (ctx : Nat) (c : Ctx) (k : Kernel) : Option (Nat × Nat) :=
  let n := (k.coarse + k.fine + 3) / 4
  if n = 0 then some (0, 0)
  else
    let taken := teamImages s ctx ++ s.retired.map (fun f => (4096 * f, 1))
    let free (i : Nat) : Bool := decide (i + n ≤ Config.imageFrames) && !taken.any (runsMeet (c.imageBase + 4096 * i, n))
    (firstOf free (rangeFrom 1 (Config.imageFrames - 1))).map (fun i => (c.imageBase + 4096 * i, n))

/-- A team starts: scratchpad zero, pockets empty, barriers and cleats in their start state, its groups resident; what
was held for it stands before its first clause (R31, R33, R39, R333, R336). -/
def startTeam (s : State) (lid : Nat) (l : Launch) (k : Kernel) (index home mask : Nat) (image : Nat × Nat) : State :=
  let key := teamKey lid index
  let s := makeBars (readRecord s l.ctx) home k.bars
  let (s, sc) := argScalars s l k
  let cfg := startCfg k.coarse k.fine
  let (s, gids) := (List.range k.team).foldl (fun (acc : State × List Nat) i =>
    let (s, gid) := addGroup acc.1 (launchedGroup l k lid key index i (if onHome mask i then home else otherCore home) sc)
    (s, acc.2 ++ [gid])) (s, [])
  let t : Team :=
    { launch := lid, index := index, cluster := clusterOf home, home := home, groups := gids, cfg := cfg, cfgNew := cfg,
      image := image }
  let s := { s with teams := mput s.teams key t }
  let held := (s.ops.filter (fun o => (opTeams s o).contains key)).map (·.id)
  let s := modTeam s key (fun t => { t with held := held })
  let gang := index / k.gang
  modLaunch s lid (fun l => { l with
    placed := l.placed + 1
    gangs := if l.gangs.any (fun x => x.1 == gang) then l.gangs else l.gangs ++ [(gang, s.time)] })

/-- A spawned thread at its start (R164). -/
def spawnedThread (l : Launch) (entry : Nat) (payload : W64) : Thread :=
  putRegs { pc := BitVec.ofNat 64 entry, key := l.key, ctr := BitVec.ofNat 128 (payload.toNat * 2 ^ 64) } 0
    (leWords 2 payload.toNat) false

/-- A ready bin's group becomes resident on its core (R42, R337); the bin is left empty. -/
def startSpawned (s : State) (core bin : Nat) : State :=
  let c := getCore s core
  let b := mget {} c.bins bin
  match b.bound with
  | none => s
  | some (lid, entry) =>
    match mfind s.launches lid, kernelOf s lid with
    | some l, some k =>
      let s := setCore s core { c with bins := mset {} c.bins bin { b with held := [], ready := false, since := 0 } }
      let (s, sc) := argScalars s l k
      (addGroup s
        { launch := lid, team := none, grp := bin, core := core, width := k.group, scal := sc
          threads := b.held.map (spawnedThread l entry)
            ++ List.replicate (k.group - b.held.length) { st := .neverLaunched } }).1
    | _, _ => s

/-! ### The end of a context (R325, R328, R386) -/

/-- What a core forgets of a destroyed context. -/
def forgetCtx (ctx : Nat) (c : Core) : Core :=
  { c with sems := c.sems.filter (fun x => x.1 / 64 != ctx), susp := c.susp.filter (· ≠ ctx),
           byCtxsw := c.byCtxsw.filter (· ≠ ctx) }

/-- A shroud drops the routines and records of a destroyed context (R290). -/
def forgetShroud (ctx : Nat) (h : Shroud) : Shroud :=
  { queue := h.queue.filter (fun q => q.ctx != ctx), held := h.held.filter (fun q => q.ctx != ctx),
    threads := h.threads.filter (fun t => t.2.ctx != ctx) }

/-- Maluk zeroes runs of frames, which clears the poison of their quarters (R103, R328). -/
def zeroFrames (rs : List (Nat × Nat)) (s : State) : State :=
  let hit (a : Nat) : Bool := rs.any (fun r => decide (r.1 ≤ a ∧ a < r.1 + 4096 * r.2))
  { s with mem := s.mem.filter (fun c => !hit c.1), pois := s.pois.filter (fun q => !hit (32 * q)) }

/-- The images of a context: the region of register and pocket images, semaphores, and the arena with the blocks that it has
been granted (R326, R328). -/
def ctxImages (c : Ctx) : List (Nat × Nat) :=
  [(c.imageBase, Config.imageFrames), (c.semImage, 1), (c.arenaBase, c.arenaBlocks - c.grown.length)]
    ++ c.grown.map (fun f => (f, 1))

/-- Maluk zeroes what a destroyed context held, and its heaps and slots are free (R328). -/
def destroyCtx (s : State) (ctx : Nat) : State :=
  let s := match mfind s.ctxs ctx with
    | some c => zeroFrames (ctxImages c) s
    | none => s
  { s with
    ctxs := mdel s.ctxs ctx
    kernels := s.kernels.filter (fun k => k.2.ctx != ctx)
    launches := s.launches.filter (fun l => l.2.ctx != ctx)
    tlb := s.tlb.filter (fun e => e.ctx != ctx)
    stale := s.stale.filter (fun t => t.ctx != ctx)
    walks := s.walks.filter (fun w => w.ctx != ctx)
    faults := s.faults.filter (fun f => f.ctx != ctx)
    heaps := s.heaps.filter (fun h => (h.2.owner.map (·.1)) != some ctx)
    cores := s.cores.map (fun x => (x.1, forgetCtx ctx x.2))
    shrouds := s.shrouds.map (fun x => (x.1, forgetShroud ctx x.2)) }

/-- A dying context goes with its last launch (R386), and a closing VI with its last context. -/
def reap (s : State) (ctx : Nat) : State :=
  match mfind s.ctxs ctx with
  | none => s
  | some c =>
    if !c.dying || s.launches.any (fun l => l.2.ctx == ctx && !l.2.ended) || s.ops.any (fun o => o.ctx == ctx) then s
    else
      let s := destroyCtx s ctx
      match mfind s.vis c.vi with
      | none => s
      | some v => if v.closing && s.ctxs.all (fun x => x.2.vi != c.vi) then { s with vis := mdel s.vis c.vi } else s

/-! ### Pre-emption and resumption (R353-R356) -/

/-- Groups of a context on a core. -/
def ctxGroups (s : State) (core ctx : Nat) : List (Nat × Group) :=
  s.groups.filter (fun g => g.2.core == core && ctxOf s g.2.launch == ctx)

/-- Every group of the context on the core has stopped at a clause boundary. -/
def stopped (s : State) (core ctx : Nat) : Bool := (ctxGroups s core ctx).all (fun g => g.2.flight.isNone)

/-- Change the bins of a core that hold threads of a context. -/
def modBins (s : State) (core ctx : Nat) (f : Bin → Bin) : State :=
  let c := getCore s core
  setCore s core { c with bins := c.bins.map (fun (i, b) =>
    (i, if !b.held.isEmpty && (b.bound.map (fun x => ctxOf s x.1)) == some ctx then f b else b)) }

/-- A claim of a core ends (R366). -/
def dropClaim (s : State) (core : Nat) : State :=
  let d := getDie s (dieOf core)
  setDie s (dieOf core) { d with claims := d.claims.filter (fun c => c.core != core) }

/-- Canvas that the grants of a queue's clauses hold (R365): share units, free units. -/
def grantedUnits (q : List CanvasWait) : Nat × Nat :=
  q.foldl (fun a w => match w.granted with
    | some (x, y) => (a.1 + x, a.2 + y)
    | none => a) (0, 0)

/-- A granted clause that leaves the queue without beginning leaves its units with the core (R365). -/
def giveBack (c : Core) (q : List CanvasWait) : Core :=
  let u := grantedUnits (c.canvas.filter (fun w => !q.contains w))
  { c with share := c.share + u.1, free := c.free + u.2 }

/-- Put a core's queue back: a new head notes the time, and the claim of the old one ends. -/
def setQueue (s : State) (core : Nat) (q : List CanvasWait) : State :=
  let c := giveBack (getCore s core) q
  let old := c.canvas.head?.map (·.gid)
  let q := match q with
    | [] => []
    | w :: r => (if w.headAt.isNone then { w with headAt := some s.time } else w) :: r
  let s := setCore s core { c with canvas := q }
  if old = q.head?.map (·.gid) then s else dropClaim s core

/-- A context is pre-empted on a core (R353), by CTXSW of a privileged context or by Maluk: its groups issue no further
clause, its clauses leave the canvas queue, its bin timers pause. -/
def preemptCore (s : State) (core ctx : Nat) (byCtxsw : Bool) : State :=
  let gs := ctxGroups s core ctx
  if (getCore s core).susp.contains ctx || (mfind s.ctxs ctx).isNone then s
  else
    let s := readRecord s ctx
    let s := gs.foldl (fun s g => modGroup s g.1 (fun g => { g with susp := true })) s
    let s := dropWalks s (fun e => match e with
      | .run gid _ _ => gs.any (fun g => g.1 == gid)
      | _ => false)
    let s := modBins s core ctx (fun b => { b with since := s.time - b.since })
    let c := getCore s core
    let s := setCore s core { c with susp := sinsert ctx c.susp, byCtxsw := if byCtxsw then sinsert ctx c.byCtxsw else c.byCtxsw }
    setQueue s core (c.canvas.filter (fun w => !gs.any (fun g => g.1 == w.gid)))

/-- The teams that a context's groups on a core bring back. -/
def backTeams (s : State) (core ctx : Nat) : List (Team × Kernel) :=
  (openTeams s).filterMap (fun x =>
    if !present s x.2.1 && (ctxGroups s core ctx).any (fun g => g.2.team == some x.1) then some x.2 else none)

/-- The core holds room for every group of the context suspended there (R356), and its teams' homes for theirs. -/
def resumeFits (s : State) (core ctx : Nat) : Bool :=
  let u := usedOn s core
  let gs := ((ctxGroups s core ctx).map (·.2)).filter away
  let ts := backTeams s core ctx
  let on (home : Nat) (f : Team × Kernel → Nat) : Nat := sumN ((ts.filter (fun x => x.1.home == home)).map f)
  decide (u.groups + gs.length ≤ Config.coreGroups)
    && decide (u.threads + sumN (gs.map (·.width)) ≤ Config.coreThreads)
    && decide (u.regs + sumN (gs.map (fun g => g.width * ((kernelOf s g.launch).map regCharge).getD 0)) ≤ Config.coreRegs)
    && [core, otherCore core].all (fun h =>
      decide (barsUsed s h false + on h (fun x => x.2.bars) ≤ Config.coreBarriers)
        && decide (pocketsUsed s h + on h (fun x => x.2.coarse + x.2.fine) ≤ Config.corePockets))
    && decide (scratchUsed s (clusterOf core) + sumN (ts.map (fun x => x.2.scratch)) ≤ Config.clusterScratch)

/-- Restore the barrier entries of a spilled team. -/
def restoreBars (s : State) (key : Nat) : State :=
  match mfind s.teams key, ((mfind s.teams key).bind (fun t => kernelOf s t.launch)) with
  | some t, some k => if t.spilled then modTeam (makeBars s t.home k.bars) key (fun t => { t with spilled := false }) else s
  | _, _ => s

/-- A suspended context resumes on a core (R355): lanes are bound afresh, the barrier entries of its teams are restored
once all of them are back, so that none of them spills another's (R357), and nothing else of its state changes. -/
def resumeCore (s : State) (core ctx : Nat) : State :=
  let gs := (ctxGroups s core ctx).filter (·.2.susp)
  let s := gs.foldl (fun s g =>
    let lane := pickLane s core
    { modGroup s g.1 (fun h => { h with susp := false, lane := lane, bound := s.nextId }) with nextId := s.nextId + 1 })
    (readRecord s ctx)
  let s := gs.foldl (fun s g => match g.2.team with
    | some key => restoreBars s key
    | none => s) s
  let s := modBins s core ctx (fun b => { b with since := s.time - b.since })
  let c := getCore s core
  setCore s core { c with susp := c.susp.filter (· ≠ ctx), byCtxsw := c.byCtxsw.filter (· ≠ ctx) }

end Sys2Proof.Machine
end

