-- ==== Sys2Proof/Machine/Semaphore.lean ====
section
/-! DEFINITION. Semaphore instructions (spec/10 R227, R228, spec/05 R98, spec/06 R113). -/

namespace Sys2Proof.Machine

/-- The core and index that a target word names (R227). -/
def semTarget (core w : Nat) : Except Trap (Nat × Nat) :=
  if w / 2 ^ 16 ≠ 0 then .error { code := cFIELD }
  else if !bitOf w 15 then .ok (core, bitsOf w 5 0)
  else if 48 ≤ bitsOf w 11 6 then .error { code := cFIELD }
  else .ok (bitsOf w 14 12 * Config.coresPerDie + bitsOf w 11 6, bitsOf w 5 0)

/-- The operations in flight on a semaphore of the threads that count as executing an instruction (R105; R120: kept for the same
semaphore). -/
def semDeps (s : State) (cx : Cx) (tid core index : Nat) : List Nat :=
  (cx.by tid).flatMap (fun t =>
    (s.ops.filter (fun o => isOwn (cx.who t) o && semOf o == some (core, cx.ctx, index))).map (·.id))

/-- What a release waits for, less the operations on other semaphores (R120). -/
def semRelease (s : State) (cx : Cx) (tid core index : Nat) : List Dep :=
  (relDeps s cx tid cx.m.scope.toNat).filter (fun d => match findOp s d.op with
    | none => true
    | some o => match semOf o with
      | none => true
      | some k => k == (core, cx.ctx, index))

/-- SEMINC and SEMSET (R228): the steps of a run are taken in ascending `tid`. -/
def semIncRun (s : State) (cx : Cx) (set : Bool) : State :=
  asyncExec s cx cx.setb 1 false (fun tid => do
    let w ← readA s cx tid false
    let b ← readLate (readB s cx tid false)
    let (core, i) ← liftT (semTarget cx.g.core w)
    pure { kind := fun _ => .semInc core cx.ctx i (BitVec.ofNat 32 (b.getD 0)) set,
           deps := semRelease s cx tid core i ++ performed (semDeps s cx tid core i), after := fun tok s => ofExecution s cx.gid tok })

/-- A semaphore of the issuing core (R228). -/
def ownSem (core w : Nat) : Except Trap Nat :=
  match semTarget core w with
  | .error t => .error t
  | .ok (_, i) => if bitOf w 15 then .error { code := cFIELD } else .ok i

/-- SEMRD (R228): SMW with threshold 0. -/
def semRdRun (s : State) (cx : Cx) : State :=
  asyncExec s cx cx.seta 1 true (fun tid => do
    let w ← readA s cx tid false
    let i ← liftT (ownSem cx.g.core w)
    pure { kind := fun d => .semRead cx.g.core cx.ctx i d, deps := performed (semDeps s cx tid cx.g.core i),
           after := fun tok s => ofExecution s cx.gid tok, acquire := true })

/-- SEMWAIT (R228): each thread waits until the value reaches its threshold; under U = 1 the lowest-numbered thread's
word and threshold serve the whole run. -/
def semWaitRun (s : State) (cx : Cx) : State :=
  let r := readAll s cx (fun tid => do
    let w ← readA s cx tid false
    let b ← readLate (readB s cx tid false)
    let i ← liftT (ownSem cx.g.core w)
    settleRd
    if !depsDone s (cx.fence tid) || !(semDeps s cx tid cx.g.core i).isEmpty then stallRd false
    pure (i, b.getD 0)) false (if cx.uni then [cx.low] else cx.fl.run)
  match r.stall with
  | some b => stallRun s cx b
  | none =>
    match cx.uni, r.traps with
    | true, (_, t) :: _ => trapWhole s cx true t
    | _, _ =>
      let s := trapRun (touchAll s cx r.got) cx false r.traps
      let waits : List (Nat × Nat × Nat) :=
        if cx.uni then (r.got.head?.toList).flatMap (fun g => cx.fl.run.map (fun t => (t, g.val)))
        else r.got.map (fun g => (g.tid, g.val))
      let s := r.got.foldl (fun s g => modThread s cx.gid g.tid (fun _ => g.work.th)) s
      let s := waits.foldl (fun s (t, i, b) =>
        modThread s cx.gid t (fun th => { th with
          st := if b ≤ (semVal s cx.g.core cx.ctx i).toNat then .ready else .waiting (.sem i b) })) s
      let next := nextHeader cx.fl.hdr (hLen cx.fl.w0)
      modGroup s cx.gid (fun g => endClause g (waits.map (fun w => (w.1, next))) false)

/-- SEMINC (R228). -/
def execSeminc (f : FR) (s : State) := coreR 0x124 f s (fun cx => semIncRun s cx false)
/-- The twin of the above (R134). -/
def execSemincTwin (f : FR) (m : Mod) (s : State) := coreT 0x124 f m s (fun cx => semIncRun s cx false)
/-- SEMWAIT (R228). -/
def execSemwait (f : FR) (s : State) := coreR 0x125 f s (fun cx => semWaitRun s cx)
/-- The twin of the above (R134). -/
def execSemwaitTwin (f : FR) (m : Mod) (s : State) := coreT 0x125 f m s (fun cx => semWaitRun s cx)
/-- SEMSET (R228). -/
def execSemset (f : FR) (s : State) := coreR 0x126 f s (fun cx => semIncRun s cx true)
/-- The twin of the above (R134). -/
def execSemsetTwin (f : FR) (m : Mod) (s : State) := coreT 0x126 f m s (fun cx => semIncRun s cx true)
/-- SEMRD (R228). -/
def execSemrd (f : FR) (s : State) := coreR 0x127 f s (fun cx => semRdRun s cx)
/-- The twin of the above (R134). -/
def execSemrdTwin (f : FR) (m : Mod) (s : State) := coreT 0x127 f m s (fun cx => semRdRun s cx)

end Sys2Proof.Machine
end

