-- ==== Sys2Proof/Machine/System.lean ====
section
/-! DEFINITION. System instructions (spec/20 R358-R361): trap return, the trap record, counters, sequence slots and the
privileged operations. -/

namespace Sys2Proof.Machine

/-! ### Trap return and the trap record (R348, R349, R359, R383) -/

/-- Slots of the clause at a header, as the chain of the text section lays them out (R123). -/
def clauseLen (k : Kernel) (hdr : W64) : Nat :=
  let off := hdr.toNat - k.text
  let next := (firstOf (fun o => decide (off < o)) k.chain).getD k.size
  (next - off - 8) / 4

/-- Where `TRET` leads a thread (R359, R383). -/
def tretPoint (k : Kernel) (skip : Bool) (h : Handler) : W64 :=
  if skip && h.code != cTELLTALE then skipPoint h (clauseLen k h.clause) else h.point

/-- The trap that `TRET` raises for a thread: ILLEGAL outside handler mode, ILLEGAL_TARGET where the text section has
no next clause. -/
def tretTrap (k : Kernel) (skip : Bool) (t : Thread) : Option Trap :=
  match t.handler with
  | none => some { code := cILLEGAL }
  | some h =>
    let p := tretPoint k skip h
    if p.toNat < k.text + k.size then none else some { code := cTARGET }

/-- TRET (R359): each thread returns to its own point. -/
def tretRun (s : State) (cx : Cx) : State :=
  let skip := cx.f.a.toNat == 1
  let bad := cx.fl.run.filterMap (fun t => (tretTrap cx.k skip (thread cx.g t)).map (fun tr => (t, tr)))
  let go := cx.fl.run.filterMap (fun t => match tretTrap cx.k skip (thread cx.g t), (thread cx.g t).handler with
    | none, some h => some (t, tretPoint cx.k skip h)
    | _, _ => none)
  let s := trapRun s cx false bad
  let s := go.foldl (fun s x => modThread s cx.gid x.1 (fun t => { t with handler := none })) s
  modGroup s cx.gid (fun g => endClause g go false)

/-- Word i of the trap record (R348). -/
def trapWord (r : TrapRec) (i : Nat) : Nat := leVal ((trapBytes r).drop (4 * i) |>.take 4)

/-- TRRD (R358). It reads no thread register, so bit U has no effect (R131). -/
def trrdRun (s : State) (cx : Cx) : State :=
  laneExec s cx.each true (fun t => pure (trapWord (thread cx.g t).trap cx.f.a.toNat)) (fun _ g => out32 g.val)

/-- CYCRD (R358, R360). -/
def cycrdRun (s : State) (cx : Cx) : State :=
  laneExec s cx true (fun _ => pure s.timebase.toNat) (fun _ g => out64 g.val)

/-- A performance counter of the group (R358). -/
def perfCounter (g : Group) (i : Nat) : W64 :=
  match i with
  | 0 => g.stalls
  | 1 => g.clauses
  | 2 => g.canvasCycles
  | _ => g.tlbMisses

/-- PERFRD (R358). -/
def perfrdRun (s : State) (cx : Cx) : State :=
  laneExec s cx true (fun _ => pure (perfCounter cx.g cx.f.a.toNat).toNat) (fun _ g => out64 g.val)

/-! ### Sequence slots (R358, R381, R383) -/

/-- SEQBIND (R358, R383). -/
def seqbindRun (s : State) (cx : Cx) : State :=
  laneExec s cx false (fun t => do
    match (thread cx.g t).seq with
    | some k => if tripped s k then trapRd { code := cPRIV }
    | none => pure ()
    let a ← readA s cx t false
    if a = 0xFFFFFFFF then pure none
    else if cx.c.seqCount ≤ a then trapRd { code := cFIELD }
    else pure (some (cx.c.seqBase + a))) (fun _ g => { upd := fun t => { t with seq := g.val } })

/-- SEQRD (R358); bit U as in TRRD. -/
def seqrdRun (s : State) (cx : Cx) : State :=
  laneExec s cx.each true (fun t => pure (match (thread cx.g t).seq with
    | some k => (seqWord s k).toNat
    | none => 0)) (fun _ g => out32 g.val)

/-! ### Privileged operations (R358, R360, R361) -/

/-- A system register as `PRIVRD` reads it (R360). -/
def sysReg (s : State) (core sel : Nat) : Nat :=
  match sel with
  | 0 => dieOf core * 64 + core % Config.coresPerDie
  | 1 => s.timebase.toNat
  | 2 => ((s.groups.filter (fun g => g.2.core == core)).map (fun g =>
      (g.2.threads.filter (fun t => match t.st with
        | .parked _ => true
        | _ => false)).length)).foldl (· + ·) 0
  | 3 => 64 - ((s.teams.filter (fun t => t.2.home == core && !t.2.ended && !t.2.spilled)).map (fun t =>
      ((kernelOf s t.2.launch).map (·.bars)).getD 0)).foldl (· + ·) 0
  | _ => Config.evqSlots - s.evq.length

/-- PRIVRD (R360): the selector says how wide D is. -/
def privrdRun (s : State) (cx : Cx) : State :=
  asyncExec s cx cx.seta 1 true (fun t => do
    let sel ← readA s cx t false
    let code := cx.f.d.toNat
    let n := if sel = 1 then 2 else 1
    if 5 ≤ sel ∨ !pairOk (sel == 1) code then trapRd { code := cILLEGAL }
    let w ← get
    let u : Use := ⟨code, n, false, true⟩
    match boundsOf cx.k.regs w.th.wb [u] with
    | some tr => trapRd tr
    | none => if pendingUse cx.g w.th u then stallRd true else pure ()
    pure { kind := fun d => .system (.read sel d), n := some n })

/-- PRIVWR (R360): a read-only selector raises ILLEGAL. -/
def privwrRun (s : State) (cx : Cx) : State :=
  asyncExec s cx cx.setb 1 false (fun t => do
    let sel ← readA s cx t false
    let v ← readB s cx t true
    if sel ≠ 1 then trapRd { code := cILLEGAL }
    pure { kind := fun _ => .system (.write sel (BitVec.ofNat 64 v)) })

/-- TLBINV (R361). -/
def tlbinvRun (s : State) (cx : Cx) : State :=
  asyncExec s cx cx.setb 1 false (fun t => do
    let va ← readA s cx t true
    let w ← readB s cx t false
    if bitsOf w 30 12 ≠ 0 then trapRd { code := cFIELD }
    pure { kind := fun _ => .system (.tlbInv va (bitsOf w 11 0) (bitOf w 31) false) })

/-- CTXSW (R353, R356): pre-empts or resumes a context on the issuing core. -/
def ctxswRun (s : State) (cx : Cx) : State :=
  asyncExec s cx cx.setb 1 false (fun t => do
    let id ← readA s cx t false
    pure { kind := fun _ => .system (if cx.f.b.toNat = 0 then .preempt id false else .resume id) })

/-- CACHEFL (R358): after the core's stores to the sector. -/
def cacheflRun (s : State) (cx : Cx) : State :=
  asyncExec s cx cx.setb 1 false (fun t => do
    let va ← readA s cx t true
    let ls ← liftT (globalLocs s cx va 1 .read)
    touch va
    let pa := match ls with
      | .g pa :: _ => pa
      | _ => 0
    pure { kind := fun _ => .system (.flush pa), locs := (rangeFrom (pa / 1024 * 1024) 1024).map .g, stores := true })

/-- POISCLR (R358, R103). -/
def poisclrRun (s : State) (cx : Cx) : State :=
  asyncExec s cx cx.setb 1 false (fun t => do
    let va ← readA s cx t true
    alignRd va va 32
    let ls ← liftT (globalLocs s cx va 32 .write)
    touch va
    let pa := match ls with
      | .g pa :: _ => pa
      | _ => 0
    pure { kind := fun _ => .system (.clearPoison pa), locs := ls, stores := true })

/-- HALT (R358). -/
def haltRun (s : State) (cx : Cx) : State :=
  asyncExec s cx cx.setb 1 false (fun t => do
    let w ← readA s cx t false
    let (core, _) ← liftT (semTarget cx.g.core w)
    pure { kind := fun _ => .system (.halt core) })

/-- EVPOST (R358). -/
def evpostRun (s : State) (cx : Cx) : State :=
  asyncExec s cx cx.setb 1 true (fun t => do
    let vi ← readA s cx t false
    let code ← readB s cx t false
    if 64 ≤ vi then trapRd { code := cFIELD }
    pure { kind := fun d => .system (.event vi code d) })

/-- A queued event goes to its endpoint (R358, R388, R391). -/
def deliverEvent (s : State) : State :=
  match s.evq with
  | [] => s
  | q :: r =>
    let s := { s with evq := r }
    match mfind s.vis q.vi with
    | none => s
    | some v => post s { kind := 0x89, vi := q.vi, endpoint := q.endpoint.getD v.endpoint, op := false, body := q.body }

/-- TRET (R359). -/
def execTret (f : FR) (s : State) := coreR 0x160 f s (fun cx => tretRun s cx)
/-- TRRD (R358). -/
def execTrrd (f : FR) (s : State) := coreR 0x161 f s (fun cx => trrdRun s cx)
/-- CYCRD (R358). -/
def execCycrd (f : FR) (s : State) := coreR 0x162 f s (fun cx => cycrdRun s cx)
/-- PERFRD (R358). -/
def execPerfrd (f : FR) (s : State) := coreR 0x163 f s (fun cx => perfrdRun s cx)
/-- SEQBIND (R358). -/
def execSeqbind (f : FR) (s : State) := coreR 0x164 f s (fun cx => seqbindRun s cx)
/-- SEQRD (R358). -/
def execSeqrd (f : FR) (s : State) := coreR 0x165 f s (fun cx => seqrdRun s cx)
/-- PRIVRD (R358). -/
def execPrivrd (f : FR) (s : State) := coreR 0x166 f s (fun cx => privrdRun s cx)
/-- PRIVWR (R358). -/
def execPrivwr (f : FR) (s : State) := coreR 0x167 f s (fun cx => privwrRun s cx)
/-- TLBINV (R361). -/
def execTlbinv (f : FR) (s : State) := coreR 0x168 f s (fun cx => tlbinvRun s cx)
/-- CTXSW (R358). -/
def execCtxsw (f : FR) (s : State) := coreR 0x169 f s (fun cx => ctxswRun s cx)
/-- CACHEFL (R358). -/
def execCachefl (f : FR) (s : State) := coreR 0x16A f s (fun cx => cacheflRun s cx)
/-- POISCLR (R358). -/
def execPoisclr (f : FR) (s : State) := coreR 0x16B f s (fun cx => poisclrRun s cx)
/-- HALT (R358). -/
def execHalt (f : FR) (s : State) := coreR 0x16C f s (fun cx => haltRun s cx)
/-- EVPOST (R358). -/
def execEvpost (f : FR) (s : State) := coreR 0x16D f s (fun cx => evpostRun s cx)

end Sys2Proof.Machine
end

