-- ==== Sys2Proof/Machine/Complete.lean ====
section
/-! DEFINITION. The events that complete operations in flight: loads and other results (spec/03 R59, R60), writes at their
home (spec/05 R87, R94, R95), atomics (R97), engine lines, copies, calls and drains (spec/05 R99-R101, spec/10 R242,
spec/11 R268, R278-R281), commit rounds (spec/02 R37) and arena notices (spec/19 R339). An event whose operation is not
there, or is not ready, leaves the state as it is. -/

namespace Sys2Proof.Machine

/-! ### Ready operations -/

/-- The operation may act: what it waits for has come about, no store of its core's L1 stands before it at the home, the
scratchpads it names exist (R39), and held operations before it have been performed. -/
def opReady (s : State) (o : Op) : Bool :=
  depsDone s o.deps && !l1Blocked s o && (opTeams s o).all (fun t => (mfind s.teams t).isSome) && !heldBefore s o.id

/-- Issued operations complete: always, but for those that a thermal shutdown has cut off (R405). -/
def powered (s : State) : Bool :=
  match s.boot with
  | .shutdown t => decide (s.time < t)
  | _ => true

/-- An event on an operation. -/
def onOp (s : State) (id : Nat) (f : Op → State) : Host.Outcome State Fault Refusal :=
  match findOp s id with
  | none => .next s
  | some o => .next (if opReady s o && powered s then f o else s)

/-- An operation is over: its lines are released (R99), its notice is gone, its flag count falls, and bins that its
launch's end leaves are launched (R43); a dying context may go (R325). -/
def endOp (s : State) (o : Op) : State :=
  reap (binFlush (finishOp { s with
    owned := s.owned.filter (fun l => l.2 != o.id)
    notices := s.notices.filter (· ≠ o.id)
    refused := s.refused.filter (· ≠ o.id) } o) o.launch) o.ctx

/-- The threads that issued an operation: each thread of a uniform run (R57). -/
def issuers (o : Op) : List Tid :=
  match o.who with
  | .thread t => if o.run.isEmpty then [t] else o.run.map (fun i => { gid := t.gid, tid := i })
  | _ => []

/-- The operation fails: its pending walks are discarded (R345), and a deferred trap waits at each thread that issued it
(R256). -/
def failOp (s : State) (o : Op) (code addr info2 : Nat) : State :=
  noteDeferred (dropWalks s (· == .op o.id)) o.launch (issuers o)
    { code := code, flag := o.flag, opcode := o.opcode, addr := BitVec.ofNat 64 addr, info2 := BitVec.ofNat 32 info2 }

/-- A location is owned by an engine (R99). -/
def anyOwned (s : State) (ls : List Loc) : Bool := ls.any (ownedLoc s)

/-! ### Results (R59, R60) -/

/-- The value a load delivers: sign-extended for the signed narrow types (R216); `fmt` is as Cx.loadFmt says. -/
def loadValue (fmt v : Nat) : Nat :=
  match fmt % 16 with
  | 2 => wrapN 32 (sext 8 v)
  | 4 => wrapN 32 (sext 16 v)
  | _ => v

/-- The orientation that a load reads in (R92, R93): ROW, or COL for the element size of an LDO. -/
def loadOrient (fmt : Nat) : Nat := if 8 ≤ fmt % 16 then ilog2 (4 / 2 ^ (fmt % 8)) + 1 else 0

/-- The caches that a load fills: the core's L1 unless it is not allocated there, and those behind it. -/
def loadFill (s : State) (o : Op) (fmt : Nat) (locs : List Loc) : State :=
  match locs with
  | .g pa :: _ => fillFrom s o.core o.ctx (loadOrient fmt) pa (decide (fmt < 16))
  | _ => s

/-- A column line or a tile is read from the sector: a core that reads it keeps no older copy of its quarters (R94, R96). -/
def readFresh (s : State) (core : Nat) (locs : List Loc) : State :=
  (dedupN (locs.filterMap (fun l => match l with
    | .g pa => some (quarterOf pa)
    | .s _ _ => none))).foldl (fun s q => freshQuarter s core q) s

/-- A result that is poisoned and that field D discards has no register to mark: its threads raise POISON as a deferred trap
(R103, R213; notes/assumptions/15.md). -/
def latePoison (s : State) (o : Op) (ds : List Dst) (p : Bool) : State :=
  if p && ds.all (fun d => d.regs.isEmpty && d.scal.isNone) then failOp s o cPOISON 0 0 else s

/-- Units that count errors: HBM4 stacks 0-15, cores 16-399, clusters 400-591, then the L2s and remote-data caches of the dies,
the LLCs of the base dies, and the shrouds 624-751 (R401; notes/assumptions/25.md). -/
def cacheCounter (unit : Nat) : Nat := if unit < Config.cores then 16 + unit else 208 + unit
def shroudCounter (k : Nat) : Nat := 624 + k
def counters : Nat := 752

/-- Count an ECC error of a unit (R401). -/
def countUnit (s : State) (e : Ecc) (unit : Nat) : State :=
  let (c, u) := mget (0, 0) s.eccUnits unit
  match e with
  | .clean => s
  | .corrected => { s with eccUnits := mput s.eccUnits unit (c + 1, u) }
  | .uncorrectable => { s with eccUnits := mput s.eccUnits unit (c, u + 1) }

/-- Count an ECC error of a quarter, by its stack and by its frame; an uncorrectable one marks the quarter (R401, R403). -/
def countEcc (s : State) (e : Ecc) (pa : Nat) : State :=
  let k := pa / 4096
  let s := countUnit s e (stackOf pa)
  match e with
  | .clean => s
  | .corrected => { s with eccC := mset [] s.eccC k (mget [] s.eccC k ++ [s.time]) }
  | .uncorrectable => setPoison { s with eccU := mset 0 s.eccU k (mget 0 s.eccU k + 1) } (quarterOf pa) true

/-- A pocket table's parts of a key are poisoned. -/
def poisonKey (key : Nat) (r : Region) : Region :=
  let f (p : Part) : Part := if p.key = key then { p with pois := true } else p
  { ways := r.ways.map (fun x => (x.1, f x.2)), chains := r.chains.map (fun x => (x.1, x.2.map (·.map f))) }

/-- ECC finds an error in a register of a shroud thread. -/
def strikeShroud (s : State) (e : Ecc) (k t : Nat) (f : SThread → SThread) : State :=
  let h := getShroud s k
  match mfind h.threads t with
  | none => s
  | some x =>
    let s := countUnit s e (shroudCounter k)
    if e = .uncorrectable then setShroud s k { h with threads := mput h.threads t (f x) } else s

/-- ECC finds an error in a word (R401): it is counted; an uncorrectable one poisons a quarter, a register, a pocket. Of another
word it is counted alone: no rule says what it does there (notes/assumptions/25.md). -/
def strike (s : State) (p : Place) (e : Ecc) : State :=
  let bad := e == .uncorrectable
  match p with
  | .quarter q => if q < 2 ^ 43 then countEcc s e (32 * q) else s
  | .cached unit q =>
    if s.cached.any (fun l => l.unit == unit && (if unit < 400 then l.holds q else l.sector == q / 32)) then
      let s := countUnit s e (cacheCounter unit)
      if bad then setPoison s q true else s
    else s
  | .word unit => if unit < counters then countUnit s e unit else s
  | .scal gid r =>
    match getGroup s gid with
    | none => s
    | some g =>
      let s := countUnit s e (16 + g.core)
      if bad && decide (r < 16) then modGroup s gid (fun g => { g with spois := sinsert r g.spois }) else s
  | .sreg k t r => strikeShroud s e k t (fun x => if r = 0 then x else { x with npois := sinsert r x.npois })
  | .svec k t r i => strikeShroud s e k t (fun x => { x with vpois := mset 0 x.vpois r (Nat.lor (mget 0 x.vpois r) (2 ^ (i % 16))) })
  | .reg gid tid r =>
    match getGroup s gid with
    | none => s
    | some g =>
      let s := countUnit s e (16 + g.core)
      if bad then modThread s gid tid (fun t => { t with rpois := sinsert r t.rpois }) else s
  | .pocket team coarse key =>
    match mfind s.teams team with
    | none => s
    | some t =>
      let s := countUnit s e (16 + t.home)
      if !bad then s
      else modTeam s team (fun t =>
        if coarse then { t with coarse := poisonKey key t.coarse } else { t with fine := poisonKey key t.fine })
  | .scratch team pos rot =>
    match mfind s.teams team with
    | none => s
    | some t =>
      let s := countUnit s e (400 + t.cluster)
      if bad then poisonScratch s team (quarterWords rot pos) true else s

/-- The ECC of the first quarter that a read of these locations reaches; `strike` finds an error anywhere else. -/
def readEcc (s : State) (e : Ecc) (locs : List Loc) : State :=
  match locs with
  | .g pa :: _ => countEcc s e pa
  | _ => s

/-- A load returns (R59): its value, as its thread sees memory now, and its poison. -/
def loadDone (s : State) (o : Op) (locs : List Loc) (fmt : Nat) (d : Dst) (e : Ecc) : State :=
  if anyOwned s locs then s
  else
    let s := readEcc s e locs
    let s := if loadOrient fmt = 0 then s else readFresh s o.core locs
    let v := loadValue fmt (leVal (locs.map (seenByte s o.core o.ctx o.who o.id)))
    let p := locs.any (seenPoison s o.core o.ctx o.who)
    endOp (loadFill (arrive (latePoison s o [d] p) d v p) o fmt locs) o

/-- LDV (R96, R222): the tile goes to the scratchpad and its version to D. -/
def tileReadDone (s : State) (o : Op) (pa team : Nat) (addr : W32) (d : Dst) (e : Ecc) : State :=
  let gl := (rangeFrom pa 1024).map Loc.g
  if anyOwned s gl then s
  else
    let s := readFresh (readEcc s e gl) o.core gl
    let bs := gl.map (homeByte s)
    let parts := pieces 32 ((tileScratch team addr).zip bs)
    let s' := ((List.range 32).zip parts).foldl (fun s' x =>
      performPart s' .home 0 x.2 (isPoisoned s (quarterOf pa + x.1)) (saddr addr.toNat).rot) s
    endOp (arrive s' d (version s (sectorOf pa)) false) o

/-- PLUP performed (R265). -/
def lookupDone (s : State) (o : Op) (team key : Nat) (coarse : Bool) (elem : Nat) (d : Dst) : State :=
  match (mfind s.teams team).bind (fun t => regionOf t coarse) with
  | none => endOp (arrivePreds (arrive (failOp s o cARENA 0 0) d 0 false) d false) o
  | some (r, lg) =>
    let c := combine (partsOf r lg key)
    let v := match c with
      | none => 0
      | some p => (p.val.getD (if coarse then elem else 0) 0).toNat
    endOp (arrivePreds (arrive s d v (c.any (·.pois))) d c.isSome) o

/-- PRD performed (R266). -/
def prdDone (s : State) (o : Op) (team key : Nat) (addr : W32) (d : Dst) : State :=
  match (mfind s.teams team).bind (fun t => regionOf t true) with
  | none => endOp (arrive (failOp s o cARENA 0 0) d 0 false) o
  | some (r, lg) =>
    let c := combine (partsOf r lg key)
    let bs := match c with
      | none => List.replicate 4096 0
      | some p => p.val.flatMap (fun v => leBytes 4 v.toNat)
    let p := c.any (·.pois)
    endOp (arrive (callWrite s team addr.toNat 0 bs p) d ((if c.isSome then 1 else 0) + (if p then 2 ^ 31 else 0)) false) o

/-- A heap under release is emptied, and its request answered, when no operation on it is left (R338). -/
def endRelease (s : State) (k : Nat) : State :=
  match (getHeap s k).releasing with
  | none => s
  | some (vi, seq) =>
    if (heapDeps s k).isEmpty then
      { setHeap s k {} with
        responses := s.responses ++ [{ kind := 0x11, vi := vi, seq := seq, status := 0, body := [], at_ := s.outN }]
        outN := s.outN + 1 }
    else s

/-- A heap operation is over. -/
def endHeap (s : State) (o : Op) (k : Nat) : State := endRelease (endOp s o) k

/-- What HTAKE and HPEEK return for an entry: REQ low, COST high (R287). -/
def heapPair (e : Option HeapEnt) : Nat :=
  match e with
  | none => 0xFFFFFFFF
  | some e => e.req.toNat + 2 ^ 32 * e.cost.toNat

/-- LOAD_COMPLETE (R59): a load, a tile read, a pocket read, a semaphore read, a heap read or a system read returns. -/
def execLoadComplete (id : Nat) (e : Ecc) (s : State) : Host.Outcome State Fault Refusal := onOp s id (fun o =>
  match o.kind with
  | .load locs fmt d => loadDone s o locs fmt d e
  | .tileRead pa t a d => tileReadDone s o pa t a d e
  | .pocket (.lookup k c i d) t => lookupDone s o t k c i d
  | .pocket (.read k a d) t => prdDone s o t k a d
  | .semRead c x i d => endOp (arrive s d (semVal s c x i).toNat false) o
  | .heap h (.peek d) => endHeap (arrive s d (heapPair (getHeap s h).ents.head?) false) o h
  | .heap h (.size d) => endHeap (arrive s d (getHeap s h).ents.length false) o h
  | .system (.read n d) => endOp (arrive s d (sysReg s o.core n) false) o
  | _ => s)

/-- LONG_OP_RESULT (R59). -/
def execLongOpResult (id : Nat) (s : State) : Host.Outcome State Fault Refusal := onOp s id (fun o =>
  match o.kind with
  | .long d v => endOp (arrive s d v false) o
  | _ => s)

/-! ### Writes (R87, R94, R95) -/

/-- Who writes: an operation of a core, a shroud, or a port (R87, R102). -/
def writerOf (o : Op) : Writer :=
  match o.who with
  | .thread _ => if o.core < Config.cores then .core o.core o.id else .home
  | .shroud _ _ => .shroud
  | .port _ => .home

/-- A store of a thread may be written into its core's L1 (R88): what it waits for has come about, or stands there before
it. -/
def l1Ready (s : State) (o : Op) : Bool :=
  o.l1.isNone && decide (o.core < Config.cores) && !(storedBytes o).isEmpty && depsDone s o.deps

/-- A store is written into its core's L1, from where every group of the core sees it (R88, R107). -/
def writeL1 (s : State) (id : Nat) : State :=
  match findOp s id with
  | none => s
  | some o => if l1Ready s o && powered s then putOp { s with nextId := s.nextId + 1 } { o with l1 := some s.nextId } else s

/-- A copy that a performed write has left behind is invalidated (R87). -/
def invalCopy (s : State) (unit q : Nat) : State :=
  if s.stale.any (fun t => t.unit == unit && t.quarter == q) then invalQuarter s unit q else s

/-- A thread that waits for a record sees its POSTED bit (R250), and an operation that is over ends. -/
def wroteEnd (s : State) (o : Op) : State := wakeTasks (endOp s o)

/-- Every destination line of an engine is its own. -/
def holdsAll (s : State) (id : Nat) (lines : List Nat) : Bool := lines.all (fun l => s.owned.contains (l, id))

/-- The lines of pieces that are still to be written, in ascending order. -/
def partLines (ps : List (List (Loc × Byte))) : List Nat := linesOf (partLocs ps)

/-- A store may not write a piece: a port's put holds all its lines (R99, R101, R393), another's line is no engine's. -/
def partBlocked (s : State) (o : Op) (ps : List (List (Loc × Byte))) (p : List (Loc × Byte)) : Bool :=
  match o.who with
  | .port _ => !holdsAll s o.id (partLines ps)
  | _ => anyOwned s (p.map (·.1))

/-- A put leaves each line that it has written (R99). -/
def leaveLines (s : State) (o : Op) (ps : List (List (Loc × Byte))) : State :=
  { s with owned := s.owned.filter (fun x => x.2 != o.id || (partLines ps).contains x.1) }

/-- One piece of a store is performed. -/
def storePart (s : State) (o : Op) (ps : List (List (Loc × Byte))) (pois : List Bool) (part : Nat)
    (put : List (List (Loc × Byte)) → List Bool → OpKind) (last : State → State) : State :=
  match ps[part]? with
  | none => if ps.isEmpty then wroteEnd (last s) o else s
  | some p =>
    if partBlocked s o ps p then s
    else
      let s := performPart s (writerOf o) 0 p (pois.getD part false)
      let ps := ps.eraseIdx part
      let s := leaveLines s o ps
      if ps.isEmpty then wroteEnd (last s) o else wakeTasks (putOp s { o with kind := put ps (pois.eraseIdx part) })

/-- `.go` (R246): the record is dispatched once its write is performed, when its count is zero. -/
def goLast (o : Op) (va : Nat) (s : State) : State :=
  match resolvePa s homeUnit o.ctx va .write with
  | (s, .error _) => s
  | (s, .ok pa) => if rdMem s pa 4 = 0 then dispatchRecord s o.ctx va pa else s

/-- Write all quarters of a sector as one operation (R95): its version rises by 2 in all. -/
def writeSector (s : State) (w : Writer) (pa : Nat) (bs : List Byte) (pois : List Bool) : State :=
  let s := dropCached s (fun l => l.sector == sectorOf pa && l.orient != 0 && decide (l.unit < 400))
  let s := (List.range 32).foldl (fun s q => acceptCopies s w (quarterOf pa + q)) s
  let s := { s with cached := (rangeFrom pa 1024).foldl (fun ls a => markDirty ls 0 a) s.cached }
  let s := bumpVersion (wrBytes s pa bs) (sectorOf pa) 2
  ((List.range 32).zip pois).foldl (fun s x => setPoison s (quarterOf pa + x.1) x.2) s

/-- STT (R223): the source is read when the first quarter is performed; `part` names the quarter. -/
def tilePart (s : State) (o : Op) (pa team : Nat) (addr : W32) (aon : Bool) (data : Option (List Byte)) (pois : List Bool)
    (left : List Nat) (d : Dst) (part : Nat) : State :=
  if anyOwned s ((rangeFrom pa 1024).map Loc.g) then s
  else
    let ls := tileScratch team addr
    let (bs, ps) := match data with
      | some bs => (bs, pois)
      | none => (ls.map (seenByte s o.core o.ctx o.who o.id), (pieces 32 (ls.map (fun l => (l, 0)))).map (fun p =>
          p.any (fun x => seenPoison s o.core o.ctx o.who x.1)))
    if aon then
      let s := writeSector s (writerOf o) pa bs ps
      wroteEnd (arrive s d (version s (sectorOf pa)) false) o
    else if !left.contains part then s
    else
      let q := ((rangeFrom (pa + 32 * part) 32).map Loc.g).zip ((bs.drop (32 * part)).take 32)
      let s := performPart s (writerOf o) 0 q (ps.getD part false)
      let left := left.filter (· ≠ part)
      if left.isEmpty then wroteEnd (arrive s d (version s (sectorOf pa)) false) o
      else wakeTasks (putOp s { o with kind := .tileWrite pa team addr aon (some bs) ps left d })

/-- A pocket operation that changes the table, at its place in the pocket order (R263, R264, R267). -/
def pocketDone (s : State) (o : Op) (p : PocketOp) (team : Nat) : State :=
  match p with
  | .cfg w =>
    let s := setRegion (setRegion s o.ctx team false {}) o.ctx team true {}
    endOp (modTeam s team (fun t => { t with cfg := w })) o
  | .add k v count =>
    match addTable s o.id o.ctx team false [{ key := k, val := [v], count := count, pois := false }] with
    | .ok s => endOp s o
    | .wait s => s
    | .fail s code a i => endOp (failOp s o code a i) o
  | .del k coarse d =>
    match (mfind s.teams team).bind (fun t => regionOf t coarse) with
    | none => endOp (arrive (failOp s o cARENA 0 0) d 0 false) o
    | some (r, lg) =>
      let there := !(partsOf r lg k).isEmpty
      endOp (arrive (setRegion s o.ctx team coarse (dropKey r lg k)) d (if there then 1 else 0) false) o
  | .clear sel =>
    let on (c : Bool) : Bool := ((mfind s.teams team).bind (fun t => regionOf t c)).isSome
    let s := if sel ≠ 2 ∧ on true then setRegion s o.ctx team true {} else s
    let s := if sel ≠ 1 ∧ on false then setRegion s o.ctx team false {} else s
    endOp s o
  | _ => s

/-- Insert an entry in deadline order, after equal deadlines (R286). -/
def heapInsert (e : HeapEnt) (h : Heap) : Heap := { h with ents := insBy (·.deadline) e h.ents }

/-- The status of a push, and the heap after it. Where several apply the status is the first in R287's order of words
(notes/assumptions/42.md). -/
def heapPush (deadline : Nat) (req cost : W32) (h : Heap) : Nat × Heap :=
  if Config.heapEntries ≤ h.ents.length then (1, h)
  else if req = 0xFFFFFFFF then (2, h)
  else if h.ents.any (fun e => e.req == req) then (3, h)
  else (0, heapInsert { deadline := deadline, req := req, cost := cost } h)

/-- A write of BUD (R287). -/
def heapBudget (v : W32) (add : Bool) (h : Heap) : Heap := { h with bud := if add then satAdd32 h.bud v else v }

/-- Heap operations that change the heap (R287). -/
def heapDone (s : State) (o : Op) (k : Nat) (op : HeapOp) : State :=
  let h := getHeap s k
  match op with
  | .push dl req cost d =>
    let (st, h') := heapPush dl req cost h
    endHeap (arrive (setHeap s k h') d st false) o k
  | .take d =>
    match h.ents with
    | e :: r => if e.cost ≤ h.bud then endHeap (arrive (setHeap s k { h with ents := r, bud := h.bud - e.cost }) d (heapPair (some e)) false) o k
      else endHeap (arrive s d (heapPair none) false) o k
    | [] => endHeap (arrive s d (heapPair none) false) o k
  | .budget v add => endHeap (setHeap s k (heapBudget v add h)) o k
  | .remove req d =>
    endHeap (arrive (setHeap s k { h with ents := h.ents.filter (fun e => e.req != req) }) d
      (if h.ents.any (fun e => e.req == req) then 1 else 0) false) o k
  | _ => s

/-! ### Privileged operations performed (R353-R361) -/

/-- An operation makes accesses through translations: an access, an engine's, or a privileged one's of a sector or
quarter. -/
def translates (o : Op) : Bool :=
  isAccess o || isEngine o || (match o.kind with
    | .system (.flush _) => true
    | .system (.clearPoison _) => true
    | _ => false)

/-- TLBINV (R361): translations leave and walks restart; then it waits for every access of the context that is in flight,
those that a removed translation has served among them (notes/assumptions/36.md). -/
def tlbInvSend (s : State) (o : Op) (va ctx : Nat) (all : Bool) : State :=
  let uses (p : Op) : Bool := p.ctx == ctx && p.id != o.id && translates p
  let s := { s with
    tlb := s.tlb.filter (fun e => !(e.ctx == ctx && (all || decide (e.page ≤ va ∧ va < e.page + e.size))))
    walks := s.walks.map (fun w => if w.ctx = ctx then { w with going := false } else w) }
  putOp s { o with deps := performed ((s.ops.filter uses).map (·.id)), kind := .system (.tlbInv va ctx all true) }

/-- A privileged operation at its place. -/
def systemDone (s : State) (o : Op) (p : SysOp) : State :=
  match p with
  | .write sel v => endOp (if sel = 1 then { s with timebase := v } else s) o
  | .tlbInv va ctx all sent => if sent then endOp s o else tlbInvSend s o va ctx all
  | .preempt ctx sent =>
    if sent then (if stopped s o.core ctx then endOp s o else s)
    else putOp (preemptCore s o.core ctx true) { o with kind := .system (.preempt ctx true) }
  | .resume ctx =>
    if !(getCore s o.core).susp.contains ctx then endOp s o
    else if resumeFits s o.core ctx then endOp (resumeCore s o.core ctx) o else s
  | .flush pa => endOp (dropCached s (fun l => l.sector == sectorOf pa)) o
  | .clearPoison pa =>
    if anyOwned s [.g pa] then s
    else wroteEnd (performQuarter s (writerOf o) 0 ((rangeFrom pa 32).map (fun a => (a, 0))) false) o
  | .halt core => endOp (setCore s core { getCore s core with halted := true }) o
  | .event vi code d =>
    if Config.evqSlots ≤ s.evq.length then endOp (arrive s d 1 false) o
    else endOp (arrive { s with evq := s.evq ++ [{ vi := vi, body := pad8 (leBytes 4 code) }] } d 0 false) o
  | .read _ _ => s

/-- The response, OK or BAD_REQUEST, to a POST_GRAPH that has waited for a line (R389), before the events that the post causes. -/
def graphAnswer (s : State) (vi seq status : Nat) : State :=
  { s with
    responses := s.responses ++ [{ kind := 0x0D, vi := vi, seq := seq, status := status, body := [], at_ := s.outN }]
    outN := s.outN + 1 }

/-- WRITE_PERFORM (R87): a piece of a store or tile is accepted at its home; or a semaphore increment, a post, or an
operation on pockets, a heap or the system takes its place. -/
def execWritePerform (id part : Nat) (s : State) : Host.Outcome State Fault Refusal := onOp s id (fun o =>
  match o.kind with
  | .store ps pois => storePart s o ps pois part (fun ps pois => .store ps pois) (fun s => s)
  | .go va ps => storePart s o ps [] part (fun ps _ => .go va ps) (goLast o va)
  | .tileWrite pa t a aon data pois left d => tilePart s o pa t a aon data pois left d part
  | .semInc c x i v set => endOp (setSem s c x i (if set then v else satAdd32 (semVal s c x i) v)) o
  | .post va locs => if anyOwned s locs then s else endOp (postRecord s o.ctx va) o
  | .release va =>
    match resolvePa s homeUnit o.ctx va .write with
    | (_, .error _) => endOp s o
    | (s', .ok pa) => if ownedLine s' pa then s else endOp (releaseHeld s' o.ctx va) o
  | .graph vi seq va =>
    match resolvePa s homeUnit o.ctx va .write with
    | (_, .error _) => endOp (graphAnswer s vi seq 1) o
    | (s', .ok pa) => if ownedLine s' pa then s else endOp (postRecord (graphAnswer s' vi seq 0) o.ctx va) o
  | .pocket p t => pocketDone s o p t
  | .heap h p => heapDone s o h p
  | .system p => systemDone s o p
  | _ => s)

/-! ### Atomics (R97, R247) -/

/-- The lanes of a request applied in ascending `tid`: the final value, and what each lane found. -/
def atomSteps (op : Nat) : List ALane → Nat → Nat × List (ALane × Nat)
  | [], v => (v, [])
  | l :: r, v =>
    let (w, rest) := atomSteps op r (atomNew (op / 8) (op % 8) v l.x l.y)
    (w, (l, v) :: rest)

/-- An atomic request at its home, as one write (R97). -/
def atomicDone (s : State) (o : Op) (locs : List Loc) (op : Nat) (lanes : List ALane) : State :=
  if anyOwned s locs then s
  else
    let p := locs.any (locPoisoned s)
    let (v, found) := atomSteps op (sortBy (·.tid) lanes) (leVal (locs.map (homeByte s)))
    let s := readFresh (performPart s (writerOf o) 0 (locs.zip (leBytes locs.length v)) false) o.core locs
    wroteEnd (found.foldl (fun s x => arrive s x.1.dst x.2 p) (latePoison s o (lanes.map (·.dst)) p)) o

/-- TGLINK at the record's home (R247). -/
def linkDone (s : State) (o : Op) (succ : Nat) (locs : List Loc) (d : Dst) : State :=
  if anyOwned s locs then s
  else
    match locs.head?, (locs.drop 128).head? with
    | some (.g pa), some (.g sp) =>
      if bitOf (rdMem s (pa + 4) 4) 2 then wroteEnd (arrive s d 1 false) o
      else
        let n := rdMem s (pa + 0x20) 4
        if 11 ≤ n then wroteEnd (arrive s d 2 false) o
        else
          let w := writerOf o
          let s := wrWordBy s w sp ((rdMem s sp 4 + 1) % 2 ^ 32)
          let a := pa + 0x28 + 8 * n
          let s := performQuarter s w 0 ((rangeFrom a 8).zip (leBytes 8 succ)) false
          wroteEnd (arrive (readFresh (wrWordBy s w (pa + 0x20) ((n + 1) % 2 ^ 32)) o.core locs) d 0 false) o
    | _, _ => s

/-- ATOMIC_PERFORM (R97). -/
def execAtomicPerform (id : Nat) (s : State) : Host.Outcome State Fault Refusal := onOp s id (fun o =>
  match o.kind with
  | .atomic locs op _ lanes => atomicDone s o locs op lanes
  | .link _ succ locs d => linkDone s o succ locs d
  | _ => s)

/-! ### Engine lines and copies (R99-R101, R239-R242) -/

/-- An engine issued earlier by the same core shares a line and does not hold all of its own (R101, rule 2). -/
def earlierEngine (s : State) (o : Op) (lines : List Nat) : Bool :=
  s.ops.any (fun p => p.core == o.core && decide (p.id < o.id) && isEngine p
    && (engineLines s p).any (fun l => lines.contains l) && !holdsAll s p.id (engineLines s p))

/-- The engine's next line in ascending order, when no other engine owns it (R101). -/
def acquireNext (s : State) (o : Op) (lines : List Nat) : State :=
  match lines.find? (fun l => !s.owned.contains (l, o.id)) with
  | none => s
  | some l => if s.owned.any (fun x => x.1 == l) || earlierEngine s o lines then s
    else { s with owned := s.owned ++ [(l, o.id)] }

/-- ENGINE_LINE_ACQUIRE (R101): a drain's lines are those its place in the pocket order gives. -/
def execEngineLineAcquire (id : Nat) (s : State) : Host.Outcome State Fault Refusal := onOp s id (fun o =>
  match o.kind with
  | .copy _ true _ => acquireNext s o (engineLines s o)
  | .store ps _ => (match o.who with
    | .port _ => acquireNext s o (partLines ps)
    | _ => s)
  | .drain d t _ =>
    let (s, es, _) := drainPlan s o d t
    let lines := planLines es
    acquireNext (putOp s { o with kind := .drain { d with placed := true } t lines }) o lines
  | _ => s)

/-- FORBID bits: destinations with a forbidden page (R238). -/
def forbidBits (es : List Elem) : Nat :=
  (List.range 16).foldl (fun m i => if es.any (fun e => match e.dst[i]? with
    | some d => d.locs.isNone
    | none => false) then m + 2 ^ i else m) 0

/-- An older copy of the cluster waits for the byte budget (R370). -/
def olderCopy (s : State) (o : Op) : Bool :=
  s.ops.any (fun p => decide (p.id < o.id) && clusterOf p.core == clusterOf o.core && opReady s p
    && !exhausted s p.ctx && (match p.kind with
      | .copy _ false _ => true
      | _ => false))

/-- A copy with a destination list checks its pages as it reaches them; `.strict` aborts on a forbidden one (R240). -/
def copyReach (s : State) (o : Op) (c : Copy) : State × Copy :=
  let (s, es) := resolveElems o.core o.ctx c.esize (.op o.id) true c.elems s
  let f := forbidBits es
  let abort := c.strict && f != 0
  (s, { c with elems := if abort then [] else es, forbid := f, abort := abort })

/-- COPY_ISSUE (R242): byte budget and quota cover it, and no older copy of the cluster waits (R370-R372). It reads when every
store that its core sees now has been performed for every agent (R115). -/
def execCopyIssue (id : Nat) (s : State) : Host.Outcome State Fault Refusal := onOp s id (fun o =>
  match o.kind with
  | .copy c false ls =>
    let k := clusterOf o.core
    let cl := getCluster s k
    if cl.balance ≤ 0 || exhausted s o.ctx || olderCopy s o then s
    else
      let s := chargeQuota (setCluster s k { cl with balance := cl.balance - c.charge }) o.ctx c.charge
      let (s, c) := copyReach s o c
      putOp s { o with deps := visibleDeps s o.core o.ctx .all, kind := .copy c true ls }
  | _ => s)

/-- COPY_COMPLETE (R242): writes, then the completion increment, the status, the flag. -/
def execCopyComplete (id : Nat) (s : State) : Host.Outcome State Fault Refusal := onOp s id (fun o =>
  match o.kind with
  | .copy c true _ =>
    if !holdsAll s o.id (engineLines s o) then s
    else
      let (s, st) := copyPerform s o c
      wroteEnd (arrive (complete s o.ctx c.compl) c.dst st false) o
  | _ => s)

/-! ### Calls and drains (R268, R278-R281) -/

/-- A call is over: its signers' counts fall (R34); a dying context may go (R325). -/
def endCall (s : State) (o : Op) (sg : List Signer) : State :=
  reap (lowerSigners { dropOp s o.id with
    notices := s.notices.filter (· ≠ o.id)
    refused := s.refused.filter (· ≠ o.id) } sg) o.ctx

/-- The end of a call's work: a failed call leaves a deferred trap at each signer (R256). -/
def callEnd (o : Op) (sg : List Signer) (w : Work1) : State :=
  match w with
  | .ok s => endCall s o sg
  | .wait s => s
  | .fail s code a i =>
    endCall (sg.foldl (fun s x => noteDeferred s o.launch [x.who]
      { code := code, flag := x.flag, opcode := o.opcode, addr := BitVec.ofNat 64 a, info2 := BitVec.ofNat 32 i })
      (dropWalks s (· == .op o.id))) o sg

/-- MMA_COMPLETE (R278). -/
def execMmaComplete (id : Nat) (s : State) : Host.Outcome State Fault Refusal := onOp s id (fun o =>
  match o.kind with
  | .call c t sg ranks => if 0x140 ≤ c.opcode % 512 ∧ c.opcode % 512 ≤ 0x142 then callEnd o sg (mmaPerform s o c t sg ranks) else s
  | _ => s)

/-- JOIN_COMPLETE (R279). -/
def execJoinComplete (id : Nat) (s : State) : Host.Outcome State Fault Refusal := onOp s id (fun o =>
  match o.kind with
  | .call c t sg _ => if c.opcode % 512 = 0x143 then callEnd o sg (addTable s o.id o.ctx t false (joinAdds s t c)) else s
  | _ => s)

/-- NORM_COMPLETE (R281). -/
def execNormComplete (id : Nat) (s : State) : Host.Outcome State Fault Refusal := onOp s id (fun o =>
  match o.kind with
  | .call c t sg _ => if c.opcode % 512 = 0x14C then callEnd o sg (.ok (normPerform s o c t)) else s
  | _ => s)

/-- PDRN_COMPLETE (R268). -/
def execPdrnComplete (id : Nat) (s : State) : Host.Outcome State Fault Refusal := onOp s id (fun o =>
  match o.kind with
  | .drain d t _ =>
    let (s', es, bad) := drainPlan s o d t
    if !holdsAll s' o.id (planLines es) then s
    else
      let gone := ((mfind s'.teams t).bind (fun t => regionOf t (!d.fine))).isNone
      let (s', st) := drainPerform s' o d t es bad.isSome
      let s' := match bad, gone with
        | some (va, r), _ => failOp s' o cPAGE va r
        | none, true => failOp s' o cARENA 0 0
        | none, false => s'
      wroteEnd (arrive (complete s' o.ctx d.compl) d.dst st false) o
  | _ => s)

/-! ### Commit rounds and arena notices -/

/-- CMT_ROUND_CLOSE (R37). -/
def execCmtRoundClose (team cleat : Nat) (s : State) : Host.Outcome State Fault Refusal := .next (commitClose s team cleat)

/-- ARENA_BLOCK_NOTICE (R339): the oldest notice receives a block, a frame of its own, while ARENA_BLOCKS is below ARENA_MAX and
Maluk has a frame. -/
def execArenaBlockNotice (s : State) : Host.Outcome State Fault Refusal :=
  match s.notices with
  | [] => .next s
  | id :: r =>
    let s := { s with notices := r }
    match findOp s id with
    | none => .next s
    | some o =>
      match mfind s.ctxs o.ctx with
      | none => .next s
      | some c =>
        match if c.arenaBlocks < c.arenaMax then allocFrame s else none with
        | some (f, s) => .next (modRecord s o.ctx (fun c => { c with arenaBlocks := c.arenaBlocks + 1, grown := c.grown ++ [f] }))
        | none => .next { s with refused := s.refused ++ [id] }

end Sys2Proof.Machine
end

