-- ==== Sys2Proof/Machine/Crypto.lean ====
section
/-! DEFINITION. The checks of signatures (spec/23 R385, spec/24 R398-R400): SHA-256 and SHA-384 (FIPS 180-4), ECDSA on P-384
(FIPS 186-5), and LMS with LMS_SHA256_M32_H20 and LMOTS_SHA256_N32_W8 (RFC 8554). Byte orders and encodings that the spec leaves
to those documents are big-endian (notes/assumptions/39.md). -/

namespace Sys2Proof.Machine

/-- Big-endian value of a list of bytes, and the n bytes of a value. -/
def beVal (bs : List Byte) : Nat := leVal bs.reverse
def beBytes (n v : Nat) : List Byte := (leBytes n v).reverse

/-! ### SHA-2 -/

/-- The first 80 primes: up to 409 a number is prime if no smaller prime below 20 divides it. -/
def shaPrimes : List Nat :=
  (List.range 410).filter (fun n => n > 1 && [2, 3, 5, 7, 11, 13, 17, 19].all (fun d => n % d != 0 || n == d))

/-- The largest r below 2^n with r^k at most v, bit by bit. -/
def rootBelow (k v : Nat) : Nat → Nat → Nat
  | 0, r => r
  | n + 1, r => rootBelow k v n (if (r + 2 ^ n) ^ k ≤ v then r + 2 ^ n else r)

/-- The first n bits of the fraction of the k-th root of p, which SHA-2 takes its constants from (FIPS 180-4, 4.2 and 5.3). -/
def rootBits (n k p : Nat) : Nat := rootBelow k (p * 2 ^ (n * k)) (n + 5) 0 % 2 ^ n

/-- Round constants: cube roots of primes. Initial values: square roots of primes, for SHA-384 the ninth to the sixteenth. -/
def sha256K : List Nat := (shaPrimes.take 64).map (rootBits 32 3)
def sha384K : List Nat := shaPrimes.map (rootBits 64 3)
def sha256Iv : List Nat := (shaPrimes.take 8).map (rootBits 32 2)
def sha384Iv : List Nat := ((shaPrimes.drop 8).take 8).map (rootBits 64 2)

/-- A member of SHA-2: its word width, constants and initial value, and the rotations of its four functions; the last of the
small ones is a shift. -/
structure Sha where
  width : Nat
  k : List Nat
  iv : List Nat
  big0 : Nat × Nat × Nat
  big1 : Nat × Nat × Nat
  small0 : Nat × Nat × Nat
  small1 : Nat × Nat × Nat

def sha256Kind : Sha := ⟨32, sha256K, sha256Iv, (2, 13, 22), (6, 11, 25), (7, 18, 3), (17, 19, 10)⟩
def sha384Kind : Sha := ⟨64, sha384K, sha384Iv, (28, 34, 39), (14, 18, 41), (1, 8, 7), (19, 61, 6)⟩

/-- The big and the small functions on a word. -/
def shaBig {w : Nat} (r : Nat × Nat × Nat) (x : BitVec w) : BitVec w :=
  x.rotateRight r.1 ^^^ x.rotateRight r.2.1 ^^^ x.rotateRight r.2.2
def shaSmall {w : Nat} (r : Nat × Nat × Nat) (x : BitVec w) : BitVec w :=
  x.rotateRight r.1 ^^^ x.rotateRight r.2.1 ^^^ x >>> r.2.2

/-- One round: the eight working variables and the next 16 words of the schedule. -/
def shaRound (c : Sha) (st : List (BitVec c.width) × List (BitVec c.width)) (k : Nat) :
    List (BitVec c.width) × List (BitVec c.width) :=
  match st.1 with
  | [a, b, cc, d, e, f, g, h] =>
    let m (i : Nat) : BitVec c.width := st.2.getD i 0
    let t1 := h + shaBig c.big1 e + ((e &&& f) ^^^ (~~~e &&& g)) + BitVec.ofNat c.width k + m 0
    let t2 := shaBig c.big0 a + ((a &&& b) ^^^ (a &&& cc) ^^^ (b &&& cc))
    ([t1 + t2, a, b, cc, d + t1, e, f, g],
      st.2.drop 1 ++ [shaSmall c.small1 (m 14) + m 9 + shaSmall c.small0 (m 1) + m 0])
  | _ => st

/-- One block of 16 words. -/
def shaBlock (c : Sha) (h : List (BitVec c.width)) (block : List Byte) : List (BitVec c.width) :=
  let n := c.width / 8
  let m := (List.range 16).map (fun i => BitVec.ofNat c.width (beVal ((block.drop (n * i)).take n)))
  List.zipWith (· + ·) h (c.k.foldl (shaRound c) (h, m)).1

/-- The padded message. -/
def shaPad (c : Sha) (m : List Byte) : List Byte :=
  let n := c.width / 8
  let z := (16 * n - (m.length + 1 + 2 * n) % (16 * n)) % (16 * n)
  m ++ 0x80 :: List.replicate z 0 ++ beBytes (2 * n) (8 * m.length)

/-- The blocks of a padded message in turn. -/
def shaBlocks (c : Sha) : Nat → List Byte → List (BitVec c.width) → List (BitVec c.width)
  | 0, _, h => h
  | n + 1, bs, h => shaBlocks c n (bs.drop (2 * c.width)) (shaBlock c h (bs.take (2 * c.width)))

/-- A digest of n words. -/
def shaOf (c : Sha) (n : Nat) (m : List Byte) : List Byte :=
  let p := shaPad c m
  ((shaBlocks c (p.length / (2 * c.width)) p (c.iv.map (BitVec.ofNat c.width))).take n).flatMap
    (fun w => beBytes (c.width / 8) w.toNat)

def sha256 (m : List Byte) : List Byte := shaOf sha256Kind 8 m
def sha384 (m : List Byte) : List Byte := shaOf sha384Kind 6 m

/-! ### ECDSA on P-384 -/

/-- The curve: its prime, the order of its base point, its coefficient b (a is -3) and the base point. -/
def p384P : Nat := 2 ^ 384 - 2 ^ 128 - 2 ^ 96 + 2 ^ 32 - 1
def p384N : Nat := 0xFFFFFFFFFFFFFFFFFFFFFFFFFFFFFFFFFFFFFFFFFFFFFFFFC7634D81F4372DDF581A0DB248B0A77AECEC196ACCC52973
def p384B : Nat := 0xB3312FA7E23EE7E4988E056BE3F82D19181D9C6EFE8141120314088F5013875AC656398D8A2ED19D2A85C8EDD3EC2AEF
def p384G : Nat × Nat :=
  (0xAA87CA22BE8B05378EB1C71EF320AD746E1D3B628BA79B9859F741E082542A385502F25DBF55296C3A545E3872760AB7,
    0x3617DE4A96262C6F5D9E98BF9292DC29F8F41DBD289A147CE9DA3113B5F0B8C00A60B1CE1D7E819D7A431D7C90EA0E5F)

/-- b to the power e modulo m, for an exponent of 384 bits. -/
def powMod (m b e : Nat) : Nat :=
  (List.range 384).foldl (fun acc i => if bitOf e (383 - i) then acc * acc % m * b % m else acc * acc % m) 1

/-- The inverse modulo a prime. -/
def invMod (m x : Nat) : Nat := powMod m x (m - 2)

/-- The third point of a line of a slope through two points, mirrored. -/
def ecThird (slope : Nat) (p q : Nat × Nat) : Nat × Nat :=
  let x := (slope * slope + (p384P - p.1) + (p384P - q.1)) % p384P
  (x, (slope * (p.1 + (p384P - x)) + (p384P - p.2)) % p384P)

/-- The sum of two points; none is the point at infinity. -/
def ecAdd : Option (Nat × Nat) → Option (Nat × Nat) → Option (Nat × Nat)
  | none, q => q
  | p, none => p
  | some p, some q =>
    if p.1 = q.1 then
      if p.2 = q.2 ∧ p.2 ≠ 0 then
        some (ecThird ((3 * p.1 * p.1 + (p384P - 3)) * invMod p384P (2 * p.2) % p384P) p q)
      else none
    else some (ecThird ((q.2 + (p384P - p.2)) * invMod p384P (q.1 + (p384P - p.1)) % p384P) p q)

/-- k times a point. -/
def ecMul (k : Nat) (p : Nat × Nat) : Option (Nat × Nat) :=
  (List.range 384).foldl (fun acc i => if bitOf k (383 - i) then ecAdd (ecAdd acc acc) (some p) else ecAdd acc acc) none

/-- A point of the curve. -/
def onCurve (p : Nat × Nat) : Bool :=
  decide (p.1 < p384P ∧ p.2 < p384P) && p.2 * p.2 % p384P == (p.1 * p.1 * p.1 + (p384P - 3) * p.1 + p384B) % p384P

/-- SIG_ECDSA, r then s, is a signature of a message by a key. -/
def ecdsaOk (key : Nat × Nat) (m sig : List Byte) : Bool :=
  let r := beVal (sig.take 48)
  let t := beVal (sig.drop 48)
  let w := invMod p384N t
  let point := ecAdd (ecMul (beVal (sha384 m) * w % p384N) p384G) (ecMul (r * w % p384N) key)
  sig.length == 96 && onCurve key && decide (1 ≤ r ∧ r < p384N ∧ 1 ≤ t ∧ t < p384N) && point.any (fun p => p.1 % p384N == r)

/-- A public key as bytes: x, then y. -/
def ecdsaKeyBytes (key : Nat × Nat) : List Byte := beBytes 48 key.1 ++ beBytes 48 key.2

/-! ### LMS (RFC 8554) -/

/-- An LMS public key: its identifier and the root of its tree. -/
structure LmsKey where
  ident : List Byte
  root : List Byte

/-- A public key as bytes: the two typecodes, I, T[1]. -/
def lmsKeyBytes (k : LmsKey) : List Byte := beBytes 4 8 ++ beBytes 4 4 ++ k.ident ++ k.root

/-- A hash of the tree: I, a number, a tag, the rest. -/
def lmsHash (k : LmsKey) (n tag : Nat) (rest : List Byte) : List Byte := sha256 (k.ident ++ beBytes 4 n ++ beBytes 2 tag ++ rest)

/-- The end of chain i from the value at position a. -/
def lmotsChain (k : LmsKey) (q i a : Nat) (y : List Byte) : List Byte :=
  (List.range (255 - a)).foldl (fun t j => lmsHash k q i (beBytes 1 (a + j) ++ t)) y

/-- The candidate for the one-time key of leaf q: C and the 34 chains' values. -/
def lmotsCandidate (k : LmsKey) (q : Nat) (c ys m : List Byte) : List Byte :=
  let d := lmsHash k q 0x8181 (c ++ m)
  let v := d ++ beBytes 2 ((d.map (fun b => 255 - b.toNat)).foldl (· + ·) 0)
  lmsHash k q 0x8080 ((List.range 34).flatMap (fun i =>
    lmotsChain k q i (v.getD i 0).toNat ((ys.drop (32 * i)).take 32)))

/-- The root that a path of 20 nodes reaches from a node. -/
def lmsRoot (k : LmsKey) (path : List Byte) (node : Nat) (leaf : List Byte) : List Byte :=
  ((List.range 20).foldl (fun (x : Nat × List Byte) i =>
    let p := (path.drop (32 * i)).take 32
    (x.1 / 2, lmsHash k (x.1 / 2) 0x8383 (if x.1 % 2 = 1 then p ++ x.2 else x.2 ++ p))) (node, leaf)).2

/-- SIG_LMS is a signature of a message by a key. -/
def lmsOk (k : LmsKey) (m sig : List Byte) : Bool :=
  let q := beVal (sig.take 4)
  let node := 2 ^ 20 + q
  let kc := lmotsCandidate k q ((sig.drop 8).take 32) ((sig.drop 40).take 1088) m
  sig.length == 1772 && decide (q < 2 ^ 20) && beVal ((sig.drop 4).take 4) == 4 && beVal ((sig.drop 1128).take 4) == 8
    && lmsRoot k (sig.drop 1132) node (lmsHash k node 0x8282 kc) == k.root

end Sys2Proof.Machine
end

