-- ==== Sys2Proof/Machine/Issue.lean ====
section
/-! DEFINITION. The issue of clauses: which group a lane chooses (spec/02 R27, R29, R30), the canvas queue and its grants
(R28, spec/21 R365, R372), the header check (spec/07 R126), and the deferred traps of a clause's first slot (spec/11
R256). -/

namespace Sys2Proof.Machine

/-! ### The clause a group would issue -/

/-- The clause that holds a counter: its header, and the slot at which a run there begins (R123, R347). -/
def clauseAt (k : Kernel) (pc : W64) : W64 × Nat :=
  let off := pc.toNat - k.text
  let h := (k.chain.filter (fun o => decide (o ≤ off))).foldl max 0
  (BitVec.ofNat 64 (k.text + h), if off ≤ h then 0 else (off - h - 8) / 4)

/-- The yield count is zero when the head run's membership or anything outside it has changed (R29). -/
def yieldFresh (g : Group) : Group :=
  let h := headRun g
  let r := restOf g h
  if h == g.yHead && r == g.yRest then g else { g with yHead := h, yRest := r, yCount := 0 }

/-- What a group would issue: its run, where it stands, its clause's header words, and the trap of its header. -/
structure Issue where
  run : List Nat
  pc : W64
  isHead : Bool
  hdr : W64
  slot : Nat
  w0 : W32
  w1 : W32
  fault : Option Trap
  check : Bool         -- the fault is a failed header check (R126)
  deriving DecidableEq, Repr

/-- The run of a group's next clause: the yield run at a yield, else the head run (R21, R29, R30). -/
def nextRun (g : Group) : Option (List Nat × W64 × Bool) :=
  let head := match minPc (readyPcs g) with
    | none => none
    | some p => some (headRun g, p, true)
  if g.yNow || decide (64 ≤ g.yCount) then
    match yieldRun g with
    | some (run, p) => some (run, p, false)
    | none => head
  else head

/-- The clause of a run: its header is fetched and checked. -/
def issueAt (s : State) (g : Group) (k : Kernel) (ctx : Nat) (r : List Nat × W64 × Bool) : Issue :=
  let (hdr, slot) := clauseAt k r.2.1
  let i : Issue :=
    { run := r.1, pc := r.2.1, isHead := r.2.2, hdr := hdr, slot := slot, w0 := 0, w1 := 0, fault := none, check := false }
  match fetchWord s g.core ctx hdr, fetchWord s g.core ctx (hdr + 4) with
  | .error t, _ => { i with fault := some t }
  | _, .error t => { i with fault := some t }
  | .ok w0, .ok w1 =>
    { i with w0 := w0, w1 := w1, fault := (headerTrap w0 w1).map (fun c => { code := c }), check := true }

/-- The clause that a group would issue now, at a clause boundary of a group that may issue. -/
def planIssue (s : State) (g : Group) : Option Issue :=
  if g.susp || g.flight.isSome then none
  else
    match mfind s.launches g.launch, kernelOf s g.launch, nextRun (yieldFresh g) with
    | some l, some k, some r => some (issueAt s g k l.ctx r)
    | _, _, _ => none

/-- Canvas that the clause waits for; a clause whose header fails waits for none (R126). -/
def issueNeed (i : Issue) : Nat := if i.fault.isSome then 0 else hCanvas i.w0

/-- Eligible but for canvas (R27): the flags of its WAIT mask are zero, and what was held for its team's start has been
performed (R39). -/
def otherwiseEligible (s : State) (g : Group) (i : Issue) : Bool :=
  (i.fault.isSome || flagsZero g (hWait i.w0)) && (match g.team.bind (mfind s.teams) with
    | some t => heldDone s t
    | none => true)

/-! ### The canvas queue (R28, R365, R372) -/

/-- A queue's entry for a group after a look at what the group would issue. -/
def queueEntry (s : State) (q : List CanvasWait) (gid : Nat) (g : Group) : List CanvasWait :=
  let want := match planIssue s g with
    | none => none
    | some i => if 0 < issueNeed i ∧ otherwiseEligible s g i ∧ !exhausted s (ctxOf s g.launch) then some i else none
  match want with
  | none => q.filter (fun w => w.gid != gid)
  | some i =>
    let e : CanvasWait := { gid := gid, need := issueNeed i, pc := i.pc }
    if q.any (fun w => w.gid == gid && w.pc == e.pc && w.need == e.need) then q
    else q.filter (fun w => w.gid != gid) ++ [e]

/-- Groups of a core in the order of binding. -/
def boundGroups (s : State) (core : Nat) : List (Nat × Group) :=
  sortBy (fun x => x.2.bound) (s.groups.filter (fun x => x.2.core == core && !x.2.susp))

/-- Clauses that have become otherwise eligible enter the core's queue, those of one step in the order of binding
(notes/assumptions/10.md), and clauses that no group would issue leave it. -/
def refreshQueue (s : State) (core : Nat) : State :=
  let gs := boundGroups s core
  let q := (getCore s core).canvas.filter (fun w => gs.any (fun g => g.1 == w.gid))
  setQueue s core (gs.foldl (fun q g => queueEntry s q g.1 g.2) q)

/-- The canvas queues after a step: each clause that has become otherwise eligible in it enters its core's queue (R28). -/
def settle (s : State) : State :=
  (sunion (s.cores.map (·.1)) (s.groups.map (·.2.core))).foldl refreshQueue s

/-- Units a core holds (R363), those of a granted clause that has not begun among them (notes/assumptions/10.md). -/
def held (c : Core) : Nat := c.share + c.free + (grantedUnits c.canvas).1 + (grantedUnits c.canvas).2

/-- CANVAS_GRANT (R365): the head is granted when the core holds its units, which move to the clause, share units first. -/
def execCanvasGrant (core : Nat) (s : State) : Host.Outcome State Fault Refusal :=
  let s := refreshQueue s core
  let c := getCore s core
  match c.canvas with
  | [] => .next s
  | w :: r =>
    if w.granted.isSome || decide (c.share + c.free < w.need) then .next s
    else
      let a := min c.share w.need
      .next (dropClaim (setCore s core { c with
        share := c.share - a
        free := c.free - (w.need - a)
        canvas := { w with granted := some (a, w.need - a) } :: r }) core)

/-- A granted clause begins: the units of its grant are spent (R365), and it leaves the queue. -/
def spendCanvas (s : State) (core gid : Nat) : State :=
  let c := getCore s core
  let u := grantedUnits (c.canvas.filter (fun w => w.gid == gid))
  let q := c.canvas.map (fun w => if w.gid = gid then { w with granted := none } else w)
  let s := setCore s core { c with canvas := q, spentShare := c.spentShare + u.1, spentFree := c.spentFree + u.2 }
  setQueue s core (q.filter (fun w => w.gid != gid))

/-! ### The choice of a group (R27) -/

/-- The group may issue its clause now. -/
def eligible (s : State) (gid : Nat) (g : Group) : Bool :=
  match planIssue s g with
  | none => false
  | some i => otherwiseEligible s g i && (issueNeed i == 0
      || (getCore s g.core).canvas.any (fun w => w.gid == gid && w.granted.isSome))

/-- The groups of a lane in rotation order after the one that issued last in its turn. A clause issued by a grant leaves
the rotation where it stands, which the bound of R44 asks for (notes/assumptions/34.md). -/
def rotation (s : State) (core lane : Nat) : List (Nat × Group) :=
  let gs := (boundGroups s core).filter (fun x => x.2.lane == lane)
  match mfind (getCore s core).last lane with
  | none => gs
  | some b => gs.filter (fun x => decide (b < x.2.bound)) ++ gs.filter (fun x => decide (x.2.bound ≤ b))

/-- Rule 2 of R27: the next eligible group; groups that used a grant are passed over once. -/
def inTurn (s : State) : List (Nat × Group) → List Nat → Option Nat × List Nat
  | [], passed => (none, passed)
  | (gid, g) :: r, passed =>
    if g.passOver then inTurn s r (passed ++ [gid])
    else if eligible s gid g then (some gid, passed)
    else inTurn s r passed

/-- The group a lane issues next, whether it uses a grant, and the groups that the rotation passes over. -/
def choose (s : State) (core lane : Nat) : Option (Nat × Bool) × List Nat :=
  let gs := rotation s core lane
  let granted := gs.filter (fun x => x.2.grant.isSome && !x.2.passOver && eligible s x.1 x.2)
  match minBy (fun x => x.2.grant.getD 0) granted with
  | some x => (some (x.1, true), [])
  | none =>
    match inTurn s gs [] with
    | (some gid, passed) => (some (gid, false), passed)
    | (none, passed) =>
      ((inTurn s (gs.map (fun x => (x.1, { x.2 with passOver := false }))) []).1.map (fun g => (g, false)), passed)

/-! ### A clause begins -/

/-- A thread of the run raises its first deferred trap at the clause's first slot (R256). -/
def firstSlotTraps (s : State) (gid : Nat) (i : Issue) (core ctx lid : Nat) : State :=
  let ext := match fetchWord s core ctx (slotAddr i.hdr i.slot) with
    | .ok w => isTwin w
    | .error _ => false
  let a : TrapAt := { hdr := i.hdr, slot := i.slot, opcode := 0, ext := ext, uniform := false, header := false }
  i.run.foldl (fun s t =>
    match takeDeferred (namedBy (hWait i.w0)) (threadAt s { gid := gid, tid := t }).deferred with
    | none => s
    | some (d, r) =>
      takeTraps (modThread s gid t (fun th => { th with deferred := r })) (kernelOf s lid) ctx lid gid a [(t, deferTrap d)]) s

/-- The yield state after the choice (R29, R30): a yield uses up the count, and moves the cursor to its run. -/
def afterChoice (g : Group) (i : Issue) : Group :=
  let g := yieldFresh g
  let g := if g.yNow || decide (64 ≤ g.yCount) then { g with yNow := false, yCount := 0 } else g
  if i.isHead then g else { g with yCursor := i.pc }

/-- The run begins its clause, or takes its header's trap. -/
def beginClause (s : State) (gid : Nat) (g : Group) (i : Issue) : State :=
  let ctx := ctxOf s g.launch
  let s := modGroup s gid (fun g => { afterChoice g i with
    clauses := g.clauses + 1
    flight := some { run := i.run, hdr := i.hdr, w0 := i.w0, w1 := i.w1, slot := i.slot, sum := 0, isHead := i.isHead } })
  let s := [i.hdr, i.hdr + 4].foldl (fun s va => touchTlb s gid g.core ctx i.slot va.toNat) s
  match i.fault with
  | some t =>
    let a : TrapAt := { hdr := i.hdr, slot := if i.check then 0 else i.slot, opcode := 0x3FF, ext := false, uniform := false, header := true }
    let s := takeTraps s (kernelOf s g.launch) ctx g.launch gid a (i.run.map (fun x => (x, t)))
    modGroup s gid (fun g => endClause g [] false)
  | none =>
    let s := firstSlotTraps s gid i g.core ctx g.launch
    modGroup s gid (fun g => match g.flight with
      | some f => if f.run.isEmpty then endClause g [] false else g
      | none => g)

/-- The lane is in the middle of a clause of one of its groups (R22, R26). -/
def laneBusy (s : State) (core lane : Nat) : Bool :=
  s.groups.any (fun g => g.2.core == core && g.2.lane == lane && g.2.flight.isSome)

/-- CLAUSE_ISSUE (R27): at a clause boundary, the lane of a core that is not halted chooses a group, which begins its
clause; a blocked energy charge sends the clause from the queue (R372). -/
def execClauseIssue (core lane : Nat) (s : State) : Host.Outcome State Fault Refusal :=
  if (getCore s core).halted || laneBusy s core lane then .next s
  else
    let s := refreshQueue s core
    match choose s core lane with
    | (none, _) => .next s
    | (some (gid, byGrant), passed) =>
      match getGroup s gid with
      | none => .next s
      | some g =>
        match planIssue s g with
        | none => .next s
        | some i =>
          let need := issueNeed i
          let ctx := ctxOf s g.launch
          if 0 < need && exhausted s ctx then
            .next (setQueue s core ((getCore s core).canvas.filter (fun w => w.gid != gid)))
          else
            let s := if need = 0 then s else chargeQuota (spendCanvas s core gid) ctx (65536 * need)
            let s := passed.foldl (fun s x => modGroup s x (fun g => { g with passOver := false })) s
            let s := if byGrant then modGroup s gid (fun g => { g with grant := none, passOver := true }) else s
            let c := getCore s core
            let s := if byGrant then s else setCore s core { c with last := mput c.last lane g.bound }
            let s := beginClause s gid g i
            .next { s with cur := .group gid }

end Sys2Proof.Machine
end

