-- ==== Sys2Proof/Machine/Halyard.lean ====
section
/-! DEFINITION. The halyards of the compute dies (spec/21 R362-R367), interval boundaries and reef levels (R363, R368, R369,
spec/23 R395, R396), byte balances (R370), voltage mailboxes (R375) and HALYARD_CTL (R374). -/

namespace Sys2Proof.Machine

/-! ### Reef levels (R368) -/

/-- Canvas stock of a die at a reef level. -/
def reefStock (r : Nat) : Nat := if r = 7 then 96 else 1536 - 192 * r
/-- Share units of a core. -/
def reefShare (r : Nat) : Nat := reefStock r / 96
/-- Free units of a die. -/
def reefFree (r : Nat) : Nat := reefStock r - 48 * reefShare r
/-- Byte budget of a cluster in an interval. -/
def reefBytes (r : Nat) : Nat := if r = 7 then 32768 else 524288 - 65536 * r
/-- Voltage ceiling in mV. -/
def reefCeiling (r : Nat) : Nat := 600 - 25 * r

/-! ### Cars (R362-R366) -/

/-- The car at a station: a car at station s stands at s + 1 in the next cycle. -/
def carAt (d : Die) (station : Nat) : Nat := (station + 48 - d.phase % 48) % 48
def carUnits (d : Die) (station : Nat) : Nat := mget 0 d.cars (carAt d station)
def setCar (d : Die) (station n : Nat) : Die := { d with cars := mset 0 d.cars (carAt d station) n }

/-- What the queue of a core needs: the sum of its clauses' CANVAS fields (R364). -/
def queueNeed (c : Core) : Nat := (c.canvas.map (·.need)).foldl (· + ·) 0

/-- The oldest claim of a die; of the same cycle, the lower station's (R366). -/
def oldestClaim (d : Die) : Option Claim := minBy (fun c => c.at_ * 384 + c.core) d.claims

/-- The head of a core's queue is granted. -/
def headGranted (c : Core) : Bool := c.canvas.head?.any (·.granted.isSome)

/-- One core and the car at its station. -/
def stationStep (claim : Option Claim) (core station : Nat) (c : Core) (d : Die) : Core × Die :=
  let u := carUnits d station
  match claim with
  | none =>
    let n := min u (min 32 (queueNeed c) - held c)
    ({ c with free := c.free + n }, setCar d station (u - n))
  | some k =>
    if k.core = core then
      let n := min u ((c.canvas.head?.map (·.need)).getD 0 - held c)
      ({ c with free := c.free + n }, setCar d station (u - n))
    else if headGranted c then (c, d)
    else
      let n := min c.free (8 - u)
      ({ c with free := c.free - n }, setCar d station (u + n))

/-- Every station of a die in one halyard cycle. -/
def stationsStep (s : State) (die : Nat) : State :=
  let claim := oldestClaim (getDie s die)
  (List.range Config.coresPerDie).foldl (fun s i =>
    let k := die * Config.coresPerDie + i
    let (c, d) := stationStep claim k i (getCore s k) (getDie s die)
    setDie (setCore s k c) die d) s

/-- Units still to be withdrawn leave the reserve (R369). -/
def withdraw (d : Die) : Die :=
  let w := min d.surplus d.reserve
  { d with surplus := d.surplus - w, reserve := d.reserve - w }

/-- The car at station 0: units still to be withdrawn leave the reserve first and then the car (R369), then the reserve
fills it to 8 (R363). -/
def reserveStep (d : Die) : Die :=
  let d := withdraw d
  let u := carUnits d 0
  let w := min d.surplus u
  let n := min d.reserve (8 - (u - w))
  setCar { d with surplus := d.surplus - w, reserve := d.reserve - n } 0 (u - w + n)

/-- One halyard cycle of a die: the cars advance one station, then each core meets the car at its own. -/
def dieStep (s : State) (die : Nat) : State :=
  let d := getDie s die
  stationsStep (setDie s die (reserveStep { d with phase := (d.phase + 1) % 48 })) die

/-- Clauses that wait in a canvas queue have waited one cycle more, and runs that stall unflagged have stalled one more
(R59, R358). -/
def countWaits (s : State) : State :=
  let s := { s with groups := s.groups.map (fun x => (x.1, stallCycle x.2)) }
  (List.range Config.cores).foldl (fun s k =>
    (getCore s k).canvas.foldl (fun s w => modGroup s w.gid (fun g => { g with canvasCycles := g.canvasCycles + 1 })) s) s

/-- HALYARD_CYCLE (R362, R364): 1 ns passes. At a boundary the cycle waits until INTERVAL_BOUNDARY has come. -/
def execHalyardCycle (s : State) : Host.Outcome State Fault Refusal :=
  if s.boundary ≤ s.time then .next s
  else
    let s := { s with time := s.time + 1, timebase := s.timebase + 1 }
    .next (countWaits ((List.range Config.dies).foldl dieStep s))

/-- CANVAS_CLAIM (R366): a head that has waited 96 halyard cycles without a grant claims. -/
def execCanvasClaim (core : Nat) (s : State) : Host.Outcome State Fault Refusal :=
  let c := getCore s core
  let d := getDie s (dieOf core)
  match c.canvas.head? with
  | none => .next s
  | some w =>
    match w.headAt with
    | none => .next s
    | some t =>
      if w.granted.isSome || decide (s.time < t + 96) || d.claims.any (fun c => c.core == core) then .next s
      else .next (setDie s (dieOf core) { d with claims := d.claims ++ [{ core := core, at_ := s.time }] })

/-! ### Voltage mailboxes (R375) -/

/-- The latest target of a mailbox, pending or in progress. -/
def latestTarget (c : Cluster) : Nat := c.pending.getD c.target

/-- Halyard time at which a move ends: 5 mV in each µs. -/
def moveEnd (now a b : Nat) : Nat := now + (if a ≤ b then b - a else a - b) * 200

/-- A move starts. -/
def startMove (now target : Nat) (c : Cluster) : Cluster :=
  { c with target := target, moving := true, fromMv := c.cur, moveAt := moveEnd now c.cur target }

/-- A target is taken, clamped to 400 mV and the ceiling of its die's reef. -/
def writeTarget (s : State) (k target : Nat) : State :=
  let c := getCluster s k
  let t := max 400 (min target (reefCeiling (getDie s (k / 24)).reef))
  setCluster s k (if c.moving then { c with pending := some t } else startMove s.time t c)

/-- VMAIL_WRITE (R375): the 10 bits of TARGET_MV. -/
def execVmailWrite (cluster target : Nat) (s : State) : Host.Outcome State Fault Refusal :=
  .next (writeTarget s (cluster % Config.clusters) (target % 2 ^ 10))

/-- VOLTAGE_MOVE_DONE (R375): a move whose time is over ends, and a pending target starts its own. -/
def execVoltageMoveDone (cluster : Nat) (s : State) : Host.Outcome State Fault Refusal :=
  let c := getCluster s cluster
  if !c.moving || decide (s.time < c.moveAt) then .next s
  else
    let s := setCluster s cluster { c with cur := c.target, moving := false, fromMv := c.target, moveAt := 0, pending := none }
    match c.pending with
    | none => .next s
    | some t => .next (writeTarget s cluster t)

/-- CURRENT_MV as VMAIL reads (R375): 5 mV in each whole µs of the move. -/
def currentMv (s : State) (k : Nat) : Nat :=
  let c := getCluster s k
  if !c.moving then c.cur
  else
    let left := (c.moveAt - s.time + 199) / 200
    if c.fromMv ≤ c.target then c.target - min left (c.target - c.fromMv) else c.target + min left (c.fromMv - c.target)

/-- The word that VMAIL reads (R375). -/
def vmailWord (s : State) (k : Nat) : Nat :=
  let c := getCluster s k
  (if c.pending.isSome then 2 ^ 31 else 0) + (if c.moving then 2 ^ 30 else 0) + currentMv s k * 2 ^ 20 + c.target

/-! ### HALYARD_CTL (R374) -/

/-- HALYARD_CTL_WRITE (R374): REEF_MIN is bits [10:8]; the others are read-only or reserved. -/
def execHalyardCtlWrite (die value : Nat) (s : State) : Host.Outcome State Fault Refusal :=
  let k := die % Config.dies
  .next (setDie s k { getDie s k with reefMin := bitsOf value 10 8 })

/-- The word that HALYARD_CTL reads. -/
def ctlWord (d : Die) : Nat := d.claims.length * 2 ^ 24 + d.reefMin * 2 ^ 8 + d.reef

/-! ### Interval boundaries (R363, R369, R370, R375, R396) -/

/-- Spent units return: share units to their core, free units to the reserve (R363). -/
def returnUnits (s : State) (die : Nat) : State :=
  (List.range Config.coresPerDie).foldl (fun s i =>
    let k := die * Config.coresPerDie + i
    let c := getCore s k
    let d := getDie s die
    setDie (setCore s k { c with share := c.share + c.spentShare, free := c.free, spentShare := 0, spentFree := 0 })
      die { d with reserve := d.reserve + c.spentFree }) s

/-- The reef that the controller takes for a wish: no lighter than REEF_MIN and the applied pace, at most one level
lighter than before, 7 before firmware has written REEF_MIN and while the die is forced (R369, R374, R396, R405). -/
def nextReef (d : Die) (applied wish : Nat) : Nat :=
  if !d.reefOpen ∨ d.hot then 7 else min 7 (max (max wish (max d.reefMin applied)) (d.reef - 1))

/-- A core's share falls by n units, which become free units of the core: those of its pool first, then those that a grant
has moved to a clause (R369). -/
def lowerShare (n : Nat) (c : Core) : Core :=
  let a := min n c.share
  { c with
    share := c.share - a
    free := c.free + a
    canvas := c.canvas.map (fun w => match w.granted with
      | some (x, y) => { w with granted := some (x - min (n - a) x, y + min (n - a) x) }
      | none => w) }

/-- A reef change takes effect (R369): shares first, then the free stock grows into the reserve or is withdrawn. -/
def setReef (s : State) (die r : Nat) : State :=
  let old := (getDie s die).reef
  let (a, b) := (reefShare old, reefShare r)
  let s := (List.range Config.coresPerDie).foldl (fun s i =>
    let k := die * Config.coresPerDie + i
    let c := getCore s k
    setCore s k (if b < a then lowerShare (a - b) c
      else { c with share := c.share + (b - a) })) s
  let d := { getDie s die with reef := r }
  let more := reefFree r - reefFree old
  let less := reefFree old + 48 * (a - b) - reefFree r
  let d := if b < a then { d with surplus := d.surplus + less }
    else
      let c := min d.surplus more
      { d with surplus := d.surplus - c, reserve := d.reserve + (more - c) }
  setDie s die (withdraw d)

/-- A core holds at most 32 units (R363): free units above that enter the reserve. -/
def capHeld (s : State) (die : Nat) : State :=
  (List.range Config.coresPerDie).foldl (fun s i =>
    let k := die * Config.coresPerDie + i
    let c := getCore s k
    let d := getDie s die
    let n := held c - 32
    setDie (setCore s k { c with free := c.free - n }) die { d with reserve := d.reserve + min n c.free }) s

/-- The clusters of a die: balances refill (R370), and targets above the ceiling are replaced (R375). -/
def refillClusters (s : State) (die : Nat) : State :=
  let r := (getDie s die).reef
  (List.range 24).foldl (fun s i =>
    let k := die * 24 + i
    let c := getCluster s k
    let b : Int := reefBytes r
    let s := setCluster s k { c with balance := min (c.balance + b) b }
    if reefCeiling r < latestTarget c then writeTarget s k (reefCeiling r) else s) s

/-- A die at an interval boundary. -/
def dieBoundary (wish : List Nat) (s : State) (die : Nat) : State :=
  let s := returnUnits s die
  let d := getDie s die
  refillClusters (capHeld (setReef s die (nextReef d s.pace.applied (wish.getD die d.reef))) die) die

/-- The pace at a boundary (R395, R396): the target of the interval that ends, then a move of one level. -/
def paceBoundary (p : Pace) : Pace :=
  let t := p.got.getD p.target
  let above := if p.applied < t then p.above + 1 else 0
  let below := if t < p.applied then p.below + 1 else 0
  let since := p.since.map (· + 1)
  let free := match since with
    | none => true
    | some n => decide (32 ≤ n)
  let up := decide (8 ≤ above) && free
  let down := decide (8 ≤ below) && free
  { got := none, target := t, above := if up then 0 else above, below := if down then 0 else below,
    applied := if up then p.applied + 1 else if down then p.applied - 1 else p.applied,
    since := if up || down then some 0 else since }

/-- INTERVAL_BOUNDARY (R363): every die's at the same time; `wish` is the reef that the controller's measurements of
current and power call for on each die. -/
def execIntervalBoundary (wish : List Nat) (s : State) : Host.Outcome State Fault Refusal :=
  if s.time < s.boundary then .next s
  else
    let s := { s with pace := paceBoundary s.pace }
    let s := (List.range Config.dies).foldl (dieBoundary wish) s
    .next { s with boundary := s.boundary + 1000 }

end Sys2Proof.Machine
end

