-- ==== Sys2Proof/Machine/Boot.lean ====
section
/-! DEFINITION. Boot (spec/24 R397, R398), identity (R399), errors (R401-R403), the full reset (R404) and temperature
(R405). -/

namespace Sys2Proof.Machine

/-! ### Images (R398) -/

/-- The bytes that an image's signatures cover: 0x000 to 0x00F, then the body. -/
def signedPart (im : List Byte) : List Byte := im.take 0x10 ++ im.drop 0x75C

/-- The header's fields keep their table. -/
def imageFormOk (im : List Byte) : Bool :=
  leVal (im.take 4) == 0x474D4C49 && leVal ((im.drop 8).take 4) % 4 == 0 && leVal ((im.drop 12).take 4) == 0
    && im.length == 0x75C + leVal ((im.drop 8).take 4)

/-- The SVN of an image. -/
def imageSvn (im : List Byte) : Nat := leVal ((im.drop 4).take 4)

/-- The boot keys. -/
def bootLms : LmsKey := { ident := Config.bootLmsIdent, root := Config.bootLmsRoot }

/-- The cause for which an image is refused: 1 its header, 2 a signature, 3 its SVN; none when it is accepted. Both
signatures are checked, each against the key whose hash is fused, whatever the outcome of either. -/
def imageCause (im : List Byte) : Option Nat :=
  let c := signedPart im
  let ecdsa := sha384 (ecdsaKeyBytes Config.bootPoint) == Config.fusedEcdsa
    && ecdsaOk Config.bootPoint c ((im.drop 0x10).take 96)
  let lms := sha384 (lmsKeyBytes bootLms) == Config.fusedLms && lmsOk bootLms c ((im.drop 0x70).take 1772)
  if !imageFormOk im then some 1
  else if !(ecdsa && lms) then some 2
  else if imageSvn im < Config.fusedSvn then some 3
  else none

/-- A stage starts on its mast cores (R397), or has succeeded and reports so: 0 is no failure's cause (R404). -/
def bootDone (s : State) (stage : Nat) : State := { s with report := s.report ++ [(stage, 0)] }

/-- A stage fails: it halts and reports its stage and cause (R398). -/
def bootFail (s : State) (stage cause : Nat) : State :=
  { s with boot := .halted stage cause, report := s.report ++ [(stage, cause)] }

/-! ### Stages (R397) -/

/-- POWER_ON: the ROM reads and verifies the first-stage image. -/
def execPowerOn (image : List Byte) (s : State) : Host.Outcome State Fault Refusal :=
  if s.boot != .off then .next s
  else
    let s := { s with masts := [0] }
    match imageCause image with
    | some c => .next (bootFail s 0 c)
    | none => .next (bootDone { s with
        boot := .rom
        secure := { s.secure with svn1 := imageSvn image, meas1 := sha384 image } } 0)

/-- Every memory is cleared with its ECC. -/
def clearMemories (s : State) : State :=
  { s with mem := [], vers := [], pois := [], cached := [], stale := [], owned := [], tlb := [] }

/-- HALYARD_CTL.REEF_MIN of every die is written (R374). -/
def openReefs (s : State) (reefMin : Nat) : State :=
  (List.range Config.dies).foldl (fun s k => setDie s k { getDie s k with reefMin := reefMin % 8, reefOpen := true }) s

/-- What the alias certificate of a boot carries: the alias public keys, both measurements, both SVNs (R399). -/
def certBody (c : Secure) (boot : Nat) : List Byte :=
  Config.aliasKeys boot ++ c.meas1 ++ c.meas2 ++ leBytes 4 c.svn1 ++ leBytes 4 c.svn2

/-- A new alias key pair and tree, and their certificate, signed by both identity keys; the leaf counter advances before the
identity LMS key signs, and a counter that is exhausted leaves that signature out (R399). -/
def makeAlias (c : Secure) : Secure :=
  let out := decide (Config.identityLeaves ≤ c.leaf)
  let b := certBody c (c.boots + 1)
  { c with
    boots := c.boots + 1
    aliasLeaf := 0
    noLms := out
    leaf := if out then c.leaf else c.leaf + 1
    cert := b ++ Config.identitySign b ++ (if out then [] else Config.identityLms c.leaf b) }

/-- FIRST_STAGE: memories, TIMEBASE, REEF_MIN, the Maluk image, the alias keys and their certificate, which carries both
measurements. -/
def execFirstStage (reefMin : Nat) (image : List Byte) (s : State) : Host.Outcome State Fault Refusal :=
  if s.boot != .rom then .next s
  else
    let s := openReefs { clearMemories s with timebase := 0 } reefMin
    match imageCause image with
    | some c => .next (bootFail s 1 c)
    | none => .next (bootDone { s with
        boot := .first
        secure := makeAlias { s.secure with svn2 := imageSvn image, meas2 := sha384 image } } 1)

/-- The number of Maluk's service context, and the VI field of its record: no VI's (notes/assumptions/38.md). -/
def serviceCtx : Nat := 4095
def serviceVi : Nat := 64

/-- Maluk creates a context for its own service work, the one whose FLAGS.PRIV it sets (R327): its heap is all of
memory. -/
def createService (s : State) : State :=
  match allocRun s (3 + Config.imageFrames) 1 with
  | none => s
  | some (root, s) =>
    let c : Ctx := {
      vi := serviceVi, priv := true, recAt := root + 8192, heapBase := 0, heapLimit := 2 ^ 48, root := root,
      imageBase := root + 12288, semImage := root + 4096, quota := 1, arenaBlocks := 0,
      windows := [{ va := 0, size := 2 ^ 48, kind := .heap, read := true, write := true, exec := false }] }
    writeRecord { s with ctxs := mput s.ctxs serviceCtx c } serviceCtx

/-- MALUK_STAGE: Maluk runs on every mast core, the ports come up, and it serves. -/
def execMalukStage (s : State) : Host.Outcome State Fault Refusal :=
  if s.boot != .first then .next s
  else
    let s : State := (List.range Config.ports).foldl (fun s k => setPort s k { getPort s k with up := true }) s
    .next (bootDone { createService s with boot := .maluk, masts := List.range Config.mastCores } 2)

/-- The secure storage that outlasts a reset: the identity leaf counter, the credential counters, the count of boots. -/
def keptSecure (c : Secure) : Secure := { leaf := c.leaf, counters := c.counters, boots := c.boots }

/-- FULL_RESET (R404): boot restarts; what has been sent stays sent, no free value is drawn twice, and a frame that has been
retired stays so with the counts of its errors (R403). -/
def execFullReset (s : State) : Host.Outcome State Fault Refusal :=
  .next { State.reset with
    secure := keptSecure s.secure
    turns := s.turns
    time := s.time
    boundary := s.boundary
    retired := s.retired
    eccC := s.eccC
    eccU := s.eccU
    eccUnits := s.eccUnits
    report := s.report
    status := s.status
    events := s.events
    responses := s.responses
    answers := s.answers
    outN := s.outN
    evSeq := s.evSeq
    paceSent := s.paceSent
    freeN := s.freeN }

/-! ### Temperature (R405) -/

/-- THERMAL_THROTTLE: at 105 °C the die is forced to reef 7, from the next boundary on (R369). -/
def execThermalThrottle (die temp : Nat) (s : State) : Host.Outcome State Fault Refusal :=
  if die < Config.dies ∧ 105 ≤ temp then .next (setDie s die { getDie s die with hot := true, temp := temp }) else .next s

/-- THERMAL_RELEASE: below 95 °C the force ends. -/
def execThermalRelease (die temp : Nat) (s : State) : Host.Outcome State Fault Refusal :=
  if die < Config.dies ∧ temp < 95 then .next (setDie s die { getDie s die with hot := false, temp := temp }) else .next s

/-- At 115 °C every core stops as HALT stops it; issued operations complete for 1 ms at most; the shutdown is reported, as
stage 3, and only a full reset ends it. A device that is off or has shut down is as before. -/
def overheat (s : State) (temp : Nat) : State :=
  match s.boot with
  | .shutdown _ => s
  | .off => s
  | _ =>
    if temp < 115 then s
    else
      let s : State := (List.range Config.cores).foldl (fun s k => setCore s k { getCore s k with halted := true }) s
      { s with boot := .shutdown (s.time + 1000000), report := s.report ++ [(3, temp)] }

/-- THERMAL_SHUTDOWN (R405). -/
def execThermalShutdown (temp : Nat) (s : State) : Host.Outcome State Fault Refusal := .next (overheat s temp)

/-- The core rails have lost power (R405): what the cores, their L1s and translation units, and the clusters hold is gone; the
operations of cores that had not completed are, too. -/
def darkCores (s : State) : State :=
  let s := { s with
    groups := []
    teams := []
    ops := s.ops.filter (fun o => match o.who with
      | .thread _ => false
      | _ => true)
    cached := s.cached.filter (fun l => decide (Config.cores ≤ l.unit))
    stale := s.stale.filter (fun t => decide (Config.cores ≤ t.unit))
    tlb := s.tlb.filter (fun e => decide (Config.cores ≤ e.unit))
    walks := s.walks.filter (fun w => decide (Config.cores ≤ w.unit))
    cores := (List.range Config.cores).map (fun k => (k, { halted := true }))
    clusters := (List.range Config.clusters).map (fun k => (k, { cur := 0, target := 0, fromMv := 0 })) }
  { s with owned := s.owned.filter (fun x => s.ops.any (fun o => o.id == x.2)) }

/-- A step after the 1 ms of a thermal shutdown finds the core rails without power. -/
def rails (s : State) : State := if powered s then s else darkCores s

/-- A die reports its junction temperature: a compute die 0-7, the I/O die 8, a base die 9-24 (R405). The controller forces a
compute die to reef 7 from 105 °C until it is below 95 °C, and 115 °C on any die shuts the device down. -/
def senseTemp (s : State) (die t : Nat) : State :=
  if Config.allDies ≤ die then s
  else
    let d := getDie s die
    overheat (if die < Config.dies then setDie s die { d with temp := t, hot := decide (105 ≤ t) || (d.hot && decide (95 ≤ t)) }
      else { s with temps := mset 0 s.temps die t }) t

/-- The temperature that a die has reported last. -/
def tempOf (s : State) (die : Nat) : Nat := if die < Config.dies then (getDie s die).temp else mget 0 s.temps die

/-- The read-only status of the out-of-band interface, after Maluk has started (R404). -/
def readStatus (s : State) : State :=
  let st : Status := {
    stage := s.boot, masts := s.masts, temps := (List.range Config.allDies).map (tempOf s)
    rails := (List.range Config.clusters).map (currentMv s), ioRail := Config.ioRail, errors := s.eccUnits }
  match s.boot with
  | .maluk => { s with status := s.status ++ [st] }
  | .shutdown _ => if s.masts = List.range Config.mastCores then { s with status := s.status ++ [st] } else s
  | _ => s

/-! ### Errors (R401-R403) -/

/-- PATROL_SCRUB (R402): a corrected error is counted and an uncorrectable one poisons the quarter; no value and no
version changes. -/
def execPatrolScrub (quarter : Nat) (ecc : Ecc) (s : State) : Host.Outcome State Fault Refusal :=
  if quarter < 2 ^ 43 then .next (countEcc s ecc (32 * quarter)) else .next s

/-- 24 hours in ns. -/
def day : Nat := 86400000000000

/-- 16 of the times, which rise, lie within 24 hours. -/
def sixteenInDay (l : List Nat) : Bool := (l.zip (l.drop 15)).any (fun x => decide (x.2 < x.1 + day))

/-- Frames past a threshold: one uncorrectable error, or 16 corrected ones within 24 hours (R403). -/
def worn (s : State) : List Nat :=
  (s.eccU.filter (fun e => decide (1 ≤ e.2))).map (·.1)
    ++ (s.eccC.filter (fun e => sixteenInDay e.2)).map (·.1)

/-- ERROR_COUNTER_POLL (R403): such a frame is never allocated again; one in use stays mapped. -/
def execErrorCounterPoll (s : State) : Host.Outcome State Fault Refusal :=
  if s.boot = .maluk then .next { s with retired := sunion s.retired (worn s) } else .next s

end Sys2Proof.Machine
end

