-- ==== Sys2Proof/Machine/Integer.lean ====
section
/-! DEFINITION. Integer arithmetic, comparison, selection, addresses, shifts, logic and bit fields (spec/08 R156, R157,
R173-R181). -/

namespace Sys2Proof.Machine

/-! ### Values and results (R157) -/

/-- `Val(r, T)`. -/
def Cx.val (cx : Cx) (x : Nat) : Int := if cx.sgn then sext cx.bits x else (x : Int)

/-- `Sat(x, T)` under `.SAT`, else `Wrap(x, N)`, for a type of n bits. -/
def narrow (sat sgn : Bool) (n : Nat) (x : Int) : Nat :=
  if sat then
    (if sgn then wrapN n (max (-(2 ^ (n - 1) : Nat)) (min x ((2 ^ (n - 1) : Nat) - 1)))
     else wrapN n (max 0 (min x ((2 ^ n : Nat) - 1))))
  else wrapN n x

/-- Two operands of the entry's width. -/
def read2 (s : State) (cx : Cx) (tid : Nat) : Rd (Nat × Nat) := do
  let a ← readA s cx tid cx.wide
  let b ← readB s cx tid cx.wide
  pure (a, b)

/-- Two operands and field D as the third. -/
def read3 (s : State) (cx : Cx) (tid : Nat) : Rd (Nat × Nat × Nat) := do
  let a ← readA s cx tid cx.wide
  let b ← readB s cx tid cx.wide
  let d ← readD s cx tid cx.wide
  pure (a, b, d)

/-- One operand of the entry's width. -/
def read1 (s : State) (cx : Cx) (tid : Nat) : Rd Nat := readA s cx tid cx.wide

/-- An operand of the entry's width and a 32-bit one. -/
def readShift (s : State) (cx : Cx) (tid : Nat) : Rd (Nat × Nat) := do
  let a ← readA s cx tid cx.wide
  let b ← readB s cx tid false
  pure (a, b)

/-- d := an exact function of a and b, narrowed (R174). -/
def intBin (s : State) (cx : Cx) (op : Int → Int → Int) : State :=
  laneExec s cx true (read2 s cx) (fun _ g =>
    outN cx (narrow cx.m.sat cx.sgn cx.bits (op (cx.val g.val.1) (cx.val g.val.2))))
/-- d := an exact function of a, narrowed. -/
def intUn (s : State) (cx : Cx) (op : Int → Int) : State :=
  laneExec s cx true (read1 s cx) (fun _ g => outN cx (narrow cx.m.sat cx.sgn cx.bits (op (cx.val g.val))))
/-- d := an exact function of a, b and d, narrowed. -/
def intTri (s : State) (cx : Cx) (op : Int → Int → Int → Int) : State :=
  laneExec s cx true (read3 s cx) (fun _ g =>
    outN cx (narrow cx.m.sat cx.sgn cx.bits (op (cx.val g.val.1) (cx.val g.val.2.1) (cx.val g.val.2.2))))
/-- d := a function of the bit patterns of a and b. -/
def bitBin (s : State) (cx : Cx) (op : Nat → Nat → Nat) : State :=
  laneExec s cx true (read2 s cx) (fun _ g => outN cx (op g.val.1 g.val.2 % 2 ^ cx.bits))
/-- d := a function of the bit pattern of a and the 32-bit operand b. -/
def shiftBin (s : State) (cx : Cx) (op : Nat → Nat → Nat) : State :=
  laneExec s cx true (readShift s cx) (fun _ g => outN cx (op g.val.1 g.val.2 % 2 ^ cx.bits))

/-- IMULH: bits [2N-1:N] of the product. -/
def mulHigh (n : Nat) (a b : Int) : Int := (wrapN (2 * n) (a * b) / 2 ^ n : Nat)

/-- IMADW (R174): 32-bit factors, a 64-bit addend and result. -/
def imadw (s : State) (cx : Cx) : State :=
  laneExec s cx true (fun tid => do
      let a ← readA s cx tid false
      let b ← readB s cx tid false
      let d ← readD s cx tid true
      pure (a, b, d)) (fun _ g =>
    let v (n x : Nat) : Int := if cx.sgn then sext n x else (x : Int)
    out64 (narrow cx.m.sat cx.sgn 64 (v 32 g.val.1 * v 32 g.val.2.1 + v 64 g.val.2.2)))

/-- The quotient of R175. -/
def divT (a b : Int) : Int := if b = 0 then -1 else a.tdiv b
/-- The remainder of R175. -/
def remT (a b : Int) : Int := if b = 0 then a else a.tmod b

/-- IDIV and IREM: the result comes after the lane pipeline. -/
def intDiv (s : State) (cx : Cx) (op : Int → Int → Int) : State :=
  laneExec s cx true (read2 s cx) (fun _ g =>
    { outN cx (wrapN cx.bits (op (cx.val g.val.1) (cx.val g.val.2))) with long := true })

/-- The conditions of ISETP (R176). -/
def icond (c : Nat) (a b : Int) : Bool :=
  match c with
  | 0 => a == b
  | 1 => a != b
  | 2 => decide (a < b)
  | 3 => decide (a ≤ b)
  | 4 => decide (b < a)
  | _ => decide (b ≤ a)

/-- ISETP (R176). -/
def isetp (s : State) (cx : Cx) : State :=
  laneExec s cx false (read2 s cx) (fun _ g =>
    { preds := [(cx.f.d.toNat % 8, icond (cx.f.d.toNat / 8 % 8) (cx.val g.val.1) (cx.val g.val.2))] })

/-- ISEL (R177): predicate OPT[2:0], inverted by OPT[3]; `p0` under LIT = 1. -/
def isel (s : State) (cx : Cx) : State :=
  laneExec s cx true (fun tid => do
      let w ← get
      let o := if cx.m.lit then 0 else cx.opt
      let x ← read2 s cx tid
      pure (x, pred w.th (o % 8) != bitOf o 3)) (fun _ g =>
    outN cx (if g.val.2 then g.val.1.1 else g.val.1.2))

/-- LEA (R178): shift OPT[2:0], zero extension under OPT[3]; under LIT = 1, s is 0 and b is signed. -/
def lea (s : State) (cx : Cx) : State :=
  laneExec s cx true (fun tid => do
      let a ← readA s cx tid true
      let b ← readB s cx tid false
      pure (a, b)) (fun _ g =>
    let o := if cx.m.lit then 0 else cx.opt
    let e : Int := if bitOf o 3 then (g.val.2 : Int) else sext 32 g.val.2
    out64 (wrapN 64 ((g.val.1 : Int) + e * (2 ^ (o % 8) : Nat))))

/-- SHL, SHR, SAR, ROTL (R179) on n bits. -/
def shlN (n a c : Nat) : Nat := if n ≤ c then 0 else a * 2 ^ c % 2 ^ n
def shrN (n a c : Nat) : Nat := if n ≤ c then 0 else a / 2 ^ c
def sarN (n a c : Nat) : Nat := wrapN n ((sext n a) / (2 ^ min c n : Nat))
def rotlN (n a c : Nat) : Nat := let k := c % n; (a * 2 ^ k + a / 2 ^ (n - k)) % 2 ^ n

/-- Bits of a value, low first. -/
def bitList (n a : Nat) : List Bool := (List.range n).map (bitOf a)
/-- The value of a list of bits, low first. -/
def ofBits : List Bool → Nat
  | [] => 0
  | b :: l => (if b then 1 else 0) + 2 * ofBits l
def popc (n a : Nat) : Nat := ((bitList n a).filter id).length
def clz (n a : Nat) : Nat := ((bitList n a).reverse.takeWhile (fun b => !b)).length
def brev (n a : Nat) : Nat := ofBits (bitList n a).reverse

/-- L of R180. -/
def fieldLen (n b : Nat) : Nat := let pos := b % 256; if pos < n then min (b / 256 % 256) (n - pos) else 0
/-- BFE (R180). -/
def bfe (sgn : Bool) (n a b : Nat) : Nat :=
  let l := fieldLen n b
  let x := a / 2 ^ (b % 256) % 2 ^ l
  if l = 0 then 0 else if sgn then wrapN n (sext l x) else x
/-- BFI (R180). -/
def bfi (n a b d : Nat) : Nat :=
  let l := fieldLen n b
  let p := b % 256
  if l = 0 then d else d / 2 ^ (p + l) * 2 ^ (p + l) + a % 2 ^ l * 2 ^ p + d % 2 ^ p

/-- BFI: d is source and destination. -/
def bfiRun (s : State) (cx : Cx) : State :=
  laneExec s cx true (fun tid => do
      let a ← readA s cx tid cx.wide
      let b ← readB s cx tid false
      let d ← readD s cx tid cx.wide
      pure (a, b, d)) (fun _ g => outN cx (bfi cx.bits g.val.1 g.val.2.1 g.val.2.2))

/-- PRMT (R181). -/
def prmt (a b d : Nat) : Nat :=
  leVal ((List.range 4).map (fun i =>
    let sel := b / 2 ^ (4 * i) % 16
    let byte := (a + d * 2 ^ 32) / 2 ^ (8 * (sel % 8)) % 256
    BitVec.ofNat 8 (if 8 ≤ sel then (if 128 ≤ byte then 255 else 0) else byte)))

/-! ### The instructions, each with its twin -/

/-- IADD (R174). -/
def execIadd (f : FR) (s : State) := coreR 0x040 f s (fun cx => intBin s cx (· + ·))
/-- The twin of the above (R134). -/
def execIaddTwin (f : FR) (m : Mod) (s : State) := coreT 0x040 f m s (fun cx => intBin s cx (· + ·))

/-- ISUB (R174). -/
def execIsub (f : FR) (s : State) := coreR 0x041 f s (fun cx => intBin s cx (· - ·))
/-- The twin of the above (R134). -/
def execIsubTwin (f : FR) (m : Mod) (s : State) := coreT 0x041 f m s (fun cx => intBin s cx (· - ·))

/-- IMUL (R174). -/
def execImul (f : FR) (s : State) := coreR 0x042 f s (fun cx => intBin s cx (· * ·))
/-- The twin of the above (R134). -/
def execImulTwin (f : FR) (m : Mod) (s : State) := coreT 0x042 f m s (fun cx => intBin s cx (· * ·))

/-- IMULH (R174). -/
def execImulh (f : FR) (s : State) := coreR 0x043 f s (fun cx => intBin s cx (mulHigh cx.bits))
/-- The twin of the above (R134). -/
def execImulhTwin (f : FR) (m : Mod) (s : State) := coreT 0x043 f m s (fun cx => intBin s cx (mulHigh cx.bits))

/-- IMAD (R174). -/
def execImad (f : FR) (s : State) := coreR 0x044 f s (fun cx => intTri s cx (fun a b d => a * b + d))
/-- The twin of the above (R134). -/
def execImadTwin (f : FR) (m : Mod) (s : State) := coreT 0x044 f m s (fun cx => intTri s cx (fun a b d => a * b + d))

/-- IMADW (R174). -/
def execImadw (f : FR) (s : State) := coreR 0x045 f s (fun cx => imadw s cx)
/-- The twin of the above (R134). -/
def execImadwTwin (f : FR) (m : Mod) (s : State) := coreT 0x045 f m s (fun cx => imadw s cx)

/-- IMIN (R174). -/
def execImin (f : FR) (s : State) := coreR 0x046 f s (fun cx => intBin s cx min)
/-- The twin of the above (R134). -/
def execIminTwin (f : FR) (m : Mod) (s : State) := coreT 0x046 f m s (fun cx => intBin s cx min)

/-- IMAX (R174). -/
def execImax (f : FR) (s : State) := coreR 0x047 f s (fun cx => intBin s cx max)
/-- The twin of the above (R134). -/
def execImaxTwin (f : FR) (m : Mod) (s : State) := coreT 0x047 f m s (fun cx => intBin s cx max)

/-- IABS (R174). -/
def execIabs (f : FR) (s : State) := coreR 0x048 f s (fun cx => intUn s cx (fun a => (a.natAbs : Int)))
/-- The twin of the above (R134). -/
def execIabsTwin (f : FR) (m : Mod) (s : State) := coreT 0x048 f m s (fun cx => intUn s cx (fun a => (a.natAbs : Int)))

/-- INEG (R174). -/
def execIneg (f : FR) (s : State) := coreR 0x049 f s (fun cx => intUn s cx (fun a => -a))
/-- The twin of the above (R134). -/
def execInegTwin (f : FR) (m : Mod) (s : State) := coreT 0x049 f m s (fun cx => intUn s cx (fun a => -a))

/-- IDIV (R175). -/
def execIdiv (f : FR) (s : State) := coreR 0x04A f s (fun cx => intDiv s cx divT)
/-- The twin of the above (R134). -/
def execIdivTwin (f : FR) (m : Mod) (s : State) := coreT 0x04A f m s (fun cx => intDiv s cx divT)

/-- IREM (R175). -/
def execIrem (f : FR) (s : State) := coreR 0x04B f s (fun cx => intDiv s cx remT)
/-- The twin of the above (R134). -/
def execIremTwin (f : FR) (m : Mod) (s : State) := coreT 0x04B f m s (fun cx => intDiv s cx remT)

/-- ISAD (R174). -/
def execIsad (f : FR) (s : State) := coreR 0x04C f s (fun cx => intTri s cx (fun a b d => d + ((a - b).natAbs : Int)))
/-- The twin of the above (R134). -/
def execIsadTwin (f : FR) (m : Mod) (s : State) := coreT 0x04C f m s (fun cx => intTri s cx (fun a b d => d + ((a - b).natAbs : Int)))

/-- ISETP (R176). -/
def execIsetp (f : FR) (s : State) := coreR 0x04D f s (fun cx => isetp s cx)
/-- The twin of the above (R134). -/
def execIsetpTwin (f : FR) (m : Mod) (s : State) := coreT 0x04D f m s (fun cx => isetp s cx)

/-- ISEL (R177). -/
def execIsel (f : FR) (s : State) := coreR 0x04E f s (fun cx => isel s cx)
/-- The twin of the above (R134). -/
def execIselTwin (f : FR) (m : Mod) (s : State) := coreT 0x04E f m s (fun cx => isel s cx)

/-- LEA (R178). -/
def execLea (f : FR) (s : State) := coreR 0x04F f s (fun cx => lea s cx)
/-- The twin of the above (R134). -/
def execLeaTwin (f : FR) (m : Mod) (s : State) := coreT 0x04F f m s (fun cx => lea s cx)

/-- SHL (R179). -/
def execShl (f : FR) (s : State) := coreR 0x050 f s (fun cx => shiftBin s cx (shlN cx.bits))
/-- The twin of the above (R134). -/
def execShlTwin (f : FR) (m : Mod) (s : State) := coreT 0x050 f m s (fun cx => shiftBin s cx (shlN cx.bits))

/-- SHR (R179). -/
def execShr (f : FR) (s : State) := coreR 0x051 f s (fun cx => shiftBin s cx (shrN cx.bits))
/-- The twin of the above (R134). -/
def execShrTwin (f : FR) (m : Mod) (s : State) := coreT 0x051 f m s (fun cx => shiftBin s cx (shrN cx.bits))

/-- SAR (R179). -/
def execSar (f : FR) (s : State) := coreR 0x052 f s (fun cx => shiftBin s cx (sarN cx.bits))
/-- The twin of the above (R134). -/
def execSarTwin (f : FR) (m : Mod) (s : State) := coreT 0x052 f m s (fun cx => shiftBin s cx (sarN cx.bits))

/-- ROTL (R179). -/
def execRotl (f : FR) (s : State) := coreR 0x053 f s (fun cx => shiftBin s cx (rotlN cx.bits))
/-- The twin of the above (R134). -/
def execRotlTwin (f : FR) (m : Mod) (s : State) := coreT 0x053 f m s (fun cx => shiftBin s cx (rotlN cx.bits))

/-- IAND (R179). -/
def execIand (f : FR) (s : State) := coreR 0x054 f s (fun cx => bitBin s cx Nat.land)
/-- The twin of the above (R134). -/
def execIandTwin (f : FR) (m : Mod) (s : State) := coreT 0x054 f m s (fun cx => bitBin s cx Nat.land)

/-- IOR (R179). -/
def execIor (f : FR) (s : State) := coreR 0x055 f s (fun cx => bitBin s cx Nat.lor)
/-- The twin of the above (R134). -/
def execIorTwin (f : FR) (m : Mod) (s : State) := coreT 0x055 f m s (fun cx => bitBin s cx Nat.lor)

/-- IXOR (R179). -/
def execIxor (f : FR) (s : State) := coreR 0x056 f s (fun cx => bitBin s cx Nat.xor)
/-- The twin of the above (R134). -/
def execIxorTwin (f : FR) (m : Mod) (s : State) := coreT 0x056 f m s (fun cx => bitBin s cx Nat.xor)

/-- INOT (R179). -/
def execInot (f : FR) (s : State) := coreR 0x057 f s (fun cx => laneExec s cx true (read1 s cx) (fun _ g => outN cx (2 ^ cx.bits - 1 - g.val)))
/-- The twin of the above (R134). -/
def execInotTwin (f : FR) (m : Mod) (s : State) := coreT 0x057 f m s (fun cx => laneExec s cx true (read1 s cx) (fun _ g => outN cx (2 ^ cx.bits - 1 - g.val)))

/-- BFE (R180). -/
def execBfe (f : FR) (s : State) := coreR 0x058 f s (fun cx => shiftBin s cx (bfe cx.sgn cx.bits))
/-- The twin of the above (R134). -/
def execBfeTwin (f : FR) (m : Mod) (s : State) := coreT 0x058 f m s (fun cx => shiftBin s cx (bfe cx.sgn cx.bits))

/-- BFI (R180). -/
def execBfi (f : FR) (s : State) := coreR 0x059 f s (fun cx => bfiRun s cx)
/-- The twin of the above (R134). -/
def execBfiTwin (f : FR) (m : Mod) (s : State) := coreT 0x059 f m s (fun cx => bfiRun s cx)

/-- POPC (R179). -/
def execPopc (f : FR) (s : State) := coreR 0x05A f s (fun cx => laneExec s cx true (read1 s cx) (fun _ g => out32 (popc cx.bits g.val)))
/-- The twin of the above (R134). -/
def execPopcTwin (f : FR) (m : Mod) (s : State) := coreT 0x05A f m s (fun cx => laneExec s cx true (read1 s cx) (fun _ g => out32 (popc cx.bits g.val)))

/-- CLZ (R179). -/
def execClz (f : FR) (s : State) := coreR 0x05B f s (fun cx => laneExec s cx true (read1 s cx) (fun _ g => out32 (clz cx.bits g.val)))
/-- The twin of the above (R134). -/
def execClzTwin (f : FR) (m : Mod) (s : State) := coreT 0x05B f m s (fun cx => laneExec s cx true (read1 s cx) (fun _ g => out32 (clz cx.bits g.val)))

/-- BREV (R179). -/
def execBrev (f : FR) (s : State) := coreR 0x05C f s (fun cx => laneExec s cx true (read1 s cx) (fun _ g => outN cx (brev cx.bits g.val)))
/-- The twin of the above (R134). -/
def execBrevTwin (f : FR) (m : Mod) (s : State) := coreT 0x05C f m s (fun cx => laneExec s cx true (read1 s cx) (fun _ g => outN cx (brev cx.bits g.val)))

/-- PRMT (R181). -/
def execPrmt (f : FR) (s : State) := coreR 0x05D f s (fun cx => laneExec s cx true (read3 s cx) (fun _ g => out32 (prmt g.val.1 g.val.2.1 g.val.2.2)))
/-- The twin of the above (R134). -/
def execPrmtTwin (f : FR) (m : Mod) (s : State) := coreT 0x05D f m s (fun cx => laneExec s cx true (read3 s cx) (fun _ g => out32 (prmt g.val.1 g.val.2.1 g.val.2.2)))

end Sys2Proof.Machine
end

