-- ==== Sys2Proof/Machine/Float.lean ====
section
/-! DEFINITION. Scalar floating point and packed pairs (spec/09 R186-R193). -/

namespace Sys2Proof.Machine

/-! ### Scalars (R188-R191) -/

/-- The word that one rounded element draws under `.SR` (R72); no word is taken under the other modes. -/
def srWord (cx : Cx) : Rd Nat := if cx.rnd = 4 then (do let u ← nextWord; pure u.toNat) else pure 0

/-- An FP32 operand as a value. -/
def v32 (x : Nat) : FV := fval .f32 x

/-- d := an exact value of a, b and d (with leftover digits), rounded once (R71-R73); `long` as R186 says. -/
def fpRun (s : State) (cx : Cx) (useB useD long : Bool) (op : Nat → Nat → Nat → FV × Bool) : State :=
  laneExec s cx true (fun tid => do
      let a ← readA s cx tid false
      let b ← if useB then readB s cx tid false else pure 0
      let d ← if useD then readD s cx tid false else pure 0
      let u ← srWord cx
      pure (a, b, d, u)) (fun _ g =>
    let (a, b, d, u) := g.val
    let v := op a b d
    { out32 (roundF .f32 cx.rnd cx.m.sat u v.1 v.2) with long := long })

/-- d := a function of the word a. -/
def fpUn (s : State) (cx : Cx) (long : Bool) (op : Nat → Nat) : State :=
  laneExec s cx true (fun tid => readA s cx tid false) (fun _ g => { out32 (op g.val) with long := long })

/-- d := a function of the words a and b. -/
def fpBin (s : State) (cx : Cx) (op : Nat → Nat → Nat) : State :=
  laneExec s cx true (fun tid => do
      let a ← readA s cx tid false
      let b ← readB s cx tid false
      pure (a, b)) (fun _ g => out32 (op g.val.1 g.val.2))

/-- FSETP (R189). -/
def fsetp (s : State) (cx : Cx) : State :=
  laneExec s cx false (fun tid => do
      let a ← readA s cx tid false
      let b ← readB s cx tid false
      pure (a, b)) (fun _ g =>
    { preds := [(cx.f.d.toNat % 8, fcond (cx.f.d.toNat / 8 % 8) (v32 g.val.1) (v32 g.val.2))] })

/-- a * 2^b (R188 FSCALE): beyond 400 either way the exponent no longer changes the rounded result. -/
def fscaleV (a b : Nat) : FV := shiftV (v32 a) (max (-400) (min 400 (sext 32 b)))

/-! ### Packed pairs (R192, R193) -/

/-- The element format of TYPE (R192). -/
def Cx.half (cx : Cx) : Fmt := if cx.ty = 0 then .bf16 else .f16

/-- The two elements of a word, element 0 low (R64). -/
def lo16 (x : Nat) : Nat := x % 2 ^ 16
def hi16 (x : Nat) : Nat := x / 2 ^ 16 % 2 ^ 16
/-- Two elements as a word. -/
def pair16 (l h : Nat) : Nat := l + 2 ^ 16 * h

/-- Each element an exact value of the operands' elements, rounded once; the low element draws first (R77). -/
def packRun (s : State) (cx : Cx) (useD : Bool) (op : FV → FV → FV → FV) : State :=
  laneExec s cx true (fun tid => do
      let a ← readA s cx tid false
      let b ← readB s cx tid false
      let d ← if useD then readD s cx tid false else pure 0
      let u0 ← srWord cx
      let u1 ← srWord cx
      pure (a, b, d, u0, u1)) (fun _ g =>
    let (a, b, d, u0, u1) := g.val
    let el (e : Nat → Nat) (u : Nat) : Nat :=
      roundF cx.half cx.rnd cx.m.sat u (op (fval cx.half (e a)) (fval cx.half (e b)) (fval cx.half (e d)))
    out32 (pair16 (el lo16 u0) (el hi16 u1)))

/-- Each element a function of the elements of a and b. -/
def packBin (s : State) (cx : Cx) (op : Nat → Nat → Nat) : State :=
  fpBin s cx (fun a b => pair16 (op (lo16 a) (lo16 b)) (op (hi16 a) (hi16 b)))
/-- Each element a function of the element of a. -/
def packUn (s : State) (cx : Cx) (long : Bool) (op : Nat → Nat) : State :=
  fpUn s cx long (fun a => pair16 (op (lo16 a)) (op (hi16 a)))

/-- HSETP2 (R193). -/
def hsetp2 (s : State) (cx : Cx) : State :=
  laneExec s cx false (fun tid => do
      let a ← readA s cx tid false
      let b ← readB s cx tid false
      pure (a, b)) (fun _ g =>
    let p := cx.f.d.toNat % 8
    let c (e : Nat → Nat) : Bool :=
      fcond (cx.f.d.toNat / 8 % 8) (fval cx.half (e g.val.1)) (fval cx.half (e g.val.2))
    { preds := [(p, c lo16), (p + 1, c hi16)] })

/-- HDOT2 (R193): the exact sum of two products and d, rounded once to FP32. -/
def hdot2 (s : State) (cx : Cx) : State :=
  fpRun s cx true true false (fun a b d =>
    let p (e : Nat → Nat) : FV := mulV (fval cx.half (e a)) (fval cx.half (e b))
    (addV cx.rnd (addV cx.rnd (p lo16) (p hi16)) (v32 d), false))

/-! ### The instructions, each with its twin -/

/-- FADD (R188). -/
def execFadd (f : FR) (s : State) := coreR 0x080 f s (fun cx => fpRun s cx true false false (fun a b _ => (addV cx.rnd (v32 a) (v32 b), false)))
/-- The twin of the above (R134). -/
def execFaddTwin (f : FR) (m : Mod) (s : State) := coreT 0x080 f m s (fun cx => fpRun s cx true false false (fun a b _ => (addV cx.rnd (v32 a) (v32 b), false)))

/-- FSUB (R188). -/
def execFsub (f : FR) (s : State) := coreR 0x081 f s (fun cx => fpRun s cx true false false (fun a b _ => (addV cx.rnd (v32 a) (negV (v32 b)), false)))
/-- The twin of the above (R134). -/
def execFsubTwin (f : FR) (m : Mod) (s : State) := coreT 0x081 f m s (fun cx => fpRun s cx true false false (fun a b _ => (addV cx.rnd (v32 a) (negV (v32 b)), false)))

/-- FMUL (R188). -/
def execFmul (f : FR) (s : State) := coreR 0x082 f s (fun cx => fpRun s cx true false false (fun a b _ => (mulV (v32 a) (v32 b), false)))
/-- The twin of the above (R134). -/
def execFmulTwin (f : FR) (m : Mod) (s : State) := coreT 0x082 f m s (fun cx => fpRun s cx true false false (fun a b _ => (mulV (v32 a) (v32 b), false)))

/-- FFMA (R188, R77). -/
def execFfma (f : FR) (s : State) := coreR 0x083 f s (fun cx => fpRun s cx true true false (fun a b d => (addV cx.rnd (mulV (v32 a) (v32 b)) (v32 d), false)))
/-- The twin of the above (R134). -/
def execFfmaTwin (f : FR) (m : Mod) (s : State) := coreT 0x083 f m s (fun cx => fpRun s cx true true false (fun a b d => (addV cx.rnd (mulV (v32 a) (v32 b)) (v32 d), false)))

/-- FMIN (R189). -/
def execFmin (f : FR) (s : State) := coreR 0x084 f s (fun cx => fpBin s cx (minmax .f32 false))
/-- The twin of the above (R134). -/
def execFminTwin (f : FR) (m : Mod) (s : State) := coreT 0x084 f m s (fun cx => fpBin s cx (minmax .f32 false))

/-- FMAX (R189). -/
def execFmax (f : FR) (s : State) := coreR 0x085 f s (fun cx => fpBin s cx (minmax .f32 true))
/-- The twin of the above (R134). -/
def execFmaxTwin (f : FR) (m : Mod) (s : State) := coreT 0x085 f m s (fun cx => fpBin s cx (minmax .f32 true))

/-- FABS (R188). -/
def execFabs (f : FR) (s : State) := coreR 0x086 f s (fun cx => fpUn s cx false (fabsF .f32))
/-- The twin of the above (R134). -/
def execFabsTwin (f : FR) (m : Mod) (s : State) := coreT 0x086 f m s (fun cx => fpUn s cx false (fabsF .f32))

/-- FNEG (R188). -/
def execFneg (f : FR) (s : State) := coreR 0x087 f s (fun cx => fpUn s cx false (fnegF .f32))
/-- The twin of the above (R134). -/
def execFnegTwin (f : FR) (m : Mod) (s : State) := coreT 0x087 f m s (fun cx => fpUn s cx false (fnegF .f32))

/-- FSETP (R189). -/
def execFsetp (f : FR) (s : State) := coreR 0x088 f s (fun cx => fsetp s cx)
/-- The twin of the above (R134). -/
def execFsetpTwin (f : FR) (m : Mod) (s : State) := coreT 0x088 f m s (fun cx => fsetp s cx)

/-- FCLASS (R190). -/
def execFclass (f : FR) (s : State) := coreR 0x089 f s (fun cx => fpUn s cx false fclass)
/-- The twin of the above (R134). -/
def execFclassTwin (f : FR) (m : Mod) (s : State) := coreT 0x089 f m s (fun cx => fpUn s cx false fclass)

/-- FRCP (R191). -/
def execFrcp (f : FR) (s : State) := coreR 0x08A f s (fun cx => fpUn s cx true (rcpF .f32))
/-- The twin of the above (R134). -/
def execFrcpTwin (f : FR) (m : Mod) (s : State) := coreT 0x08A f m s (fun cx => fpUn s cx true (rcpF .f32))

/-- FRSQ (R191). -/
def execFrsq (f : FR) (s : State) := coreR 0x08B f s (fun cx => fpUn s cx true frsq)
/-- The twin of the above (R134). -/
def execFrsqTwin (f : FR) (m : Mod) (s : State) := coreT 0x08B f m s (fun cx => fpUn s cx true frsq)

/-- FSQRT (R188). -/
def execFsqrt (f : FR) (s : State) := coreR 0x08C f s (fun cx => fpRun s cx false false true (fun a _ _ => sqrtV (v32 a)))
/-- The twin of the above (R134). -/
def execFsqrtTwin (f : FR) (m : Mod) (s : State) := coreT 0x08C f m s (fun cx => fpRun s cx false false true (fun a _ _ => sqrtV (v32 a)))

/-- FDIV (R188). -/
def execFdiv (f : FR) (s : State) := coreR 0x08D f s (fun cx => fpRun s cx true false true (fun a b _ => divV (v32 a) (v32 b)))
/-- The twin of the above (R134). -/
def execFdivTwin (f : FR) (m : Mod) (s : State) := coreT 0x08D f m s (fun cx => fpRun s cx true false true (fun a b _ => divV (v32 a) (v32 b)))

/-- FEXP2 (R191). -/
def execFexp2 (f : FR) (s : State) := coreR 0x08E f s (fun cx => fpUn s cx true fexp2)
/-- The twin of the above (R134). -/
def execFexp2Twin (f : FR) (m : Mod) (s : State) := coreT 0x08E f m s (fun cx => fpUn s cx true fexp2)

/-- FLOG2 (R191). -/
def execFlog2 (f : FR) (s : State) := coreR 0x08F f s (fun cx => fpUn s cx true flog2)
/-- The twin of the above (R134). -/
def execFlog2Twin (f : FR) (m : Mod) (s : State) := coreT 0x08F f m s (fun cx => fpUn s cx true flog2)

/-- FTANH (R191). -/
def execFtanh (f : FR) (s : State) := coreR 0x090 f s (fun cx => fpUn s cx true (tanhF .f32 21 4))
/-- The twin of the above (R134). -/
def execFtanhTwin (f : FR) (m : Mod) (s : State) := coreT 0x090 f m s (fun cx => fpUn s cx true (tanhF .f32 21 4))

/-- FSIN (R191). -/
def execFsin (f : FR) (s : State) := coreR 0x091 f s (fun cx => fpUn s cx true (fturn false))
/-- The twin of the above (R134). -/
def execFsinTwin (f : FR) (m : Mod) (s : State) := coreT 0x091 f m s (fun cx => fpUn s cx true (fturn false))

/-- FCOS (R191). -/
def execFcos (f : FR) (s : State) := coreR 0x092 f s (fun cx => fpUn s cx true (fturn true))
/-- The twin of the above (R134). -/
def execFcosTwin (f : FR) (m : Mod) (s : State) := coreT 0x092 f m s (fun cx => fpUn s cx true (fturn true))

/-- FSIGM (R191). -/
def execFsigm (f : FR) (s : State) := coreR 0x093 f s (fun cx => fpUn s cx true fsigm)
/-- The twin of the above (R134). -/
def execFsigmTwin (f : FR) (m : Mod) (s : State) := coreT 0x093 f m s (fun cx => fpUn s cx true fsigm)

/-- FERF (R191). -/
def execFerf (f : FR) (s : State) := coreR 0x094 f s (fun cx => fpUn s cx true ferf)
/-- The twin of the above (R134). -/
def execFerfTwin (f : FR) (m : Mod) (s : State) := coreT 0x094 f m s (fun cx => fpUn s cx true ferf)

/-- FRND (R188). -/
def execFrnd (f : FR) (s : State) := coreR 0x095 f s (fun cx => fpUn s cx false (frnd cx.rnd))
/-- The twin of the above (R134). -/
def execFrndTwin (f : FR) (m : Mod) (s : State) := coreT 0x095 f m s (fun cx => fpUn s cx false (frnd cx.rnd))

/-- FSCALE (R188). -/
def execFscale (f : FR) (s : State) := coreR 0x096 f s (fun cx => fpRun s cx true false false (fun a b _ => (fscaleV a b, false)))
/-- The twin of the above (R134). -/
def execFscaleTwin (f : FR) (m : Mod) (s : State) := coreT 0x096 f m s (fun cx => fpRun s cx true false false (fun a b _ => (fscaleV a b, false)))

/-- HADD2 (R192). -/
def execHadd2 (f : FR) (s : State) := coreR 0x0A0 f s (fun cx => packRun s cx false (fun a b _ => addV cx.rnd a b))
/-- The twin of the above (R134). -/
def execHadd2Twin (f : FR) (m : Mod) (s : State) := coreT 0x0A0 f m s (fun cx => packRun s cx false (fun a b _ => addV cx.rnd a b))

/-- HSUB2 (R192). -/
def execHsub2 (f : FR) (s : State) := coreR 0x0A1 f s (fun cx => packRun s cx false (fun a b _ => addV cx.rnd a (negV b)))
/-- The twin of the above (R134). -/
def execHsub2Twin (f : FR) (m : Mod) (s : State) := coreT 0x0A1 f m s (fun cx => packRun s cx false (fun a b _ => addV cx.rnd a (negV b)))

/-- HMUL2 (R192). -/
def execHmul2 (f : FR) (s : State) := coreR 0x0A2 f s (fun cx => packRun s cx false (fun a b _ => mulV a b))
/-- The twin of the above (R134). -/
def execHmul2Twin (f : FR) (m : Mod) (s : State) := coreT 0x0A2 f m s (fun cx => packRun s cx false (fun a b _ => mulV a b))

/-- HFMA2 (R192, R77). -/
def execHfma2 (f : FR) (s : State) := coreR 0x0A3 f s (fun cx => packRun s cx true (fun a b d => addV cx.rnd (mulV a b) d))
/-- The twin of the above (R134). -/
def execHfma2Twin (f : FR) (m : Mod) (s : State) := coreT 0x0A3 f m s (fun cx => packRun s cx true (fun a b d => addV cx.rnd (mulV a b) d))

/-- HMIN2 (R192). -/
def execHmin2 (f : FR) (s : State) := coreR 0x0A4 f s (fun cx => packBin s cx (minmax cx.half false))
/-- The twin of the above (R134). -/
def execHmin2Twin (f : FR) (m : Mod) (s : State) := coreT 0x0A4 f m s (fun cx => packBin s cx (minmax cx.half false))

/-- HMAX2 (R192). -/
def execHmax2 (f : FR) (s : State) := coreR 0x0A5 f s (fun cx => packBin s cx (minmax cx.half true))
/-- The twin of the above (R134). -/
def execHmax2Twin (f : FR) (m : Mod) (s : State) := coreT 0x0A5 f m s (fun cx => packBin s cx (minmax cx.half true))

/-- HABS2 (R192). -/
def execHabs2 (f : FR) (s : State) := coreR 0x0A6 f s (fun cx => packUn s cx false (fabsF cx.half))
/-- The twin of the above (R134). -/
def execHabs2Twin (f : FR) (m : Mod) (s : State) := coreT 0x0A6 f m s (fun cx => packUn s cx false (fabsF cx.half))

/-- HSETP2 (R193). -/
def execHsetp2 (f : FR) (s : State) := coreR 0x0A7 f s (fun cx => hsetp2 s cx)
/-- The twin of the above (R134). -/
def execHsetp2Twin (f : FR) (m : Mod) (s : State) := coreT 0x0A7 f m s (fun cx => hsetp2 s cx)

/-- HDOT2 (R193). -/
def execHdot2 (f : FR) (s : State) := coreR 0x0A8 f s (fun cx => hdot2 s cx)
/-- The twin of the above (R134). -/
def execHdot2Twin (f : FR) (m : Mod) (s : State) := coreT 0x0A8 f m s (fun cx => hdot2 s cx)

/-- HTANH2 (R192). -/
def execHtanh2 (f : FR) (s : State) := coreR 0x0A9 f s (fun cx => packUn s cx true (tanhF cx.half 10 (if cx.ty = 0 then 9 else 10)))
/-- The twin of the above (R134). -/
def execHtanh2Twin (f : FR) (m : Mod) (s : State) := coreT 0x0A9 f m s (fun cx => packUn s cx true (tanhF cx.half 10 (if cx.ty = 0 then 9 else 10)))

/-- HRCP2 (R192). -/
def execHrcp2 (f : FR) (s : State) := coreR 0x0AA f s (fun cx => packUn s cx true (rcpF cx.half))
/-- The twin of the above (R134). -/
def execHrcp2Twin (f : FR) (m : Mod) (s : State) := coreT 0x0AA f m s (fun cx => packUn s cx true (rcpF cx.half))

end Sys2Proof.Machine
end

