-- ==== Sys2Proof/Machine/Convert.lean ====
section
/-! DEFINITION. Conversions and narrow packing (spec/09 R194-R196, spec/04 R67-R74). -/

namespace Sys2Proof.Machine

/-- The widths of a conversion's source and destination (R194). -/
def Cx.srcWide (cx : Cx) : Bool := Sys2Proof.Machine.wide cx.e cx.m .wopt
def Cx.dstWide (cx : Cx) : Bool := Sys2Proof.Machine.wide cx.e cx.m .wty

/-- An integer result of a conversion: extended to the register, or to 64 bits in a scalar (R194, R50). -/
def intOut (code : Nat) (x : Int) : Out :=
  let (n, sgn) := cvtInt code
  let v : Int := if sgn then sext n (wrapN n x) else (wrapN n x : Nat)
  if n = 64 then out64 (wrapN 64 v)
  else if n = 32 then out32 (wrapN 32 v)
  else { out32 (wrapN 32 v) with scalar := some (BitVec.ofNat 64 (wrapN 64 v)) }

/-- CVTF (R194, R82): a widening conversion draws no word. -/
def cvtf (s : State) (cx : Cx) : State :=
  let w := widens cx.ty (cx.opt % 8)
  laneExec s cx true (fun tid => do
      let a ← readA s cx tid false
      let u ← if w then pure 0 else srWord cx
      pure (a, u)) (fun _ g =>
    let src := cvtFmt (cx.opt % 8)
    out32 (roundF (cvtFmt cx.ty) (if w then 0 else cx.rnd) cx.m.sat g.val.2 (fval src (g.val.1 % 2 ^ (magBits src + 1)))))

/-- CVTI (R194, R73). -/
def cvti (s : State) (cx : Cx) : State :=
  laneExec s cx true (fun tid => readA s cx tid false) (fun _ g =>
    let src := cvtFmt (cx.opt % 8)
    let (n, sgn) := cvtInt cx.ty
    intOut cx.ty (toInt n sgn cx.rnd (fval src (g.val % 2 ^ (magBits src + 1)))))

/-- The value of an integer source (R194). -/
def intSrc (code x : Nat) : Int :=
  let (n, sgn) := cvtInt code
  if sgn then sext n x else (x % 2 ^ n : Nat)

/-- CVTIF (R194, R82). -/
def cvtif (s : State) (cx : Cx) : State :=
  laneExec s cx true (fun tid => do
      let a ← readA s cx tid cx.srcWide
      let u ← srWord cx
      pure (a, u)) (fun _ g =>
    out32 (roundF (cvtFmt cx.ty) cx.rnd cx.m.sat g.val.2 (ofInt false (intSrc (cx.opt % 8) g.val.1) 0)))

/-- CVTII (R194). -/
def cvtii (s : State) (cx : Cx) : State :=
  laneExec s cx true (fun tid => readA s cx tid cx.srcWide) (fun _ g =>
    let x := intSrc (cx.opt % 8) g.val
    let (n, sgn) := cvtInt cx.ty
    intOut cx.ty (if cx.m.sat then clampInt n sgn x else x))

/-- An exact value rounded to an integer, under `.SR` by the word u (R72). -/
def roundIntU (mode u : Nat) (v : FV) : Option Int :=
  match v with
  | .fin neg m e =>
    if 0 ≤ e then some (signed neg (m * 2 ^ e.toNat))
    else
      let k := (-e).toNat
      let lo := m / 2 ^ k
      some (signed neg (if roundsUp mode u neg (lo % 2 == 1) false (m % 2 ^ k) k then lo + 1 else lo))
  | _ => none

/-- FP32 to an n-bit integer pattern, plus an offset, saturated; NaN gives 0 and an infinity the bound of its sign
(R73, R195, R196). -/
def intConv (n : Nat) (sgn : Bool) (mode u : Nat) (off : Int) (v : FV) : Nat :=
  match v with
  | .nan => 0
  | .inf neg => wrapN n (clampInt n sgn (if neg then -(2 ^ 80 : Nat) else (2 ^ 80 : Nat)))
  | .fin _ _ _ => wrapN n (clampInt n sgn ((roundIntU mode u v).getD 0 + off))

/-- One byte of PACK8 (R195). -/
def pack8Byte (ty mode : Nat) (sat : Bool) (u a : Nat) : Nat :=
  match ty with
  | 0 => roundF .e4m3 mode sat u (v32 a)
  | 1 => roundF .e5m2 mode sat u (v32 a)
  | 2 => intConv 8 true mode u 0 (v32 a)
  | _ => intConv 8 false mode u 0 (v32 a)

/-- Bits [lo + n - 1 : lo] of d replaced by x. -/
def putBits (d lo n x : Nat) : Nat := d / 2 ^ (lo + n) * 2 ^ (lo + n) + x % 2 ^ n * 2 ^ lo + d % 2 ^ lo

/-- PACK8 (R195): under `.SR`, a draws first. -/
def pack8 (s : State) (cx : Cx) : State :=
  laneExec s cx true (fun tid => do
      let a ← readA s cx tid false
      let b ← readB s cx tid false
      let d ← readD s cx tid false
      let u0 ← srWord cx
      let u1 ← srWord cx
      pure (a, b, d, u0, u1)) (fun _ g =>
    let (a, b, d, u0, u1) := g.val
    let x := pack8Byte cx.ty cx.rnd cx.m.sat u0 a + 256 * pack8Byte cx.ty cx.rnd cx.m.sat u1 b
    out32 (putBits d (16 * (cx.opt % 2)) 16 x))

/-- UNPK8 (R195). -/
def unpk8 (s : State) (cx : Cx) : State :=
  fpUn s cx false (fun a =>
    let x := a / 2 ^ (8 * (cx.opt % 4)) % 256
    roundF .f32 0 false 0 (match cx.ty with
      | 0 => fval .e4m3 x
      | 1 => fval .e5m2 x
      | 2 => ofInt false (sext 8 x) 0
      | _ => ofInt false (x : Int) 0))

/-- The nibble of PACK4 (R196); a NaN under a scale that is no NaN has none stated, so it is a free value of the operands
(R11). -/
def pack4Nibble (ty mode u a b : Nat) : Nat :=
  if ty = 0 then
    (if b % 256 = 255 then 0
     else if isNaN (v32 a) then (Config.unstated 9 [BitVec.ofNat 32 a, BitVec.ofNat 32 b]).toNat % 16
     else roundF .e2m1 mode false u (shiftV (v32 a) (-(scaleExp (b % 256)))))
  else intConv 4 true mode u (sext 32 b) (v32 a)

/-- PACK4 (R196). -/
def pack4 (s : State) (cx : Cx) : State :=
  laneExec s cx true (fun tid => do
      let a ← readA s cx tid false
      let b ← readB s cx tid false
      let d ← readD s cx tid false
      let u ← srWord cx
      pure (a, b, d, u)) (fun _ g =>
    let (a, b, d, u) := g.val
    out32 (putBits d (4 * (cx.opt % 8)) 4 (pack4Nibble cx.ty cx.rnd u a b)))

/-- UNPK4 (R196). -/
def unpk4 (s : State) (cx : Cx) : State :=
  fpBin s cx (fun a b =>
    let q := a / 2 ^ (4 * (cx.opt % 8)) % 16
    if cx.ty = 0 then
      (if b % 256 = 255 then nanCode .f32 else roundF .f32 0 false 0 (shiftV (fval .e2m1 q) (scaleExp (b % 256))))
    else roundF .f32 0 false 0 (ofInt false (sext 4 q - sext 32 b) 0))

/-- The DS8 byte of an FP32 value under scale s (R196, R70). -/
def packDsByte (a sc : Nat) : Nat :=
  if sc = 255 then 0x77
  else
    match shiftV (v32 a) (-(scaleExp sc)) with
    | .nan => 0x77
    | .inf neg => ds8Enc neg 4 0
    | .fin neg m e => ds8Enc neg m e

/-- PACKDS (R196). -/
def packds (s : State) (cx : Cx) : State :=
  laneExec s cx true (read3 s cx) (fun _ g =>
    out32 (putBits g.val.2.2 (8 * (cx.opt % 4)) 8 (packDsByte g.val.1 (g.val.2.1 % 256))))

/-- UNPKDS (R196, R69). -/
def unpkds (s : State) (cx : Cx) : State :=
  fpBin s cx (fun a b => roundF .f32 0 false 0 (ds8Val (a / 2 ^ (8 * (cx.opt % 4)) % 256) (b % 256)))

/-- CVT2 (R196). -/
def cvt2 (s : State) (cx : Cx) : State :=
  laneExec s cx true (fun tid => do
      let a ← readA s cx tid false
      let b ← readB s cx tid false
      let u0 ← srWord cx
      let u1 ← srWord cx
      pure (a, b, u0, u1)) (fun _ g =>
    let (a, b, u0, u1) := g.val
    out32 (pair16 (roundF cx.half cx.rnd cx.m.sat u0 (v32 a)) (roundF cx.half cx.rnd cx.m.sat u1 (v32 b))))

/-! ### The instructions, each with its twin -/

/-- CVTF (R194). -/
def execCvtf (f : FR) (s : State) := coreR 0x0C0 f s (fun cx => cvtf s cx)
/-- The twin of the above (R134). -/
def execCvtfTwin (f : FR) (m : Mod) (s : State) := coreT 0x0C0 f m s (fun cx => cvtf s cx)

/-- CVTI (R194). -/
def execCvti (f : FR) (s : State) := coreR 0x0C1 f s (fun cx => cvti s cx)
/-- The twin of the above (R134). -/
def execCvtiTwin (f : FR) (m : Mod) (s : State) := coreT 0x0C1 f m s (fun cx => cvti s cx)

/-- CVTIF (R194). -/
def execCvtif (f : FR) (s : State) := coreR 0x0C2 f s (fun cx => cvtif s cx)
/-- The twin of the above (R134). -/
def execCvtifTwin (f : FR) (m : Mod) (s : State) := coreT 0x0C2 f m s (fun cx => cvtif s cx)

/-- CVTII (R194). -/
def execCvtii (f : FR) (s : State) := coreR 0x0C3 f s (fun cx => cvtii s cx)
/-- The twin of the above (R134). -/
def execCvtiiTwin (f : FR) (m : Mod) (s : State) := coreT 0x0C3 f m s (fun cx => cvtii s cx)

/-- PACK8 (R195). -/
def execPack8 (f : FR) (s : State) := coreR 0x0C4 f s (fun cx => pack8 s cx)
/-- The twin of the above (R134). -/
def execPack8Twin (f : FR) (m : Mod) (s : State) := coreT 0x0C4 f m s (fun cx => pack8 s cx)

/-- UNPK8 (R195). -/
def execUnpk8 (f : FR) (s : State) := coreR 0x0C5 f s (fun cx => unpk8 s cx)
/-- The twin of the above (R134). -/
def execUnpk8Twin (f : FR) (m : Mod) (s : State) := coreT 0x0C5 f m s (fun cx => unpk8 s cx)

/-- PACK4 (R196). -/
def execPack4 (f : FR) (s : State) := coreR 0x0C6 f s (fun cx => pack4 s cx)
/-- The twin of the above (R134). -/
def execPack4Twin (f : FR) (m : Mod) (s : State) := coreT 0x0C6 f m s (fun cx => pack4 s cx)

/-- UNPK4 (R196). -/
def execUnpk4 (f : FR) (s : State) := coreR 0x0C7 f s (fun cx => unpk4 s cx)
/-- The twin of the above (R134). -/
def execUnpk4Twin (f : FR) (m : Mod) (s : State) := coreT 0x0C7 f m s (fun cx => unpk4 s cx)

/-- PACKDS (R196). -/
def execPackds (f : FR) (s : State) := coreR 0x0C8 f s (fun cx => packds s cx)
/-- The twin of the above (R134). -/
def execPackdsTwin (f : FR) (m : Mod) (s : State) := coreT 0x0C8 f m s (fun cx => packds s cx)

/-- UNPKDS (R196). -/
def execUnpkds (f : FR) (s : State) := coreR 0x0C9 f s (fun cx => unpkds s cx)
/-- The twin of the above (R134). -/
def execUnpkdsTwin (f : FR) (m : Mod) (s : State) := coreT 0x0C9 f m s (fun cx => unpkds s cx)

/-- BSCALE (R196). -/
def execBscale (f : FR) (s : State) := coreR 0x0CA f s (fun cx => fpUn s cx false (bscale (if cx.ty = 0 then 2 else 1)))
/-- The twin of the above (R134). -/
def execBscaleTwin (f : FR) (m : Mod) (s : State) := coreT 0x0CA f m s (fun cx => fpUn s cx false (bscale (if cx.ty = 0 then 2 else 1)))

/-- CVT2 (R196). -/
def execCvt2 (f : FR) (s : State) := coreR 0x0CB f s (fun cx => cvt2 s cx)
/-- The twin of the above (R134). -/
def execCvt2Twin (f : FR) (m : Mod) (s : State) := coreT 0x0CB f m s (fun cx => cvt2 s cx)

end Sys2Proof.Machine
end

