-- ==== Sys2Proof/Machine/GroupData.lean ====
section
/-! DEFINITION. Group data (spec/09 R197-R200). -/

namespace Sys2Proof.Machine

/-- A group-data instruction: a result from all participants' values, read before any is written; its destination comes
after the lane pipeline (R186, R197). Under U = 1 every participant has the lowest-numbered one's operands (R57). -/
def groupExec {α : Type} (s : State) (cx : Cx) (hasD : Bool) (rd : Nat → Rd α) (fin : List (Nat × α) → Nat → α → Out) :
    State :=
  laneExec s cx hasD rd (fun gs g =>
    let ps := if cx.uni then cx.fl.run.map (fun t => (t, g.val)) else gs.map (fun x => (x.tid, x.val))
    { fin ps g.tid g.val with long := hasD }) true

/-- The value of a participant. -/
def partVal {α : Type} (ps : List (Nat × α)) (t : Nat) : Option α := (ps.find? (fun p => p.1 == t)).map (·.2)

/-- SHFL, SHFLX and BCAST (R198): `src` gives thread t's source index from its b and the lowest participant's b. -/
def shuffle (s : State) (cx : Cx) (src : Nat → Nat → Nat → Nat) : State :=
  groupExec s cx true (fun tid => do
      let a ← readA s cx tid cx.wide
      let b ← readB s cx tid false
      let d ← readD s cx tid cx.wide
      pure (a, b, d)) (fun ps t v =>
    let lowB := match ps with
      | p :: _ => p.2.2.1
      | [] => 0
    let got := partVal ps (src t v.2.1 lowB)
    let o := if cx.m.lit then 0 else cx.opt
    { outN cx (match got with
        | some x => x.1
        | none => v.2.2) with
      preds := if bitOf o 3 then [(o % 8, got.isSome)] else [] })

/-- Predicate A of each thread. -/
def readPred (cx : Cx) : Rd Bool := do
  let w ← get
  pure (pred w.th cx.f.a.toNat)

/-- VOTE (R199). -/
def voteRun (s : State) (cx : Cx) : State :=
  groupExec s cx false (fun _ => readPred cx) (fun ps _ _ =>
    let all := ps.all (·.2)
    let any := ps.any (·.2)
    { preds := [(cx.f.d.toNat, match cx.opt % 4 with
        | 0 => any
        | 1 => all
        | _ => all || !any)] })

/-- A mask of the participants that satisfy p. -/
def maskOf {α : Type} (ps : List (Nat × α)) (p : α → Bool) : Nat :=
  (ps.filter (fun x => p x.2)).foldl (fun m x => m + 2 ^ x.1) 0

/-- BALLOT (R199). -/
def ballotRun (s : State) (cx : Cx) : State :=
  groupExec s cx true (fun _ => readPred cx) (fun ps _ _ => out64 (maskOf ps id))

/-- FFS (R199). -/
def ffsRun (s : State) (cx : Cx) : State :=
  groupExec s cx true (fun tid => readA s cx tid cx.wide) (fun _ _ a =>
    out32 (if a = 0 then 0xFFFFFFFF else ((bitList cx.bits a).takeWhile (fun b => !b)).length))

/-- GMATCH (R199). -/
def gmatchRun (s : State) (cx : Cx) : State :=
  groupExec s cx true (fun tid => readA s cx tid cx.wide) (fun ps _ a => out64 (maskOf ps (· == a)))

/-- GCOUNT (R199). -/
def gcountRun (s : State) (cx : Cx) : State :=
  groupExec s cx true (fun _ => pure ()) (fun ps _ _ => out32 ps.length)

/-- One step of GRED and GSCAN (R200). -/
def redStep (cx : Cx) (acc x : Nat) : Nat :=
  let n := cx.bits
  if cx.ty = 4 then
    match cx.opt % 8 with
    | 0 => faddN acc x
    | 1 => if isNaN (v32 acc) || isNaN (v32 x) then nanCode .f32 else minmax .f32 false acc x
    | _ => if isNaN (v32 acc) || isNaN (v32 x) then nanCode .f32 else minmax .f32 true acc x
  else
    match cx.opt % 8 with
    | 0 => narrow cx.m.sat cx.sgn n (cx.val acc + cx.val x)
    | 1 => wrapN n (min (cx.val acc) (cx.val x))
    | 2 => wrapN n (max (cx.val acc) (cx.val x))
    | 3 => Nat.land acc x
    | 4 => Nat.lor acc x
    | _ => Nat.xor acc x

/-- The identity of the operation (R200). -/
def redIdentity (cx : Cx) : Nat :=
  let n := cx.bits
  if cx.ty = 4 then
    match cx.opt % 8 with
    | 0 => 0x80000000
    | 1 => 0x7F800000
    | _ => 0xFF800000
  else
    match cx.opt % 8 with
    | 0 => 0
    | 1 => if cx.sgn then 2 ^ (n - 1) - 1 else 2 ^ n - 1
    | 2 => if cx.sgn then 2 ^ (n - 1) else 0
    | 3 => 2 ^ n - 1
    | _ => 0

/-- GRED, and GSCAN over the participants that `inRange` admits for a thread (R200). -/
def reduceRun (s : State) (cx : Cx) (inRange : Nat → Nat → Bool) : State :=
  groupExec s cx true (fun tid => readA s cx tid cx.wide) (fun ps t _ =>
    outN cx ((ps.filter (fun p => inRange p.1 t)).foldl (fun acc p => redStep cx acc p.2) (redIdentity cx)))

/-! ### The instructions, each with its twin -/

/-- SHFL (R198). -/
def execShfl (f : FR) (s : State) := coreR 0x0D0 f s (fun cx => shuffle s cx (fun _ b _ => b))
/-- The twin of the above (R134). -/
def execShflTwin (f : FR) (m : Mod) (s : State) := coreT 0x0D0 f m s (fun cx => shuffle s cx (fun _ b _ => b))

/-- SHFLX (R198). -/
def execShflx (f : FR) (s : State) := coreR 0x0D1 f s (fun cx => shuffle s cx (fun t b _ => Nat.xor t b))
/-- The twin of the above (R134). -/
def execShflxTwin (f : FR) (m : Mod) (s : State) := coreT 0x0D1 f m s (fun cx => shuffle s cx (fun t b _ => Nat.xor t b))

/-- VOTE (R199). -/
def execVote (f : FR) (s : State) := coreR 0x0D2 f s (fun cx => voteRun s cx)
/-- The twin of the above (R134). -/
def execVoteTwin (f : FR) (m : Mod) (s : State) := coreT 0x0D2 f m s (fun cx => voteRun s cx)

/-- BALLOT (R199). -/
def execBallot (f : FR) (s : State) := coreR 0x0D3 f s (fun cx => ballotRun s cx)
/-- The twin of the above (R134). -/
def execBallotTwin (f : FR) (m : Mod) (s : State) := coreT 0x0D3 f m s (fun cx => ballotRun s cx)

/-- FFS (R199). -/
def execFfs (f : FR) (s : State) := coreR 0x0D4 f s (fun cx => ffsRun s cx)
/-- The twin of the above (R134). -/
def execFfsTwin (f : FR) (m : Mod) (s : State) := coreT 0x0D4 f m s (fun cx => ffsRun s cx)

/-- GRED (R200). -/
def execGred (f : FR) (s : State) := coreR 0x0D5 f s (fun cx => reduceRun s cx (fun _ _ => true))
/-- The twin of the above (R134). -/
def execGredTwin (f : FR) (m : Mod) (s : State) := coreT 0x0D5 f m s (fun cx => reduceRun s cx (fun _ _ => true))

/-- GSCAN (R200). -/
def execGscan (f : FR) (s : State) := coreR 0x0D6 f s (fun cx => reduceRun s cx (fun p t => if bitOf cx.opt 3 then decide (p < t) else decide (p ≤ t)))
/-- The twin of the above (R134). -/
def execGscanTwin (f : FR) (m : Mod) (s : State) := coreT 0x0D6 f m s (fun cx => reduceRun s cx (fun p t => if bitOf cx.opt 3 then decide (p < t) else decide (p ≤ t)))

/-- BCAST (R198). -/
def execBcast (f : FR) (s : State) := coreR 0x0D7 f s (fun cx => shuffle s cx (fun _ _ low => low))
/-- The twin of the above (R134). -/
def execBcastTwin (f : FR) (m : Mod) (s : State) := coreT 0x0D7 f m s (fun cx => shuffle s cx (fun _ _ low => low))

/-- GMATCH (R199). -/
def execGmatch (f : FR) (s : State) := coreR 0x0D8 f s (fun cx => gmatchRun s cx)
/-- The twin of the above (R134). -/
def execGmatchTwin (f : FR) (m : Mod) (s : State) := coreT 0x0D8 f m s (fun cx => gmatchRun s cx)

/-- GCOUNT (R199). -/
def execGcount (f : FR) (s : State) := coreR 0x0D9 f s (fun cx => gcountRun s cx)
/-- The twin of the above (R134). -/
def execGcountTwin (f : FR) (m : Mod) (s : State) := coreT 0x0D9 f m s (fun cx => gcountRun s cx)

end Sys2Proof.Machine
end

