-- ==== Sys2Proof/Machine/Shroud.lean ====
section
/-! DEFINITION. Shroud threads (spec/12 R290-R308): registers and poison, ends of routines, and the meaning of every shroud
instruction. -/

namespace Sys2Proof.Machine

/-! ### Threads, registers, poison (R292, R293) -/

/-- The core number under which a shroud thread's accesses stand: no core of the package. -/
def shroudCore (k t : Nat) : Nat := Config.cores + 4 * k + t
/-- The translation unit of a shroud: its base die's. -/
def shroudUnit (k : Nat) : Nat := 400 + k / 8

/-- The shroud thread at work. -/
structure Sh where
  k : Nat
  t : Nat
  x : SThread

def Sh.who (h : Sh) : Who := .shroud h.k h.t

/-- Put a shroud thread back. -/
def setSThread (s : State) (k t : Nat) (x : SThread) : State :=
  let h := getShroud s k
  setShroud s k { h with threads := mput h.threads t x }

/-- The thread goes on at the next word. -/
def shNext (s : State) (h : Sh) (x : SThread) : State := setSThread s h.k h.t { x with word := x.word + 1 }

/-- The thread is free; its routine held its launch's bins no longer (R43). -/
def freeThread (s : State) (k t : Nat) : State :=
  let h := getShroud s k
  let s := setShroud s k { h with threads := mdel h.threads t }
  match mfind h.threads t with
  | none => s
  | some x => binFlush s x.launch

/-- Scalar register: n0 reads zero (R292). -/
def sreg (x : SThread) (r : BitVec 5) : W64 := if r = 0 then 0 else mget 0 x.n r.toNat
def spoisd (x : SThread) (r : BitVec 5) : Bool := r != 0 && x.npois.contains r.toNat
/-- Write a scalar register and its poison bit; writes of n0 are discarded (R292). -/
def setS (x : SThread) (r : BitVec 5) (v : W64) (p : Bool) : SThread :=
  if r = 0 then x
  else { x with
    n := mset 0 x.n r.toNat v
    npois := if p then sinsert r.toNat x.npois else x.npois.filter (· ≠ r.toNat) }
/-- Vector register: 16 elements. -/
def zeroVec : List W32 := List.replicate 16 0
def vreg (x : SThread) (r : BitVec 5) : List W32 := mget zeroVec x.v r.toNat
def vpoisd (x : SThread) (r : BitVec 5) : Nat := mget 0 x.vpois r.toNat
def setV (x : SThread) (r : BitVec 5) (v : List W32) (p : Nat) : SThread :=
  { x with v := mset zeroVec x.v r.toNat v, vpois := mset 0 x.vpois r.toNat p }

/-! ### Ends of a routine (R296, R307) -/

/-- An engine owns the line of the thread's record (R99). -/
def recordOwned (s : State) (unit : Nat) (x : SThread) : Bool :=
  match translate s unit x.ctx x.record .write with
  | .ok pa => ownedLine s pa
  | .error _ => false

/-- A fault ends the routine: FLAGS.FAULT, TASK_FAULT with the code and word offset, and the thread is free (R296); its pending
walks are discarded (R345). While an engine owns the record's line the thread waits (R99). -/
def endFault (s : State) (k t : Nat) (x : SThread) (code : Nat) : State :=
  if recordOwned s (shroudUnit k) x then s else
  let (s, r) := resolveAt s (shroudUnit k) x.ctx x.record .write (.routine k t)
  let s := match r with
    | .ok pa => setFlags s pa 16
    | .error _ => s
  dropWalks (freeThread (postTaskFault s x.ctx (some x.launch) x.record code x.word) k t) (· == .routine k t)

/-- The instruction of the shroud thread cannot be decoded (R295, R296). -/
def shroudIllegal (s : State) (k t : Nat) : State :=
  match mfind (getShroud s k).threads t with
  | none => s
  | some x => endFault s k t x cILLEGAL

/-- What the fetch of a shroud thread gives: the word, or the end of a routine it has fallen past (R295). -/
inductive SFetched where
  | idle
  | past
  | word (w : W32)

/-- Fetch for a shroud thread. -/
def fetchRoutine (s : State) (k t : Nat) : SFetched :=
  match mfind (getShroud s k).threads t with
  | none => .idle
  | some x => if x.len ≤ x.word then .past else
    match fetchShroud s k t with
    | none => .idle
    | some w => .word w

/-- The routine has fallen past its last word: ILLEGAL_TARGET at offset CODE_LEN (R295, R296). -/
def shroudPast (s : State) (k t : Nat) : State :=
  match mfind (getShroud s k).threads t with
  | none => s
  | some x => endFault s k t { x with word := x.len } cTARGET

/-- Execute an instruction of the current shroud thread; one with an illegal field ends the routine. -/
def shExec (s : State) (ok : Bool) (body : Sh → State) : Host.Outcome State Fault Refusal :=
  match s.cur with
  | .shroud k t =>
    match mfind (getShroud s k).threads t with
    | none => .fault .noRoutine
    | some x => .next (if ok then body { k := k, t := t, x := x } else endFault s k t x cILLEGAL)
  | _ => .fault .noRoutine

/-- End the routine at this instruction. -/
def Sh.fail (h : Sh) (s : State) (code : Nat) : State := endFault s h.k h.t h.x code

/-! ### Control (R297) -/

/-- A branch: `to` says whether it is taken, and `poison` whether its register is poisoned (R293, R295, R296). -/
def shBranch (s : State) (h : Sh) (f : SB) (taken poison : Bool) (x : SThread) : State :=
  let target : Int := (h.x.word : Int) + sext 17 f.off.toNat
  if taken && (decide (target < 0) || decide ((h.x.len : Int) ≤ target)) then h.fail s cTARGET
  else if poison then h.fail s cPOISON
  else if taken then setSThread s h.k h.t { x with word := target.toNat }
  else shNext s h x

/-- SJMP (R297). -/
def execSjmp (f : SB) (s : State) :=
  shExec s (f.a == 0 && f.z == 0) (fun h => shBranch s h f true false h.x)
/-- SBRZ (R297). -/
def execSbrz (f : SB) (s : State) :=
  shExec s (isS f.a && f.z == 0) (fun h => shBranch s h f (sreg h.x f.a == 0) (spoisd h.x f.a) h.x)
/-- SBRNZ (R297). -/
def execSbrnz (f : SB) (s : State) :=
  shExec s (isS f.a && f.z == 0) (fun h => shBranch s h f (sreg h.x f.a != 0) (spoisd h.x f.a) h.x)
/-- SLOOP (R297). -/
def execSloop (f : SB) (s : State) :=
  shExec s (isS f.a && f.z == 0) (fun h =>
    let v := sreg h.x f.a - 1
    shBranch s h f (v != 0) (spoisd h.x f.a) (setS h.x f.a v false))

/-! ### Scalars (R298, R299) -/

/-- The result of a scalar operation (R298). -/
def saluOp (fn : Nat) (a b : W64) : W64 :=
  let c := b.toNat
  match fn with
  | 0 => a + b
  | 1 => a - b
  | 2 => a * b
  | 3 => a &&& b
  | 4 => a ||| b
  | 5 => a ^^^ b
  | 6 => if 64 ≤ c then 0 else a <<< c
  | 7 => if 64 ≤ c then 0 else a >>> c
  | 8 => a.sshiftRight (min c 64)
  | 9 => if a.toInt ≤ b.toInt then a else b
  | 10 => if b.toInt ≤ a.toInt then a else b
  | _ => if a < b then 1 else 0

/-- SALU (R298). -/
def execSalu (f : SR) (s : State) := shExec s (srOk 5 f) (fun h =>
  shNext s h (setS h.x f.d (saluOp f.f.toNat (sreg h.x f.a) (sreg h.x f.b)) (spoisd h.x f.a || spoisd h.x f.b)))
/-- SALUI (R298). -/
def execSalui (f : SF) (s : State) := shExec s (isS f.d && isS f.a && decide (f.fn.toNat < 12)) (fun h =>
  shNext s h (setS h.x f.d (saluOp f.fn.toNat (sreg h.x f.a) (BitVec.ofInt 64 (sext 13 f.imm.toNat))) (spoisd h.x f.a)))
/-- SMOVI (R299). -/
def execSmovi (f : SI) (s : State) := shExec s (siOk 7 f) (fun h =>
  shNext s h (setS h.x f.d (BitVec.ofInt 64 (sext 17 f.imm.toNat)) false))

/-! ### Memory (R299-R301, R306) -/

/-- An access of a shroud thread: alignment, translation, poison of the address in the order of R296; a page not
present is made present (R291); a write reaches no byte of an argument block (R62); the bytes are charged (R371). -/
def shAccess (s : State) (h : Sh) (va align bytes : Nat) (a : Acc) (aligned poison : Bool)
    (go : State → Nat → State) : State :=
  if !aligned || va % align != 0 then h.fail s cALIGN
  else
    let (s, r) := resolveAt s (shroudUnit h.k) h.x.ctx va a (.routine h.k h.t)
    match r, (if a = .write then argsIn s h.x.ctx va bytes else none) with
    | .error _, _ => h.fail s cPAGE
    | .ok _, some _ => h.fail s cPAGE
    | .ok pa, none => if poison then h.fail s cPOISON else go (chargeQuota s h.x.ctx bytes) pa

/-- A load waits for the thread's fence, its own earlier accesses of a common byte, and lines that an engine owns
(R306). -/
def shBlocked (s : State) (h : Sh) (locs : List Loc) : Bool :=
  !depsDone s h.x.fence || locs.any (fun l => match l with
    | .g pa => s.owned.any (fun o => o.1 == pa / 128)
    | .s _ _ => false)
  || s.ops.any (fun o => o.who == h.who && meets (opLocs o) locs)

/-- Load bytes at the home, or wait: the thread stands at its instruction. A page that is not present holds nothing but the fence
to wait for. -/
def shLoad (s : State) (h : Sh) (va align bytes : Nat) (aligned : Bool) (a : BitVec 5) (offs : List Nat)
    (go : List Byte → List Bool → SThread) : State :=
  let waits := match translate s (shroudUnit h.k) h.x.ctx va .read with
    | .ok pa => va % align == 0 && shBlocked s h (offs.map (fun o => .g (pa + o)))
    | .error 0 => va % align == 0 && !depsDone s h.x.fence
    | .error _ => false
  if waits then s
  else shAccess s h va align bytes .read aligned (spoisd h.x a) (fun s pa =>
    shNext s h (go (offs.map (fun o => rdByte s (pa + o))) (offs.map (fun o => isPoisoned s (quarterOf (pa + o))))))

/-- Split bytes that begin at a multiple of their length, or of 32, into quarters. -/
def quarters (pa : Nat) (bs : List Byte) : List (List (Loc × Byte)) :=
  let n := (bs.length + 31) / 32
  (List.range n).map (fun i => ((List.range 32).zip ((bs.drop (32 * i)).take 32)).map (fun x => (.g (pa + 32 * i + x.1), x.2)))

/-- Two lists of locations share a 32-byte quarter. -/
def meetsQuarter (a b : List Loc) : Bool :=
  let q (ls : List Loc) : List Nat := ls.filterMap (fun l => match l with
    | .g pa => some (quarterOf pa)
    | .s _ _ => none)
  (q a).any (fun x => (q b).contains x)

/-- What a release of a shroud thread at a scope waits for (R110, R113): its own operations; from the device on, every
performed write that some copy still hides, since a shroud reads at the home (R104, R306). -/
def shRelease (s : State) (h : Sh) (scope : Nat) : List Dep :=
  h.x.fence ++ performed ((s.ops.filter (fun o => o.who == h.who)).map (·.id))
    ++ (if scope < 4 then [] else s.stale.map (fun t => { op := t.op, reach := .all, quarter := some t.quarter }))

/-- SEND (R307): the thread waits for all that TGPOST's release at device scope covers (R248, R110), every write of the routine
among it, and while an engine owns the record's line (R99); then the record is posted and the thread is free. -/
def execSend (f : SR) (s : State) := shExec s (srOk 0 f) (fun h =>
  if !depsDone s (shRelease s h 4) || recordOwned s (shroudUnit h.k) h.x then s
  else
    let s := postRecord s h.x.ctx h.x.record
    let s := if h.x.poisoned = 0 then s
      else postLaunch s h.x.launch 0x83 (pad8 (leBytes 8 h.x.record ++ leBytes 4 h.x.poisoned))
    freeThread s h.k h.t)

/-- One update of a shroud: its quarters are written in no promised order, after its earlier writes of a common one (R120); `pois` marks the poisoned bytes (R293,
R306). -/
def shStore (s : State) (h : Sh) (va align : Nat) (bs : List Byte) (pois : List Bool) (scalars : Bool) : State :=
  shAccess s h va align bs.length .write true scalars (fun s pa =>
    let parts := quarters pa bs
    let ps := (List.range parts.length).map (fun i => ((pois.drop (32 * i)).take 32).any id)
    let locs := partLocs parts
    let deps := h.x.fence ++ performed ((s.ops.filter (fun o => o.who == h.who && meetsQuarter (opLocs o) locs)).map (·.id))
    let s := addOp s
      { id := 0, who := h.who, ctx := h.x.ctx, launch := h.x.launch, core := shroudCore h.k h.t, deps := deps,
        kind := .store parts ps }
    shNext s h { h.x with poisoned := h.x.poisoned + (ps.filter id).length })

/-- Address of SLD and SST, modulo 2^64 (R299). -/
def siAddr (x : SThread) (f : SI) : Nat := (sreg x f.a + BitVec.ofInt 64 (sext 17 f.imm.toNat)).toNat

/-- SLD (R299). -/
def execSld (f : SI) (s : State) := shExec s (siOk 8 f) (fun h =>
  shLoad s h (siAddr h.x f) 8 8 true f.a (List.range 8) (fun bs ps =>
    setS h.x f.d (BitVec.ofNat 64 (leVal bs)) (ps.any id)))
/-- SST (R299). -/
def execSst (f : SI) (s : State) := shExec s (siOk 9 f) (fun h =>
  shStore s h (siAddr h.x f) 8 (leBytes 8 (sreg h.x f.d).toNat) (List.replicate 8 (spoisd h.x f.d)) (spoisd h.x f.a))

/-- The format of a VLD or VST element and its bytes (R300). -/
def vFmt (f : Nat) : Fmt := match f with
  | 0 => .f32 | 1 => .bf16 | _ => .f16
def vBytes (f : Nat) : Nat := if f = 0 then 4 else 2

/-- Element k of a list of bytes. -/
def elemAt (e : Nat) (bs : List Byte) (k : Nat) : Nat := leVal ((bs.drop (e * k)).take e)

/-- Mask of the elements for which p holds. -/
def elemMask (n : Nat) (p : Nat → Bool) : Nat := ((List.range n).filter p).foldl (fun m k => m + 2 ^ k) 0

/-- VLD (R300): row form, or the 16 elements of a column line. -/
def execVld (f : SR) (s : State) := shExec s (srOk 13 f) (fun h =>
  let fm := f.f.toNat % 4
  let col := bitOf f.f.toNat 2
  let e := vBytes fm
  let va := (sreg h.x f.a).toNat
  let o := va % 1024
  let offs := if col then (List.range 16).flatMap (fun i => [32 * i, 32 * i + 1]) else List.range (16 * e)
  shLoad s h va (if col then 2 else 16 * e) (16 * e) (!col || o / 32 % 16 == 0) f.a offs (fun bs ps =>
    let widen (v : Nat) : W32 := BitVec.ofNat 32 (if fm = 0 then v else roundF .f32 0 false 0 (fval (vFmt fm) v))
    setV h.x f.d ((List.range 16).map (fun k => widen (elemAt e bs k)))
      (if ps.any id then 65535 else 0)))

/-- The word that rounds the element of coordinate e (R301). -/
def coordWord (sk st : W64) (e : Nat) : W32 :=
  philox sk (st ++ (BitVec.ofNat 64 (e % 2 ^ 64 / 4))) (e % 4)

/-- VST (R300, R301). -/
def execVst (f : SR) (s : State) := shExec s (srOk 14 f) (fun h =>
  let g := f.f.toNat
  let fm := g % 4
  let rnd := g / 8 % 8
  let e := vBytes fm
  let n := if bitOf g 7 then 8 else 16
  let c := (sreg h.x f.b).toNat
  let vs := vreg h.x f.d
  let p := vpoisd h.x f.d
  let bs := (List.range n).flatMap (fun k =>
    let u := if rnd = 4 then (coordWord h.x.sk h.x.st (c + k)).toNat else 0
    leBytes e (roundF (vFmt fm) rnd (bitOf g 6) u (fval .f32 (vs.getD k 0).toNat)))
  shStore s h (sreg h.x f.a).toNat (n * e) bs ((List.range n).flatMap (fun k => List.replicate e (bitOf p k)))
    (spoisd h.x f.a || (rnd == 4 && spoisd h.x f.b)))

/-! ### Vector arithmetic (R302, R303) -/

/-- An elementwise result. -/
def vMap (s : State) (h : Sh) (d : BitVec 5) (p : Nat) (el : Nat → Nat) : State :=
  shNext s h (setV h.x d ((List.range 16).map (fun k => BitVec.ofNat 32 (el k))) p)

/-- Element k of a vector register as a number. -/
def vel (x : SThread) (r : BitVec 5) (k : Nat) : Nat := ((vreg x r).getD k 0).toNat
/-- Element k as an FP32 value. -/
def vfp (x : SThread) (r : BitVec 5) (k : Nat) : FV := fval .f32 (vel x r k)
/-- Round under the RND and `.sat` bits of F (R302). -/
def vRound (f : SR) (v : FV) (rest : Bool := false) : Nat :=
  roundF .f32 (f.f.toNat / 16 % 4) (bitOf f.f.toNat 6) 0 v rest
/-- Poison of a result of A and B; an unused B names no vector. -/
def vpois2 (x : SThread) (f : SR) : Nat := Nat.lor (vpoisd x f.a) (if isV f.b then vpoisd x f.b else 0)

/-- VALU (R302). -/
def execValu (f : SR) (s : State) := shExec s (srOk 15 f) (fun h =>
  vMap s h f.d (vpois2 h.x f) (fun k =>
    let a := vel h.x f.a k
    let b := vel h.x f.b k
    match f.f.toNat % 16 with
    | 0 => vRound f (addV (f.f.toNat / 16 % 4) (fval .f32 a) (fval .f32 b))
    | 1 => vRound f (addV (f.f.toNat / 16 % 4) (fval .f32 a) (negV (fval .f32 b)))
    | 2 => vRound f (mulV (fval .f32 a) (fval .f32 b))
    | 3 => minmax .f32 false a b
    | 4 => minmax .f32 true a b
    | 5 => fabsF .f32 a
    | _ => fnegF .f32 a))
/-- VFMA (R302). -/
def execVfma (f : SR) (s : State) := shExec s (srOk 16 f) (fun h =>
  vMap s h f.d (Nat.lor (vpois2 h.x f) (vpoisd h.x f.d)) (fun k =>
    vRound f (addV (f.f.toNat / 16 % 4) (mulV (vfp h.x f.a k) (vfp h.x f.b k)) (vfp h.x f.d k))))
/-- VSQRT (R302). -/
def execVsqrt (f : SR) (s : State) := shExec s (srOk 17 f) (fun h =>
  vMap s h f.d (vpoisd h.x f.a) (fun k =>
    let q := sqrtV (vfp h.x f.a k)
    vRound f q.1 q.2))
/-- VDIV (R302). -/
def execVdiv (f : SR) (s : State) := shExec s (srOk 18 f) (fun h =>
  vMap s h f.d (vpois2 h.x f) (fun k =>
    let q := divV (vfp h.x f.a k) (vfp h.x f.b k)
    vRound f q.1 q.2))
/-- VBCAST (R302). -/
def execVbcast (f : SR) (s : State) := shExec s (srOk 19 f) (fun h =>
  vMap s h f.d (if spoisd h.x f.a then 65535 else 0) (fun _ => (sreg h.x f.a).toNat))
/-- VCMP (R302). -/
def execVcmp (f : SR) (s : State) := shExec s (srOk 21 f) (fun h =>
  vMap s h f.d (vpois2 h.x f) (fun k =>
    if fcond f.f.toNat (vfp h.x f.a k) (vfp h.x f.b k) then 0xFFFFFFFF else 0))
/-- An element with a NaN made canonical (R302). -/
def canonNaN (v : Nat) : Nat := if isNaN (fval .f32 v) then nanCode .f32 else v
/-- VSEL (R302). -/
def execVsel (f : SR) (s : State) := shExec s (srOk 22 f) (fun h =>
  vMap s h f.d (Nat.lor (vpois2 h.x f) (vpoisd h.x f.d)) (fun k =>
    canonNaN (if vel h.x f.d k ≠ 0 then vel h.x f.a k else vel h.x f.b k)))

/-- The reduction of R303. -/
def vredOf (fn : Nat) (vs : List Nat) : Nat :=
  let fs := vs.map (fval .f32)
  match fn with
  | 0 => sumRound fs
  | 1 => sumRound (fs.map (fun a => mulV a a))
  | _ => if fs.any isNaN then nanCode .f32 else (vs.map (· % 2 ^ 31)).foldl max 0
/-- VRED (R303). -/
def execVred (f : SR) (s : State) := shExec s (srOk 20 f) (fun h =>
  shNext s h (setS h.x f.d (BitVec.ofNat 64 (vredOf f.f.toNat ((List.range 16).map (vel h.x f.a)))) (vpoisd h.x f.a != 0)))

/-! ### Sparse packing (R304) -/

/-- The magnitude by which VSPK compares: a NaN above any number. -/
def spkMag (v : Nat) : Nat := if isNaN (fval .f32 v) then 2 ^ 32 else v % 2 ^ 31

/-- The two kept indices of a group, ascending: greatest magnitude first, the lower index among equals. -/
def spkKeep (g : List Nat) : Nat × Nat :=
  let m (i : Nat) : Nat := spkMag (g.getD i 0)
  let best (l : List Nat) : Nat := (minBy (fun i => 2 ^ 33 - m i) l).getD 0
  let i := best (List.range 4)
  let j := best ((List.range 4).filter (· ≠ i))
  (min i j, max i j)

/-- VSPK (R304). -/
def execVspk (f : SR) (s : State) := shExec s (srOk 23 f) (fun h =>
  let grp (g : Nat) : List Nat := (List.range 4).map (fun i => vel h.x f.a (4 * g + i))
  let el (k : Nat) : Nat :=
    if 8 ≤ k then 0
    else
      let g := grp (k / 2)
      let ij := spkKeep g
      canonNaN (g.getD (if k % 2 = 0 then ij.1 else ij.2) 0)
  let nib (g : Nat) : Nat := let ij := spkKeep (grp g); ij.1 + 4 * ij.2
  let p := vpoisd h.x f.a
  let x := setV h.x f.d ((List.range 16).map (fun k => BitVec.ofNat 32 (el k)))
    (elemMask 8 (fun k => bitsOf p (4 * (k / 2) + 3) (4 * (k / 2)) != 0))
  shNext s h (setS x f.b (BitVec.ofNat 64 (nib 0 + 2 ^ 4 * nib 1 + 2 ^ 8 * nib 2 + 2 ^ 12 * nib 3)) (p != 0)))

/-! ### Synchronisation and keys (R305) -/

/-- A bit of the grant of the VI whose context a shroud thread serves (R151, R324). -/
def Sh.granted (s : State) (h : Sh) (k : Nat) : Bool :=
  match (mfind s.ctxs h.x.ctx).bind (fun c => mfind s.vis c.vi) with
  | some v => bitOf v.grant k
  | none => bitOf Config.featureMask k

/-- A scope that the grant does not allow: `.FAB` needs FABRIC (R151, R154). -/
def scopeDenied (s : State) (h : Sh) (f : SR) : Bool := f.f.toNat % 8 == 5 && !h.granted s 9

/-- SFENCE (R305, R110): scopes below the device hold the shroud thread alone (R104). -/
def execSfence (f : SR) (s : State) := shExec s (srOk 10 f) (fun h =>
  if scopeDenied s h f then h.fail s cILLEGAL else
  shNext s h { h.x with fence := shRelease s h (f.f.toNat % 8) })

/-- SSEM (R305, R227, R228, R113). -/
def execSsem (f : SR) (s : State) := shExec s (srOk 11 f) (fun h =>
  if scopeDenied s h f then h.fail s cILLEGAL else
  let w := (sreg h.x f.a).toNat
  if w / 2 ^ 16 ≠ 0 ∨ !bitOf w 15 ∨ 48 ≤ bitsOf w 11 6 then h.fail s cFIELD
  else if spoisd h.x f.a then h.fail s cPOISON
  else
    let deps := shRelease s h (f.f.toNat % 8)
    let s := addOp s
      { id := 0, who := h.who, ctx := h.x.ctx, launch := h.x.launch, core := shroudCore h.k h.t, deps := deps,
        kind := .semInc (bitsOf w 14 12 * Config.coresPerDie + bitsOf w 11 6) h.x.ctx (bitsOf w 5 0)
          ((sreg h.x f.b).setWidth 32) false }
    shNext s h h.x)

/-- SKEY (R305, R293). -/
def execSkey (f : SR) (s : State) := shExec s (srOk 12 f) (fun h =>
  if spoisd h.x f.a || spoisd h.x f.b then h.fail s cPOISON
  else shNext s h { h.x with sk := sreg h.x f.a, st := sreg h.x f.b })

end Sys2Proof.Machine
end

