-- ==== Sys2Proof/Machine/Object.lean ====
section
/-! DEFINITION. Epper objects as Maluk checks and loads them (spec/07 R123, R147-R149, R152, R153, spec/12 R308, spec/19
R329), and Maluk's choice of addresses and frames. -/

namespace Sys2Proof.Machine

/-! ### Statuses (R387) -/

def stOK : Nat := 0
def stBADREQ : Nat := 1
def stNOOBJ : Nat := 2
def stNOGRANT : Nat := 3
def stBADVER : Nat := 4
def stBADOBJ : Nat := 5
def stNORES : Nat := 6
def stTOOLARGE : Nat := 7
def stBUSY : Nat := 8
def stAUTH : Nat := 9
def stRENEG : Nat := 10

/-! ### Fields of an object -/

/-- The n-byte field at an offset. -/
def fieldAt (bs : List Byte) (off n : Nat) : Nat := leVal ((bs.drop off).take n)

/-- Offsets of the clause headers of a text section whose chain ends exactly at its end (R123, R152). -/
def chainOf (text : List Byte) (size : Nat) : Nat → Nat → Option (List Nat)
  | 0, _ => none
  | n + 1, off =>
    if off = size then some []
    else if size < off + 8 then none
    else
      let len := fieldAt text off 4 % 16
      (chainOf text size n (off + 8 + 4 * (if len = 0 then 1 else len))).map (fun r => off :: r)

/-- A character of an identifier; the first is no digit. -/
def identChar (first : Bool) (b : Byte) : Bool :=
  let c := b.toNat
  decide (65 ≤ c ∧ c ≤ 90) || decide (97 ≤ c ∧ c ≤ 122) || c == 95 || (!first && decide (48 ≤ c ∧ c ≤ 57))

/-- A name of the string table: an identifier and a zero byte (R148). -/
def nameAt (strs : List Byte) (off : Nat) : Option (List Byte) :=
  let r := strs.drop off
  let n := r.takeWhile (· ≠ 0)
  if n.length < r.length && (match n with
    | [] => false
    | a :: l => identChar true a && l.all (identChar false)) then some n else none

/-- A directory entry (R148). -/
structure Entry1 where
  hdr : Nat
  note : Nat
  nameOff : Nat
  name : List Byte

/-- A section that is present: offset and bytes. -/
abbrev Sect := Nat × Nat

def overlapS (a b : Sect) : Bool := a.2 != 0 && b.2 != 0 && decide (a.1 < b.1 + b.2 ∧ b.1 < a.1 + a.2)

/-- The text, data and shroud sections that a kernel header names (R147); a data or shroud section is present exactly when
its offset and its size are both nonzero (R152). -/
def sectsOf (bs : List Byte) (h : Nat) : List Sect :=
  (fieldAt bs (h + 4) 4, fieldAt bs (h + 8) 4)
    :: [(fieldAt bs (h + 0x28) 4, fieldAt bs (h + 0x2C) 4), (fieldAt bs (h + 0x30) 4, fieldAt bs (h + 0x34) 4)].filter
      (fun x => x.1 != 0 && x.2 != 0)

/-- What a directory entry names: its header, its note and its sections. -/
def piecesOf (bs : List Byte) (e : Entry1) : List Sect := (e.hdr, 64) :: (e.note, 36) :: sectsOf bs e.hdr

/-- Entry i of the directory, with its header, note and name inside the object. -/
def dirEntry (bs strs : List Byte) (dir i : Nat) : Option Entry1 :=
  let e := dir + 16 * i
  let h := fieldAt bs e 4
  let n := fieldAt bs (e + 4) 4
  if h % 64 ≠ 0 ∨ n % 4 ≠ 0 ∨ bs.length < h + 64 ∨ bs.length < n + 36 ∨ fieldAt bs (e + 12) 4 ≠ 0 then none
  else (nameAt strs (fieldAt bs (e + 8) 4)).map (fun s => { hdr := h, note := n, nameOff := fieldAt bs (e + 8) 4, name := s })

/-- The entries of a directory. -/
def dirEntries (bs strs : List Byte) (dir : Nat) : List Nat → Option (List Entry1)
  | [] => some []
  | i :: r =>
    match dirEntry bs strs dir i, dirEntries bs strs dir r with
    | some e, some l => some (e :: l)
    | _, _ => none

/-- No two of a list share a value, or overlap. -/
def pairwise {α : Type} (p : α → α → Bool) : List α → Bool
  | [] => true
  | a :: l => l.all (p a) && pairwise p l

/-- Step 1 of R152: the object as a whole. The object header, the directory, the string table, and every kernel's header, note
and sections lie within SIZE without overlap; so do the names within the string table (notes/assumptions/41.md). -/
def objectDir (bs : List Byte) : Option (List Entry1) :=
  let n := fieldAt bs 6 2
  let dir := fieldAt bs 8 4
  let so := fieldAt bs 12 4
  let ss := fieldAt bs 16 4
  if bs.length < 32 ∨ fieldAt bs 0 4 ≠ 0x4A424F45 ∨ fieldAt bs 4 2 ≠ 1 ∨ n < 1 ∨ 256 < n ∨ dir % 16 ≠ 0
      ∨ fieldAt bs 20 4 ≠ bs.length ∨ fieldAt bs 24 8 ≠ 0 ∨ bs.length < dir + 16 * n ∨ bs.length < so + ss then none
  else
    match dirEntries bs ((bs.drop so).take ss) dir (List.range n) with
    | none => none
    | some es =>
      let ps := es.flatMap (piecesOf bs)
      let names := es.map (fun e => (e.nameOff, e.name.length + 1))
      let ok := ps.all (fun x => decide (x.1 + x.2 ≤ bs.length))
        && pairwise (fun a b => a.name != b.name) es
        && pairwise (fun a b => !overlapS a b) ((0, 32) :: (dir, 16 * n) :: (so, ss) :: ps)
        && pairwise (fun a b => !overlapS a b) names
      if ok then some es else none

/-- The routines of a shroud section (R308). -/
def routinesOf (sec : List Byte) : Option (List Routine) :=
  let n := fieldAt sec 0 4
  if sec.length < 8 ∨ n < 1 ∨ 256 < n ∨ fieldAt sec 4 4 ≠ 0 ∨ sec.length < 8 + 8 * n then none
  else
    let rs : List Routine := (List.range n).map (fun i => { off := fieldAt sec (8 + 8 * i) 4, len := fieldAt sec (12 + 8 * i) 4 })
    let ok := rs.all (fun r => r.off % 4 == 0 && decide (1 ≤ r.len ∧ r.off + 4 * r.len ≤ sec.length))
      && pairwise (fun a b => !overlapS (a.off, 4 * a.len) (b.off, 4 * b.len)) rs
    if ok then some rs else none

/-- A kernel of an object, with the bytes of its sections. -/
structure Parsed where
  k : Kernel
  text : List Byte
  data : List Byte
  shroud : List Byte

/-- The values of a kernel header (R146, R147). -/
def headerOk (bs : List Byte) (h : Nat) : Bool :=
  let f (o n : Nat) : Nat := fieldAt bs (h + o) n
  f 0 4 == 0x4B485045 && f 4 4 % 4 == 0 && f 8 4 % 4 == 0 && decide (1 ≤ f 0x14 2 ∧ f 0x14 2 ≤ 1024)
    && [16, 32, 64].contains (f 0x16 1) && decide (1 ≤ f 0x17 1 ∧ f 0x17 1 ≤ 32) && decide (1 ≤ f 0x18 1 ∧ f 0x18 1 ≤ 16)
    && decide (f 0x19 1 ≤ 16) && f 0x1A 2 == 0 && f 0x1C 4 % 128 == 0 && decide (f 0x1C 4 ≤ 3145728)
    && f 0x20 4 % 8 == 0 && decide (f 0x20 4 ≤ 65536) && f 0x24 2 % 4 == 0 && f 0x26 2 % 4 == 0
    && decide (f 0x24 2 + f 0x26 2 ≤ 2048) && f 0x38 8 == 0
    && ((f 0x28 4 == 0) == (f 0x2C 4 == 0)) && ((f 0x30 4 == 0) == (f 0x34 4 == 0))

/-- Step 2 of R152 for one kernel: the kernel, or the status of its first fault. -/
def parseKernel (bs : List Byte) (grant : Nat) (e : Entry1) : Except Nat Parsed :=
  let f (o n : Nat) : Nat := fieldAt bs (e.hdr + o) n
  let needs := fieldAt bs (e.note + 4) 16
  let sec (x : Sect) : List Byte := (bs.drop x.1).take x.2
  if fieldAt bs e.note 2 ≠ 1 ∨ fieldAt bs (e.note + 2) 2 ≠ 0 then .error stBADVER
  else if Nat.land needs grant ≠ needs then .error stNOGRANT
  else if !headerOk bs e.hdr then .error stBADOBJ
  else
    let text := sec (f 4 4, f 8 4)
    let tv := f 0x10 4
    match chainOf text text.length (text.length + 1) 0 with
    | none => .error stBADOBJ
    | some ch =>
      if !ch.contains (f 0xC 4) ∨ (tv ≠ 0xFFFFFFFF ∧ !ch.contains tv) then .error stBADOBJ
      else
        let sh := sec (f 0x30 4, f 0x34 4)
        let rs := if sh.isEmpty then some [] else routinesOf sh
        match rs with
        | none => .error stBADOBJ
        | some rs => .ok {
            k := { ctx := 0, kid := 0, size := text.length, chain := ch, entry := f 0xC 4,
                   trapvec := if tv = 0xFFFFFFFF then none else some tv, regs := f 0x14 2, group := f 0x16 1, team := f 0x17 1,
                   gang := f 0x18 1, bars := f 0x19 1, scratch := f 0x1C 4, args := f 0x20 4, coarse := f 0x24 2,
                   fine := f 0x26 2, dataSize := f 0x2C 4, routines := rs }
            text := text, data := sec (f 0x28 4, f 0x2C 4), shroud := sh }

/-- Every kernel in directory order; the first fault decides (R152). -/
def parseAll (bs : List Byte) (grant : Nat) : List Entry1 → Except Nat (List Parsed)
  | [] => .ok []
  | e :: r =>
    match parseKernel bs grant e with
    | .error x => .error x
    | .ok p => match parseAll bs grant r with
      | .error x => .error x
      | .ok l => .ok (p :: l)

/-- An object that Maluk accepts under a grant. -/
def parseObject (bs : List Byte) (grant : Nat) : Except Nat (List Parsed) :=
  match objectDir bs with
  | none => .error stBADOBJ
  | some es => parseAll bs grant es

/-! ### Maluk's choice of addresses and frames -/

/-- A range meets a window of the context. -/
def meetsWindow (c : Ctx) (va n : Nat) : Bool := c.windows.any (fun w => decide (w.va < va + n ∧ va < w.va + w.size))

/-- Where Maluk begins to look for room. -/
def chosenBase : Nat := 2 ^ 39

/-- A free range of a context's space: the first place where one could begin. -/
def findRange (c : Ctx) (n : Nat) : Option Nat :=
  firstOf (fun va => decide (va + n ≤ 2 ^ 56) && !meetsWindow c va n)
    (chosenBase :: (sortBy id (c.windows.map (fun w => roundUp (w.va + w.size) 4096))) ++ [4096])

/-- Map a run of frames at an address. -/
def mapRun (s : State) (root va pa pages flags : Nat) : State :=
  (List.range pages).foldl (fun s i => mapFrom (va + 4096 * i) (pa + 4096 * i) flags 5 0 root s) s

/-- Pages of n bytes. -/
def pagesOf (n : Nat) : Nat := (n + 4095) / 4096

/-- A section in memory of its own, mapped in a window of its kind (R122, R153). -/
def placeSection (s : State) (ctx : Nat) (kind : WinKind) (bs : List Byte) : Option (Nat × State) :=
  match mfind s.ctxs ctx with
  | none => none
  | some c =>
    let n := pagesOf bs.length
    match findRange c (4096 * n), allocRun s n 1 with
    | some va, some (pa, s) =>
      let x := kind == .text
      let s := mapRun (wrBytes s pa bs) c.root va pa n (permFlags (!x) false x)
      let w : Window := { va := va, size := 4096 * n, kind := kind, read := !x, write := false, exec := x }
      some (va, modCtx s ctx (fun c => { c with windows := c.windows ++ [w] }))
    | _, _ => none

/-- Load one kernel: its sections are placed and it receives a KERNEL_ID (R153, R329). -/
def loadKernel (s : State) (ctx : Nat) (p : Parsed) : Option (Nat × State) :=
  match placeSection s ctx .text p.text with
  | none => none
  | some (text, s) =>
    let data := if p.data.isEmpty then some (0, s) else placeSection s ctx .data p.data
    match data with
    | none => none
    | some (base, s) =>
      match (if p.shroud.isEmpty then some (0, s) else allocRun s (pagesOf p.shroud.length) 1) with
      | none => none
      | some (sh, s) =>
        match mfind s.ctxs ctx with
        | none => none
        | some c =>
          let kid := ((mfind s.vis c.vi).map (·.nextKid)).getD 1
          let k := { p.k with ctx := ctx, kid := kid, text := text, dataBase := base, shroud := sh }
          let s := wrBytes s sh p.shroud
          let s := { s with vis := mmod s.vis c.vi (fun v => { v with nextKid := kid + 1 }) }
          some (kid, { s with kernels := mput s.kernels (kernelKey ctx kid) k })

/-- Load every kernel of an object; nothing is loaded when room is lacking. -/
def loadAll (ctx : Nat) : List Parsed → State → Option (List Nat × State)
  | [], s => some ([], s)
  | p :: r, s =>
    match loadKernel s ctx p with
    | none => none
    | some (kid, s) => (loadAll ctx r s).map (fun x => (kid :: x.1, x.2))

end Sys2Proof.Machine
end

