-- ==== Sys2Proof/Machine/Sched.lean ====
section
/-! DEFINITION. The launch scheduler (spec/19 R332-R337, spec/20 R356), spawn bins (spec/02 R40-R43, spec/08 R163), the
end and the abort of a launch (R43, spec/23 R386, R388), pre-emption by Maluk (spec/20 R353) and restart of a halted
core (R358). -/

namespace Sys2Proof.Machine

/-! ### Spawn bins (R40-R42, R163) -/

/-- A bin counts as free (R41): never bound, left empty, or of a launch that has ended. -/
def binFree (s : State) (b : Bin) : Bool :=
  match b.bound with
  | none => true
  | some (l, _) => (b.held.isEmpty && !b.ready) || (match mfind s.launches l with
    | none => true
    | some l => l.ended)

/-- The bin that takes a thread of a launch at an entry: the one bound to the pair, else the lowest free one (R40). -/
def binFor (s : State) (core lid entry : Nat) : Option Nat :=
  let bins := (getCore s core).bins
  match firstOf (fun i => (mget {} bins i).bound == some (lid, entry)) (List.range 32) with
  | some i => some i
  | none => firstOf (fun i => binFree s (mget {} bins i)) (List.range 32)

/-- A thread enters a bin; a full bin's group is ready (R41). The timer of a suspended context's bin counts no time until
the context resumes (R353). -/
def enterBin (s : State) (core bin lid entry width : Nat) (payload : W64) : State :=
  let c := getCore s core
  let b := mget {} c.bins bin
  let b := if b.bound = some (lid, entry) then b else { bound := some (lid, entry), timer := b.timer }
  let b := { b with
    since := if b.held.isEmpty then (if c.susp.contains (ctxOf s lid) then 0 else s.time) else b.since
    held := b.held ++ [payload]
    ready := decide (width ≤ b.held.length + 1) }
  setCore s core { c with bins := mset {} c.bins bin b }

/-- BIN_ENTRY (R163): a spawn places its thread once its bin can take it; D receives the bin's number. -/
def execBinEntry (id : Nat) (s : State) : Host.Outcome State Fault Refusal := onOp s id (fun o =>
  match o.kind with
  | .spawn entry payload d =>
    match mfind s.launches o.launch, kernelOf s o.launch with
    | some l, some k =>
      match binFor s o.core o.launch entry with
      | none => s
      | some i =>
        if (mget {} (getCore s o.core).bins i).ready then s
        else if l.aborted then endOp (arrive s d i false) o
        else endOp (arrive (enterBin s o.core i o.launch entry k.group payload) d i false) o
    | _, _ => endOp s o
  | _ => s)

/-- BIN_TIMER_EXPIRY (R41): the bin launches what it holds; the timers of a suspended context pause (R353). -/
def execBinTimerExpiry (core bin : Nat) (s : State) : Host.Outcome State Fault Refusal :=
  if binDue s (getCore s core) (mget {} (getCore s core).bins bin) then .next (binReady s core bin) else .next s

/-! ### Candidates (R334, R356) -/

/-- A candidate with its priority. -/
abbrev Ranked := Cand × Nat

/-- Launches of a context with groups on a core. -/
def launchesOn (s : State) (core ctx : Nat) : List Launch :=
  (ctxGroups s core ctx).filterMap (fun g => mfind s.launches g.2.launch)

/-- Suspended contexts that may resume (R356): their quota is positive, and one that CTXSW pre-empted has not set
FLAGS.SUSPENDED in its record. -/
def resumeCands (s : State) : List Ranked :=
  s.cores.flatMap (fun (k, c) => c.susp.filterMap (fun x =>
    match mfind s.ctxs x with
    | none => none
    | some cx => if decide (0 < quotaOf s cx) && !(c.byCtxsw.contains x && bitOf (ctxFlags s cx) 2) then
        some (.resume k x, ((launchesOn s k x).map (·.priority)).foldl max 0)
      else none))

/-- A launch has a team to place. -/
def waiting (s : State) (l : Launch) : Bool :=
  !l.aborted && !l.ended && decide (l.placed < l.teams) && (match mfind s.ctxs l.ctx with
    | none => false
    | some c => !bitOf (ctxFlags s c) 2 && !c.dying)

/-- When the gang of a launch's next team started. -/
def gangTime (l : Launch) (gang : Nat) : Nat := ((l.gangs.find? (fun x => x.1 == l.placed / gang)).map (·.2)).getD 0

/-- Launches whose next team is a member of a started gang, by the time their gang started. -/
def gangCands (s : State) : List Ranked :=
  let ls := s.launches.filterMap (fun (i, l) =>
    match kernelOf s i with
    | none => none
    | some k => if waiting s l && decide (l.placed % k.gang ≠ 0) then some (gangTime l k.gang, i, l) else none)
  (sortBy (·.1) ls).map (fun x => (.gang x.2.1 x.2.2.placed, x.2.2.priority))

/-- Ready spawned groups. -/
def spawnCands (s : State) : List Ranked :=
  s.cores.flatMap (fun (k, c) => c.bins.filterMap (fun (i, b) =>
    match b.ready, b.bound with
    | true, some (l, _) => (mfind s.launches l).map (fun l => (.spawn k i, l.priority))
    | _, _ => none))

/-- VI of a launch. -/
def viOf (s : State) (l : Launch) : Nat := ((mfind s.ctxs l.ctx).map (·.vi)).getD 0

/-- The first launch of a VI's queue that has a team to place. -/
def queueHead (s : State) (vi prio : Nat) : Option (Nat × Launch) :=
  minBy (fun x => x.2.order) (s.launches.filter (fun x =>
    viOf s x.2 == vi && x.2.priority == prio && !x.2.aborted && !x.2.ended && decide (x.2.placed < x.2.teams)))

/-- Head teams of the VIs' queues of a priority, from the VI that holds the turn. -/
def headCands (s : State) (prio : Nat) : List Ranked :=
  let t := mget 0 s.turnVi prio
  (List.range 64).filterMap (fun i =>
    match queueHead s ((t + i) % 64) prio with
    | none => none
    | some (id, l) =>
      match kernelOf s id with
      | none => none
      | some k => if waiting s l && decide (l.placed % k.gang = 0) then some (.head id l.placed, prio) else none)

/-- The candidates in the order of R334. -/
def candidates (s : State) : List Ranked :=
  let of (p : Nat) (l : List Ranked) : List Ranked := l.filter (fun x => x.2 == p)
  [3, 2, 1, 0].flatMap (fun p =>
    of p (resumeCands s) ++ of p (gangCands s) ++ of p (spawnCands s) ++ headCands s p)

/-! ### Placing (R332, R333, R336, R337) -/

/-- A context may be placed on a core: it is not suspended there. -/
def coreOpen (s : State) (core ctx : Nat) : Bool := !(getCore s core).susp.contains ctx

/-- A place for a team: its home core and division, on a cluster without another member of its gang (R336). -/
def placeOk (s : State) (lid : Nat) (l : Launch) (k : Kernel) (home mask : Nat) : Bool :=
  let split := (List.range k.team).any (fun i => !onHome mask i)
  teamFits s k l.single home mask && coreOpen s home l.ctx && (!split || coreOpen s (otherCore home) l.ctx)
    && !s.teams.any (fun t => t.2.launch == lid && !t.2.ended && t.2.cluster == clusterOf home
        && t.2.index / k.gang == l.placed / k.gang)

/-- All divisions that differ in room: the first groups of a team on the home core. -/
def divisions (k : Kernel) : List Nat := (List.range k.team).map (fun i => 2 ^ (k.team - i) - 1)

/-- A place for a launch's next team: one that the event prefers, else any that fits. -/
def findPlace (s : State) (prefs : List (Nat × Nat)) (lid : Nat) (l : Launch) (k : Kernel) : Option (Nat × Nat) :=
  match firstOf (fun p => placeOk s lid l k p.1 p.2) prefs with
  | some p => some p
  | none => firstOf (fun p => placeOk s lid l k p.1 p.2)
      ((List.range Config.cores).flatMap (fun c => (divisions k).map (fun m => (c, m))))

/-- Place a candidate, if it fits. -/
def placeCand (s : State) (prefs : List (Nat × Nat)) (x : Ranked) : Option State :=
  let team (lid : Nat) : Option (State × Launch) :=
    match mfind s.launches lid, kernelOf s lid with
    | some l, some k => (findPlace s prefs lid l k).bind (fun p =>
        ((mfind s.ctxs l.ctx).bind (fun c => reserveImage s l.ctx c k)).map (fun r => (startTeam s lid l k l.placed p.1 p.2 r, l)))
    | _, _ => none
  match x.1 with
  | .resume core ctx => if resumeFits s core ctx then some (resumeCore s core ctx) else none
  | .gang lid _ => (team lid).map (·.1)
  | .head lid _ => (team lid).map (fun r => { r.1 with turnVi := mset 0 r.1.turnVi x.2 ((viOf s r.2 + 1) % 64) })
  | .spawn core bin =>
    match (mget {} (getCore s core).bins bin).bound with
    | none => none
    | some (lid, _) =>
      match kernelOf s lid with
      | none => none
      | some k => if groupsFit s core 1 k && coreOpen s core (ctxOf s lid) then some (startSpawned s core bin) else none

/-- The first candidate of a list that fits, with the candidates passed over before it; a draining candidate that does
not fit ends the search (R335). -/
def firstFit (s : State) (prefs : List (Nat × Nat)) : List Ranked → List Cand → Option (State × Cand) × List Cand
  | [], passed => (none, passed)
  | x :: r, passed =>
    match placeCand s prefs x with
    | some s' => (some (s', x.1), passed)
    | none => if s.draining.contains x.1 then (none, passed ++ [x.1]) else firstFit s prefs r (passed ++ [x.1])

/-- Note the candidates passed over, each from the time at which that began. -/
def notePassed (s : State) (cs : List Cand) : State :=
  let new := cs.filter (fun c => !s.passed.any (fun p => p.1 == c))
  { s with passed := s.passed ++ new.map (fun c => (c, s.time)) }

/-- Placement until no candidate fits. -/
def placeAll (prefs : List (Nat × Nat)) : Nat → State → State
  | 0, s => s
  | n + 1, s =>
    match firstFit s prefs (candidates s) [] with
    | (none, passed) => notePassed s passed
    | (some (s', c), passed) =>
      let s' := notePassed s' passed
      placeAll prefs n { s' with passed := s'.passed.filter (fun p => p.1 != c), draining := s'.draining.filter (· != c) }

/-- Forget candidates that are candidates no longer. -/
def dropPassed (s : State) : State :=
  let cs := (candidates s).map (·.1)
  { s with passed := s.passed.filter (fun p => cs.contains p.1), draining := s.draining.filter (fun c => cs.contains c) }

/-- PLACEMENT_PASS (R334): `prefs` are the places that the scheduler's free choice prefers (R333). Each placement takes a
group's room or ends a suspension, which bounds their number. Core rails without power take nothing (R405). -/
def execPlacementPass (prefs : List (Nat × Nat)) (s : State) : Host.Outcome State Fault Refusal :=
  if powered s then .next (placeAll prefs (Config.cores * (Config.coreGroups + 1)) (dropPassed s)) else .next s

/-- DRAIN_START (R335): candidates passed over for 100 µs drain. -/
def execDrainStart (s : State) : Host.Outcome State Fault Refusal :=
  let due := (s.passed.filter (fun p => decide (p.2 + 100000 ≤ s.time) && !s.draining.contains p.1)).map (·.1)
  .next { s with draining := s.draining ++ due }

/-! ### Pre-emption and restart -/

/-- PREEMPT (R353): Maluk pre-empts a context on a core. -/
def execPreempt (core ctx : Nat) (s : State) : Host.Outcome State Fault Refusal :=
  if core < Config.cores ∧ (mfind s.ctxs ctx).isSome then .next (preemptCore s core ctx false) else .next s

/-- CORE_RESTART (R358): a halted core issues again, unless the package is shut down (R405). -/
def execCoreRestart (core : Nat) (s : State) : Host.Outcome State Fault Refusal :=
  match s.boot with
  | .shutdown _ => .next s
  | _ => .next (setCore s core { getCore s core with halted := false })

/-! ### The end of a launch (R43, R386, R388) -/

/-- A bin holds threads of the launch. -/
def binHolds (s : State) (lid : Nat) : Bool :=
  s.cores.any (fun c => c.2.bins.any (fun b => !b.2.held.isEmpty && (b.2.bound.map (·.1)) == some lid))

/-- Every team and spawned group has ended, and every operation and routine of the launch is over. -/
def launchOver (s : State) (lid : Nat) (l : Launch) : Bool :=
  groupsEnded s l lid && !binHolds s lid && !spawnsOpen s lid && s.ops.all (fun o => o.launch != lid)

/-- Remove the first window of a list that a launch mapped. -/
def dropWindow (va size : Nat) (k : WinKind) : List Window → List Window
  | [] => []
  | w :: r => if w.va = va ∧ w.size = size ∧ w.kind = k then r else w :: dropWindow va size k r

/-- The windows that a launch mapped are gone (R62, R91). -/
def dropWindows (s : State) (l : Launch) (k : Kernel) : State :=
  let n := l.privBytes * roundUp (l.teams * k.team * k.group) 32
  modCtx s l.ctx (fun c => { c with windows := dropWindow l.privBase n .priv (dropWindow l.args k.args .args c.windows) })

/-- LAUNCH_END (R43): the launch's completion is reported, and its teams' storage is free. -/
def execLaunchEnd (lid : Nat) (s : State) : Host.Outcome State Fault Refusal :=
  match mfind s.launches lid with
  | none => .next s
  | some l =>
    if l.ended || !launchOver s lid l then .next s
    else
      let s := postLaunch s lid 0x80 (pad8 (leBytes 8 l.utag ++ leBytes 4 (if l.aborted then 1 else 0)))
      let s := modLaunch { s with teams := s.teams.filter (fun t => t.2.launch != lid) } lid (fun l => { l with ended := true })
      let s := match kernelOf s lid with
        | some k => dropWindows s l k
        | none => s
      .next (reap s l.ctx)

/-- Bins of a core give up the threads of an aborted launch. -/
def emptyBins (lid : Nat) (c : Core) : Core :=
  { c with bins := c.bins.map (fun x =>
      (x.1, if (x.2.bound.map (·.1)) == some lid then { x.2 with held := [], ready := false } else x.2)) }

/-- Threads of ended groups leave a page fault. -/
def dropFaults (gone : List Nat) (fs : List PageFault) : List PageFault :=
  (fs.map (fun f => { f with threads := f.threads.filter (fun t => !gone.contains t.gid) })).filter (fun f => !f.threads.isEmpty)

/-- ABORT (R386): the launch's threads exit, held and waiting ones included; nothing more of it is placed; operations
already issued complete. -/
def abortLaunch (s : State) (lid : Nat) : State :=
  match mfind s.launches lid with
  | none => s
  | some l =>
    if l.ended ∨ l.aborted then s
    else
      let s := modLaunch s lid (fun l => { l with aborted := true })
      let gone := (s.groups.filter (fun g => g.2.launch == lid)).map (·.1)
      let s := { s with groups := s.groups.filter (fun g => g.2.launch != lid) }
      let s : State := s.cores.foldl (fun s c => setQueue s c.1 (c.2.canvas.filter (fun w => !gone.contains w.gid))) s
      let s : State := { s with
        faults := dropFaults gone s.faults
        cores := s.cores.map (fun x => (x.1, emptyBins lid x.2)) }
      (s.teams.filter (fun t => t.2.launch == lid)).foldl (fun s t => teamEnd s t.1) s

end Sys2Proof.Machine
end

