-- ==== Sys2Proof/Machine/Serve.lean ====
section
/-! DEFINITION. What Maluk and the service units do of their own accord: page faults (spec/20 R351, R352), table walks
(R342-R345), the start of shroud routines (spec/12 R290, R292), the services of SVC (spec/23 R391) and Maluk's own heap
operations (spec/11 R287). -/

namespace Sys2Proof.Machine

/-! ### Page faults (R350-R352) -/

/-- A thread parked in a sub-group. -/
def parkedIn (t : Thread) (sub : Nat) : Bool := t.st == .parked sub

/-- A thread returns to READY at its resume point. -/
def unparkThread (sub : Nat) (s : State) (x : Tid) : State :=
  modThread s x.gid x.tid (fun t => if parkedIn t sub then { t with st := .ready } else t)

/-- The handler mode that a thread enters from its parked state: its record is already written. -/
def parkedHandler (t : Thread) : Handler :=
  let w := t.trap.status.toNat
  { point := t.pc, clause := t.trap.clause, slot := bitsOf w 11 8, ext := bitOf w 12, header := t.trap.opcode == 0x3FF,
    code := bitsOf w 7 0, record := t.trap }

/-- A fault that Maluk does not resolve, delivered to one thread as a user-class trap (R350, R352). -/
def deliverParked (sub : Nat) (s : State) (x : Tid) : State :=
  match getGroup s x.gid with
  | none => s
  | some g =>
    let t := thread g x.tid
    if !parkedIn t sub then s
    else
      match (kernelOf s g.launch).bind (fun k => k.trapvec.map (fun v => k.text + v)), t.handler with
      | some pc, none => modThread s x.gid x.tid (fun t => { t with
          st := .ready
          pc := BitVec.ofNat 64 pc
          handler := some (parkedHandler t) })
      | _, h => postFault s g.launch x.gid x.tid (faultRecs h t.trap)

/-- One page fault of a sub-group: its page is made present and its threads return, or it is delivered to them (R352). -/
def resolveFault (sub : Nat) (s : State) (f : PageFault) : State :=
  if f.reason = 0 then f.threads.foldl (unparkThread sub) (makePresent s f.ctx f.va) else f.threads.foldl (deliverParked sub) s

/-- PAGE_FAULT_RESOLVE (R352): the page faults of a parked sub-group are served together, and its threads return to READY
together (R349, R351). -/
def execPageFaultResolve (sub : Nat) (s : State) : Host.Outcome State Fault Refusal :=
  let fs := s.faults.filter (fun f => f.sub == sub)
  let s := fs.foldl (resolveFault sub) { s with faults := s.faults.filter (fun f => f.sub != sub) }
  .next (afterUnpark s (fs.flatMap (fun f => f.threads.map (·.gid))))

/-! ### Walks (R344, R345) -/

/-- Two requests share one L3 table. -/
def sameL3 (a b : Walk) : Bool := a.ctx == b.ctx && a.va / 2 ^ 30 == b.va / 2 ^ 30

/-- Walks in flight of an execution. -/
def walksOf (s : State) (exec : Exec) : Nat := (s.walks.filter (fun w => w.exec == exec && w.going)).length

/-- The request that the scheduler serves first: one that has waited 4 µs, else the oldest of the execution with the
fewest walks in flight (R345). -/
def pickWalk (s : State) (die : Nat) : Option Walk :=
  let pend := s.walks.filter (fun w => w.die == die && !w.going)
  match minBy (fun w => w.at_) (pend.filter (fun w => decide (w.at_ + 4000 ≤ s.time))) with
  | some w => some w
  | none =>
    match minBy (fun w => walksOf s w.exec) pend with
    | none => none
    | some b => minBy (fun w => w.at_) (pend.filter (fun w => walksOf s w.exec == walksOf s b.exec))

/-- PAGE_WALK (R345): a batch of up to 8 pending requests of one execution that share an L3 table starts. -/
def execPageWalk (die : Nat) (s : State) : Host.Outcome State Fault Refusal :=
  match pickWalk s die with
  | none => .next s
  | some w =>
    let batch := (s.walks.filter (fun v => v.die == die && !v.going && v.exec == w.exec && sameL3 v w)).map (·.id)
    let ids := w.id :: (batch.filter (· ≠ w.id)).take 7
    .next { s with walks := s.walks.map (fun v => if ids.contains v.id then { v with going := true } else v) }

/-- WALK_END (R343): a translation is held by the unit and by its die's second level; a failing walk leaves nothing. -/
def execWalkEnd (id : Nat) (s : State) : Host.Outcome State Fault Refusal :=
  match s.walks.find? (fun w => w.id == id && w.going) with
  | none => .next s
  | some w =>
    let s := { s with walks := s.walks.filter (fun v => v.id != id) }
    match (mfind s.ctxs w.ctx).map (fun c => walk s c w.va) with
    | some (.ok l) =>
      let e (unit : Nat) : TlbEnt :=
        { unit := unit, ctx := w.ctx, page := l.page, size := l.size, pa := l.pa, read := l.read, write := l.write, exec := l.exec }
      let s := tlbFill s (e w.unit)
      .next (if w.unit < Config.cores then tlbFill s (e (384 + w.die)) else s)
    | _ => .next s

/-! ### Shroud queues (R290, R292) -/

/-- SHROUD_DISPATCH_DELIVER (R290): the oldest held dispatch enters the queue when it has room. -/
def execShroudDispatchDeliver (k : Nat) (s : State) : Host.Outcome State Fault Refusal :=
  let h := getShroud s k
  match h.held with
  | [] => .next s
  | q :: r => if h.queue.length < Config.shroudQueue then .next (setShroud s k { h with queue := h.queue ++ [q], held := r }) else .next s

/-- A routine at its start, with the PAYLOAD that its record holds then (R292). -/
def startRoutine (s : State) (q : Queued) (payload : Nat) : Option SThread :=
  match kernelOf s q.launch with
  | none => none
  | some k => (k.routines[q.routine]?).map (fun r =>
      { ctx := q.ctx, launch := q.launch, record := q.record, routine := q.routine, code := k.shroud + r.off, len := r.len
        n := mset 0 (mset 0 [] 1 (BitVec.ofNat 64 payload)) 2 (BitVec.ofNat 64 q.record) })

/-- PAYLOAD of a record whose page is gone when its routine starts: no rule states it (notes/assumptions/4.md). -/
def lostPayload (va : Nat) : Nat :=
  wordsVal ((List.range 2).map (fun i => Config.unstated 11 (leWords 2 va ++ [BitVec.ofNat 32 i])))

/-- SHROUD_ROUTINE_START (R290): a free thread takes the oldest record whose context's quota is positive; its record is read
through the base die's translation unit, and not while an engine owns its line (R99, R291). -/
def execShroudRoutineStart (k t : Nat) (s : State) : Host.Outcome State Fault Refusal :=
  let h := getShroud s k
  if 4 ≤ t ∨ Config.shrouds ≤ k ∨ (mfind h.threads t).isSome then .next s
  else
    match firstOf (fun q => !exhausted s q.ctx) h.queue with
    | none => .next s
    | some q =>
      let (s', pa) := resolveAt s (shroudUnit k) q.ctx (q.record + 0x10) .write (.routine k t)
      let payload := match pa with
        | .ok pa => rdMem s' pa 8
        | .error _ => lostPayload q.record
      if (match pa with
          | .ok pa => ownedLine s' pa
          | .error _ => false) then .next s
      else
        match startRoutine s' q payload with
        | none => .next (setShroud s' k { h with queue := h.queue.erase q })
        | some x =>
          .next { setShroud s' k { h with queue := h.queue.erase q, threads := mput h.threads t x } with cur := .shroud k t }

/-! ### Services (R172, R391) -/

/-- An SVC request of a service: its arguments and its status register. -/
def onService (s : State) (id : Nat) (is : Nat → Bool) (f : Op → List W32 → Dst → State) : Host.Outcome State Fault Refusal :=
  onOp s id (fun o => match o.kind with
    | .service n args d => if is n then f o args d else s
    | _ => s)

/-- SVC_ECHO (R391). -/
def execSvcEcho (id : Nat) (s : State) : Host.Outcome State Fault Refusal :=
  onService s id (· == 0) (fun o _ d => endOp (arrive s d 0 false) o)

/-- SVC_NOTE (R391): it takes a slot of the event queue, which is the one of R360. -/
def execSvcNote (id : Nat) (s : State) : Host.Outcome State Fault Refusal :=
  onService s id (· == 1) (fun o args d =>
    if Config.evqSlots ≤ s.evq.length then endOp (arrive s d 6 false) o
    else
      match mfind s.launches o.launch with
      | none => endOp s o
      | some l =>
        let q : EvSlot := { vi := viOf s l, endpoint := some l.endpoint, body := pad8 (args.flatMap (fun w => leBytes 4 w.toNat)) }
        endOp (arrive { s with evq := s.evq ++ [q] } d 0 false) o)

/-- SVC_ABORT_SELF (R391): no status is written. -/
def execSvcAbortSelf (id : Nat) (s : State) : Host.Outcome State Fault Refusal :=
  onService s id (· == 2) (fun o _ _ => endOp (abortLaunch s o.launch) o)

/-- SVC_OTHER_SERVICE (R391). -/
def execSvcOtherService (id : Nat) (s : State) : Host.Outcome State Fault Refusal :=
  onService s id (fun n => decide (3 ≤ n)) (fun o _ d => endOp (arrive s d 1 false) o)

/-! ### Maluk's heap operations (R287) -/

/-- MALUK_HEAP_PUSH (R287): in the heap's order, on a heap that a context holds. -/
def execMalukHeapPush (heap : Nat) (act : HeapAct) (s : State) : Host.Outcome State Fault Refusal :=
  let h := getHeap s heap
  if h.owner.isNone || h.releasing.isSome then .next s
  else
    match act with
    | .push dl req cost =>
      .next (setHeap s heap (heapPush (dl % 2 ^ 64) (BitVec.ofNat 32 req) (BitVec.ofNat 32 cost) h).2)
    | .budget v => .next (setHeap s heap (heapBudget (BitVec.ofNat 32 v) false h))

end Sys2Proof.Machine
end

