-- ==== Sys2Proof/Machine/Maluk.lean ====
section
/-! DEFINITION. Maluk's requests (spec/23 R384-R390, spec/19 R323-R331, R338, R339, spec/22 R378-R382, spec/24 R400): the
header, the authority, and the effect and the response of each kind. -/

namespace Sys2Proof.Machine

/-! ### Messages (R384, R385) -/

/-- A request as Maluk reads it: the fields of its header, its body without the trailer, the source of its flow. -/
structure MReq where
  kind : Nat
  vi : Nat
  auth : Nat
  seq : Nat
  len : Nat
  body : List Byte
  src : Nat
  pkey : Nat
  raw : List Byte

/-- The n-byte field of a body. -/
def MReq.f (q : MReq) (off n : Nat) : Nat := fieldAt q.body off n

/-- The 112 bytes of a credential trailer (R385). -/
def trailerLen : Nat := 112

/-- Read a message. -/
def reqOf (m : Msg) : MReq :=
  let auth := fieldAt m.raw 7 1
  let all := m.raw.drop 32
  { kind := fieldAt m.raw 4 2, vi := fieldAt m.raw 6 1, auth := auth, seq := fieldAt m.raw 8 4, len := fieldAt m.raw 16 4,
    body := if auth = 0 then all else all.take (all.length - trailerLen), src := m.src, pkey := m.pkey, raw := m.raw }

/-- The class of a request kind (R386): 0 session, 1 operator, 2 fabric; none for a number that is no request. -/
def kindClass (kind : Nat) : Option Nat :=
  if 0x01 ≤ kind ∧ kind ≤ 0x13 then some 0
  else if 0x20 ≤ kind ∧ kind ≤ 0x22 then some 1
  else if kind = 0x30 ∨ kind = 0x31 then some 2
  else none

/-- The request's own class: the operator's own SUBSCRIBE is the operator's (R386, R390); within a VI session no authority
suffices for the operator-only kinds, which is class 3 here. -/
def reqClass (q : MReq) : Nat :=
  if q.kind ≠ 0x0F then (kindClass q.kind).getD 0
  else if q.vi = 0xFF then 1
  else if Nat.land (q.f 8 4) 0x460 ≠ 0 then 3
  else 0

/-- VI is 0xFF exactly for OPEN_VI, for management requests and for the operator's SUBSCRIBE (R384, R390). -/
def viForm (q : MReq) : Bool :=
  let mgmt := q.kind == 0x01 || (kindClass q.kind).getD 0 != 0
  if q.vi = 0xFF then mgmt || (q.kind == 0x0F && q.auth == 1) else decide (q.vi < 64) && !mgmt

/-- Step 1 of R389: the header. -/
def reqHeaderOk (q : MReq) : Bool :=
  decide (32 ≤ q.raw.length) && fieldAt q.raw 0 2 == 0x4B4D && fieldAt q.raw 2 1 == 1 && fieldAt q.raw 3 1 == 0
    && (kindClass q.kind).isSome && viForm q && decide (q.auth ≤ 2) && fieldAt q.raw 12 4 == 0
    && decide (q.len ≤ 65536) && q.len + 32 == q.raw.length && fieldAt q.raw 20 12 == 0

/-- The body length of a kind (R390); that of the table writes depends on COUNT. -/
def bodyLen (q : MReq) : Nat :=
  match q.kind with
  | 0x01 => 24 | 0x03 => 24 | 0x04 => 32 | 0x05 => 8 | 0x06 => 32 | 0x07 => 16 | 0x08 => 24 | 0x09 => 8 | 0x0A => 72
  | 0x0B => 8 | 0x0C => 8 | 0x0D => 16 | 0x0E => 40 | 0x0F => 16 | 0x10 => 8 | 0x11 => 8 | 0x12 => 16 | 0x13 => 8
  | 0x20 => 136 | 0x21 => 16 | 0x22 => 8
  | 0x30 => roundUp (16 + 2 * q.f 4 4) 8
  | 0x31 => roundUp (8 + 4 * q.f 4 4) 8
  | _ => 0

/-- Step 2 of R389: LEN. -/
def reqLenOk (q : MReq) : Bool := q.len == bodyLen q + (if q.auth = 0 then 0 else trailerLen)

/-- The credential of a request (R385): key class, signature over header, body and the first 16 trailer bytes, counter. -/
def credOk (s : State) (q : MReq) : Bool :=
  let t := q.raw.drop (q.raw.length - trailerLen)
  let key := fieldAt t 0 4
  Config.keyClass key == q.auth
    && ecdsaOk (Config.keyPoint key) (q.raw.take (q.raw.length - 96)) (t.drop 16)
    && (match mfind s.secure.counters key with
      | none => true
      | some c => decide (c < fieldAt t 8 8))

/-- The session of a request: its VI is open, and the flow is the one that opened it (R385). -/
def sessionOk (s : State) (q : MReq) : Bool :=
  match mfind s.vis q.vi with
  | none => false
  | some v => !v.closing && v.src == q.src && v.pkey == q.pkey

/-- Step 3 of R389: the authority, of exactly the request's class (R385, R386). -/
def authOk (s : State) (q : MReq) : Bool :=
  q.auth == reqClass q && (if q.auth ≠ 0 then credOk s q else if q.kind = 0x01 then Config.admits q.src else sessionOk s q)

/-- A credential's counter is stored when Maluk accepts the request (R385). -/
def noteCounter (s : State) (q : MReq) : State :=
  if q.auth = 0 then s
  else
    let t := q.raw.drop (q.raw.length - trailerLen)
    { s with secure := { s.secure with counters := mput s.secure.counters (fieldAt t 0 4) (fieldAt t 8 8) } }

/-- What a request that is served leaves: the state, the response's body and its VI, and whether its response comes
later. -/
structure Reply where
  s : State
  body : List Byte := []
  vi : Option Nat := none
  later : Bool := false

/-- Send a response (R389) as message number n; it repeats the request's AUTH. -/
def respond (s : State) (q : MReq) (n vi status : Nat) (body : List Byte) : State :=
  { s with responses := s.responses ++
      [{ kind := q.kind, vi := vi, seq := q.seq, status := status, body := body, auth := q.auth, at_ := n }] }

/-- The header of a message (R384). -/
def headerBytes (cls kind vi auth seq status len : Nat) : List Byte :=
  leBytes 2 0x4B4D ++ leBytes 1 1 ++ leBytes 1 cls ++ leBytes 2 kind ++ leBytes 1 vi ++ leBytes 1 auth ++ leBytes 4 seq
    ++ leBytes 4 status ++ leBytes 4 len ++ leBytes 12 0

/-- A response and an event as messages. -/
def respBytes (r : Resp) : List Byte := headerBytes 1 r.kind r.vi r.auth r.seq r.status r.body.length ++ r.body
def eventBytes (e : Event) : List Byte := headerBytes 2 e.kind e.vi 0 e.seq 0 e.body.length ++ e.body

/-- Every message that Maluk has sent, in order. -/
def sentMessages (s : State) : List (List Byte) :=
  (sortBy (·.1) (s.responses.map (fun r => (r.at_, respBytes r)) ++ s.events.map (fun e => (e.at_, eventBytes e)))).map (·.2)

/-- A request of a session that bears a SEQ before that of one that has taken effect (R389; notes/assumptions/40.md). -/
def lateSeq (s : State) (q : MReq) : Bool :=
  q.auth == 0 && q.kind != 0x01 && sessionOk s q && (match (mfind s.vis q.vi).bind (·.seq) with
    | none => false
    | some n =>
      let d := (n + 2 ^ 32 - q.seq) % 2 ^ 32
      decide (1 ≤ d ∧ d < 2 ^ 31))

/-- The SEQ of a session's request that takes effect. -/
def noteSeq (s : State) (q : MReq) : State :=
  if q.auth = 0 then { s with vis := mmod s.vis q.vi (fun v => { v with seq := some q.seq }) } else s

/-- The trailer's zero field (R385, R390). -/
def trailerZero (q : MReq) : Bool := q.auth == 0 || fieldAt (q.raw.drop (q.raw.length - trailerLen)) 4 4 == 0

/-- Messages of a port that are still in flight. -/
def liveMsgs (s : State) (p : Port) : List PortMsg := p.flight.filter (fun m => s.ops.any (fun o => o.id == m.id))

/-- The earlier messages of a ROD flow, which stand before a later one of the flow (R392, R393). -/
def flowDeps (s : State) (p : Port) (flow : Option Nat) : List Nat :=
  ((liveMsgs s p).filter (fun m => flow.isSome && m.flow == flow)).map (·.id)

/-- A message waits behind what its ROD flow has brought before (R392), and a session's behind a graph post of its VI that
waits for a line (R389). -/
def msgWaits (s : State) (m : Msg) : Bool :=
  (m.mode == .rod && !(flowDeps s (getPort s m.port) (some m.flow)).isEmpty)
    || ((reqOf m).auth == 0 && s.ops.any (fun o => match o.kind with
      | .graph vi _ _ => vi == (reqOf m).vi
      | _ => false))

/-- Maluk serves (R397), the message's port is up and takes its delivery mode (R392), and nothing stands before it. -/
def reaches (s : State) (m : Msg) : Bool :=
  s.boot == .maluk && decide (m.port < Config.ports) && (getPort s m.port).up && (m.mode == .rod || m.mode == .rud)
    && !msgWaits s m

/-- Serve a request of the kind that `is` accepts, in the order of R389; `act` answers a status or a reply. The response is
numbered before the events that the request causes. A request that a later one of its VI has overtaken takes no effect any more:
it is answered BAD_REQUEST (R389; notes/assumptions/40.md). -/
def serve (s : State) (m : Msg) (is : MReq → Bool) (act : State → MReq → Except Nat Reply) : Host.Outcome State Fault Refusal :=
  let q := reqOf m
  let n := s.outN
  let s' : State := { s with outN := n + 1 }
  if !reaches s m || !reqHeaderOk q || !is q then .next s
  else if !reqLenOk q then .next (respond s' q n q.vi stBADREQ [])
  else if !authOk s q then .next (respond s' q n q.vi stAUTH [])
  else if lateSeq s q then .next (respond s' q n q.vi stBADREQ [])
  else
    let s' := noteSeq (noteCounter s' q) q
    if !trailerZero q then .next (respond s' q n q.vi stBADREQ [])
    else
      match act s' q with
      | .error st => .next (respond s' q n q.vi st [])
      | .ok r => .next (if r.later then r.s else respond r.s q n (r.vi.getD q.vi) stOK r.body)

/-- MALFORMED_REQUEST (R384): a header that breaks the table, or a KIND that names no request. -/
def execMalformedRequest (m : Msg) (s : State) : Host.Outcome State Fault Refusal :=
  let q := reqOf m
  if !reaches s m || reqHeaderOk q then .next s
  else .next (respond { s with outN := s.outN + 1 } q s.outN q.vi stBADREQ [])

/-- A request of a kind. -/
def serveKind (s : State) (m : Msg) (kind : Nat) (act : State → MReq → Except Nat Reply) : Host.Outcome State Fault Refusal :=
  serve s m (fun q => q.kind == kind) act

/-- A QUERY of a subject. -/
def serveQuery (s : State) (m : Msg) (subj : Nat → Bool) (act : State → MReq → Except Nat Reply) :
    Host.Outcome State Fault Refusal :=
  serve s m (fun q => q.kind == 0x0E && subj (q.f 0 4)) act

/-! ### What a request names -/

/-- The context of a session's request: one of its VI that is not being destroyed (R323, R387). -/
def namedCtx (s : State) (q : MReq) (id : Nat) : Except Nat Ctx :=
  match mfind s.ctxs id with
  | none => .error stNOOBJ
  | some c => if c.vi = q.vi ∧ !c.dying then .ok c else .error stNOOBJ

/-- The context of an operator's request: one of any VI. -/
def anyCtx (s : State) (id : Nat) : Except Nat Ctx :=
  match mfind s.ctxs id with
  | none => .error stNOOBJ
  | some c => .ok c

/-- The launch of a session's request. -/
def namedLaunch (s : State) (q : MReq) (id : Nat) : Except Nat Launch :=
  match mfind s.launches id with
  | none => .error stNOOBJ
  | some l => if (mfind s.ctxs l.ctx).any (fun c => c.vi == q.vi) then .ok l else .error stNOOBJ

/-- The kernel of a session's request. -/
def namedKernel (s : State) (ctx kid : Nat) : Except Nat Kernel :=
  match getKernel s ctx kid with
  | none => .error stNOOBJ
  | some k => .ok k

/-- A range lies within one window of a context that has the permission (R387). -/
def inWindow (c : Ctx) (va n : Nat) (perm : Window → Bool) : Bool :=
  c.windows.any (fun w => perm w && decide (w.va ≤ va ∧ va + n ≤ w.va + w.size)
    && (w.kind == .user || w.kind == .heap || w.kind == .data))

/-- An endpoint value: its top byte is zero (R390). -/
def endpointOk (e : Nat) : Bool := decide (e < 2 ^ 56)

/-- The endpoint a request names; 0 is the VI's default (R390). -/
def endpointOf (s : State) (vi e : Nat) : Nat := if e ≠ 0 then e else ((mfind s.vis vi).map (·.endpoint)).getD 0

/-! ### Virtual interfaces (R323, R324) -/

/-- OPEN_VI: the lowest free number; the grant of R324. -/
def openViAct (s : State) (q : MReq) : Except Nat Reply :=
  if !endpointOk (q.f 16 8) then .error stBADREQ
  else
    match firstOf (fun v => (mfind s.vis v).isNone) (List.range 64) with
    | none => .error stNORES
    | some v =>
      let grant := Nat.lor (Nat.land (Nat.land (q.f 0 16) (Config.policy v)) Config.featureMask) 1
      .ok { s := { s with
              vis := mput s.vis v { src := q.src, pkey := q.pkey, grant := grant, endpoint := q.f 16 8, seq := some q.seq }
              evSeq := mdel s.evSeq v }
            body := leBytes 16 grant
            vi := some v }

/-- A context's launches are aborted, and it goes once they have ended (R386). -/
def killCtx (s : State) (ctx : Nat) : State :=
  let s : State := ((s.launches.filter (fun l => l.2.ctx == ctx && !l.2.ended)).map (·.1)).foldl abortLaunch s
  reap (modCtx s ctx (fun c => { c with dying := true })) ctx

/-- A VI ends: its contexts go, and then it does (R323, R386). -/
def endVi (s : State) (vi : Nat) : State :=
  let s := { s with vis := mmod s.vis vi (fun v => { v with closing := true }) }
  let s : State := ((s.ctxs.filter (fun c => c.2.vi == vi)).map (·.1)).foldl killCtx s
  if s.ctxs.all (fun c => c.2.vi != vi) then { s with vis := mdel s.vis vi } else s

/-- NEGOTIATE within a session (R324). -/
def negotiateAct (_ : State) (q : MReq) : Except Nat Reply := .error (if endpointOk (q.f 16 8) then stRENEG else stBADREQ)

/-! ### Contexts and windows (R325, R326, R339, R390) -/

/-- Where a context's heap stands, and where Maluk maps it. -/
def heapAt : Nat := 2 ^ 54

/-- The heap window of a context, if it has a heap. -/
def heapWindow (size : Nat) : List Window :=
  if size = 0 then [] else [{ va := heapAt, size := size, kind := .heap, read := true, write := true, exec := false }]

/-- The lowest free context identifier (R325). -/
def freeCtx (s : State) : Option Nat := firstOf (fun i => (mfind s.ctxs i).isNone) (List.range 4096)

/-- CREATE_CTX. -/
def createCtxAct (s : State) (q : MReq) : Except Nat Reply :=
  let blocks := if q.f 0 4 = 0 then 256 else q.f 0 4
  let seqs := q.f 8 4
  let heap := q.f 24 8
  if q.f 12 4 ≠ 0 ∨ heap % 2 ^ 21 ≠ 0 then .error stBADREQ
  else if Config.arenaAllowance q.vi < q.f 4 4 ∨ Config.sequenceSlots < s.seqNext + seqs then .error stNORES
  else
    match freeCtx s, allocRun s blocks 1 with
    | some id, some (arena, s) =>
      match (if heap = 0 then some (0, s) else allocRun s (heap / 4096) 512).bind (fun h =>
          (allocRun h.2 (3 + Config.imageFrames) 1).map (fun x => (h.1, x))) with
      | some (pa, root, s) =>
        let base := if heap = 0 then 0 else heapAt
        let c : Ctx := {
          vi := q.vi, recAt := root + 8192, heapBase := base, heapLimit := base + heap, root := root,
          imageBase := root + 12288, semImage := root + 4096,
          heapOff := if heap = 0 then 0 else (pa + (2 ^ 56 - heapAt)) % 2 ^ 48, arenaBase := arena, arenaBlocks := blocks,
          arenaMax := q.f 4 4, quota := sext 64 (q.f 16 8), seqBase := s.seqNext, seqCount := seqs, windows := heapWindow heap }
        .ok { s := writeRecord { s with ctxs := mput s.ctxs id c, seqNext := s.seqNext + seqs } id
              body := leBytes 4 id ++ leBytes 4 c.seqBase ++ leBytes 8 c.heapBase ++ leBytes 8 c.heapLimit }
      | none => .error stNORES
    | _, _ => .error stNORES

/-- DESTROY_CTX. -/
def destroyCtxAct (s : State) (q : MReq) : Except Nat Reply :=
  if q.f 4 4 ≠ 0 then .error stBADREQ
  else
    match namedCtx s q (q.f 0 4) with
    | .error e => .error e
    | .ok _ => .ok { s := killCtx s (q.f 0 4) }

/-- The window that a MAP_WINDOW asks for, at an address. -/
def askedWindow (q : MReq) (va : Nat) : Window :=
  { va := va, size := q.f 16 8, kind := .user, read := bitOf (q.f 4 4) 0, write := bitOf (q.f 4 4) 1, exec := false,
    fabric := bitOf (q.f 4 4) 2, pkey := q.f 24 4 }

/-- MAP_WINDOW. -/
def mapWindowAct (s : State) (q : MReq) : Except Nat Reply :=
  let va := q.f 8 8
  let n := q.f 16 8
  if 8 ≤ q.f 4 4 ∨ va % 4096 ≠ 0 ∨ n % 4096 ≠ 0 ∨ n = 0 ∨ (q.f 24 4 ≠ 0 ∧ !bitOf (q.f 4 4) 2) ∨ q.f 28 4 ≠ 0
      ∨ (va ≠ 0 ∧ 2 ^ 56 < va + n) then .error stBADREQ
  else
    match namedCtx s q (q.f 0 4) with
    | .error e => .error e
    | .ok c =>
      if va ≠ 0 ∧ meetsWindow c va n then .error stBADREQ
      else
        match if va = 0 then findRange c n else some va with
        | none => .error stNORES
        | some va =>
          .ok { s := modCtx s (q.f 0 4) (fun c => { c with windows := c.windows ++ [askedWindow q va] }), body := leBytes 8 va }

/-- Clear the leaf entries of a range below a table of a level whose first address is `at_`; only present tables are
visited. -/
def clearFrom (lo hi : Nat) : Nat → Nat → Nat → Nat → State → State
  | 0, _, _, _, s => s
  | n + 1, level, table, at_, s =>
    (List.range (2 ^ levelBits level)).foldl (fun s i =>
      let a := at_ + i * 2 ^ levelShift level
      let pa := table + 8 * i
      let ent := rdMem s pa 8
      if hi ≤ a ∨ a + 2 ^ levelShift level ≤ lo ∨ !bitOf ent 0 then s
      else if level = 4 then wrEntry s pa 0
      else clearFrom lo hi n (level + 1) (bitsOf ent 47 12 * 4096) a s) s

/-- A window's pages are mapped no longer, and no unit holds a translation of them. -/
def unmapRange (s : State) (ctx va n : Nat) : State :=
  match mfind s.ctxs ctx with
  | none => s
  | some c =>
    let s := clearFrom va (va + n) 5 0 c.root 0 s
    { s with tlb := s.tlb.filter (fun e => !(e.ctx == ctx && decide (e.page < va + n ∧ va < e.page + e.size))) }

/-- A window of a context is gone. -/
def dropMapped (s : State) (ctx : Nat) (w : Window) : State :=
  modCtx (unmapRange s ctx w.va w.size) ctx (fun c => { c with windows := c.windows.erase w })

/-- UNMAP_WINDOW. -/
def unmapWindowAct (s : State) (q : MReq) : Except Nat Reply :=
  if q.f 4 4 ≠ 0 then .error stBADREQ
  else
    match namedCtx s q (q.f 0 4) with
    | .error e => .error e
    | .ok c =>
      match c.windows.find? (fun w => w.kind == .user && w.va == q.f 8 8) with
      | none => .error stNOOBJ
      | some w => .ok { s := dropMapped s (q.f 0 4) w }

/-! ### Objects (R152, R153, R329) -/

/-- The bytes of a range, as Maluk reads them page by page; `k` bounds the pages. -/
def readRange (ctx : Nat) : Nat → Nat → Nat → State → Option (List Byte × State)
  | 0, _, n, s => if n = 0 then some ([], s) else none
  | k + 1, va, n, s =>
    if n = 0 then some ([], s)
    else
      let m := min n (4096 - va % 4096)
      match resolvePa s homeUnit ctx va .read with
      | (_, .error _) => none
      | (s, .ok pa) => (readRange ctx k (va + m) (n - m) s).map (fun r => (rdBytes s pa m ++ r.1, r.2))

/-- LOAD_OBJECT. -/
def loadObjectAct (s : State) (q : MReq) : Except Nat Reply :=
  let ctx := q.f 0 4
  let size := q.f 16 8
  if q.f 4 4 ≠ 0 ∨ size < 32 ∨ 2 ^ 32 < size then .error stBADREQ
  else
    match namedCtx s q ctx with
    | .error e => .error e
    | .ok c =>
      if !inWindow c (q.f 8 8) size (·.read) then .error stBADREQ
      else
        match readRange ctx (pagesOf size + 1) (q.f 8 8) size s with
        | none => .error stBADREQ
        | some (bs, s) =>
          match parseObject bs (((mfind s.vis q.vi).map (·.grant)).getD 1) with
          | .error e => .error e
          | .ok ps =>
            match loadAll ctx ps s with
            | none => .error stNORES
            | some (kids, s) =>
              let rows := (kids.zip (List.range kids.length)).flatMap (fun x => leBytes 4 x.1 ++ leBytes 4 x.2)
              .ok { s := s, body := leBytes 4 kids.length ++ leBytes 4 0 ++ rows }

/-- The window of a section. -/
def sectionWindow (c : Ctx) (va : Nat) (k : WinKind) : Option Window := c.windows.find? (fun w => w.kind == k && w.va == va)

/-- A section is mapped no longer. -/
def dropSection (s : State) (ctx va : Nat) (k : WinKind) : State :=
  match (mfind s.ctxs ctx).bind (fun c => sectionWindow c va k) with
  | none => s
  | some w => dropMapped s ctx w

/-- UNLOAD. -/
def unloadAct (s : State) (q : MReq) : Except Nat Reply :=
  let ctx := q.f 0 4
  let kid := q.f 4 4
  match namedCtx s q ctx with
  | .error e => .error e
  | .ok _ =>
    match namedKernel s ctx kid with
    | .error e => .error e
    | .ok k =>
      if s.launches.any (fun l => l.2.ctx == ctx && l.2.kid == kid && !l.2.ended) then .error stBUSY
      else
        let s := dropSection (dropSection s ctx k.text .text) ctx k.dataBase .data
        .ok { s := { s with kernels := mdel s.kernels (kernelKey ctx kid) } }

/-! ### Launches (R330, R331, R386) -/

/-- Field values of a LAUNCH (R330, R390). -/
def launchFieldsOk (q : MReq) : Bool :=
  decide (1 ≤ q.f 8 4 ∧ q.f 8 4 ≤ 2 ^ 24) && q.f 12 4 % 1024 == 0 && decide (q.f 12 4 ≤ 262144) && decide (q.f 16 4 ≤ 1)
    && decide (q.f 20 1 ≤ 3) && q.f 21 3 == 0 && q.f 24 8 % 8 == 0 && endpointOk (q.f 56 8)

/-- The lowest LAUNCH_TAG that no unended launch of the context carries; none for a launch that would be the 65,536th
unended one (R330). -/
def freeTag (s : State) (ctx : Nat) : Option Nat :=
  let used := s.launches.filterMap (fun l => if l.2.ctx = ctx ∧ !l.2.ended then some l.2.tag else none)
  if 65535 ≤ used.length then none else firstOf (fun t => !used.contains t) (List.range 65536)

/-- The LAUNCH_ID that the n-th launch of a VI's session receives (R390): nothing of another VI shows in it (R323). -/
def launchId (vi n : Nat) : Nat := 64 * (n + 1) + vi

/-- Bytes of a launch's private space (R91). -/
def privSize (q : MReq) (k : Kernel) : Nat := q.f 12 4 * roundUp (q.f 8 4 * k.team * k.group) 32

/-- The windows that a launch adds: its argument block, read-only (R62), and its private space. -/
def launchWindows (q : MReq) (k : Kernel) (pb : Nat) : List Window :=
  (if k.args = 0 then [] else [{ va := q.f 24 8, size := k.args, kind := .args, read := true, write := false, exec := false }])
    ++ (if privSize q k = 0 then []
      else [{ va := pb, size := privSize q k, kind := .priv, read := true, write := true, exec := false }])

/-- The launch that a request describes. -/
def launchOf (s : State) (q : MReq) (tag pb : Nat) : Launch :=
  { ctx := q.f 0 4, kid := q.f 4 4, tag := tag, teams := q.f 8 4, args := q.f 24 8, key := BitVec.ofNat 64 (q.f 32 8),
    pos := BitVec.ofNat 128 (q.f 40 16), privBytes := q.f 12 4, privBase := pb, priority := q.f 20 1,
    single := bitOf (q.f 16 4) 0, endpoint := endpointOf s q.vi (q.f 56 8), utag := q.f 64 8, order := s.nextId }

/-- LAUNCH. -/
def launchAct (s : State) (q : MReq) : Except Nat Reply :=
  let ctx := q.f 0 4
  if !launchFieldsOk q then .error stBADREQ
  else
    match namedCtx s q ctx, namedKernel s ctx (q.f 4 4) with
    | .ok c, .ok k =>
      if !inWindow c (q.f 24 8) (max k.args 1) (fun _ => true) then .error stBADREQ
      else if !everFits k (bitOf (q.f 16 4) 0) then .error stTOOLARGE
      else
        match freeTag s ctx, (if privSize q k = 0 then some 0 else findRange c (privSize q k)) with
        | some tag, some pb =>
          let id := launchId q.vi (((mfind s.vis q.vi).map (·.launches)).getD 0)
          let s := { s with vis := mmod s.vis q.vi (fun v => { v with launches := v.launches + 1 }) }
          let s' := modCtx s ctx (fun c => { c with windows := c.windows ++ launchWindows q k pb })
          .ok { s := { s' with launches := mput s'.launches id (launchOf s q tag pb), nextId := s.nextId + 1 }
                body := leBytes 8 id ++ leBytes 4 tag ++ leBytes 4 0 }
        | _, _ => .error stNORES
    | .error e, _ => .error e
    | _, .error e => .error e

/-- ABORT. -/
def abortAct (s : State) (q : MReq) : Except Nat Reply :=
  match namedLaunch s q (q.f 0 8) with
  | .error e => .error e
  | .ok _ => .ok { s := abortLaunch s (q.f 0 8) }

/-- A thread that is parked, and not for a page fault that Maluk still serves (R350, R352). -/
def unparkable (s : State) (gid tid : Nat) (t : Thread) : Bool :=
  match t.st with
  | .parked sub => !s.faults.any (fun f => f.sub == sub && f.threads.contains { gid := gid, tid := tid })
  | _ => false

/-- Threads of a group that wait parked return to READY at their resume points. -/
def unparkGroup (s : State) (gid : Nat) (g : Group) : Group :=
  { g with threads := (g.threads.zip (List.range g.threads.length)).map (fun x =>
      if unparkable s gid x.2 x.1 then { x.1 with st := .ready } else x.1) }

/-- UNPARK (R350). -/
def unparkAct (s : State) (q : MReq) : Except Nat Reply :=
  let id := q.f 0 8
  match namedLaunch s q id with
  | .error e => .error e
  | .ok _ =>
    let s' := { s with groups := s.groups.map (fun x => (x.1, if x.2.launch = id then unparkGroup s x.1 x.2 else x.2)) }
    .ok { s := afterUnpark s' ((s.groups.filter (fun x => x.2.launch == id)).map (·.1)) }

/-- POST_GRAPH (R248); while an engine owns the record's line the request waits (R100). -/
def postGraphAct (s : State) (q : MReq) : Except Nat Reply :=
  let rec_ := q.f 8 8
  if q.f 4 4 ≠ 0 then .error stBADREQ
  else
    match namedCtx s q (q.f 0 4) with
    | .error e => .error e
    | .ok c =>
      if rec_ % 128 ≠ 0 ∨ !inWindow c rec_ 128 (·.write) then .error stBADREQ
      else
        match resolvePa s homeUnit (q.f 0 4) rec_ .write with
        | (_, .error _) => .error stBADREQ
        | (s', .ok pa) =>
          if ownedLoc s' (.g pa) then
            .ok { s := addOp s' { id := 0, who := .port 0, ctx := q.f 0 4, launch := 0, core := Config.cores,
                                  kind := .graph q.vi q.seq rec_ }
                  later := true }
          else .ok { s := postRecord s' (q.f 0 4) rec_ }

/-! ### Queries and subscriptions (R390, R400) -/

/-- Zero bytes of a QUERY's ARG from an offset on. -/
def argZero (q : MReq) (off : Nat) : Bool := q.f 4 4 == 0 && q.f off (40 - off) == 0

/-- QUERY CONTEXT. -/
def queryContextAct (s : State) (q : MReq) : Except Nat Reply :=
  if !argZero q 12 then .error stBADREQ
  else
    match namedCtx s q (q.f 8 4) with
    | .error e => .error e
    | .ok c =>
      .ok { s := s, body := leBytes 4 (ctxFlags s c) ++ leBytes 4 c.arenaBlocks ++ leBytes 4 c.arenaMax ++ leBytes 4 0
              ++ leBytes 8 (wrapN 64 (quotaOf s c)) }

/-- Parked threads of a launch. -/
def parkedCount (s : State) (lid : Nat) : Nat :=
  sumN (s.groups.map (fun g => if g.2.launch = lid then (g.2.threads.filter (fun t => match t.st with
    | .parked _ => true
    | _ => false)).length else 0))

/-- QUERY LAUNCH. -/
def queryLaunchAct (s : State) (q : MReq) : Except Nat Reply :=
  if !argZero q 16 then .error stBADREQ
  else
    match namedLaunch s q (q.f 8 8) with
    | .error e => .error e
    | .ok l =>
      let st := if l.ended then 2 else if l.placed = 0 then 0 else 1
      .ok { s := s, body := leBytes 4 st ++ leBytes 4 l.placed ++ leBytes 4 l.done ++ leBytes 4 (parkedCount s (q.f 8 8)) }

/-- QUERY GRANT. -/
def queryGrantAct (s : State) (q : MReq) : Except Nat Reply :=
  if !argZero q 8 then .error stBADREQ
  else .ok { s := s, body := leBytes 16 (((mfind s.vis q.vi).map (·.grant)).getD 1) }

/-- What a report's signatures cover (R400), in the order of the rule. -/
def reportBody (s : State) (q : MReq) : List Byte :=
  let c := s.secure
  (q.body.drop 8).take 32 ++ c.meas1 ++ c.meas2 ++ leBytes 4 c.svn1 ++ leBytes 4 c.svn2 ++ leBytes 4 q.vi
    ++ leBytes 16 (((mfind s.vis q.vi).map (·.grant)).getD 1) ++ leBytes 4 (if c.noLms then 1 else 0)
    ++ c.cert

/-- ATTEST: each report takes the next leaf of the alias tree. -/
def attestAct (s : State) (q : MReq) : Except Nat Reply :=
  let c := s.secure
  if q.f 4 4 ≠ 0 then .error stBADREQ
  else if Config.aliasLeaves ≤ c.aliasLeaf then .error stNORES
  else
    let b := reportBody s q
    .ok { s := { s with secure := { c with aliasLeaf := c.aliasLeaf + 1 } }
          body := b ++ Config.aliasSign c.boots b ++ Config.aliasLms c.boots c.aliasLeaf b }

/-- A QUERY of any other subject. -/
def otherSubjectAct (_ : State) (q : MReq) : Except Nat Reply := .error (if q.f 4 4 ≠ 0 then stBADREQ else stNOOBJ)

/-- The subjects of R390. -/
def knownSubject (n : Nat) : Bool := n == 1 || n == 2 || n == 3 || n == 0xA7

/-- SUBSCRIBE: the operator's own may set only the operator-only kinds. -/
def subscribeAct (s : State) (q : MReq) : Except Nat Reply :=
  let op := q.vi == 0xFF
  let ep := endpointOf s q.vi (q.f 0 8)
  let kinds := q.f 8 4
  if !endpointOk (q.f 0 8) ∨ 2 ^ 11 ≤ kinds ∨ q.f 12 4 ≠ 0 ∨ ep = 0 ∨ (op ∧ Nat.land kinds 0x460 ≠ kinds) then .error stBADREQ
  else if op then .ok { s := { s with opSubs := s.opSubs ++ [(ep, kinds)] } }
  else .ok { s := { s with vis := mmod s.vis q.vi (fun v => { v with subs := v.subs ++ [(ep, kinds)] }) } }

/-! ### Heaps, quota, arena (R338, R339, R371) -/

/-- ASSIGN_HEAP: a free heap, emptied, with BUD 0. -/
def assignHeapAct (s : State) (q : MReq) : Except Nat Reply :=
  let ctx := q.f 0 4
  let slot := q.f 4 4
  if 16 ≤ slot then .error stBADREQ
  else
    match namedCtx s q ctx with
    | .error e => .error e
    | .ok c =>
      if (mfind c.heapMap slot).isSome then .error stBADREQ
      else
        match firstOf (fun h => (getHeap s h).owner.isNone) (List.range 16) with
        | none => .error stNORES
        | some h =>
          let s := setHeap s h { owner := some (ctx, slot) }
          .ok { s := modRecord s ctx (fun c => { c with heapMap := mput c.heapMap slot h }), body := leBytes 4 h ++ leBytes 4 0 }

/-- RELEASE_HEAP: it completes, and is answered, when every operation issued to the heap has taken effect. -/
def releaseHeapAct (s : State) (q : MReq) : Except Nat Reply :=
  let ctx := q.f 0 4
  let slot := q.f 4 4
  if 16 ≤ slot then .error stBADREQ
  else
    match namedCtx s q ctx with
    | .error e => .error e
    | .ok c =>
      match mfind c.heapMap slot with
      | none => .error stNOOBJ
      | some h =>
        let s := modRecord s ctx (fun c => { c with heapMap := mdel c.heapMap slot })
        .ok { s := endRelease (setHeap s h { getHeap s h with releasing := some (q.vi, q.seq) }) h, later := true }

/-- The quota after an addition; a sum beyond 64 signed bits is a value that no rule states. -/
def addedQuota (q n : Int) : Int :=
  if q + n < 2 ^ 63 then q + n
  else sext 64 (wordsVal [Config.unstated 30 (leWords 2 (wrapN 64 (q + n))), Config.unstated 31 (leWords 2 (wrapN 64 (q + n)))])

/-- ADD_QUOTA. -/
def addQuotaAct (s : State) (q : MReq) : Except Nat Reply :=
  let n := q.f 8 8
  if q.f 4 4 ≠ 0 ∨ n = 0 ∨ 2 ^ 63 ≤ n then .error stBADREQ
  else
    match namedCtx s q (q.f 0 4) with
    | .error e => .error e
    | .ok _ => .ok { s := modRecord s (q.f 0 4) (fun c => { c with quota := addedQuota c.quota n }) }

/-- SET_ARENA_MAX: raised within the VI's allowance, lowered freely. -/
def setArenaMaxAct (s : State) (q : MReq) : Except Nat Reply :=
  let n := q.f 4 4
  match namedCtx s q (q.f 0 4) with
  | .error e => .error e
  | .ok c =>
    if c.arenaMax < n ∧ Config.arenaAllowance q.vi < n then .error stNORES
    else .ok { s := modRecord s (q.f 0 4) (fun c => { c with arenaMax := n }) }

/-! ### Operator requests (R379, R381) -/

/-- A tap entry, as R379 lays it out. -/
def tapOf (e : List Byte) : Tap :=
  let ctl := fieldAt e 0 4
  let col (o n : Nat) : List Nat := (List.range 4).map (fun k => fieldAt e (o + 16 * k) n)
  { active := bitOf ctl 0, steerEn := bitOf ctl 1, nprobe := bitsOf ctl 4 2, less := BitVec.ofNat 4 (bitsOf ctl 11 8),
    n := bitsOf ctl 31 16, steerBase := fieldAt e 8 8, probes := col 0x10 8, bias := (col 0x18 4).map (BitVec.ofNat 32),
    thresh := (col 0x1C 4).map (BitVec.ofNat 32) }

/-- The entry breaks no rule of the table of R379. -/
def tapOk (e : List Byte) : Bool :=
  let ctl := fieldAt e 0 4
  let t := tapOf e
  decide (t.nprobe ≤ 4) && bitsOf ctl 7 5 == 0 && bitsOf ctl 15 12 == 0 && decide (32 ≤ t.n ∧ t.n ≤ 8192)
    && fieldAt e 4 4 == 0 && t.steerBase % 128 == 0 && t.probes.all (fun p => p % 128 == 0) && fieldAt e 0x50 48 == 0

/-- WRITE_TAP. -/
def writeTapAct (s : State) (q : MReq) : Except Nat Reply :=
  let tap := q.f 4 4
  let e := q.body.drop 8
  if 8 ≤ tap ∨ !tapOk e then .error stBADREQ
  else
    match anyCtx s (q.f 0 4) with
    | .error x => .error x
    | .ok _ => .ok { s := modCtx s (q.f 0 4) (fun c => { c with taps := mput c.taps tap (tapOf e) }) }

/-- A write of a sequence slot's word: SLOT is the context's, and SEQ_BASE is added (R381, R390). -/
def seqWrite (s : State) (q : MReq) (f : W32 → W32) : Except Nat Reply :=
  match anyCtx s (q.f 0 4) with
  | .error x => .error x
  | .ok c =>
    if c.seqCount ≤ q.f 4 4 then .error stBADREQ
    else
      let k := c.seqBase + q.f 4 4
      .ok { s := { s with seqWords := mset 0 s.seqWords k (f (mget 0 s.seqWords k)) } }

/-- WRITE_STEER. -/
def writeSteerAct (s : State) (q : MReq) : Except Nat Reply :=
  if 256 ≤ q.f 8 4 ∨ q.f 12 4 ≠ 0 then .error stBADREQ
  else seqWrite s q (fun w => (w &&& 0xFFFF00FF#32) ||| BitVec.ofNat 32 (q.f 8 4 * 256))

/-- CLEAR_TRIP: TRIPPED, PROBES and TRIPS. -/
def clearTripAct (s : State) (q : MReq) : Except Nat Reply := seqWrite s q (fun w => w &&& 0x7F0FFF00#32)

/-! ### Fabric management (R393, R395) -/

/-- The n values of a table write, and the padding after them. -/
def tableVals (q : MReq) (off size n : Nat) : List Nat := (List.range n).map (fun i => q.f (off + size * i) size)

/-- WRITE_PATHS: the table is swapped in whole, for messages sent from then on. -/
def writePathsAct (s : State) (q : MReq) : Except Nat Reply :=
  let n := q.f 4 4
  if 8 ≤ q.f 0 4 ∨ n < 1 ∨ 256 < n ∨ 2 ≤ q.f 8 4 ∨ q.f 12 4 ≠ 0 ∨ q.f (16 + 2 * n) 8 ≠ 0 then .error stBADREQ
  else
    let p := getPort s (q.f 0 4)
    .ok { s := setPort s (q.f 0 4) { p with paths := tableVals q 16 2 n, paceEn := bitOf (q.f 8 4) 0 } }

/-- WRITE_PKEYS: the table applies to every access checked from then on. -/
def writePkeysAct (s : State) (q : MReq) : Except Nat Reply :=
  let n := q.f 4 4
  if 8 ≤ q.f 0 4 ∨ n < 1 ∨ 64 < n ∨ q.f (8 + 4 * n) 8 ≠ 0 then .error stBADREQ
  else .ok { s := setPort s (q.f 0 4) { getPort s (q.f 0 4) with pkeys := tableVals q 8 4 n } }

/-! ### The events -/

/-- OPEN_VI (R324). -/
def execOpenVi (m : Msg) (s : State) := serveKind s m 0x01 openViAct
/-- CLOSE_VI (R386). -/
def execCloseVi (m : Msg) (s : State) := serveKind s m 0x02 (fun s q => .ok { s := endVi s q.vi })
/-- NEGOTIATE (R324). -/
def execNegotiate (m : Msg) (s : State) := serveKind s m 0x03 negotiateAct
/-- CREATE_CTX (R325). -/
def execCreateCtx (m : Msg) (s : State) := serveKind s m 0x04 createCtxAct
/-- DESTROY_CTX (R386). -/
def execDestroyCtx (m : Msg) (s : State) := serveKind s m 0x05 destroyCtxAct
/-- MAP_WINDOW (R390). -/
def execMapWindow (m : Msg) (s : State) := serveKind s m 0x06 mapWindowAct
/-- UNMAP_WINDOW (R390). -/
def execUnmapWindow (m : Msg) (s : State) := serveKind s m 0x07 unmapWindowAct
/-- LOAD_OBJECT (R152). -/
def execLoadObject (m : Msg) (s : State) := serveKind s m 0x08 loadObjectAct
/-- UNLOAD (R329). -/
def execUnload (m : Msg) (s : State) := serveKind s m 0x09 unloadAct
/-- LAUNCH (R330). -/
def execLaunch (m : Msg) (s : State) := serveKind s m 0x0A launchAct
/-- ABORT (R386). -/
def execAbort (m : Msg) (s : State) := serveKind s m 0x0B abortAct
/-- UNPARK (R350). -/
def execUnpark (m : Msg) (s : State) := serveKind s m 0x0C unparkAct
/-- POST_GRAPH (R386). -/
def execPostGraph (m : Msg) (s : State) := serveKind s m 0x0D postGraphAct
/-- QUERY CONTEXT (R390). -/
def execQueryContext (m : Msg) (s : State) := serveQuery s m (· == 1) queryContextAct
/-- QUERY LAUNCH (R390). -/
def execQueryLaunch (m : Msg) (s : State) := serveQuery s m (· == 2) queryLaunchAct
/-- QUERY GRANT (R390). -/
def execQueryGrant (m : Msg) (s : State) := serveQuery s m (· == 3) queryGrantAct
/-- ATTEST (R400). -/
def execAttest (m : Msg) (s : State) := serveQuery s m (· == 0xA7) attestAct
/-- A QUERY of another subject (R390). -/
def execQueryOtherSubject (m : Msg) (s : State) := serveQuery s m (fun n => !knownSubject n) otherSubjectAct
/-- SUBSCRIBE (R390). -/
def execSubscribe (m : Msg) (s : State) := serveKind s m 0x0F subscribeAct
/-- ASSIGN_HEAP (R338). -/
def execAssignHeap (m : Msg) (s : State) := serveKind s m 0x10 assignHeapAct
/-- RELEASE_HEAP (R338). -/
def execReleaseHeap (m : Msg) (s : State) := serveKind s m 0x11 releaseHeapAct
/-- ADD_QUOTA (R371). -/
def execAddQuota (m : Msg) (s : State) := serveKind s m 0x12 addQuotaAct
/-- SET_ARENA_MAX (R339). -/
def execSetArenaMax (m : Msg) (s : State) := serveKind s m 0x13 setArenaMaxAct
/-- WRITE_TAP (R378). -/
def execWriteTap (m : Msg) (s : State) := serveKind s m 0x20 writeTapAct
/-- WRITE_STEER (R381). -/
def execWriteSteer (m : Msg) (s : State) := serveKind s m 0x21 writeSteerAct
/-- CLEAR_TRIP (R381). -/
def execClearTrip (m : Msg) (s : State) := serveKind s m 0x22 clearTripAct
/-- WRITE_PATHS (R393). -/
def execWritePaths (m : Msg) (s : State) := serveKind s m 0x30 writePathsAct
/-- WRITE_PKEYS (R393). -/
def execWritePkeys (m : Msg) (s : State) := serveKind s m 0x31 writePkeysAct

/-- SESSION_ENDPOINT_FAILS (R323): the VI ends without a request. -/
def execSessionEndpointFails (vi : Nat) (s : State) : Host.Outcome State Fault Refusal :=
  if (mfind s.vis vi).isSome then .next (endVi s vi) else .next s

end Sys2Proof.Machine
end

