-- ==== Sys2Proof/Machine/Move.lean ====
section
/-! DEFINITION. Moves, windows, special registers and predicates (spec/08 R182-R185, spec/03 R47, R52, R63). -/

namespace Sys2Proof.Machine

/-- MOV (R182). -/
def movRun (s : State) (cx : Cx) : State := laneExec s cx true (read1 s cx) (fun _ g => outN cx g.val)
/-- MOV (R182). -/
def execMov (f : FR) (s : State) := coreR 0x060 f s (fun cx => movRun s cx)
/-- The twin of MOV (R182). -/
def execMovTwin (f : FR) (m : Mod) (s : State) := coreT 0x060 f m s (fun cx => movRun s cx)

/-- MOVI (R182). Under U = 1 each thread executes it, so that a D out of bounds traps that thread alone (R131,
notes/assumptions/7.md). -/
def execMovi (f : FI) (s : State) := coreI 0x061 f s (fun cx =>
  laneExec s cx.each true (fun _ => pure ()) (fun _ _ => out32 (wrapN 32 (sext 14 f.imm.toNat))))

/-- The literal form of MOVI, opcode 0x261, whose IMM14 must be 0 (R182). -/
def execMoviLiteral (f : FI) (w : W32) (s : State) : Host.Outcome State Fault Refusal :=
  withEntry 0x061 (fun e =>
    withRun s 0x261 true e (baseMod e) { u := f.u, d := f.d, a := 0, b := 0 }
      (fieldOk e (baseMod e) e.d f.d.toNat && f.imm == 0)
      (fun cx => laneExec s cx.each true (fun _ => pure ()) (fun _ _ => out32 w.toNat)))

/-- MOVH (R182). -/
def execMovh (f : FI) (s : State) := coreI 0x062 f s (fun cx =>
  laneExec s cx true (fun tid => readD s cx tid false)
    (fun _ g => out32 (f.imm.toNat * 2 ^ 18 + g.val % 2 ^ 18)))

/-- The register at an exact index sum: its bound (R63), which `earlyTrap` has found before, and pending bit (R59). -/
def relIndex (cx : Cx) (t : Thread) (code b : Nat) : Except Stop Nat :=
  let i := t.wb + code + b
  if cx.k.regs ≤ i then .error (.trap { code := cREG, info := i })
  else if t.pend.contains i then .error (.stall true)
  else .ok i

/-- MOVREL (R182, R63). -/
def execMovrel (f : FR) (s : State) := coreR 0x063 f s (fun cx =>
  laneExec s cx true (fun tid => do
      let b ← readB s cx tid false
      let w ← get
      match relIndex cx w.th cx.f.a.toNat b with
      | .error e => throw e
      | .ok i => readRegs i 1) (fun _ g => { words := g.val }))

/-- What MOVRW reads: the value and the index it is written at. -/
def readRw (s : State) (cx : Cx) (tid : Nat) : Rd (Nat × Nat) := do
  let a ← readA s cx tid false
  let b ← readB s cx tid false
  let w ← get
  match relIndex cx w.th cx.f.d.toNat b with
  | .error e => throw e
  | .ok i => pure (a, i)

/-- MOVRW (R182, R63): under U = 1 the value goes to every thread's register at that absolute index. -/
def execMovrw (f : FR) (s : State) := coreR 0x064 f s (fun cx =>
  let run := laneExec s cx false (readRw s cx) (fun _ g =>
    { upd := fun t => putRegs t g.val.2 [BitVec.ofNat 32 g.val.1] false })
  if cx.uni then
    match readOne s cx (readRw s cx) false cx.low with
    | .ok g => if cx.fl.run.any (fun t => (thread cx.g t).pend.contains g.val.2) then stallRun s cx true else run
    | .error _ => run
  else run)

/-- WINB (R183, R47): each thread moves its own window, whatever U says. -/
def execWinb (f : FI) (s : State) := coreI 0x065 f s (fun cx =>
  laneExec s cx.each false (fun _ => do
      let w ← get
      let wb := (w.th.wb : Int) + 8 * sext 14 f.imm.toNat
      if wb < 0 ∨ (cx.k.regs : Int) ≤ wb then trapRd { code := cWINDOW } else pure wb.toNat)
    (fun _ g => { upd := fun t => { t with wb := g.val } }))

/-- The value of a special register for a thread (R52, R184). -/
def special (cx : Cx) (t : Thread) (sel : Nat) : Nat :=
  match sel with
  | 0 => cx.l.args
  | 1 => cx.k.args
  | 2 => cx.k.regs
  | 3 => t.wb
  | 4 => cx.k.group
  | 5 => if cx.team.isSome then cx.k.team else 0
  | 6 => cx.k.dataBase
  | 7 => cx.grant % 2 ^ 64
  | _ => cx.grant / 2 ^ 64 % 2 ^ 64

/-- The selector's value is 64 bits wide. -/
def specialWide (sel : Nat) : Bool := sel == 0 || decide (6 ≤ sel)

/-- The bounds of a 64-bit destination pair (R48, R59, R63). -/
def checkPair (cx : Cx) (code : Nat) : Rd Unit := do
  let w ← get
  let u : Use := ⟨code, 2, false, true⟩
  match boundsOf cx.k.regs w.th.wb [u] with
  | some t => trapRd t
  | none => if pendingUse cx.g w.th u then stallRd true else pure ()

/-- SRD (R184): ARGP comes after the lane pipeline. It has no thread-register source, so bit U has no effect (R131). -/
def execSrd (f : FI) (s : State) := coreI 0x066 f s (fun cx =>
  let sel := f.imm.toNat
  laneExec s cx.each true (fun _ => do
      let w ← get
      if specialWide sel then checkPair cx cx.f.d.toNat
      else if cx.f.d.toNat < 96 ∧ cx.k.regs ≤ w.th.wb + cx.f.d.toNat then
        trapRd { code := cREG, info := w.th.wb + cx.f.d.toNat }
      else if pendingUse cx.g w.th ⟨cx.f.d.toNat, 1, false, true⟩ then stallRd true
      pure (special cx w.th sel)) (fun _ g =>
    { (if specialWide sel then out64 g.val else out32 g.val) with long := sel == 0 }))

/-! ### Predicates (R185) -/

/-- pD := a function of predicates A and B. -/
def predBin (s : State) (cx : Cx) (op : Bool → Bool → Bool) : State :=
  laneExec s cx false (fun _ => do
      let w ← get
      pure (op (pred w.th cx.f.a.toNat) (pred w.th cx.f.b.toNat))) (fun _ g => { preds := [(cx.f.d.toNat, g.val)] })

/-- PAND (R185). -/
def execPand (f : FR) (s : State) := coreR 0x067 f s (fun cx => predBin s cx (· && ·))
/-- POR (R185). -/
def execPor (f : FR) (s : State) := coreR 0x068 f s (fun cx => predBin s cx (· || ·))
/-- PXOR (R185). -/
def execPxor (f : FR) (s : State) := coreR 0x069 f s (fun cx => predBin s cx (· != ·))
/-- PNOT (R185). -/
def execPnot (f : FR) (s : State) := coreR 0x06A f s (fun cx => predBin s cx (fun a _ => !a))
/-- PTOV (R185). -/
def execPtov (f : FR) (s : State) := coreR 0x06B f s (fun cx =>
  laneExec s cx true (fun _ => do
      let w ← get
      pure (pred w.th cx.f.a.toNat)) (fun _ g => out32 (if g.val then 1 else 0)))
/-- VTOP (R185). -/
def execVtop (f : FR) (s : State) := coreR 0x06C f s (fun cx =>
  laneExec s cx false (fun tid => readA s cx tid false) (fun _ g => { preds := [(cx.f.d.toNat, g.val != 0)] }))

end Sys2Proof.Machine
end

