-- ==== Sys2Proof/Machine/Ports.lean ====
section
/-! DEFINITION. The Ultra Ethernet ports (spec/23 R392-R395): peers' RMA accesses, links, path tables, pace. -/

namespace Sys2Proof.Machine

/-- The window that an RMA access reaches: FABRIC, holding the whole range, with the permission, its partition key the
access's own and one of the port's table (R390, R393). -/
def rmaWindow (s : State) (r : Rma) (a : Acc) : Option Window :=
  (mfind s.ctxs r.ctx).bind (fun c => c.windows.find? (fun w =>
    w.fabric && permits a w.read w.write false && decide (w.va ≤ r.va ∧ r.va + r.len ≤ w.va + w.size) && w.pkey == r.pkey
      && (getPort s r.port).pkeys.contains r.pkey))

/-- The port takes an access, in a delivery mode of its kind (R392), of a context that is not being destroyed. -/
def portTakes (s : State) (r : Rma) (modes : List Delivery) : Bool :=
  s.boot == .maluk && decide (r.port < Config.ports ∧ 0 < r.len) && (getPort s r.port).up && modes.contains r.mode
    && (mfind s.ctxs r.ctx).any (fun c => !c.dying)

/-- The flow of an access that comes in order within it (R392). -/
def rodFlow (r : Rma) : Option Nat := if r.mode = .rod then some r.flow else none

/-- An access that its window denies is dropped and counted (R393). -/
def dropRma (s : State) (r : Rma) : State :=
  let p := getPort s r.port
  setPort s r.port { p with dropped := p.dropped + 1 }

/-- Send an answer to a peer. -/
def answer (s : State) (port status : Nat) (pois : Bool) (data : List Byte) : State :=
  { s with answers := s.answers ++ [{ port := port, status := status, pois := pois, data := data }] }

/-- The bytes of an access, quarter by quarter; its pages are made present. -/
def rmaParts (a : Acc) (ctx : Nat) : Nat → Nat → List Byte → State → State × List (List (Loc × Byte))
  | 0, _, _, s => (s, [])
  | k + 1, va, bs, s =>
    if bs.isEmpty then (s, [])
    else
      let m := 32 - va % 32
      match resolvePa s homeUnit ctx va a with
      | (s, .error _) => rmaParts a ctx k (va + m) (bs.drop m) s
      | (s, .ok pa) =>
        let (s, r) := rmaParts a ctx k (va + m) (bs.drop m) s
        (s, ((rangeFrom pa m).map Loc.g).zip (bs.take m) :: r)

/-- An operation of a port. -/
def portOp (r : Rma) (deps : List Dep) (k : OpKind) : Op :=
  { id := 0, who := .port r.port, ctx := r.ctx, launch := 0, core := Config.cores, deps := deps, kind := k }

/-- RMA_PUT (R393): a CPY operation, which acquires its lines by ENGINE_LINE_ACQUIRE (R99, R101); its writes are in flight, each
quarter performed by WRITE_PERFORM; a requested increment is performed after the last of them. -/
def execRmaPut (r : Rma) (s : State) : Host.Outcome State Fault Refusal :=
  if !portTakes s r [.rod, .rud, .rudi] || r.data.length != r.len then .next s
  else if (rmaWindow s r .write).isNone then .next (dropRma s r)
  else
    let (s, parts) := rmaParts .write r.ctx (r.len / 32 + 2) r.va r.data s
    let p := getPort s r.port
    let id := s.nextId
    let msg : PortMsg := { id := id, flow := rodFlow r, path := p.paths }
    let deps := performed (flowDeps s p (rodFlow r))
    let s := setPort s r.port { p with flight := liveMsgs s p ++ [msg] }
    let s := addOp s (portOp r deps (.store parts []))
    match r.sem with
    | none => .next s
    | some (core, index, n) =>
      if core < Config.cores ∧ index < 64 then
        .next (addOp s (portOp r (performed [id]) (.semInc core r.ctx index (BitVec.ofNat 32 n) false)))
      else .next s

/-- An earlier message of the access's ROD flow is still in flight (R392). -/
def flowBusy (s : State) (r : Rma) : Bool := !(flowDeps s (getPort s r.port) (rodFlow r)).isEmpty

/-- RMA_GET (R392): the bytes of a window, with the poison of their quarters; it waits for lines that an engine owns (R100) and
for the earlier messages of its ROD flow. -/
def execRmaGet (r : Rma) (s : State) : Host.Outcome State Fault Refusal :=
  if !portTakes s r [.rod, .rud, .rudi] || flowBusy s r then .next s
  else if (rmaWindow s r .read).isNone then .next (dropRma s r)
  else
    let (s', parts) := rmaParts .read r.ctx (r.len / 32 + 2) r.va (List.replicate r.len 0) s
    let ls := partLocs parts
    if anyOwned s' ls then .next s
    else .next (answer s' r.port stOK (ls.any (locPoisoned s')) (ls.map (homeByte s')))

/-- Bytes of an atomic's location (R225); none for an opcode that is no global atomic. -/
def rmaWidth (op ty : Nat) : Option Nat :=
  if op < 0x10B ∨ 0x116 < op ∨ 4 ≤ ty then none
  else if op = 0x10C ∨ op = 0x116 then some 4
  else if op = 0x114 ∨ op = 0x115 then some (if ty = 1 then 8 else 4)
  else some (if 2 ≤ ty then 8 else 4)

/-- RMA_ATOMIC (R392): performed once at the home, as ATOM (R97), after the earlier messages of its ROD flow; the old value is
the answer. -/
def execRmaAtomic (r : Rma) (s : State) : Host.Outcome State Fault Refusal :=
  if !portTakes s r [.rod, .rud] || rmaWidth r.aop r.ty != some r.len || flowBusy s r then .next s
  else if (rmaWindow s r .read).isNone || (rmaWindow s r .write).isNone || r.va % r.len != 0 then .next (dropRma s r)
  else
    let (s', parts) := rmaParts .write r.ctx 2 r.va (List.replicate r.len 0) s
    let ls := partLocs parts
    if anyOwned s' ls then .next s
    else
      let old := leVal (ls.map (homeByte s'))
      let p := ls.any (locPoisoned s')
      let new := atomNew r.aop r.ty old (r.opnd % 2 ^ (8 * r.len)) (r.cmp % 2 ^ (8 * r.len))
      .next (answer (wakeTasks (performPart s' .home 0 (ls.zip (leBytes r.len new)) false)) r.port stOK p (leBytes r.len old))

/-- PACE_RECEIVE (R395): on an enabled port, the greatest PACE of the interval. -/
def execPaceReceive (port pace : Nat) (s : State) : Host.Outcome State Fault Refusal :=
  let p := getPort s port
  if port < Config.ports ∧ p.up ∧ p.paceEn then
    .next { s with pace := { s.pace with got := some (max (s.pace.got.getD 0) (pace % 8)) } }
  else .next s

/-- The heaviest reef level of the dies (R368). -/
def heaviestReef (s : State) : Nat := ((List.range Config.dies).map (fun k => (getDie s k).reef)).foldl max 0

/-- A collective packet leaves a port: on an enabled port it carries the sender's heaviest reef level (R369, R395). -/
def sendPacket (s : State) (port : Nat) : State :=
  let p := getPort s port
  if port < Config.ports ∧ p.up ∧ p.paceEn then { s with paceSent := s.paceSent ++ [(port, heaviestReef s)] } else s

/-- Post a link event to every subscriber (R394): one of each VI that has one, under its own number (R384). -/
def postLink (s : State) (port kind : Nat) : State :=
  (s.vis.filter (fun v => !(subscribers kind v.2.subs).isEmpty)).foldl (fun s v =>
    post s { kind := kind, vi := v.1, endpoint := 0, op := false, body := pad8 (leBytes 4 port) }) s

/-- Operations of lost messages, and the increments that wait for them. -/
def lostOp (ids : List Nat) (o : Op) : Bool :=
  ids.contains o.id || (match o.kind with
    | .semInc _ _ _ _ _ => o.deps.any (fun d => ids.contains d.op)
    | _ => false)

/-- LINK_LOSS (R394): messages in flight end with status LINK_DOWN, and what they have written stays. -/
def execLinkLoss (port : Nat) (s : State) : Host.Outcome State Fault Refusal :=
  let p := getPort s port
  if s.boot != .maluk || !p.up || decide (Config.ports ≤ port) then .next s
  else
    let ids := (liveMsgs s p).map (·.id)
    let gone := s.ops.filter (lostOp ids)
    let s := { s with ops := s.ops.filter (fun o => !lostOp ids o), owned := s.owned.filter (fun x => !ids.contains x.2) }
    let s := setPort s port { p with up := false, flight := [] }
    let s : State := ids.foldl (fun s _ => answer s port 11 false []) s
    let s := postLink s port 0x87
    .next ((gone.map (·.ctx)).foldl reap s)

/-- LINK_RESTORE (R394). -/
def execLinkRestore (port : Nat) (s : State) : Host.Outcome State Fault Refusal :=
  let p := getPort s port
  if s.boot != .maluk || p.up || decide (Config.ports ≤ port) then .next s
  else .next (postLink (setPort s port { p with up := true }) port 0x88)

/-- PACKET_RETRANSMIT (R393): a message in flight keeps the path table of its first packet; the packet that is sent again
writes nothing that the message has not written. -/
def execPacketRetransmit (port msg : Nat) (s : State) : Host.Outcome State Fault Refusal :=
  let p := getPort s port
  if p.up && (liveMsgs s p).any (fun m => m.id == msg) then .next (setPort s port { p with resent := p.resent + 1 }) else .next s

end Sys2Proof.Machine
end

