-- ==== Sys2Proof/Machine/StreamDist.lean ====
section
/-! DEFINITION. Stream registers, distribution descriptors and the random stream (spec/09 R201-R211). -/

namespace Sys2Proof.Machine

/-! ### Binding (R201, R203) -/

/-- A word of a block. -/
def blk (ws : List W32) (i : Nat) : Nat := (ws.getD i 0).toNat

/-- The stream that a 12-register block binds, or the trap its operands raise (R201, R212). -/
def bindOf (ws : List W32) : Except Trap Stream :=
  let base := blk ws 0 + 2 ^ 32 * blk ws 1
  let cfg := blk ws 2
  let esize := bitsOf cfg 1 0
  let ext := bitsOf cfg 7 6
  let ndim := bitsOf cfg 5 4
  let scratch := bitOf cfg 3
  let counts := (List.range 4).map (fun k => blk ws (4 + 2 * k))
  let strides := (List.range 4).map (fun k => sext 32 (blk ws (5 + 2 * k)))
  let used := List.range (ndim + 1)
  if bitsOf cfg 31 8 ≠ 0 ∨ (ext = 1 ∧ 2 ≤ esize) ∨ (2 ≤ ext ∧ esize ≠ 1)
      ∨ used.any (fun k => counts.getD k 1 == 0) ∨ (scratch ∧ blk ws 1 ≠ 0) ∨ blk ws 3 ≠ 0 then
    .error { code := cFIELD }
  else if base % 2 ^ esize ≠ 0 ∨ used.any (fun k => strides.getD k 0 % (2 ^ esize : Nat) != 0) then
    .error { code := cALIGN, addr := base }
  else
    .ok { base := BitVec.ofNat 64 base, esize := esize, write := bitOf cfg 2, scratch := scratch, ndim := ndim, ext := ext,
          count := counts, stride := strides, index := [0, 0, 0, 0] }

/-- WBIND (R201). -/
def wbindRun (s : State) (cx : Cx) : State :=
  laneExec s cx false (fun _ => do
      let ws ← readBlock cx.f.a.toNat 12
      liftT (bindOf ws)) (fun _ g =>
    { upd := fun t => setStream t cx.f.d.toNat { bind := some g.val } })

/-- WUNB (R203). It has no source, so U has no effect on it. -/
def wunbRun (s : State) (cx : Cx) : State :=
  laneExec s cx false (fun _ => pure ()) (fun _ _ => { upd := fun t => setStream t cx.f.d.toNat {} })

/-- The address that a stream's next access reaches, as WPOS writes it (R203). -/
def posOf (b : Stream) : Nat :=
  let sum := streamSum b.ndim b.index b.stride
  if b.scratch then
    let w := b.base.toNat % 2 ^ 32
    let off := (bitsOf w 21 0 : Int) + sum
    if off < 0 ∨ (2 ^ 22 : Int) ≤ off then 2 ^ 64 - 1 else w / 2 ^ 22 * 2 ^ 22 + off.toNat
  else wrapN 64 ((b.base.toNat : Int) + sum)

/-- WPOS (R203). -/
def wposRun (s : State) (cx : Cx) : State :=
  laneExec s cx true (fun _ => do
      let w ← get
      match (streamReg w.th cx.f.a.toNat).bind with
      | none => trapRd { code := cILLEGAL }
      | some b => pure (posOf b)) (fun _ g => out64 g.val)

/-! ### Descriptors (R207, R211) -/

/-- The descriptor of a 6-register block, or the trap its operands raise (R207, R212). -/
def distBlock (ws : List W32) : Except Trap Dist :=
  let table := blk ws 0 + 2 ^ 32 * blk ws 1
  let cfg := blk ws 2
  let kind := cfg % 16
  let n := blk ws 3
  let countOk : Bool := match kind with
    | 1 => decide (2 ≤ n ∧ n ≤ 4096)
    | 2 => decide (1 ≤ n ∧ n ≤ 4096)
    | 3 => n == 2 || n == 4 || n == 8 || n == 16 || n == 32 || n == 64 || n == 128
    | _ => true
  let align : Nat := match kind with
    | 1 => 4
    | 2 => 8
    | 3 => 4
    | _ => 1
  if cfg / 16 ≠ 0 ∨ 6 ≤ kind ∨ !countOk then .error { code := cFIELD }
  else if table % align ≠ 0 then .error { code := cALIGN, addr := table }
  else .ok { table := BitVec.ofNat 64 table, kind := kind, count := ws.getD 3 0, p1 := ws.getD 4 0, p2 := ws.getD 5 0 }

/-- DLOAD (R207): executed once, for the block of the run's lowest-numbered thread, whatever U says. A trap of that block is
taken by every thread of the run, which no rule says for U = 0 (notes/assumptions/33.md). -/
def dloadRun (s : State) (cx : Cx) : State :=
  match readOne s cx (fun _ => do
      let ws ← readBlock cx.f.a.toNat 6
      liftT (distBlock ws)) false cx.low with
  | .error (.stall b) => stallRun s cx b
  | .error (.trap t) => trapWhole s cx cx.uni t
  | .ok g => modGroup s cx.gid (fun gr => advance { gr with dists := mset {} gr.dists cx.f.d.toNat g.val } cx.slots)

/-- DINFO (R211). -/
def dinfoRun (s : State) (cx : Cx) : State :=
  laneExec s cx true (fun _ => pure (distOf cx.g cx.f.a.toNat)) (fun _ g =>
    out32 (g.val.kind % 16 + g.val.count.toNat % 2 ^ 13 * 2 ^ 16))

/-! ### The stream's state (R205, R206, R211) -/

/-- Key, counter and word index of a thread. -/
structure Rng where
  key : W64
  ctr : W128
  idx : BitVec 2
  deriving DecidableEq, Repr

def rngOf (t : Thread) : Rng := { key := t.key, ctr := t.ctr, idx := t.idx }
def setRng (r : Rng) (t : Thread) : Thread := { t with key := r.key, ctr := r.ctr, idx := r.idx }

/-- An instruction that changes the stream: under U = 1 every thread of the run then shares the lowest-numbered
thread's state (R211). -/
def rngRun (s : State) (cx : Cx) (rd : Nat → Rd Unit) : State :=
  laneExec s cx false (fun tid => do
      rd tid
      let w ← get
      pure (rngOf w.th)) (fun _ g => { upd := setRng g.val })

/-- Change the working copy's stream. -/
def modRng (f : Rng → Rng) : Rd Unit := modify (fun w => { w with th := setRng (f (rngOf w.th)) w.th })

/-- DSKIP's new position (R211). -/
def skipRng (n : Nat) (r : Rng) : Rng :=
  let p := (position r.ctr r.idx + n) % 2 ^ 130
  { r with ctr := BitVec.ofNat 128 (p / 4), idx := BitVec.ofNat 2 p }

/-- DFORK's new stream (R211). -/
def forkRng (f : Nat) (r : Rng) : Rng :=
  let x := philoxRound
    { x0 := BitVec.ofNat 32 f, x1 := BitVec.ofNat 32 (f / 2 ^ 32), x2 := 0, x3 := 0,
      k0 := r.key.extractLsb' 0 32, k1 := r.key.extractLsb' 32 32 }
  { key := x.x1 ++ x.x0, ctr := 0, idx := 0 }

/-- The stream of a DSET block, or RESERVED_FIELD (R211). -/
def rngBlock (ws : List W32) : Except Trap Rng :=
  let w (i : Nat) : W32 := ws.getD i 0
  if w 7 ≠ 0 ∨ 4 ≤ (w 6).toNat then .error { code := cFIELD }
  else .ok { key := w 1 ++ w 0, ctr := w 5 ++ w 4 ++ w 3 ++ w 2, idx := BitVec.ofNat 2 (w 6).toNat }

/-- DGET (R211). -/
def dgetRun (s : State) (cx : Cx) : State :=
  laneExec s cx true (fun _ => do
      let w ← get
      pure (rngOf w.th)) (fun _ g =>
    { words := leWords 2 g.val.key.toNat ++ leWords 4 g.val.ctr.toNat ++ [BitVec.ofNat 32 g.val.idx.toNat, 0] })

/-- A draw of words into D; under U = 1 the stream is shared as R211 says. -/
def drawRun (s : State) (cx : Cx) (long : Bool) (draw : Rd (List W32)) : State :=
  laneExec s cx true (fun _ => do
      let ws ← draw
      let w ← get
      pure (ws, rngOf w.th)) (fun _ g => { words := g.val.1, upd := setRng g.val.2, long := long })

/-- RAND's words (R211): one, or two under TYPE 1. -/
def randWords (cx : Cx) : Rd (List W32) := do
  let u ← nextWord
  if cx.ty = 1 then
    let v ← nextWord
    pure [u, v]
  else pure [u]

/-- RANDN's value (R211). -/
def randnWords : Rd (List W32) := do
  let u1 ← nextWord
  let u2 ← nextWord
  let r := fsqrtN (fmulN 0xBFB17218 (flog2 (vOf u1)))
  pure [BitVec.ofNat 32 (fmulN r (fturn true (u24 (u2.toNat / 2 ^ 8))))]

/-- DPEEK (R211): a draw that does not advance the stream. -/
def dpeekRun (s : State) (cx : Cx) : State :=
  laneExec s cx true (fun tid => do
      let w ← get
      let v ← drawFrom s cx tid cx.f.a.toNat (distOf cx.g cx.f.a.toNat)
      modify (fun x => { x with th := setRng (rngOf w.th) x.th })
      pure v) (fun _ g => out32 g.val)

/-! ### The instructions, each with its twin -/

/-- WBIND (R201). -/
def execWbind (f : FR) (s : State) := coreR 0x0E0 f s (fun cx => wbindRun s cx)
/-- The twin of the above (R134). -/
def execWbindTwin (f : FR) (m : Mod) (s : State) := coreT 0x0E0 f m s (fun cx => wbindRun s cx)

/-- WUNB (R203). -/
def execWunb (f : FR) (s : State) := coreR 0x0E1 f s (fun cx => wunbRun s cx)
/-- The twin of the above (R134). -/
def execWunbTwin (f : FR) (m : Mod) (s : State) := coreT 0x0E1 f m s (fun cx => wunbRun s cx)

/-- WPOS (R203). -/
def execWpos (f : FR) (s : State) := coreR 0x0E2 f s (fun cx => wposRun s cx)
/-- The twin of the above (R134). -/
def execWposTwin (f : FR) (m : Mod) (s : State) := coreT 0x0E2 f m s (fun cx => wposRun s cx)

/-- DLOAD (R207). -/
def execDload (f : FR) (s : State) := coreR 0x0E3 f s (fun cx => dloadRun s cx)
/-- The twin of the above (R134). -/
def execDloadTwin (f : FR) (m : Mod) (s : State) := coreT 0x0E3 f m s (fun cx => dloadRun s cx)

/-- DKEY (R211). -/
def execDkey (f : FR) (s : State) := coreR 0x0E4 f s (fun cx => rngRun s cx (fun tid => do let a ← readA s cx tid true; modRng (fun r => { r with key := BitVec.ofNat 64 a })))
/-- The twin of the above (R134). -/
def execDkeyTwin (f : FR) (m : Mod) (s : State) := coreT 0x0E4 f m s (fun cx => rngRun s cx (fun tid => do let a ← readA s cx tid true; modRng (fun r => { r with key := BitVec.ofNat 64 a })))

/-- DPOS (R211). -/
def execDpos (f : FR) (s : State) := coreR 0x0E5 f s (fun cx => 
  rngRun s cx (fun tid => do
    let a ← readA s cx tid true
    let b ← readB s cx tid true
    modRng (fun r => { r with ctr := BitVec.ofNat 128 (b * 2 ^ 64 + a), idx := 0 })))
/-- The twin of the above (R134). -/
def execDposTwin (f : FR) (m : Mod) (s : State) := coreT 0x0E5 f m s (fun cx => 
  rngRun s cx (fun tid => do
    let a ← readA s cx tid true
    let b ← readB s cx tid true
    modRng (fun r => { r with ctr := BitVec.ofNat 128 (b * 2 ^ 64 + a), idx := 0 })))

/-- DGET (R211). -/
def execDget (f : FR) (s : State) := coreR 0x0E6 f s (fun cx => dgetRun s cx)
/-- The twin of the above (R134). -/
def execDgetTwin (f : FR) (m : Mod) (s : State) := coreT 0x0E6 f m s (fun cx => dgetRun s cx)

/-- DSET (R211). -/
def execDset (f : FR) (s : State) := coreR 0x0E7 f s (fun cx => rngRun s cx (fun _ => do let ws ← readBlock cx.f.a.toNat 8; let r ← liftT (rngBlock ws); modRng (fun _ => r)))
/-- The twin of the above (R134). -/
def execDsetTwin (f : FR) (m : Mod) (s : State) := coreT 0x0E7 f m s (fun cx => rngRun s cx (fun _ => do let ws ← readBlock cx.f.a.toNat 8; let r ← liftT (rngBlock ws); modRng (fun _ => r)))

/-- DSKIP (R211). -/
def execDskip (f : FR) (s : State) := coreR 0x0E8 f s (fun cx => rngRun s cx (fun tid => do let a ← readA s cx tid true; modRng (skipRng a)))
/-- The twin of the above (R134). -/
def execDskipTwin (f : FR) (m : Mod) (s : State) := coreT 0x0E8 f m s (fun cx => rngRun s cx (fun tid => do let a ← readA s cx tid true; modRng (skipRng a)))

/-- DFORK (R211). -/
def execDfork (f : FR) (s : State) := coreR 0x0E9 f s (fun cx => rngRun s cx (fun tid => do let a ← readA s cx tid true; modRng (forkRng a)))
/-- The twin of the above (R134). -/
def execDforkTwin (f : FR) (m : Mod) (s : State) := coreT 0x0E9 f m s (fun cx => rngRun s cx (fun tid => do let a ← readA s cx tid true; modRng (forkRng a)))

/-- RAND (R211). -/
def execRand (f : FR) (s : State) := coreR 0x0EA f s (fun cx => drawRun s cx false (randWords cx))
/-- The twin of the above (R134). -/
def execRandTwin (f : FR) (m : Mod) (s : State) := coreT 0x0EA f m s (fun cx => drawRun s cx false (randWords cx))

/-- DINFO (R211). -/
def execDinfo (f : FR) (s : State) := coreR 0x0EB f s (fun cx => dinfoRun s cx)
/-- The twin of the above (R134). -/
def execDinfoTwin (f : FR) (m : Mod) (s : State) := coreT 0x0EB f m s (fun cx => dinfoRun s cx)

/-- RANDN (R211, R186). -/
def execRandn (f : FR) (s : State) := coreR 0x0EC f s (fun cx => drawRun s cx true randnWords)
/-- The twin of the above (R134). -/
def execRandnTwin (f : FR) (m : Mod) (s : State) := coreT 0x0EC f m s (fun cx => drawRun s cx true randnWords)

/-- DPEEK (R211). -/
def execDpeek (f : FR) (s : State) := coreR 0x0ED f s (fun cx => dpeekRun s cx)
/-- The twin of the above (R134). -/
def execDpeekTwin (f : FR) (m : Mod) (s : State) := coreT 0x0ED f m s (fun cx => dpeekRun s cx)

end Sys2Proof.Machine
end

