-- ==== Sys2Proof/Machine/TaskGraph.lean ====
section
/-! DEFINITION. Task-graph instructions (spec/10 R245-R250) and CPST (R243). -/

namespace Sys2Proof.Machine

/-- The 128 bytes of a record: aligned, and translated for an access (R244, R245). -/
def recordRd (s : State) (cx : Cx) (va : Nat) (a : Acc) : Rd (List Loc) := do
  let ls ← liftT (globalLocs s cx va 128 a)
  touch va
  pure ls

/-- The physical address of a record's first byte. -/
def recordPa (ls : List Loc) : Nat := match ls with
  | .g pa :: _ => pa
  | _ => 0

/-- TGPOST (R248): a release at device scope. -/
def tgpostRun (s : State) (cx : Cx) : State :=
  asyncExec s cx cx.setb 1 false (fun tid => do
    let va ← readA s cx tid true
    alignRd va va 128
    let ls ← recordRd s cx va .write
    poisonRd s cx tid va ls
    pure { kind := fun _ => .post va ls, locs := ls, stores := true, deps := relDeps s cx tid 4 })

/-- TGWAIT (R250): the thread waits until POSTED is set; an acquire at device scope. -/
def tgwaitRun (s : State) (cx : Cx) : State :=
  let r := readAll s cx (fun tid => do
    let va ← readA s cx tid true
    alignRd va va 128
    let ls ← recordRd s cx va .read
    poisonRd s cx tid va ls
    if !depsDone s (cx.fence tid) || !(runOverlap s cx tid ls true).isEmpty then stallRd false
    pure (recordPa ls)) false (if cx.uni then [cx.low] else cx.fl.run)
  match r.stall with
  | some b => stallRun s cx b
  | none =>
    match cx.uni, r.traps with
    | true, (_, t) :: _ => trapWhole s cx true t
    | _, _ =>
      let s := trapRun (touchAll s cx r.got) cx false r.traps
      let waits : List (Nat × Nat) :=
        if cx.uni then (r.got.head?.toList).flatMap (fun g => cx.fl.run.map (fun t => (t, g.val)))
        else r.got.map (fun g => (g.tid, g.val))
      let s := r.got.foldl (fun s g => modThread s cx.gid g.tid (fun _ => g.work.th)) s
      let s := waits.foldl (fun s (t, pa) => modThread s cx.gid t (fun th => { th with st := .waiting (.task pa) })) s
      let next := nextHeader cx.fl.hdr (hLen cx.fl.w0)
      wakeTasks (modGroup s cx.gid (fun g => endClause g (waits.map (fun w => (w.1, next))) false))

/-- The operand block of TGINIT (R245). -/
structure Init where
  va : Nat
  entry : Nat
  payload : Nat
  target : Nat
  compl : Nat
  preds : Nat
  tier : Nat

def initOf (ws : List W32) : Init :=
  let w (i : Nat) : Nat := (ws.getD i 0).toNat
  { va := wordsVal (ws.take 2), entry := wordsVal ((ws.drop 2).take 2), payload := wordsVal ((ws.drop 4).take 2),
    target := w 6, compl := w 7, preds := w 8, tier := w 9 }

/-- The RESERVED_FIELD cases of R246. -/
def initBad (b : Init) : Bool :=
  decide (4 ≤ b.tier) || b.tier == 3
  || (b.tier == 0 && (decide (2 ^ 9 ≤ b.target) || decide (48 ≤ bitsOf b.target 5 0)))
  || (b.tier == 1 && decide (2 ^ 7 ≤ b.target))
  || (b.tier == 2 && (b.target != 0 || b.entry != 0))
  || (complOf b.compl).isNone

/-- The record that TGINIT writes (R244, R246). -/
def initBytes (cx : Cx) (b : Init) : List Byte :=
  leBytes 4 b.preds ++ leBytes 4 (b.tier + cx.l.tag % 2 ^ 16 * 2 ^ 16) ++ leBytes 8 b.entry ++ leBytes 8 b.payload
    ++ leBytes 4 b.target ++ leBytes 4 b.compl ++ leBytes 4 0 ++ leBytes 4 cx.l.kid ++ List.replicate 88 0

/-- TGINIT (R246): the record as one store; `.go` dispatches it once the write is performed. -/
def tginitRun (s : State) (cx : Cx) : State :=
  asyncExec s cx cx.setb 1 false (fun _ => do
    let ws ← readBlock cx.f.a.toNat 10
    let b := initOf ws
    if b.tier = 1 ∧ !cx.granted 6 then trapRd { code := cILLEGAL }
    complGranted cx b.compl
    if initBad b then trapRd { code := cFIELD }
    alignRd b.va b.va 128
    let okEntry : Bool := match b.tier with
      | 0 => isHeader cx.k (BitVec.ofNat 64 b.entry)
      | 1 => decide (b.entry < cx.k.routines.length)
      | _ => true
    if !okEntry then trapRd { code := cTARGET }
    let ls ← recordRd s cx b.va .write
    let parts := pieces 32 (ls.zip (initBytes cx b))
    pure { kind := fun _ => if bitOf cx.opt 0 then .go b.va parts else .store parts (parts.map (fun _ => false))
           locs := ls, stores := true })

/-- TGLINK (R247): one indivisible step at the record's home. -/
def tglinkRun (s : State) (cx : Cx) : State :=
  asyncExec s cx cx.setb 1 true (fun tid => do
    let ws ← readBlock cx.f.a.toNat 4
    let va := wordsVal (ws.take 2)
    let succ := wordsVal (ws.drop 2)
    alignRd va va 128
    alignRd succ succ 128
    let l1 ← recordRd s cx va .write
    poisonRd s cx tid va l1
    let l2 ← recordRd s cx succ .write
    poisonRd s cx tid succ l2
    pure { kind := fun d => .link va succ (l1 ++ l2) d, locs := l1 ++ l2, stores := true })

/-- CPST (R243): copies of the group that have not completed. -/
def cpstRun (s : State) (cx : Cx) : State :=
  laneExec s cx true (fun _ => pure ()) (fun _ _ => out32 (s.ops.filter (fun o => match o.kind, o.who with
    | .copy _ _ _, .thread t => t.gid == cx.gid
    | _, _ => false)).length)

/-- TGPOST (R248). -/
def execTgpost (f : FR) (s : State) := coreR 0x128 f s (fun cx => tgpostRun s cx)
/-- The twin of the above (R134). -/
def execTgpostTwin (f : FR) (m : Mod) (s : State) := coreT 0x128 f m s (fun cx => tgpostRun s cx)
/-- TGWAIT (R250). -/
def execTgwait (f : FR) (s : State) := coreR 0x129 f s (fun cx => tgwaitRun s cx)
/-- The twin of the above (R134). -/
def execTgwaitTwin (f : FR) (m : Mod) (s : State) := coreT 0x129 f m s (fun cx => tgwaitRun s cx)
/-- TGINIT (R246). -/
def execTginit (f : FR) (s : State) := coreR 0x12A f s (fun cx => tginitRun s cx)
/-- The twin of the above (R134). -/
def execTginitTwin (f : FR) (m : Mod) (s : State) := coreT 0x12A f m s (fun cx => tginitRun s cx)
/-- TGLINK (R247). -/
def execTglink (f : FR) (s : State) := coreR 0x12B f s (fun cx => tglinkRun s cx)
/-- The twin of the above (R134). -/
def execTglinkTwin (f : FR) (m : Mod) (s : State) := coreT 0x12B f m s (fun cx => tglinkRun s cx)
/-- CPST (R243). -/
def execCpst (f : FR) (s : State) := coreR 0x12C f s (fun cx => cpstRun s cx)
/-- The twin of the above (R134). -/
def execCpstTwin (f : FR) (m : Mod) (s : State) := coreT 0x12C f m s (fun cx => cpstRun s cx)

end Sys2Proof.Machine
end

