-- ==== Sys2Proof/Machine/Dispatch.lean ====
section
/-! DEFINITION. The one match from instructions and machine events to their meanings, in the order of the
opcode table. -/

namespace Sys2Proof.Machine

def exec (i : Instr) (s : State) : Host.Outcome State Fault Refusal :=
  match i with
  | .clauseIssue core lane => Sys2Proof.Machine.execClauseIssue core lane s
  | .canvasGrant core => Sys2Proof.Machine.execCanvasGrant core s
  | .halyardCycle => Sys2Proof.Machine.execHalyardCycle s
  | .canvasClaim core => Sys2Proof.Machine.execCanvasClaim core s
  | .intervalBoundary wish => Sys2Proof.Machine.execIntervalBoundary wish s
  | .vmailWrite cluster target => Sys2Proof.Machine.execVmailWrite cluster target s
  | .voltageMoveDone cluster => Sys2Proof.Machine.execVoltageMoveDone cluster s
  | .halyardCtlWrite die value => Sys2Proof.Machine.execHalyardCtlWrite die value s
  | .binTimerExpiry core bin => Sys2Proof.Machine.execBinTimerExpiry core bin s
  | .binEntry op => Sys2Proof.Machine.execBinEntry op s
  | .launchEnd launch => Sys2Proof.Machine.execLaunchEnd launch s
  | .loadComplete op ecc => Sys2Proof.Machine.execLoadComplete op ecc s
  | .longOpResult op => Sys2Proof.Machine.execLongOpResult op s
  | .writePerform op part => Sys2Proof.Machine.execWritePerform op part s
  | .atomicPerform op => Sys2Proof.Machine.execAtomicPerform op s
  | .engineLineAcquire op => Sys2Proof.Machine.execEngineLineAcquire op s
  | .copyIssue op => Sys2Proof.Machine.execCopyIssue op s
  | .copyComplete op => Sys2Proof.Machine.execCopyComplete op s
  | .mmaComplete op => Sys2Proof.Machine.execMmaComplete op s
  | .joinComplete op => Sys2Proof.Machine.execJoinComplete op s
  | .normComplete op => Sys2Proof.Machine.execNormComplete op s
  | .pdrnComplete op => Sys2Proof.Machine.execPdrnComplete op s
  | .cmtRoundClose team cleat => Sys2Proof.Machine.execCmtRoundClose team cleat s
  | .arenaBlockNotice => Sys2Proof.Machine.execArenaBlockNotice s
  | .pageFaultResolve fault => Sys2Proof.Machine.execPageFaultResolve fault s
  | .pageWalk die => Sys2Proof.Machine.execPageWalk die s
  | .preempt core ctx => Sys2Proof.Machine.execPreempt core ctx s
  | .placementPass prefs => Sys2Proof.Machine.execPlacementPass prefs s
  | .drainStart => Sys2Proof.Machine.execDrainStart s
  | .shroudDispatchDeliver shroud => Sys2Proof.Machine.execShroudDispatchDeliver shroud s
  | .shroudRoutineStart shroud thread => Sys2Proof.Machine.execShroudRoutineStart shroud thread s
  | .svcEcho op => Sys2Proof.Machine.execSvcEcho op s
  | .svcNote op => Sys2Proof.Machine.execSvcNote op s
  | .svcAbortSelf op => Sys2Proof.Machine.execSvcAbortSelf op s
  | .openVi m => Sys2Proof.Machine.execOpenVi m s
  | .closeVi m => Sys2Proof.Machine.execCloseVi m s
  | .negotiate m => Sys2Proof.Machine.execNegotiate m s
  | .createCtx m => Sys2Proof.Machine.execCreateCtx m s
  | .destroyCtx m => Sys2Proof.Machine.execDestroyCtx m s
  | .mapWindow m => Sys2Proof.Machine.execMapWindow m s
  | .unmapWindow m => Sys2Proof.Machine.execUnmapWindow m s
  | .loadObject m => Sys2Proof.Machine.execLoadObject m s
  | .unload m => Sys2Proof.Machine.execUnload m s
  | .launch m => Sys2Proof.Machine.execLaunch m s
  | .abort m => Sys2Proof.Machine.execAbort m s
  | .unpark m => Sys2Proof.Machine.execUnpark m s
  | .postGraph m => Sys2Proof.Machine.execPostGraph m s
  | .queryContext m => Sys2Proof.Machine.execQueryContext m s
  | .queryLaunch m => Sys2Proof.Machine.execQueryLaunch m s
  | .queryGrant m => Sys2Proof.Machine.execQueryGrant m s
  | .attest m => Sys2Proof.Machine.execAttest m s
  | .subscribe m => Sys2Proof.Machine.execSubscribe m s
  | .assignHeap m => Sys2Proof.Machine.execAssignHeap m s
  | .releaseHeap m => Sys2Proof.Machine.execReleaseHeap m s
  | .addQuota m => Sys2Proof.Machine.execAddQuota m s
  | .setArenaMax m => Sys2Proof.Machine.execSetArenaMax m s
  | .writeTap m => Sys2Proof.Machine.execWriteTap m s
  | .writeSteer m => Sys2Proof.Machine.execWriteSteer m s
  | .clearTrip m => Sys2Proof.Machine.execClearTrip m s
  | .writePaths m => Sys2Proof.Machine.execWritePaths m s
  | .writePkeys m => Sys2Proof.Machine.execWritePkeys m s
  | .rmaPut r => Sys2Proof.Machine.execRmaPut r s
  | .rmaGet r => Sys2Proof.Machine.execRmaGet r s
  | .rmaAtomic r => Sys2Proof.Machine.execRmaAtomic r s
  | .paceReceive port pace => Sys2Proof.Machine.execPaceReceive port pace s
  | .linkLoss port => Sys2Proof.Machine.execLinkLoss port s
  | .linkRestore port => Sys2Proof.Machine.execLinkRestore port s
  | .powerOn image => Sys2Proof.Machine.execPowerOn image s
  | .firstStage reefMin image => Sys2Proof.Machine.execFirstStage reefMin image s
  | .malukStage => Sys2Proof.Machine.execMalukStage s
  | .fullReset => Sys2Proof.Machine.execFullReset s
  | .thermalThrottle die temp => Sys2Proof.Machine.execThermalThrottle die temp s
  | .thermalRelease die temp => Sys2Proof.Machine.execThermalRelease die temp s
  | .thermalShutdown temp => Sys2Proof.Machine.execThermalShutdown temp s
  | .patrolScrub quarter ecc => Sys2Proof.Machine.execPatrolScrub quarter ecc s
  | .errorCounterPoll => Sys2Proof.Machine.execErrorCounterPoll s
  | .nop f => Sys2Proof.Machine.execNop f s
  | .bra f => Sys2Proof.Machine.execBra f s
  | .jmpi f => Sys2Proof.Machine.execJmpi f s
  | .call f => Sys2Proof.Machine.execCall f s
  | .calli f => Sys2Proof.Machine.execCalli f s
  | .ret f => Sys2Proof.Machine.execRet f s
  | .exit f => Sys2Proof.Machine.execExit f s
  | .yield f => Sys2Proof.Machine.execYield f s
  | .spawn f => Sys2Proof.Machine.execSpawn f s
  | .bincfg f => Sys2Proof.Machine.execBincfg f s
  | .rejn f => Sys2Proof.Machine.execRejn f s
  | .rejnCmt f => Sys2Proof.Machine.execRejnCmt f s
  | .bar f => Sys2Proof.Machine.execBar f s
  | .bara f => Sys2Proof.Machine.execBara f s
  | .barw f => Sys2Proof.Machine.execBarw f s
  | .clset f => Sys2Proof.Machine.execClset f s
  | .waitf f => Sys2Proof.Machine.execWaitf f s
  | .trap f => Sys2Proof.Machine.execTrap f s
  | .svc f => Sys2Proof.Machine.execSvc f s
  | .brcT k f => Sys2Proof.Machine.execBrcT k f s
  | .brcF k f => Sys2Proof.Machine.execBrcF k f s
  | .bre n k f => Sys2Proof.Machine.execBre n k f s
  | .iadd f => Sys2Proof.Machine.execIadd f s
  | .isub f => Sys2Proof.Machine.execIsub f s
  | .imul f => Sys2Proof.Machine.execImul f s
  | .imulh f => Sys2Proof.Machine.execImulh f s
  | .imad f => Sys2Proof.Machine.execImad f s
  | .imadw f => Sys2Proof.Machine.execImadw f s
  | .imin f => Sys2Proof.Machine.execImin f s
  | .imax f => Sys2Proof.Machine.execImax f s
  | .iabs f => Sys2Proof.Machine.execIabs f s
  | .ineg f => Sys2Proof.Machine.execIneg f s
  | .idiv f => Sys2Proof.Machine.execIdiv f s
  | .irem f => Sys2Proof.Machine.execIrem f s
  | .isad f => Sys2Proof.Machine.execIsad f s
  | .isetp f => Sys2Proof.Machine.execIsetp f s
  | .isel f => Sys2Proof.Machine.execIsel f s
  | .lea f => Sys2Proof.Machine.execLea f s
  | .shl f => Sys2Proof.Machine.execShl f s
  | .shr f => Sys2Proof.Machine.execShr f s
  | .sar f => Sys2Proof.Machine.execSar f s
  | .rotl f => Sys2Proof.Machine.execRotl f s
  | .iand f => Sys2Proof.Machine.execIand f s
  | .ior f => Sys2Proof.Machine.execIor f s
  | .ixor f => Sys2Proof.Machine.execIxor f s
  | .inot f => Sys2Proof.Machine.execInot f s
  | .bfe f => Sys2Proof.Machine.execBfe f s
  | .bfi f => Sys2Proof.Machine.execBfi f s
  | .popc f => Sys2Proof.Machine.execPopc f s
  | .clz f => Sys2Proof.Machine.execClz f s
  | .brev f => Sys2Proof.Machine.execBrev f s
  | .prmt f => Sys2Proof.Machine.execPrmt f s
  | .mov f => Sys2Proof.Machine.execMov f s
  | .movi f => Sys2Proof.Machine.execMovi f s
  | .movh f => Sys2Proof.Machine.execMovh f s
  | .movrel f => Sys2Proof.Machine.execMovrel f s
  | .movrw f => Sys2Proof.Machine.execMovrw f s
  | .winb f => Sys2Proof.Machine.execWinb f s
  | .srd f => Sys2Proof.Machine.execSrd f s
  | .pand f => Sys2Proof.Machine.execPand f s
  | .por f => Sys2Proof.Machine.execPor f s
  | .pxor f => Sys2Proof.Machine.execPxor f s
  | .pnot f => Sys2Proof.Machine.execPnot f s
  | .ptov f => Sys2Proof.Machine.execPtov f s
  | .vtop f => Sys2Proof.Machine.execVtop f s
  | .fadd f => Sys2Proof.Machine.execFadd f s
  | .fsub f => Sys2Proof.Machine.execFsub f s
  | .fmul f => Sys2Proof.Machine.execFmul f s
  | .ffma f => Sys2Proof.Machine.execFfma f s
  | .fmin f => Sys2Proof.Machine.execFmin f s
  | .fmax f => Sys2Proof.Machine.execFmax f s
  | .fabs f => Sys2Proof.Machine.execFabs f s
  | .fneg f => Sys2Proof.Machine.execFneg f s
  | .fsetp f => Sys2Proof.Machine.execFsetp f s
  | .fclass f => Sys2Proof.Machine.execFclass f s
  | .frcp f => Sys2Proof.Machine.execFrcp f s
  | .frsq f => Sys2Proof.Machine.execFrsq f s
  | .fsqrt f => Sys2Proof.Machine.execFsqrt f s
  | .fdiv f => Sys2Proof.Machine.execFdiv f s
  | .fexp2 f => Sys2Proof.Machine.execFexp2 f s
  | .flog2 f => Sys2Proof.Machine.execFlog2 f s
  | .ftanh f => Sys2Proof.Machine.execFtanh f s
  | .fsin f => Sys2Proof.Machine.execFsin f s
  | .fcos f => Sys2Proof.Machine.execFcos f s
  | .fsigm f => Sys2Proof.Machine.execFsigm f s
  | .ferf f => Sys2Proof.Machine.execFerf f s
  | .frnd f => Sys2Proof.Machine.execFrnd f s
  | .fscale f => Sys2Proof.Machine.execFscale f s
  | .hadd2 f => Sys2Proof.Machine.execHadd2 f s
  | .hsub2 f => Sys2Proof.Machine.execHsub2 f s
  | .hmul2 f => Sys2Proof.Machine.execHmul2 f s
  | .hfma2 f => Sys2Proof.Machine.execHfma2 f s
  | .hmin2 f => Sys2Proof.Machine.execHmin2 f s
  | .hmax2 f => Sys2Proof.Machine.execHmax2 f s
  | .habs2 f => Sys2Proof.Machine.execHabs2 f s
  | .hsetp2 f => Sys2Proof.Machine.execHsetp2 f s
  | .hdot2 f => Sys2Proof.Machine.execHdot2 f s
  | .htanh2 f => Sys2Proof.Machine.execHtanh2 f s
  | .hrcp2 f => Sys2Proof.Machine.execHrcp2 f s
  | .cvtf f => Sys2Proof.Machine.execCvtf f s
  | .cvti f => Sys2Proof.Machine.execCvti f s
  | .cvtif f => Sys2Proof.Machine.execCvtif f s
  | .cvtii f => Sys2Proof.Machine.execCvtii f s
  | .pack8 f => Sys2Proof.Machine.execPack8 f s
  | .unpk8 f => Sys2Proof.Machine.execUnpk8 f s
  | .pack4 f => Sys2Proof.Machine.execPack4 f s
  | .unpk4 f => Sys2Proof.Machine.execUnpk4 f s
  | .packds f => Sys2Proof.Machine.execPackds f s
  | .unpkds f => Sys2Proof.Machine.execUnpkds f s
  | .bscale f => Sys2Proof.Machine.execBscale f s
  | .cvt2 f => Sys2Proof.Machine.execCvt2 f s
  | .shfl f => Sys2Proof.Machine.execShfl f s
  | .shflx f => Sys2Proof.Machine.execShflx f s
  | .vote f => Sys2Proof.Machine.execVote f s
  | .ballot f => Sys2Proof.Machine.execBallot f s
  | .ffs f => Sys2Proof.Machine.execFfs f s
  | .gred f => Sys2Proof.Machine.execGred f s
  | .gscan f => Sys2Proof.Machine.execGscan f s
  | .bcast f => Sys2Proof.Machine.execBcast f s
  | .gmatch f => Sys2Proof.Machine.execGmatch f s
  | .gcount f => Sys2Proof.Machine.execGcount f s
  | .wbind f => Sys2Proof.Machine.execWbind f s
  | .wunb f => Sys2Proof.Machine.execWunb f s
  | .wpos f => Sys2Proof.Machine.execWpos f s
  | .dload f => Sys2Proof.Machine.execDload f s
  | .dkey f => Sys2Proof.Machine.execDkey f s
  | .dpos f => Sys2Proof.Machine.execDpos f s
  | .dget f => Sys2Proof.Machine.execDget f s
  | .dset f => Sys2Proof.Machine.execDset f s
  | .dskip f => Sys2Proof.Machine.execDskip f s
  | .dfork f => Sys2Proof.Machine.execDfork f s
  | .rand f => Sys2Proof.Machine.execRand f s
  | .dinfo f => Sys2Proof.Machine.execDinfo f s
  | .randn f => Sys2Proof.Machine.execRandn f s
  | .dpeek f => Sys2Proof.Machine.execDpeek f s
  | .ld f => Sys2Proof.Machine.execLd f s
  | .st f => Sys2Proof.Machine.execSt f s
  | .lds f => Sys2Proof.Machine.execLds f s
  | .sts f => Sys2Proof.Machine.execSts f s
  | .ldo f => Sys2Proof.Machine.execLdo f s
  | .ldv f => Sys2Proof.Machine.execLdv f s
  | .stt f => Sys2Proof.Machine.execStt f s
  | .pref f => Sys2Proof.Machine.execPref f s
  | .lda f => Sys2Proof.Machine.execLda f s
  | .str f => Sys2Proof.Machine.execStr f s
  | .fence f => Sys2Proof.Machine.execFence f s
  | .atomAdd f => Sys2Proof.Machine.execAtomAdd f s
  | .atomFadd f => Sys2Proof.Machine.execAtomFadd f s
  | .atomMin f => Sys2Proof.Machine.execAtomMin f s
  | .atomMax f => Sys2Proof.Machine.execAtomMax f s
  | .atomAnd f => Sys2Proof.Machine.execAtomAnd f s
  | .atomOr f => Sys2Proof.Machine.execAtomOr f s
  | .atomXor f => Sys2Proof.Machine.execAtomXor f s
  | .atomXchg f => Sys2Proof.Machine.execAtomXchg f s
  | .atomCas f => Sys2Proof.Machine.execAtomCas f s
  | .atomInc f => Sys2Proof.Machine.execAtomInc f s
  | .atomDec f => Sys2Proof.Machine.execAtomDec f s
  | .atomHadd2 f => Sys2Proof.Machine.execAtomHadd2 f s
  | .atomsAdd f => Sys2Proof.Machine.execAtomsAdd f s
  | .atomsCas f => Sys2Proof.Machine.execAtomsCas f s
  | .atomsXchg f => Sys2Proof.Machine.execAtomsXchg f s
  | .copy f => Sys2Proof.Machine.execCopy f s
  | .copys f => Sys2Proof.Machine.execCopys f s
  | .copym f => Sys2Proof.Machine.execCopym f s
  | .copyr f => Sys2Proof.Machine.execCopyr f s
  | .seminc f => Sys2Proof.Machine.execSeminc f s
  | .semwait f => Sys2Proof.Machine.execSemwait f s
  | .semset f => Sys2Proof.Machine.execSemset f s
  | .semrd f => Sys2Proof.Machine.execSemrd f s
  | .tgpost f => Sys2Proof.Machine.execTgpost f s
  | .tgwait f => Sys2Proof.Machine.execTgwait f s
  | .tginit f => Sys2Proof.Machine.execTginit f s
  | .tglink f => Sys2Proof.Machine.execTglink f s
  | .cpst f => Sys2Proof.Machine.execCpst f s
  | .mma f => Sys2Proof.Machine.execMma f s
  | .mmaq f => Sys2Proof.Machine.execMmaq f s
  | .mmas f => Sys2Proof.Machine.execMmas f s
  | .join f => Sys2Proof.Machine.execJoin f s
  | .pcfg f => Sys2Proof.Machine.execPcfg f s
  | .pins f => Sys2Proof.Machine.execPins f s
  | .plup f => Sys2Proof.Machine.execPlup f s
  | .pcnt f => Sys2Proof.Machine.execPcnt f s
  | .prd f => Sys2Proof.Machine.execPrd f s
  | .pdrn f => Sys2Proof.Machine.execPdrn f s
  | .pclr f => Sys2Proof.Machine.execPclr f s
  | .pdel f => Sys2Proof.Machine.execPdel f s
  | .norm f => Sys2Proof.Machine.execNorm f s
  | .smrg f => Sys2Proof.Machine.execSmrg f s
  | .spick f => Sys2Proof.Machine.execSpick f s
  | .hpush f => Sys2Proof.Machine.execHpush f s
  | .htake f => Sys2Proof.Machine.execHtake f s
  | .hbud f => Sys2Proof.Machine.execHbud f s
  | .hdel f => Sys2Proof.Machine.execHdel f s
  | .hpeek f => Sys2Proof.Machine.execHpeek f s
  | .hlen f => Sys2Proof.Machine.execHlen f s
  | .rmask f => Sys2Proof.Machine.execRmask f s
  | .tret f => Sys2Proof.Machine.execTret f s
  | .trrd f => Sys2Proof.Machine.execTrrd f s
  | .cycrd f => Sys2Proof.Machine.execCycrd f s
  | .perfrd f => Sys2Proof.Machine.execPerfrd f s
  | .seqbind f => Sys2Proof.Machine.execSeqbind f s
  | .seqrd f => Sys2Proof.Machine.execSeqrd f s
  | .privrd f => Sys2Proof.Machine.execPrivrd f s
  | .privwr f => Sys2Proof.Machine.execPrivwr f s
  | .tlbinv f => Sys2Proof.Machine.execTlbinv f s
  | .ctxsw f => Sys2Proof.Machine.execCtxsw f s
  | .cachefl f => Sys2Proof.Machine.execCachefl f s
  | .poisclr f => Sys2Proof.Machine.execPoisclr f s
  | .halt f => Sys2Proof.Machine.execHalt f s
  | .evpost f => Sys2Proof.Machine.execEvpost f s
  | .iaddTwin f m => Sys2Proof.Machine.execIaddTwin f m s
  | .isubTwin f m => Sys2Proof.Machine.execIsubTwin f m s
  | .imulTwin f m => Sys2Proof.Machine.execImulTwin f m s
  | .imulhTwin f m => Sys2Proof.Machine.execImulhTwin f m s
  | .imadTwin f m => Sys2Proof.Machine.execImadTwin f m s
  | .imadwTwin f m => Sys2Proof.Machine.execImadwTwin f m s
  | .iminTwin f m => Sys2Proof.Machine.execIminTwin f m s
  | .imaxTwin f m => Sys2Proof.Machine.execImaxTwin f m s
  | .iabsTwin f m => Sys2Proof.Machine.execIabsTwin f m s
  | .inegTwin f m => Sys2Proof.Machine.execInegTwin f m s
  | .idivTwin f m => Sys2Proof.Machine.execIdivTwin f m s
  | .iremTwin f m => Sys2Proof.Machine.execIremTwin f m s
  | .isadTwin f m => Sys2Proof.Machine.execIsadTwin f m s
  | .isetpTwin f m => Sys2Proof.Machine.execIsetpTwin f m s
  | .iselTwin f m => Sys2Proof.Machine.execIselTwin f m s
  | .leaTwin f m => Sys2Proof.Machine.execLeaTwin f m s
  | .shlTwin f m => Sys2Proof.Machine.execShlTwin f m s
  | .shrTwin f m => Sys2Proof.Machine.execShrTwin f m s
  | .sarTwin f m => Sys2Proof.Machine.execSarTwin f m s
  | .rotlTwin f m => Sys2Proof.Machine.execRotlTwin f m s
  | .iandTwin f m => Sys2Proof.Machine.execIandTwin f m s
  | .iorTwin f m => Sys2Proof.Machine.execIorTwin f m s
  | .ixorTwin f m => Sys2Proof.Machine.execIxorTwin f m s
  | .inotTwin f m => Sys2Proof.Machine.execInotTwin f m s
  | .bfeTwin f m => Sys2Proof.Machine.execBfeTwin f m s
  | .bfiTwin f m => Sys2Proof.Machine.execBfiTwin f m s
  | .popcTwin f m => Sys2Proof.Machine.execPopcTwin f m s
  | .clzTwin f m => Sys2Proof.Machine.execClzTwin f m s
  | .brevTwin f m => Sys2Proof.Machine.execBrevTwin f m s
  | .prmtTwin f m => Sys2Proof.Machine.execPrmtTwin f m s
  | .movTwin f m => Sys2Proof.Machine.execMovTwin f m s
  | .moviLiteral f w => Sys2Proof.Machine.execMoviLiteral f w s
  | .faddTwin f m => Sys2Proof.Machine.execFaddTwin f m s
  | .fsubTwin f m => Sys2Proof.Machine.execFsubTwin f m s
  | .fmulTwin f m => Sys2Proof.Machine.execFmulTwin f m s
  | .ffmaTwin f m => Sys2Proof.Machine.execFfmaTwin f m s
  | .fminTwin f m => Sys2Proof.Machine.execFminTwin f m s
  | .fmaxTwin f m => Sys2Proof.Machine.execFmaxTwin f m s
  | .fabsTwin f m => Sys2Proof.Machine.execFabsTwin f m s
  | .fnegTwin f m => Sys2Proof.Machine.execFnegTwin f m s
  | .fsetpTwin f m => Sys2Proof.Machine.execFsetpTwin f m s
  | .fclassTwin f m => Sys2Proof.Machine.execFclassTwin f m s
  | .frcpTwin f m => Sys2Proof.Machine.execFrcpTwin f m s
  | .frsqTwin f m => Sys2Proof.Machine.execFrsqTwin f m s
  | .fsqrtTwin f m => Sys2Proof.Machine.execFsqrtTwin f m s
  | .fdivTwin f m => Sys2Proof.Machine.execFdivTwin f m s
  | .fexp2Twin f m => Sys2Proof.Machine.execFexp2Twin f m s
  | .flog2Twin f m => Sys2Proof.Machine.execFlog2Twin f m s
  | .ftanhTwin f m => Sys2Proof.Machine.execFtanhTwin f m s
  | .fsinTwin f m => Sys2Proof.Machine.execFsinTwin f m s
  | .fcosTwin f m => Sys2Proof.Machine.execFcosTwin f m s
  | .fsigmTwin f m => Sys2Proof.Machine.execFsigmTwin f m s
  | .ferfTwin f m => Sys2Proof.Machine.execFerfTwin f m s
  | .frndTwin f m => Sys2Proof.Machine.execFrndTwin f m s
  | .fscaleTwin f m => Sys2Proof.Machine.execFscaleTwin f m s
  | .hadd2Twin f m => Sys2Proof.Machine.execHadd2Twin f m s
  | .hsub2Twin f m => Sys2Proof.Machine.execHsub2Twin f m s
  | .hmul2Twin f m => Sys2Proof.Machine.execHmul2Twin f m s
  | .hfma2Twin f m => Sys2Proof.Machine.execHfma2Twin f m s
  | .hmin2Twin f m => Sys2Proof.Machine.execHmin2Twin f m s
  | .hmax2Twin f m => Sys2Proof.Machine.execHmax2Twin f m s
  | .habs2Twin f m => Sys2Proof.Machine.execHabs2Twin f m s
  | .hsetp2Twin f m => Sys2Proof.Machine.execHsetp2Twin f m s
  | .hdot2Twin f m => Sys2Proof.Machine.execHdot2Twin f m s
  | .htanh2Twin f m => Sys2Proof.Machine.execHtanh2Twin f m s
  | .hrcp2Twin f m => Sys2Proof.Machine.execHrcp2Twin f m s
  | .cvtfTwin f m => Sys2Proof.Machine.execCvtfTwin f m s
  | .cvtiTwin f m => Sys2Proof.Machine.execCvtiTwin f m s
  | .cvtifTwin f m => Sys2Proof.Machine.execCvtifTwin f m s
  | .cvtiiTwin f m => Sys2Proof.Machine.execCvtiiTwin f m s
  | .pack8Twin f m => Sys2Proof.Machine.execPack8Twin f m s
  | .unpk8Twin f m => Sys2Proof.Machine.execUnpk8Twin f m s
  | .pack4Twin f m => Sys2Proof.Machine.execPack4Twin f m s
  | .unpk4Twin f m => Sys2Proof.Machine.execUnpk4Twin f m s
  | .packdsTwin f m => Sys2Proof.Machine.execPackdsTwin f m s
  | .unpkdsTwin f m => Sys2Proof.Machine.execUnpkdsTwin f m s
  | .bscaleTwin f m => Sys2Proof.Machine.execBscaleTwin f m s
  | .cvt2Twin f m => Sys2Proof.Machine.execCvt2Twin f m s
  | .shflTwin f m => Sys2Proof.Machine.execShflTwin f m s
  | .shflxTwin f m => Sys2Proof.Machine.execShflxTwin f m s
  | .voteTwin f m => Sys2Proof.Machine.execVoteTwin f m s
  | .ballotTwin f m => Sys2Proof.Machine.execBallotTwin f m s
  | .ffsTwin f m => Sys2Proof.Machine.execFfsTwin f m s
  | .gredTwin f m => Sys2Proof.Machine.execGredTwin f m s
  | .gscanTwin f m => Sys2Proof.Machine.execGscanTwin f m s
  | .bcastTwin f m => Sys2Proof.Machine.execBcastTwin f m s
  | .gmatchTwin f m => Sys2Proof.Machine.execGmatchTwin f m s
  | .gcountTwin f m => Sys2Proof.Machine.execGcountTwin f m s
  | .wbindTwin f m => Sys2Proof.Machine.execWbindTwin f m s
  | .wunbTwin f m => Sys2Proof.Machine.execWunbTwin f m s
  | .wposTwin f m => Sys2Proof.Machine.execWposTwin f m s
  | .dloadTwin f m => Sys2Proof.Machine.execDloadTwin f m s
  | .dkeyTwin f m => Sys2Proof.Machine.execDkeyTwin f m s
  | .dposTwin f m => Sys2Proof.Machine.execDposTwin f m s
  | .dgetTwin f m => Sys2Proof.Machine.execDgetTwin f m s
  | .dsetTwin f m => Sys2Proof.Machine.execDsetTwin f m s
  | .dskipTwin f m => Sys2Proof.Machine.execDskipTwin f m s
  | .dforkTwin f m => Sys2Proof.Machine.execDforkTwin f m s
  | .randTwin f m => Sys2Proof.Machine.execRandTwin f m s
  | .dinfoTwin f m => Sys2Proof.Machine.execDinfoTwin f m s
  | .randnTwin f m => Sys2Proof.Machine.execRandnTwin f m s
  | .dpeekTwin f m => Sys2Proof.Machine.execDpeekTwin f m s
  | .ldTwin f m => Sys2Proof.Machine.execLdTwin f m s
  | .stTwin f m => Sys2Proof.Machine.execStTwin f m s
  | .ldsTwin f m => Sys2Proof.Machine.execLdsTwin f m s
  | .stsTwin f m => Sys2Proof.Machine.execStsTwin f m s
  | .ldoTwin f m => Sys2Proof.Machine.execLdoTwin f m s
  | .ldvTwin f m => Sys2Proof.Machine.execLdvTwin f m s
  | .sttTwin f m => Sys2Proof.Machine.execSttTwin f m s
  | .prefTwin f m => Sys2Proof.Machine.execPrefTwin f m s
  | .ldaTwin f m => Sys2Proof.Machine.execLdaTwin f m s
  | .strTwin f m => Sys2Proof.Machine.execStrTwin f m s
  | .fenceTwin f m => Sys2Proof.Machine.execFenceTwin f m s
  | .atomAddTwin f m => Sys2Proof.Machine.execAtomAddTwin f m s
  | .atomFaddTwin f m => Sys2Proof.Machine.execAtomFaddTwin f m s
  | .atomMinTwin f m => Sys2Proof.Machine.execAtomMinTwin f m s
  | .atomMaxTwin f m => Sys2Proof.Machine.execAtomMaxTwin f m s
  | .atomAndTwin f m => Sys2Proof.Machine.execAtomAndTwin f m s
  | .atomOrTwin f m => Sys2Proof.Machine.execAtomOrTwin f m s
  | .atomXorTwin f m => Sys2Proof.Machine.execAtomXorTwin f m s
  | .atomXchgTwin f m => Sys2Proof.Machine.execAtomXchgTwin f m s
  | .atomCasTwin f m => Sys2Proof.Machine.execAtomCasTwin f m s
  | .atomIncTwin f m => Sys2Proof.Machine.execAtomIncTwin f m s
  | .atomDecTwin f m => Sys2Proof.Machine.execAtomDecTwin f m s
  | .atomHadd2Twin f m => Sys2Proof.Machine.execAtomHadd2Twin f m s
  | .atomsAddTwin f m => Sys2Proof.Machine.execAtomsAddTwin f m s
  | .atomsCasTwin f m => Sys2Proof.Machine.execAtomsCasTwin f m s
  | .atomsXchgTwin f m => Sys2Proof.Machine.execAtomsXchgTwin f m s
  | .copyTwin f m => Sys2Proof.Machine.execCopyTwin f m s
  | .copysTwin f m => Sys2Proof.Machine.execCopysTwin f m s
  | .copymTwin f m => Sys2Proof.Machine.execCopymTwin f m s
  | .copyrTwin f m => Sys2Proof.Machine.execCopyrTwin f m s
  | .semincTwin f m => Sys2Proof.Machine.execSemincTwin f m s
  | .semwaitTwin f m => Sys2Proof.Machine.execSemwaitTwin f m s
  | .semsetTwin f m => Sys2Proof.Machine.execSemsetTwin f m s
  | .semrdTwin f m => Sys2Proof.Machine.execSemrdTwin f m s
  | .tgpostTwin f m => Sys2Proof.Machine.execTgpostTwin f m s
  | .tgwaitTwin f m => Sys2Proof.Machine.execTgwaitTwin f m s
  | .tginitTwin f m => Sys2Proof.Machine.execTginitTwin f m s
  | .tglinkTwin f m => Sys2Proof.Machine.execTglinkTwin f m s
  | .cpstTwin f m => Sys2Proof.Machine.execCpstTwin f m s
  | .mmaTwin f m => Sys2Proof.Machine.execMmaTwin f m s
  | .mmaqTwin f m => Sys2Proof.Machine.execMmaqTwin f m s
  | .mmasTwin f m => Sys2Proof.Machine.execMmasTwin f m s
  | .joinTwin f m => Sys2Proof.Machine.execJoinTwin f m s
  | .pcfgTwin f m => Sys2Proof.Machine.execPcfgTwin f m s
  | .pinsTwin f m => Sys2Proof.Machine.execPinsTwin f m s
  | .plupTwin f m => Sys2Proof.Machine.execPlupTwin f m s
  | .pcntTwin f m => Sys2Proof.Machine.execPcntTwin f m s
  | .prdTwin f m => Sys2Proof.Machine.execPrdTwin f m s
  | .pdrnTwin f m => Sys2Proof.Machine.execPdrnTwin f m s
  | .pclrTwin f m => Sys2Proof.Machine.execPclrTwin f m s
  | .pdelTwin f m => Sys2Proof.Machine.execPdelTwin f m s
  | .normTwin f m => Sys2Proof.Machine.execNormTwin f m s
  | .smrgTwin f m => Sys2Proof.Machine.execSmrgTwin f m s
  | .spickTwin f m => Sys2Proof.Machine.execSpickTwin f m s
  | .hpushTwin f m => Sys2Proof.Machine.execHpushTwin f m s
  | .htakeTwin f m => Sys2Proof.Machine.execHtakeTwin f m s
  | .hbudTwin f m => Sys2Proof.Machine.execHbudTwin f m s
  | .hdelTwin f m => Sys2Proof.Machine.execHdelTwin f m s
  | .hpeekTwin f m => Sys2Proof.Machine.execHpeekTwin f m s
  | .hlenTwin f m => Sys2Proof.Machine.execHlenTwin f m s
  | .rmaskTwin f m => Sys2Proof.Machine.execRmaskTwin f m s
  | .send f => Sys2Proof.Machine.execSend f s
  | .sjmp f => Sys2Proof.Machine.execSjmp f s
  | .sbrz f => Sys2Proof.Machine.execSbrz f s
  | .sbrnz f => Sys2Proof.Machine.execSbrnz f s
  | .sloop f => Sys2Proof.Machine.execSloop f s
  | .salu f => Sys2Proof.Machine.execSalu f s
  | .salui f => Sys2Proof.Machine.execSalui f s
  | .smovi f => Sys2Proof.Machine.execSmovi f s
  | .sld f => Sys2Proof.Machine.execSld f s
  | .sst f => Sys2Proof.Machine.execSst f s
  | .sfence f => Sys2Proof.Machine.execSfence f s
  | .ssem f => Sys2Proof.Machine.execSsem f s
  | .skey f => Sys2Proof.Machine.execSkey f s
  | .vld f => Sys2Proof.Machine.execVld f s
  | .vst f => Sys2Proof.Machine.execVst f s
  | .valu f => Sys2Proof.Machine.execValu f s
  | .vfma f => Sys2Proof.Machine.execVfma f s
  | .vsqrt f => Sys2Proof.Machine.execVsqrt f s
  | .vdiv f => Sys2Proof.Machine.execVdiv f s
  | .vbcast f => Sys2Proof.Machine.execVbcast f s
  | .vred f => Sys2Proof.Machine.execVred f s
  | .vcmp f => Sys2Proof.Machine.execVcmp f s
  | .vsel f => Sys2Proof.Machine.execVsel f s
  | .vspk f => Sys2Proof.Machine.execVspk f s
  | .sessionEndpointFails vi => Sys2Proof.Machine.execSessionEndpointFails vi s
  | .walkEnd walk => Sys2Proof.Machine.execWalkEnd walk s
  | .svcOtherService op => Sys2Proof.Machine.execSvcOtherService op s
  | .queryOtherSubject m => Sys2Proof.Machine.execQueryOtherSubject m s
  | .malformedRequest m => Sys2Proof.Machine.execMalformedRequest m s
  | .coreRestart core => Sys2Proof.Machine.execCoreRestart core s
  | .malukHeapPush heap act => Sys2Proof.Machine.execMalukHeapPush heap act s
  | .packetRetransmit port msg => Sys2Proof.Machine.execPacketRetransmit port msg s

end Sys2Proof.Machine
end

