-- ==== Sys2Proof/Machine/Step.lean ====
section
/-! DEFINITION. One step of the package: the turn that is listed first, or the agent that goes on; and placing an
instruction where the next step fetches it. -/

namespace Sys2Proof.Machine

/-- The next step of an agent: fetch, decode, execute. A word that is not an instruction raises ILLEGAL for its run
(R139), or ends its routine (R296). An agent with nothing in flight leaves the state as it is. -/
noncomputable def stepAgent (a : Agent) (s : State) : Host.Outcome State Fault Refusal :=
  match a with
  | .none => .next s
  | .group gid =>
    match fetchLane s gid with
    | .idle => .next s
    | .trap w t => .next (trapFetch s gid w t)
    | .word w x =>
      match decodeWord w x with
      | .ok i => exec i (touchFetch s gid x)
      | .error _ => .next (trapSlot (touchFetch s gid x) gid w { code := cILLEGAL })
  | .shroud k t =>
    match fetchRoutine s k t with
    | .idle => .next s
    | .past => .next (shroudPast s k t)
    | .word w =>
      match decodeShroud w with
      | .ok i => exec i s
      | .error _ => .next (shroudIllegal s k t)

/-- The first listed turn, or the current agent's next instruction. A listed turn that is no machine event has no effect. -/
noncomputable def stepTurn (s : State) : Host.Outcome State Fault Refusal :=
  match s.turns with
  | [] => stepAgent s.cur s
  | .event i :: r => if isEvent i then exec i { s with turns := r } else .next { s with turns := r }
  | .agent a :: r => stepAgent a { s with turns := r, cur := a }
  | .l1 id :: r => .next (writeL1 { s with turns := r } id)
  | .inval u q :: r => .next (invalCopy { s with turns := r } u q)
  | .deliver :: r => .next (deliverEvent { s with turns := r })
  | .dropTlb k :: r => .next { s with turns := r, tlb := s.tlb.eraseIdx k }
  | .ecc p e :: r => .next (strike { s with turns := r } p e)
  | .packet port :: r => .next (sendPacket { s with turns := r } port)
  | .temp die t :: r => .next (senseTemp { s with turns := r } die t)
  | .status :: r => .next (readStatus { s with turns := r })

/-- One step: core rails that have lost power are dark (R405), the canvas queues take what the last step has made eligible
(R28), and then the turn is taken. -/
noncomputable def step (s : State) : Host.Outcome State Fault Refusal := stepTurn (settle (rails s))

/-- The state with an instruction stored where `step` fetches its next one: a clause of a lane when the core decoder
reads it, else a shroud routine when the shroud decoder does (notes/assumptions/3.md). -/
noncomputable def State.withFetchWord (s : State) (nbits w : Nat) : State :=
  let bs := tableBytes nbits w
  let slots := match wordAt bs with
    | some x => slotsOf x
    | none => 1
  match decodeBytes bs, decodeShroudBytes bs with
  | .error _, .ok _ => placeShroud s bs
  | _, _ => placeLane s slots bs

end Sys2Proof.Machine
end

