-- ==== Sys2Proof/Safety.lean ====
section
/-! DEFINITION. The terms in which claims are stated: the canonical form of memory, when a core instruction runs (its
checks pass, its operands are read, nothing stalls), and the state it leaves then. -/

namespace Sys2Proof.Machine

/-! ### The canonical form of memory -/

/-- Memory lists its bytes by strictly rising address, and lists no byte that holds what an unlisted address reads as
(0). -/
def Memory.wf (m : List Host.Cell) : Bool := canonical 0 m

/-- The invariant of the machine: memory is in its canonical form; every version word is even, since no write is half
done between two steps (R95); and every die's reef level and REEF_MIN are levels, 0 to 7 (R368, R374). -/
def Sound (s : State) : Prop :=
  Memory.wf s.mem = true ∧ (∀ x ∈ s.vers, x.2 % 2 = 0) ∧ ∀ x ∈ s.dies, x.2.reef ≤ 7 ∧ x.2.reefMin ≤ 7

/-! ### When a core instruction runs -/

/-- How a core instruction stands in its clause: opcode with X, twin or not, entry, modifier word and fields. -/
structure CoreForm where
  op : Nat
  ext : Bool
  e : Entry
  m : Mod
  f : FR

/-- The form of a core instruction (R131, R134-R136); none for the others. -/
def coreForm (i : Instr) : Option CoreForm :=
  match view i with
  | .r op f => (entryOf op).map (fun e => ⟨op, false, e, baseMod e, f⟩)
  | .i op f => (entryOf op).map (fun e => ⟨op, false, e, baseMod e, { u := f.u, d := f.d, a := 0, b := 0 }⟩)
  | .b op f => (entryOf op).map (fun e => ⟨op, false, e, baseMod e, { u := f.u, d := 0, a := 0, b := 0 }⟩)
  | .twin op f m => (entryOf op).map (fun e => ⟨op + 512, true, e, m, f⟩)
  | .literal f _ => (entryOf 0x061).map (fun e => ⟨0x261, true, e, baseMod e, { u := f.u, d := f.d, a := 0, b := 0 }⟩)
  | _ => none

/-- The run of the current group that executes a core instruction now: the group has a clause in flight, the
instruction is well formed, its decode checks pass (R139, R140) and its canvas price fits (R130). -/
def runOf (i : Instr) (s : State) : Option Cx :=
  match coreForm i with
  | none => none
  | some c =>
    match runCx s c.op c.ext c.e c.m c.f with
    | none => none
    | some cx =>
      if wellFormed i && (decodeTrap cx true (featsOf (c.op % 512) c.f.b c.m)).isNone
          && (canvasTrap cx (price (c.op % 512) (c.f.b.toNat / 8 % 4 + 1))).isNone then some cx
      else none

/-- The threads that execute an instruction: those of its run that have not passed it (R26), or the lowest-numbered one under
U = 1 (R57). -/
def doers (cx : Cx) : List Nat := if cx.uni then [cx.low] else cx.todo
/-- The threads that execute an instruction which its whole run passes together. -/
def runners (cx : Cx) : List Nat := if cx.uni then [cx.low] else cx.fl.run
/-- The other threads of a run under U = 1, which only receive the result (R57). -/
def restOfRun (cx : Cx) : List Nat := if cx.uni then cx.fl.run.filter (· ≠ cx.low) else []

/-- What the threads that execute have read. -/
def gotOf {α : Type} (s : State) (cx : Cx) (hasD : Bool) (rd : Nat → Rd α) : List (Got α) := (readAll s cx rd hasD (doers cx)).got
/-- The same of a whole run. -/
def gotRun {α : Type} (s : State) (cx : Cx) (rd : Nat → Rd α) : List (Got α) := (readAll s cx rd false (runners cx)).got

/-- Threads read their operands: none is out of bounds, pending, poisoned or faulting, and none stalls (R26, R59, R63). -/
def ReadsBy {α : Type} (s : State) (cx : Cx) (hasD : Bool) (rd : Nat → Rd α) (tids : List Nat) : Prop :=
  (readAll s cx rd hasD tids).stall = none ∧ (readAll s cx rd hasD tids).traps = []
/-- Every thread that executes reads its operands. -/
def Reads {α : Type} (s : State) (cx : Cx) (hasD : Bool) (rd : Nat → Rd α) : Prop := ReadsBy s cx hasD rd (doers cx)
/-- The same of a whole run. -/
def RunReads {α : Type} (s : State) (cx : Cx) (rd : Nat → Rd α) : Prop := ReadsBy s cx false rd (runners cx)

/-- The destinations of the other threads of a uniform run are in bounds and not pending (R57). -/
def RestOk (s : State) (cx : Cx) (hasD : Bool) (words : Nat) : Prop :=
  cx.uni = true → hasD = true → othersD s cx words (restOfRun cx) = (false, [])

/-! ### Instructions of the lane pipeline -/

/-- A lane instruction retires for its whole run. -/
def LaneOk {α : Type} (s : State) (cx : Cx) (hasD : Bool) (rd : Nat → Rd α) (fin : List (Got α) → Got α → Out) : Prop :=
  Reads s cx hasD rd ∧ ∀ g ∈ gotOf s cx hasD rd, RestOk s cx hasD (fin [g] g).words.length

/-- The results that a retiring lane instruction commits, thread by thread. -/
def laneOuts {α : Type} (s : State) (cx : Cx) (hasD : Bool) (rd : Nat → Rd α) (fin : List (Got α) → Got α → Out) :
    List (Got Out) :=
  let gs := gotOf s cx hasD rd
  if cx.uni then
    match gs with
    | [] => []
    | g :: _ => { g with val := fin [g] g } :: uniformOuts (touchAll s cx gs) cx hasD (fin [g] g) (restOfRun cx)
  else gs.map (fun g => { g with val := fin gs g })

/-- The state after a lane instruction has retired: results committed, and the run past its slots. -/
def laneDone {α : Type} (s : State) (cx : Cx) (hasD : Bool) (rd : Nat → Rd α) (fin : List (Got α) → Got α → Out) : State :=
  modGroup (commitAll (touchAll s cx (gotOf s cx hasD rd)) cx (laneOuts s cx hasD rd fin)) cx.gid (fun g => advance g cx.slots)

/-- A lane instruction completes: `rd` reads a thread's operands and `fin` gives its result. -/
def LaneCompletes {α : Type} (i : Instr) (hasD : Bool) (rd : State → Cx → Nat → Rd α)
    (fin : Cx → List (Got α) → Got α → Out) : Prop :=
  ∀ s cx, runOf i s = some cx → LaneOk s cx hasD (rd s cx) (fin cx) →
    exec i s = .next (laneDone s cx hasD (rd s cx) (fin cx))

/-- Nothing read. -/
def readNone (_ : State) (_ : Cx) (_ : Nat) : Rd Unit := pure ()

/-- A move of a literal to each thread of the run completes, with U = 1 as without (R131, R182). -/
def LiteralCompletes (i : Instr) (v : Nat) : Prop :=
  ∀ s cx, runOf i s = some cx → LaneOk s cx.each true (readNone s cx) (fun _ _ => out32 v) →
    exec i s = .next (laneDone s cx.each true (readNone s cx) (fun _ _ => out32 v))

/-- A property of an instruction and of its twin (R134). -/
def WithTwin (P : Instr → Prop) (base twin : Instr) : Prop := P base ∧ P twin

/-- The result of an exact function of a, of a and b, or of a, b and d, narrowed to the type: `Sat` under `.SAT`, else
`Wrap` (R157, R174). -/
def exact1 (op : Int → Int) (cx : Cx) (_ : List (Got Nat)) (g : Got Nat) : Out :=
  outN cx (narrow cx.m.sat cx.sgn cx.bits (op (cx.val g.val)))
def exact2 (op : Int → Int → Int) (cx : Cx) (_ : List (Got (Nat × Nat))) (g : Got (Nat × Nat)) : Out :=
  outN cx (narrow cx.m.sat cx.sgn cx.bits (op (cx.val g.val.1) (cx.val g.val.2)))
def exact3 (op : Int → Int → Int → Int) (cx : Cx) (_ : List (Got (Nat × Nat × Nat))) (g : Got (Nat × Nat × Nat)) : Out :=
  outN cx (narrow cx.m.sat cx.sgn cx.bits (op (cx.val g.val.1) (cx.val g.val.2.1) (cx.val g.val.2.2)))
/-- The result of a function of bit patterns of N bits, modulo 2^N (R179, R180). -/
def pattern2 (op : Cx → Nat → Nat → Nat) (cx : Cx) (_ : List (Got (Nat × Nat))) (g : Got (Nat × Nat)) : Out :=
  outN cx (op cx g.val.1 g.val.2 % 2 ^ cx.bits)
/-- A quotient or remainder, which comes after the lane pipeline (R175, R186). -/
def quotient2 (op : Int → Int → Int) (cx : Cx) (_ : List (Got (Nat × Nat))) (g : Got (Nat × Nat)) : Out :=
  { outN cx (wrapN cx.bits (op (cx.val g.val.1) (cx.val g.val.2))) with long := true }

/-- Operand A, or A and B, of 32 bits. -/
def readA32 (s : State) (cx : Cx) (tid : Nat) : Rd Nat := readA s cx tid false
def readAB32 (s : State) (cx : Cx) (tid : Nat) : Rd (Nat × Nat) := do
  let a ← readA s cx tid false
  let b ← readB s cx tid false
  pure (a, b)
/-- The operands of a rounded FP32 operation, with the word that `.SR` draws (R72). -/
def readFp (useB useD : Bool) (s : State) (cx : Cx) (tid : Nat) : Rd (Nat × Nat × Nat × Nat) := do
  let a ← readA s cx tid false
  let b ← if useB then readB s cx tid false else pure 0
  let d ← if useD then readD s cx tid false else pure 0
  let u ← srWord cx
  pure (a, b, d, u)
/-- The operands of a rounded packed operation, with the words that `.SR` draws, the low element's first (R77). -/
def readPack (useD : Bool) (s : State) (cx : Cx) (tid : Nat) : Rd (Nat × Nat × Nat × Nat × Nat) := do
  let a ← readA s cx tid false
  let b ← readB s cx tid false
  let d ← if useD then readD s cx tid false else pure 0
  let u0 ← srWord cx
  let u1 ← srWord cx
  pure (a, b, d, u0, u1)

/-- An exact value of a, b and d, rounded once to FP32 under the instruction's mode (R71-R73). -/
def rounded32 (long : Bool) (op : Cx → Nat → Nat → Nat → FV × Bool) (cx : Cx) (_ : List (Got (Nat × Nat × Nat × Nat)))
    (g : Got (Nat × Nat × Nat × Nat)) : Out :=
  let v := op cx g.val.1 g.val.2.1 g.val.2.2.1
  { out32 (roundF .f32 cx.rnd cx.m.sat g.val.2.2.2 v.1 v.2) with long := long }
/-- A function of the word a, or of the words a and b. -/
def word1 (long : Bool) (op : Cx → Nat → Nat) (cx : Cx) (_ : List (Got Nat)) (g : Got Nat) : Out :=
  { out32 (op cx g.val) with long := long }
def word2 (op : Cx → Nat → Nat → Nat) (cx : Cx) (_ : List (Got (Nat × Nat))) (g : Got (Nat × Nat)) : Out :=
  out32 (op cx g.val.1 g.val.2)
/-- Each element an exact value of the operands' elements, rounded once to the pair's format. -/
def roundedPair (op : Cx → FV → FV → FV → FV) (cx : Cx) (_ : List (Got (Nat × Nat × Nat × Nat × Nat)))
    (g : Got (Nat × Nat × Nat × Nat × Nat)) : Out :=
  let el (e : Nat → Nat) (u : Nat) : Nat :=
    roundF cx.half cx.rnd cx.m.sat u
      (op cx (fval cx.half (e g.val.1)) (fval cx.half (e g.val.2.1)) (fval cx.half (e g.val.2.2.1)))
  out32 (pair16 (el lo16 g.val.2.2.2.1) (el hi16 g.val.2.2.2.2))
/-- A function applied to each element of a pair. -/
def each1 (op : Cx → Nat → Nat) (cx : Cx) (a : Nat) : Nat := pair16 (op cx (lo16 a)) (op cx (hi16 a))
def each2 (op : Cx → Nat → Nat → Nat) (cx : Cx) (a b : Nat) : Nat := pair16 (op cx (lo16 a) (lo16 b)) (op cx (hi16 a) (hi16 b))

/-- The participants of a group-data instruction with their values: under U = 1 every thread of the run has the
lowest-numbered one's (R57, R197). -/
def participants {α : Type} (cx : Cx) (gs : List (Got α)) (g : Got α) : List (Nat × α) :=
  if cx.uni then cx.fl.run.map (fun t => (t, g.val)) else gs.map (fun x => (x.tid, x.val))
/-- A result from all participants' values; a destination's comes after the lane pipeline (R186). -/
def grouped {α : Type} (hasD : Bool) (fin : Cx → List (Nat × α) → Nat → α → Out) (cx : Cx) (gs : List (Got α)) (g : Got α) : Out :=
  { fin cx (participants cx gs g) g.tid g.val with long := hasD }

/-- The result of SHFL, SHFLX and BCAST (R198): a of the source thread, or the fallback d. -/
def shuffled (src : Nat → Nat → Nat → Nat) (cx : Cx) (ps : List (Nat × Nat × Nat × Nat)) (t : Nat) (v : Nat × Nat × Nat) : Out :=
  let lowB := match ps with
    | p :: _ => p.2.2.1
    | [] => 0
  let got := partVal ps (src t v.2.1 lowB)
  let o := if cx.m.lit then 0 else cx.opt
  { outN cx (match got with
      | some x => x.1
      | none => v.2.2) with
    preds := if bitOf o 3 then [(o % 8, got.isSome)] else [] }

/-- What MOVRW writes, and what WINB reads and does, each thread with its own window (R182, R183). -/
def movrwOut (_ : List (Got (Nat × Nat))) (g : Got (Nat × Nat)) : Out :=
  { upd := fun t => putRegs t g.val.2 [BitVec.ofNat 32 g.val.1] false }
def winbRd (cx : Cx) (f : FI) (_ : Nat) : Rd Nat := do
  let w ← get
  let wb := (w.th.wb : Int) + 8 * sext 14 f.imm.toNat
  if wb < 0 ∨ (cx.k.regs : Int) ≤ wb then trapRd { code := cWINDOW } else pure wb.toNat
def winbOut (_ : List (Got Nat)) (g : Got Nat) : Out := { upd := fun t => { t with wb := g.val } }
/-- What SRD reads, each thread its own, and its result (R184). -/
def srdRd (cx : Cx) (f : FI) (_ : Nat) : Rd Nat := do
  let w ← get
  if specialWide f.imm.toNat then checkPair cx cx.f.d.toNat
  else if cx.f.d.toNat < 96 ∧ cx.k.regs ≤ w.th.wb + cx.f.d.toNat then
    trapRd { code := cREG, info := w.th.wb + cx.f.d.toNat }
  else if pendingUse cx.g w.th ⟨cx.f.d.toNat, 1, false, true⟩ then stallRd true
  pure (special cx w.th f.imm.toNat)
def srdOut (f : FI) (_ : List (Got Nat)) (g : Got Nat) : Out :=
  { (if specialWide f.imm.toNat then out64 g.val else out32 g.val) with long := f.imm.toNat == 0 }
/-- A Boolean function of predicates A and B. -/
def readPreds (op : Bool → Bool → Bool) (_ : State) (cx : Cx) (_ : Nat) : Rd Bool := do
  let w ← get
  pure (op (pred w.th cx.f.a.toNat) (pred w.th cx.f.b.toNat))
/-- The operands of PACK4 and its result (R196). -/
def readPack4 (s : State) (cx : Cx) (tid : Nat) : Rd (Nat × Nat × Nat × Nat) := do
  let a ← readA s cx tid false
  let b ← readB s cx tid false
  let d ← readD s cx tid false
  let u ← srWord cx
  pure (a, b, d, u)
def pack4Out (cx : Cx) (_ : List (Got (Nat × Nat × Nat × Nat))) (g : Got (Nat × Nat × Nat × Nat)) : Out :=
  out32 (putBits g.val.2.2.1 (4 * (cx.opt % 8)) 4 (pack4Nibble cx.ty cx.rnd g.val.2.2.2 g.val.1 g.val.2.1))
/-- The descriptor of a DLOAD block (R207). -/
def distRd (cx : Cx) (_ : Nat) : Rd Dist := do
  let ws ← readBlock cx.f.a.toNat 6
  liftT (distBlock ws)

/-! ### Instructions whose operation goes in flight -/

/-- The state after each thread that executes has put its operation in flight, counted on a flag, and the run is past
its slots. -/
def asyncDone (s : State) (cx : Cx) (flag words : Nat) (hasD : Bool) (rd : Nat → Rd Req) : State :=
  let gs := gotOf s cx false rd
  let s0 := touchAll s cx gs
  let past (s : State) : State := modGroup s cx.gid (fun g => advance g cx.slots)
  if cx.uni then
    match gs with
    | [] => past s
    | g :: _ =>
      past (issueOne (beginCount s0 cx flag 1 (listReads [g])) cx (tokOf s0 cx) flag (reqDst cx words hasD g cx.fl.run true) g)
  else letGo (past (issueRest s0 cx flag words hasD gs)) cx.gid cx.fl.tok

/-- No flag of the group counts more than 63 (R129). -/
def flagsBelow (s : State) (gid : Nat) : Bool :=
  match getGroup s gid with
  | none => true
  | some g => (List.range 12).all (fun f => decide (flagCount g f ≤ 63))

/-- Each thread that executes issues its operation: no more than there is room for. -/
def AsyncOk (s : State) (cx : Cx) (flag words : Nat) (hasD : Bool) (rd : Nat → Rd Req) (room : Nat := 64) : Prop :=
  Reads s cx false rd ∧ (∀ g ∈ gotOf s cx false rd, RestOk s cx hasD (g.val.n.getD words))
    ∧ (doers cx).length ≤ room ∧ flagsBelow (asyncDone s cx flag words hasD rd) cx.gid = true

/-- An instruction whose operation goes in flight completes: `rd` gives each thread's operation. -/
def AsyncCompletes (i : Instr) (flag words : Cx → Nat) (hasD : Bool) (rd : State → Cx → Nat → Rd Req) : Prop :=
  ∀ s cx, runOf i s = some cx → AsyncOk s cx (flag cx) (words cx) hasD (rd s cx) →
    exec i s = .next (asyncDone s cx (flag cx) (words cx) hasD (rd s cx))

/-- A thread's load: its address, then the operation (R106); `acquire` for LDA (R111). -/
def loadReq (s : State) (cx : Cx) (acquire : Bool) (addr : Nat → Rd (Nat × List Loc)) (tid : Nat) : Rd Req := do
  let (a, ls) ← addr tid
  poisonRd s cx tid a ls
  pure { kind := fun d => .load ls cx.loadFmt d, locs := ls, acquire := acquire }
/-- A thread's store: its operands, the value, the address, then the operation; `rel` is what a release waits for. A fault of
the value's own access stands after the address's checks (R215). -/
def storeReq (s : State) (cx : Cx) (rel : Nat → List Dep) (ops : Nat → Rd (Nat × Int))
    (addr : Nat → Nat × Int → Rd (Nat × List Loc)) (tid : Nat) : Rd Req := do
  let ab ← ops tid
  let v ← readLate (storeValue s cx tid)
  let (_, ls) ← addr tid ab
  let ps := pieces (if 0x101 = cx.opcode % 512 ∧ bitOf cx.opt 0 then 4 else memBytes cx.ty)
    (ls.zip (leBytes (memBytes cx.ty) (v.getD 0)))
  pure { kind := fun _ => .store ps (ps.map (fun _ => false)), locs := ls, stores := true, deps := rel tid }
/-- The lowest physical address of a list of locations. -/
def lowestPa (ls : List Loc) : Nat := ls.foldl (fun m l => match l with
  | .g p => min m p
  | .s _ _ => m) (2 ^ 48)
/-- The address that PREF names, and the line it fills (R219). -/
def prefAddr (s : State) (cx : Cx) (tid : Nat) : Rd Nat := do
  let (a, b) ← ldaOps s cx tid
  pure (wrapN 64 ((a : Int) + b))
def prefetch (s : State) (cx : Cx) (va : Nat) : State :=
  match translate s cx.g.core cx.ctx va .read with
  | .ok pa => fillLine s (lineAt (prefUnit cx pa) cx.ctx 0 pa)
  | .error _ => s

/-- The state after the lanes of an atomic have put their requests in flight, one for each location (R97). -/
def atomDone (s : State) (cx : Cx) (scratch cas : Bool) : State :=
  let gs := gotRun s cx (fun t => atomRd s cx t scratch cas)
  let words := if cx.wide then 2 else 1
  let s0 := touchAll s cx gs
  let tok := s0.nextId
  let reqs := combineLanes (gs.length + 1) gs
  let s1 := modGroup { s0 with nextId := tok + 1 } cx.gid (fun g => addTok g tok cx.setb reqs.length)
  let s2 := reqs.foldl (issueAtomic cx words tok ((gs.head?.map (·.tid)).getD 0)) s1
  modGroup s2 cx.gid (fun g => advance g cx.slots)

/-- Each lane of an atomic issues. -/
def AtomOk (s : State) (cx : Cx) (scratch cas : Bool) : Prop :=
  RunReads s cx (fun t => atomRd s cx t scratch cas)
    ∧ othersD s cx (if cx.wide then 2 else 1) (restOfRun cx) = (false, [])
    ∧ flagsBelow (atomDone s cx scratch cas) cx.gid = true

/-- An atomic completes. -/
def AtomCompletes (i : Instr) (scratch cas : Bool) : Prop :=
  ∀ s cx, runOf i s = some cx → AtomOk s cx scratch cas → exec i s = .next (atomDone s cx scratch cas)

/-! ### Jumps, and other core instructions -/

/-- What a jump reads: the link pair is in bounds and not pending, and the target. -/
def jumpRd (cx : Cx) (link : Option Nat) (target : Nat → Rd Nat) (tid : Nat) : Rd Nat := do
  match link with
  | some c => checkLink cx c
  | none => pure ()
  target tid

/-- Every thread of the run has a target that is a header, and its link pair is free (R160, R161, R63). -/
def JumpOk (s : State) (cx : Cx) (link : Option Nat) (target : Nat → Rd Nat) : Prop :=
  Reads s cx false (jumpRd cx link target)
    ∧ (∀ g ∈ gotOf s cx false (jumpRd cx link target), isHeader cx.k (BitVec.ofNat 64 g.val) = true)
    ∧ ∀ t ∈ restOfRun cx, ∀ c, link = some c → ∃ w, (checkLink cx c).run { th := thread cx.g t } = .ok ((), w)

/-- Threads that have jumped, with their link pair and their counter, and the run's places: those that had passed the
instruction before stand at their own counter (R26). -/
def jumped (s : State) (cx : Cx) (link : Option Nat) (gs : List (Got Nat)) : State :=
  gs.foldl (fun s g => putLink (modThread s cx.gid g.tid (fun _ => { g.work.th with pc := BitVec.ofNat 64 g.val })) cx link g.tid) s
def jumpedTo (cx : Cx) (gs : List (Got Nat)) : List (Nat × Option W64) :=
  (cx.fl.run.filter (fun t => cx.fl.past.contains t)).map (fun t => (t, some (thread cx.g t).pc))
    ++ gs.map (fun g => (g.tid, some (BitVec.ofNat 64 g.val)))

/-- The state after a jump: link pairs written, each thread at its target. -/
def jumpDone (s : State) (cx : Cx) (link : Option Nat) (target : Nat → Rd Nat) : State :=
  let gs := gotOf s cx false (jumpRd cx link target)
  let s0 := touchAll s cx gs
  if cx.uni then
    match gs with
    | [] => s
    | g :: _ =>
      let s1 := modThread s0 cx.gid g.tid (fun _ => g.work.th)
      transferRun (cx.fl.run.foldl (fun s t => putLink s cx link t) s1) cx
        (cx.fl.run.map (fun t => (t, some (BitVec.ofNat 64 g.val))))
  else transferRun (jumped s0 cx link gs) cx (jumpedTo cx gs)

/-- The timer of a core's bin is set; a bin whose new deadline has passed is ready at once (R165). -/
def setBinTimer (s : State) (core bin timer : Nat) : State :=
  let c := getCore s core
  let b : Bin := { mget {} c.bins bin with timer := timer }
  let s1 := setCore s core { c with bins := mset {} c.bins bin b }
  if binDue s1 (getCore s1 core) b then binReady s1 core bin else s1

/-- A branch's taken target is a header for the threads that take it, and a next clause is there for the others
(R123, R159). -/
def BranchOk (cx : Cx) (f : FB) (takes : Nat → Bool) : Prop :=
  ∀ t ∈ cx.fl.run, (if takes t then isHeader cx.k (branchTarget cx f) else cx.hasNext) = true

/-- The condition of a branch for a thread: its own, or the lowest-numbered thread's under U = 1. -/
def takesBranch (cx : Cx) (cond : Thread → Bool) (t : Nat) : Bool := cond (thread cx.g (if cx.uni then cx.low else t))

/-- The state after a branch. -/
def branchDone (s : State) (cx : Cx) (f : FB) (takes : Nat → Bool) : State :=
  transferRun s cx (cx.fl.run.map (fun t => (t, if takes t then some (branchTarget cx f) else none)))

/-- A branch completes. -/
def BranchCompletes (i : Instr) (f : FB) (cond : Thread → Bool) : Prop :=
  ∀ s cx, runOf i s = some cx → BranchOk cx f (takesBranch cx cond) →
    exec i s = .next (branchDone s cx f (takesBranch cx cond))

/-- The threads of a run sign a cleat, in ascending `tid`. -/
def signAll (s : State) (cx : Cx) (key c : Nat) (counted : Bool) (wait : Option Wait)
    (sigs : List (Nat × Sig × Option Thread)) : SignAcc :=
  signEach cx key c counted wait { s := s, mine := cx.fl.past } sigs

/-- A core instruction answers the state `t` gives whenever it runs and `ok` holds. -/
def RunCompletes (i : Instr) (ok : State → Cx → Prop) (t : State → Cx → State) : Prop :=
  ∀ s cx, runOf i s = some cx → ok s cx → exec i s = .next (t s cx)

/-! ### Where an instruction traps -/

/-- A thread reads its operands, and `ops` gives `v` for them. -/
def OpsRead {α : Type} (s : State) (cx : Cx) (t : Nat) (ops : Nat → Rd α) (v : α) : Prop :=
  ∃ g, readOne s cx ops false t = .ok g ∧ g.val = v

/-- The state after every thread that executes has trapped, each with its own trap; under U = 1 the whole run takes the
lowest-numbered thread's (R22, R57). -/
def trappedAll (s : State) (cx : Cx) (tr : Nat → Trap) : State :=
  if cx.uni then trapWhole s cx true (tr cx.low)
  else modGroup (trapRun s cx false (cx.todo.map (fun t => (t, tr t)))) cx.gid (fun g => advance g cx.slots)

/-- A lane instruction whose threads all meet `hit` traps, with no effect. -/
def LaneTraps (i : Instr) (hit : State → Cx → Nat → Trap → Prop) : Prop :=
  ∀ s cx tr, runOf i s = some cx → (∀ t ∈ doers cx, hit s cx t (tr t)) → exec i s = .next (trappedAll s cx tr)

/-- The same of an instruction whose operation would go in flight, where none of its threads has issued one: no operation is
added, and no count rises. -/
def IssueTraps (i : Instr) (hit : State → Cx → Nat → Trap → Prop) : Prop :=
  ∀ s cx tr, runOf i s = some cx → cx.fl.tok = 0 → cx.todo.length ≤ 64 → flagsBelow (trappedAll s cx tr) cx.gid = true →
    (∀ t ∈ doers cx, hit s cx t (tr t)) → ∃ n, exec i s = .next { trappedAll s cx tr with nextId := n }

/-- An operand field names a register at or beyond the kernel's `.regs` (R63). -/
def OutOfBounds (_ : State) (cx : Cx) (t : Nat) (tr : Trap) : Prop :=
  boundsOf cx.k.regs (thread cx.g t).wb (uses cx.e cx.m cx.f) = some tr

/-- The global address of LD and ST without `.prv` is misaligned, or faults (R85, R343). -/
def BadGlobal {α : Type} (acc : Acc) (ops : State → Cx → Nat → Rd α) (addr : α → Nat × Int) (s : State) (cx : Cx) (t : Nat)
    (tr : Trap) : Prop :=
  bitOf cx.opt 0 = false ∧ ∃ v, OpsRead s cx t (ops s cx) v ∧
    let va := wrapN 64 (((addr v).1 : Int) + (addr v).2)
    (va % memBytes cx.ty ≠ 0 ∧ tr = { code := 0x0C, addr := va }) ∨
    (va % memBytes cx.ty = 0 ∧ globalLocs s cx va (memBytes cx.ty) acc = .error tr)

/-- The scratchpad address of LDS and STS is misaligned, or not in the team's scratchpad (R85, R218). -/
def BadScratch {α : Type} (ops : State → Cx → Nat → Rd α) (addr : α → Nat × Int) (s : State) (cx : Cx) (t : Nat) (tr : Trap) : Prop :=
  ∃ v, OpsRead s cx t (ops s cx) v ∧
    let a := saddr (addr v).1
    let off := (a.off : Int) + (addr v).2
    (off % (memBytes cx.ty : Int) ≠ 0 ∧ tr = { code := 0x0C, addr := (addr v).1 / 2 ^ 22 * 2 ^ 22 + wrapN 22 off }) ∨
    (off % (memBytes cx.ty : Int) = 0 ∧ scratchLocs s cx a off (memBytes cx.ty) = .error tr)

/-- What ST and STS read before the address is checked: its operands and the value. -/
def withValue (ops : State → Cx → Nat → Rd (Nat × Int)) (s : State) (cx : Cx) (t : Nat) : Rd ((Nat × Int) × Option Nat) := do
  let ab ← ops s cx t
  let v ← readLate (storeValue s cx t)
  pure (ab, v)

/-- A branch is taken, or falls through, thread by thread: one whose taken target is no header, or that falls through where no
clause follows, takes ILLEGAL_TARGET, and the others go on (R123, R159). -/
def BranchTraps (i : Instr) (f : FB) (cond : Thread → Bool) : Prop :=
  ∀ s cx, runOf i s = some cx →
    let takes := takesBranch cx cond
    let good (t : Nat) : Bool := if takes t then isHeader cx.k (branchTarget cx f) else cx.hasNext
    exec i s = .next (transferRun
      (trapRun s cx false ((cx.fl.run.filter (fun t => !good t)).map (fun t => (t, { code := 0x02 })))) cx
      ((cx.fl.run.filter good).map (fun t => (t, if takes t then some (branchTarget cx f) else none))))

/-- A jump whose target is no header: under U = 1 the whole run takes ILLEGAL_TARGET, else each thread with such a target does,
and the others go on (R160, R161). -/
def JumpTraps (i : Instr) (link : Cx → Option Nat) : Prop :=
  ∀ s cx, runOf i s = some cx →
    let rd := jumpRd cx (link cx) (fun t => readA s cx t true)
    (∀ a, cx.uni = true → OpsRead s cx cx.low rd a → isHeader cx.k (BitVec.ofNat 64 a) = false →
      exec i s = .next (trapWhole s cx true { code := 0x02 })) ∧
    (cx.uni = false → Reads s cx false rd →
      let good (g : Got Nat) : Bool := isHeader cx.k (BitVec.ofNat 64 g.val)
      let gs := gotOf s cx false rd
      let go := gs.filter good
      exec i s = .next (transferRun
        (jumped (trapRun (touchAll s cx gs) cx false ((gs.filter (fun g => !good g)).map (fun g => (g.tid, { code := 0x02 }))))
          cx (link cx) go) cx (jumpedTo cx go)))

/-! ### Teams, engines, copies and waits -/

/-- An instruction of a team whose operation goes in flight completes. -/
def TeamCompletes (i : Instr) (flag words : Cx → Nat) (hasD : Bool) (rd : State → Cx → Nat → Nat → Rd Req) : Prop :=
  ∀ s cx key, runOf i s = some cx → cx.team = some key → AsyncOk s cx (flag cx) (words cx) hasD (rd s cx key) →
    exec i s = .next (asyncDone s cx (flag cx) (words cx) hasD (rd s cx key))

/-- The threads of a run have signed an engine call, each reading its operands as it signs, and whether one stalled; under
U = 1 each with the lowest-numbered thread's operands (R34, R57). -/
def callSigned (s : State) (cx : Cx) (key : Nat) (rd : State → Nat → Rd Sig) : SignAcc × Option Bool :=
  let acc : SignAcc := { s := s, mine := cx.fl.past }
  let c := cx.f.b.toNat % 8
  if cx.uni then
    match gotOf s cx false (rd s) with
    | [] => (acc, none)
    | g :: _ => (signEach cx key c true none { acc with s := touchAll s cx [g] } (uniformSigs cx g), none)
  else signThreads cx key c rd cx.todo acc

/-- The state after an engine call: signed, its canvas price charged, the run past its slots. -/
def callDone (s : State) (cx : Cx) (key : Nat) (rd : State → Nat → Rd Sig) : State :=
  modGroup (callSigned s cx key rd).1.s cx.gid
    (fun g => advance (charge g (price (cx.opcode % 512) (cx.f.b.toNat / 8 % 4 + 1))) cx.slots)

/-- An engine call completes: no thread stalls, traps or diverges, and no flag passes 63. -/
def CallCompletes (i : Instr) (rd : Cx → State → Nat → Rd Sig) : Prop :=
  ∀ s cx key, runOf i s = some cx → cx.team = some key → (cx.uni = true → Reads s cx false (rd cx s)) →
    (callSigned s cx key (rd cx)).2 = none → (callSigned s cx key (rd cx)).1.traps = [] →
    flagsBelow (callDone s cx key (rd cx)) cx.gid = true → exec i s = .next (callDone s cx key (rd cx))

/-- A copy completes its issue: the core has room for its copies (R242). -/
def CopyCompletes (i : Instr) (rd : State → Cx → Nat → Rd Req) : Prop :=
  RunCompletes i
    (fun s cx => AsyncOk s cx cx.setb 1 true (rd s cx) (Config.coreCopies - openCopies s cx.g.core))
    (fun s cx => asyncDone s cx cx.setb 1 true (rd s cx))

/-- The value that each thread of the run waits for: under U = 1 the lowest-numbered thread's. -/
def waitsOf {α : Type} (cx : Cx) (gs : List (Got α)) : List (Nat × α) :=
  if cx.uni then gs.head?.toList.flatMap (fun g => cx.fl.run.map (fun t => (t, g.val))) else gs.map (fun g => (g.tid, g.val))

/-- The threads' copies are committed. -/
def commitReads {α : Type} (s : State) (cx : Cx) (gs : List (Got α)) : State :=
  gs.foldl (fun s g => modThread s cx.gid g.tid (fun _ => g.work.th)) (touchAll s cx gs)

/-- What SEMWAIT reads: the semaphore's index and the threshold (R228). -/
def semWaitRd (s : State) (cx : Cx) (tid : Nat) : Rd (Nat × Nat) := do
  let w ← readA s cx tid false
  let b ← readLate (readB s cx tid false)
  let i ← liftT (ownSem cx.g.core w)
  settleRd
  if !depsDone s (cx.fence tid) || !(semDeps s cx tid cx.g.core i).isEmpty then stallRd false
  pure (i, b.getD 0)

/-- The state after SEMWAIT: each thread at the next header, READY where the value has reached its threshold. -/
def semWaitDone (s : State) (cx : Cx) : State :=
  let gs := gotRun s cx (semWaitRd s cx)
  let ws := waitsOf cx gs
  let s1 := ws.foldl (fun s (t, i, b) => modThread s cx.gid t (fun th => { th with
    st := if b ≤ (semVal s cx.g.core cx.ctx i).toNat then .ready else .waiting (.sem i b) })) (commitReads s cx gs)
  modGroup s1 cx.gid (fun g => endClause g (ws.map (fun w => (w.1, nextHeader cx.fl.hdr (hLen cx.fl.w0)))) false)

/-- What TGWAIT reads: the physical address of the record (R250). -/
def tgWaitRd (s : State) (cx : Cx) (tid : Nat) : Rd Nat := do
  let va ← readA s cx tid true
  alignRd va va 128
  let ls ← recordRd s cx va .read
  poisonRd s cx tid va ls
  if !depsDone s (cx.fence tid) || !(runOverlap s cx tid ls true).isEmpty then stallRd false
  pure (recordPa ls)

/-- The state after TGWAIT: each thread waits for its record, and goes on at once where it is posted. -/
def tgWaitDone (s : State) (cx : Cx) : State :=
  let gs := gotRun s cx (tgWaitRd s cx)
  let ws := waitsOf cx gs
  let s1 := ws.foldl (fun s (t, pa) => modThread s cx.gid t (fun th => { th with st := .waiting (.task pa) })) (commitReads s cx gs)
  wakeTasks (modGroup s1 cx.gid (fun g => endClause g (ws.map (fun w => (w.1, nextHeader cx.fl.hdr (hLen cx.fl.w0)))) false))

/-- CPST's result: the group's copies in flight (R243). -/
def cpstOut (s : State) (cx : Cx) (_ : List (Got Unit)) (_ : Got Unit) : Out :=
  out32 (s.ops.filter (fun o => match o.kind, o.who with
    | .copy _ _ _, .thread t => t.gid == cx.gid
    | _, _ => false)).length

/-- A heap instruction's operation: the slot's heap, or PRIV (R286). -/
def heapRd (acquire : Bool) (rel : State → Cx → Nat → List Dep) (op : State → Cx → Nat → Rd (Dst → HeapOp))
    (s : State) (cx : Cx) (t : Nat) : Rd Req := do
  match mfind cx.c.heapMap (bitsOf cx.opt 3 0) with
  | none => trapRd { code := cPRIV }
  | some h =>
    let o ← op s cx t
    pure { kind := fun d => .heap h (o d), deps := rel s cx t, after := fun _ s => heapDeps s h, acquire := acquire }

/-! ### Shroud instructions -/

/-- The shroud thread that executes an instruction now: the current agent's routine is there, and the instruction's
fields are legal (R294, R295). -/
def routineOf (i : Instr) (s : State) : Option Sh :=
  match s.cur with
  | .shroud k t =>
    match mfind (getShroud s k).threads t with
    | none => none
    | some x => if wellFormed i then some { k := k, t := t, x := x } else none
  | _ => none

/-- A shroud instruction answers the state `t` gives whenever its thread runs it and `ok` holds. -/
def ShroudCompletes (i : Instr) (ok : State → Sh → Prop) (t : State → Sh → State) : Prop :=
  ∀ s h, routineOf i s = some h → ok s h → exec i s = .next (t s h)

/-- The word a shroud branch reaches (R297). -/
def shTarget (h : Sh) (f : SB) : Int := (h.x.word : Int) + sext 17 f.off.toNat
/-- A branch target inside the routine. -/
def shInside (h : Sh) (f : SB) : Prop := 0 ≤ shTarget h f ∧ shTarget h f < (h.x.len : Int)
/-- The thread at a branch's target. -/
def shGoto (s : State) (h : Sh) (f : SB) (x : SThread) : State := setSThread s h.k h.t { x with word := (shTarget h f).toNat }

/-- An access of n bytes of a shroud thread: its address translates, its page made present if need be, and a write meets no
argument block (R62); `s'` and `pa` are what the translation leaves and gives. A load waits for nothing: neither for the fence
of the thread, nor for an access of the thread before it, nor for an engine on its lines. -/
def ShMapped (s : State) (h : Sh) (va n : Nat) (a : Acc) (s' : State) (pa : Nat) : Prop :=
  resolveAt s (shroudUnit h.k) h.x.ctx va a (.routine h.k h.t) = (s', .ok pa) ∧ (a = .write → argsIn s' h.x.ctx va n = none)
def ShFree (s : State) (h : Sh) (va : Nat) (offs : List Nat) : Prop :=
  (∀ pa, translate s (shroudUnit h.k) h.x.ctx va .read = .ok pa → shBlocked s h (offs.map (fun o => .g (pa + o))) = false) ∧
  (translate s (shroudUnit h.k) h.x.ctx va .read = .error 0 → depsDone s h.x.fence = true)

/-- A shroud store in flight, its quarters each poisoned where a byte of them is, and the thread at its next word
(R293, R306). -/
def shStored (s : State) (h : Sh) (pa : Nat) (bs : List Byte) (pois : List Bool) : State :=
  let s := chargeQuota s h.x.ctx bs.length
  let parts := quarters pa bs
  let ps := (List.range parts.length).map (fun i => ((pois.drop (32 * i)).take 32).any id)
  let deps := h.x.fence
    ++ performed ((s.ops.filter (fun o => o.who == h.who && meetsQuarter (opLocs o) (partLocs parts))).map (·.id))
  shNext (addOp s
    { id := 0, who := h.who, ctx := h.x.ctx, launch := h.x.launch, core := shroudCore h.k h.t, deps := deps,
      kind := .store parts ps }) h { h.x with poisoned := h.x.poisoned + (ps.filter id).length }

/-- Where a shroud access of n bytes faults (R296): ALIGN, then PAGE_FAULT, which a write that reaches an argument block meets
too (R62), then POISON. -/
def StoreFaults (i : Instr) (s : State) (h : Sh) (va n : Nat) (misaligned : Prop) (poison : Bool) (acc : Acc := .write) : Prop :=
  (misaligned → exec i s = .next (endFault s h.k h.t h.x 0x0C)) ∧
  (¬ misaligned → ∀ s' r, resolveAt s (shroudUnit h.k) h.x.ctx va acc (.routine h.k h.t) = (s', .error r) →
    exec i s = .next (endFault s' h.k h.t h.x 0x0A)) ∧
  (¬ misaligned → acc = .write → ∀ s' pa b, resolveAt s (shroudUnit h.k) h.x.ctx va acc (.routine h.k h.t) = (s', .ok pa) →
    argsIn s' h.x.ctx va n = some b → exec i s = .next (endFault s' h.k h.t h.x 0x0A)) ∧
  (¬ misaligned → poison = true → ∀ s' pa, ShMapped s h va n acc s' pa →
    exec i s = .next (endFault s' h.k h.t h.x 0x0D))
/-- The same of a load that waits for nothing. -/
def LoadFaults (i : Instr) (s : State) (h : Sh) (va : Nat) (offs : List Nat) (misaligned : Prop) (poison : Bool) : Prop :=
  ShFree s h va offs → StoreFaults i s h va 0 misaligned poison .read

/-! ### Frames: what an instruction may change -/

/-- What an instruction may change besides the program counter: the register operands it writes, predicates, stream
registers, the position of the random stream, and its key. -/
structure Allow where
  dest : List Use := []
  preds : List Nat := []
  streams : List Nat := []
  draws : Bool := false
  key : Bool := false

/-- What its operands let an instruction change: the registers of a destination field D, the streams that operands name
(R53), and the position of the random stream where an operand or `.SR` draws (R54, R72, R206). -/
def allowOf (c : CoreForm) : Allow :=
  let us := uses c.e c.m c.f
  { dest := (useOf c.e c.m c.e.d c.f.d.toNat).filter (·.writes)
    streams := (us.filter (fun u => decide (112 ≤ u.code ∧ u.code < 116))).map (·.code - 112)
    draws := c.m.rnd == 4 || us.any (fun u => decide (120 ≤ u.code)) }

/-- The thread registers of the destination, by absolute index (R47). -/
def Allow.regs (al : Allow) (wb : Nat) : List Nat :=
  al.dest.flatMap (fun u => if u.code < 96 then rangeFrom (wb + u.code) u.words else [])
/-- The scalar registers of the destination (R50). -/
def Allow.scal (al : Allow) : List Nat :=
  al.dest.filterMap (fun u => if 96 ≤ u.code ∧ u.code < 112 then some (u.code - 96) else none)
/-- The destination is a stream (R53). -/
def Allow.toStream (al : Allow) : Bool := al.dest.any (fun u => decide (112 ≤ u.code ∧ u.code < 116))

/-- A thread after an instruction that it retired: nothing changed but what the instruction may change. -/
def Retired (al : Allow) (a b : Thread) : Prop :=
  b = { a with pc := b.pc, regs := b.regs, pend := b.pend, rpois := b.rpois, preds := b.preds, streams := b.streams,
               key := b.key, ctr := b.ctr, idx := b.idx }
    ∧ (∀ k, k ∉ al.regs a.wb →
        mget 0 b.regs k = mget 0 a.regs k ∧ (k ∈ b.pend ↔ k ∈ a.pend) ∧ (k ∈ b.rpois ↔ k ∈ a.rpois))
    ∧ (∀ k, k ∉ al.preds → pred b k = pred a k)
    ∧ (∀ k, k ∉ al.streams → streamReg b k = streamReg a k)
    ∧ (al.draws = false → b.ctr = a.ctr ∧ b.idx = a.idx)
    ∧ (al.key = false → b.key = a.key)

/-- A thread that took a trap: its state, program counter, trap records and handler mode, and nothing else (R311). -/
def Trapped (a b : Thread) : Prop :=
  b = { a with st := b.st, pc := b.pc, trap := b.trap, handler := b.handler }

/-- An operation that a lane instruction leaves in flight: a result to its destination, or the store of a stream
element. -/
def ResultOk (al : Allow) (run : List Nat) (gid : Nat) (g : Group) (o : Op) : Prop :=
  match o.kind with
  | .long d _ => d.gid = gid ∧ d.preds = []
      ∧ (∀ r ∈ d.regs, r.1 ∈ run ∧ ∀ k ∈ rangeFrom r.2 d.n, k ∈ al.regs (thread g r.1).wb)
      ∧ ∀ k, d.scal = some k → k ∈ al.scal
  | .store _ _ => al.toStream = true
  | _ => False

/-- What an instruction of a run leaves as it was: all of memory and of the machine but the group, the operations in
flight (to which it may add those that `K` says), what translation units and caches hold, page faults and events of trapping
threads; every
other group; the group but its threads, scalar destination, issue state and, where operations are counted, its flags;
the threads outside the run; and of a thread of the run all that `R` says. -/
def Framed (R : Nat → Thread → Prop) (K : Op → Prop) (counted : Bool) (al : Allow) (run : List Nat) (gid : Nat) (g : Group)
    (s t : State) : Prop :=
  t = { s with groups := t.groups, ops := t.ops, nextId := t.nextId, tlb := t.tlb, walks := t.walks, cached := t.cached,
               stale := t.stale, faults := t.faults, events := t.events, evSeq := t.evSeq, outN := t.outN }
    ∧ (∀ a, rdByte t a = rdByte s a)
    ∧ (∃ new, t.ops = s.ops ++ new ∧ ∀ o ∈ new, K o)
    ∧ (∃ ev, t.events = s.events ++ ev ∧ ∀ e ∈ ev, e.kind = 0x81)
    ∧ (∀ j, j ≠ gid → getGroup t j = getGroup s j)
    ∧ ∃ h, getGroup t gid = some h
      ∧ h = { g with threads := h.threads, scal := h.scal, spend := h.spend, spois := h.spois, toks := h.toks, flight := h.flight,
                     yHead := h.yHead, yRest := h.yRest, yCount := h.yCount, stalls := h.stalls,
                     tlbMisses := h.tlbMisses }
      ∧ (counted = false → h.toks = g.toks)
      ∧ (∀ k, k ∉ al.scal → mget 0 h.scal k = mget 0 g.scal k ∧ (k ∈ h.spend ↔ k ∈ g.spend) ∧ (k ∈ h.spois ↔ k ∈ g.spois))
      ∧ (∀ f, h.flight = some f → f.run ⊆ run)
      ∧ (∀ i, i ∈ run → R i (thread h i)) ∧ ∀ i, i ∉ run → thread h i = thread g i

/-- The frame of a lane instruction: whatever next state it answers, each thread of the run has retired it, trapped, or
is as before (the run is listed with its lowest-numbered thread, so that it has one). -/
def LaneFrame (i : Instr) (more : CoreForm → Allow → Allow) : Prop :=
  ∀ s t gid g fl c, coreForm i = some c → s.cur = .group gid → getGroup s gid = some g → g.flight = some fl →
    exec i s = .next t →
    Framed (fun k b => Retired (more c (allowOf c)) (thread g k) b ∨ Trapped (thread g k) b)
      (ResultOk (more c (allowOf c)) (fl.run.headD 0 :: fl.run) gid g) false (more c (allowOf c)) (fl.run.headD 0 :: fl.run)
      gid g s t

/-- The frame of an instruction without a destination that updates each thread by itself, as `up` says: whatever next state it
answers, a thread of the run has had that update and what its operands move, or trapped, or is as before. -/
def UpdateFrame (i : Instr) (up : Thread → Thread → Prop) : Prop :=
  ∀ s t gid g fl c, coreForm i = some c → s.cur = .group gid → getGroup s gid = some g → g.flight = some fl →
    exec i s = .next t →
    let al : Allow := { allowOf c with dest := [] }
    Framed (fun k b => (∃ a, (a = thread g k ∨ up (thread g k) a) ∧ Retired al a b) ∨ Trapped (thread g k) b)
      (fun _ => False) false al (fl.run.headD 0 :: fl.run) gid g s t

/-- A thread whose operation is in flight: no register, predicate, key or trap record has changed; destination registers
may be pending, streams and the random stream that operands name may have moved, and later accesses may wait. -/
def Issued (al : Allow) (a b : Thread) : Prop :=
  b = { a with pc := b.pc, pend := b.pend, streams := b.streams, ctr := b.ctr, idx := b.idx, fence := b.fence }
    ∧ (∀ k, k ∉ al.regs a.wb → (k ∈ b.pend ↔ k ∈ a.pend))
    ∧ (∀ k, k ∉ al.streams → streamReg b k = streamReg a k)
    ∧ (al.draws = false → b.ctr = a.ctr ∧ b.idx = a.idx)

/-- The frame of an instruction whose operation goes in flight: it changes no byte of memory and no register; the
operations it adds are of the kind `kind` and issued by threads of its run; the destination it makes pending is that of
field D, or what `more` says. Where threads of the run have issued before those that execute now, the hold on their count
ends last, which threads that wait on the flag may pass (R128, R170). It is said of the states in which `pre` holds. -/
def IssueFrame (i : Instr) (kind : OpKind → Bool) (more : CoreForm → Allow → Allow := fun _ a => a)
    (pre : State → Group → Prop := fun _ _ => True) : Prop :=
  ∀ s t gid g fl c, coreForm i = some c → s.cur = .group gid → getGroup s gid = some g → g.flight = some fl → pre s g →
    exec i s = .next t →
    ∃ u, Framed (fun k b => Issued (more c (allowOf c)) (thread g k) b ∨ Trapped (thread g k) b)
      (fun o => kind o.kind = true ∧ ∃ k ∈ fl.run.headD 0 :: fl.run, o.who = .thread { gid := gid, tid := k }) true
      (more c (allowOf c)) (fl.run.headD 0 :: fl.run) gid g s u ∧ (t = u ∨ t = letGo u gid fl.tok)

/-- The frame of a transfer: a thread changes its program counter and link pair, and leaves handler mode where it takes
the transfer (R349); or it traps. -/
def TransferFrame (i : Instr) (more : CoreForm → Allow → Allow) : Prop :=
  ∀ s t gid g fl c, coreForm i = some c → s.cur = .group gid → getGroup s gid = some g → g.flight = some fl →
    exec i s = .next t →
    Framed (fun k b => (∃ h, (h = (thread g k).handler ∨ h = none) ∧ Retired (more c (allowOf c)) { thread g k with handler := h } b)
        ∨ Trapped (thread g k) b)
      (fun _ => False) false (more c (allowOf c)) (fl.run.headD 0 :: fl.run) gid g s t

/-- No register of a thread has changed. -/
def SameRegisters (a b : Thread) : Prop :=
  b.regs = a.regs ∧ b.pend = a.pend ∧ b.rpois = a.rpois ∧ b.preds = a.preds ∧ b.wb = a.wb ∧ b.key = a.key
/-- No stream of a thread has moved, nor its random stream. -/
def SameStreams (a b : Thread) : Prop := b.streams = a.streams ∧ b.ctr = a.ctr ∧ b.idx = a.idx

/-- The frame of an instruction that only changes how threads go on, or what a team's threads have signed: no byte of
memory or scratchpad, version word, poison, heap, shroud, sequence word, semaphore, die, cluster or port; no register of any thread or
group but the distribution descriptors `ds`; streams and random streams move only where the operands of the run name
them. A group may have ended, but none has begun. -/
def QuietFrame (i : Instr) (ds : List Nat := []) : Prop :=
  ∀ s t, exec i s = .next t →
    (∀ a, rdByte t a = rdByte s a) ∧ (∀ k p, rdScratch t k p = rdScratch s k p) ∧ t.vers = s.vers ∧ t.pois = s.pois ∧ t.heaps = s.heaps ∧ t.shrouds = s.shrouds
    ∧ t.seqWords = s.seqWords ∧ t.dies = s.dies ∧ t.clusters = s.clusters ∧ t.ports = s.ports ∧ t.timebase = s.timebase
    ∧ (∀ k, (getCore t k).sems = (getCore s k).sems)
    ∧ ∀ j h, getGroup t j = some h → ∃ g, getGroup s j = some g ∧ h.scal = g.scal ∧ h.spend = g.spend ∧ h.spois = g.spois
      ∧ (∀ d, d ∉ ds → mget {} h.dists d = mget {} g.dists d)
      ∧ ∀ k, SameRegisters (thread g k) (thread h k)
        ∧ (SameStreams (thread g k) (thread h k) ∨ (s.cur = .group j ∧ ∃ fl, g.flight = some fl ∧ k ∈ fl.run.headD 0 :: fl.run))

/-- Every page of a context's windows is present, so that Maluk makes none present. -/
def PagesPresent (s : State) (ctx : Nat) : Prop :=
  ∀ unit va a, translate s unit ctx va a ≠ .error 0

/-- What a shroud instruction changes: of the machine only the shrouds, of those only shroud `k`, of that only thread `t`,
and of that thread only its place and what `R` allows. -/
def ShroudFramed (R : SThread → SThread → Prop) (s t : State) (h : Sh) : Prop :=
  t = { s with shrouds := t.shrouds } ∧ (∀ k, k ≠ h.k → getShroud t k = getShroud s k)
    ∧ (getShroud t h.k).queue = (getShroud s h.k).queue ∧ (getShroud t h.k).held = (getShroud s h.k).held
    ∧ (∀ j, j ≠ h.t → mfind (getShroud t h.k).threads j = mfind (getShroud s h.k).threads j)
    ∧ ∃ y, mfind (getShroud t h.k).threads h.t = some y ∧ R h.x y

/-- A shroud thread in which at most scalar register d has changed, and the place it stands at. -/
def OnlyScalar (d : Nat) (a b : SThread) : Prop :=
  b = { a with word := b.word, n := b.n, npois := b.npois }
    ∧ ∀ k, k ≠ d → mget 0 b.n k = mget 0 a.n k ∧ (k ∈ b.npois ↔ k ∈ a.npois)
/-- A shroud thread in which at most vector register d has changed, and the place it stands at. -/
def OnlyVector (d : Nat) (a b : SThread) : Prop :=
  b = { a with word := b.word, v := b.v, vpois := b.vpois }
    ∧ ∀ k, k ≠ d → mget zeroVec b.v k = mget zeroVec a.v k ∧ mget 0 b.vpois k = mget 0 a.vpois k

/-- The frame of a shroud instruction. -/
def ShroudFrame (i : Instr) (R : SThread → SThread → Prop) : Prop :=
  ∀ s t h, routineOf i s = some h → exec i s = .next t → ShroudFramed R s t h

/-! ### Machine events -/

/-- The operation that an event names is in flight and may act: what it waits for has completed, its scratchpads exist,
held operations before it are performed, and no shutdown has cut it off (R39, R405). -/
def Acts (s : State) (id : Nat) (o : Op) : Prop := findOp s id = some o ∧ opReady s o = true ∧ powered s = true

/-- The context of an operation is not dying, so that its end destroys none and zeroes nothing (R325, R328). -/
def Stays (s : State) (o : Op) : Prop := ∀ c, mfind s.ctxs o.ctx = some c → c.dying = false

/-- Every byte of memory outside the listed addresses is as before. -/
def OnlyBytes (as : List Nat) (s t : State) : Prop := ∀ a, a ∉ as → rdByte t a = rdByte s a
/-- Every byte of memory and of every scratchpad outside the listed locations is as before. -/
def OnlyLocs (ls : List Loc) (s t : State) : Prop :=
  (∀ a, .g a ∉ ls → rdByte t a = rdByte s a) ∧ ∀ k p, .s k p ∉ ls → rdScratch t k p = rdScratch s k p

/-- Maluk accepts a message as a request of a kind (R384, R385, R389): it reaches Maluk, its header, length, authority and
trailer are legal, and no later request of its VI has taken effect. -/
def Accepted (s : State) (m : Msg) (kind : Nat) : Prop :=
  reaches s m = true ∧ reqHeaderOk (reqOf m) = true ∧ (reqOf m).kind = kind ∧ lateSeq s (reqOf m) = false
    ∧ reqLenOk (reqOf m) = true ∧ authOk s (reqOf m) = true ∧ trailerZero (reqOf m) = true

/-- The state in which an accepted request acts: its response is numbered, its credential's counter and its SEQ noted (R385,
R389). -/
def taken (s : State) (q : MReq) : State := noteSeq (noteCounter { s with outN := s.outN + 1 } q) q

/-- An accepted request for which `ok` holds answers the state `t` gives; `t` is given the number of the response. -/
def RequestCompletes (i : Msg → Instr) (kind : Nat) (ok : State → MReq → Prop) (t : State → MReq → Nat → State) : Prop :=
  ∀ m s, Accepted s m kind → ok (taken s (reqOf m)) (reqOf m) →
    exec (i m) s = .next (t (taken s (reqOf m)) (reqOf m) s.outN)

end Sys2Proof.Machine
end

