-- ==== Sys2Proof/Certificates/Slice0/Obligations.lean ====
section
/-! DEFINITION. The statements for the provers, from the numbered rules of the spec. `LaneCompletes` and its like (Safety.lean) say
that an instruction answers the next state that its rule gives, for every state and operands under the stated conditions. -/

open Sys2Proof Sys2Proof.Machine

/-- IADD, ISUB, IMUL, IMULH, IMAD, IMADW, IMIN, IMAX, IABS, INEG, ISAD, IDIV, IREM and their twins: for every run whose
checks pass (decode, canvas), whose threads read their operands without trap or stall, and whose other threads can
receive a result under U = 1, the instruction answers the state in which each thread's result is committed and the
run is past its slots; every operand form and both values of U are covered. The result is the exact integer,
saturated under .SAT or wrapped to N bits; quotients and remainders truncate, and give -1 and the dividend for a
zero divisor. Follows R174, R175, R157, R57. -/
def Obligations.IntegerArithmeticCompletes : Prop :=
  (∀ f m, WithTwin (fun i => LaneCompletes i true read2
    (exact2 (fun a b => a + b)))
    (.iadd f) (.iaddTwin f m)) ∧
  (∀ f m, WithTwin (fun i => LaneCompletes i true read2
    (exact2 (fun a b => a - b)))
    (.isub f) (.isubTwin f m)) ∧
  (∀ f m, WithTwin (fun i => LaneCompletes i true read2
    (exact2 (fun a b => a * b)))
    (.imul f) (.imulTwin f m)) ∧
  (∀ f m, WithTwin (fun i => LaneCompletes i true read2
    (fun cx => exact2 (mulHigh cx.bits) cx))
    (.imulh f) (.imulhTwin f m)) ∧
  (∀ f m, WithTwin (fun i => LaneCompletes i true read3
    (exact3 (fun a b d => a * b + d)))
    (.imad f) (.imadTwin f m)) ∧
  (∀ f m, WithTwin (fun i => LaneCompletes i true (fun s cx tid => do
      let a ← readA s cx tid false
      let b ← readB s cx tid false
      let d ← readD s cx tid true
      pure (a, b, d))
    (fun cx _ g =>
      let v (n x : Nat) : Int := if cx.sgn then sext n x else (x : Int)
      out64 (narrow cx.m.sat cx.sgn 64 (v 32 g.val.1 * v 32 g.val.2.1 + v 64 g.val.2.2))))
    (.imadw f) (.imadwTwin f m)) ∧
  (∀ f m, WithTwin (fun i => LaneCompletes i true read2
    (exact2 min))
    (.imin f) (.iminTwin f m)) ∧
  (∀ f m, WithTwin (fun i => LaneCompletes i true read2
    (exact2 max))
    (.imax f) (.imaxTwin f m)) ∧
  (∀ f m, WithTwin (fun i => LaneCompletes i true read1
    (exact1 (fun a => (a.natAbs : Int))))
    (.iabs f) (.iabsTwin f m)) ∧
  (∀ f m, WithTwin (fun i => LaneCompletes i true read1
    (exact1 (fun a => -a)))
    (.ineg f) (.inegTwin f m)) ∧
  (∀ f m, WithTwin (fun i => LaneCompletes i true read3
    (exact3 (fun a b d => d + ((a - b).natAbs : Int))))
    (.isad f) (.isadTwin f m)) ∧
  (∀ f m, WithTwin (fun i => LaneCompletes i true read2
    (quotient2 (fun a b => if b = 0 then -1 else a.tdiv b)))
    (.idiv f) (.idivTwin f m)) ∧
  (∀ f m, WithTwin (fun i => LaneCompletes i true read2
    (quotient2 (fun a b => if b = 0 then a else a.tmod b)))
    (.irem f) (.iremTwin f m))

/-- ISETP, ISEL, LEA, SHL, SHR, SAR, ROTL, IAND, IOR, IXOR, INOT, BFE, BFI, POPC, CLZ, BREV, PRMT and their twins: for
every run whose checks pass (decode, canvas), whose threads read their operands without trap or stall, and whose
other threads can receive a result under U = 1, the instruction answers the state in which each thread's result is
committed and the run is past its slots; every operand form and both values of U are covered. The result is the one
of the entry. Follows R176, R177, R178, R179, R180, R181. -/
def Obligations.IntegerBitsComplete : Prop :=
  (∀ f m, WithTwin (fun i => LaneCompletes i false read2
    (fun cx _ g =>
      { preds := [(cx.f.d.toNat % 8, icond (cx.f.d.toNat / 8 % 8) (cx.val g.val.1) (cx.val g.val.2))] }))
    (.isetp f) (.isetpTwin f m)) ∧
  (∀ f m, WithTwin (fun i => LaneCompletes i true (fun s cx tid => do
      let w ← get
      let o := if cx.m.lit then 0 else cx.opt
      let x ← read2 s cx tid
      pure (x, pred w.th (o % 8) != bitOf o 3))
    (fun cx _ g => outN cx (if g.val.2 then g.val.1.1 else g.val.1.2)))
    (.isel f) (.iselTwin f m)) ∧
  (∀ f m, WithTwin (fun i => LaneCompletes i true (fun s cx tid => do
      let a ← readA s cx tid true
      let b ← readB s cx tid false
      pure (a, b))
    (fun cx _ g =>
      let o := if cx.m.lit then 0 else cx.opt
      let e : Int := if bitOf o 3 then (g.val.2 : Int) else sext 32 g.val.2
      out64 (wrapN 64 ((g.val.1 : Int) + e * (2 ^ (o % 8) : Nat)))))
    (.lea f) (.leaTwin f m)) ∧
  (∀ f m, WithTwin (fun i => LaneCompletes i true readShift
    (pattern2 (fun cx a c => if cx.bits ≤ c then 0 else a * 2 ^ c % 2 ^ cx.bits)))
    (.shl f) (.shlTwin f m)) ∧
  (∀ f m, WithTwin (fun i => LaneCompletes i true readShift
    (pattern2 (fun cx a c => if cx.bits ≤ c then 0 else a / 2 ^ c)))
    (.shr f) (.shrTwin f m)) ∧
  (∀ f m, WithTwin (fun i => LaneCompletes i true readShift
    (pattern2 (fun cx a c => wrapN cx.bits ((sext cx.bits a) / (2 ^ min c cx.bits : Nat)))))
    (.sar f) (.sarTwin f m)) ∧
  (∀ f m, WithTwin (fun i => LaneCompletes i true readShift
    (pattern2 (fun cx => rotlN cx.bits)))
    (.rotl f) (.rotlTwin f m)) ∧
  (∀ f m, WithTwin (fun i => LaneCompletes i true read2
    (pattern2 (fun _ => Nat.land)))
    (.iand f) (.iandTwin f m)) ∧
  (∀ f m, WithTwin (fun i => LaneCompletes i true read2
    (pattern2 (fun _ => Nat.lor)))
    (.ior f) (.iorTwin f m)) ∧
  (∀ f m, WithTwin (fun i => LaneCompletes i true read2
    (pattern2 (fun _ => Nat.xor)))
    (.ixor f) (.ixorTwin f m)) ∧
  (∀ f m, WithTwin (fun i => LaneCompletes i true read1
    (fun cx _ g => outN cx (2 ^ cx.bits - 1 - g.val)))
    (.inot f) (.inotTwin f m)) ∧
  (∀ f m, WithTwin (fun i => LaneCompletes i true readShift
    (pattern2 (fun cx => bfe cx.sgn cx.bits)))
    (.bfe f) (.bfeTwin f m)) ∧
  (∀ f m, WithTwin (fun i => LaneCompletes i true (fun s cx tid => do
      let a ← readA s cx tid cx.wide
      let b ← readB s cx tid false
      let d ← readD s cx tid cx.wide
      pure (a, b, d))
    (fun cx _ g => outN cx (bfi cx.bits g.val.1 g.val.2.1 g.val.2.2)))
    (.bfi f) (.bfiTwin f m)) ∧
  (∀ f m, WithTwin (fun i => LaneCompletes i true read1
    (fun cx _ g => out32 (popc cx.bits g.val)))
    (.popc f) (.popcTwin f m)) ∧
  (∀ f m, WithTwin (fun i => LaneCompletes i true read1
    (fun cx _ g => out32 (clz cx.bits g.val)))
    (.clz f) (.clzTwin f m)) ∧
  (∀ f m, WithTwin (fun i => LaneCompletes i true read1
    (fun cx _ g => outN cx (brev cx.bits g.val)))
    (.brev f) (.brevTwin f m)) ∧
  (∀ f m, WithTwin (fun i => LaneCompletes i true read3
    (fun _ _ g => out32 (prmt g.val.1 g.val.2.1 g.val.2.2)))
    (.prmt f) (.prmtTwin f m))

/-- MOV and its twin, MOVI in both forms, MOVH, MOVREL, MOVRW, WINB, SRD for every selector, PAND, POR, PXOR, PNOT, PTOV
and VTOP: for every run whose checks pass (decode, canvas), whose threads read their operands without trap or stall,
and whose other threads can receive a result under U = 1, the instruction answers the state in which each thread's
result is committed and the run is past its slots; every operand form and both values of U are covered. MOVH
replaces the upper 14 bits of d; MOVREL reads, and MOVRW writes, the register at the exact index sum; WINB moves
each thread's own window base by 8 times the immediate; SRD gives the special register of the selector, each thread
with its own whatever U says, ARGP after the lane pipeline; the predicate instructions write the Boolean function of
their source predicates. Follows R182, R183, R63, R184, R185, R52. -/
def Obligations.MovesComplete : Prop :=
  (∀ f m, WithTwin (fun i => LaneCompletes i true read1 (fun cx _ g => outN cx g.val)) (.mov f) (.movTwin f m)) ∧
  (∀ f, LiteralCompletes (.movi f) (wrapN 32 (sext 14 f.imm.toNat))) ∧
  (∀ f w, LiteralCompletes (.moviLiteral f w) w.toNat) ∧
  (∀ f, LaneCompletes (.movh f) true (fun s cx tid => readD s cx tid false)
    (fun _ _ g => out32 (f.imm.toNat * 2 ^ 18 + g.val % 2 ^ 18))) ∧
  (∀ f, LaneCompletes (.movrel f) true (fun s cx tid => do
      let b ← readB s cx tid false
      let w ← get
      match relIndex cx w.th cx.f.a.toNat b with
      | .error e => throw e
      | .ok i => readRegs i 1) (fun _ _ g => { words := g.val })) ∧
  (∀ f, RunCompletes (.movrw f)
    (fun s cx => LaneOk s cx false (readRw s cx) movrwOut ∧
      (cx.uni = true → ∀ g ∈ gotOf s cx false (readRw s cx), ∀ t ∈ cx.fl.run, g.val.2 ∉ (thread cx.g t).pend))
    (fun s cx => laneDone s cx false (readRw s cx) movrwOut)) ∧
  (∀ f, RunCompletes (.winb f)
    (fun s cx => LaneOk s cx.each false (winbRd cx f) winbOut)
    (fun s cx => laneDone s cx.each false (winbRd cx f) winbOut)) ∧
  (∀ f, RunCompletes (.srd f)
    (fun s cx => LaneOk s cx.each true (srdRd cx f) (srdOut f)) (fun s cx => laneDone s cx.each true (srdRd cx f) (srdOut f))) ∧
  (∀ f, LaneCompletes (.pand f) false (readPreds (· && ·)) (fun cx _ g => { preds := [(cx.f.d.toNat, g.val)] })) ∧
  (∀ f, LaneCompletes (.por f) false (readPreds (· || ·)) (fun cx _ g => { preds := [(cx.f.d.toNat, g.val)] })) ∧
  (∀ f, LaneCompletes (.pxor f) false (readPreds (· != ·)) (fun cx _ g => { preds := [(cx.f.d.toNat, g.val)] })) ∧
  (∀ f, LaneCompletes (.pnot f) false (readPreds (fun a _ => !a)) (fun cx _ g => { preds := [(cx.f.d.toNat, g.val)] })) ∧
  (∀ f, LaneCompletes (.ptov f) true (fun _ cx _ => readPred cx) (fun _ _ g => out32 (if g.val then 1 else 0))) ∧
  (∀ f, LaneCompletes (.vtop f) false readA32 (fun cx _ g => { preds := [(cx.f.d.toNat, g.val != 0)] }))

/-- A register operand that passes the kernel's register count takes REG_BOUND with the first absolute index at or
beyond the count, for a representative instruction of each lane family (integer, floating point, packed, conversion,
move, group data, random stream) and for LD, ST, LDS, STS, LDA, STR, LDO, LDV and STT; a WINB that leaves the
register file takes WINDOW; LD, ST, LDS and STS take ALIGN for a misaligned address, else PAGE_FAULT with the reason
of the translation, or SCRATCH_BOUND (ILLEGAL for a remote address without its feature); SPAWN takes ILLEGAL_TARGET
for an entry that is no header; BAR, BARA, BARW take BAR_BOUND for an index at or beyond .bars, and with REJN,
REJN.CMT and CLSET in a spawned group; a branch, jump, call or return takes ILLEGAL_TARGET for a taken target that
is no header, a conditional branch also where it falls through with no clause after it, for those threads alone, and
the others go on. In all of them the trapping threads take the trap and nothing else happens. A page fault parks its
thread at its resume point with its record, and waits for Maluk. Follows R57, R63, R85, R159, R160, R161, R163,
R166, R183, R215, R218, R343. -/
def Obligations.OperandAndTargetTraps : Prop :=
  (∀ f m, WithTwin (fun i => LaneTraps i OutOfBounds) (.iadd f) (.iaddTwin f m) ∧
    WithTwin (fun i => LaneTraps i OutOfBounds) (.imul f) (.imulTwin f m) ∧
    WithTwin (fun i => LaneTraps i OutOfBounds) (.isetp f) (.isetpTwin f m) ∧
    WithTwin (fun i => LaneTraps i OutOfBounds) (.isel f) (.iselTwin f m) ∧
    WithTwin (fun i => LaneTraps i OutOfBounds) (.shl f) (.shlTwin f m) ∧
    WithTwin (fun i => LaneTraps i OutOfBounds) (.iand f) (.iandTwin f m) ∧
    WithTwin (fun i => LaneTraps i OutOfBounds) (.bfe f) (.bfeTwin f m) ∧
    WithTwin (fun i => LaneTraps i OutOfBounds) (.fadd f) (.faddTwin f m) ∧
    WithTwin (fun i => LaneTraps i OutOfBounds) (.ffma f) (.ffmaTwin f m) ∧
    WithTwin (fun i => LaneTraps i OutOfBounds) (.fsetp f) (.fsetpTwin f m) ∧
    WithTwin (fun i => LaneTraps i OutOfBounds) (.frcp f) (.frcpTwin f m) ∧
    WithTwin (fun i => LaneTraps i OutOfBounds) (.hadd2 f) (.hadd2Twin f m) ∧
    WithTwin (fun i => LaneTraps i OutOfBounds) (.hsetp2 f) (.hsetp2Twin f m) ∧
    WithTwin (fun i => LaneTraps i OutOfBounds) (.cvtf f) (.cvtfTwin f m) ∧
    WithTwin (fun i => LaneTraps i OutOfBounds) (.cvti f) (.cvtiTwin f m) ∧
    WithTwin (fun i => LaneTraps i OutOfBounds) (.pack8 f) (.pack8Twin f m) ∧
    WithTwin (fun i => LaneTraps i OutOfBounds) (.mov f) (.movTwin f m) ∧
    WithTwin (fun i => LaneTraps i OutOfBounds) (.shfl f) (.shflTwin f m) ∧
    WithTwin (fun i => LaneTraps i OutOfBounds) (.bcast f) (.bcastTwin f m) ∧
    WithTwin (fun i => LaneTraps i OutOfBounds) (.vote f) (.voteTwin f m) ∧
    WithTwin (fun i => LaneTraps i OutOfBounds) (.ballot f) (.ballotTwin f m) ∧
    WithTwin (fun i => LaneTraps i OutOfBounds) (.gred f) (.gredTwin f m) ∧
    WithTwin (fun i => LaneTraps i OutOfBounds) (.dset f) (.dsetTwin f m) ∧
    WithTwin (fun i => LaneTraps i OutOfBounds) (.dskip f) (.dskipTwin f m)) ∧
  (∀ f m, WithTwin (fun i => IssueTraps i OutOfBounds) (.ld f) (.ldTwin f m) ∧
    WithTwin (fun i => IssueTraps i OutOfBounds) (.st f) (.stTwin f m) ∧
    WithTwin (fun i => IssueTraps i OutOfBounds) (.lds f) (.ldsTwin f m) ∧
    WithTwin (fun i => IssueTraps i OutOfBounds) (.sts f) (.stsTwin f m) ∧
    WithTwin (fun i => IssueTraps i OutOfBounds) (.lda f) (.ldaTwin f m) ∧
    WithTwin (fun i => IssueTraps i OutOfBounds) (.str f) (.strTwin f m) ∧
    WithTwin (fun i => IssueTraps i OutOfBounds) (.ldo f) (.ldoTwin f m) ∧
    WithTwin (fun i => IssueTraps i OutOfBounds) (.ldv f) (.ldvTwin f m) ∧
    WithTwin (fun i => IssueTraps i OutOfBounds) (.stt f) (.sttTwin f m)) ∧
  (∀ n wb us, (boundsOf n wb us = none ↔ ∀ u ∈ us, u.code < 96 → wb + u.code + u.words ≤ n) ∧
    ∀ tr, boundsOf n wb us = some tr → ∃ u ∈ us, u.code < 96 ∧ n < wb + u.code + u.words ∧
      tr = { code := 0x04, info := max (wb + u.code) n }) ∧
  (∀ f, RunCompletes (.winb f)
    (fun _ cx => ∀ t ∈ cx.todo, let b := ((thread cx.g t).wb : Int) + 8 * sext 14 f.imm.toNat; b < 0 ∨ (cx.k.regs : Int) ≤ b)
    (fun s cx => trappedAll s cx.each (fun _ => { code := 0x0B }))) ∧
  (∀ f m, WithTwin (fun i => IssueTraps i (BadGlobal .read ldstOps id)) (.ld f) (.ldTwin f m) ∧
    WithTwin (fun i => IssueTraps i (BadGlobal .write (withValue ldstOps) (·.1))) (.st f) (.stTwin f m) ∧
    WithTwin (fun i => IssueTraps i (BadScratch ldsOps (fun v => v))) (.lds f) (.ldsTwin f m) ∧
    WithTwin (fun i => IssueTraps i (BadScratch (withValue ldsOps) (·.1))) (.sts f) (.stsTwin f m)) ∧
  (∀ s cx va n acc,
    (∀ r, translate s cx.g.core cx.ctx va acc = .error r → globalLocs s cx va n acc =
      .error { code := 0x0A, addr := va, info := if acc = .write then 1 else if acc = .fetch then 2 else 0, info2 := r }) ∧
    (∀ pa x, translate s cx.g.core cx.ctx va .write = .ok pa → argsIn s cx.ctx va n = some x →
      globalLocs s cx va n .write = .error { code := 0x0A, addr := x, info := 1, info2 := 2 })) ∧
  (∀ (s : State) cx a off n,
    let word : Nat := (if a.remote then 2 ^ 31 else 0) + a.member * 2 ^ 27 + a.resv * 2 ^ 25 + a.rot * 2 ^ 22 + wrapN 22 off
    let bad : Except Trap (List Loc) := .error { code := 0x06, addr := word }
    (cx.team = none → scratchLocs s cx a off n = bad) ∧
    (∀ k t, cx.team = some k → mfind s.teams k = some t → (a.remote = true → cx.granted 8 = true) →
      (a.resv ≠ 0 ∨ off < 0 ∨ (cx.k.scratch : Int) < off + n ∨ (a.remote = true ∧ gangMembers cx.k cx.l t.index ≤ a.member)) →
      scratchLocs s cx a off n = bad) ∧
    (∀ k t, cx.team = some k → mfind s.teams k = some t → a.remote = true → cx.granted 8 = false →
      scratchLocs s cx a off n = .error { code := 0x01 })) ∧
  (∀ f, IssueTraps (.spawn f) (fun s cx t tr => (∃ v, OpsRead s cx t (fun t => do
      let a ← readA s cx t true
      let b ← readB s cx t true
      pure (a, b)) v ∧ isHeader cx.k (BitVec.ofNat 64 v.1) = false) ∧ tr = { code := 0x02 })) ∧
  (∀ f, RunCompletes (.bar f) (fun _ cx => cx.team = none ∨ cx.k.bars ≤ f.b.toNat)
      (fun s cx => trapWhole s cx false { code := 0x05, info := f.b.toNat }) ∧
    RunCompletes (.bara f) (fun _ cx => cx.team = none ∨ cx.k.bars ≤ f.b.toNat)
      (fun s cx => trapWhole s cx false { code := 0x05, info := f.b.toNat }) ∧
    RunCompletes (.barw f) (fun _ cx => cx.team = none ∨ cx.k.bars ≤ f.b.toNat)
      (fun s cx => trapWhole s cx false { code := 0x05, info := f.b.toNat }) ∧
    RunCompletes (.rejn f) (fun _ cx => cx.team = none) (fun s cx => trapWhole s cx false { code := 0x05, info := f.a.toNat }) ∧
    RunCompletes (.rejnCmt f) (fun _ cx => cx.team = none) (fun s cx => trapWhole s cx false { code := 0x05, info := f.a.toNat }) ∧
    RunCompletes (.clset f) (fun _ cx => cx.team = none) (fun s cx => trapWhole s cx false { code := 0x05, info := f.d.toNat })) ∧
  (∀ f, BranchTraps (.bra f) f (fun _ => true) ∧ (∀ k, BranchTraps (.brcT k f) f (fun t => pred t k.toNat)) ∧
    (∀ k, BranchTraps (.brcF k f) f (fun t => !pred t k.toNat)) ∧
    ∀ n k, BranchTraps (.bre n k f) f (fun t => endFlag t n.toNat k.toNat)) ∧
  (∀ f, JumpTraps (.jmpi f) (fun _ => none) ∧ JumpTraps (.ret f) (fun _ => none) ∧
    JumpTraps (.calli f) (fun cx => some cx.f.d.toNat)) ∧
  (∀ f, RunCompletes (.call f) (fun _ cx => isHeader cx.k (branchTarget cx f) = false)
    (fun s cx => trapWhole s cx false { code := 0x02 })) ∧
  (∀ s k ctx lid gid a tid tr g, getGroup s gid = some g → tid < g.threads.length → tr.code = 0x0A → tr.deferred = false →
    let u := takeTraps s k ctx lid gid a [(tid, tr)]
    (∃ h, getGroup u gid = some h ∧
      thread h tid = { thread g tid with st := .parked (subOf s gid), pc := resumePoint a, trap := recordOf a tr }) ∧
    ∃ x ∈ u.faults, x.va = tr.addr ∧ x.reason = tr.info2 ∧ { gid := gid, tid := tid } ∈ x.threads)

/-- FADD, FSUB, FMUL, FFMA, FMIN, FMAX, FABS, FNEG, FSETP, FCLASS, FRCP, FRSQ, FSQRT, FDIV, FEXP2, FLOG2, FTANH, FSIN,
FCOS, FSIGM, FERF, FRND, FSCALE and their twins: for every run whose checks pass (decode, canvas), whose threads
read their operands without trap or stall, and whose other threads can receive a result under U = 1, the instruction
answers the state in which each thread's result is committed and the run is past its slots; every operand form and
both values of U are covered. Arithmetic forms the exact value and rounds it once under the instruction's mode;
approximations give the part's value for the operand. Follows R188, R189, R190, R191. -/
def Obligations.FloatingPointCompletes : Prop :=
  (∀ f m, WithTwin (fun i => LaneCompletes i true (readFp true false)
    (rounded32 false (fun cx a b _ => (addV cx.rnd (v32 a) (v32 b), false))))
    (.fadd f) (.faddTwin f m)) ∧
  (∀ f m, WithTwin (fun i => LaneCompletes i true (readFp true false)
    (rounded32 false (fun cx a b _ => (addV cx.rnd (v32 a) (negV (v32 b)), false))))
    (.fsub f) (.fsubTwin f m)) ∧
  (∀ f m, WithTwin (fun i => LaneCompletes i true (readFp true false)
    (rounded32 false (fun _ a b _ => (mulV (v32 a) (v32 b), false))))
    (.fmul f) (.fmulTwin f m)) ∧
  (∀ f m, WithTwin (fun i => LaneCompletes i true (readFp true true)
    (rounded32 false (fun cx a b d => (addV cx.rnd (mulV (v32 a) (v32 b)) (v32 d), false))))
    (.ffma f) (.ffmaTwin f m)) ∧
  (∀ f m, WithTwin (fun i => LaneCompletes i true readAB32
    (word2 (fun _ => minmax .f32 false)))
    (.fmin f) (.fminTwin f m)) ∧
  (∀ f m, WithTwin (fun i => LaneCompletes i true readAB32
    (word2 (fun _ => minmax .f32 true)))
    (.fmax f) (.fmaxTwin f m)) ∧
  (∀ f m, WithTwin (fun i => LaneCompletes i true readA32
    (word1 false (fun _ => fabsF .f32)))
    (.fabs f) (.fabsTwin f m)) ∧
  (∀ f m, WithTwin (fun i => LaneCompletes i true readA32
    (word1 false (fun _ => fnegF .f32)))
    (.fneg f) (.fnegTwin f m)) ∧
  (∀ f m, WithTwin (fun i => LaneCompletes i false readAB32
    (fun cx _ g =>
      { preds := [(cx.f.d.toNat % 8, fcond (cx.f.d.toNat / 8 % 8) (v32 g.val.1) (v32 g.val.2))] }))
    (.fsetp f) (.fsetpTwin f m)) ∧
  (∀ f m, WithTwin (fun i => LaneCompletes i true readA32
    (word1 false (fun _ => fclass)))
    (.fclass f) (.fclassTwin f m)) ∧
  (∀ f m, WithTwin (fun i => LaneCompletes i true readA32
    (word1 true (fun _ => rcpF .f32)))
    (.frcp f) (.frcpTwin f m)) ∧
  (∀ f m, WithTwin (fun i => LaneCompletes i true readA32
    (word1 true (fun _ => frsq)))
    (.frsq f) (.frsqTwin f m)) ∧
  (∀ f m, WithTwin (fun i => LaneCompletes i true (readFp false false)
    (rounded32 true (fun _ a _ _ => sqrtV (v32 a))))
    (.fsqrt f) (.fsqrtTwin f m)) ∧
  (∀ f m, WithTwin (fun i => LaneCompletes i true (readFp true false)
    (rounded32 true (fun _ a b _ => divV (v32 a) (v32 b))))
    (.fdiv f) (.fdivTwin f m)) ∧
  (∀ f m, WithTwin (fun i => LaneCompletes i true readA32
    (word1 true (fun _ => fexp2)))
    (.fexp2 f) (.fexp2Twin f m)) ∧
  (∀ f m, WithTwin (fun i => LaneCompletes i true readA32
    (word1 true (fun _ => flog2)))
    (.flog2 f) (.flog2Twin f m)) ∧
  (∀ f m, WithTwin (fun i => LaneCompletes i true readA32
    (word1 true (fun _ => tanhF .f32 21 4)))
    (.ftanh f) (.ftanhTwin f m)) ∧
  (∀ f m, WithTwin (fun i => LaneCompletes i true readA32
    (word1 true (fun _ => fturn false)))
    (.fsin f) (.fsinTwin f m)) ∧
  (∀ f m, WithTwin (fun i => LaneCompletes i true readA32
    (word1 true (fun _ => fturn true)))
    (.fcos f) (.fcosTwin f m)) ∧
  (∀ f m, WithTwin (fun i => LaneCompletes i true readA32
    (word1 true (fun _ => fsigm)))
    (.fsigm f) (.fsigmTwin f m)) ∧
  (∀ f m, WithTwin (fun i => LaneCompletes i true readA32
    (word1 true (fun _ => ferf)))
    (.ferf f) (.ferfTwin f m)) ∧
  (∀ f m, WithTwin (fun i => LaneCompletes i true readA32
    (word1 false (fun cx => frnd cx.rnd)))
    (.frnd f) (.frndTwin f m)) ∧
  (∀ f m, WithTwin (fun i => LaneCompletes i true (readFp true false)
    (rounded32 false (fun _ a b _ => (fscaleV a b, false))))
    (.fscale f) (.fscaleTwin f m))

/-- HADD2, HSUB2, HMUL2, HFMA2, HMIN2, HMAX2, HABS2, HSETP2, HDOT2, HTANH2, HRCP2 and their twins: for every run whose
checks pass (decode, canvas), whose threads read their operands without trap or stall, and whose other threads can
receive a result under U = 1, the instruction answers the state in which each thread's result is committed and the
run is past its slots; every operand form and both values of U are covered. Each 16-bit element is computed in the
pair's format; HDOT2 rounds the exact sum once to FP32. Follows R192, R193. -/
def Obligations.PackedPairsComplete : Prop :=
  (∀ f m, WithTwin (fun i => LaneCompletes i true (readPack false)
    (roundedPair (fun cx a b _ => addV cx.rnd a b)))
    (.hadd2 f) (.hadd2Twin f m)) ∧
  (∀ f m, WithTwin (fun i => LaneCompletes i true (readPack false)
    (roundedPair (fun cx a b _ => addV cx.rnd a (negV b))))
    (.hsub2 f) (.hsub2Twin f m)) ∧
  (∀ f m, WithTwin (fun i => LaneCompletes i true (readPack false)
    (roundedPair (fun _ a b _ => mulV a b)))
    (.hmul2 f) (.hmul2Twin f m)) ∧
  (∀ f m, WithTwin (fun i => LaneCompletes i true (readPack true)
    (roundedPair (fun cx a b d => addV cx.rnd (mulV a b) d)))
    (.hfma2 f) (.hfma2Twin f m)) ∧
  (∀ f m, WithTwin (fun i => LaneCompletes i true readAB32
    (word2 (each2 (fun cx => minmax cx.half false))))
    (.hmin2 f) (.hmin2Twin f m)) ∧
  (∀ f m, WithTwin (fun i => LaneCompletes i true readAB32
    (word2 (each2 (fun cx => minmax cx.half true))))
    (.hmax2 f) (.hmax2Twin f m)) ∧
  (∀ f m, WithTwin (fun i => LaneCompletes i true readA32
    (word1 false (each1 (fun cx => fabsF cx.half))))
    (.habs2 f) (.habs2Twin f m)) ∧
  (∀ f m, WithTwin (fun i => LaneCompletes i false readAB32
    (fun cx _ g =>
      let p := cx.f.d.toNat % 8
      let c (e : Nat → Nat) : Bool :=
        fcond (cx.f.d.toNat / 8 % 8) (fval cx.half (e g.val.1)) (fval cx.half (e g.val.2))
      { preds := [(p, c lo16), (p + 1, c hi16)] }))
    (.hsetp2 f) (.hsetp2Twin f m)) ∧
  (∀ f m, WithTwin (fun i => LaneCompletes i true (readFp true true)
    (rounded32 false (fun cx a b d =>
      let p (e : Nat → Nat) : FV := mulV (fval cx.half (e a)) (fval cx.half (e b))
      (addV cx.rnd (addV cx.rnd (p lo16) (p hi16)) (v32 d), false))))
    (.hdot2 f) (.hdot2Twin f m)) ∧
  (∀ f m, WithTwin (fun i => LaneCompletes i true readA32
    (word1 true (each1 (fun cx => tanhF cx.half 10 (if cx.ty = 0 then 9 else 10)))))
    (.htanh2 f) (.htanh2Twin f m)) ∧
  (∀ f m, WithTwin (fun i => LaneCompletes i true readA32
    (word1 true (each1 (fun cx => rcpF cx.half))))
    (.hrcp2 f) (.hrcp2Twin f m))

/-- CVTF, CVTI, CVTIF, CVTII, PACK8, UNPK8, PACK4, UNPK4, PACKDS, UNPKDS, BSCALE, CVT2 and their twins: for every run
whose checks pass (decode, canvas), whose threads read their operands without trap or stall, and whose other threads
can receive a result under U = 1, the instruction answers the state in which each thread's result is committed and
the run is past its slots; every operand form and both values of U are covered. The result is the converted value;
the nibble of PACK4 for a NaN under a scale that is no NaN is a free value of the operands (log 4), for every value
of which the statement holds. Follows R194, R195, R196. -/
def Obligations.ConversionsComplete : Prop :=
  (∀ f m, WithTwin (fun i => LaneCompletes i true (fun s cx tid => do
      let a ← readA s cx tid false
      let u ← if widens cx.ty (cx.opt % 8) then pure 0 else srWord cx
      pure (a, u))
    (fun cx _ g =>
      let src := cvtFmt (cx.opt % 8)
      out32 (roundF (cvtFmt cx.ty) (if widens cx.ty (cx.opt % 8) then 0 else cx.rnd) cx.m.sat g.val.2
        (fval src (g.val.1 % 2 ^ (magBits src + 1))))))
    (.cvtf f) (.cvtfTwin f m)) ∧
  (∀ f m, WithTwin (fun i => LaneCompletes i true readA32
    (fun cx _ g =>
      let src := cvtFmt (cx.opt % 8)
      intOut cx.ty (toInt (cvtInt cx.ty).1 (cvtInt cx.ty).2 cx.rnd (fval src (g.val % 2 ^ (magBits src + 1))))))
    (.cvti f) (.cvtiTwin f m)) ∧
  (∀ f m, WithTwin (fun i => LaneCompletes i true (fun s cx tid => do
      let a ← readA s cx tid cx.srcWide
      let u ← srWord cx
      pure (a, u))
    (fun cx _ g => out32 (roundF (cvtFmt cx.ty) cx.rnd cx.m.sat g.val.2 (ofInt false (intSrc (cx.opt % 8) g.val.1) 0))))
    (.cvtif f) (.cvtifTwin f m)) ∧
  (∀ f m, WithTwin (fun i => LaneCompletes i true (fun s cx tid => readA s cx tid cx.srcWide)
    (fun cx _ g =>
      let x := intSrc (cx.opt % 8) g.val
      intOut cx.ty (if cx.m.sat then clampInt (cvtInt cx.ty).1 (cvtInt cx.ty).2 x else x)))
    (.cvtii f) (.cvtiiTwin f m)) ∧
  (∀ f m, WithTwin (fun i => LaneCompletes i true (readPack true)
    (fun cx _ g =>
      let x := pack8Byte cx.ty cx.rnd cx.m.sat g.val.2.2.2.1 g.val.1
        + 256 * pack8Byte cx.ty cx.rnd cx.m.sat g.val.2.2.2.2 g.val.2.1
      out32 (putBits g.val.2.2.1 (16 * (cx.opt % 2)) 16 x)))
    (.pack8 f) (.pack8Twin f m)) ∧
  (∀ f m, WithTwin (fun i => LaneCompletes i true readA32
    (word1 false (fun cx a =>
      let x := a / 2 ^ (8 * (cx.opt % 4)) % 256
      roundF .f32 0 false 0 (match cx.ty with
        | 0 => fval .e4m3 x
        | 1 => fval .e5m2 x
        | 2 => ofInt false (sext 8 x) 0
        | _ => ofInt false (x : Int) 0))))
    (.unpk8 f) (.unpk8Twin f m)) ∧
  (∀ f m, WithTwin (fun i => LaneCompletes i true readAB32
    (word2 (fun cx a b =>
      let q := a / 2 ^ (4 * (cx.opt % 8)) % 16
      if cx.ty = 0 then
        (if b % 256 = 255 then nanCode .f32 else roundF .f32 0 false 0 (shiftV (fval .e2m1 q) (scaleExp (b % 256))))
      else roundF .f32 0 false 0 (ofInt false (sext 4 q - sext 32 b) 0))))
    (.unpk4 f) (.unpk4Twin f m)) ∧
  (∀ f m, WithTwin (fun i => LaneCompletes i true read3
    (fun cx _ g => out32 (putBits g.val.2.2 (8 * (cx.opt % 4)) 8 (packDsByte g.val.1 (g.val.2.1 % 256)))))
    (.packds f) (.packdsTwin f m)) ∧
  (∀ f m, WithTwin (fun i => LaneCompletes i true readAB32
    (word2 (fun cx a b => roundF .f32 0 false 0 (ds8Val (a / 2 ^ (8 * (cx.opt % 4)) % 256) (b % 256)))))
    (.unpkds f) (.unpkdsTwin f m)) ∧
  (∀ f m, WithTwin (fun i => LaneCompletes i true readA32
    (word1 false (fun cx => bscale (if cx.ty = 0 then 2 else 1))))
    (.bscale f) (.bscaleTwin f m)) ∧
  (∀ f m, WithTwin (fun i => LaneCompletes i true (fun s cx tid => do
      let a ← readA s cx tid false
      let b ← readB s cx tid false
      let u0 ← srWord cx
      let u1 ← srWord cx
      pure (a, b, u0, u1))
    (fun cx _ g =>
      out32 (pair16 (roundF cx.half cx.rnd cx.m.sat g.val.2.2.1 (v32 g.val.1))
        (roundF cx.half cx.rnd cx.m.sat g.val.2.2.2 (v32 g.val.2.1)))))
    (.cvt2 f) (.cvt2Twin f m)) ∧
  (∀ f m, WithTwin (fun i => LaneCompletes i true readPack4 pack4Out) (.pack4 f) (.pack4Twin f m))

/-- SHFL, SHFLX, BCAST, VOTE, BALLOT, FFS, GMATCH, GCOUNT, GRED, GSCAN and their twins: for every run whose checks pass
(decode, canvas), whose threads read their operands without trap or stall, and whose other threads can receive a
result under U = 1, the instruction answers the state in which each thread's result is committed and the run is past
its slots; every operand form and both values of U are covered. The result is computed from all participants' values
in ascending tid, and a register result comes after the lane pipeline. Follows R197, R198, R199, R200. -/
def Obligations.GroupDataCompletes : Prop :=
  (∀ f m, WithTwin (fun i => LaneCompletes i true (fun s cx tid => do
      let a ← readA s cx tid cx.wide
      let b ← readB s cx tid false
      let d ← readD s cx tid cx.wide
      pure (a, b, d))
    (grouped true (shuffled (fun _ b _ => b))))
    (.shfl f) (.shflTwin f m)) ∧
  (∀ f m, WithTwin (fun i => LaneCompletes i true (fun s cx tid => do
      let a ← readA s cx tid cx.wide
      let b ← readB s cx tid false
      let d ← readD s cx tid cx.wide
      pure (a, b, d))
    (grouped true (shuffled (fun t b _ => Nat.xor t b))))
    (.shflx f) (.shflxTwin f m)) ∧
  (∀ f m, WithTwin (fun i => LaneCompletes i true (fun s cx tid => do
      let a ← readA s cx tid cx.wide
      let b ← readB s cx tid false
      let d ← readD s cx tid cx.wide
      pure (a, b, d))
    (grouped true (shuffled (fun _ _ low => low))))
    (.bcast f) (.bcastTwin f m)) ∧
  (∀ f m, WithTwin (fun i => LaneCompletes i false (fun _ cx _ => readPred cx)
    (grouped false (fun cx ps _ _ =>
      { preds := [(cx.f.d.toNat, match cx.opt % 4 with
          | 0 => ps.any (·.2)
          | 1 => ps.all (·.2)
          | _ => ps.all (·.2) || !ps.any (·.2))] })))
    (.vote f) (.voteTwin f m)) ∧
  (∀ f m, WithTwin (fun i => LaneCompletes i true (fun _ cx _ => readPred cx)
    (grouped true (fun _ ps _ _ => out64 (maskOf ps id))))
    (.ballot f) (.ballotTwin f m)) ∧
  (∀ f m, WithTwin (fun i => LaneCompletes i true read1
    (grouped true (fun cx _ _ a =>
      out32 (if a = 0 then 0xFFFFFFFF else ((bitList cx.bits a).takeWhile (fun b => !b)).length))))
    (.ffs f) (.ffsTwin f m)) ∧
  (∀ f m, WithTwin (fun i => LaneCompletes i true read1
    (grouped true (fun _ ps _ a => out64 (maskOf ps (· == a)))))
    (.gmatch f) (.gmatchTwin f m)) ∧
  (∀ f m, WithTwin (fun i => LaneCompletes i true readNone
    (grouped true (fun _ ps _ _ => out32 ps.length)))
    (.gcount f) (.gcountTwin f m)) ∧
  (∀ f m, WithTwin (fun i => LaneCompletes i true read1
    (grouped true (fun cx ps _ _ =>
      outN cx ((ps.filter (fun _ => true)).foldl (fun acc p => redStep cx acc p.2) (redIdentity cx)))))
    (.gred f) (.gredTwin f m)) ∧
  (∀ f m, WithTwin (fun i => LaneCompletes i true read1
    (grouped true (fun cx ps t _ =>
      outN cx ((ps.filter (fun p => if bitOf cx.opt 3 then decide (p.1 < t) else decide (p.1 ≤ t))).foldl
        (fun acc p => redStep cx acc p.2) (redIdentity cx)))))
    (.gscan f) (.gscanTwin f m))

/-- WBIND, WUNB, WPOS, DKEY, DPOS, DSET, DSKIP, DFORK, DGET, RAND, RANDN, DINFO, DPEEK, DLOAD and their twins: for every
run whose checks pass (decode, canvas), whose threads read their operands without trap or stall, and whose other
threads can receive a result under U = 1, the instruction answers the state in which each thread's result is
committed and the run is past its slots; every operand form and both values of U are covered. WBIND binds the stream
of the block; DLOAD loads the group's descriptor from the block of the lowest-numbered thread; the others read or
change the thread's random stream. Follows R201, R203, R207, R211. -/
def Obligations.StreamsAndDrawsComplete : Prop :=
  (∀ f m, WithTwin (fun i => LaneCompletes i false (fun _ cx _ => do
      let ws ← readBlock cx.f.a.toNat 12
      liftT (bindOf ws))
    (fun cx _ g => { upd := fun t => setStream t cx.f.d.toNat { bind := some g.val } }))
    (.wbind f) (.wbindTwin f m)) ∧
  (∀ f m, WithTwin (fun i => LaneCompletes i false readNone
    (fun cx _ _ => { upd := fun t => setStream t cx.f.d.toNat {} }))
    (.wunb f) (.wunbTwin f m)) ∧
  (∀ f m, WithTwin (fun i => LaneCompletes i true (fun _ cx _ => do
      let w ← get
      match (streamReg w.th cx.f.a.toNat).bind with
      | none => trapRd { code := cILLEGAL }
      | some b => pure (posOf b))
    (fun _ _ g => out64 g.val))
    (.wpos f) (.wposTwin f m)) ∧
  (∀ f m, WithTwin (fun i => LaneCompletes i false (fun s cx tid => do
      (do let a ← readA s cx tid true; modRng (fun r => { r with key := BitVec.ofNat 64 a }))
      let w ← get
      pure (rngOf w.th))
    (fun _ _ g => { upd := setRng g.val }))
    (.dkey f) (.dkeyTwin f m)) ∧
  (∀ f m, WithTwin (fun i => LaneCompletes i false (fun s cx tid => do
      (do
        let a ← readA s cx tid true
        let b ← readB s cx tid true
        modRng (fun r => { r with ctr := BitVec.ofNat 128 (b * 2 ^ 64 + a), idx := 0 }))
      let w ← get
      pure (rngOf w.th))
    (fun _ _ g => { upd := setRng g.val }))
    (.dpos f) (.dposTwin f m)) ∧
  (∀ f m, WithTwin (fun i => LaneCompletes i false (fun s cx tid => do
      (do let ws ← readBlock cx.f.a.toNat 8; let r ← liftT (rngBlock ws); modRng (fun _ => r))
      let w ← get
      pure (rngOf w.th))
    (fun _ _ g => { upd := setRng g.val }))
    (.dset f) (.dsetTwin f m)) ∧
  (∀ f m, WithTwin (fun i => LaneCompletes i false (fun s cx tid => do
      (do let a ← readA s cx tid true; modRng (skipRng a))
      let w ← get
      pure (rngOf w.th))
    (fun _ _ g => { upd := setRng g.val }))
    (.dskip f) (.dskipTwin f m)) ∧
  (∀ f m, WithTwin (fun i => LaneCompletes i false (fun s cx tid => do
      (do let a ← readA s cx tid true; modRng (forkRng a))
      let w ← get
      pure (rngOf w.th))
    (fun _ _ g => { upd := setRng g.val }))
    (.dfork f) (.dforkTwin f m)) ∧
  (∀ f m, WithTwin (fun i => LaneCompletes i true (fun _ _ _ => do
      let w ← get
      pure (rngOf w.th))
    (fun _ _ g =>
      { words := leWords 2 g.val.key.toNat ++ leWords 4 g.val.ctr.toNat ++ [BitVec.ofNat 32 g.val.idx.toNat, 0] }))
    (.dget f) (.dgetTwin f m)) ∧
  (∀ f m, WithTwin (fun i => LaneCompletes i true (fun _ cx _ => do
      let ws ← randWords cx
      let w ← get
      pure (ws, rngOf w.th))
    (fun _ _ g => { words := g.val.1, upd := setRng g.val.2, long := false }))
    (.rand f) (.randTwin f m)) ∧
  (∀ f m, WithTwin (fun i => LaneCompletes i true (fun _ cx _ => do
      let ws ← randnWords
      let w ← get
      pure (ws, rngOf w.th))
    (fun _ _ g => { words := g.val.1, upd := setRng g.val.2, long := true }))
    (.randn f) (.randnTwin f m)) ∧
  (∀ f m, WithTwin (fun i => LaneCompletes i true (fun _ cx _ => pure (distOf cx.g cx.f.a.toNat))
    (fun _ _ g => out32 (g.val.kind % 16 + g.val.count.toNat % 2 ^ 13 * 2 ^ 16)))
    (.dinfo f) (.dinfoTwin f m)) ∧
  (∀ f m, WithTwin (fun i => LaneCompletes i true (fun s cx tid => do
      let w ← get
      let v ← drawFrom s cx tid cx.f.a.toNat (distOf cx.g cx.f.a.toNat)
      modify (fun x => { x with th := setRng (rngOf w.th) x.th })
      pure v)
    (fun _ _ g => out32 g.val))
    (.dpeek f) (.dpeekTwin f m)) ∧
  (∀ f m, WithTwin (fun i => ∀ s cx g, runOf i s = some cx → readOne s cx (distRd cx) false cx.low = .ok g →
      exec i s = .next (modGroup s cx.gid (fun gr => advance { gr with dists := mset {} gr.dists cx.f.d.toNat g.val } cx.slots)))
    (.dload f) (.dloadTwin f m))

/-- NOP, YIELD, BRA, BRC.T, BRC.F, BRE, JMPI, RET, CALL and CALLI: for every run whose checks pass, whose taken targets
are clause headers and whose other threads have a next clause, the instruction answers the state in which each
thread stands at its target or the next header, with the return address in the link pair of a call. Follows R158,
R159, R160, R161, R162. -/
def Obligations.TransfersComplete : Prop :=
  (∀ f, RunCompletes (.nop f) (fun _ _ => True) (fun s cx => modGroup s cx.gid (fun g => advance g 1))) ∧
  (∀ f, RunCompletes (.yield f) (fun _ _ => True) (fun s cx => modGroup s cx.gid (fun g => { advance g 1 with yNow := true }))) ∧
  (∀ f, BranchCompletes (.bra f) f (fun _ => true)) ∧
  (∀ k f, BranchCompletes (.brcT k f) f (fun t => pred t k.toNat)) ∧
  (∀ k f, BranchCompletes (.brcF k f) f (fun t => !pred t k.toNat)) ∧
  (∀ n k f, BranchCompletes (.bre n k f) f (fun t => endFlag t n.toNat k.toNat)) ∧
  (∀ f, RunCompletes (.jmpi f) (fun s cx => JumpOk s cx none (fun t => readA s cx t true))
    (fun s cx => jumpDone s cx none (fun t => readA s cx t true))) ∧
  (∀ f, RunCompletes (.ret f) (fun s cx => JumpOk s cx none (fun t => readA s cx t true))
    (fun s cx => jumpDone s cx none (fun t => readA s cx t true))) ∧
  (∀ f, RunCompletes (.calli f) (fun s cx => JumpOk s cx (some f.d.toNat) (fun t => readA s cx t true))
    (fun s cx => jumpDone s cx (some f.d.toNat) (fun t => readA s cx t true))) ∧
  (∀ f, RunCompletes (.call f)
    (fun s cx => isHeader cx.k (branchTarget cx f) = true ∧
      JumpOk s cx.each (some 0) (fun _ => pure (branchTarget cx f).toNat))
    (fun s cx => jumpDone s cx.each (some 0) (fun _ => pure (branchTarget cx f).toNat)))

/-- EXIT ends the run's threads; SPAWN and SVC put one operation for each thread in flight, counted on SETB, the spawns
of a run in ascending tid; BINCFG sets the timer of the core's bin, which is ready at once where the new deadline
has passed; TRAP takes the USER trap with its immediate for every thread of the run; WAITF makes the run wait for
its flags, going on at once when they are zero, where no thread has a deferred trap that the mask names. Follows
R162, R163, R165, R170, R171, R172. -/
def Obligations.ExitSpawnServiceTrapWaitComplete : Prop :=
  (∀ f, RunCompletes (.exit f) (fun _ _ => True) (fun s cx =>
    afterExit (modGroup (cx.fl.run.foldl (fun s t => exitThread s cx.gid t) s) cx.gid (fun g => endClause g [] false)) cx.gid)) ∧
  (∀ f, AsyncCompletes (.spawn f) Cx.setb (fun _ => 1) true (fun s cx tid => do
    let a ← readA s cx tid true
    let b ← readB s cx tid true
    if isHeader cx.k (BitVec.ofNat 64 a) then
      pure { kind := fun d => .spawn a (BitVec.ofNat 64 b) d, deps := relDeps s cx tid 4,
             after := fun tok s => ofExecution s cx.gid tok }
    else trapRd { code := cTARGET })) ∧
  (∀ f, RunCompletes (.bincfg f) (fun s cx => Reads s cx false (fun t => readD s cx t false)) (fun s cx =>
    let gs := gotOf s cx false (fun t => readD s cx t false)
    modGroup (gs.foldl (fun s g => setBinTimer (modThread s cx.gid g.tid (fun _ => g.work.th)) cx.g.core f.imm.toNat (g.val % 2 ^ 16))
      (touchAll s cx gs)) cx.gid (fun g => advance g 1))) ∧
  (∀ f, AsyncCompletes (.svc f) Cx.setb (fun _ => 1) true (fun s cx tid => do
    let args ← readBlock (f.d.toNat + 1) 7
    pure { kind := fun d => .service f.imm.toNat args d, deps := performed (ownStores s cx tid) })) ∧
  (∀ f, RunCompletes (.trap f) (fun _ _ => True) (fun s cx => trapWhole s cx false { code := 0, info := f.imm.toNat })) ∧
  (∀ f, RunCompletes (.waitf f)
    (fun _ cx => ∀ t ∈ cx.fl.run, takeDeferred (namedBy f.imm.toNat) (thread cx.g t).deferred = none)
    (fun s cx => wakeFlags (modGroup (modThreads { s with nextId := s.nextId + 1 } cx.gid cx.fl.run (fun _ t =>
        { t with st := .waiting (.flags f.imm.toNat cx.fl.hdr cx.fl.slot s.nextId), pc := nextHeader cx.fl.hdr (hLen cx.fl.w0) }))
      cx.gid (fun g => endClause g [] false)) cx.gid))

/-- For a run of a team's group: REJN and REJN.CMT make its threads sign the cleat in ascending tid and wait; BAR
arrives and waits, each arrival in ascending tid completing the phase that it covers, BARA arrives and goes on, BARW
waits where the thread has arrived and goes on where it has not; CLSET sets the cleat's mask, or its next mask while
the open round has a signer. Follows R167, R168, R169, R36, R37. -/
def Obligations.RejoinsAndBarriersComplete : Prop :=
  (∀ f key, RunCompletes (.rejn f)
    (fun s cx => cx.team = some key ∧ (signAll s cx key f.a.toNat false (some (.cleat f.a.toNat)) (cx.fl.run.map (fun t => (t, {}, none)))).traps = [])
    (fun s cx => modGroup (signAll s cx key f.a.toNat false (some (.cleat f.a.toNat)) (cx.fl.run.map (fun t => (t, {}, none)))).s
      cx.gid (fun g => endClause g [] false))) ∧
  (∀ f key, RunCompletes (.rejnCmt f)
    (fun s cx => cx.team = some key ∧ (signAll { s with nextId := s.nextId + 1 } cx key f.a.toNat false
      (some (.commit f.a.toNat cx.fl.hdr cx.fl.slot s.nextId)) (cx.fl.run.map (fun t => (t, {}, none)))).traps = [])
    (fun s cx => modGroup (signAll { s with nextId := s.nextId + 1 } cx key f.a.toNat false
      (some (.commit f.a.toNat cx.fl.hdr cx.fl.slot s.nextId))
      (cx.fl.run.map (fun t => (t, {}, none)))).s cx.gid (fun g => endClause g [] false))) ∧
  (∀ f key, RunCompletes (.bar f) (fun _ cx => cx.team = some key ∧ f.b.toNat < cx.k.bars) (fun s cx =>
    modGroup (cx.fl.run.foldl (fun s t =>
      barrierCheck (modThread (barrierArrive s key f.b.toNat { gid := cx.gid, tid := t }) cx.gid t
        (fun t => { t with st := .waiting (.bar f.b.toNat), pc := nextHeader cx.fl.hdr (hLen cx.fl.w0) })) key f.b.toNat) s)
      cx.gid (fun g => endClause g [] false))) ∧
  (∀ f key, RunCompletes (.bara f) (fun _ cx => cx.team = some key ∧ f.b.toNat < cx.k.bars) (fun s cx =>
    modGroup (cx.fl.run.foldl (fun s t =>
      barrierCheck (barrierArrive s key f.b.toNat { gid := cx.gid, tid := t }) key f.b.toNat) s)
      cx.gid (fun g => advance g 1))) ∧
  (∀ f key, RunCompletes (.barw f) (fun _ cx => cx.team = some key ∧ f.b.toNat < cx.k.bars) (fun s cx =>
    modGroup (cx.fl.run.foldl (fun s t =>
      if (thread cx.g t).arrived.contains f.b.toNat then
        modThread s cx.gid t (fun t => { t with st := .waiting (.bar f.b.toNat), pc := nextHeader cx.fl.hdr (hLen cx.fl.w0) })
      else modThread (barrierObserve s key f.b.toNat { gid := cx.gid, tid := t }) cx.gid t
        (fun t => { t with pc := nextHeader cx.fl.hdr (hLen cx.fl.w0) })) s) cx.gid (fun g => endClause g [] false))) ∧
  (∀ f key team, ∀ s cx g, runOf (.clset f) s = some cx → cx.team = some key → mfind s.teams key = some team →
    readOne s cx (fun t => readA s cx t false) false cx.low = .ok g →
    exec (.clset f) s = .next (modGroup (setCleat s key f.d.toNat
      (let cl := cleatOf team f.d.toNat
       if cl.sig.isSome then { cl with next := some (BitVec.ofNat 32 g.val) } else { cl with mask := BitVec.ofNat 32 g.val }))
      cx.gid (fun g => advance g 1)))

/-- LD, ST, LDS, STS, LDA, STR and their twins: for every run whose checks pass and whose threads read their operands
and addresses without trap or stall, with no flag above 63 afterwards, each thread's load or store is in flight with
the locations of its address, a load's destination is pending, the execution counts on SETA or SETB, and the run is
past its slots. Follows R214, R216, R217, R111, R128. -/
def Obligations.LoadsAndStoresComplete : Prop :=
  (∀ f m, WithTwin (fun i => AsyncCompletes i Cx.seta Cx.memWords true (fun s cx => loadReq s cx false
    (fun t => do let (a, b) ← ldstOps s cx t; ldstRd s cx t a b .read))) (.ld f) (.ldTwin f m)) ∧
  (∀ f m, WithTwin (fun i => AsyncCompletes i Cx.setb (fun _ => 1) false (fun s cx => storeReq s cx (fun _ => []) (ldstOps s cx)
    (fun t ab => ldstRd s cx t ab.1 ab.2 .write))) (.st f) (.stTwin f m)) ∧
  (∀ f m, WithTwin (fun i => AsyncCompletes i Cx.seta Cx.memWords true (fun s cx => loadReq s cx false
    (fun t => do let (a, b) ← ldsOps s cx t; scratchRd s cx a b (memBytes cx.ty)))) (.lds f) (.ldsTwin f m)) ∧
  (∀ f m, WithTwin (fun i => AsyncCompletes i Cx.setb (fun _ => 1) false (fun s cx => storeReq s cx (fun _ => []) (ldsOps s cx)
    (fun _ ab => scratchRd s cx ab.1 ab.2 (memBytes cx.ty)))) (.sts f) (.stsTwin f m)) ∧
  (∀ f m, WithTwin (fun i => AsyncCompletes i Cx.seta Cx.memWords true (fun s cx => loadReq s cx true
    (fun t => do let ab ← ldaOps s cx t; ldaAddr s cx .read ab))) (.lda f) (.ldaTwin f m)) ∧
  (∀ f m, WithTwin (fun i => AsyncCompletes i Cx.setb (fun _ => 1) false (fun s cx => storeReq s cx
    (fun t => relDeps s cx t cx.m.scope.toNat) (ldaOps s cx) (fun _ ab => ldaAddr s cx .write ab))) (.str f) (.strTwin f m))

/-- LDO, LDV, STT, PREF, FENCE and their twins: the column line's elements are loaded; the tile read, or the tile write,
is in flight with its quarters; PREF fills the cache its TYPE names where the address translates, and never traps;
FENCE makes every later access of each thread of the run wait for what its scope names. Follows R219, R220, R222,
R223, R224, R110. -/
def Obligations.TilesPrefetchFencesComplete : Prop :=
  (∀ f m, WithTwin (fun i => AsyncCompletes i Cx.seta (fun _ => 8) true (fun s cx tid => do
    let a ← readA s cx tid true
    let e := 4 / 2 ^ cx.ty
    let row := a % 1024 / 32
    if row % (32 / e) ≠ 0 ∨ a % 32 % e ≠ 0 then trapRd { code := cALIGN, addr := a }
    let base ← liftT (globalLocs s cx a 1 .read)
    touch a
    let ls := base.flatMap (fun l => match l with
      | .g pa => (List.range (32 / e)).flatMap (fun i => (rangeFrom (pa + 32 * i) e).map Loc.g)
      | .s _ _ => [])
    poisonRd s cx tid a ls
    pure { kind := fun d => .load ls (8 + cx.loadFmt) d, locs := ls })) (.ldo f) (.ldoTwin f m)) ∧
  (∀ f m, WithTwin (fun i => AsyncCompletes i Cx.seta (fun _ => 1) true (fun s cx tid => do
    let (va, sa) ← tileOps cx
    let gl ← liftT (globalLocs s cx va 1024 .read)
    touch va
    poisonRd s cx tid va gl
    let sl ← liftT (scratchLocs s cx (saddr sa) (saddr sa).off 1024)
    pure { kind := fun d => .tileRead (lowestPa gl) (scratchTeam s cx (saddr sa)) (BitVec.ofNat 32 sa) d, locs := gl ++ sl,
           stores := true })) (.ldv f) (.ldvTwin f m)) ∧
  (∀ f m, WithTwin (fun i => AsyncCompletes i Cx.setb (fun _ => 1) true (fun s cx tid => do
    let (va, sa) ← tileOps cx
    let sl ← liftT (scratchLocs s cx (saddr sa) (saddr sa).off 1024)
    poisonRd s cx tid sa sl
    let gl ← liftT (globalLocs s cx va 1024 .write)
    touch va
    pure { kind := fun d => .tileWrite (lowestPa gl) (scratchTeam s cx (saddr sa)) (BitVec.ofNat 32 sa) (bitOf cx.opt 0) none []
             (List.range 32) d, locs := gl ++ sl, stores := true })) (.stt f) (.sttTwin f m)) ∧
  (∀ f m, WithTwin (fun i => RunCompletes i (fun s cx => (readAll s cx (prefAddr s cx) false (runners cx)).stall = none)
    (fun s cx => modGroup ((gotRun s cx (prefAddr s cx)).foldl (fun s g => prefetch
      (modThread s cx.gid g.tid (fun _ => g.work.th)) cx g.val) s) cx.gid (fun g => advance g cx.slots))) (.pref f) (.prefTwin f m)) ∧
  (∀ f m, WithTwin (fun i => RunCompletes i (fun _ _ => True) (fun s cx =>
    modGroup (cx.fl.run.foldl (fun s' t => addFence s' { gid := cx.gid, tid := t }
      (releaseDeps s { gid := cx.gid, tid := t } cx.m.scope.toNat)) s) cx.gid (fun g => advance g cx.slots)))
    (.fence f) (.fenceTwin f m))

/-- ATOM.ADD, FADD, MIN, MAX, AND, OR, XOR, XCHG, CAS, INC, DEC, HADD2, ATOMS.ADD, CAS, XCHG and their twins: for every
run whose checks pass and whose lanes read without trap or stall, with no flag above 63 afterwards, the lanes that
name one location go in one request, each lane's destination is pending, and the run is past its slots. Follows
R225, R97, R128. -/
def Obligations.AtomicsComplete : Prop :=
  (∀ f m, WithTwin (fun i => AtomCompletes i false false) (.atomAdd f) (.atomAddTwin f m)) ∧
  (∀ f m, WithTwin (fun i => AtomCompletes i false false) (.atomFadd f) (.atomFaddTwin f m)) ∧
  (∀ f m, WithTwin (fun i => AtomCompletes i false false) (.atomMin f) (.atomMinTwin f m)) ∧
  (∀ f m, WithTwin (fun i => AtomCompletes i false false) (.atomMax f) (.atomMaxTwin f m)) ∧
  (∀ f m, WithTwin (fun i => AtomCompletes i false false) (.atomAnd f) (.atomAndTwin f m)) ∧
  (∀ f m, WithTwin (fun i => AtomCompletes i false false) (.atomOr f) (.atomOrTwin f m)) ∧
  (∀ f m, WithTwin (fun i => AtomCompletes i false false) (.atomXor f) (.atomXorTwin f m)) ∧
  (∀ f m, WithTwin (fun i => AtomCompletes i false false) (.atomXchg f) (.atomXchgTwin f m)) ∧
  (∀ f m, WithTwin (fun i => AtomCompletes i false true) (.atomCas f) (.atomCasTwin f m)) ∧
  (∀ f m, WithTwin (fun i => AtomCompletes i false false) (.atomInc f) (.atomIncTwin f m)) ∧
  (∀ f m, WithTwin (fun i => AtomCompletes i false false) (.atomDec f) (.atomDecTwin f m)) ∧
  (∀ f m, WithTwin (fun i => AtomCompletes i false false) (.atomHadd2 f) (.atomHadd2Twin f m)) ∧
  (∀ f m, WithTwin (fun i => AtomCompletes i true false) (.atomsAdd f) (.atomsAddTwin f m)) ∧
  (∀ f m, WithTwin (fun i => AtomCompletes i true true) (.atomsCas f) (.atomsCasTwin f m)) ∧
  (∀ f m, WithTwin (fun i => AtomCompletes i true false) (.atomsXchg f) (.atomsXchgTwin f m))

/-- SEMINC, SEMSET, SEMRD, SEMWAIT and their twins: for every run whose checks pass and whose threads read their
operands without trap or stall, the increment, set or read of the named core's semaphore is in flight, in the order
of the thread's operations on that semaphore; SEMWAIT moves each thread to the next header, READY where the value
has reached its threshold and waiting where it has not. Follows R228, R98, R120. -/
def Obligations.SemaphoresComplete : Prop :=
  (∀ f m, WithTwin (fun i => AsyncCompletes i Cx.setb (fun _ => 1) false (fun s cx tid => do
    let w ← readA s cx tid false
    let b ← readLate (readB s cx tid false)
    let (core, i) ← liftT (semTarget cx.g.core w)
    pure { kind := fun _ => .semInc core cx.ctx i (BitVec.ofNat 32 (b.getD 0)) false,
           deps := semRelease s cx tid core i ++ performed (semDeps s cx tid core i), after := fun tok s => ofExecution s cx.gid tok }))
    (.seminc f) (.semincTwin f m)) ∧
  (∀ f m, WithTwin (fun i => AsyncCompletes i Cx.setb (fun _ => 1) false (fun s cx tid => do
    let w ← readA s cx tid false
    let b ← readLate (readB s cx tid false)
    let (core, i) ← liftT (semTarget cx.g.core w)
    pure { kind := fun _ => .semInc core cx.ctx i (BitVec.ofNat 32 (b.getD 0)) true,
           deps := semRelease s cx tid core i ++ performed (semDeps s cx tid core i), after := fun tok s => ofExecution s cx.gid tok }))
    (.semset f) (.semsetTwin f m)) ∧
  (∀ f m, WithTwin (fun i => AsyncCompletes i Cx.seta (fun _ => 1) true (fun s cx tid => do
    let w ← readA s cx tid false
    let i ← liftT (ownSem cx.g.core w)
    pure { kind := fun d => .semRead cx.g.core cx.ctx i d, deps := performed (semDeps s cx tid cx.g.core i),
           after := fun tok s => ofExecution s cx.gid tok, acquire := true }))
    (.semrd f) (.semrdTwin f m)) ∧
  (∀ f m, WithTwin (fun i => RunCompletes i (fun s cx => RunReads s cx (semWaitRd s cx)) semWaitDone) (.semwait f) (.semwaitTwin f m))

/-- TGPOST, TGINIT, TGLINK, TGWAIT, CPST and their twins: for every run whose checks pass and whose threads read their
operands, with records aligned, translated and not poisoned, the post, the record's store (with dispatch under .go)
or the link is in flight; TGWAIT makes each thread wait for its record, going on at once where it is posted; CPST
gives the number of the group's copies that have not completed. Follows R243, R246, R247, R248, R250. -/
def Obligations.TaskGraphCompletes : Prop :=
  (∀ f m, WithTwin (fun i => AsyncCompletes i Cx.setb (fun _ => 1) false (fun s cx tid => do
    let va ← readA s cx tid true
    alignRd va va 128
    let ls ← recordRd s cx va .write
    poisonRd s cx tid va ls
    pure { kind := fun _ => .post va ls, locs := ls, stores := true, deps := relDeps s cx tid 4 }))
    (.tgpost f) (.tgpostTwin f m)) ∧
  (∀ f m, WithTwin (fun i => AsyncCompletes i Cx.setb (fun _ => 1) false (fun s cx _ => do
    let ws ← readBlock cx.f.a.toNat 10
    let b := initOf ws
    if b.tier = 1 ∧ !cx.granted 6 then trapRd { code := cILLEGAL }
    complGranted cx b.compl
    if initBad b then trapRd { code := cFIELD }
    alignRd b.va b.va 128
    let okEntry : Bool := match b.tier with
      | 0 => isHeader cx.k (BitVec.ofNat 64 b.entry)
      | 1 => decide (b.entry < cx.k.routines.length)
      | _ => true
    if !okEntry then trapRd { code := cTARGET }
    let ls ← recordRd s cx b.va .write
    let parts := pieces 32 (ls.zip (initBytes cx b))
    pure { kind := fun _ => if bitOf cx.opt 0 then .go b.va parts else .store parts (parts.map (fun _ => false))
           locs := ls, stores := true }))
    (.tginit f) (.tginitTwin f m)) ∧
  (∀ f m, WithTwin (fun i => AsyncCompletes i Cx.setb (fun _ => 1) true (fun s cx tid => do
    let ws ← readBlock cx.f.a.toNat 4
    let va := wordsVal (ws.take 2)
    let succ := wordsVal (ws.drop 2)
    alignRd va va 128
    alignRd succ succ 128
    let l1 ← recordRd s cx va .write
    poisonRd s cx tid va l1
    let l2 ← recordRd s cx succ .write
    poisonRd s cx tid succ l2
    pure { kind := fun d => .link va succ (l1 ++ l2) d, locs := l1 ++ l2, stores := true }))
    (.tglink f) (.tglinkTwin f m)) ∧
  (∀ f m, WithTwin (fun i => RunCompletes i (fun s cx => RunReads s cx (tgWaitRd s cx)) tgWaitDone) (.tgwait f) (.tgwaitTwin f m)) ∧
  (∀ f m, WithTwin (fun i => RunCompletes i (fun s cx => LaneOk s cx true (fun _ => pure ()) (cpstOut s cx))
    (fun s cx => laneDone s cx true (fun _ => pure ()) (cpstOut s cx))) (.cpst f) (.cpstTwin f m))

/-- COPY, COPYS, COPYM, COPYR and their twins: for every run whose checks pass, whose threads read a block and, for the
list forms, a destination list that pass the checks of the copy record, on a core with room for the copies, each
thread's copy is in flight with its elements and completion word, counted on SETB, its destination register pending.
Follows R232, R235, R236, R242. -/
def Obligations.CopiesComplete : Prop :=
  (∀ f m, WithTwin (fun i => CopyCompletes i (fun s cx t => do
    let ws ← readBlock cx.f.a.toNat 24
    let w ← readLate (readB s cx t false)
    copyReq s cx t (layoutOf ws) false false [(layoutOf ws).dst] false (w.getD 0) none false)) (.copy f) (.copyTwin f m)) ∧
  (∀ f m, WithTwin (fun i => CopyCompletes i (fun s cx t => do
    let ws ← readBlock cx.f.a.toNat 6
    let n := (ws.getD 4 0).toNat
    let l := linearOf ws (bitOf cx.opt 0) (bitOf cx.opt 1)
    copyReq s cx t l (decide (n < 4 ∨ 16777216 < n)) (n % 4 != 0) [l.dst] false (ws.getD 5 0).toNat none false))
    (.copys f) (.copysTwin f m)) ∧
  (∀ f m, WithTwin (fun i => CopyCompletes i (copyListRd (fun _ => none) (fun _ => 0))) (.copym f) (.copymTwin f m)) ∧
  (∀ f m, WithTwin (fun i => CopyCompletes i (copyListRd (fun cx => some (bitsOf cx.opt 3 1, cx.ty))
    (fun cx => if cx.ty = 1 ∨ cx.ty = 2 then 2 else 4))) (.copyr f) (.copyrTwin f m))

/-- MMA, MMAQ, MMAS, JOIN, NORM and their twins, for a run of a team's group whose threads' operand blocks, formats and
descriptors pass the checks and do not diverge: each thread signs the cleat that field B names with its operands,
the round issues when it is covered, the canvas price is charged, and the run is past its slots. Follows R34, R35,
R255, R274, R279, R280. -/
def Obligations.EngineCallsComplete : Prop :=
  (∀ f m, WithTwin (fun i => CallCompletes i (fun cx s => mmaSig s cx)) (.mma f) (.mmaTwin f m)) ∧
  (∀ f m, WithTwin (fun i => CallCompletes i (fun cx s => mmaSig s cx)) (.mmaq f) (.mmaqTwin f m)) ∧
  (∀ f m, WithTwin (fun i => CallCompletes i (fun cx s => mmaSig s cx)) (.mmas f) (.mmasTwin f m)) ∧
  (∀ f m, WithTwin (fun i => CallCompletes i (fun cx s => joinSig s cx)) (.join f) (.joinTwin f m)) ∧
  (∀ f m, WithTwin (fun i => CallCompletes i (fun cx s => normSig s cx)) (.norm f) (.normTwin f m))

/-- PCFG, PINS, PCNT, PLUP, PRD, PDRN, PCLR, PDEL and their twins, for a run of a team's group whose threads read their
operands and whose region is enabled: each thread's operation on the team's pocket table is in flight, in the order
of the pocket unit, with its result's destination pending and its count on SETA or SETB. Follows R261, R263, R264,
R265, R266, R267, R268. -/
def Obligations.PocketInstructionsComplete : Prop :=
  (∀ f m, WithTwin (fun i => TeamCompletes i Cx.setb (fun _ => 1) false (fun s cx key t => do
    let a ← readA s cx t false
    let w : W32 := BitVec.ofNat 32 a
    if !cfgOk w cx.k.coarse cx.k.fine then trapRd { code := cFIELD }
    pure { pocketReq key (fun _ => .cfg w) [] with
      prep := fun s k => (modTeam s key (fun t => { t with cfgNew := w }), k) }))
    (.pcfg f) (.pcfgTwin f m)) ∧
  (∀ f m, WithTwin (fun i => TeamCompletes i Cx.setb (fun _ => 1) false (fun s cx key t => do
    let k ← readLate (readA s cx t true)
    let v ← readLate (readB s cx t false)
    regionRd s cx false
    pure (pocketReq key (fun _ => .add (k.getD 0) (BitVec.ofNat 32 (v.getD 0)) false) [])))
    (.pins f) (.pinsTwin f m)) ∧
  (∀ f m, WithTwin (fun i => TeamCompletes i Cx.setb (fun _ => 1) false (fun s cx key t => do
    let k ← readLate (readA s cx t true)
    let v ← readLate (readB s cx t false)
    regionRd s cx false
    pure (pocketReq key (fun _ => .add (k.getD 0) (BitVec.ofNat 32 (v.getD 0)) true) [])))
    (.pcnt f) (.pcntTwin f m)) ∧
  (∀ f m, WithTwin (fun i => TeamCompletes i Cx.seta (fun _ => 1) true (fun s cx key t => do
    let k ← readLate (readA s cx t true)
    let b ← readLate (readB s cx t false)
    let k := k.getD 0
    let b := b.getD 0
    let coarse := bitOf cx.opt 0
    regionRd s cx coarse
    if coarse ∧ b / 2 ^ 10 ≠ 0 then trapRd { code := cFIELD }
    if poisonOpen s key then stallRd false
    if pocketPoisoned s key coarse k then trapRd { code := cPOISON }
    let who := if cx.uni then cx.fl.run else [t]
    pure (pocketReq key (fun d => .lookup k coarse b
      (if bitOf cx.opt 4 then
        { d with preds := (if cx.f.d.toNat < 96 then d.regs.map (·.1) else who).map (fun i => (i, bitsOf cx.opt 3 1)) }
      else d)) [])))
    (.plup f) (.plupTwin f m)) ∧
  (∀ f m, WithTwin (fun i => TeamCompletes i Cx.seta (fun _ => 1) true (fun s cx key t => do
    let k ← readLate (readA s cx t true)
    let b ← readLate (readB s cx t false)
    let k := k.getD 0
    let b := b.getD 0
    remotesRd cx [b]
    regionRd s cx true
    alignRd b ((saddr b).off : Int) 128
    let _ ← liftT (scratchLocs s cx (saddr b) (saddr b).off 4096)
    pure (pocketReq key (fun d => .read k (BitVec.ofNat 32 b) d) (relDeps s cx t 4))))
    (.prd f) (.prdTwin f m)) ∧
  (∀ f m, WithTwin (fun i => TeamCompletes i Cx.setb (fun _ => 1) true (fun s cx key t => do
    let ws ← readBlock cx.f.a.toNat 9
    let b ← readLate (readB s cx t false)
    let b := b.getD 0
    let fine := bitOf cx.opt 0
    let d0 := drainOf ws fine {} {}
    complGranted cx b
    regionRd s cx (!fine)
    if d0.max < 1 ∨ 16777215 < d0.max ∨ d0.hi < d0.lo then trapRd { code := cFIELD }
    match complOf b with
    | none => trapRd { code := cFIELD }
    | some w =>
      alignRd d0.keys d0.keys 8
      alignRd d0.vals d0.vals (if fine then 4 else 128)
      pure { pocketReq key (fun _ => .clear 0) (relDeps s cx t 4) with
        kind := fun d => .drain (drainOf ws fine w d) key [] }))
    (.pdrn f) (.pdrnTwin f m)) ∧
  (∀ f m, WithTwin (fun i => TeamCompletes i Cx.setb (fun _ => 1) false (fun s cx key _ => do
    let sel := bitsOf cx.opt 1 0
    if sel = 1 then regionRd s cx true
    if sel = 2 then regionRd s cx false
    pure (pocketReq key (fun _ => .clear sel) [])))
    (.pclr f) (.pclrTwin f m)) ∧
  (∀ f m, WithTwin (fun i => TeamCompletes i Cx.setb (fun _ => 1) true (fun s cx key t => do
    let k ← readLate (readA s cx t true)
    let coarse := bitOf cx.opt 0
    regionRd s cx coarse
    pure (pocketReq key (fun d => .del (k.getD 0) coarse d) [])))
    (.pdel f) (.pdelTwin f m))

/-- SMRG, SPICK, RMASK, HPUSH, HTAKE, HBUD, HDEL, HPEEK, HLEN and their twins: for every run whose checks pass and whose
threads read their operands without trap or stall, SMRG, SPICK and RMASK give the results of their rules after the
lane pipeline (where SMRG's weights leave the tile unstated it is a free value, for every value of which the
statement holds), and a heap instruction on a mapped slot has its operation in flight in the order of the heap.
Follows R283, R284, R285, R286, R287, R288. -/
def Obligations.GenerationLoopCompletes : Prop :=
  (∀ f m, WithTwin (fun i => LaneCompletes i true (fun s cx t => do
    let ws ← readBlock cx.f.a.toNat 3
    let w (i : Nat) : Nat := (ws.getD i 0).toNat
    let nt := w 2
    remotesRd cx [w 0]
    if nt < 1 ∨ 256 < nt then trapRd { code := cFIELD }
    if w 1 % 8 ≠ 0 ∨ (saddr (w 0)).off % 4 ≠ 0 then trapRd { code := cALIGN, addr := w 0 }
    let ms ← scratchWords s cx t (w 0) ((List.range nt).map (fun k => w 1 * k))
    let ss ← scratchWords s cx t (w 0) ((List.range nt).map (fun k => w 1 * k + 4))
    let u ← nextWord
    pure (smrgOf ms ss u))
    (fun _ _ g =>
      { words := [BitVec.ofNat 32 g.val.1, BitVec.ofNat 32 g.val.2.1, BitVec.ofNat 32 g.val.2.2], long := true }))
    (.smrg f) (.smrgTwin f m)) ∧
  (∀ f m, WithTwin (fun i => LaneCompletes i true (fun s cx t => do
    let resid := bitOf cx.opt 0
    let ws ← readBlock cx.f.a.toNat (if resid then 7 else 5)
    let w (i : Nat) : Nat := (ws.getD i 0).toNat
    let vn := w 1
    remotesRd cx (if resid then [w 0, w 5] else [w 0])
    if vn < 1 ∨ 128 < vn then trapRd { code := cFIELD }
    if (saddr (w 0)).off % 4 ≠ 0 then trapRd { code := cALIGN, addr := w 0 }
    if resid ∧ (saddr (w 5)).off % 4 ≠ 0 then trapRd { code := cALIGN, addr := w 5 }
    let offs := (List.range vn).map (4 * ·)
    let ls ← scratchWords s cx t (w 0) offs
    if resid then
      let qs ← scratchWords s cx t (w 5) offs
      let u ← nextWord
      let wts := (ls.zip qs).map (fun x => spickWeight x.1 (w 3) (some (w 6, x.2)))
      pure (spickOf (w 2) (fmulN (u24 (u.toNat / 2 ^ 8)) ((prefixSums wts).getLastD 0)) ls wts)
    else pure (spickOf (w 2) (w 4) ls (ls.map (fun l => spickWeight l (w 3) none))))
    (fun _ _ g =>
      { words := [BitVec.ofNat 32 g.val.1, BitVec.ofNat 32 g.val.2], long := true }))
    (.spick f) (.spickTwin f m)) ∧
  (∀ f m, WithTwin (fun i => LaneCompletes i true (fun s cx t => do
    let a ← readA s cx t true
    let b ← readB s cx t false
    pure (keepMask (thread cx.g t) a b))
    (fun _ _ g => { out32 g.val with long := true }))
    (.rmask f) (.rmaskTwin f m)) ∧
  (∀ f m, WithTwin (fun i => AsyncCompletes i Cx.setb (fun _ => 1) true (heapRd false (fun s cx t => relDeps s cx t 4) (fun s cx t => do
    let a ← readA s cx t true
    let b ← readB s cx t true
    pure (fun d => .push a (BitVec.ofNat 32 b) (BitVec.ofNat 32 (b / 2 ^ 32)) d)))) (.hpush f) (.hpushTwin f m)) ∧
  (∀ f m, WithTwin (fun i => AsyncCompletes i Cx.setb (fun _ => 2) true
    (heapRd true (fun _ _ _ => []) (fun _ _ _ => pure (fun d => .take d)))) (.htake f) (.htakeTwin f m)) ∧
  (∀ f m, WithTwin (fun i => AsyncCompletes i Cx.setb (fun _ => 1) false (heapRd false (fun _ _ _ => []) (fun s cx t => do
    let a ← readA s cx t false
    pure (fun _ => .budget (BitVec.ofNat 32 a) (bitOf cx.opt 4))))) (.hbud f) (.hbudTwin f m)) ∧
  (∀ f m, WithTwin (fun i => AsyncCompletes i Cx.setb (fun _ => 1) true (heapRd false (fun _ _ _ => []) (fun s cx t => do
    let a ← readA s cx t false
    pure (fun d => .remove (BitVec.ofNat 32 a) d)))) (.hdel f) (.hdelTwin f m)) ∧
  (∀ f m, WithTwin (fun i => AsyncCompletes i Cx.seta (fun _ => 2) true
    (heapRd false (fun _ _ _ => []) (fun _ _ _ => pure (fun d => .peek d)))) (.hpeek f) (.hpeekTwin f m)) ∧
  (∀ f m, WithTwin (fun i => AsyncCompletes i Cx.seta (fun _ => 1) true
    (heapRd false (fun _ _ _ => []) (fun _ _ _ => pure (fun d => .size d)))) (.hlen f) (.hlenTwin f m))

/-- TRET returns each thread in handler mode to the point its handler gives, and leaves handler mode; TRRD gives a word
of the thread's trap record, CYCRD the timebase, PERFRD a counter of the group, SEQRD the word of the thread's bound
sequence slot; SEQBIND binds or unbinds the slot: for every run whose checks pass and whose threads read without
trap or stall. Follows R348, R349, R358, R359, R383. -/
def Obligations.TrapReturnAndCountersComplete : Prop :=
  (∀ f, RunCompletes (.tret f) (fun _ cx => ∀ t ∈ cx.fl.run, tretTrap cx.k (cx.f.a.toNat == 1) (thread cx.g t) = none)
    (fun s cx =>
      let go := cx.fl.run.filterMap (fun t => (thread cx.g t).handler.map (fun h => (t, tretPoint cx.k (cx.f.a.toNat == 1) h)))
      modGroup (go.foldl (fun s x => modThread s cx.gid x.1 (fun t => { t with handler := none })) s) cx.gid
        (fun g => endClause g go false))) ∧
  (∀ f, RunCompletes (.trrd f) (fun s cx => LaneOk s cx.each true (fun t => pure (trapWord (thread cx.g t).trap cx.f.a.toNat)) (fun _ g => out32 g.val))
    (fun s cx => laneDone s cx.each true (fun t => pure (trapWord (thread cx.g t).trap cx.f.a.toNat)) (fun _ g => out32 g.val))) ∧
  (∀ f, LaneCompletes (.cycrd f) true (fun s cx _ => pure s.timebase.toNat)
    (fun _ _ g => out64 g.val)) ∧
  (∀ f, LaneCompletes (.perfrd f) true (fun s cx _ => pure (perfCounter cx.g cx.f.a.toNat).toNat)
    (fun _ _ g => out64 g.val)) ∧
  (∀ f, LaneCompletes (.seqbind f) false (fun s cx t => do
    match (thread cx.g t).seq with
    | some k => if tripped s k then trapRd { code := cPRIV }
    | none => pure ()
    let a ← readA s cx t false
    if a = 0xFFFFFFFF then pure none
    else if cx.c.seqCount ≤ a then trapRd { code := cFIELD }
    else pure (some (cx.c.seqBase + a)))
    (fun _ _ g => { upd := fun t => { t with seq := g.val } })) ∧
  (∀ f, RunCompletes (.seqrd f) (fun s cx => LaneOk s cx.each true (fun t => pure (match (thread cx.g t).seq with
    | some k => (seqWord s k).toNat
    | none => 0)) (fun _ g => out32 g.val))
    (fun s cx => laneDone s cx.each true (fun t => pure (match (thread cx.g t).seq with
    | some k => (seqWord s k).toNat
    | none => 0)) (fun _ g => out32 g.val)))

/-- PRIVRD, PRIVWR, TLBINV, CTXSW, CACHEFL, POISCLR, HALT and EVPOST: for every run of a privileged context whose checks
pass and whose threads read their operands without trap or stall, with no flag above 63 afterwards, each thread's
operation is in flight and the run is past its slot. Follows R358, R360, R361, R353, R356. -/
def Obligations.PrivilegedInstructionsComplete : Prop :=
  (∀ f, AsyncCompletes (.privrd f) Cx.seta (fun _ => 1) true (fun s cx t => do
    let sel ← readA s cx t false
    let code := cx.f.d.toNat
    let n := if sel = 1 then 2 else 1
    if 5 ≤ sel ∨ !pairOk (sel == 1) code then trapRd { code := cILLEGAL }
    let w ← get
    let u : Use := ⟨code, n, false, true⟩
    match boundsOf cx.k.regs w.th.wb [u] with
    | some tr => trapRd tr
    | none => if pendingUse cx.g w.th u then stallRd true else pure ()
    pure { kind := fun d => .system (.read sel d), n := some n })) ∧
  (∀ f, AsyncCompletes (.privwr f) Cx.setb (fun _ => 1) false (fun s cx t => do
    let sel ← readA s cx t false
    let v ← readB s cx t true
    if sel ≠ 1 then trapRd { code := cILLEGAL }
    pure { kind := fun _ => .system (.write sel (BitVec.ofNat 64 v)) })) ∧
  (∀ f, AsyncCompletes (.tlbinv f) Cx.setb (fun _ => 1) false (fun s cx t => do
    let va ← readA s cx t true
    let w ← readB s cx t false
    if bitsOf w 30 12 ≠ 0 then trapRd { code := cFIELD }
    pure { kind := fun _ => .system (.tlbInv va (bitsOf w 11 0) (bitOf w 31) false) })) ∧
  (∀ f, AsyncCompletes (.ctxsw f) Cx.setb (fun _ => 1) false (fun s cx t => do
    let id ← readA s cx t false
    pure { kind := fun _ => .system (if cx.f.b.toNat = 0 then .preempt id false else .resume id) })) ∧
  (∀ f, AsyncCompletes (.cachefl f) Cx.setb (fun _ => 1) false (fun s cx t => do
    let va ← readA s cx t true
    let ls ← liftT (globalLocs s cx va 1 .read)
    touch va
    let pa := match ls with
      | .g pa :: _ => pa
      | _ => 0
    pure { kind := fun _ => .system (.flush pa), locs := (rangeFrom (pa / 1024 * 1024) 1024).map .g, stores := true })) ∧
  (∀ f, AsyncCompletes (.poisclr f) Cx.setb (fun _ => 1) false (fun s cx t => do
    let va ← readA s cx t true
    alignRd va va 32
    let ls ← liftT (globalLocs s cx va 32 .write)
    touch va
    let pa := match ls with
      | .g pa :: _ => pa
      | _ => 0
    pure { kind := fun _ => .system (.clearPoison pa), locs := ls, stores := true })) ∧
  (∀ f, AsyncCompletes (.halt f) Cx.setb (fun _ => 1) false (fun s cx t => do
    let w ← readA s cx t false
    let (core, _) ← liftT (semTarget cx.g.core w)
    pure { kind := fun _ => .system (.halt core) })) ∧
  (∀ f, AsyncCompletes (.evpost f) Cx.setb (fun _ => 1) true (fun s cx t => do
    let vi ← readA s cx t false
    let code ← readB s cx t false
    if 64 ≤ vi then trapRd { code := cFIELD }
    pure { kind := fun d => .system (.event vi code d) }))

/-- SJMP, SBRZ, SBRNZ, SLOOP, SEND, SALU, SALUI, SMOVI, SFENCE, SKEY and SSEM: for every shroud thread with a routine
and every well-formed instruction (taken targets inside the routine, registers that decide or address not poisoned,
SEND with all that its release at device scope covers performed and no engine on its record's line, SFENCE and SSEM
with a scope that the VI's grant allows), the instruction answers the state its rule gives: registers written with
their poison, the branch taken or not, the record posted and the thread free. That SLOOP on n0, which reads zero and
discards the write, compares 0 - 1 with 0 and so always branches is the model's reading (log 27, DEDUCED). Follows
R297, R298, R299, R305, R307, R293. -/
def Obligations.ShroudScalarsComplete : Prop :=
  (∀ f, ShroudCompletes (.sjmp f) (fun _ h => shInside h f) (fun s h => shGoto s h f h.x)) ∧
  (∀ f, ShroudCompletes (.sbrz f) (fun _ h => spoisd h.x f.a = false ∧ (sreg h.x f.a = 0 → shInside h f))
    (fun s h => if sreg h.x f.a = 0 then shGoto s h f h.x else shNext s h h.x)) ∧
  (∀ f, ShroudCompletes (.sbrnz f) (fun _ h => spoisd h.x f.a = false ∧ (sreg h.x f.a ≠ 0 → shInside h f))
    (fun s h => if sreg h.x f.a ≠ 0 then shGoto s h f h.x else shNext s h h.x)) ∧
  (∀ f, ShroudCompletes (.sloop f) (fun _ h => spoisd h.x f.a = false ∧ (sreg h.x f.a - 1 ≠ 0 → shInside h f))
    (fun s h => if sreg h.x f.a - 1 ≠ 0 then shGoto s h f (setS h.x f.a (sreg h.x f.a - 1) false)
      else shNext s h (setS h.x f.a (sreg h.x f.a - 1) false))) ∧
  (∀ f, ShroudCompletes (.send f)
    (fun s h => depsDone s (shRelease s h 4) = true ∧ recordOwned s (shroudUnit h.k) h.x = false) (fun s h =>
    let s1 := postRecord s h.x.ctx h.x.record
    freeThread (if h.x.poisoned = 0 then s1
      else postLaunch s1 h.x.launch 0x83 (pad8 (leBytes 8 h.x.record ++ leBytes 4 h.x.poisoned))) h.k h.t)) ∧
  (∀ f, ShroudCompletes (.salu f) (fun _ _ => True) (fun s h =>
    shNext s h (setS h.x f.d (saluOp f.f.toNat (sreg h.x f.a) (sreg h.x f.b)) (spoisd h.x f.a || spoisd h.x f.b)))) ∧
  (∀ f, ShroudCompletes (.salui f) (fun _ _ => True) (fun s h =>
    shNext s h (setS h.x f.d (saluOp f.fn.toNat (sreg h.x f.a) (BitVec.ofInt 64 (sext 13 f.imm.toNat))) (spoisd h.x f.a)))) ∧
  (∀ f, ShroudCompletes (.smovi f) (fun _ _ => True) (fun s h =>
    shNext s h (setS h.x f.d (BitVec.ofInt 64 (sext 17 f.imm.toNat)) false))) ∧
  (∀ f, ShroudCompletes (.sfence f) (fun s h => scopeDenied s h f = false) (fun s h =>
    shNext s h { h.x with fence := shRelease s h (f.f.toNat % 8) })) ∧
  (∀ f, ShroudCompletes (.skey f) (fun _ h => spoisd h.x f.a = false ∧ spoisd h.x f.b = false) (fun s h =>
    shNext s h { h.x with sk := sreg h.x f.a, st := sreg h.x f.b })) ∧
  (∀ f, ShroudCompletes (.ssem f) (fun s h =>
      let w := (sreg h.x f.a).toNat
      scopeDenied s h f = false ∧ w / 2 ^ 16 = 0 ∧ bitOf w 15 = true ∧ bitsOf w 11 6 < 48 ∧ spoisd h.x f.a = false)
    (fun s h =>
      let w := (sreg h.x f.a).toNat
      shNext (addOp s
        { id := 0, who := h.who, ctx := h.x.ctx, launch := h.x.launch, core := shroudCore h.k h.t,
          deps := shRelease s h (f.f.toNat % 8),
          kind := .semInc (bitsOf w 14 12 * Config.coresPerDie + bitsOf w 11 6) h.x.ctx (bitsOf w 5 0)
            ((sreg h.x f.b).setWidth 32) false }) h h.x))

/-- VALU, VFMA, VSQRT, VDIV, VBCAST, VCMP, VSEL, VRED and VSPK: for every shroud thread with a routine and every well-
formed instruction, the instruction answers the state in which its destination holds the elementwise result, the
reduction or the packed elements with their selectors, poisoned as its sources are, and the thread stands at its
next word. Follows R302, R303, R304, R293. -/
def Obligations.ShroudVectorsComplete : Prop :=
  (∀ f, ShroudCompletes (.valu f) (fun _ _ => True) (fun s h =>
    vMap s h f.d (vpois2 h.x f) (fun k =>
      let a := vel h.x f.a k
      let b := vel h.x f.b k
      match f.f.toNat % 16 with
      | 0 => vRound f (addV (f.f.toNat / 16 % 4) (fval .f32 a) (fval .f32 b))
      | 1 => vRound f (addV (f.f.toNat / 16 % 4) (fval .f32 a) (negV (fval .f32 b)))
      | 2 => vRound f (mulV (fval .f32 a) (fval .f32 b))
      | 3 => minmax .f32 false a b
      | 4 => minmax .f32 true a b
      | 5 => fabsF .f32 a
      | _ => fnegF .f32 a))) ∧
  (∀ f, ShroudCompletes (.vfma f) (fun _ _ => True) (fun s h =>
    vMap s h f.d (Nat.lor (vpois2 h.x f) (vpoisd h.x f.d)) (fun k =>
      vRound f (addV (f.f.toNat / 16 % 4) (mulV (vfp h.x f.a k) (vfp h.x f.b k)) (vfp h.x f.d k))))) ∧
  (∀ f, ShroudCompletes (.vsqrt f) (fun _ _ => True) (fun s h =>
    vMap s h f.d (vpoisd h.x f.a) (fun k =>
      let q := sqrtV (vfp h.x f.a k)
      vRound f q.1 q.2))) ∧
  (∀ f, ShroudCompletes (.vdiv f) (fun _ _ => True) (fun s h =>
    vMap s h f.d (vpois2 h.x f) (fun k =>
      let q := divV (vfp h.x f.a k) (vfp h.x f.b k)
      vRound f q.1 q.2))) ∧
  (∀ f, ShroudCompletes (.vbcast f) (fun _ _ => True) (fun s h =>
    vMap s h f.d (if spoisd h.x f.a then 65535 else 0) (fun _ => (sreg h.x f.a).toNat))) ∧
  (∀ f, ShroudCompletes (.vcmp f) (fun _ _ => True) (fun s h =>
    vMap s h f.d (vpois2 h.x f) (fun k =>
      if fcond f.f.toNat (vfp h.x f.a k) (vfp h.x f.b k) then 0xFFFFFFFF else 0))) ∧
  (∀ f, ShroudCompletes (.vsel f) (fun _ _ => True) (fun s h =>
    vMap s h f.d (Nat.lor (vpois2 h.x f) (vpoisd h.x f.d)) (fun k =>
      canonNaN (if vel h.x f.d k ≠ 0 then vel h.x f.a k else vel h.x f.b k)))) ∧
  (∀ f, ShroudCompletes (.vred f) (fun _ _ => True) (fun s h =>
    shNext s h (setS h.x f.d (BitVec.ofNat 64 (vredOf f.f.toNat ((List.range 16).map (vel h.x f.a)))) (vpoisd h.x f.a != 0)))) ∧
  (∀ f, ShroudCompletes (.vspk f) (fun _ _ => True) (fun s h =>
    let grp (g : Nat) : List Nat := (List.range 4).map (fun i => vel h.x f.a (4 * g + i))
    let el (k : Nat) : Nat :=
      if 8 ≤ k then 0
      else
        let g := grp (k / 2)
        let ij := spkKeep g
        canonNaN (g.getD (if k % 2 = 0 then ij.1 else ij.2) 0)
    let nib (g : Nat) : Nat := let ij := spkKeep (grp g); ij.1 + 4 * ij.2
    let p := vpoisd h.x f.a
    let x := setV h.x f.d ((List.range 16).map (fun k => BitVec.ofNat 32 (el k)))
      (elemMask 8 (fun k => bitsOf p (4 * (k / 2) + 3) (4 * (k / 2)) != 0))
    shNext s h (setS x f.b (BitVec.ofNat 64 (nib 0 + 2 ^ 4 * nib 1 + 2 ^ 8 * nib 2 + 2 ^ 12 * nib 3)) (p != 0))))

/-- SLD, SST, VLD, VST: for every shroud thread with a routine, every well-formed instruction, an aligned address that
translates, an address register that is not poisoned and, for loads, nothing to wait for, for stores, no argument
block reached: a load writes its register with the bytes at the address, poisoned where their quarters are; a store
is in flight in quarters with the register's bytes, rounded as F says; the bytes are charged and the thread stands
at its next word. That a load reads its bytes within its own step (log 27), and that a page not present is made
present in that step (log 11), are the model's choices (DESIGN CHOICE). Follows R299, R300, R301, R306, R293. -/
def Obligations.ShroudMemoryCompletes : Prop :=
  (∀ f s h s' pa, routineOf (.sld f) s = some h → siAddr h.x f % 8 = 0 → spoisd h.x f.a = false →
    ShFree s h (siAddr h.x f) (List.range 8) → ShMapped s h (siAddr h.x f) 8 .read s' pa →
    exec (.sld f) s = .next
      (let s1 := chargeQuota s' h.x.ctx 8
       shNext s1 h (setS h.x f.d (BitVec.ofNat 64 (rdMem s1 pa 8)) ((rangeFrom pa 8).any (fun p => isPoisoned s1 (quarterOf p)))))) ∧
  (∀ f s h s' pa, routineOf (.sst f) s = some h → siAddr h.x f % 8 = 0 → spoisd h.x f.a = false →
    ShMapped s h (siAddr h.x f) 8 .write s' pa →
    exec (.sst f) s = .next (shStored s' h pa (leBytes 8 (sreg h.x f.d).toNat) (List.replicate 8 (spoisd h.x f.d)))) ∧
  (∀ f s h s' pa, routineOf (.vld f) s = some h →
    let fm := f.f.toNat % 4
    let col := bitOf f.f.toNat 2
    let e := vBytes fm
    let va := (sreg h.x f.a).toNat
    let offs := if col then (List.range 16).flatMap (fun i => [32 * i, 32 * i + 1]) else List.range (16 * e)
    (col = true → va % 1024 / 32 % 16 = 0) → va % (if col then 2 else 16 * e) = 0 → spoisd h.x f.a = false →
    ShFree s h va offs → ShMapped s h va (16 * e) .read s' pa →
    exec (.vld f) s = .next
      (let s1 := chargeQuota s' h.x.ctx (16 * e)
       let bs := offs.map (fun o => rdByte s1 (pa + o))
       let ps := offs.map (fun o => isPoisoned s1 (quarterOf (pa + o)))
       let widen (v : Nat) : W32 := BitVec.ofNat 32 (if fm = 0 then v else roundF .f32 0 false 0 (fval (vFmt fm) v))
       shNext s1 h (setV h.x f.d ((List.range 16).map (fun k => widen (elemAt e bs k)))
         (if ps.any id then 65535 else 0)))) ∧
  (∀ f s h s' pa, routineOf (.vst f) s = some h →
    let g := f.f.toNat
    let e := vBytes (g % 4)
    let n := if bitOf g 7 then 8 else 16
    let va := (sreg h.x f.a).toNat
    va % (n * e) = 0 → spoisd h.x f.a = false → (g / 8 % 8 = 4 → spoisd h.x f.b = false) →
    ShMapped s h va (n * e) .write s' pa →
    exec (.vst f) s = .next (shStored s' h pa
      ((List.range n).flatMap (fun k =>
        let u := if g / 8 % 8 = 4 then (coordWord h.x.sk h.x.st ((sreg h.x f.b).toNat + k)).toNat else 0
        leBytes e (roundF (vFmt (g % 4)) (g / 8 % 8) (bitOf g 6) u (fval .f32 ((vreg h.x f.d).getD k 0).toNat))))
      ((List.range n).flatMap (fun k => List.replicate e (bitOf (vpoisd h.x f.d) k)))))

/-- LOAD_COMPLETE, for an operation that is ready and whose lines no engine owns: a load delivers the bytes of its
locations as its thread sees them, converted as its type says, with their poison, fills the caches and ends (a
poisoned value that field D discards leaves POISON as a deferred trap, log 15, DEDUCED); a column load and a tile
read take the sector's bytes, and the tile is written to the scratchpad; PLUP, PRD (whose 4,096 bytes go to the
scratchpad: the pocket's, or zeros where the key is absent), SEMRD, HPEEK, HLEN and PRIVRD deliver theirs.
LONG_OP_RESULT delivers the value of a long operation. Follows R59, R96, R222, R265, R266, R287. -/
def Obligations.CompletionsOfResults : Prop :=
  (∀ id e s o locs fmt d, Acts s id o → o.kind = .load locs fmt d → anyOwned s locs = false →
    exec (.loadComplete id e) s = .next
      (let s1 := readEcc s e locs
       let s2 := if loadOrient fmt = 0 then s1 else readFresh s1 o.core locs
       let p := locs.any (seenPoison s2 o.core o.ctx o.who)
       endOp (loadFill (arrive (latePoison s2 o [d] p) d (loadValue fmt (leVal (locs.map (seenByte s2 o.core o.ctx o.who o.id)))) p)
         o fmt locs) o)) ∧
  (∀ id e s o pa team addr d, Acts s id o → o.kind = .tileRead pa team addr d →
    let gl := (rangeFrom pa 1024).map Loc.g
    anyOwned s gl = false → exec (.loadComplete id e) s = .next
      (let s1 := readFresh (readEcc s e gl) o.core gl
       let parts := pieces 32 ((tileScratch team addr).zip (gl.map (homeByte s1)))
       let s2 := ((List.range 32).zip parts).foldl (fun s2 x =>
         performPart s2 .home 0 x.2 (isPoisoned s1 (quarterOf pa + x.1)) (saddr addr.toNat).rot) s1
       endOp (arrive s2 d (version s1 (sectorOf pa)) false) o)) ∧
  (∀ id e s o team key coarse elem d r lg, Acts s id o → o.kind = .pocket (.lookup key coarse elem d) team →
    (mfind s.teams team).bind (fun t => regionOf t coarse) = some (r, lg) →
    exec (.loadComplete id e) s = .next
      (let c := combine (partsOf r lg key)
       let v := match c with
         | none => 0
         | some p => (p.val.getD (if coarse then elem else 0) 0).toNat
       endOp (arrivePreds (arrive s d v (c.any (·.pois))) d c.isSome) o)) ∧
  (∀ id e s o team key addr d r lg, Acts s id o → o.kind = .pocket (.read key addr d) team →
    (mfind s.teams team).bind (fun t => regionOf t true) = some (r, lg) →
    exec (.loadComplete id e) s = .next
      (let c := combine (partsOf r lg key)
       let bs := match c with
         | none => List.replicate 4096 0
         | some p => p.val.flatMap (fun v => leBytes 4 v.toNat)
       endOp (arrive (callWrite s team addr.toNat 0 bs (c.any (·.pois))) d
         ((if c.isSome then 1 else 0) + (if c.any (·.pois) then 2 ^ 31 else 0)) false) o)) ∧
  (∀ id e s o h d, Acts s id o → o.kind = .heap h (.peek d) →
    exec (.loadComplete id e) s = .next (endHeap (arrive s d (match (getHeap s h).ents with
      | [] => 0xFFFFFFFF
      | x :: _ => x.req.toNat + 2 ^ 32 * x.cost.toNat) false) o h)) ∧
  (∀ id e s o c x i d, Acts s id o → o.kind = .semRead c x i d →
    exec (.loadComplete id e) s = .next (endOp (arrive s d (semVal s c x i).toNat false) o)) ∧
  (∀ id e s o h d, Acts s id o → o.kind = .heap h (.size d) →
    exec (.loadComplete id e) s = .next (endHeap (arrive s d (getHeap s h).ents.length false) o h)) ∧
  (∀ id e s o n d, Acts s id o → o.kind = .system (.read n d) →
    exec (.loadComplete id e) s = .next (endOp (arrive s d (sysReg s o.core n) false) o)) ∧
  (∀ id s o d v, Acts s id o → o.kind = .long d v →
    exec (.longOpResult id) s = .next (endOp (arrive s d v false) o))

/-- WRITE_PERFORM, for an operation that is ready and a piece whose line no engine owns: the piece's bytes are written,
the store ends with its last piece, and threads that wait for a record look again; a semaphore increment saturates
at 2^32 - 1, a set replaces; a post posts its record, a POST_GRAPH that has waited for its line answers OK before it
posts, and a released record is dispatched. TGINIT's record is dispatched after its last piece when its count is
zero; a tile write reads its source with its first quarter, writes the named quarter, or under .aon the whole
sector, and delivers the version. Heap pushes, takes, removals and budgets, pocket configurations, adds, deletions
and clears, and the system operations (PRIVWR, TLBINV in its two parts, CTXSW, CACHEFL, POISCLR, HALT, EVPOST) act
as their rules say. ATOMIC_PERFORM applies the request's lanes in ascending tid to the value found, writes once, and
each lane's destination receives what its step found. That the second part of TLBINV waits for every translating
operation of its context in flight is the model's choice (log 36, DEDUCED), and so are the order of HPUSH's statuses
(log 42) and the deferred POISON of an atomic whose result is discarded (log 15, DEDUCED). Follows R87, R94, R95,
R97, R98, R223, R246, R248, R263, R287, R358, R361. -/
def Obligations.CompletionsOfWrites : Prop :=
  (∀ id part s o ps pois p, Acts s id o → o.kind = .store ps pois → ps[part]? = some p → partBlocked s o ps p = false →
    exec (.writePerform id part) s = .next
      (let s1 := leaveLines (performPart s (writerOf o) 0 p (pois.getD part false)) o (ps.eraseIdx part)
       if (ps.eraseIdx part).isEmpty then wroteEnd s1 o
       else wakeTasks (putOp s1 { o with kind := .store (ps.eraseIdx part) (pois.eraseIdx part) }))) ∧
  (∀ id part s o c x i v set, Acts s id o → o.kind = .semInc c x i v set →
    exec (.writePerform id part) s = .next (endOp (setSem s c x i (if set then v else satAdd32 (semVal s c x i) v)) o)) ∧
  (∀ id part s o va locs, Acts s id o → o.kind = .post va locs → anyOwned s locs = false →
    exec (.writePerform id part) s = .next (endOp (postRecord s o.ctx va) o)) ∧
  (∀ id part s o va s' pa, Acts s id o → o.kind = .release va → resolvePa s homeUnit o.ctx va .write = (s', .ok pa) →
    ownedLine s' pa = false → exec (.writePerform id part) s = .next (endOp (releaseHeld s' o.ctx va) o)) ∧
  (∀ id part s o vi seq va s' pa, Acts s id o → o.kind = .graph vi seq va →
    resolvePa s homeUnit o.ctx va .write = (s', .ok pa) → ownedLine s' pa = false →
    exec (.writePerform id part) s = .next (endOp (postRecord { s' with
      responses := s'.responses ++ [{ kind := 0x0D, vi := vi, seq := seq, status := 0, body := [], at_ := s'.outN }]
      outN := s'.outN + 1 } o.ctx va) o)) ∧
  (∀ id part s o va ps p, Acts s id o → o.kind = .go va ps → ps[part]? = some p → partBlocked s o ps p = false →
    exec (.writePerform id part) s = .next
      (let s1 := leaveLines (performPart s (writerOf o) 0 p false) o (ps.eraseIdx part)
       if (ps.eraseIdx part).isEmpty then wroteEnd (match resolvePa s1 homeUnit o.ctx va .write with
         | (s2, .error _) => s2
         | (s2, .ok pa) => if rdMem s2 pa 4 = 0 then dispatchRecord s2 o.ctx va pa else s2) o
       else wakeTasks (putOp s1 { o with kind := .go va (ps.eraseIdx part) }))) ∧
  (∀ id part s o pa team addr data pois left d, Acts s id o →
    o.kind = .tileWrite pa team addr false data pois left d → left.contains part = true →
    anyOwned s ((rangeFrom pa 1024).map Loc.g) = false →
    let ls := tileScratch team addr
    let bs := data.getD (ls.map (seenByte s o.core o.ctx o.who o.id))
    let ps := if data.isSome then pois
      else (pieces 32 (ls.map (fun l => (l, (0 : Byte))))).map (fun p => p.any (fun x => seenPoison s o.core o.ctx o.who x.1))
    exec (.writePerform id part) s = .next
      (let q := ((rangeFrom (pa + 32 * part) 32).map Loc.g).zip ((bs.drop (32 * part)).take 32)
       let s1 := performPart s (writerOf o) 0 q (ps.getD part false)
       let rest := left.filter (· ≠ part)
       if rest.isEmpty then wroteEnd (arrive s1 d (version s1 (sectorOf pa)) false) o
       else wakeTasks (putOp s1 { o with kind := .tileWrite pa team addr false (some bs) ps rest d }))) ∧
  (∀ id part s o pa team addr pois left d, Acts s id o → o.kind = .tileWrite pa team addr true none pois left d →
    anyOwned s ((rangeFrom pa 1024).map Loc.g) = false →
    exec (.writePerform id part) s = .next
      (let ls := tileScratch team addr
       let s1 := writeSector s (writerOf o) pa (ls.map (seenByte s o.core o.ctx o.who o.id))
         ((pieces 32 (ls.map (fun l => (l, (0 : Byte))))).map (fun p => p.any (fun x => seenPoison s o.core o.ctx o.who x.1)))
       wroteEnd (arrive s1 d (version s1 (sectorOf pa)) false) o)) ∧
  (∀ id part s o h v inc, Acts s id o → o.kind = .heap h (.budget v inc) →
    exec (.writePerform id part) s = .next (endHeap (setHeap s h { getHeap s h with
      bud := if inc then satAdd32 (getHeap s h).bud v else v }) o h)) ∧
  (∀ id part s o h dl req cost d, Acts s id o → o.kind = .heap h (.push dl req cost d) →
    exec (.writePerform id part) s = .next
      (let p := getHeap s h
       let st := if Config.heapEntries ≤ p.ents.length then 1 else if req = 0xFFFFFFFF then 2
         else if p.ents.any (fun e => e.req == req) then 3 else 0
       endHeap (arrive (setHeap s h (if st = 0 then heapInsert { deadline := dl, req := req, cost := cost } p else p)) d st false)
         o h)) ∧
  (∀ id part s o h d, Acts s id o → o.kind = .heap h (.take d) →
    exec (.writePerform id part) s = .next
      (let p := getHeap s h
       match p.ents with
       | [] => endHeap (arrive s d 0xFFFFFFFF false) o h
       | e :: r => if e.cost ≤ p.bud then
           endHeap (arrive (setHeap s h { p with ents := r, bud := p.bud - e.cost }) d (e.req.toNat + 2 ^ 32 * e.cost.toNat) false)
             o h
         else endHeap (arrive s d 0xFFFFFFFF false) o h)) ∧
  (∀ id part s o h req d, Acts s id o → o.kind = .heap h (.remove req d) →
    exec (.writePerform id part) s = .next
      (let p := getHeap s h
       endHeap (arrive (setHeap s h { p with ents := p.ents.filter (fun e => e.req != req) }) d
         (if p.ents.any (fun e => e.req == req) then 1 else 0) false) o h)) ∧
  (∀ id part s o team w, Acts s id o → o.kind = .pocket (.cfg w) team →
    exec (.writePerform id part) s = .next
      (endOp (modTeam (setRegion (setRegion s o.ctx team false {}) o.ctx team true {}) team (fun t => { t with cfg := w })) o)) ∧
  (∀ id part s o team k v count, Acts s id o → o.kind = .pocket (.add k v count) team →
    exec (.writePerform id part) s = .next
      (match addTable s o.id o.ctx team false [{ key := k, val := [v], count := count, pois := false }] with
       | .ok s1 => endOp s1 o
       | .wait s1 => s1
       | .fail s1 code a i => endOp (failOp s1 o code a i) o)) ∧
  (∀ id part s o team k coarse d r lg, Acts s id o → o.kind = .pocket (.del k coarse d) team →
    (mfind s.teams team).bind (fun t => regionOf t coarse) = some (r, lg) →
    exec (.writePerform id part) s = .next
      (endOp (arrive (setRegion s o.ctx team coarse (dropKey r lg k)) d (if (partsOf r lg k).isEmpty then 0 else 1) false) o)) ∧
  (∀ id part s o team sel t, Acts s id o → o.kind = .pocket (.clear sel) team → mfind s.teams team = some t →
    exec (.writePerform id part) s = .next
      (let s1 := if sel ≠ 2 ∧ (regionOf t true).isSome then setRegion s o.ctx team true {} else s
       endOp (if sel ≠ 1 ∧ (regionOf t false).isSome then setRegion s1 o.ctx team false {} else s1) o)) ∧
  (∀ id part s o v, Acts s id o → o.kind = .system (.write 1 v) →
    exec (.writePerform id part) s = .next (endOp { s with timebase := v } o)) ∧
  (∀ id part s o va ctx all, Acts s id o → o.kind = .system (.tlbInv va ctx all false) →
    exec (.writePerform id part) s = .next
      (let s1 := { s with
         tlb := s.tlb.filter (fun e => !(e.ctx == ctx && (all || decide (e.page ≤ va ∧ va < e.page + e.size))))
         walks := s.walks.map (fun w => if w.ctx = ctx then { w with going := false } else w) }
       putOp s1 { o with
         deps := performed ((s.ops.filter (fun p => p.ctx == ctx && p.id != o.id && translates p)).map (·.id))
         kind := .system (.tlbInv va ctx all true) })) ∧
  (∀ id part s o va ctx all, Acts s id o → o.kind = .system (.tlbInv va ctx all true) →
    exec (.writePerform id part) s = .next (endOp s o)) ∧
  (∀ id part s o ctx, Acts s id o → o.kind = .system (.preempt ctx false) →
    exec (.writePerform id part) s = .next (putOp (preemptCore s o.core ctx true) { o with kind := .system (.preempt ctx true) })) ∧
  (∀ id part s o ctx, Acts s id o → o.kind = .system (.preempt ctx true) → stopped s o.core ctx = true →
    exec (.writePerform id part) s = .next (endOp s o)) ∧
  (∀ id part s o ctx, Acts s id o → o.kind = .system (.resume ctx) → (getCore s o.core).susp.contains ctx = true →
    resumeFits s o.core ctx = true → exec (.writePerform id part) s = .next (endOp (resumeCore s o.core ctx) o)) ∧
  (∀ id part s o pa, Acts s id o → o.kind = .system (.flush pa) →
    exec (.writePerform id part) s = .next (endOp (dropCached s (fun l => l.sector == sectorOf pa)) o)) ∧
  (∀ id part s o pa, Acts s id o → o.kind = .system (.clearPoison pa) → anyOwned s [.g pa] = false →
    exec (.writePerform id part) s = .next
      (wroteEnd (performQuarter s (writerOf o) 0 ((rangeFrom pa 32).map (fun a => (a, 0))) false) o)) ∧
  (∀ id part s o core, Acts s id o → o.kind = .system (.halt core) →
    exec (.writePerform id part) s = .next (endOp (setCore s core { getCore s core with halted := true }) o)) ∧
  (∀ id part s o vi code d, Acts s id o → o.kind = .system (.event vi code d) →
    exec (.writePerform id part) s = .next
      (if Config.evqSlots ≤ s.evq.length then endOp (arrive s d 1 false) o
       else endOp (arrive { s with evq := s.evq ++ [{ vi := vi, body := pad8 (leBytes 4 code) }] } d 0 false) o)) ∧
  (∀ id s o locs op r lanes, Acts s id o → o.kind = .atomic locs op r lanes → anyOwned s locs = false →
    exec (.atomicPerform id) s = .next
      (let x := atomSteps op (sortBy (·.tid) lanes) (leVal (locs.map (homeByte s)))
       let p := locs.any (locPoisoned s)
       let s1 := readFresh (performPart s (writerOf o) 0 (locs.zip (leBytes locs.length x.1)) false) o.core locs
       wroteEnd (x.2.foldl (fun s y => arrive s y.1.dst y.2 p) (latePoison s1 o (lanes.map (·.dst)) p)) o))

/-- ENGINE_LINE_ACQUIRE takes the next line in ascending order when no engine owns it and no earlier engine of the core
goes first; COPY_ISSUE charges the cluster's byte balance and the quota, and the copy then waits for every store
that its core sees; COPY_COMPLETE and PDRN_COMPLETE write when every line is held, then perform the completion
increment and deliver the status; MMA_COMPLETE, JOIN_COMPLETE and NORM_COMPLETE perform the call and lower its
signers' counts; CMT_ROUND_CLOSE of a covered round of REJN.CMT whose signers' engine work is complete ends the
round, releases every signer whose sequence slot shows no telltale to READY with a grant for its group, and delivers
TELLTALE at its REJN.CMT to every other; ARENA_BLOCK_NOTICE gives a block, of a frame of its own (log 28). That a
copy, a drain and a call read all their sources and make all their writes in one step is the model's choice (log 8,
DESIGN CHOICE; which value a copy's overlapping element takes, log 4). Follows R37, R101, R242, R268, R278, R279,
R281, R339. -/
def Obligations.EnginesAct : Prop :=
  (∀ id s o c ls l, Acts s id o → o.kind = .copy c true ls →
    (engineLines s o).find? (fun l => !s.owned.contains (l, o.id)) = some l → s.owned.any (fun x => x.1 == l) = false →
    earlierEngine s o (engineLines s o) = false →
    exec (.engineLineAcquire id) s = .next { s with owned := s.owned ++ [(l, o.id)] }) ∧
  (∀ id s o n ps pois l, Acts s id o → o.kind = .store ps pois → o.who = .port n →
    (partLines ps).find? (fun l => !s.owned.contains (l, o.id)) = some l → s.owned.any (fun x => x.1 == l) = false →
    earlierEngine s o (partLines ps) = false →
    exec (.engineLineAcquire id) s = .next { s with owned := s.owned ++ [(l, o.id)] }) ∧
  (∀ id s o c ls, Acts s id o → o.kind = .copy c false ls →
    let k := clusterOf o.core
    let cl := getCluster s k
    0 < cl.balance → exhausted s o.ctx = false → olderCopy s o = false →
    exec (.copyIssue id) s = .next
      (let x := copyReach (chargeQuota (setCluster s k { cl with balance := cl.balance - c.charge }) o.ctx c.charge) o c
       putOp x.1 { o with deps := visibleDeps x.1 o.core o.ctx .all, kind := .copy x.2 true ls })) ∧
  (∀ id s o c ls, Acts s id o → o.kind = .copy c true ls → holdsAll s o.id (engineLines s o) = true →
    exec (.copyComplete id) s = .next
      (wroteEnd (arrive (complete (copyPerform s o c).1 o.ctx c.compl) c.dst (copyPerform s o c).2 false) o)) ∧
  (∀ id s o c t sg ranks, Acts s id o → o.kind = .call c t sg ranks → 0x140 ≤ c.opcode % 512 → c.opcode % 512 ≤ 0x142 →
    exec (.mmaComplete id) s = .next (callEnd o sg (mmaPerform s o c t sg ranks))) ∧
  (∀ id s o c t sg ranks, Acts s id o → o.kind = .call c t sg ranks → c.opcode % 512 = 0x143 →
    exec (.joinComplete id) s = .next (callEnd o sg (addTable s o.id o.ctx t false (joinAdds s t c)))) ∧
  (∀ id s o c t sg ranks, Acts s id o → o.kind = .call c t sg ranks → c.opcode % 512 = 0x14C →
    exec (.normComplete id) s = .next (endCall (normPerform s o c t) o sg)) ∧
  (∀ id s o d t ls s' es, Acts s id o → o.kind = .drain d t ls → drainPlan s o d t = (s', es, none) →
    holdsAll s' o.id (planLines es) = true → ((mfind s'.teams t).bind (fun t => regionOf t (!d.fine))).isSome = true →
    exec (.pdrnComplete id) s = .next
      (let x := drainPerform s' o d t es false
       wroteEnd (arrive (complete x.1 o.ctx d.compl) d.dst x.2 false) o)) ∧
  (∀ team cleat s t fmt reg, mfind s.teams team = some t →
    let cl := cleatOf t cleat
    cl.sig = some (0x00B, fmt, reg) → covered s t cl = true → commitBusy s t cleat cl = false →
    ∃ u, exec (.cmtRoundClose team cleat) s = .next u ∧
      (∀ v, mfind u.teams team = some v → cleatOf v cleat = { mask := cl.next.getD cl.mask }) ∧
      ∀ x ∈ cl.signers, ∀ g c hdr slot sub, getGroup s x.who.gid = some g → x.who.tid < g.threads.length →
        let th := thread g x.who.tid
        th.st = .waiting (.commit c hdr slot sub) →
        takeDeferred (fun d => d.flag == 15 || [0x140, 0x141, 0x142, 0x143, 0x14C].contains (d.opcode % 512)) th.deferred = none →
        ∃ h, getGroup u x.who.gid = some h ∧
          ((∀ k, th.seq = some k → tripped s k = false) → thread h x.who.tid = { th with st := .ready } ∧ h.grant.isSome = true) ∧
          (∀ k kern v, th.seq = some k → tripped s k = true → kernelOf s t.launch = some kern → kern.trapvec = some v →
            th.handler = none →
            let a : TrapAt := { hdr := hdr, slot := slot, opcode := 0x00B, ext := false, uniform := false, header := false }
            let tr : Trap := { code := cTELLTALE, info := k }
            thread h x.who.tid = { th with
              st := .ready, pc := BitVec.ofNat 64 (kern.text + v), trap := recordOf a tr, handler := some (handlerOf a tr) })) ∧
  (∀ s id r o c, s.notices = id :: r → findOp { s with notices := r } id = some o → mfind s.ctxs o.ctx = some c →
    c.arenaBlocks < c.arenaMax → ∀ f s', allocFrame { s with notices := r } = some (f, s') →
    exec .arenaBlockNotice s = .next
      (modRecord s' o.ctx (fun c => { c with arenaBlocks := c.arenaBlocks + 1, grown := c.grown ++ [f] })))

/-- CLAUSE_ISSUE on a core that is not halted, at a lane none of whose groups is inside a clause, when the lane chooses
a group whose clause needs no canvas or whose context's quota is positive: canvas is spent and charged, the passed
groups lose their mark, the rotation notes the group unless it used a grant, its clause begins, and it is the agent
that goes on. CANVAS_GRANT moves the head's units to its clause, share units first, when the core holds them. That
the queue takes the clauses that have become eligible in a step at that step's end, those of one step in the order
of binding, and that the group passed over keeps a mark, are the model's choices (log 10, DESIGN CHOICE); that a
grant leaves the rotation where it stands is log 34. Follows R27, R28, R126, R365, R372. -/
def Obligations.ClausesIssue : Prop :=
  (∀ core lane s gid byGrant passed g i, (getCore s core).halted = false → laneBusy s core lane = false →
    let s1 := refreshQueue s core
    choose s1 core lane = (some (gid, byGrant), passed) → getGroup s1 gid = some g → planIssue s1 g = some i →
    (0 < issueNeed i → exhausted s1 (ctxOf s1 g.launch) = false) →
    exec (.clauseIssue core lane) s = .next
      (let s2 := if issueNeed i = 0 then s1
         else chargeQuota (spendCanvas s1 core gid) (ctxOf s1 g.launch) (65536 * issueNeed i)
       let s3 := passed.foldl (fun s x => modGroup s x (fun g => { g with passOver := false })) s2
       let s4 := if byGrant then modGroup s3 gid (fun g => { g with grant := none, passOver := true }) else s3
       let s5 := if byGrant then s4 else setCore s4 core { getCore s4 core with last := mput (getCore s4 core).last lane g.bound }
       { beginClause s5 gid g i with cur := .group gid })) ∧
  (∀ core s w r, let s1 := refreshQueue s core
    let c := getCore s1 core
    c.canvas = w :: r → w.granted = none → w.need ≤ c.share + c.free →
    exec (.canvasGrant core) s = .next
      (let a := min c.share w.need
       dropClaim (setCore s1 core { c with
         share := c.share - a, free := c.free - (w.need - a), canvas := { w with granted := some (a, w.need - a) } :: r }) core))

/-- PLACEMENT_PASS takes the candidates by priority, and within one resumed contexts, members of started gangs by the
time their gang started, ready spawned groups, and one head team of each VI's queue in turn, the head being the
oldest launch with a team to place; it places the first that fits, passes over those before it, stops at a draining
one that does not fit, and goes on until none fits; a placed team holds zeroed scratchpad, empty pockets, cleats and
barriers in their start state, and its groups with every thread READY at the entry with its place in the random
stream; DRAIN_START drains those passed over for 100 us; PREEMPT suspends a context on a core; CORE_RESTART lets a
halted core issue; BIN_ENTRY places a spawn's thread in its bin and delivers the bin's number; BIN_TIMER_EXPIRY
makes a bin ready when its timer has run out; LAUNCH_END reports a launch that is over and frees its teams' storage.
The model's choices: the bin timer counts T as nanoseconds of halyard time (log 20 and log 31), the VIs' turn is
kept for each priority (log 20, DEDUCED). Follows R40, R41, R43, R163, R332, R333, R334, R335, R353, R356, R358. -/
def Obligations.SchedulerActs : Prop :=
  (∀ s, (let rank (c : Cand) : Nat := match c with
       | .resume _ _ => 0
       | .gang _ _ => 1
       | .spawn _ _ => 2
       | .head _ _ => 3
     (candidates s).Pairwise (fun a b => b.2 < a.2 ∨ (a.2 = b.2 ∧ rank a.1 ≤ rank b.1)))) ∧
  (∀ s, (s.launches.map (·.1)).Nodup →
    (candidates s).Pairwise (fun a b => ∀ i j n m la lb ka kb, a.1 = .gang i n → b.1 = .gang j m → a.2 = b.2 →
        mfind s.launches i = some la → mfind s.launches j = some lb → kernelOf s i = some ka → kernelOf s j = some kb →
        gangTime la ka.gang ≤ gangTime lb kb.gang) ∧
    (candidates s).Pairwise (fun a b => ∀ i j n m la lb, a.1 = .head i n → b.1 = .head j m → a.2 = b.2 →
        mfind s.launches i = some la → mfind s.launches j = some lb →
        let turn := mget 0 s.turnVi a.2 % 64
        (viOf s la + 64 - turn) % 64 < (viOf s lb + 64 - turn) % 64)) ∧
  (∀ s vi prio id l, queueHead s vi prio = some (id, l) → (id, l) ∈ s.launches ∧ viOf s l = vi ∧ l.priority = prio ∧
    ∀ x ∈ s.launches, viOf s x.2 = vi → x.2.priority = prio → x.2.aborted = false → x.2.ended = false → x.2.placed < x.2.teams →
      l.order ≤ x.2.order) ∧
  (∀ s prefs pre x post, candidates s = pre ++ x :: post →
    (∀ y ∈ pre, placeCand s prefs y = none ∧ s.draining.contains y.1 = false) →
    (∀ s', placeCand s prefs x = some s' → firstFit s prefs (candidates s) [] = (some (s', x.1), pre.map (·.1))) ∧
    (placeCand s prefs x = none → s.draining.contains x.1 = true →
      firstFit s prefs (candidates s) [] = (none, pre.map (·.1) ++ [x.1]))) ∧
  (∀ prefs s, powered s = true →
    let s1 := dropPassed s
    (∀ passed, firstFit s1 prefs (candidates s1) [] = (none, passed) →
      exec (.placementPass prefs) s = .next (notePassed s1 passed)) ∧
    (∀ passed s' c, firstFit s1 prefs (candidates s1) [] = (some (s', c), passed) →
      exec (.placementPass prefs) s = .next
        (let s2 := notePassed s' passed
         placeAll prefs (Config.cores * (Config.coreGroups + 1) - 1) { s2 with
           passed := s2.passed.filter (fun p => p.1 != c), draining := s2.draining.filter (· != c) }))) ∧
  (∀ s lid l k index home mask image, k.team ≤ 32 →
    let u := startTeam s lid l k index home mask image
    let key := teamKey lid index
    ∃ t, mfind u.teams key = some t ∧ t.launch = lid ∧ t.index = index ∧ t.home = home ∧ t.cluster = clusterOf home ∧
      t.image = image ∧ t.ended = false ∧ t.spilled = false ∧ (∀ p, rdScratch u key p = 0) ∧ t.spois = [] ∧ t.coarse = {} ∧
      t.fine = {} ∧ (∀ c, cleatOf t c = { mask := BitVec.ofNat 32 (2 ^ k.team - 1) }) ∧ t.barDeps = [] ∧
      t.groups.length = k.team ∧ ∀ i gid, t.groups[i]? = some gid → ∃ g, getGroup u gid = some g ∧ g.launch = lid ∧
        g.team = some key ∧ g.grp = i ∧ g.core = (if i = 0 ∨ bitOf mask i = true then home else otherCore home) ∧
        g.flight = none ∧ g.toks = [] ∧ g.threads.length = k.group ∧ ∀ tid, tid < k.group →
          let th := thread g tid
          th.st = .ready ∧ th.pc = BitVec.ofNat 64 (k.text + k.entry) ∧ th.wb = 0 ∧ th.regs = [] ∧ th.preds = 0 ∧
          th.arrived = [] ∧ th.key = l.key ∧
          th.ctr = l.pos + BitVec.ofNat 128 (((index * k.team + i) * k.group + tid) * 2 ^ 64)) ∧
  (∀ s, exec .drainStart s = .next { s with draining := s.draining ++
    (s.passed.filter (fun p => decide (p.2 + 100000 ≤ s.time) && !s.draining.contains p.1)).map (·.1) }) ∧
  (∀ core ctx s c, core < Config.cores → mfind s.ctxs ctx = some c →
    exec (.preempt core ctx) s = .next (preemptCore s core ctx false)) ∧
  (∀ core s, (∀ t, s.boot ≠ .shutdown t) →
    exec (.coreRestart core) s = .next (setCore s core { getCore s core with halted := false })) ∧
  (∀ id s o entry payload d l k i, Acts s id o → o.kind = .spawn entry payload d → mfind s.launches o.launch = some l →
    kernelOf s o.launch = some k → binFor s o.core o.launch entry = some i →
    (mget {} (getCore s o.core).bins i).ready = false → l.aborted = false →
    exec (.binEntry id) s = .next (endOp (arrive (enterBin s o.core i o.launch entry k.group payload) d i false) o)) ∧
  (∀ core bin s lid entry, let c := getCore s core
    let b := mget {} c.bins bin
    b.bound = some (lid, entry) → b.timer ≠ 0 → b.held ≠ [] → b.ready = false → b.since + b.timer ≤ s.time →
    c.susp.contains (ctxOf s lid) = false →
    exec (.binTimerExpiry core bin) s = .next (setCore s core { c with bins := mset {} c.bins bin { b with ready := true } })) ∧
  (∀ lid s l k, mfind s.launches lid = some l → l.ended = false → launchOver s lid l = true →
    let s1 := postLaunch s lid 0x80 (pad8 (leBytes 8 l.utag ++ leBytes 4 (if l.aborted then 1 else 0)))
    let s2 := modLaunch { s1 with teams := s1.teams.filter (fun t => t.2.launch != lid) } lid (fun l => { l with ended := true })
    kernelOf s2 lid = some k → exec (.launchEnd lid) s = .next (reap (dropWindows s2 l k) l.ctx))

/-- HALYARD_CYCLE, before the boundary is due, advances the time and TIMEBASE by one nanosecond and every die by one
cycle; CANVAS_CLAIM claims for a head that has waited 96 cycles; INTERVAL_BOUNDARY acts on every die and sets the
next boundary 1000 ns later; VMAIL_WRITE takes a target; VOLTAGE_MOVE_DONE ends a move whose time is over;
HALYARD_CTL_WRITE sets REEF_MIN. Follows R362, R363, R364, R366, R374, R375. -/
def Obligations.HalyardActs : Prop :=
  (∀ s, s.time < s.boundary → exec .halyardCycle s = .next
    (countWaits ((List.range Config.dies).foldl dieStep { s with time := s.time + 1, timebase := s.timebase + 1 }))) ∧
  (∀ core s w t, (getCore s core).canvas.head? = some w → w.headAt = some t → w.granted = none → t + 96 ≤ s.time →
    let d := getDie s (dieOf core)
    d.claims.any (fun c => c.core == core) = false →
    exec (.canvasClaim core) s = .next (setDie s (dieOf core) { d with claims := d.claims ++ [{ core := core, at_ := s.time }] })) ∧
  (∀ wish s, s.boundary ≤ s.time → ∃ t, exec (.intervalBoundary wish) s = .next { t with boundary := t.boundary + 1000 } ∧
    t = (List.range Config.dies).foldl (dieBoundary wish) { s with pace := paceBoundary s.pace }) ∧
  (∀ cluster target s, exec (.vmailWrite cluster target) s = .next (writeTarget s (cluster % Config.clusters) (target % 2 ^ 10))) ∧
  (∀ cluster s, let c := getCluster s cluster
    c.moving = true → c.moveAt ≤ s.time → c.pending = none →
    exec (.voltageMoveDone cluster) s = .next
      (setCluster s cluster { c with cur := c.target, moving := false, fromMv := c.target, moveAt := 0, pending := none })) ∧
  (∀ cluster s t, let c := getCluster s cluster
    c.moving = true → c.moveAt ≤ s.time → c.pending = some t →
    exec (.voltageMoveDone cluster) s = .next (writeTarget
      (setCluster s cluster { c with cur := c.target, moving := false, fromMv := c.target, moveAt := 0, pending := none })
      cluster t)) ∧
  (∀ die value s, exec (.halyardCtlWrite die value) s = .next
    (setDie s (die % Config.dies) { getDie s (die % Config.dies) with reefMin := bitsOf value 10 8 }))

/-- PAGE_FAULT_RESOLVE serves every page fault of a parked sub-group: each page is made present and its threads return
to READY, or the fault is delivered to them; PAGE_WALK starts a batch; WALK_END fills the translation units;
SHROUD_DISPATCH_DELIVER enters a held dispatch; SHROUD_ROUTINE_START starts the oldest record whose quota is
positive, with the PAYLOAD that its record holds then; ECHO, NOTE (which takes a slot of the event queue, or answers
6 when it is full), ABORT_SELF and unknown services answer with their status; Maluk's heap operations act on an
assigned heap. Follows R287, R290, R292, R343, R345, R352, R391. -/
def Obligations.MalukServesOfItsOwn : Prop :=
  (∀ sub s, exec (.pageFaultResolve sub) s = .next
      (let fs := s.faults.filter (fun f => f.sub == sub)
       let s1 := fs.foldl (fun s f =>
           if f.reason = 0 then f.threads.foldl (unparkThread sub) (makePresent s f.ctx f.va)
           else f.threads.foldl (deliverParked sub) s) { s with faults := s.faults.filter (fun f => f.sub != sub) }
       afterUnpark s1 (fs.flatMap (fun f => f.threads.map (·.gid))))) ∧
  (∀ die s w, pickWalk s die = some w →
    exec (.pageWalk die) s = .next
      (let ids := w.id :: (((s.walks.filter (fun v => v.die == die && !v.going && v.exec == w.exec && sameL3 v w)).map (·.id)).filter
         (· ≠ w.id)).take 7
       { s with walks := s.walks.map (fun v => if ids.contains v.id then { v with going := true } else v) })) ∧
  (∀ id s w c l, s.walks.find? (fun w => w.id == id && w.going) = some w →
    let s1 := { s with walks := s.walks.filter (fun v => v.id != id) }
    mfind s.ctxs w.ctx = some c → walk s1 c w.va = .ok l →
    exec (.walkEnd id) s = .next
      (let e (unit : Nat) : TlbEnt :=
         { unit := unit, ctx := w.ctx, page := l.page, size := l.size, pa := l.pa, read := l.read, write := l.write, exec := l.exec }
       let s2 := tlbFill s1 (e w.unit)
       if w.unit < Config.cores then tlbFill s2 (e (384 + w.die)) else s2)) ∧
  (∀ k s q r, let h := getShroud s k
    h.held = q :: r → h.queue.length < Config.shroudQueue →
    exec (.shroudDispatchDeliver k) s = .next (setShroud s k { h with queue := h.queue ++ [q], held := r })) ∧
  (∀ k t s q s' pa x, let h := getShroud s k
    t < 4 → k < Config.shrouds → mfind h.threads t = none → firstOf (fun q => !exhausted s q.ctx) h.queue = some q →
    resolveAt s (shroudUnit k) q.ctx (q.record + 0x10) .write (.routine k t) = (s', .ok pa) → ownedLine s' pa = false →
    startRoutine s' q (rdMem s' pa 8) = some x →
    exec (.shroudRoutineStart k t) s = .next
      { setShroud s' k { h with queue := h.queue.erase q, threads := mput h.threads t x } with cur := .shroud k t }) ∧
  (∀ id s o args d, Acts s id o → o.kind = .service 0 args d → exec (.svcEcho id) s = .next (endOp (arrive s d 0 false) o)) ∧
  (∀ id s o args d l, Acts s id o → o.kind = .service 1 args d → mfind s.launches o.launch = some l →
    exec (.svcNote id) s = .next
      (if Config.evqSlots ≤ s.evq.length then endOp (arrive s d 6 false) o
       else endOp (arrive { s with evq := s.evq ++
         [{ vi := viOf s l, endpoint := some l.endpoint, body := pad8 (args.flatMap (fun w => leBytes 4 w.toNat)) }] } d 0 false) o)) ∧
  (∀ id s o args d, Acts s id o → o.kind = .service 2 args d →
    exec (.svcAbortSelf id) s = .next (endOp (abortLaunch s o.launch) o)) ∧
  (∀ n id s o args d, Acts s id o → o.kind = .service n args d → 3 ≤ n →
    exec (.svcOtherService id) s = .next (endOp (arrive s d 1 false) o)) ∧
  (∀ heap dl req cost s, let h := getHeap s heap
    h.owner.isSome = true → h.releasing = none →
    exec (.malukHeapPush heap (.push dl req cost)) s = .next
      (setHeap s heap (heapPush (dl % 2 ^ 64) (BitVec.ofNat 32 req) (BitVec.ofNat 32 cost) h).2)) ∧
  (∀ heap v s, let h := getHeap s heap
    h.owner.isSome = true → h.releasing = none →
    exec (.malukHeapPush heap (.budget v)) s = .next (setHeap s heap { h with bud := BitVec.ofNat 32 v }))

/-- OPEN_VI, CLOSE_VI, NEGOTIATE, CREATE_CTX, DESTROY_CTX, MAP_WINDOW, UNMAP_WINDOW, LOAD_OBJECT, UNLOAD, LAUNCH, ABORT,
UNPARK and POST_GRAPH: a message whose header, length, authority and trailer Maluk accepts, whose fields are legal
and whose objects exist, has the effect of its kind, its SEQ and its credential's counter are noted, and its
response, numbered before what the request itself sends, carries OK (for NEGOTIATE within a session, RENEGOTIATE)
with the body of R390. What the rules leave to Maluk is the model's choice: the lowest free VI, context identifier,
launch tag and range, the next SEQ_BASE, a heap at 2^54, and the frames of a context (log 28, DESIGN CHOICE);
LAUNCH_ID is 64 * n + VI (log 23, DESIGN CHOICE). Follows R323, R324, R325, R329, R330, R350, R386, R389, R390. -/
def Obligations.SessionAndContextRequestsComplete : Prop :=
  (∀ v, RequestCompletes .openVi 0x01 (fun s q => endpointOk (q.f 16 8) = true ∧ firstOf (fun v => (mfind s.vis v).isNone) (List.range 64) = some v)
    (fun s q n => let grant := Nat.lor (Nat.land (Nat.land (q.f 0 16) (Config.policy v)) Config.featureMask) 1
      respond { s with
          vis := mput s.vis v { src := q.src, pkey := q.pkey, grant := grant, endpoint := q.f 16 8, seq := some q.seq }
          evSeq := mdel s.evSeq v } q n v stOK (leBytes 16 grant))) ∧
  (RequestCompletes .closeVi 0x02 (fun s q => True)
    (fun s q n => respond (endVi s q.vi) q n q.vi stOK [])) ∧
  (RequestCompletes .negotiate 0x03 (fun s q => endpointOk (q.f 16 8) = true)
    (fun s q n => respond s q n q.vi stRENEG [])) ∧
  (∀ id arena s1 pa s2 root s3, RequestCompletes .createCtx 0x04 (fun s q => q.f 12 4 = 0 ∧ q.f 24 8 % 2 ^ 21 = 0 ∧ q.f 4 4 ≤ Config.arenaAllowance q.vi
      ∧ s.seqNext + q.f 8 4 ≤ Config.sequenceSlots ∧ freeCtx s = some id
      ∧ allocRun s (if q.f 0 4 = 0 then 256 else q.f 0 4) 1 = some (arena, s1)
      ∧ (if q.f 24 8 = 0 then some (0, s1) else allocRun s1 (q.f 24 8 / 4096) 512) = some (pa, s2)
      ∧ allocRun s2 (3 + Config.imageFrames) 1 = some (root, s3))
    (fun s q n => let heap := q.f 24 8
      let base := if heap = 0 then 0 else heapAt
      let c : Ctx := {
        vi := q.vi, recAt := root + 8192, heapBase := base, heapLimit := base + heap, root := root, imageBase := root + 12288,
        semImage := root + 4096, heapOff := if heap = 0 then 0 else (pa + (2 ^ 56 - heapAt)) % 2 ^ 48, arenaBase := arena,
        arenaBlocks := if q.f 0 4 = 0 then 256 else q.f 0 4, arenaMax := q.f 4 4, quota := sext 64 (q.f 16 8),
        seqBase := s3.seqNext, seqCount := q.f 8 4, windows := heapWindow heap }
      respond (writeRecord { s3 with ctxs := mput s3.ctxs id c, seqNext := s3.seqNext + q.f 8 4 } id) q n q.vi stOK
        (leBytes 4 id ++ leBytes 4 c.seqBase ++ leBytes 8 c.heapBase ++ leBytes 8 c.heapLimit))) ∧
  (∀ c, RequestCompletes .destroyCtx 0x05 (fun s q => q.f 4 4 = 0 ∧ namedCtx s q (q.f 0 4) = .ok c)
    (fun s q n => respond (killCtx s (q.f 0 4)) q n q.vi stOK [])) ∧
  (∀ c va, RequestCompletes .mapWindow 0x06 (fun s q => q.f 4 4 < 8 ∧ q.f 8 8 % 4096 = 0 ∧ q.f 16 8 % 4096 = 0 ∧ q.f 16 8 ≠ 0
      ∧ (q.f 24 4 = 0 ∨ bitOf (q.f 4 4) 2 = true) ∧ q.f 28 4 = 0 ∧ (q.f 8 8 ≠ 0 → q.f 8 8 + q.f 16 8 ≤ 2 ^ 56)
      ∧ namedCtx s q (q.f 0 4) = .ok c ∧ (q.f 8 8 ≠ 0 → meetsWindow c (q.f 8 8) (q.f 16 8) = false)
      ∧ (if q.f 8 8 = 0 then findRange c (q.f 16 8) else some (q.f 8 8)) = some va)
    (fun s q n => respond (modCtx s (q.f 0 4) (fun c => { c with windows := c.windows ++ [askedWindow q va] })) q n q.vi stOK (leBytes 8 va))) ∧
  (∀ c w, RequestCompletes .unmapWindow 0x07 (fun s q => q.f 4 4 = 0 ∧ namedCtx s q (q.f 0 4) = .ok c
      ∧ c.windows.find? (fun w => w.kind == .user && w.va == q.f 8 8) = some w)
    (fun s q n => respond (dropMapped s (q.f 0 4) w) q n q.vi stOK [])) ∧
  (∀ c bs s1 ps kids s2, RequestCompletes .loadObject 0x08 (fun s q => q.f 4 4 = 0 ∧ 32 ≤ q.f 16 8 ∧ q.f 16 8 ≤ 2 ^ 32 ∧ namedCtx s q (q.f 0 4) = .ok c
      ∧ inWindow c (q.f 8 8) (q.f 16 8) (·.read) = true
      ∧ readRange (q.f 0 4) (pagesOf (q.f 16 8) + 1) (q.f 8 8) (q.f 16 8) s = some (bs, s1)
      ∧ parseObject bs (((mfind s1.vis q.vi).map (·.grant)).getD 1) = .ok ps ∧ loadAll (q.f 0 4) ps s1 = some (kids, s2))
    (fun s q n => respond s2 q n q.vi stOK (leBytes 4 kids.length ++ leBytes 4 0
      ++ (kids.zip (List.range kids.length)).flatMap (fun x => leBytes 4 x.1 ++ leBytes 4 x.2)))) ∧
  (∀ c k, RequestCompletes .unload 0x09 (fun s q => namedCtx s q (q.f 0 4) = .ok c ∧ getKernel s (q.f 0 4) (q.f 4 4) = some k
      ∧ s.launches.any (fun l => l.2.ctx == q.f 0 4 && l.2.kid == q.f 4 4 && !l.2.ended) = false)
    (fun s q n => let s1 := dropSection (dropSection s (q.f 0 4) k.text .text) (q.f 0 4) k.dataBase .data
      respond { s1 with kernels := mdel s1.kernels (kernelKey (q.f 0 4) (q.f 4 4)) } q n q.vi stOK [])) ∧
  (∀ c k tag pb, RequestCompletes .launch 0x0A (fun s q => launchFieldsOk q = true ∧ namedCtx s q (q.f 0 4) = .ok c ∧ getKernel s (q.f 0 4) (q.f 4 4) = some k
      ∧ inWindow c (q.f 24 8) (max k.args 1) (fun _ => true) = true ∧ everFits k (bitOf (q.f 16 4) 0) = true
      ∧ freeTag s (q.f 0 4) = some tag ∧ (if privSize q k = 0 then some 0 else findRange c (privSize q k)) = some pb)
    (fun s q n => let id := launchId q.vi (((mfind s.vis q.vi).map (·.launches)).getD 0)
      let s0 := { s with vis := mmod s.vis q.vi (fun v => { v with launches := v.launches + 1 }) }
      let s1 := modCtx s0 (q.f 0 4) (fun c => { c with windows := c.windows ++ launchWindows q k pb })
      respond { s1 with launches := mput s1.launches id (launchOf s0 q tag pb), nextId := s0.nextId + 1 } q n q.vi stOK
        (leBytes 8 id ++ leBytes 4 tag ++ leBytes 4 0))) ∧
  (∀ l, RequestCompletes .abort 0x0B (fun s q => namedLaunch s q (q.f 0 8) = .ok l)
    (fun s q n => respond (abortLaunch s (q.f 0 8)) q n q.vi stOK [])) ∧
  (∀ l, RequestCompletes .unpark 0x0C (fun s q => namedLaunch s q (q.f 0 8) = .ok l)
    (fun s q n => respond (afterUnpark { s with
      groups := s.groups.map (fun x => (x.1, if x.2.launch = q.f 0 8 then unparkGroup s x.1 x.2 else x.2)) }
        ((s.groups.filter (fun x => x.2.launch == q.f 0 8)).map (·.1))) q n q.vi stOK [])) ∧
  (∀ c s1 pa, RequestCompletes .postGraph 0x0D (fun s q => q.f 4 4 = 0 ∧ namedCtx s q (q.f 0 4) = .ok c ∧ q.f 8 8 % 128 = 0 ∧ inWindow c (q.f 8 8) 128 (·.write) = true
      ∧ resolvePa s homeUnit (q.f 0 4) (q.f 8 8) .write = (s1, .ok pa) ∧ ownedLoc s1 (.g pa) = false)
    (fun s q n => respond (postRecord s1 (q.f 0 4) (q.f 8 8)) q n q.vi stOK []))

/-- SUBSCRIBE adds the subscription; ASSIGN_HEAP gives a free heap to the slot, empty with BUD 0; RELEASE_HEAP takes it
back, answered when every operation on it has taken effect; ADD_QUOTA adds; SET_ARENA_MAX sets;
SESSION_ENDPOINT_FAILS ends an open VI. QUERY CONTEXT answers the flags, arena blocks, ARENA_MAX and quota; QUERY
LAUNCH the state, teams placed and ended and parked threads; QUERY GRANT the VI's grant; ATTEST a signed report that
takes the next leaf of the alias tree; a QUERY of another subject answers NO_OBJECT; a message whose header breaks
the table answers BAD_REQUEST and has no other effect. The model's choices: the heap is the lowest free one (log 28,
DESIGN CHOICE), a SUBSCRIBE adds to those before it (log 23, DEDUCED), and the layout of ATTEST's report (log 25,
DEDUCED). Follows R323, R338, R339, R371, R384, R387, R388, R389, R390, R400. -/
def Obligations.HeapQuotaSubscriptionAndQueryRequestsComplete : Prop :=
  (RequestCompletes .subscribe 0x0F (fun s q => q.vi ≠ 0xFF ∧ endpointOk (q.f 0 8) = true ∧ q.f 8 4 < 2 ^ 11 ∧ q.f 12 4 = 0 ∧ endpointOf s q.vi (q.f 0 8) ≠ 0)
    (fun s q n => respond { s with vis := mmod s.vis q.vi (fun v => { v with subs := v.subs ++ [(endpointOf s q.vi (q.f 0 8), q.f 8 4)] }) }
      q n q.vi stOK [])) ∧
  (RequestCompletes .subscribe 0x0F (fun s q => q.vi = 0xFF ∧ endpointOk (q.f 0 8) = true ∧ q.f 12 4 = 0 ∧ endpointOf s q.vi (q.f 0 8) ≠ 0
      ∧ q.f 8 4 < 2 ^ 11 ∧ Nat.land (q.f 8 4) 0x460 = q.f 8 4)
    (fun s q n => respond { s with opSubs := s.opSubs ++ [(endpointOf s q.vi (q.f 0 8), q.f 8 4)] } q n q.vi stOK [])) ∧
  (∀ c h, RequestCompletes .assignHeap 0x10 (fun s q => q.f 4 4 < 16 ∧ namedCtx s q (q.f 0 4) = .ok c ∧ mfind c.heapMap (q.f 4 4) = none
      ∧ firstOf (fun h => (getHeap s h).owner.isNone) (List.range 16) = some h)
    (fun s q n => respond (modRecord (setHeap s h { owner := some (q.f 0 4, q.f 4 4) }) (q.f 0 4)
      (fun c => { c with heapMap := mput c.heapMap (q.f 4 4) h })) q n q.vi stOK (leBytes 4 h ++ leBytes 4 0))) ∧
  (∀ c h, RequestCompletes .releaseHeap 0x11 (fun s q => q.f 4 4 < 16 ∧ namedCtx s q (q.f 0 4) = .ok c ∧ mfind c.heapMap (q.f 4 4) = some h)
    (fun s q n => let s1 := modRecord s (q.f 0 4) (fun c => { c with heapMap := mdel c.heapMap (q.f 4 4) })
      endRelease (setHeap s1 h { getHeap s1 h with releasing := some (q.vi, q.seq) }) h)) ∧
  (∀ c, RequestCompletes .addQuota 0x12 (fun s q => q.f 4 4 = 0 ∧ q.f 8 8 ≠ 0 ∧ q.f 8 8 < 2 ^ 63 ∧ namedCtx s q (q.f 0 4) = .ok c ∧ quotaOf s c + q.f 8 8 < 2 ^ 63)
    (fun s q n => respond (modRecord s (q.f 0 4) (fun c => { c with quota := addedQuota c.quota (q.f 8 8) })) q n q.vi stOK [])) ∧
  (∀ c, RequestCompletes .setArenaMax 0x13 (fun s q => namedCtx s q (q.f 0 4) = .ok c ∧ (q.f 4 4 ≤ c.arenaMax ∨ q.f 4 4 ≤ Config.arenaAllowance q.vi))
    (fun s q n => respond (modRecord s (q.f 0 4) (fun c => { c with arenaMax := q.f 4 4 })) q n q.vi stOK [])) ∧
  (∀ vi s v, mfind s.vis vi = some v → exec (.sessionEndpointFails vi) s = .next (endVi s vi)) ∧
  (∀ c, RequestCompletes .queryContext 0x0E (fun s q => q.f 0 4 = 1 ∧ argZero q 12 = true ∧ namedCtx s q (q.f 8 4) = .ok c)
    (fun s q n => respond s q n q.vi stOK (leBytes 4 (ctxFlags s c)
      ++ leBytes 4 c.arenaBlocks ++ leBytes 4 c.arenaMax ++ leBytes 4 0 ++ leBytes 8 (wrapN 64 (quotaOf s c))))) ∧
  (∀ l, RequestCompletes .queryLaunch 0x0E (fun s q => q.f 0 4 = 2 ∧ argZero q 16 = true ∧ namedLaunch s q (q.f 8 8) = .ok l)
    (fun s q n => respond s q n q.vi stOK (leBytes 4 (if l.ended then 2 else if l.placed = 0 then 0 else 1) ++ leBytes 4 l.placed
      ++ leBytes 4 l.done ++ leBytes 4 (parkedCount s (q.f 8 8))))) ∧
  (∀ v, RequestCompletes .queryGrant 0x0E (fun s q => q.f 0 4 = 3 ∧ argZero q 8 = true ∧ mfind s.vis q.vi = some v)
    (fun s q n => respond s q n q.vi stOK (leBytes 16 v.grant))) ∧
  (RequestCompletes .attest 0x0E (fun s q => q.f 0 4 = 0xA7 ∧ q.f 4 4 = 0 ∧ s.secure.aliasLeaf < Config.aliasLeaves)
    (fun s q n => let c := s.secure
      let b := reportBody s q
      respond { s with secure := { c with aliasLeaf := c.aliasLeaf + 1 } } q n q.vi stOK
        (b ++ Config.aliasSign c.boots b ++ Config.aliasLms c.boots c.aliasLeaf b))) ∧
  (RequestCompletes .queryOtherSubject 0x0E (fun s q => knownSubject (q.f 0 4) = false ∧ q.f 4 4 = 0)
    (fun s q n => respond s q n q.vi stNOOBJ [])) ∧
  (∀ m s, reaches s m = true → reqHeaderOk (reqOf m) = false →
    exec (.malformedRequest m) s = .next (respond { s with outN := s.outN + 1 } (reqOf m) s.outN (reqOf m).vi stBADREQ []))

/-- A shroud instruction with an illegal field ends the routine with ILLEGAL; a taken branch that leaves the routine
with ILLEGAL_TARGET, and any other branch on a poisoned register with POISON (SLOOP of n0 apart,
notes/assumptions/27.md); SLD, SST, VLD and VST with ALIGN for a misaligned address, else PAGE_FAULT for one that
does not translate (bits above 55, a forbidden page, or a store that reaches an argument block), else POISON for a
poisoned address, or coordinate of .sr; SFENCE and SSEM of scope FAB without the grant's FABRIC with ILLEGAL, SSEM
then with RESERVED_FIELD for a word that breaks its layout, else POISON; SKEY with POISON. The end itself sets the
record's FLAGS.FAULT and changes no other byte where the record's page is present, a TASK_FAULT event with the code
and the word offset goes to the launch's endpoint, and the thread is free; while an engine owns the record's line
the thread waits. That a page not present is made present within the access's own step is the model's choice (log 11
and log 27, DESIGN CHOICE): the page-table bytes so written are in the state that resolveAt answers and lie outside
the claim that no other byte changes. Follows R293, R295, R296, R297, R299, R300, R301, R305. -/
def Obligations.ShroudFaultsTaken : Prop :=
  (∀ i s k t x, isCore i = false → isEvent i = false → wellFormed i = false → s.cur = .shroud k t →
    mfind (getShroud s k).threads t = some x → exec i s = .next (endFault s k t x 0x01)) ∧
  (∀ i f s h taken poison,
    (i = .sjmp f ∧ taken = true ∧ poison = false) ∨ (i = .sbrz f ∧ taken = (sreg h.x f.a == 0) ∧ poison = spoisd h.x f.a) ∨
      (i = .sbrnz f ∧ taken = (sreg h.x f.a != 0) ∧ poison = spoisd h.x f.a) ∨
      (i = .sloop f ∧ f.a ≠ 0 ∧ taken = (sreg h.x f.a - 1 != 0) ∧ poison = spoisd h.x f.a) →
    routineOf i s = some h →
    (taken = true → ¬ shInside h f → exec i s = .next (endFault s h.k h.t h.x 0x02)) ∧
    ((taken = true → shInside h f) → poison = true → exec i s = .next (endFault s h.k h.t h.x 0x0D))) ∧
  (∀ f s h va, routineOf (.sld f) s = some h → va = siAddr h.x f → LoadFaults (.sld f) s h va (List.range 8) (va % 8 ≠ 0) (spoisd h.x f.a)) ∧
  (∀ f s h va, routineOf (.sst f) s = some h → va = siAddr h.x f → StoreFaults (.sst f) s h va 8 (va % 8 ≠ 0) (spoisd h.x f.a)) ∧
  (∀ f s h va e, routineOf (.vld f) s = some h → va = (sreg h.x f.a).toNat → e = (if f.f.toNat % 4 = 0 then 4 else 2) →
    (bitOf f.f.toNat 2 = false → LoadFaults (.vld f) s h va (List.range (16 * e)) (va % (16 * e) ≠ 0) (spoisd h.x f.a)) ∧
    (bitOf f.f.toNat 2 = true → LoadFaults (.vld f) s h va ((List.range 16).flatMap (fun i => [32 * i, 32 * i + 1]))
      (va % 2 ≠ 0 ∨ va % 1024 / 32 % 16 ≠ 0) (spoisd h.x f.a))) ∧
  (∀ f s h va e n, routineOf (.vst f) s = some h → va = (sreg h.x f.a).toNat → e = (if f.f.toNat % 4 = 0 then 4 else 2) →
    n = (if bitOf f.f.toNat 7 then 8 else 16) → StoreFaults (.vst f) s h va (n * e) (va % (n * e) ≠ 0)
      (spoisd h.x f.a || (f.f.toNat / 8 % 8 == 4 && spoisd h.x f.b))) ∧
  (∀ s unit ctx c va a x, mfind s.ctxs ctx = some c →
    (2 ^ 56 ≤ va → resolveAt s unit ctx va a x = (s, .error 3)) ∧
    (∀ r, translate s unit ctx va a = .error r → r ≠ 0 → resolveAt s unit ctx va a x = (s, .error r))) ∧
  (∀ f s h, routineOf (.ssem f) s = some h →
    let w := (sreg h.x f.a).toNat
    let bad := 2 ^ 16 ≤ w ∨ bitOf w 15 = false ∨ 48 ≤ bitsOf w 11 6
    (scopeDenied s h f = true → exec (.ssem f) s = .next (endFault s h.k h.t h.x 0x01)) ∧
    (scopeDenied s h f = false → bad → exec (.ssem f) s = .next (endFault s h.k h.t h.x 0x0E)) ∧
    (scopeDenied s h f = false → ¬ bad → spoisd h.x f.a = true → exec (.ssem f) s = .next (endFault s h.k h.t h.x 0x0D))) ∧
  (∀ f s h, routineOf (.sfence f) s = some h → f.f.toNat % 8 = 5 → h.granted s 9 = false →
    exec (.sfence f) s = .next (endFault s h.k h.t h.x 0x01)) ∧
  (∀ f s h, routineOf (.skey f) s = some h → spoisd h.x f.a = true ∨ spoisd h.x f.b = true →
    exec (.skey f) s = .next (endFault s h.k h.t h.x 0x0D)) ∧
  (∀ s k t x code, recordOwned s (shroudUnit k) x = true → endFault s k t x code = s) ∧
  (∀ s k t x code pa, recordOwned s (shroudUnit k) x = false → translate s (shroudUnit k) x.ctx x.record .write = .ok pa →
    let u := endFault s k t x code
    mfind (getShroud u k).threads t = none ∧ rdMem u (pa + 4) 4 = Nat.lor (rdMem s (pa + 4) 4) 16 ∧
    OnlyBytes (rangeFrom (pa + 4) 4) s u ∧
    ∀ l, mfind s.launches x.launch = some l → ∃ e, u.events = s.events ++ [e] ∧ e.kind = 0x82 ∧ e.endpoint = l.endpoint ∧
      e.body = leBytes 8 x.record ++ leBytes 4 code ++ leBytes 4 x.word)

/-- For a request with the operator's or the fabric manager's credential: WRITE_TAP replaces a tap entry that keeps its
table; WRITE_STEER sets bits 15..8 of the sequence slot's word and CLEAR_TRIP clears TRIPPED, PROBES and TRIPS;
WRITE_PATHS replaces a port's path table and PACE_EN, WRITE_PKEYS its partition-key table. Follows R378, R379, R381,
R390, R393, R395. -/
def Obligations.OperatorAndFabricRequestsComplete : Prop :=
  (∀ c, RequestCompletes .writeTap 0x20 (fun s q => q.f 4 4 < 8 ∧ tapOk (q.body.drop 8) = true ∧ mfind s.ctxs (q.f 0 4) = some c)
    (fun s q n => respond (modCtx s (q.f 0 4) (fun c => { c with taps := mput c.taps (q.f 4 4) (tapOf (q.body.drop 8)) })) q n q.vi stOK [])) ∧
  (∀ c, RequestCompletes .writeSteer 0x21 (fun s q => q.f 8 4 < 256 ∧ q.f 12 4 = 0 ∧ mfind s.ctxs (q.f 0 4) = some c ∧ q.f 4 4 < c.seqCount)
    (fun s q n => let k := c.seqBase + q.f 4 4
      respond { s with seqWords := mset 0 s.seqWords k ((mget 0 s.seqWords k &&& 0xFFFF00FF#32) ||| BitVec.ofNat 32 (q.f 8 4 * 256)) }
        q n q.vi stOK [])) ∧
  (∀ c, RequestCompletes .clearTrip 0x22 (fun s q => mfind s.ctxs (q.f 0 4) = some c ∧ q.f 4 4 < c.seqCount)
    (fun s q n => let k := c.seqBase + q.f 4 4
      respond { s with seqWords := mset 0 s.seqWords k (mget 0 s.seqWords k &&& 0x7F0FFF00#32) } q n q.vi stOK [])) ∧
  (RequestCompletes .writePaths 0x30 (fun s q => q.f 0 4 < 8 ∧ 1 ≤ q.f 4 4 ∧ q.f 4 4 ≤ 256 ∧ q.f 8 4 < 2 ∧ q.f 12 4 = 0 ∧ q.f (16 + 2 * q.f 4 4) 8 = 0)
    (fun s q n => respond (setPort s (q.f 0 4) { getPort s (q.f 0 4) with paths := tableVals q 16 2 (q.f 4 4), paceEn := bitOf (q.f 8 4) 0 })
      q n q.vi stOK [])) ∧
  (RequestCompletes .writePkeys 0x31 (fun s q => q.f 0 4 < 8 ∧ 1 ≤ q.f 4 4 ∧ q.f 4 4 ≤ 64 ∧ q.f (8 + 4 * q.f 4 4) 8 = 0)
    (fun s q n => respond (setPort s (q.f 0 4) { getPort s (q.f 0 4) with pkeys := tableVals q 8 4 (q.f 4 4) }) q n q.vi stOK []))

/-- An access in a delivery mode of its kind is taken. RMA_PUT of a window that permits it puts its writes in flight, in
mode ROD after the earlier messages of its flow, with a requested increment after them; RMA_GET and RMA_ATOMIC of
lines that no engine owns answer at the home, in mode ROD when no earlier message of their flow is in flight;
PACE_RECEIVE keeps the greatest pace of the interval; LINK_LOSS ends the messages in flight with LINK_DOWN and
LINK_RESTORE brings the port up, each with its event; PACKET_RETRANSMIT is counted. The model's choices: a peer's
get or atomic is served in one step (log 8, DESIGN CHOICE), and the loss of a link drops the increments of the
messages it ends (log 24, DEDUCED). Follows R392, R393, R394, R395. -/
def Obligations.PortsAct : Prop :=
  (∀ r s w s1 parts, portTakes s r [.rod, .rud, .rudi] = true → r.data.length = r.len → rmaWindow s r .write = some w → r.sem = none →
    rmaParts .write r.ctx (r.len / 32 + 2) r.va r.data s = (s1, parts) →
    exec (.rmaPut r) s = .next
      (let p := getPort s1 r.port
       let flow := if r.mode = .rod then some r.flow else none
       addOp (setPort s1 r.port { p with flight := liveMsgs s1 p ++ [{ id := s1.nextId, flow := flow, path := p.paths }] })
         (portOp r (performed (flowDeps s1 p flow)) (.store parts [])))) ∧
  (∀ r s w s1 parts core index n, portTakes s r [.rod, .rud, .rudi] = true → r.data.length = r.len → rmaWindow s r .write = some w →
    r.sem = some (core, index, n) → core < Config.cores → index < 64 →
    rmaParts .write r.ctx (r.len / 32 + 2) r.va r.data s = (s1, parts) →
    exec (.rmaPut r) s = .next
      (let p := getPort s1 r.port
       let flow := if r.mode = .rod then some r.flow else none
       let s2 := addOp (setPort s1 r.port
           { p with flight := liveMsgs s1 p ++ [{ id := s1.nextId, flow := flow, path := p.paths }] })
         (portOp r (performed (flowDeps s1 p flow)) (.store parts []))
       addOp s2 (portOp r (performed [s1.nextId]) (.semInc core r.ctx index (BitVec.ofNat 32 n) false)))) ∧
  (∀ r s w s1 parts, portTakes s r [.rod, .rud, .rudi] = true → flowBusy s r = false → rmaWindow s r .read = some w →
    rmaParts .read r.ctx (r.len / 32 + 2) r.va (List.replicate r.len 0) s = (s1, parts) → anyOwned s1 (partLocs parts) = false →
    exec (.rmaGet r) s = .next
      (answer s1 r.port stOK ((partLocs parts).any (locPoisoned s1)) ((partLocs parts).map (homeByte s1)))) ∧
  (∀ r s w w' s1 parts, portTakes s r [.rod, .rud] = true → flowBusy s r = false → rmaWidth r.aop r.ty = some r.len → rmaWindow s r .read = some w →
    rmaWindow s r .write = some w' → r.va % r.len = 0 →
    rmaParts .write r.ctx 2 r.va (List.replicate r.len 0) s = (s1, parts) → anyOwned s1 (partLocs parts) = false →
    exec (.rmaAtomic r) s = .next
      (let ls := partLocs parts
       let old := leVal (ls.map (homeByte s1))
       let new := atomNew r.aop r.ty old (r.opnd % 2 ^ (8 * r.len)) (r.cmp % 2 ^ (8 * r.len))
       answer (wakeTasks (performPart s1 .home 0 (ls.zip (leBytes r.len new)) false)) r.port stOK
         (ls.any (locPoisoned s1)) (leBytes r.len old))) ∧
  (∀ port pace s, port < Config.ports → (getPort s port).up = true → (getPort s port).paceEn = true →
    exec (.paceReceive port pace) s = .next
      { s with pace := { s.pace with got := some (max (s.pace.got.getD 0) (pace % 8)) } }) ∧
  (∀ port s, s.boot = .maluk → (getPort s port).up = true → port < Config.ports →
    exec (.linkLoss port) s = .next
      (let p := getPort s port
       let ids := (liveMsgs s p).map (·.id)
       let s1 := setPort { s with ops := s.ops.filter (fun o => !lostOp ids o), owned := s.owned.filter (fun x => !ids.contains x.2) }
         port { p with up := false, flight := [] }
       let s2 := postLink (ids.foldl (fun s _ => answer s port 11 false []) s1) port 0x87
       ((s.ops.filter (lostOp ids)).map (·.ctx)).foldl reap s2)) ∧
  (∀ port s, s.boot = .maluk → (getPort s port).up = false → port < Config.ports →
    exec (.linkRestore port) s = .next (postLink (setPort s port { getPort s port with up := true }) port 0x88)) ∧
  (∀ port msg s, (getPort s port).up = true → (liveMsgs s (getPort s port)).any (fun m => m.id == msg) = true →
    exec (.packetRetransmit port msg) s = .next
      (setPort s port { getPort s port with resent := (getPort s port).resent + 1 }))

/-- POWER_ON and FIRST_STAGE accept an image whose header, signatures and SVN pass, measure it, report their success and
reach the next stage, the first stage clearing every memory and TIMEBASE and writing REEF_MIN; MALUK_STAGE brings
the ports up and creates Maluk's privileged service context; FULL_RESET restarts boot, keeping the secure storage,
the retired frames with their error counts and what has been sent; a die is throttled at 105 degrees and released
below 95; at 115 every core halts; PATROL_SCRUB counts its error; ERROR_COUNTER_POLL retires worn frames. The
model's choices: the numbers of a report's stages and causes and what a full reset keeps (log 25, DESIGN CHOICE),
and the number, VI field and frames of Maluk's service context (log 38, DESIGN CHOICE). Follows R397, R398, R399,
R402, R403, R404, R405. -/
def Obligations.BootThermalAndErrorEventsAct : Prop :=
  (∀ image s, s.boot = .off → imageCause image = none → exec (.powerOn image) s = .next { s with
      boot := .rom
      masts := [0]
      report := s.report ++ [(0, 0)]
      secure := { s.secure with svn1 := imageSvn image, meas1 := sha384 image } }) ∧
  (∀ reefMin image s, s.boot = .rom → imageCause image = none → exec (.firstStage reefMin image) s = .next
      (let s1 := openReefs { clearMemories s with timebase := 0 } reefMin
       { s1 with
         boot := .first
         report := s.report ++ [(1, 0)]
         secure := makeAlias { s1.secure with svn2 := imageSvn image, meas2 := sha384 image } })) ∧
  (∀ s, s.boot = .first → exec .malukStage s = .next
      (let s1 := createService ((List.range Config.ports).foldl (fun s k => setPort s k { getPort s k with up := true }) s)
       { s1 with boot := .maluk, masts := List.range Config.mastCores, report := s1.report ++ [(2, 0)] })) ∧
  (∀ s, exec .fullReset s = .next { State.reset with
      secure := { leaf := s.secure.leaf, counters := s.secure.counters, boots := s.secure.boots }
      turns := s.turns, time := s.time, boundary := s.boundary, retired := s.retired, eccC := s.eccC, eccU := s.eccU
      eccUnits := s.eccUnits, report := s.report, status := s.status, events := s.events, responses := s.responses
      answers := s.answers, outN := s.outN, evSeq := s.evSeq, paceSent := s.paceSent, freeN := s.freeN }) ∧
  (∀ die temp s, die < Config.dies → 105 ≤ temp →
    exec (.thermalThrottle die temp) s = .next (setDie s die { getDie s die with hot := true, temp := temp })) ∧
  (∀ die temp s, die < Config.dies → temp < 95 →
    exec (.thermalRelease die temp) s = .next (setDie s die { getDie s die with hot := false, temp := temp })) ∧
  (∀ temp s, (∀ t, s.boot ≠ .shutdown t) → s.boot ≠ .off → 115 ≤ temp → exec (.thermalShutdown temp) s = .next
      (let s1 := (List.range Config.cores).foldl (fun s k => setCore s k { getCore s k with halted := true }) s
       { s1 with boot := .shutdown (s1.time + 1000000), report := s1.report ++ [(3, temp)] })) ∧
  (∀ quarter ecc s, quarter < 2 ^ 43 → exec (.patrolScrub quarter ecc) s = .next (countEcc s ecc (32 * quarter))) ∧
  (∀ s, s.boot = .maluk → exec .errorCounterPoll s = .next { s with retired := sunion s.retired (worn s) })

/-- The integer, floating-point, packed and conversion instructions and their twins: whatever next state the instruction
answers (it retires, stalls or traps), memory and the machine outside the group are as before, but for operations it
adds, translation misses, page faults and FAULT events of trapping threads; every other group and every thread
outside the run are as before; a thread of the run either has only its program counter, its destination registers,
the predicates of a comparison, the streams its operands name, and the position of its random stream where an
operand or .SR draws, changed, or it has trapped and only its state, program counter, trap records and handler mode
have; of the group only threads, a scalar destination and its issue state change. Follows R22, R25, R50, R57, R311. -/
def Obligations.ArithmeticFrame : Prop :=
  (let more : CoreForm → Allow → Allow := (fun _ a => a)
    ∀ f m, WithTwin (fun i => LaneFrame i more) (.iadd f) (.iaddTwin f m) ∧
    WithTwin (fun i => LaneFrame i more) (.isub f) (.isubTwin f m) ∧
    WithTwin (fun i => LaneFrame i more) (.imul f) (.imulTwin f m) ∧
    WithTwin (fun i => LaneFrame i more) (.imulh f) (.imulhTwin f m) ∧
    WithTwin (fun i => LaneFrame i more) (.imad f) (.imadTwin f m) ∧
    WithTwin (fun i => LaneFrame i more) (.imadw f) (.imadwTwin f m) ∧
    WithTwin (fun i => LaneFrame i more) (.imin f) (.iminTwin f m) ∧
    WithTwin (fun i => LaneFrame i more) (.imax f) (.imaxTwin f m) ∧
    WithTwin (fun i => LaneFrame i more) (.iabs f) (.iabsTwin f m) ∧
    WithTwin (fun i => LaneFrame i more) (.ineg f) (.inegTwin f m) ∧
    WithTwin (fun i => LaneFrame i more) (.isad f) (.isadTwin f m) ∧
    WithTwin (fun i => LaneFrame i more) (.idiv f) (.idivTwin f m) ∧
    WithTwin (fun i => LaneFrame i more) (.irem f) (.iremTwin f m) ∧
    WithTwin (fun i => LaneFrame i more) (.isel f) (.iselTwin f m) ∧
    WithTwin (fun i => LaneFrame i more) (.lea f) (.leaTwin f m) ∧
    WithTwin (fun i => LaneFrame i more) (.shl f) (.shlTwin f m) ∧
    WithTwin (fun i => LaneFrame i more) (.shr f) (.shrTwin f m) ∧
    WithTwin (fun i => LaneFrame i more) (.sar f) (.sarTwin f m) ∧
    WithTwin (fun i => LaneFrame i more) (.rotl f) (.rotlTwin f m) ∧
    WithTwin (fun i => LaneFrame i more) (.iand f) (.iandTwin f m) ∧
    WithTwin (fun i => LaneFrame i more) (.ior f) (.iorTwin f m) ∧
    WithTwin (fun i => LaneFrame i more) (.ixor f) (.ixorTwin f m) ∧
    WithTwin (fun i => LaneFrame i more) (.inot f) (.inotTwin f m) ∧
    WithTwin (fun i => LaneFrame i more) (.bfe f) (.bfeTwin f m) ∧
    WithTwin (fun i => LaneFrame i more) (.bfi f) (.bfiTwin f m) ∧
    WithTwin (fun i => LaneFrame i more) (.popc f) (.popcTwin f m) ∧
    WithTwin (fun i => LaneFrame i more) (.clz f) (.clzTwin f m) ∧
    WithTwin (fun i => LaneFrame i more) (.brev f) (.brevTwin f m) ∧
    WithTwin (fun i => LaneFrame i more) (.prmt f) (.prmtTwin f m) ∧
    WithTwin (fun i => LaneFrame i more) (.fadd f) (.faddTwin f m) ∧
    WithTwin (fun i => LaneFrame i more) (.fsub f) (.fsubTwin f m) ∧
    WithTwin (fun i => LaneFrame i more) (.fmul f) (.fmulTwin f m) ∧
    WithTwin (fun i => LaneFrame i more) (.ffma f) (.ffmaTwin f m) ∧
    WithTwin (fun i => LaneFrame i more) (.fmin f) (.fminTwin f m) ∧
    WithTwin (fun i => LaneFrame i more) (.fmax f) (.fmaxTwin f m) ∧
    WithTwin (fun i => LaneFrame i more) (.fabs f) (.fabsTwin f m) ∧
    WithTwin (fun i => LaneFrame i more) (.fneg f) (.fnegTwin f m) ∧
    WithTwin (fun i => LaneFrame i more) (.fclass f) (.fclassTwin f m) ∧
    WithTwin (fun i => LaneFrame i more) (.frcp f) (.frcpTwin f m) ∧
    WithTwin (fun i => LaneFrame i more) (.frsq f) (.frsqTwin f m) ∧
    WithTwin (fun i => LaneFrame i more) (.fsqrt f) (.fsqrtTwin f m) ∧
    WithTwin (fun i => LaneFrame i more) (.fdiv f) (.fdivTwin f m) ∧
    WithTwin (fun i => LaneFrame i more) (.fexp2 f) (.fexp2Twin f m) ∧
    WithTwin (fun i => LaneFrame i more) (.flog2 f) (.flog2Twin f m) ∧
    WithTwin (fun i => LaneFrame i more) (.ftanh f) (.ftanhTwin f m) ∧
    WithTwin (fun i => LaneFrame i more) (.fsin f) (.fsinTwin f m) ∧
    WithTwin (fun i => LaneFrame i more) (.fcos f) (.fcosTwin f m) ∧
    WithTwin (fun i => LaneFrame i more) (.fsigm f) (.fsigmTwin f m) ∧
    WithTwin (fun i => LaneFrame i more) (.ferf f) (.ferfTwin f m) ∧
    WithTwin (fun i => LaneFrame i more) (.frnd f) (.frndTwin f m) ∧
    WithTwin (fun i => LaneFrame i more) (.fscale f) (.fscaleTwin f m) ∧
    WithTwin (fun i => LaneFrame i more) (.hadd2 f) (.hadd2Twin f m) ∧
    WithTwin (fun i => LaneFrame i more) (.hsub2 f) (.hsub2Twin f m) ∧
    WithTwin (fun i => LaneFrame i more) (.hmul2 f) (.hmul2Twin f m) ∧
    WithTwin (fun i => LaneFrame i more) (.hfma2 f) (.hfma2Twin f m) ∧
    WithTwin (fun i => LaneFrame i more) (.hmin2 f) (.hmin2Twin f m) ∧
    WithTwin (fun i => LaneFrame i more) (.hmax2 f) (.hmax2Twin f m) ∧
    WithTwin (fun i => LaneFrame i more) (.habs2 f) (.habs2Twin f m) ∧
    WithTwin (fun i => LaneFrame i more) (.hdot2 f) (.hdot2Twin f m) ∧
    WithTwin (fun i => LaneFrame i more) (.htanh2 f) (.htanh2Twin f m) ∧
    WithTwin (fun i => LaneFrame i more) (.hrcp2 f) (.hrcp2Twin f m) ∧
    WithTwin (fun i => LaneFrame i more) (.cvtf f) (.cvtfTwin f m) ∧
    WithTwin (fun i => LaneFrame i more) (.cvti f) (.cvtiTwin f m) ∧
    WithTwin (fun i => LaneFrame i more) (.cvtif f) (.cvtifTwin f m) ∧
    WithTwin (fun i => LaneFrame i more) (.cvtii f) (.cvtiiTwin f m) ∧
    WithTwin (fun i => LaneFrame i more) (.pack8 f) (.pack8Twin f m) ∧
    WithTwin (fun i => LaneFrame i more) (.unpk8 f) (.unpk8Twin f m) ∧
    WithTwin (fun i => LaneFrame i more) (.unpk4 f) (.unpk4Twin f m) ∧
    WithTwin (fun i => LaneFrame i more) (.packds f) (.packdsTwin f m) ∧
    WithTwin (fun i => LaneFrame i more) (.unpkds f) (.unpkdsTwin f m) ∧
    WithTwin (fun i => LaneFrame i more) (.bscale f) (.bscaleTwin f m) ∧
    WithTwin (fun i => LaneFrame i more) (.cvt2 f) (.cvt2Twin f m) ∧
    WithTwin (fun i => LaneFrame i more) (.pack4 f) (.pack4Twin f m)) ∧
  (let more : CoreForm → Allow → Allow := (fun c a => { a with preds := [c.f.d.toNat % 8] })
    ∀ f m, WithTwin (fun i => LaneFrame i more) (.isetp f) (.isetpTwin f m) ∧
    WithTwin (fun i => LaneFrame i more) (.fsetp f) (.fsetpTwin f m)) ∧
  (∀ f m, WithTwin (fun i => LaneFrame i (fun c a => { a with preds := [c.f.d.toNat % 8, c.f.d.toNat % 8 + 1] })) (.hsetp2 f) (.hsetp2Twin f m))

/-- MOV, MOVI, MOVH, MOVREL, MOVRW, WINB, SRD, PTOV, TRRD, CYCRD, PERFRD, SEQRD, RMASK, PAND, POR, PXOR, PNOT, VTOP;
SHFL, SHFLX, BCAST, VOTE, BALLOT, FFS, GMATCH, GCOUNT, GRED, GSCAN; WBIND, WUNB, WPOS, DKEY, DPOS, DSET, DSKIP,
DFORK, DGET, RAND, RANDN, DINFO, DPEEK; with their twins: whatever next state the instruction answers (it retires,
stalls or traps), memory and the machine outside the group are as before, but for operations it adds, translation
misses, page faults and FAULT events of trapping threads; every other group and every thread outside the run are as
before; a thread of the run either has only its program counter, its destination registers, the predicate that it
writes, the stream it binds, the streams its operands name, and the position of its random stream where an operand
or .SR draws, changed, or it has trapped and only its state, program counter, trap records and handler mode have; of
the group only threads, a scalar destination and its issue state change; the key changes only where the instruction
sets it, or by another thread's stream under U = 1. MOVRW has no destination field: it writes one register of a
thread, the one that its index names, and WINB only the window base. Follows R182, R184, R185, R197, R201, R206,
R211, R57. -/
def Obligations.MoveGroupStreamDrawFrame : Prop :=
  (∀ f m, WithTwin (fun i => LaneFrame i (fun _ a => a)) (.mov f) (.movTwin f m)) ∧
  (∀ f, LaneFrame (.movi f) (fun _ a => a)) ∧
  (∀ f, LaneFrame (.movh f) (fun _ a => a)) ∧
  (∀ f, LaneFrame (.movrel f) (fun _ a => a)) ∧
  (∀ f, LaneFrame (.ptov f) (fun _ a => a)) ∧
  (∀ f, LaneFrame (.trrd f) (fun _ a => a)) ∧
  (∀ f, LaneFrame (.cycrd f) (fun _ a => a)) ∧
  (∀ f, LaneFrame (.perfrd f) (fun _ a => a)) ∧
  (∀ f, LaneFrame (.seqrd f) (fun _ a => a)) ∧
  (∀ f w, LaneFrame (.moviLiteral f w) (fun _ a => a)) ∧
  (∀ f, LaneFrame (.pand f) (fun c a => { a with preds := [c.f.d.toNat] })) ∧
  (∀ f, LaneFrame (.por f) (fun c a => { a with preds := [c.f.d.toNat] })) ∧
  (∀ f, LaneFrame (.pxor f) (fun c a => { a with preds := [c.f.d.toNat] })) ∧
  (∀ f, LaneFrame (.pnot f) (fun c a => { a with preds := [c.f.d.toNat] })) ∧
  (∀ f, LaneFrame (.vtop f) (fun c a => { a with preds := [c.f.d.toNat] })) ∧
  (∀ f, LaneFrame (.srd f) (fun c a => { a with
    dest := [⟨c.f.d.toNat, if specialWide f.imm.toNat then 2 else 1, false, true⟩]
    streams := if 112 ≤ c.f.d.toNat then [c.f.d.toNat - 112] else [] })) ∧
  (∀ f m, WithTwin (fun i => LaneFrame i (fun _ a => a)) (.rmask f) (.rmaskTwin f m)) ∧
  (∀ f, UpdateFrame (.movrw f) (fun a b => ∃ k v, b = putRegs a k [v] false)) ∧
  (∀ f, UpdateFrame (.winb f) (fun a b => ∃ w, b = { a with wb := w })) ∧
  (let more : CoreForm → Allow → Allow := (fun c a => { a with preds := if bitOf (optOf c.m) 3 then [optOf c.m % 8] else [] })
    ∀ f m, WithTwin (fun i => LaneFrame i more) (.shfl f) (.shflTwin f m) ∧
    WithTwin (fun i => LaneFrame i more) (.shflx f) (.shflxTwin f m) ∧
    WithTwin (fun i => LaneFrame i more) (.bcast f) (.bcastTwin f m)) ∧
  (∀ f m, WithTwin (fun i => LaneFrame i (fun c a => { a with preds := [c.f.d.toNat] })) (.vote f) (.voteTwin f m)) ∧
  (let more : CoreForm → Allow → Allow := (fun _ a => a)
    ∀ f m, WithTwin (fun i => LaneFrame i more) (.ballot f) (.ballotTwin f m) ∧
    WithTwin (fun i => LaneFrame i more) (.ffs f) (.ffsTwin f m) ∧
    WithTwin (fun i => LaneFrame i more) (.gmatch f) (.gmatchTwin f m) ∧
    WithTwin (fun i => LaneFrame i more) (.gcount f) (.gcountTwin f m) ∧
    WithTwin (fun i => LaneFrame i more) (.gred f) (.gredTwin f m) ∧
    WithTwin (fun i => LaneFrame i more) (.gscan f) (.gscanTwin f m) ∧
    WithTwin (fun i => LaneFrame i more) (.wpos f) (.wposTwin f m) ∧
    WithTwin (fun i => LaneFrame i more) (.dget f) (.dgetTwin f m) ∧
    WithTwin (fun i => LaneFrame i more) (.dinfo f) (.dinfoTwin f m) ∧
    WithTwin (fun i => LaneFrame i more) (.dpeek f) (.dpeekTwin f m)) ∧
  (let more : CoreForm → Allow → Allow := (fun c a => { a with streams := [c.f.d.toNat] })
    ∀ f m, WithTwin (fun i => LaneFrame i more) (.wbind f) (.wbindTwin f m) ∧
    WithTwin (fun i => LaneFrame i more) (.wunb f) (.wunbTwin f m)) ∧
  (let more : CoreForm → Allow → Allow := (fun _ a => { a with draws := true, key := true })
    ∀ f m, WithTwin (fun i => LaneFrame i more) (.dkey f) (.dkeyTwin f m) ∧
    WithTwin (fun i => LaneFrame i more) (.dset f) (.dsetTwin f m) ∧
    WithTwin (fun i => LaneFrame i more) (.dfork f) (.dforkTwin f m)) ∧
  (let more : CoreForm → Allow → Allow := (fun c a => { a with draws := true, key := c.f.u })
    ∀ f m, WithTwin (fun i => LaneFrame i more) (.dpos f) (.dposTwin f m) ∧
    WithTwin (fun i => LaneFrame i more) (.dskip f) (.dskipTwin f m) ∧
    WithTwin (fun i => LaneFrame i more) (.rand f) (.randTwin f m) ∧
    WithTwin (fun i => LaneFrame i more) (.randn f) (.randnTwin f m))

/-- LD, LDS, LDA, LDO, ST, STS, STR, LDV, STT, the atomics, SEMINC, SEMSET, SEMRD, TGPOST, TGLINK and TGINIT, with their
twins: whatever next state the instruction answers, no byte of memory and no register has changed: an operation of
its kind, issued by a thread of its run, may be in flight, its destination registers pending and its flag's count
higher; a thread of the run has moved its program counter and the streams and random stream that operands name, or
has trapped; the machine outside the group is as before but for translation misses, page faults and FAULT events,
and so are every other group and every thread outside the run. (What the operation then stores is in
MemoryOperationsFrame.) Follows R22, R25, R26, R59, R128, R311. -/
def Obligations.MemoryInstructionFrame : Prop :=
  (let kind : OpKind → Bool := (fun k => match k with
      | .load _ _ _ => true
      | _ => false)
    ∀ f m, WithTwin (fun i => IssueFrame i kind) (.ld f) (.ldTwin f m) ∧
    WithTwin (fun i => IssueFrame i kind) (.lds f) (.ldsTwin f m) ∧
    WithTwin (fun i => IssueFrame i kind) (.lda f) (.ldaTwin f m) ∧
    WithTwin (fun i => IssueFrame i kind) (.ldo f) (.ldoTwin f m)) ∧
  (let kind : OpKind → Bool := (fun k => match k with
      | .store _ _ => true
      | _ => false)
    ∀ f m, WithTwin (fun i => IssueFrame i kind) (.st f) (.stTwin f m) ∧
    WithTwin (fun i => IssueFrame i kind) (.sts f) (.stsTwin f m) ∧
    WithTwin (fun i => IssueFrame i kind) (.str f) (.strTwin f m)) ∧
  (let kind : OpKind → Bool := (fun k => match k with
      | .tileRead _ _ _ _ => true
      | _ => false)
    ∀ f m, WithTwin (fun i => IssueFrame i kind) (.ldv f) (.ldvTwin f m)) ∧
  (let kind : OpKind → Bool := (fun k => match k with
      | .tileWrite _ _ _ _ _ _ _ _ => true
      | _ => false)
    ∀ f m, WithTwin (fun i => IssueFrame i kind) (.stt f) (.sttTwin f m)) ∧
  (let kind : OpKind → Bool := (fun k => match k with
      | .atomic _ _ _ _ => true
      | _ => false)
    ∀ f m, WithTwin (fun i => IssueFrame i kind) (.atomAdd f) (.atomAddTwin f m) ∧
    WithTwin (fun i => IssueFrame i kind) (.atomFadd f) (.atomFaddTwin f m) ∧
    WithTwin (fun i => IssueFrame i kind) (.atomMin f) (.atomMinTwin f m) ∧
    WithTwin (fun i => IssueFrame i kind) (.atomMax f) (.atomMaxTwin f m) ∧
    WithTwin (fun i => IssueFrame i kind) (.atomAnd f) (.atomAndTwin f m) ∧
    WithTwin (fun i => IssueFrame i kind) (.atomOr f) (.atomOrTwin f m) ∧
    WithTwin (fun i => IssueFrame i kind) (.atomXor f) (.atomXorTwin f m) ∧
    WithTwin (fun i => IssueFrame i kind) (.atomXchg f) (.atomXchgTwin f m) ∧
    WithTwin (fun i => IssueFrame i kind) (.atomCas f) (.atomCasTwin f m) ∧
    WithTwin (fun i => IssueFrame i kind) (.atomInc f) (.atomIncTwin f m) ∧
    WithTwin (fun i => IssueFrame i kind) (.atomDec f) (.atomDecTwin f m) ∧
    WithTwin (fun i => IssueFrame i kind) (.atomHadd2 f) (.atomHadd2Twin f m) ∧
    WithTwin (fun i => IssueFrame i kind) (.atomsAdd f) (.atomsAddTwin f m) ∧
    WithTwin (fun i => IssueFrame i kind) (.atomsCas f) (.atomsCasTwin f m) ∧
    WithTwin (fun i => IssueFrame i kind) (.atomsXchg f) (.atomsXchgTwin f m)) ∧
  (let kind : OpKind → Bool := (fun k => match k with
      | .semInc _ _ _ _ _ => true
      | _ => false)
    ∀ f m, WithTwin (fun i => IssueFrame i kind) (.seminc f) (.semincTwin f m) ∧
    WithTwin (fun i => IssueFrame i kind) (.semset f) (.semsetTwin f m)) ∧
  (let kind : OpKind → Bool := (fun k => match k with
      | .semRead _ _ _ _ => true
      | _ => false)
    ∀ f m, WithTwin (fun i => IssueFrame i kind) (.semrd f) (.semrdTwin f m)) ∧
  (let kind : OpKind → Bool := (fun k => match k with
      | .post _ _ => true
      | _ => false)
    ∀ f m, WithTwin (fun i => IssueFrame i kind) (.tgpost f) (.tgpostTwin f m)) ∧
  (let kind : OpKind → Bool := (fun k => match k with
      | .link _ _ _ _ => true
      | _ => false)
    ∀ f m, WithTwin (fun i => IssueFrame i kind) (.tglink f) (.tglinkTwin f m)) ∧
  (let kind : OpKind → Bool := (fun k => match k with
      | .store _ _ => true
      | .go _ _ => true
      | _ => false)
    ∀ f m, WithTwin (fun i => IssueFrame i kind) (.tginit f) (.tginitTwin f m))

/-- PINS, PCNT, PLUP, PRD, PDRN, PCLR, PDEL and the heap instructions with their twins, SPAWN, SVC, PRIVRD, PRIVWR,
TLBINV, CTXSW, CACHEFL, POISCLR, HALT, EVPOST, and COPY, COPYS, COPYM, COPYR with their twins where every page of
the context's windows is present: whatever next state the instruction answers, no byte of memory and no register has
changed: an operation of its kind, issued by a thread of its run, may be in flight, its destination registers
pending and its flag's count higher; a thread of the run has moved its program counter and the streams and random
stream that operands name, or has trapped; the machine outside the group is as before but for translation misses,
page faults and FAULT events, and so are every other group and every thread outside the run. Follows R22, R59, R128,
R311, R239. -/
def Obligations.PocketHeapSystemInstructionFrame : Prop :=
  (let kind : OpKind → Bool := (fun k => match k with
      | .pocket _ _ => true
      | _ => false)
    ∀ f m, WithTwin (fun i => IssueFrame i kind) (.pins f) (.pinsTwin f m) ∧
    WithTwin (fun i => IssueFrame i kind) (.pcnt f) (.pcntTwin f m) ∧
    WithTwin (fun i => IssueFrame i kind) (.plup f) (.plupTwin f m) ∧
    WithTwin (fun i => IssueFrame i kind) (.prd f) (.prdTwin f m) ∧
    WithTwin (fun i => IssueFrame i kind) (.pclr f) (.pclrTwin f m) ∧
    WithTwin (fun i => IssueFrame i kind) (.pdel f) (.pdelTwin f m)) ∧
  (let kind : OpKind → Bool := (fun k => match k with
      | .drain _ _ _ => true
      | _ => false)
    ∀ f m, WithTwin (fun i => IssueFrame i kind) (.pdrn f) (.pdrnTwin f m)) ∧
  (let kind : OpKind → Bool := (fun k => match k with
      | .heap _ _ => true
      | _ => false)
    ∀ f m, WithTwin (fun i => IssueFrame i kind) (.hpush f) (.hpushTwin f m) ∧
    WithTwin (fun i => IssueFrame i kind) (.htake f) (.htakeTwin f m) ∧
    WithTwin (fun i => IssueFrame i kind) (.hbud f) (.hbudTwin f m) ∧
    WithTwin (fun i => IssueFrame i kind) (.hdel f) (.hdelTwin f m) ∧
    WithTwin (fun i => IssueFrame i kind) (.hpeek f) (.hpeekTwin f m) ∧
    WithTwin (fun i => IssueFrame i kind) (.hlen f) (.hlenTwin f m)) ∧
  (let kind : OpKind → Bool := (fun k => match k with
      | .spawn _ _ _ => true
      | _ => false)
    ∀ f, IssueFrame (.spawn f) kind) ∧
  (let kind : OpKind → Bool := (fun k => match k with
      | .service _ _ _ => true
      | _ => false)
    ∀ f, IssueFrame (.svc f) kind) ∧
  (let kind : OpKind → Bool := (fun k => match k with
      | .system _ => true
      | _ => false)
    ∀ f, IssueFrame (.privwr f) kind ∧
    IssueFrame (.tlbinv f) kind ∧
    IssueFrame (.ctxsw f) kind ∧
    IssueFrame (.cachefl f) kind ∧
    IssueFrame (.poisclr f) kind ∧
    IssueFrame (.halt f) kind ∧
    IssueFrame (.evpost f) kind) ∧
  (let kind : OpKind → Bool := (fun k => match k with
      | .system _ => true
      | _ => false)
    ∀ f, IssueFrame (.privrd f) kind (fun c a => { a with dest := [⟨c.f.d.toNat, 2, false, true⟩] })) ∧
  (let kind : OpKind → Bool := (fun k => match k with
      | .copy _ _ _ => true
      | _ => false)
    ∀ f m, WithTwin (fun i => IssueFrame i kind (fun _ a => a) (fun s g => PagesPresent s (ctxOf s g.launch))) (.copy f) (.copyTwin f m) ∧
    WithTwin (fun i => IssueFrame i kind (fun _ a => a) (fun s g => PagesPresent s (ctxOf s g.launch))) (.copys f) (.copysTwin f m)) ∧
  (let kind : OpKind → Bool := (fun k => match k with
      | .copy _ _ _ => true
      | .load _ _ _ => true
      | _ => false)
    ∀ f m, WithTwin (fun i => IssueFrame i kind (fun _ a => a) (fun s g => PagesPresent s (ctxOf s g.launch))) (.copym f) (.copymTwin f m) ∧
    WithTwin (fun i => IssueFrame i kind (fun _ a => a) (fun s g => PagesPresent s (ctxOf s g.launch))) (.copyr f) (.copyrTwin f m))

/-- NOP, BRA, BRC.T, BRC.F, BRE, JMPI, RET, CALL, CALLI and TRET, whatever next state they answer: memory, the machine
outside the group, every other group and every thread outside the run are as before, but for translation misses,
page faults and FAULT events; a thread of the run has only its program counter, its link pair (CALL: window
registers 0 and 1; CALLI: the pair of field D) and the streams its operands name changed, with handler mode left or
kept, or it has trapped. CPST, SMRG and SPICK change only their destination, and the position of the random stream
for SMRG and SPICK. Follows R159, R160, R161, R349, R22. -/
def Obligations.TransfersFrame : Prop :=
  (∀ f, LaneFrame (.nop f) (fun _ a => a)) ∧
  (∀ f, TransferFrame (.bra f) (fun _ a => { a with dest := [] })) ∧
  (∀ f, TransferFrame (.jmpi f) (fun _ a => { a with dest := [] })) ∧
  (∀ f, TransferFrame (.ret f) (fun _ a => { a with dest := [] })) ∧
  (∀ f, TransferFrame (.tret f) (fun _ a => { a with dest := [] })) ∧
  (∀ k f, TransferFrame (.brcT k f) (fun _ a => { a with dest := [] })) ∧
  (∀ k f, TransferFrame (.brcF k f) (fun _ a => { a with dest := [] })) ∧
  (∀ n k f, TransferFrame (.bre n k f) (fun _ a => { a with dest := [] })) ∧
  (∀ f, TransferFrame (.call f) (fun _ a => { a with dest := [⟨0, 2, false, true⟩] })) ∧
  (∀ f, TransferFrame (.calli f) (fun _ a => a)) ∧
  (∀ f m, WithTwin (fun i => LaneFrame i (fun _ a => a)) (.cpst f) (.cpstTwin f m)) ∧
  (∀ f m, WithTwin (fun i => LaneFrame i (fun _ a => { a with draws := true })) (.smrg f) (.smrgTwin f m)) ∧
  (∀ f m, WithTwin (fun i => LaneFrame i (fun _ a => { a with draws := true })) (.spick f) (.spickTwin f m))

/-- REJN, REJN.CMT, BAR, BARA, BARW, CLSET, EXIT, YIELD, BINCFG, WAITF, TRAP, SEQBIND, and SEMWAIT, TGWAIT, FENCE, PREF,
MMA, MMAQ, MMAS, JOIN, NORM, PCFG, DLOAD with their twins, whatever next state they answer: no byte of memory,
version word, poison, heap, shroud, sequence word, semaphore, die, cluster, port or timebase has changed; in every
group that is still there, no register, predicate, key or scalar register of any thread, and no distribution
descriptor but DLOAD's D; streams and random streams move only in threads of the run. Follows R22, R167, R169, R171,
R207. -/
def Obligations.WaitsAndEngineCallsFrame : Prop :=
  (∀ f, QuietFrame (.rejn f)) ∧
  (∀ f, QuietFrame (.rejnCmt f)) ∧
  (∀ f, QuietFrame (.bar f)) ∧
  (∀ f, QuietFrame (.bara f)) ∧
  (∀ f, QuietFrame (.barw f)) ∧
  (∀ f, QuietFrame (.clset f)) ∧
  (∀ f, QuietFrame (.exit f)) ∧
  (∀ f, QuietFrame (.yield f)) ∧
  (∀ f, QuietFrame (.bincfg f)) ∧
  (∀ f, QuietFrame (.waitf f)) ∧
  (∀ f, QuietFrame (.trap f)) ∧
  (∀ f, QuietFrame (.seqbind f)) ∧
  (∀ f m, WithTwin (fun i => QuietFrame i) (.semwait f) (.semwaitTwin f m)) ∧
  (∀ f m, WithTwin (fun i => QuietFrame i) (.tgwait f) (.tgwaitTwin f m)) ∧
  (∀ f m, WithTwin (fun i => QuietFrame i) (.fence f) (.fenceTwin f m)) ∧
  (∀ f m, WithTwin (fun i => QuietFrame i) (.pref f) (.prefTwin f m)) ∧
  (∀ f m, WithTwin (fun i => QuietFrame i) (.mma f) (.mmaTwin f m)) ∧
  (∀ f m, WithTwin (fun i => QuietFrame i) (.mmaq f) (.mmaqTwin f m)) ∧
  (∀ f m, WithTwin (fun i => QuietFrame i) (.mmas f) (.mmasTwin f m)) ∧
  (∀ f m, WithTwin (fun i => QuietFrame i) (.join f) (.joinTwin f m)) ∧
  (∀ f m, WithTwin (fun i => QuietFrame i) (.norm f) (.normTwin f m)) ∧
  (∀ f m, WithTwin (fun i => QuietFrame i) (.pcfg f) (.pcfgTwin f m)) ∧
  (∀ f m, WithTwin (fun i => QuietFrame i [f.d.toNat]) (.dload f) (.dloadTwin f m))

/-- Whatever a completing operation of a context that is not dying leaves, no byte outside those it stores has changed.
Of memory and scratchpads: WRITE_PERFORM of a store changes only the piece it performs (and a piece of global bytes
leaves there the last byte that it holds for each address); of a tile write only the named quarter, or the tile
under .aon; of TGINIT.go the piece, and with the last piece, where the record's page is present and its KIND is no
marker, the FLAGS word of a record whose count is zero; of a post the FLAGS word of a record without successors, and
nothing of one already posted; of a held release the count word and, as the count falls to 0 and KIND is no marker,
the FLAGS word, or the FLAGS word alone where the count is already 0; of a semaphore, pocket, heap or system
operation nothing, but for POISCLR's quarter. A link changes only the successor's count, the entry and NSUCC; a copy
only its destinations; a drain whose planning makes no page present only its entries; a matrix call without VSTAT
and JOIN nothing; NORM only its two rows of scratchpad bytes for each row. ATOMIC_PERFORM changes of memory only the
request's location, to the value that its lanes applied in ascending tid give; LOAD_COMPLETE no byte of memory,
LONG_OP_RESULT none at all. Follows R87, R97, R216, R223, R225, R242, R246, R247, R248, R268, R281, R103. -/
def Obligations.MemoryOperationsFrame : Prop :=
  (∀ id part s t o ps pois, findOp s id = some o → Stays s o → o.kind = .store ps pois → exec (.writePerform id part) s = .next t →
    OnlyLocs ((ps[part]?.getD []).map (·.1)) s t ∧
    (∀ p, ps[part]? = some p → Acts s id o → partBlocked s o ps p = false → (∀ x ∈ p, ∃ a, x.1 = .g a) →
      ∀ a, rdByte t a = (pendingByte (.g a) p).getD (rdByte s a))) ∧
  (∀ id part s t o pa team addr data pois left d, findOp s id = some o → Stays s o →
    o.kind = .tileWrite pa team addr false data pois left d → exec (.writePerform id part) s = .next t →
    OnlyLocs ((rangeFrom (pa + 32 * part) 32).map .g) s t) ∧
  (∀ id part s t o pa team addr data pois left d, findOp s id = some o → Stays s o →
    o.kind = .tileWrite pa team addr true data pois left d → exec (.writePerform id part) s = .next t →
    OnlyLocs ((rangeFrom pa 1024).map .g) s t) ∧
  (∀ id part s t o va ps, findOp s id = some o → Stays s o → o.kind = .go va ps → exec (.writePerform id part) s = .next t →
    (2 ≤ ps.length → OnlyLocs ((ps[part]?.getD []).map (·.1)) s t) ∧
    (∀ p pa, ps = [p] → part = 0 →
      let u := performPart s (writerOf o) 0 p false
      translate u homeUnit o.ctx va .write = .ok pa →
      (rdMem u pa 4 ≠ 0 → OnlyLocs (p.map (·.1)) s t) ∧
      (bitsOf (rdMem u (pa + 4) 4) 1 0 ≠ 2 → OnlyLocs (p.map (·.1) ++ (rangeFrom (pa + 4) 4).map .g) s t))) ∧
  (∀ id part s t o va locs pa, findOp s id = some o → Stays s o → o.kind = .post va locs →
    translate s homeUnit o.ctx va .write = .ok pa → exec (.writePerform id part) s = .next t →
    (bitOf (rdMem s (pa + 4) 4) 2 = true → OnlyLocs [] s t) ∧
    (rdMem s (pa + 0x20) 4 = 0 → OnlyLocs ((rangeFrom (pa + 4) 4).map .g) s t)) ∧
  (∀ id part s t o va pa, findOp s id = some o → Stays s o → o.kind = .release va →
    translate s homeUnit o.ctx va .write = .ok pa → exec (.writePerform id part) s = .next t →
    (rdMem s pa 4 = 0 → OnlyLocs ((rangeFrom (pa + 4) 4).map .g) s t) ∧
    (2 ≤ rdMem s pa 4 → OnlyLocs ((rangeFrom pa 4).map .g) s t) ∧
    (rdMem s pa 4 = 1 → bitsOf (rdMem s (pa + 4) 4) 1 0 ≠ 2 → OnlyLocs ((rangeFrom pa 8).map .g) s t)) ∧
  (∀ id part s t o, findOp s id = some o → Stays s o → exec (.writePerform id part) s = .next t →
    ((∃ c x i v set, o.kind = .semInc c x i v set) ∨ (∃ p k, o.kind = .pocket p k) ∨ (∃ k p, o.kind = .heap k p) →
      OnlyLocs [] s t) ∧
    (∀ p, o.kind = .system p → (∀ pa, p ≠ .clearPoison pa) → OnlyLocs [] s t) ∧
    (∀ pa, o.kind = .system (.clearPoison pa) → OnlyLocs ((rangeFrom pa 32).map .g) s t)) ∧
  (∀ id s t o locs op w lanes, findOp s id = some o → Stays s o → o.kind = .atomic locs op w lanes →
    exec (.atomicPerform id) s = .next t → OnlyBytes (locs.filterMap (fun l => match l with
      | .g a => some a
      | .s _ _ => none)) s t ∧
    (∀ pa n, locs = (rangeFrom pa n).map .g → Acts s id o → anyOwned s locs = false →
      ∀ i, i < n → rdByte t (pa + i) =
        (leBytes n (atomSteps op (sortBy (·.tid) lanes) (rdMem s pa n)).1).getD i 0)) ∧
  (∀ id s t o va succ locs d pa sp, findOp s id = some o → Stays s o → o.kind = .link va succ locs d →
    locs.head? = some (.g pa) → (locs.drop 128).head? = some (.g sp) → exec (.atomicPerform id) s = .next t →
    OnlyLocs ((rangeFrom sp 4 ++ rangeFrom (pa + 0x28 + 8 * rdMem s (pa + 0x20) 4) 8 ++ rangeFrom (pa + 0x20) 4).map .g) s t) ∧
  (∀ id e s t o, findOp s id = some o → Stays s o → exec (.loadComplete id e) s = .next t → OnlyBytes [] s t) ∧
  (∀ id s t o, findOp s id = some o → Stays s o → exec (.longOpResult id) s = .next t → OnlyLocs [] s t) ∧
  (∀ id s t o c go ls, findOp s id = some o → Stays s o → o.kind = .copy c go ls → exec (.copyComplete id) s = .next t →
    OnlyLocs (c.elems.flatMap (fun e => e.dst.flatMap (fun d => d.locs.getD []))) s t) ∧
  (∀ id s t o d k ls, findOp s id = some o → Stays s o → o.kind = .drain d k ls → (drainPlan s o d k).1.mem = s.mem →
    exec (.pdrnComplete id) s = .next t → OnlyLocs ((drainPlan s o d k).2.1.flatMap (fun e => e.kl ++ e.vl)) s t) ∧
  (∀ id s t o c k sg ranks, findOp s id = some o → Stays s o → o.kind = .call c k sg ranks →
    (c.vstat = false → exec (.mmaComplete id) s = .next t → OnlyLocs [] s t) ∧
    (exec (.joinComplete id) s = .next t → OnlyLocs [] s t) ∧
    (exec (.normComplete id) s = .next t →
      let w (n : Nat) : Nat := (c.regs.getD n 0).toNat
      let n := bitsOf (w 3) 15 0
      OnlyLocs ((List.range (bitsOf (w 3) 23 16)).flatMap (fun i =>
        callLocs s k (w 0) (w 4 * i) (n * normSize (bitsOf c.fmt.toNat 23 20))
          ++ callLocs s k (w 1) (w 4 * i) (n * normSize (bitsOf c.fmt.toNat 19 16)))) s t))

/-- SALU, SALUI, SMOVI, VRED (a scalar register), VALU, VFMA, VSQRT, VDIV, VBCAST, VCMP, VSEL (a vector register), VSPK
(both) and SFENCE (the thread's fence), for every shroud thread with a routine and every well-formed instruction:
memory, the rest of the machine, every other shroud, its queues and its other threads are as before; of the thread
itself only its place, the destination register and its poison change. SALU, SALUI, SMOVI and VRED to n0 change only
the place, and VSPK with B = n0 changes no scalar register. The shroud's control and memory instructions (SJMP,
SBRZ, SBRNZ, SLOOP, SEND, SKEY, SSEM, SLD, SST, VLD, VST) have no frame here: the exact next states of
ShroudScalarsComplete and ShroudMemoryCompletes, and of ShroudFaultsTaken where they fault, say what they change.
Follows R292, R293, R298, R302, R303, R304. -/
def Obligations.ShroudArithmeticFrame : Prop :=
  (∀ f, ShroudFrame (.salu f) (OnlyScalar f.d.toNat)) ∧
  (∀ f, ShroudFrame (.salui f) (OnlyScalar f.d.toNat)) ∧
  (∀ f, ShroudFrame (.smovi f) (OnlyScalar f.d.toNat)) ∧
  (∀ f, ShroudFrame (.vred f) (OnlyScalar f.d.toNat)) ∧
  (∀ f, ShroudFrame (.valu f) (OnlyVector f.d.toNat)) ∧
  (∀ f, ShroudFrame (.vfma f) (OnlyVector f.d.toNat)) ∧
  (∀ f, ShroudFrame (.vsqrt f) (OnlyVector f.d.toNat)) ∧
  (∀ f, ShroudFrame (.vdiv f) (OnlyVector f.d.toNat)) ∧
  (∀ f, ShroudFrame (.vbcast f) (OnlyVector f.d.toNat)) ∧
  (∀ f, ShroudFrame (.vcmp f) (OnlyVector f.d.toNat)) ∧
  (∀ f, ShroudFrame (.vsel f) (OnlyVector f.d.toNat)) ∧
  (∀ f, ShroudFrame (.vspk f) (fun a b => ∃ m, OnlyVector f.d.toNat a m ∧ OnlyScalar f.b.toNat m b)) ∧
  (∀ f, ShroudFrame (.sfence f) (fun a b => b = { a with word := b.word, fence := b.fence })) ∧
  (∀ s t h i, (∃ f : SR, f.d = 0 ∧ i = .salu f) ∨ (∃ f : SF, f.d = 0 ∧ i = .salui f) ∨ (∃ f : SI, f.d = 0 ∧ i = .smovi f)
      ∨ (∃ f : SR, f.d = 0 ∧ i = .vred f) → routineOf i s = some h → exec i s = .next t →
    mfind (getShroud t h.k).threads h.t = some { h.x with word := h.x.word + 1 }) ∧
  (∀ f s t h, routineOf (.vspk f) s = some h → f.b = 0 → exec (.vspk f) s = .next t →
    ∃ y, mfind (getShroud t h.k).threads h.t = some y ∧ OnlyVector f.d.toNat h.x y)

/-- For every context: a triple whose limit is not above its base holds no address; an address of the heap translates
for reads and writes to (VA + HEAP_OFFSET) mod 2^48, whatever memory (the page tables) and the TLB hold, with no
miss, but that an argument block of a launch is read-only there too; it grants no execute permission; only bits
above 55 make a read fault. That a write to an argument block faults with reason 2 within the heap too is the
model's reading of R62 and R343 beside R341 (log 28, DEDUCED). The triple that Maluk gives a context as it creates
it is of multiples of 2 MiB. Follows R341, R62, R343. -/
def Obligations.HeapTranslation : Prop :=
  (∀ (s : State) ctx (c : Ctx) va, mfind s.ctxs ctx = some c →
    (c.heapLimit ≤ c.heapBase → ¬(c.heapBase ≤ va ∧ va < c.heapLimit)) ∧
    (c.heapBase ≤ va → va < c.heapLimit → ∀ unit mem tlb,
      let u : State := { s with mem := mem, tlb := tlb }
      (va < 2 ^ 56 → translate u unit ctx va .read = .ok ((va + c.heapOff) % 2 ^ 48) ∧
        ((windowsAt c va).any (fun w => w.kind == .args) = false → translate u unit ctx va .write = .ok ((va + c.heapOff) % 2 ^ 48)) ∧
        ((windowsAt c va).any (fun w => w.kind == .args) = true → translate u unit ctx va .write = .error 2) ∧
        translate u unit ctx va .fetch = .error 2) ∧
      (2 ^ 56 ≤ va → ∀ a, translate u unit ctx va a = .error 3) ∧
      missesTlb u unit ctx va = false)) ∧
  (∀ (s : State) (q : MReq) (r : Reply) id c, createCtxAct s q = .ok r → mfind s.ctxs id = none → mfind r.s.ctxs id = some c →
    c.heapBase % 2 ^ 21 = 0 ∧ c.heapLimit % 2 ^ 21 = 0 ∧ c.heapOff % 2 ^ 21 = 0) ∧
  (∀ (s : State) (c : Ctx), mfind s.ctxs serviceCtx = none → mfind (createService s).ctxs serviceCtx = some c →
    c.heapBase % 2 ^ 21 = 0 ∧ c.heapLimit % 2 ^ 21 = 0 ∧ c.heapOff % 2 ^ 21 = 0)

/-- ATOMIC_PERFORM of a TGLINK whose records no engine owns: a posted record gives status 1 and a full one status 2,
with nothing else changed; else the successor's PRED_COUNT rises by 1 before SUCC[NSUCC] holds the successor and
NSUCC rises by 1, and the status is 0, all in one step. Follows R247. -/
def Obligations.TaskLink : Prop :=
  ∀ id s o va succ locs d pa sp, Acts s id o → o.kind = .link va succ locs d → anyOwned s locs = false →
    locs.head? = some (.g pa) → (locs.drop 128).head? = some (.g sp) →
    let n := rdMem s (pa + 0x20) 4
    let write (s : State) (a w v : Nat) : State := performQuarter s (writerOf o) 0 ((rangeFrom a w).zip (leBytes w v)) false
    (bitOf (rdMem s (pa + 4) 4) 2 = true → exec (.atomicPerform id) s = .next (wroteEnd (arrive s d 1 false) o)) ∧
    (bitOf (rdMem s (pa + 4) 4) 2 = false → 11 ≤ n → exec (.atomicPerform id) s = .next (wroteEnd (arrive s d 2 false) o)) ∧
    (bitOf (rdMem s (pa + 4) 4) 2 = false → n < 11 → exec (.atomicPerform id) s = .next
      (wroteEnd (arrive (readFresh (write (write (write s sp 4 ((rdMem s sp 4 + 1) % 2 ^ 32)) (pa + 0x28 + 8 * n) 8 succ)
        (pa + 0x20) 4 ((n + 1) % 2 ^ 32)) o.core locs) d 0 false) o))

/-- Reading a scalar register gives all 64 bits to a 64-bit source and the low 32 to a 32-bit source, the same for every
thread. Where the results of a run go to scalar register k, the group's k holds the first result (that of the
lowest-numbered thread), and every other scalar register is as before; a 32-bit result fills the low half and clears
the upper. MOV to a scalar register does so for every run whose threads read their operand, whatever U is. The
premise that no thread of the run has passed the instruction holds wherever a run stands at one whose field D is a
scalar register: all its threads wait there for one another (notes/assumptions/33.md). Follows R50. -/
def Obligations.ScalarRegisters : Prop :=
  (∀ s cx tid k w, k < 16 → (∀ wide, (readCode s cx tid (96 + k) wide).run w =
    .ok (if wide then (mget 0 cx.g.scal k).toNat else (mget 0 cx.g.scal k).toNat % 2 ^ 32, w))) ∧
  (∀ s cx g k x xs, getGroup s cx.gid = some g → cx.fl.past = [] → x.plan = .scal k → x.val.long = false →
    (∀ y ∈ xs, y.plan = .scal k ∨ y.plan = .none) →
    ∃ h, getGroup (commitAll s cx (x :: xs)) cx.gid = some h ∧
      mget 0 h.scal k = x.val.scalar.getD (BitVec.ofNat 64 (wordsVal x.val.words)) ∧ ∀ j, j ≠ k → mget 0 h.scal j = mget 0 g.scal j) ∧
  (∀ v : W32, (BitVec.ofNat 64 (wordsVal [v])).toNat = v.toNat) ∧
  (∀ f s cx k g gs, runOf (.mov f) s = some cx → cx.fl.past = [] → cx.f.d.toNat = 96 + k → k < 16 →
    LaneOk s cx true (read1 s cx) (fun _ g => outN cx g.val) → gotOf s cx true (read1 s cx) = g :: gs →
    ∃ t h, exec (.mov f) s = .next t ∧ getGroup t cx.gid = some h ∧
      (mget 0 h.scal k).toNat = g.val % 2 ^ (if cx.wide then 64 else 32))

/-- A user-class trap of a thread outside handler mode under a kernel with a trap vector: the thread is READY at the
vector with its trap record written and handler mode entered with its return point, and all else of it (registers,
predicates, window base, streams, flags) as the trapping instruction found it. Without a vector, or in handler mode,
the thread parks at its resume point with the record written, and a FAULT event with one record, or the first trap's
(kept since the thread entered handler mode) and the second's, goes to the launch's endpoint. TRAP does the first
for every thread of its run, with code USER and its immediate as INFO. Follows R311, R347, R348, R349, R350, R171. -/
def Obligations.UserTrapDelivery : Prop :=
  (∀ s k lid gid tid sub a tr g v, getGroup s gid = some g → tid < g.threads.length → k.trapvec = some v →
    (thread g tid).handler = none → ∃ h, getGroup (deliverUser s (some k) lid gid tid sub a tr) gid = some h ∧
      thread h tid = { thread g tid with
        st := .ready, pc := BitVec.ofNat 64 (k.text + v), trap := recordOf a tr, handler := some (handlerOf a tr) }) ∧
  (∀ s k lid gid tid sub a tr g, getGroup s gid = some g → tid < g.threads.length →
    (k.trapvec = none ∨ (thread g tid).handler ≠ none) →
    ∃ h, getGroup (deliverUser s (some k) lid gid tid sub a tr) gid = some h ∧
      thread h tid = { thread g tid with st := .parked sub, pc := resumePoint a, trap := recordOf a tr } ∧
      ∀ l, mfind s.launches lid = some l → ∃ e, (deliverUser s (some k) lid gid tid sub a tr).events = s.events ++ [e] ∧
        e.kind = 0x81 ∧ e.endpoint = l.endpoint ∧
        e.body = pad8 (leBytes 8 l.utag ++ (match (thread g tid).handler with
          | none => trapBytes (recordOf a tr)
          | some h => trapBytes h.record ++ trapBytes (recordOf a tr)) ++ leBytes 4 tid ++ leBytes 4 g.grp)) ∧
  (∀ a tr, (handlerOf a tr).record = recordOf a tr) ∧
  (∀ f s cx v, runOf (.trap f) s = some cx → cx.k.trapvec = some v → cx.fl.run.Nodup →
    (∀ i ∈ cx.fl.run, i < cx.g.threads.length ∧ (thread cx.g i).handler = none) →
    ∃ t h, exec (.trap f) s = .next t ∧ getGroup t cx.gid = some h ∧ ∀ i ∈ cx.fl.run,
      let a : TrapAt := { hdr := cx.fl.hdr, slot := cx.fl.slot, opcode := 0x011, ext := false, uniform := false, header := false }
      let tr : Trap := { code := 0, info := f.imm.toNat }
      thread h i = { thread cx.g i with
        st := .ready, pc := BitVec.ofNat 64 (cx.k.text + v), trap := recordOf a tr, handler := some (handlerOf a tr) })

/-- A write of HALYARD_CTL sets REEF_MIN to bits 10 to 8 of the word and nothing else; the register reads CLAIMS in bits
31 to 24, REEF_MIN in 10 to 8, REEF in 2 to 0 and zero in the reserved bits; after reset it reads 7; and an interval
boundary leaves REEF at 7 while first-stage firmware has not written REEF_MIN. Follows R374. -/
def Obligations.HalyardControl : Prop :=
  (∀ die value s, exec (.halyardCtlWrite die value) s =
    .next (setDie s (die % 8) { getDie s (die % 8) with reefMin := bitsOf value 10 8 })) ∧
  (∀ d : Die, d.reef < 8 → d.reefMin < 8 → d.claims.length < 256 →
    bitsOf (ctlWord d) 31 24 = d.claims.length ∧ bitsOf (ctlWord d) 23 11 = 0 ∧ bitsOf (ctlWord d) 10 8 = d.reefMin ∧
      bitsOf (ctlWord d) 7 3 = 0 ∧ bitsOf (ctlWord d) 2 0 = d.reef) ∧
  (∀ k, ctlWord (getDie State.reset k) = 7 ∧ (getDie State.reset k).reefOpen = false) ∧
  (∀ wish s t k, (getDie s k).reefOpen = false → (getDie s k).reef = 7 → exec (.intervalBoundary wish) s = .next t →
    (getDie t k).reefOpen = false ∧ (getDie t k).reef = 7)

/-- A value of n bytes read at an address has its least significant byte there and the others above it in order, and a
64-bit field has its low word at the lower address. Writing the n bytes of a value and reading them gives the value
modulo 2^(8n), with byte i holding bits 8i to 8i+7; no byte outside the written ones changes. Follows R2. -/
def Obligations.ByteOrder : Prop :=
  (∀ s pa n, rdMem s pa 0 = 0 ∧ rdMem s pa (n + 1) = (rdByte s pa).toNat + 256 * rdMem s (pa + 1) n) ∧
  (∀ s pa, rdMem s pa 8 = rdMem s pa 4 + 2 ^ 32 * rdMem s (pa + 4) 4) ∧
  (∀ s pa n v, rdMem (wrBytes s pa (leBytes n v)) pa n = v % 2 ^ (8 * n)) ∧
  (∀ s pa n v i, i < n → (rdByte (wrBytes s pa (leBytes n v)) (pa + i)).toNat = v / 2 ^ (8 * i) % 256) ∧
  (∀ s pa bs a, a < pa ∨ pa + bs.length ≤ a → rdByte (wrBytes s pa bs) a = rdByte s a)

/-- Every core instruction, for every run in flight: with an illegal field, a missing feature, or a place in its clause
that it may not have, the run takes ILLEGAL; else, a privileged instruction in a context without privilege takes
PRIV; else the last instruction of the section's last clause, unless it never falls through, takes ILLEGAL_TARGET;
else an instruction whose price would pass the clause's CANVAS field takes CANVAS_SHORT with the sum as INFO. Each
is taken by every thread of the run and the instruction has no effect. The order ILLEGAL, PRIV, ILLEGAL_TARGET and
the UNIFORM bit of these traps are the model's choice (notes/assumptions/5.md). Follows R123, R130, R139, R140. -/
def Obligations.DecodeTrapsTaken : Prop :=
  ∀ i s c cx, coreForm i = some c → runCx s c.op c.ext c.e c.m c.f = some cx →
    let bad := wellFormed i = false ∨ (c.e.last = true ∧ cx.fl.slot + cx.slots ≠ hLen cx.fl.w0)
      ∨ hLen cx.fl.w0 < cx.fl.slot + cx.slots ∨ ∃ k ∈ c.e.feat :: featsOf (c.op % 512) c.f.b c.m, cx.granted k = false
    let past := cx.isLast = true ∧ noFall (c.op % 512) = false ∧ cx.hasNext = false
    let p := price (c.op % 512) (c.f.b.toNat / 8 % 4 + 1)
    (bad → exec i s = .next (trapWhole s cx cx.uni { code := 0x01 })) ∧
    (¬ bad → c.e.priv = true → cx.c.priv = false → exec i s = .next (trapWhole s cx cx.uni { code := 0x11 })) ∧
    (¬ bad → (c.e.priv = true → cx.c.priv = true) → past → exec i s = .next (trapWhole s cx cx.uni { code := 0x02 })) ∧
    (¬ bad → (c.e.priv = true → cx.c.priv = true) → ¬ past → hCanvas cx.fl.w0 < cx.fl.sum + p →
      exec i s = .next (trapWhole s cx false { code := 0x07, info := cx.fl.sum + p }))

/-- At power-on nothing has booted, there is no session, context, launch, group or operation in flight, memory lists
nothing, every die's HALYARD_CTL reads 7 and every cluster's VMAIL reads CURRENT_MV and TARGET_MV 450; with no turn
listed a step changes nothing; and the invariant holds. (What unwritten memory reads as is the model's choice,
notes/assumptions/2.md.) Follows R374, R375, R397. -/
def Obligations.ResetState : Prop :=
  (State.reset.boot = .off ∧ State.reset.time = 0 ∧ State.reset.mem = [] ∧ State.reset.vers = [] ∧ State.reset.pois = []
    ∧ State.reset.ops = [] ∧ State.reset.vis = [] ∧ State.reset.ctxs = [] ∧ State.reset.launches = [] ∧ State.reset.groups = []
    ∧ State.reset.cur = .none ∧ State.reset.turns = []) ∧
  (∀ k, ctlWord (getDie State.reset k) = 7 ∧ vmailWord State.reset k = 450 * 2 ^ 20 + 450) ∧
  step State.reset = .next State.reset ∧ Sound State.reset

/-- The instruction words that the spec's worked encodings write out, of the integer, move, floating-point, group-data,
stream, memory, copy, semaphore, pocket, matrix, generation and control families and of the shroud, decode to the
instruction, with its fields, that the spec gives beside them. Follows R131, R133, R134, R135, R137, R294. -/
def Obligations.DecodeWords : Prop :=
  decodeWords [0x48007A80, 0x00200003] = .ok (.iaddTwin { u := false, d := 1, a := 117, b := 0 } { rnd := 0, sat := false, scope := 0, ty := 0, lit := true, low := 3 }) ∧
  decodeWords [0x08408081] = .ok (.imul { u := false, d := 2, a := 1, b := 1 }) ∧
  decodeWords [0x4800C082, 0x10000000] = .ok (.iaddTwin { u := false, d := 3, a := 1, b := 2 } { rnd := 0, sat := true, scope := 0, ty := 0, lit := false, low := 0 }) ∧
  decodeWords [0x00C00000] = .ok (.exit { u := false, d := 0, a := 0, b := 0 }) ∧
  decodeWords [0x09A44184] = .ok (.isetp { u := false, d := 17, a := 3, b := 4 }) ∧
  decodeWords [0x04200000] = .ok (.brcT 1 { u := false, off := 0 }) ∧
  decodeWords [0x09AA3AE3] = .ok (.isetp { u := false, d := 40, a := 117, b := 99 }) ∧
  decodeWords [0x0400000E] = .ok (.brcT 0 { u := false, off := 14 }) ∧
  decodeWords [0x4A007A80, 0x00200002] = .ok (.shlTwin { u := false, d := 1, a := 117, b := 0 } { rnd := 0, sat := false, scope := 0, ty := 0, lit := true, low := 2 }) ∧
  decodeWords [0x2000B001] = .ok (.ld { u := false, d := 2, a := 96, b := 1 }) ∧
  decodeWords [0x10010103] = .ok (.fadd { u := false, d := 4, a := 2, b := 3 }) ∧
  decodeWords [0x20213101] = .ok (.st { u := false, d := 4, a := 98, b := 1 }) ∧
  decodeWords [0x60023100, 0x01600010] = .ok (.ldTwin { u := false, d := 8, a := 98, b := 0 } { rnd := 0, sat := false, scope := 0, ty := 5, lit := true, low := 16 }) ∧
  decodeWords [0x61208274, 0x04000000] = .ok (.strTwin { u := false, d := 2, a := 4, b := 116 } { rnd := 0, sat := false, scope := 2, ty := 0, lit := false, low := 0 }) ∧
  decodeWords [0x61400000, 0x02000000] = .ok (.fenceTwin { u := false, d := 0, a := 0, b := 0 } { rnd := 0, sat := false, scope := 1, ty := 0, lit := false, low := 0 }) ∧
  decodeWords [0xA4010474] = .ok (.copy { u := true, d := 4, a := 8, b := 116 }) ∧
  decodeWords [0x4C270000, 0x38000001] = .ok (.moviLiteral { u := false, d := 28, imm := 0 } 0x38000001) ∧
  decodeWords [0x0A208F81] = .ok (.shr { u := false, d := 2, a := 31, b := 1 }) ∧
  decodeWords [0x60023001, 0x01C00000] = .ok (.ldTwin { u := false, d := 8, a := 96, b := 1 } { rnd := 0, sat := false, scope := 0, ty := 7, lit := false, low := 0 }) ∧
  decodeWords [0x1CE00400] = .ok (.dset { u := false, d := 0, a := 8, b := 0 }) ∧
  decodeWords [0x1C604800] = .ok (.dload { u := false, d := 1, a := 16, b := 0 }) ∧
  decodeWords [0x0C017C80] = .ok (.mov { u := false, d := 5, a := 121, b := 0 }) ∧
  decodeWords [0x1CC60000] = .ok (.dget { u := false, d := 24, a := 0, b := 0 }) ∧
  decodeWords [0x60263181, 0x01C00000] = .ok (.stTwin { u := false, d := 24, a := 99, b := 1 } { rnd := 0, sat := false, scope := 0, ty := 7, lit := false, low := 0 }) ∧
  decodeWords [0x09E23074] = .ok (.lea { u := false, d := 8, a := 96, b := 116 }) ∧
  decodeWords [0xE4210400, 0x00020000] = .ok (.copysTwin { u := true, d := 4, a := 8, b := 0 } { rnd := 0, sat := false, scope := 0, ty := 0, lit := false, low := 131072 }) ∧
  decodeWords [0x64A00103, 0x04000000] = .ok (.semwaitTwin { u := false, d := 0, a := 2, b := 3 } { rnd := 0, sat := false, scope := 2, ty := 0, lit := false, low := 0 }) ∧
  decodeWords [0xA8800A00] = .ok (.pcfg { u := true, d := 0, a := 20, b := 0 }) ∧
  decodeWords [0x28654C00] = .ok (.join { u := false, d := 21, a := 24, b := 0 }) ∧
  decodeWords [0xE9218474, 0x00010000] = .ok (.pdrnTwin { u := true, d := 6, a := 8, b := 116 } { rnd := 0, sat := false, scope := 0, ty := 0, lit := false, low := 65536 }) ∧
  decodeWords [0x28E00503] = .ok (.pcnt { u := false, d := 0, a := 10, b := 3 }) ∧
  decodeWords [0x01E07580] = .ok (.clset { u := false, d := 1, a := 107, b := 0 }) ∧
  decodeWords [0x68011801, 0x00020000] = .ok (.mmaTwin { u := false, d := 4, a := 48, b := 1 } { rnd := 0, sat := false, scope := 0, ty := 0, lit := false, low := 131072 }) ∧
  decodeWords [0xA161B287] = .ok (.atomAdd { u := true, d := 6, a := 101, b := 7 }) ∧
  decodeWords [0xA9B02200] = .ok (.smrg { u := true, d := 64, a := 68, b := 0 }) ∧
  decodeWords [0xA9D3A400] = .ok (.spick { u := true, d := 78, a := 72, b := 0 }) ∧
  decodeWords [0x29850C00] = .ok (.norm { u := false, d := 20, a := 24, b := 0 }) ∧
  decodeWords [0x1108BC10] = .ok (.fsetp { u := false, d := 34, a := 120, b := 16 }) ∧
  decodeWords [0x1A648100] = .ok (.ballot { u := false, d := 18, a := 2, b := 0 }) ∧
  decodeWords [0x1A854900] = .ok (.ffs { u := false, d := 21, a := 18, b := 0 }) ∧
  decodeWords [0x69CA1000, 0x00010000] = .ok (.spickTwin { u := false, d := 40, a := 32, b := 0 } { rnd := 0, sat := false, scope := 0, ty := 0, lit := false, low := 65536 }) ∧
  decodeWords [0x297D1800] = .ok (.pdel { u := false, d := 116, a := 48, b := 0 }) ∧
  decodeWords [0x621D322F, 0x00400000] = .ok (.atomOrTwin { u := false, d := 116, a := 100, b := 47 } { rnd := 0, sat := false, scope := 0, ty := 1, lit := false, low := 0 }) ∧
  decodeWords [0x68CE9C00, 0x001C0000] = .ok (.plupTwin { u := false, d := 58, a := 56, b := 0 } { rnd := 0, sat := false, scope := 0, ty := 0, lit := false, low := 1835008 }) ∧
  decodeWords [0x01600080] = .ok (.rejnCmt { u := false, d := 0, a := 1, b := 0 }) ∧
  decodeShroud 0x40C20000 = .ok (.sld { d := 3, a := 1, imm := 0 }) ∧
  decodeShroud 0x32D0E020 = .ok (.salui { d := 11, a := 8, fn := 7, imm := 32 }) ∧
  decodeShroud 0x85271000 = .ok (.vfma { d := 20, a := 19, b := 17, f := 0 }) ∧
  decodeShroud 0x748CC021 = .ok (.vst { d := 18, a := 6, b := 12, f := 0x021 }) ∧
  decodeShroud 0x21C1FFF2 = .ok (.sloop { a := 7, z := 0, off := 0x1FFF2 })

/-- For every well-formed instruction of the core, with every operand at every value that its entry admits, decoding its
one or two words gives the instruction; for every well-formed shroud instruction its encoding is one word, which the
shroud decoder reads back. Follows R131, R134, R135, R137, R138, R294. -/
def Obligations.RoundTrip : Prop :=
  (∀ i, wellFormed i = true → isCore i = true → decodeWords (encode i) = .ok i) ∧
  (∀ i, wellFormed i = true → isCore i = false → isEvent i = false → ∃ w, encode i = [w] ∧ decodeShroud w = .ok i)

/-- Whatever core words decode, the instruction is a well-formed core instruction, and encoding it gives back the word,
and for a twin its extension word, that was read, so that no two encodings mean one instruction; and the same for
the shroud. Follows R131, R134, R135, R137, R138, R139, R294, R295. -/
def Obligations.DecodedIsWellFormed : Prop :=
  (∀ w x i, decodeWord w x = .ok i → wellFormed i = true ∧ isCore i = true ∧ encode i = w :: (if isTwin w then x.toList else [])) ∧
  (∀ w i, decodeShroud w = .ok i → wellFormed i = true ∧ isCore i = false ∧ isEvent i = false ∧ encode i = [w])

/-- Before each step core rails without power go dark and the canvas queues take what has become eligible (settle,
rails); in that state, with no turn listed, a step of a group whose run stands at a slot that translates with
execute permission and is not poisoned, and whose word (with the next slot's word for a twin inside its clause)
decodes to i, is exec of i, once the fetch's translations are noted in the TLB, the walks and the group's miss
counter and nowhere else; a word that does not decode takes ILLEGAL, and a fetch that fails takes its trap; a step
of a shroud thread inside its routine is exec of its word's instruction, one past its end takes ILLEGAL_TARGET, and
one at a word that does not decode takes ILLEGAL; a listed machine event is executed with its turn removed; a listed
agent takes the step. Follows R22, R122, R131, R139, R294, R308. -/
def Obligations.StepRunsDecodedInstruction : Prop :=
  ∀ s, let s' := settle (rails s)
  (∀ gid g fl l pa i, s'.turns = [] → s'.cur = .group gid → getGroup s' gid = some g → g.flight = some fl →
    mfind s'.launches g.launch = some l → translate s' g.core l.ctx (slotAddr fl.hdr fl.slot).toNat .fetch = .ok pa →
    isPoisoned s' (quarterOf pa) = false → isTwin (BitVec.ofNat 32 (rdMem s' pa 4)) = false →
    decodeWord (BitVec.ofNat 32 (rdMem s' pa 4)) none = .ok i → step s = exec i (touchFetch s' gid none)) ∧
  (∀ gid g fl l pa pb i, s'.turns = [] → s'.cur = .group gid → getGroup s' gid = some g → g.flight = some fl →
    mfind s'.launches g.launch = some l → translate s' g.core l.ctx (slotAddr fl.hdr fl.slot).toNat .fetch = .ok pa →
    isPoisoned s' (quarterOf pa) = false → isTwin (BitVec.ofNat 32 (rdMem s' pa 4)) = true → fl.slot + 1 < hLen fl.w0 →
    translate s' g.core l.ctx (slotAddr fl.hdr (fl.slot + 1)).toNat .fetch = .ok pb → isPoisoned s' (quarterOf pb) = false →
    let x := BitVec.ofNat 32 (rdMem s' pb 4)
    decodeWord (BitVec.ofNat 32 (rdMem s' pa 4)) (some x) = .ok i → step s = exec i (touchFetch s' gid (some x))) ∧
  (∀ gid x, (∀ a, rdByte (touchFetch s' gid x) a = rdByte s' a) ∧
    (∃ w l n g, touchFetch s' gid x = { s' with walks := w, tlb := l, nextId := n, groups := g }) ∧
    ∀ j h, getGroup (touchFetch s' gid x) j = some h → ∃ g, getGroup s' j = some g ∧ h = { g with tlbMisses := h.tlbMisses }) ∧
  (∀ gid w x, s'.turns = [] → s'.cur = .group gid → fetchLane s' gid = .word w x → (∀ i, decodeWord w x ≠ .ok i) →
    step s = .next (trapSlot (touchFetch s' gid x) gid w { code := 0x01 })) ∧
  (∀ gid w t, s'.turns = [] → s'.cur = .group gid → fetchLane s' gid = .trap w t → step s = .next (trapFetch s' gid w t)) ∧
  (∀ k t x i, s'.turns = [] → s'.cur = .shroud k t → mfind (getShroud s' k).threads t = some x → x.word < x.len →
    decodeShroud (BitVec.ofNat 32 (rdMem s' (x.code + 4 * x.word) 4)) = .ok i → step s = exec i s') ∧
  (∀ k t x, s'.turns = [] → s'.cur = .shroud k t → mfind (getShroud s' k).threads t = some x → x.len ≤ x.word →
    step s = .next (endFault s' k t { x with word := x.len } 0x02)) ∧
  (∀ k t x, s'.turns = [] → s'.cur = .shroud k t → mfind (getShroud s' k).threads t = some x → x.word < x.len →
    (∀ i, decodeShroud (BitVec.ofNat 32 (rdMem s' (x.code + 4 * x.word) 4)) ≠ .ok i) →
    step s = .next (endFault s' k t x 0x01)) ∧
  (∀ i r, s'.turns = .event i :: r → isEvent i = true → step s = exec i { s' with turns := r }) ∧
  (∀ a r, s'.turns = .agent a :: r → step s = stepAgent a { s' with turns := r, cur := a })

/-- For every state of the invariant, whatever turn or agent goes next and whatever it executes, a next state is of the
invariant: memory lists bytes by strictly rising address and none that reads as an unlisted one does, every version
word is even, and every die's reef level and REEF_MIN are at most 7. Follows R85, R95, R368, R374. -/
def Obligations.InvStep : Prop :=
  ∀ s t, Sound s → step s = .next t → Sound t
end

