-- ==== Sys2Proof/Laws/Encoding.lean ====
section
/-! SUPPORT. Each field of an encoded word reads back as the field it was built from (R131, R134, R135, R294). -/

namespace Sys2Proof

/-- The low part of a concatenation. -/
theorem extract_low {n m : Nat} (x : BitVec n) (y : BitVec m) : (x ++ y).extractLsb' 0 m = y := by
  apply BitVec.eq_of_getLsbD_eq
  intro i hi
  simp [BitVec.getLsbD_append, hi]

/-- A part of a concatenation above its low part. -/
theorem extract_high {n m : Nat} (x : BitVec n) (y : BitVec m) (k w : Nat) (h : m ≤ k) :
    (x ++ y).extractLsb' k w = x.extractLsb' (k - m) w := by
  apply BitVec.eq_of_getLsbD_eq
  intro i hi
  have : ¬ k + i < m := by omega
  simp [BitVec.getLsbD_append, hi, this, Nat.sub_add_comm h]

/-- A bit of a concatenation above its low part. -/
theorem bit_high {n m : Nat} (x : BitVec n) (y : BitVec m) (k : Nat) (h : m ≤ k) :
    (x ++ y).getLsbD k = x.getLsbD (k - m) := by
  have : ¬ k < m := by omega
  simp [BitVec.getLsbD_append, this]

/-- A bit of the low part of a concatenation. -/
theorem bit_low {n m : Nat} (x : BitVec n) (y : BitVec m) (k : Nat) (h : k < m) : (x ++ y).getLsbD k = y.getLsbD k := by
  simp [BitVec.getLsbD_append, h]

theorem bit1_zero (b : Bool) : (bit1 b).getLsbD 0 = b := by cases b <;> rfl
theorem one_zero (x : BitVec 1) : x.getLsbD 0 = (x == 1) := by revert x; decide

theorem isTwin_wordR (x : BitVec 1) (op : Nat) (f : FR) : isTwin (wordR x op f) = (x == 1) := by
  rw [← one_zero, isTwin, wordR, bit_high _ _ _ (by decide), bit_high _ _ _ (by decide), bit_high _ _ _ (by decide),
    bit_high _ _ _ (by decide), bit_low _ _ _ (by decide)]
theorem isTwin_wordI (x : BitVec 1) (op : Nat) (f : FI) : isTwin (wordI x op f) = (x == 1) := by
  rw [← one_zero, isTwin, wordI, bit_high _ _ _ (by decide), bit_high _ _ _ (by decide), bit_high _ _ _ (by decide),
    bit_low _ _ _ (by decide)]
theorem isTwin_wordB (op : Nat) (f : FB) : isTwin (wordB op f) = false := by
  rw [isTwin, wordB, bit_high _ _ _ (by decide), bit_high _ _ _ (by decide), bit_low _ _ _ (by decide)]
  rfl

theorem opcodeOf_wordR (x : BitVec 1) (op : Nat) (f : FR) (h : op < 512) : opcodeOf (wordR x op f) = op := by
  rw [opcodeOf, wordR, extract_high _ _ _ _ (by decide), extract_high _ _ _ _ (by decide), extract_high _ _ _ _ (by decide),
    extract_low, BitVec.toNat_ofNat]
  exact Nat.mod_eq_of_lt h
theorem opcodeOf_wordI (x : BitVec 1) (op : Nat) (f : FI) (h : op < 512) : opcodeOf (wordI x op f) = op := by
  rw [opcodeOf, wordI, extract_high _ _ _ _ (by decide), extract_high _ _ _ _ (by decide), extract_low, BitVec.toNat_ofNat]
  exact Nat.mod_eq_of_lt h
theorem opcodeOf_wordB (op : Nat) (f : FB) (h : op < 512) : opcodeOf (wordB op f) = op := by
  rw [opcodeOf, wordB, extract_high _ _ _ _ (by decide), extract_low, BitVec.toNat_ofNat]
  exact Nat.mod_eq_of_lt h

theorem frOf_wordR (x : BitVec 1) (op : Nat) (f : FR) : frOf (wordR x op f) = f := by
  have hu : (wordR x op f).getLsbD 31 = f.u := by
    rw [wordR, bit_high _ _ _ (by decide), bit_high _ _ _ (by decide), bit_high _ _ _ (by decide),
      bit_high _ _ _ (by decide), bit_high _ _ _ (by decide)]
    exact bit1_zero _
  have hd : (wordR x op f).extractLsb' 14 7 = f.d := by
    rw [wordR, extract_high _ _ _ _ (by decide), extract_high _ _ _ _ (by decide), extract_low]
  have ha : (wordR x op f).extractLsb' 7 7 = f.a := by
    rw [wordR, extract_high _ _ _ _ (by decide), extract_low]
  have hb : (wordR x op f).extractLsb' 0 7 = f.b := by rw [wordR, extract_low]
  rw [frOf, hu, hd, ha, hb]
theorem fiOf_wordI (x : BitVec 1) (op : Nat) (f : FI) : fiOf (wordI x op f) = f := by
  have hu : (wordI x op f).getLsbD 31 = f.u := by
    rw [wordI, bit_high _ _ _ (by decide), bit_high _ _ _ (by decide), bit_high _ _ _ (by decide), bit_high _ _ _ (by decide)]
    exact bit1_zero _
  have hd : (wordI x op f).extractLsb' 14 7 = f.d := by rw [wordI, extract_high _ _ _ _ (by decide), extract_low]
  have hi : (wordI x op f).extractLsb' 0 14 = f.imm := by rw [wordI, extract_low]
  rw [fiOf, hu, hd, hi]
theorem fbOf_wordB (op : Nat) (f : FB) : fbOf (wordB op f) = f := by
  have hu : (wordB op f).getLsbD 31 = f.u := by
    rw [wordB, bit_high _ _ _ (by decide), bit_high _ _ _ (by decide), bit_high _ _ _ (by decide)]
    exact bit1_zero _
  have ho : (wordB op f).extractLsb' 0 21 = f.off := by rw [wordB, extract_low]
  rw [fbOf, hu, ho]
theorem modOf_wordM (m : Mod) : modOf (wordM m) = m := by
  have h1 : (wordM m).extractLsb' 29 3 = m.rnd := by
    rw [wordM, extract_high _ _ _ _ (by decide), extract_high _ _ _ _ (by decide), extract_high _ _ _ _ (by decide),
      extract_high _ _ _ _ (by decide), extract_high _ _ _ _ (by decide)]
    simp
  have h2 : (wordM m).getLsbD 28 = m.sat := by
    rw [wordM, bit_high _ _ _ (by decide), bit_high _ _ _ (by decide), bit_high _ _ _ (by decide), bit_high _ _ _ (by decide),
      bit_low _ _ _ (by decide)]
    exact bit1_zero _
  have h3 : (wordM m).extractLsb' 25 3 = m.scope := by
    rw [wordM, extract_high _ _ _ _ (by decide), extract_high _ _ _ _ (by decide), extract_high _ _ _ _ (by decide), extract_low]
  have h4 : (wordM m).extractLsb' 22 3 = m.ty := by
    rw [wordM, extract_high _ _ _ _ (by decide), extract_high _ _ _ _ (by decide), extract_low]
  have h5 : (wordM m).getLsbD 21 = m.lit := by
    rw [wordM, bit_high _ _ _ (by decide), bit_low _ _ _ (by decide)]
    exact bit1_zero _
  have h6 : (wordM m).extractLsb' 0 21 = m.low := by rw [wordM, extract_low]
  rw [modOf, h1, h2, h3, h4, h5, h6]

/-- Words of the shroud's formats SR, SI, SF and SB (R294). -/
theorem srOf_word (op : Nat) (f : SR) : srOf (BitVec.ofNat 5 op ++ f.d ++ f.a ++ f.b ++ f.f) = f := by
  unfold srOf
  rw [extract_low]
  simp only [extract_high _ _ 22 _ (show 12 ≤ 22 by decide), extract_high _ _ 17 _ (show 12 ≤ 17 by decide),
    extract_high _ _ 12 _ (show 12 ≤ 12 by decide), Nat.reduceSub]
  simp only [extract_high _ _ 10 _ (show 5 ≤ 10 by decide), extract_high _ _ 5 _ (show 5 ≤ 5 by decide), Nat.reduceSub, extract_low]
theorem siOf_word (op : Nat) (f : SI) : siOf (BitVec.ofNat 5 op ++ f.d ++ f.a ++ f.imm) = f := by
  unfold siOf
  rw [extract_low]
  simp only [extract_high _ _ 22 _ (show 17 ≤ 22 by decide), extract_high _ _ 17 _ (show 17 ≤ 17 by decide), Nat.reduceSub]
  simp only [extract_high _ _ 5 _ (show 5 ≤ 5 by decide), Nat.reduceSub, extract_low]
theorem sfOf_word (op : Nat) (f : SF) : sfOf (BitVec.ofNat 5 op ++ f.d ++ f.a ++ f.fn ++ f.imm) = f := by
  unfold sfOf
  rw [extract_low]
  simp only [extract_high _ _ 22 _ (show 13 ≤ 22 by decide), extract_high _ _ 17 _ (show 13 ≤ 17 by decide),
    extract_high _ _ 13 _ (show 13 ≤ 13 by decide), Nat.reduceSub]
  simp only [extract_high _ _ 9 _ (show 4 ≤ 9 by decide), extract_high _ _ 4 _ (show 4 ≤ 4 by decide), Nat.reduceSub, extract_low]
  simp only [extract_high _ _ 5 _ (show 5 ≤ 5 by decide), Nat.reduceSub, extract_low]
theorem sbOf_word (op : Nat) (f : SB) : sbOf (BitVec.ofNat 5 op ++ f.a ++ f.z ++ f.off) = f := by
  unfold sbOf
  rw [extract_low]
  simp only [extract_high _ _ 22 _ (show 17 ≤ 22 by decide), extract_high _ _ 17 _ (show 17 ≤ 17 by decide), Nat.reduceSub]
  simp only [extract_high _ _ 5 _ (show 5 ≤ 5 by decide), Nat.reduceSub, extract_low]

/-- The opcode of a shroud word. -/
theorem srOp_word (op : Nat) (f : SR) (h : op < 32) :
    ((BitVec.ofNat 5 op ++ f.d ++ f.a ++ f.b ++ f.f).extractLsb' 27 5).toNat = op := by
  rw [extract_high _ _ _ _ (by decide), extract_high _ _ _ _ (by decide), extract_high _ _ _ _ (by decide),
    extract_high _ _ _ _ (by decide)]
  simp only [Nat.reduceSub]
  rw [BitVec.extractLsb'_eq_self, BitVec.toNat_ofNat]
  exact Nat.mod_eq_of_lt h
theorem siOp_word (op : Nat) (f : SI) (h : op < 32) :
    ((BitVec.ofNat 5 op ++ f.d ++ f.a ++ f.imm).extractLsb' 27 5).toNat = op := by
  rw [extract_high _ _ _ _ (by decide), extract_high _ _ _ _ (by decide), extract_high _ _ _ _ (by decide)]
  simp only [Nat.reduceSub]
  rw [BitVec.extractLsb'_eq_self, BitVec.toNat_ofNat]
  exact Nat.mod_eq_of_lt h
theorem sfOp_word (op : Nat) (f : SF) (h : op < 32) :
    ((BitVec.ofNat 5 op ++ f.d ++ f.a ++ f.fn ++ f.imm).extractLsb' 27 5).toNat = op := by
  rw [extract_high _ _ _ _ (by decide), extract_high _ _ _ _ (by decide), extract_high _ _ _ _ (by decide),
    extract_high _ _ _ _ (by decide)]
  simp only [Nat.reduceSub]
  rw [BitVec.extractLsb'_eq_self, BitVec.toNat_ofNat]
  exact Nat.mod_eq_of_lt h
theorem sbOp_word (op : Nat) (f : SB) (h : op < 32) :
    ((BitVec.ofNat 5 op ++ f.a ++ f.z ++ f.off).extractLsb' 27 5).toNat = op := by
  rw [extract_high _ _ _ _ (by decide), extract_high _ _ _ _ (by decide), extract_high _ _ _ _ (by decide)]
  simp only [Nat.reduceSub]
  rw [BitVec.extractLsb'_eq_self, BitVec.toNat_ofNat]
  exact Nat.mod_eq_of_lt h

end Sys2Proof
end

