-- ==== Sys2Proof/Laws/Event.lean ====
section
/-! SUPPORT. What an event on an operation, and a request that Maluk accepts, lead to. -/

namespace Sys2Proof.Machine

/-- An event on an operation that may act does its work (R39, R405). -/
theorem onOp_acts {s : State} {id : Nat} {o : Op} {f : Op → State} (h : Acts s id o) : onOp s id f = .next (f o) := by
  obtain ⟨h1, h2, h3⟩ := h
  simp [onOp, h1, h2, h3]

/-- A request that Maluk accepts is served (R389). -/
theorem serveKind_ok {s : State} {m : Msg} {kind : Nat} {act : State → MReq → Except Nat Reply} {r : Reply}
    (h : Accepted s m kind) (ha : act (taken s (reqOf m)) (reqOf m) = .ok r) :
    serveKind s m kind act = .next (if r.later then r.s else respond r.s (reqOf m) s.outN (r.vi.getD (reqOf m).vi) stOK r.body) := by
  obtain ⟨h1, h2, h3, h4, h5, h6, h7⟩ := h
  unfold taken at ha
  simp [serveKind, serve, h1, h2, h3, h4, h5, h6, h7, ha]

/-- An accepted request whose own checks refuse it is answered with their status. -/
theorem serveKind_error {s : State} {m : Msg} {kind st : Nat} {act : State → MReq → Except Nat Reply}
    (h : Accepted s m kind) (ha : act (taken s (reqOf m)) (reqOf m) = .error st) :
    serveKind s m kind act = .next (respond (taken s (reqOf m)) (reqOf m) s.outN (reqOf m).vi st []) := by
  obtain ⟨h1, h2, h3, h4, h5, h6, h7⟩ := h
  unfold taken at *
  simp [serveKind, serve, h1, h2, h3, h4, h5, h6, h7, ha]

/-- A QUERY that Maluk accepts is answered. -/
theorem serveQuery_ok {s : State} {m : Msg} {subj : Nat → Bool} {act : State → MReq → Except Nat Reply} {r : Reply}
    (h : Accepted s m 0x0E) (hs : subj ((reqOf m).f 0 4) = true) (ha : act (taken s (reqOf m)) (reqOf m) = .ok r) :
    serveQuery s m subj act = .next (if r.later then r.s else respond r.s (reqOf m) s.outN (r.vi.getD (reqOf m).vi) stOK r.body) := by
  obtain ⟨h1, h2, h3, h4, h5, h6, h7⟩ := h
  unfold taken at ha
  simp [serveQuery, serve, h1, h2, h3, h4, h5, h6, h7, ha, hs]

theorem serveQuery_error {s : State} {m : Msg} {subj : Nat → Bool} {act : State → MReq → Except Nat Reply} {st : Nat}
    (h : Accepted s m 0x0E) (hs : subj ((reqOf m).f 0 4) = true) (ha : act (taken s (reqOf m)) (reqOf m) = .error st) :
    serveQuery s m subj act = .next (respond (taken s (reqOf m)) (reqOf m) s.outN (reqOf m).vi st []) := by
  obtain ⟨h1, h2, h3, h4, h5, h6, h7⟩ := h
  unfold taken at *
  simp [serveQuery, serve, h1, h2, h3, h4, h5, h6, h7, ha, hs]

end Sys2Proof.Machine
end

