-- ==== Sys2Proof/Laws/Map.lean ====
section
/-! SUPPORT. Finite maps: a read after a write, and the canonical form that every operation keeps. -/

namespace Sys2Proof.Machine

variable {α : Type}

/-! ### Reads after writes -/

@[simp] theorem mfind_mput (m : NMap α) (k j : Nat) (v : α) : mfind (mput m k v) j = if j = k then some v else mfind m j := by
  induction m with
  | nil => rfl
  | cons e m ih =>
    obtain ⟨i, w⟩ := e
    simp only [mput]
    split
    · subst_vars; simp only [mfind]; split <;> rfl
    · split
      · rfl
      · simp only [mfind, ih]; split <;> split <;> simp_all

@[simp] theorem mfind_mdel (m : NMap α) (k j : Nat) : mfind (mdel m k) j = if j = k then none else mfind m j := by
  induction m with
  | nil => simp [mdel, mfind]
  | cons e m ih =>
    obtain ⟨i, w⟩ := e
    simp only [mdel]
    split
    · subst_vars; rw [ih, mfind]; split <;> rfl
    · simp only [mfind, ih]; split <;> split <;> simp_all

@[simp] theorem mget_mput (d : α) (m : NMap α) (k j : Nat) (v : α) : mget d (mput m k v) j = if j = k then v else mget d m j := by
  simp only [mget, mfind_mput]; split <;> rfl

@[simp] theorem mfind_mmod (m : NMap α) (k j : Nat) (f : α → α) :
    mfind (mmod m k f) j = if j = k then (mfind m k).map f else mfind m j := by
  unfold mmod
  split
  · split <;> simp_all
  · rw [mfind_mput]; split <;> simp_all

theorem mput_mput (m : NMap α) (k : Nat) (v w : α) : mput (mput m k v) k w = mput m k w := by
  induction m with
  | nil => simp [mput]
  | cons e m ih =>
    obtain ⟨i, x⟩ := e
    simp only [mput]
    split
    · simp [mput]
    · split
      · simp [mput]
      · rename_i h1 h2
        simp [mput, h1, h2, ih]

/-- Two changes of one entry. -/
theorem mmod_mmod (m : NMap α) (k : Nat) (f g : α → α) : mmod (mmod m k f) k g = mmod m k (fun x => g (f x)) := by
  unfold mmod
  cases h : mfind m k with
  | none => simp [h]
  | some v => simp [mput_mput]

/-! ### The canonical form -/

theorem rising_mput {m : NMap α} {b k : Nat} {v : α} (h : risingFrom b m = true) (hk : b ≤ k) : risingFrom b (mput m k v) = true := by
  induction m generalizing b with
  | nil => simp [mput, risingFrom, hk]
  | cons e m ih =>
    obtain ⟨i, w⟩ := e
    simp only [risingFrom, Bool.and_eq_true, decide_eq_true_eq] at h
    simp only [mput]
    split
    · subst_vars; simp [risingFrom, h]
    · split
      · simp only [risingFrom, Bool.and_eq_true, decide_eq_true_eq]; exact ⟨hk, by omega, h.2⟩
      · simp only [risingFrom, Bool.and_eq_true, decide_eq_true_eq]; exact ⟨h.1, ih h.2 (by omega)⟩

theorem rising_weaken {m : NMap α} {b c : Nat} (h : risingFrom b m = true) (hc : c ≤ b) : risingFrom c m = true := by
  cases m with
  | nil => rfl
  | cons e m =>
    simp only [risingFrom, Bool.and_eq_true, decide_eq_true_eq] at h ⊢
    exact ⟨by omega, h.2⟩

theorem rising_mdel {m : NMap α} {b k : Nat} (h : risingFrom b m = true) : risingFrom b (mdel m k) = true := by
  induction m generalizing b with
  | nil => rfl
  | cons e m ih =>
    obtain ⟨i, w⟩ := e
    simp only [risingFrom, Bool.and_eq_true, decide_eq_true_eq] at h
    simp only [mdel]
    split
    · exact rising_weaken (ih h.2) (by omega)
    · simp only [risingFrom, Bool.and_eq_true, decide_eq_true_eq]; exact ⟨h.1, ih h.2⟩

theorem all_mput {m : NMap α} {p : Nat × α → Bool} {k : Nat} {v : α} (h : m.all p = true) (hv : p (k, v) = true) :
    (mput m k v).all p = true := by
  induction m with
  | nil => simp [mput, hv]
  | cons e m ih =>
    obtain ⟨i, w⟩ := e
    simp only [List.all_cons, Bool.and_eq_true] at h
    simp only [mput]
    split
    · simp [hv, h.2]
    · split
      · simp [hv, h.1, h.2]
      · simp [h.1, ih h.2]

theorem all_mdel {m : NMap α} {p : Nat × α → Bool} {k : Nat} (h : m.all p = true) : (mdel m k).all p = true := by
  induction m with
  | nil => rfl
  | cons e m ih =>
    obtain ⟨i, w⟩ := e
    simp only [List.all_cons, Bool.and_eq_true] at h
    simp only [mdel]
    split
    · exact ih h.2
    · simp [h.1, ih h.2]

variable [DecidableEq α]

/-- Writing keeps the canonical form. -/
theorem canonical_mset {d : α} {m : NMap α} {k : Nat} {v : α} (h : canonical d m = true) : canonical d (mset d m k v) = true := by
  simp only [canonical, Bool.and_eq_true] at h ⊢
  unfold mset
  split
  · exact ⟨rising_mdel h.1, all_mdel h.2⟩
  · exact ⟨rising_mput h.1 (Nat.zero_le k), all_mput h.2 (by simpa using ‹_›)⟩

/-- A read after a write to the same key gives the value written, and a write leaves every other key alone. -/
@[simp] theorem mget_mset {d : α} (m : NMap α) (k j : Nat) (v : α) :
    mget d (mset d m k v) j = if j = k then v else mget d m j := by
  unfold mset
  split
  · simp only [mget, mfind_mdel]; split <;> simp_all
  · exact mget_mput d m k j v

/-- A write leaves every other key alone. -/
theorem mget_mset_ne {d : α} {m : NMap α} {k j : Nat} {v : α} (h : j ≠ k) : mget d (mset d m k v) j = mget d m j := by
  rw [mget_mset, if_neg h]

end Sys2Proof.Machine
end

