-- ==== Sys2Proof/Laws/Memory.lean ====
section
/-! SUPPORT. Memory: a read after a write, what a write leaves alone, and the invariant that every memory operation
keeps. -/

namespace Sys2Proof.Machine

/-! ### Bytes -/

@[simp] theorem rdByte_wrByte_ne {s : State} {pa a : Nat} {b : Byte} (h : a ≠ pa) : rdByte (wrByte s pa b) a = rdByte s a :=
  mget_mset_ne h

/-- A read after a write of a byte. -/
theorem rdByte_wrByte (s : State) (pa a : Nat) (b : Byte) :
    rdByte (wrByte s pa b) a = if a = pa then b else rdByte s a := mget_mset s.mem pa a b

/-- Writing a byte keeps the canonical form. -/
theorem wf_wrByte {s : State} (h : Memory.wf s.mem = true) (pa : Nat) (b : Byte) : Memory.wf (wrByte s pa b).mem = true :=
  canonical_mset h

theorem wf_wrBytes {s : State} (h : Memory.wf s.mem = true) (pa : Nat) (bs : List Byte) :
    Memory.wf (wrBytes s pa bs).mem = true := by
  induction bs generalizing s pa with
  | nil => exact h
  | cons b bs ih => exact ih (wf_wrByte h pa b) (pa + 1)

/-- Writing bytes changes nothing but memory. -/
theorem wrBytes_rest (s : State) (pa : Nat) (bs : List Byte) : wrBytes s pa bs = { s with mem := (wrBytes s pa bs).mem } := by
  induction bs generalizing s pa with
  | nil => rfl
  | cons b bs ih => rw [wrBytes, ih]; rfl

/-- Bytes outside those written are as before. -/
theorem rdByte_wrBytes_out {s : State} {pa a : Nat} {bs : List Byte} (h : a < pa ∨ pa + bs.length ≤ a) :
    rdByte (wrBytes s pa bs) a = rdByte s a := by
  induction bs generalizing s pa with
  | nil => rfl
  | cons b bs ih =>
    simp only [List.length_cons] at h
    rw [wrBytes, ih (by omega), rdByte_wrByte_ne (by omega)]

/-- The bytes written are read back. -/
theorem rdByte_wrBytes (s : State) {pa i : Nat} {bs : List Byte} (hi : i < bs.length) :
    rdByte (wrBytes s pa bs) (pa + i) = bs[i] := by
  induction bs generalizing s pa i with
  | nil => simp at hi
  | cons b bs ih =>
    rw [wrBytes]
    cases i with
    | zero => rw [rdByte_wrBytes_out (.inl (by omega)), rdByte_wrByte]; simp
    | succ i =>
      have := ih (wrByte s pa b) (pa := pa + 1) (i := i) (by simpa using hi)
      rw [show pa + (i + 1) = pa + 1 + i by omega, this]
      simp

/-! ### Little-endian values (R2) -/

@[simp] theorem length_leBytes (n v : Nat) : (leBytes n v).length = n := by
  induction n generalizing v with
  | zero => rfl
  | succ n ih => simp [leBytes, ih]

theorem leVal_leBytes (n v : Nat) : leVal (leBytes n v) = v % 2 ^ (8 * n) := by
  induction n generalizing v with
  | zero => simp [leBytes, leVal, Nat.mod_one]
  | succ n ih =>
    rw [leBytes, leVal, ih, BitVec.toNat_ofNat, show 2 ^ (8 * (n + 1)) = 256 * 2 ^ (8 * n) by rw [Nat.mul_add, Nat.pow_add]; omega,
      Nat.mod_mul]

theorem rdBytes_succ (s : State) (pa n : Nat) : rdBytes s pa (n + 1) = rdByte s pa :: rdBytes s (pa + 1) n := by
  simp only [rdBytes, rangeFrom, List.range_succ_eq_map, List.map_cons, List.map_map, Nat.add_zero]
  congr 1
  apply List.map_congr_left
  intro i _
  simp only [Function.comp_apply]
  congr 1
  omega

/-- The bytes just written, as a list. -/
theorem rdBytes_wrBytes (s : State) (pa : Nat) (bs : List Byte) :
    rdBytes (wrBytes s pa bs) pa bs.length = bs := by
  apply List.ext_getElem
  · simp [rdBytes, rangeFrom]
  · intro i h1 h2
    simp only [rdBytes, rangeFrom, List.getElem_map, List.getElem_range]
    exact rdByte_wrBytes s h2

/-- A value just written is read back. -/
theorem rdMem_wrBytes (s : State) (pa n v : Nat) :
    rdMem (wrBytes s pa (leBytes n v)) pa n = v % 2 ^ (8 * n) := by
  have := rdBytes_wrBytes s pa (leBytes n v)
  rw [length_leBytes] at this
  rw [rdMem, this, leVal_leBytes]

/-! ### The invariant (R85, R95, R341) -/

/-- What the invariant rests on is the same in two states. -/
theorem sound_of_eq {s t : State} (h : Sound s) (hm : t.mem = s.mem) (hv : t.vers = s.vers) (hd : t.dies = s.dies) : Sound t := by
  unfold Sound
  rw [hm, hv, hd]
  exact h

theorem sound_wrByte {s : State} (h : Sound s) (pa : Nat) (b : Byte) : Sound (wrByte s pa b) := ⟨wf_wrByte h.1 pa b, h.2⟩

theorem sound_wrBytes {s : State} (h : Sound s) (pa : Nat) (bs : List Byte) : Sound (wrBytes s pa bs) := by
  induction bs generalizing s pa with
  | nil => exact h
  | cons b bs ih => exact ih (sound_wrByte h pa b) (pa + 1)

theorem even_mget {m : NMap Nat} (h : ∀ x ∈ m, x.2 % 2 = 0) (k : Nat) : mget 0 m k % 2 = 0 := by
  induction m with
  | nil => rfl
  | cons e m ih =>
    obtain ⟨i, w⟩ := e
    unfold mget
    rw [mfind]
    split
    · exact h (i, w) List.mem_cons_self
    · exact ih (fun x hx => h x (List.mem_cons_of_mem _ hx))

theorem mem_mput {α : Type} {m : NMap α} {k : Nat} {v : α} {x : Nat × α} (h : x ∈ mput m k v) : x = (k, v) ∨ x ∈ m := by
  induction m with
  | nil => simpa [mput] using h
  | cons e m ih =>
    obtain ⟨i, w⟩ := e
    simp only [mput] at h
    split at h
    · rcases List.mem_cons.mp h with h | h
      · exact .inl h
      · exact .inr (List.mem_cons_of_mem _ h)
    · split at h
      · rcases List.mem_cons.mp h with h | h
        · exact .inl h
        · exact .inr h
      · rcases List.mem_cons.mp h with h | h
        · exact .inr (h ▸ List.mem_cons_self)
        · rcases ih h with h | h
          · exact .inl h
          · exact .inr (List.mem_cons_of_mem _ h)

theorem mem_mdel {α : Type} {m : NMap α} {k : Nat} {x : Nat × α} (h : x ∈ mdel m k) : x ∈ m := by
  induction m with
  | nil => exact h
  | cons e m ih =>
    obtain ⟨i, w⟩ := e
    simp only [mdel] at h
    split at h
    · exact List.mem_cons_of_mem _ (ih h)
    · rcases List.mem_cons.mp h with h | h
      · exact h ▸ List.mem_cons_self
      · exact List.mem_cons_of_mem _ (ih h)

theorem mem_mset {α : Type} [DecidableEq α] {d : α} {m : NMap α} {k : Nat} {v : α} {x : Nat × α} (h : x ∈ mset d m k v) :
    x = (k, v) ∨ x ∈ m := by
  unfold mset at h
  split at h
  · exact .inr (mem_mdel h)
  · exact mem_mput h

/-- A whole write adds 2 to a version word, which stays even (R95). -/
theorem sound_bumpVersion {s : State} (h : Sound s) (sector : Nat) : Sound (bumpVersion s sector 2) := by
  refine ⟨h.1, fun x hx => ?_, h.2.2⟩
  rcases mem_mset hx with hx | hx
  · subst hx
    have := even_mget h.2.1 sector
    simp only [version]
    omega
  · exact h.2.1 x hx

/-- What an operation on caches alone leaves of a state (R87, R93). -/
abbrev CachesOnly (s t : State) : Prop := ∃ c o, t = { s with cached := c, stale := o }

theorem cachesOnly_invalFold (l : List Nat) (q : Nat) (s : State) :
    CachesOnly s (l.foldl (fun s u => invalQuarter s u q) s) := by
  induction l generalizing s with
  | nil => exact ⟨s.cached, s.stale, rfl⟩
  | cons u l ih =>
    obtain ⟨c, o, e⟩ := ih (invalQuarter s u q)
    exact ⟨c, o, e⟩

/-- Accepting a write changes caches alone (R87). -/
theorem acceptCopies_only (s : State) (w : Writer) (q : Nat) : CachesOnly s (acceptCopies s w q) := by
  obtain ⟨c, o, e⟩ := cachesOnly_invalFold ((s.stale.filter (fun t => t.quarter == q)).map (·.unit)) q s
  cases w <;> simp only [acceptCopies, e] <;> exact ⟨_, _, rfl⟩

theorem sound_cachesOnly {s t : State} (h : Sound s) (e : CachesOnly s t) : Sound t := by
  obtain ⟨c, o, rfl⟩ := e
  exact sound_of_eq h rfl rfl rfl

theorem sound_setPoison {s : State} (h : Sound s) (q : Nat) (on : Bool) : Sound (setPoison s q on) := sound_of_eq h rfl rfl rfl

theorem sound_foldl {β : Type} {f : State → β → State} (hf : ∀ s b, Sound s → Sound (f s b)) (l : List β) {s : State}
    (h : Sound s) : Sound (l.foldl f s) := by
  induction l generalizing s with
  | nil => exact h
  | cons b l ih => exact ih (hf s b h)

/-- A write performed at the home: caches, then the bytes, the version word and the poison (R85, R87, R95, R103). -/
theorem performQuarter_eq (s : State) (w : Writer) (orient : Nat) (pa : Nat) (b : Byte) (bs : List (Nat × Byte)) (pois : Bool) :
    ∃ c o p, performQuarter s w orient ((pa, b) :: bs) pois = { bumpVersion (List.foldl (fun s x => wrByte s x.1 x.2)
      { s with cached := c, stale := o } ((pa, b) :: bs)) (sectorOf pa) 2 with pois := p } := by
  obtain ⟨c, o, e⟩ := acceptCopies_only
    (dropCached s (fun l => l.sector == sectorOf pa && l.orient != orient && decide (l.unit < 400))) w (quarterOf pa)
  simp only [performQuarter, e, setPoison]
  split
  · exact ⟨_, _, _, rfl⟩
  · split
    · exact ⟨_, _, _, rfl⟩
    · exact ⟨_, _, _, rfl⟩

/-- A write performed at the home keeps the invariant (R85, R87, R95, R103). -/
theorem sound_performQuarter {s : State} (h : Sound s) (w : Writer) (orient : Nat) (bs : List (Nat × Byte)) (pois : Bool) :
    Sound (performQuarter s w orient bs pois) := by
  cases bs with
  | nil => exact h
  | cons x bs =>
    obtain ⟨c, o, p, e⟩ := performQuarter_eq s w orient x.1 x.2 bs pois
    rw [e]
    exact sound_of_eq (sound_bumpVersion (sound_foldl (fun s x hs => sound_wrByte hs _ _) (x :: bs)
      (sound_of_eq h (t := { s with cached := c, stale := o }) rfl rfl rfl)) (sectorOf x.1)) rfl rfl rfl

/-- A byte that no part of a write names is as before. -/
theorem rdByte_foldl_wrByte {bs : List (Nat × Byte)} {s : State} {a : Nat} (h : ∀ x ∈ bs, x.1 ≠ a) :
    rdByte (bs.foldl (fun s x => wrByte s x.1 x.2) s) a = rdByte s a := by
  induction bs generalizing s with
  | nil => rfl
  | cons x bs ih =>
    rw [List.foldl_cons, ih (fun y hy => h y (List.mem_cons_of_mem _ hy)),
      rdByte_wrByte_ne (Ne.symm (h x List.mem_cons_self))]

theorem rdByte_performQuarter {s : State} {w : Writer} {orient : Nat} {bs : List (Nat × Byte)} {pois : Bool} {a : Nat}
    (h : ∀ x ∈ bs, x.1 ≠ a) : rdByte (performQuarter s w orient bs pois) a = rdByte s a := by
  cases bs with
  | nil => rfl
  | cons x bs =>
    obtain ⟨c, o, p, e⟩ := performQuarter_eq s w orient x.1 x.2 bs pois
    rw [e]
    exact rdByte_foldl_wrByte (s := { s with cached := c, stale := o }) h

/-- Page tables that Maluk writes keep the invariant. -/
theorem sound_wrEntry {s : State} (h : Sound s) (pa v : Nat) : Sound (wrEntry s pa v) := sound_wrBytes h pa _

theorem sound_allocFrame {s : State} (h : Sound s) {f : Nat} {t : State} (e : allocFrame s = some (f, t)) : Sound t := by
  unfold allocFrame at e
  dsimp only at e
  split at e
  · cases e
  · cases e
    exact sound_of_eq h rfl rfl rfl

theorem sound_mapFrom {s : State} (h : Sound s) (va frame flags n level table : Nat) :
    Sound (mapFrom va frame flags n level table s) := by
  induction n generalizing s level table with
  | zero => exact h
  | succ n ih =>
    unfold mapFrom
    dsimp only
    split
    · exact sound_wrEntry h _ _
    · split
      · exact ih h _ _
      · split
        · exact h
        · rename_i e
          exact ih (sound_wrEntry (sound_allocFrame h e) _ _) _ _

theorem sound_makePresent {s : State} (h : Sound s) (ctx va : Nat) : Sound (makePresent s ctx va) := by
  unfold makePresent
  split
  · exact h
  · split
    · split
      · exact h
      · rename_i e
        exact sound_mapFrom (sound_allocFrame h e) _ _ _ _ _ _
    · exact h

theorem sound_makeRange {s : State} (h : Sound s) (ctx va n : Nat) : Sound (makeRange s ctx va n) :=
  sound_foldl (fun _ _ hs => sound_makePresent hs _ _) _ h

/-- Maluk's writes of a context's record keep the invariant (R326). -/
theorem sound_writeRecord {s : State} (h : Sound s) (id : Nat) : Sound (writeRecord s id) := by
  unfold writeRecord
  split
  · exact h
  · exact sound_wrBytes h _ _

theorem sound_modRecord {s : State} (h : Sound s) (id : Nat) (f : Ctx → Ctx) : Sound (modRecord s id f) :=
  sound_writeRecord (s := modCtx s id _) (sound_of_eq h rfl rfl rfl) id

/-- Memory at power-on is in its canonical form, and the whole state is of the invariant. -/
theorem reset_mem_wf : Memory.wf State.reset.mem = true := rfl

end Sys2Proof.Machine
end

