-- ==== Sys2Proof/Laws/State.lean ====
section
/-! SUPPORT. One lemma for each field and each update of the state: an update leaves every field but its own. -/

namespace Sys2Proof.Machine

variable (s : State)

/-! ### modGroup -/

@[simp] theorem modGroup_boot (gid : Nat) (f : Group → Group) : (modGroup s gid f).boot = s.boot := rfl
@[simp] theorem modGroup_masts (gid : Nat) (f : Group → Group) : (modGroup s gid f).masts = s.masts := rfl
@[simp] theorem modGroup_time (gid : Nat) (f : Group → Group) : (modGroup s gid f).time = s.time := rfl
@[simp] theorem modGroup_timebase (gid : Nat) (f : Group → Group) : (modGroup s gid f).timebase = s.timebase := rfl
@[simp] theorem modGroup_boundary (gid : Nat) (f : Group → Group) : (modGroup s gid f).boundary = s.boundary := rfl
@[simp] theorem modGroup_mem (gid : Nat) (f : Group → Group) : (modGroup s gid f).mem = s.mem := rfl
@[simp] theorem modGroup_vers (gid : Nat) (f : Group → Group) : (modGroup s gid f).vers = s.vers := rfl
@[simp] theorem modGroup_pois (gid : Nat) (f : Group → Group) : (modGroup s gid f).pois = s.pois := rfl
@[simp] theorem modGroup_cached (gid : Nat) (f : Group → Group) : (modGroup s gid f).cached = s.cached := rfl
@[simp] theorem modGroup_stale (gid : Nat) (f : Group → Group) : (modGroup s gid f).stale = s.stale := rfl
@[simp] theorem modGroup_owned (gid : Nat) (f : Group → Group) : (modGroup s gid f).owned = s.owned := rfl
@[simp] theorem modGroup_ops (gid : Nat) (f : Group → Group) : (modGroup s gid f).ops = s.ops := rfl
@[simp] theorem modGroup_nextId (gid : Nat) (f : Group → Group) : (modGroup s gid f).nextId = s.nextId := rfl
@[simp] theorem modGroup_vis (gid : Nat) (f : Group → Group) : (modGroup s gid f).vis = s.vis := rfl
@[simp] theorem modGroup_ctxs (gid : Nat) (f : Group → Group) : (modGroup s gid f).ctxs = s.ctxs := rfl
@[simp] theorem modGroup_kernels (gid : Nat) (f : Group → Group) : (modGroup s gid f).kernels = s.kernels := rfl
@[simp] theorem modGroup_launches (gid : Nat) (f : Group → Group) : (modGroup s gid f).launches = s.launches := rfl
@[simp] theorem modGroup_teams (gid : Nat) (f : Group → Group) : (modGroup s gid f).teams = s.teams := rfl
@[simp] theorem modGroup_cores (gid : Nat) (f : Group → Group) : (modGroup s gid f).cores = s.cores := rfl
@[simp] theorem modGroup_dies (gid : Nat) (f : Group → Group) : (modGroup s gid f).dies = s.dies := rfl
@[simp] theorem modGroup_clusters (gid : Nat) (f : Group → Group) : (modGroup s gid f).clusters = s.clusters := rfl
@[simp] theorem modGroup_heaps (gid : Nat) (f : Group → Group) : (modGroup s gid f).heaps = s.heaps := rfl
@[simp] theorem modGroup_shrouds (gid : Nat) (f : Group → Group) : (modGroup s gid f).shrouds = s.shrouds := rfl
@[simp] theorem modGroup_ports (gid : Nat) (f : Group → Group) : (modGroup s gid f).ports = s.ports := rfl
@[simp] theorem modGroup_seqWords (gid : Nat) (f : Group → Group) : (modGroup s gid f).seqWords = s.seqWords := rfl
@[simp] theorem modGroup_tlb (gid : Nat) (f : Group → Group) : (modGroup s gid f).tlb = s.tlb := rfl
@[simp] theorem modGroup_walks (gid : Nat) (f : Group → Group) : (modGroup s gid f).walks = s.walks := rfl
@[simp] theorem modGroup_faults (gid : Nat) (f : Group → Group) : (modGroup s gid f).faults = s.faults := rfl
@[simp] theorem modGroup_notices (gid : Nat) (f : Group → Group) : (modGroup s gid f).notices = s.notices := rfl
@[simp] theorem modGroup_refused (gid : Nat) (f : Group → Group) : (modGroup s gid f).refused = s.refused := rfl
@[simp] theorem modGroup_evq (gid : Nat) (f : Group → Group) : (modGroup s gid f).evq = s.evq := rfl
@[simp] theorem modGroup_events (gid : Nat) (f : Group → Group) : (modGroup s gid f).events = s.events := rfl
@[simp] theorem modGroup_responses (gid : Nat) (f : Group → Group) : (modGroup s gid f).responses = s.responses := rfl
@[simp] theorem modGroup_outN (gid : Nat) (f : Group → Group) : (modGroup s gid f).outN = s.outN := rfl
@[simp] theorem modGroup_evSeq (gid : Nat) (f : Group → Group) : (modGroup s gid f).evSeq = s.evSeq := rfl
@[simp] theorem modGroup_answers (gid : Nat) (f : Group → Group) : (modGroup s gid f).answers = s.answers := rfl
@[simp] theorem modGroup_opSubs (gid : Nat) (f : Group → Group) : (modGroup s gid f).opSubs = s.opSubs := rfl
@[simp] theorem modGroup_passed (gid : Nat) (f : Group → Group) : (modGroup s gid f).passed = s.passed := rfl
@[simp] theorem modGroup_draining (gid : Nat) (f : Group → Group) : (modGroup s gid f).draining = s.draining := rfl
@[simp] theorem modGroup_turnVi (gid : Nat) (f : Group → Group) : (modGroup s gid f).turnVi = s.turnVi := rfl
@[simp] theorem modGroup_pace (gid : Nat) (f : Group → Group) : (modGroup s gid f).pace = s.pace := rfl
@[simp] theorem modGroup_paceSent (gid : Nat) (f : Group → Group) : (modGroup s gid f).paceSent = s.paceSent := rfl
@[simp] theorem modGroup_secure (gid : Nat) (f : Group → Group) : (modGroup s gid f).secure = s.secure := rfl
@[simp] theorem modGroup_report (gid : Nat) (f : Group → Group) : (modGroup s gid f).report = s.report := rfl
@[simp] theorem modGroup_status (gid : Nat) (f : Group → Group) : (modGroup s gid f).status = s.status := rfl
@[simp] theorem modGroup_nextFrame (gid : Nat) (f : Group → Group) : (modGroup s gid f).nextFrame = s.nextFrame := rfl
@[simp] theorem modGroup_temps (gid : Nat) (f : Group → Group) : (modGroup s gid f).temps = s.temps := rfl
@[simp] theorem modGroup_retired (gid : Nat) (f : Group → Group) : (modGroup s gid f).retired = s.retired := rfl
@[simp] theorem modGroup_eccC (gid : Nat) (f : Group → Group) : (modGroup s gid f).eccC = s.eccC := rfl
@[simp] theorem modGroup_eccU (gid : Nat) (f : Group → Group) : (modGroup s gid f).eccU = s.eccU := rfl
@[simp] theorem modGroup_eccUnits (gid : Nat) (f : Group → Group) : (modGroup s gid f).eccUnits = s.eccUnits := rfl
@[simp] theorem modGroup_seqNext (gid : Nat) (f : Group → Group) : (modGroup s gid f).seqNext = s.seqNext := rfl
@[simp] theorem modGroup_freeN (gid : Nat) (f : Group → Group) : (modGroup s gid f).freeN = s.freeN := rfl
@[simp] theorem modGroup_cur (gid : Nat) (f : Group → Group) : (modGroup s gid f).cur = s.cur := rfl
@[simp] theorem modGroup_turns (gid : Nat) (f : Group → Group) : (modGroup s gid f).turns = s.turns := rfl

/-! ### modThread -/

@[simp] theorem modThread_boot (gid tid : Nat) (f : Thread → Thread) : (modThread s gid tid f).boot = s.boot := rfl
@[simp] theorem modThread_masts (gid tid : Nat) (f : Thread → Thread) : (modThread s gid tid f).masts = s.masts := rfl
@[simp] theorem modThread_time (gid tid : Nat) (f : Thread → Thread) : (modThread s gid tid f).time = s.time := rfl
@[simp] theorem modThread_timebase (gid tid : Nat) (f : Thread → Thread) : (modThread s gid tid f).timebase = s.timebase := rfl
@[simp] theorem modThread_boundary (gid tid : Nat) (f : Thread → Thread) : (modThread s gid tid f).boundary = s.boundary := rfl
@[simp] theorem modThread_mem (gid tid : Nat) (f : Thread → Thread) : (modThread s gid tid f).mem = s.mem := rfl
@[simp] theorem modThread_vers (gid tid : Nat) (f : Thread → Thread) : (modThread s gid tid f).vers = s.vers := rfl
@[simp] theorem modThread_pois (gid tid : Nat) (f : Thread → Thread) : (modThread s gid tid f).pois = s.pois := rfl
@[simp] theorem modThread_cached (gid tid : Nat) (f : Thread → Thread) : (modThread s gid tid f).cached = s.cached := rfl
@[simp] theorem modThread_stale (gid tid : Nat) (f : Thread → Thread) : (modThread s gid tid f).stale = s.stale := rfl
@[simp] theorem modThread_owned (gid tid : Nat) (f : Thread → Thread) : (modThread s gid tid f).owned = s.owned := rfl
@[simp] theorem modThread_ops (gid tid : Nat) (f : Thread → Thread) : (modThread s gid tid f).ops = s.ops := rfl
@[simp] theorem modThread_nextId (gid tid : Nat) (f : Thread → Thread) : (modThread s gid tid f).nextId = s.nextId := rfl
@[simp] theorem modThread_vis (gid tid : Nat) (f : Thread → Thread) : (modThread s gid tid f).vis = s.vis := rfl
@[simp] theorem modThread_ctxs (gid tid : Nat) (f : Thread → Thread) : (modThread s gid tid f).ctxs = s.ctxs := rfl
@[simp] theorem modThread_kernels (gid tid : Nat) (f : Thread → Thread) : (modThread s gid tid f).kernels = s.kernels := rfl
@[simp] theorem modThread_launches (gid tid : Nat) (f : Thread → Thread) : (modThread s gid tid f).launches = s.launches := rfl
@[simp] theorem modThread_teams (gid tid : Nat) (f : Thread → Thread) : (modThread s gid tid f).teams = s.teams := rfl
@[simp] theorem modThread_cores (gid tid : Nat) (f : Thread → Thread) : (modThread s gid tid f).cores = s.cores := rfl
@[simp] theorem modThread_dies (gid tid : Nat) (f : Thread → Thread) : (modThread s gid tid f).dies = s.dies := rfl
@[simp] theorem modThread_clusters (gid tid : Nat) (f : Thread → Thread) : (modThread s gid tid f).clusters = s.clusters := rfl
@[simp] theorem modThread_heaps (gid tid : Nat) (f : Thread → Thread) : (modThread s gid tid f).heaps = s.heaps := rfl
@[simp] theorem modThread_shrouds (gid tid : Nat) (f : Thread → Thread) : (modThread s gid tid f).shrouds = s.shrouds := rfl
@[simp] theorem modThread_ports (gid tid : Nat) (f : Thread → Thread) : (modThread s gid tid f).ports = s.ports := rfl
@[simp] theorem modThread_seqWords (gid tid : Nat) (f : Thread → Thread) : (modThread s gid tid f).seqWords = s.seqWords := rfl
@[simp] theorem modThread_tlb (gid tid : Nat) (f : Thread → Thread) : (modThread s gid tid f).tlb = s.tlb := rfl
@[simp] theorem modThread_walks (gid tid : Nat) (f : Thread → Thread) : (modThread s gid tid f).walks = s.walks := rfl
@[simp] theorem modThread_faults (gid tid : Nat) (f : Thread → Thread) : (modThread s gid tid f).faults = s.faults := rfl
@[simp] theorem modThread_notices (gid tid : Nat) (f : Thread → Thread) : (modThread s gid tid f).notices = s.notices := rfl
@[simp] theorem modThread_refused (gid tid : Nat) (f : Thread → Thread) : (modThread s gid tid f).refused = s.refused := rfl
@[simp] theorem modThread_evq (gid tid : Nat) (f : Thread → Thread) : (modThread s gid tid f).evq = s.evq := rfl
@[simp] theorem modThread_events (gid tid : Nat) (f : Thread → Thread) : (modThread s gid tid f).events = s.events := rfl
@[simp] theorem modThread_responses (gid tid : Nat) (f : Thread → Thread) : (modThread s gid tid f).responses = s.responses := rfl
@[simp] theorem modThread_outN (gid tid : Nat) (f : Thread → Thread) : (modThread s gid tid f).outN = s.outN := rfl
@[simp] theorem modThread_evSeq (gid tid : Nat) (f : Thread → Thread) : (modThread s gid tid f).evSeq = s.evSeq := rfl
@[simp] theorem modThread_answers (gid tid : Nat) (f : Thread → Thread) : (modThread s gid tid f).answers = s.answers := rfl
@[simp] theorem modThread_opSubs (gid tid : Nat) (f : Thread → Thread) : (modThread s gid tid f).opSubs = s.opSubs := rfl
@[simp] theorem modThread_passed (gid tid : Nat) (f : Thread → Thread) : (modThread s gid tid f).passed = s.passed := rfl
@[simp] theorem modThread_draining (gid tid : Nat) (f : Thread → Thread) : (modThread s gid tid f).draining = s.draining := rfl
@[simp] theorem modThread_turnVi (gid tid : Nat) (f : Thread → Thread) : (modThread s gid tid f).turnVi = s.turnVi := rfl
@[simp] theorem modThread_pace (gid tid : Nat) (f : Thread → Thread) : (modThread s gid tid f).pace = s.pace := rfl
@[simp] theorem modThread_paceSent (gid tid : Nat) (f : Thread → Thread) : (modThread s gid tid f).paceSent = s.paceSent := rfl
@[simp] theorem modThread_secure (gid tid : Nat) (f : Thread → Thread) : (modThread s gid tid f).secure = s.secure := rfl
@[simp] theorem modThread_report (gid tid : Nat) (f : Thread → Thread) : (modThread s gid tid f).report = s.report := rfl
@[simp] theorem modThread_status (gid tid : Nat) (f : Thread → Thread) : (modThread s gid tid f).status = s.status := rfl
@[simp] theorem modThread_nextFrame (gid tid : Nat) (f : Thread → Thread) : (modThread s gid tid f).nextFrame = s.nextFrame := rfl
@[simp] theorem modThread_temps (gid tid : Nat) (f : Thread → Thread) : (modThread s gid tid f).temps = s.temps := rfl
@[simp] theorem modThread_retired (gid tid : Nat) (f : Thread → Thread) : (modThread s gid tid f).retired = s.retired := rfl
@[simp] theorem modThread_eccC (gid tid : Nat) (f : Thread → Thread) : (modThread s gid tid f).eccC = s.eccC := rfl
@[simp] theorem modThread_eccU (gid tid : Nat) (f : Thread → Thread) : (modThread s gid tid f).eccU = s.eccU := rfl
@[simp] theorem modThread_eccUnits (gid tid : Nat) (f : Thread → Thread) : (modThread s gid tid f).eccUnits = s.eccUnits := rfl
@[simp] theorem modThread_seqNext (gid tid : Nat) (f : Thread → Thread) : (modThread s gid tid f).seqNext = s.seqNext := rfl
@[simp] theorem modThread_freeN (gid tid : Nat) (f : Thread → Thread) : (modThread s gid tid f).freeN = s.freeN := rfl
@[simp] theorem modThread_cur (gid tid : Nat) (f : Thread → Thread) : (modThread s gid tid f).cur = s.cur := rfl
@[simp] theorem modThread_turns (gid tid : Nat) (f : Thread → Thread) : (modThread s gid tid f).turns = s.turns := rfl

/-! ### modTeam -/

@[simp] theorem modTeam_boot (k : Nat) (f : Team → Team) : (modTeam s k f).boot = s.boot := rfl
@[simp] theorem modTeam_masts (k : Nat) (f : Team → Team) : (modTeam s k f).masts = s.masts := rfl
@[simp] theorem modTeam_time (k : Nat) (f : Team → Team) : (modTeam s k f).time = s.time := rfl
@[simp] theorem modTeam_timebase (k : Nat) (f : Team → Team) : (modTeam s k f).timebase = s.timebase := rfl
@[simp] theorem modTeam_boundary (k : Nat) (f : Team → Team) : (modTeam s k f).boundary = s.boundary := rfl
@[simp] theorem modTeam_mem (k : Nat) (f : Team → Team) : (modTeam s k f).mem = s.mem := rfl
@[simp] theorem modTeam_vers (k : Nat) (f : Team → Team) : (modTeam s k f).vers = s.vers := rfl
@[simp] theorem modTeam_pois (k : Nat) (f : Team → Team) : (modTeam s k f).pois = s.pois := rfl
@[simp] theorem modTeam_cached (k : Nat) (f : Team → Team) : (modTeam s k f).cached = s.cached := rfl
@[simp] theorem modTeam_stale (k : Nat) (f : Team → Team) : (modTeam s k f).stale = s.stale := rfl
@[simp] theorem modTeam_owned (k : Nat) (f : Team → Team) : (modTeam s k f).owned = s.owned := rfl
@[simp] theorem modTeam_ops (k : Nat) (f : Team → Team) : (modTeam s k f).ops = s.ops := rfl
@[simp] theorem modTeam_nextId (k : Nat) (f : Team → Team) : (modTeam s k f).nextId = s.nextId := rfl
@[simp] theorem modTeam_vis (k : Nat) (f : Team → Team) : (modTeam s k f).vis = s.vis := rfl
@[simp] theorem modTeam_ctxs (k : Nat) (f : Team → Team) : (modTeam s k f).ctxs = s.ctxs := rfl
@[simp] theorem modTeam_kernels (k : Nat) (f : Team → Team) : (modTeam s k f).kernels = s.kernels := rfl
@[simp] theorem modTeam_launches (k : Nat) (f : Team → Team) : (modTeam s k f).launches = s.launches := rfl
@[simp] theorem modTeam_groups (k : Nat) (f : Team → Team) : (modTeam s k f).groups = s.groups := rfl
@[simp] theorem modTeam_cores (k : Nat) (f : Team → Team) : (modTeam s k f).cores = s.cores := rfl
@[simp] theorem modTeam_dies (k : Nat) (f : Team → Team) : (modTeam s k f).dies = s.dies := rfl
@[simp] theorem modTeam_clusters (k : Nat) (f : Team → Team) : (modTeam s k f).clusters = s.clusters := rfl
@[simp] theorem modTeam_heaps (k : Nat) (f : Team → Team) : (modTeam s k f).heaps = s.heaps := rfl
@[simp] theorem modTeam_shrouds (k : Nat) (f : Team → Team) : (modTeam s k f).shrouds = s.shrouds := rfl
@[simp] theorem modTeam_ports (k : Nat) (f : Team → Team) : (modTeam s k f).ports = s.ports := rfl
@[simp] theorem modTeam_seqWords (k : Nat) (f : Team → Team) : (modTeam s k f).seqWords = s.seqWords := rfl
@[simp] theorem modTeam_tlb (k : Nat) (f : Team → Team) : (modTeam s k f).tlb = s.tlb := rfl
@[simp] theorem modTeam_walks (k : Nat) (f : Team → Team) : (modTeam s k f).walks = s.walks := rfl
@[simp] theorem modTeam_faults (k : Nat) (f : Team → Team) : (modTeam s k f).faults = s.faults := rfl
@[simp] theorem modTeam_notices (k : Nat) (f : Team → Team) : (modTeam s k f).notices = s.notices := rfl
@[simp] theorem modTeam_refused (k : Nat) (f : Team → Team) : (modTeam s k f).refused = s.refused := rfl
@[simp] theorem modTeam_evq (k : Nat) (f : Team → Team) : (modTeam s k f).evq = s.evq := rfl
@[simp] theorem modTeam_events (k : Nat) (f : Team → Team) : (modTeam s k f).events = s.events := rfl
@[simp] theorem modTeam_responses (k : Nat) (f : Team → Team) : (modTeam s k f).responses = s.responses := rfl
@[simp] theorem modTeam_outN (k : Nat) (f : Team → Team) : (modTeam s k f).outN = s.outN := rfl
@[simp] theorem modTeam_evSeq (k : Nat) (f : Team → Team) : (modTeam s k f).evSeq = s.evSeq := rfl
@[simp] theorem modTeam_answers (k : Nat) (f : Team → Team) : (modTeam s k f).answers = s.answers := rfl
@[simp] theorem modTeam_opSubs (k : Nat) (f : Team → Team) : (modTeam s k f).opSubs = s.opSubs := rfl
@[simp] theorem modTeam_passed (k : Nat) (f : Team → Team) : (modTeam s k f).passed = s.passed := rfl
@[simp] theorem modTeam_draining (k : Nat) (f : Team → Team) : (modTeam s k f).draining = s.draining := rfl
@[simp] theorem modTeam_turnVi (k : Nat) (f : Team → Team) : (modTeam s k f).turnVi = s.turnVi := rfl
@[simp] theorem modTeam_pace (k : Nat) (f : Team → Team) : (modTeam s k f).pace = s.pace := rfl
@[simp] theorem modTeam_paceSent (k : Nat) (f : Team → Team) : (modTeam s k f).paceSent = s.paceSent := rfl
@[simp] theorem modTeam_secure (k : Nat) (f : Team → Team) : (modTeam s k f).secure = s.secure := rfl
@[simp] theorem modTeam_report (k : Nat) (f : Team → Team) : (modTeam s k f).report = s.report := rfl
@[simp] theorem modTeam_status (k : Nat) (f : Team → Team) : (modTeam s k f).status = s.status := rfl
@[simp] theorem modTeam_nextFrame (k : Nat) (f : Team → Team) : (modTeam s k f).nextFrame = s.nextFrame := rfl
@[simp] theorem modTeam_temps (k : Nat) (f : Team → Team) : (modTeam s k f).temps = s.temps := rfl
@[simp] theorem modTeam_retired (k : Nat) (f : Team → Team) : (modTeam s k f).retired = s.retired := rfl
@[simp] theorem modTeam_eccC (k : Nat) (f : Team → Team) : (modTeam s k f).eccC = s.eccC := rfl
@[simp] theorem modTeam_eccU (k : Nat) (f : Team → Team) : (modTeam s k f).eccU = s.eccU := rfl
@[simp] theorem modTeam_eccUnits (k : Nat) (f : Team → Team) : (modTeam s k f).eccUnits = s.eccUnits := rfl
@[simp] theorem modTeam_seqNext (k : Nat) (f : Team → Team) : (modTeam s k f).seqNext = s.seqNext := rfl
@[simp] theorem modTeam_freeN (k : Nat) (f : Team → Team) : (modTeam s k f).freeN = s.freeN := rfl
@[simp] theorem modTeam_cur (k : Nat) (f : Team → Team) : (modTeam s k f).cur = s.cur := rfl
@[simp] theorem modTeam_turns (k : Nat) (f : Team → Team) : (modTeam s k f).turns = s.turns := rfl

/-! ### modCtx -/

@[simp] theorem modCtx_boot (k : Nat) (f : Ctx → Ctx) : (modCtx s k f).boot = s.boot := rfl
@[simp] theorem modCtx_masts (k : Nat) (f : Ctx → Ctx) : (modCtx s k f).masts = s.masts := rfl
@[simp] theorem modCtx_time (k : Nat) (f : Ctx → Ctx) : (modCtx s k f).time = s.time := rfl
@[simp] theorem modCtx_timebase (k : Nat) (f : Ctx → Ctx) : (modCtx s k f).timebase = s.timebase := rfl
@[simp] theorem modCtx_boundary (k : Nat) (f : Ctx → Ctx) : (modCtx s k f).boundary = s.boundary := rfl
@[simp] theorem modCtx_mem (k : Nat) (f : Ctx → Ctx) : (modCtx s k f).mem = s.mem := rfl
@[simp] theorem modCtx_vers (k : Nat) (f : Ctx → Ctx) : (modCtx s k f).vers = s.vers := rfl
@[simp] theorem modCtx_pois (k : Nat) (f : Ctx → Ctx) : (modCtx s k f).pois = s.pois := rfl
@[simp] theorem modCtx_cached (k : Nat) (f : Ctx → Ctx) : (modCtx s k f).cached = s.cached := rfl
@[simp] theorem modCtx_stale (k : Nat) (f : Ctx → Ctx) : (modCtx s k f).stale = s.stale := rfl
@[simp] theorem modCtx_owned (k : Nat) (f : Ctx → Ctx) : (modCtx s k f).owned = s.owned := rfl
@[simp] theorem modCtx_ops (k : Nat) (f : Ctx → Ctx) : (modCtx s k f).ops = s.ops := rfl
@[simp] theorem modCtx_nextId (k : Nat) (f : Ctx → Ctx) : (modCtx s k f).nextId = s.nextId := rfl
@[simp] theorem modCtx_vis (k : Nat) (f : Ctx → Ctx) : (modCtx s k f).vis = s.vis := rfl
@[simp] theorem modCtx_kernels (k : Nat) (f : Ctx → Ctx) : (modCtx s k f).kernels = s.kernels := rfl
@[simp] theorem modCtx_launches (k : Nat) (f : Ctx → Ctx) : (modCtx s k f).launches = s.launches := rfl
@[simp] theorem modCtx_teams (k : Nat) (f : Ctx → Ctx) : (modCtx s k f).teams = s.teams := rfl
@[simp] theorem modCtx_groups (k : Nat) (f : Ctx → Ctx) : (modCtx s k f).groups = s.groups := rfl
@[simp] theorem modCtx_cores (k : Nat) (f : Ctx → Ctx) : (modCtx s k f).cores = s.cores := rfl
@[simp] theorem modCtx_dies (k : Nat) (f : Ctx → Ctx) : (modCtx s k f).dies = s.dies := rfl
@[simp] theorem modCtx_clusters (k : Nat) (f : Ctx → Ctx) : (modCtx s k f).clusters = s.clusters := rfl
@[simp] theorem modCtx_heaps (k : Nat) (f : Ctx → Ctx) : (modCtx s k f).heaps = s.heaps := rfl
@[simp] theorem modCtx_shrouds (k : Nat) (f : Ctx → Ctx) : (modCtx s k f).shrouds = s.shrouds := rfl
@[simp] theorem modCtx_ports (k : Nat) (f : Ctx → Ctx) : (modCtx s k f).ports = s.ports := rfl
@[simp] theorem modCtx_seqWords (k : Nat) (f : Ctx → Ctx) : (modCtx s k f).seqWords = s.seqWords := rfl
@[simp] theorem modCtx_tlb (k : Nat) (f : Ctx → Ctx) : (modCtx s k f).tlb = s.tlb := rfl
@[simp] theorem modCtx_walks (k : Nat) (f : Ctx → Ctx) : (modCtx s k f).walks = s.walks := rfl
@[simp] theorem modCtx_faults (k : Nat) (f : Ctx → Ctx) : (modCtx s k f).faults = s.faults := rfl
@[simp] theorem modCtx_notices (k : Nat) (f : Ctx → Ctx) : (modCtx s k f).notices = s.notices := rfl
@[simp] theorem modCtx_refused (k : Nat) (f : Ctx → Ctx) : (modCtx s k f).refused = s.refused := rfl
@[simp] theorem modCtx_evq (k : Nat) (f : Ctx → Ctx) : (modCtx s k f).evq = s.evq := rfl
@[simp] theorem modCtx_events (k : Nat) (f : Ctx → Ctx) : (modCtx s k f).events = s.events := rfl
@[simp] theorem modCtx_responses (k : Nat) (f : Ctx → Ctx) : (modCtx s k f).responses = s.responses := rfl
@[simp] theorem modCtx_outN (k : Nat) (f : Ctx → Ctx) : (modCtx s k f).outN = s.outN := rfl
@[simp] theorem modCtx_evSeq (k : Nat) (f : Ctx → Ctx) : (modCtx s k f).evSeq = s.evSeq := rfl
@[simp] theorem modCtx_answers (k : Nat) (f : Ctx → Ctx) : (modCtx s k f).answers = s.answers := rfl
@[simp] theorem modCtx_opSubs (k : Nat) (f : Ctx → Ctx) : (modCtx s k f).opSubs = s.opSubs := rfl
@[simp] theorem modCtx_passed (k : Nat) (f : Ctx → Ctx) : (modCtx s k f).passed = s.passed := rfl
@[simp] theorem modCtx_draining (k : Nat) (f : Ctx → Ctx) : (modCtx s k f).draining = s.draining := rfl
@[simp] theorem modCtx_turnVi (k : Nat) (f : Ctx → Ctx) : (modCtx s k f).turnVi = s.turnVi := rfl
@[simp] theorem modCtx_pace (k : Nat) (f : Ctx → Ctx) : (modCtx s k f).pace = s.pace := rfl
@[simp] theorem modCtx_paceSent (k : Nat) (f : Ctx → Ctx) : (modCtx s k f).paceSent = s.paceSent := rfl
@[simp] theorem modCtx_secure (k : Nat) (f : Ctx → Ctx) : (modCtx s k f).secure = s.secure := rfl
@[simp] theorem modCtx_report (k : Nat) (f : Ctx → Ctx) : (modCtx s k f).report = s.report := rfl
@[simp] theorem modCtx_status (k : Nat) (f : Ctx → Ctx) : (modCtx s k f).status = s.status := rfl
@[simp] theorem modCtx_nextFrame (k : Nat) (f : Ctx → Ctx) : (modCtx s k f).nextFrame = s.nextFrame := rfl
@[simp] theorem modCtx_temps (k : Nat) (f : Ctx → Ctx) : (modCtx s k f).temps = s.temps := rfl
@[simp] theorem modCtx_retired (k : Nat) (f : Ctx → Ctx) : (modCtx s k f).retired = s.retired := rfl
@[simp] theorem modCtx_eccC (k : Nat) (f : Ctx → Ctx) : (modCtx s k f).eccC = s.eccC := rfl
@[simp] theorem modCtx_eccU (k : Nat) (f : Ctx → Ctx) : (modCtx s k f).eccU = s.eccU := rfl
@[simp] theorem modCtx_eccUnits (k : Nat) (f : Ctx → Ctx) : (modCtx s k f).eccUnits = s.eccUnits := rfl
@[simp] theorem modCtx_seqNext (k : Nat) (f : Ctx → Ctx) : (modCtx s k f).seqNext = s.seqNext := rfl
@[simp] theorem modCtx_freeN (k : Nat) (f : Ctx → Ctx) : (modCtx s k f).freeN = s.freeN := rfl
@[simp] theorem modCtx_cur (k : Nat) (f : Ctx → Ctx) : (modCtx s k f).cur = s.cur := rfl
@[simp] theorem modCtx_turns (k : Nat) (f : Ctx → Ctx) : (modCtx s k f).turns = s.turns := rfl

/-! ### modLaunch -/

@[simp] theorem modLaunch_boot (k : Nat) (f : Launch → Launch) : (modLaunch s k f).boot = s.boot := rfl
@[simp] theorem modLaunch_masts (k : Nat) (f : Launch → Launch) : (modLaunch s k f).masts = s.masts := rfl
@[simp] theorem modLaunch_time (k : Nat) (f : Launch → Launch) : (modLaunch s k f).time = s.time := rfl
@[simp] theorem modLaunch_timebase (k : Nat) (f : Launch → Launch) : (modLaunch s k f).timebase = s.timebase := rfl
@[simp] theorem modLaunch_boundary (k : Nat) (f : Launch → Launch) : (modLaunch s k f).boundary = s.boundary := rfl
@[simp] theorem modLaunch_mem (k : Nat) (f : Launch → Launch) : (modLaunch s k f).mem = s.mem := rfl
@[simp] theorem modLaunch_vers (k : Nat) (f : Launch → Launch) : (modLaunch s k f).vers = s.vers := rfl
@[simp] theorem modLaunch_pois (k : Nat) (f : Launch → Launch) : (modLaunch s k f).pois = s.pois := rfl
@[simp] theorem modLaunch_cached (k : Nat) (f : Launch → Launch) : (modLaunch s k f).cached = s.cached := rfl
@[simp] theorem modLaunch_stale (k : Nat) (f : Launch → Launch) : (modLaunch s k f).stale = s.stale := rfl
@[simp] theorem modLaunch_owned (k : Nat) (f : Launch → Launch) : (modLaunch s k f).owned = s.owned := rfl
@[simp] theorem modLaunch_ops (k : Nat) (f : Launch → Launch) : (modLaunch s k f).ops = s.ops := rfl
@[simp] theorem modLaunch_nextId (k : Nat) (f : Launch → Launch) : (modLaunch s k f).nextId = s.nextId := rfl
@[simp] theorem modLaunch_vis (k : Nat) (f : Launch → Launch) : (modLaunch s k f).vis = s.vis := rfl
@[simp] theorem modLaunch_ctxs (k : Nat) (f : Launch → Launch) : (modLaunch s k f).ctxs = s.ctxs := rfl
@[simp] theorem modLaunch_kernels (k : Nat) (f : Launch → Launch) : (modLaunch s k f).kernels = s.kernels := rfl
@[simp] theorem modLaunch_teams (k : Nat) (f : Launch → Launch) : (modLaunch s k f).teams = s.teams := rfl
@[simp] theorem modLaunch_groups (k : Nat) (f : Launch → Launch) : (modLaunch s k f).groups = s.groups := rfl
@[simp] theorem modLaunch_cores (k : Nat) (f : Launch → Launch) : (modLaunch s k f).cores = s.cores := rfl
@[simp] theorem modLaunch_dies (k : Nat) (f : Launch → Launch) : (modLaunch s k f).dies = s.dies := rfl
@[simp] theorem modLaunch_clusters (k : Nat) (f : Launch → Launch) : (modLaunch s k f).clusters = s.clusters := rfl
@[simp] theorem modLaunch_heaps (k : Nat) (f : Launch → Launch) : (modLaunch s k f).heaps = s.heaps := rfl
@[simp] theorem modLaunch_shrouds (k : Nat) (f : Launch → Launch) : (modLaunch s k f).shrouds = s.shrouds := rfl
@[simp] theorem modLaunch_ports (k : Nat) (f : Launch → Launch) : (modLaunch s k f).ports = s.ports := rfl
@[simp] theorem modLaunch_seqWords (k : Nat) (f : Launch → Launch) : (modLaunch s k f).seqWords = s.seqWords := rfl
@[simp] theorem modLaunch_tlb (k : Nat) (f : Launch → Launch) : (modLaunch s k f).tlb = s.tlb := rfl
@[simp] theorem modLaunch_walks (k : Nat) (f : Launch → Launch) : (modLaunch s k f).walks = s.walks := rfl
@[simp] theorem modLaunch_faults (k : Nat) (f : Launch → Launch) : (modLaunch s k f).faults = s.faults := rfl
@[simp] theorem modLaunch_notices (k : Nat) (f : Launch → Launch) : (modLaunch s k f).notices = s.notices := rfl
@[simp] theorem modLaunch_refused (k : Nat) (f : Launch → Launch) : (modLaunch s k f).refused = s.refused := rfl
@[simp] theorem modLaunch_evq (k : Nat) (f : Launch → Launch) : (modLaunch s k f).evq = s.evq := rfl
@[simp] theorem modLaunch_events (k : Nat) (f : Launch → Launch) : (modLaunch s k f).events = s.events := rfl
@[simp] theorem modLaunch_responses (k : Nat) (f : Launch → Launch) : (modLaunch s k f).responses = s.responses := rfl
@[simp] theorem modLaunch_outN (k : Nat) (f : Launch → Launch) : (modLaunch s k f).outN = s.outN := rfl
@[simp] theorem modLaunch_evSeq (k : Nat) (f : Launch → Launch) : (modLaunch s k f).evSeq = s.evSeq := rfl
@[simp] theorem modLaunch_answers (k : Nat) (f : Launch → Launch) : (modLaunch s k f).answers = s.answers := rfl
@[simp] theorem modLaunch_opSubs (k : Nat) (f : Launch → Launch) : (modLaunch s k f).opSubs = s.opSubs := rfl
@[simp] theorem modLaunch_passed (k : Nat) (f : Launch → Launch) : (modLaunch s k f).passed = s.passed := rfl
@[simp] theorem modLaunch_draining (k : Nat) (f : Launch → Launch) : (modLaunch s k f).draining = s.draining := rfl
@[simp] theorem modLaunch_turnVi (k : Nat) (f : Launch → Launch) : (modLaunch s k f).turnVi = s.turnVi := rfl
@[simp] theorem modLaunch_pace (k : Nat) (f : Launch → Launch) : (modLaunch s k f).pace = s.pace := rfl
@[simp] theorem modLaunch_paceSent (k : Nat) (f : Launch → Launch) : (modLaunch s k f).paceSent = s.paceSent := rfl
@[simp] theorem modLaunch_secure (k : Nat) (f : Launch → Launch) : (modLaunch s k f).secure = s.secure := rfl
@[simp] theorem modLaunch_report (k : Nat) (f : Launch → Launch) : (modLaunch s k f).report = s.report := rfl
@[simp] theorem modLaunch_status (k : Nat) (f : Launch → Launch) : (modLaunch s k f).status = s.status := rfl
@[simp] theorem modLaunch_nextFrame (k : Nat) (f : Launch → Launch) : (modLaunch s k f).nextFrame = s.nextFrame := rfl
@[simp] theorem modLaunch_temps (k : Nat) (f : Launch → Launch) : (modLaunch s k f).temps = s.temps := rfl
@[simp] theorem modLaunch_retired (k : Nat) (f : Launch → Launch) : (modLaunch s k f).retired = s.retired := rfl
@[simp] theorem modLaunch_eccC (k : Nat) (f : Launch → Launch) : (modLaunch s k f).eccC = s.eccC := rfl
@[simp] theorem modLaunch_eccU (k : Nat) (f : Launch → Launch) : (modLaunch s k f).eccU = s.eccU := rfl
@[simp] theorem modLaunch_eccUnits (k : Nat) (f : Launch → Launch) : (modLaunch s k f).eccUnits = s.eccUnits := rfl
@[simp] theorem modLaunch_seqNext (k : Nat) (f : Launch → Launch) : (modLaunch s k f).seqNext = s.seqNext := rfl
@[simp] theorem modLaunch_freeN (k : Nat) (f : Launch → Launch) : (modLaunch s k f).freeN = s.freeN := rfl
@[simp] theorem modLaunch_cur (k : Nat) (f : Launch → Launch) : (modLaunch s k f).cur = s.cur := rfl
@[simp] theorem modLaunch_turns (k : Nat) (f : Launch → Launch) : (modLaunch s k f).turns = s.turns := rfl

/-! ### setCore -/

@[simp] theorem setCore_boot (k : Nat) (x : Core) : (setCore s k x).boot = s.boot := rfl
@[simp] theorem setCore_masts (k : Nat) (x : Core) : (setCore s k x).masts = s.masts := rfl
@[simp] theorem setCore_time (k : Nat) (x : Core) : (setCore s k x).time = s.time := rfl
@[simp] theorem setCore_timebase (k : Nat) (x : Core) : (setCore s k x).timebase = s.timebase := rfl
@[simp] theorem setCore_boundary (k : Nat) (x : Core) : (setCore s k x).boundary = s.boundary := rfl
@[simp] theorem setCore_mem (k : Nat) (x : Core) : (setCore s k x).mem = s.mem := rfl
@[simp] theorem setCore_vers (k : Nat) (x : Core) : (setCore s k x).vers = s.vers := rfl
@[simp] theorem setCore_pois (k : Nat) (x : Core) : (setCore s k x).pois = s.pois := rfl
@[simp] theorem setCore_cached (k : Nat) (x : Core) : (setCore s k x).cached = s.cached := rfl
@[simp] theorem setCore_stale (k : Nat) (x : Core) : (setCore s k x).stale = s.stale := rfl
@[simp] theorem setCore_owned (k : Nat) (x : Core) : (setCore s k x).owned = s.owned := rfl
@[simp] theorem setCore_ops (k : Nat) (x : Core) : (setCore s k x).ops = s.ops := rfl
@[simp] theorem setCore_nextId (k : Nat) (x : Core) : (setCore s k x).nextId = s.nextId := rfl
@[simp] theorem setCore_vis (k : Nat) (x : Core) : (setCore s k x).vis = s.vis := rfl
@[simp] theorem setCore_ctxs (k : Nat) (x : Core) : (setCore s k x).ctxs = s.ctxs := rfl
@[simp] theorem setCore_kernels (k : Nat) (x : Core) : (setCore s k x).kernels = s.kernels := rfl
@[simp] theorem setCore_launches (k : Nat) (x : Core) : (setCore s k x).launches = s.launches := rfl
@[simp] theorem setCore_teams (k : Nat) (x : Core) : (setCore s k x).teams = s.teams := rfl
@[simp] theorem setCore_groups (k : Nat) (x : Core) : (setCore s k x).groups = s.groups := rfl
@[simp] theorem setCore_dies (k : Nat) (x : Core) : (setCore s k x).dies = s.dies := rfl
@[simp] theorem setCore_clusters (k : Nat) (x : Core) : (setCore s k x).clusters = s.clusters := rfl
@[simp] theorem setCore_heaps (k : Nat) (x : Core) : (setCore s k x).heaps = s.heaps := rfl
@[simp] theorem setCore_shrouds (k : Nat) (x : Core) : (setCore s k x).shrouds = s.shrouds := rfl
@[simp] theorem setCore_ports (k : Nat) (x : Core) : (setCore s k x).ports = s.ports := rfl
@[simp] theorem setCore_seqWords (k : Nat) (x : Core) : (setCore s k x).seqWords = s.seqWords := rfl
@[simp] theorem setCore_tlb (k : Nat) (x : Core) : (setCore s k x).tlb = s.tlb := rfl
@[simp] theorem setCore_walks (k : Nat) (x : Core) : (setCore s k x).walks = s.walks := rfl
@[simp] theorem setCore_faults (k : Nat) (x : Core) : (setCore s k x).faults = s.faults := rfl
@[simp] theorem setCore_notices (k : Nat) (x : Core) : (setCore s k x).notices = s.notices := rfl
@[simp] theorem setCore_refused (k : Nat) (x : Core) : (setCore s k x).refused = s.refused := rfl
@[simp] theorem setCore_evq (k : Nat) (x : Core) : (setCore s k x).evq = s.evq := rfl
@[simp] theorem setCore_events (k : Nat) (x : Core) : (setCore s k x).events = s.events := rfl
@[simp] theorem setCore_responses (k : Nat) (x : Core) : (setCore s k x).responses = s.responses := rfl
@[simp] theorem setCore_outN (k : Nat) (x : Core) : (setCore s k x).outN = s.outN := rfl
@[simp] theorem setCore_evSeq (k : Nat) (x : Core) : (setCore s k x).evSeq = s.evSeq := rfl
@[simp] theorem setCore_answers (k : Nat) (x : Core) : (setCore s k x).answers = s.answers := rfl
@[simp] theorem setCore_opSubs (k : Nat) (x : Core) : (setCore s k x).opSubs = s.opSubs := rfl
@[simp] theorem setCore_passed (k : Nat) (x : Core) : (setCore s k x).passed = s.passed := rfl
@[simp] theorem setCore_draining (k : Nat) (x : Core) : (setCore s k x).draining = s.draining := rfl
@[simp] theorem setCore_turnVi (k : Nat) (x : Core) : (setCore s k x).turnVi = s.turnVi := rfl
@[simp] theorem setCore_pace (k : Nat) (x : Core) : (setCore s k x).pace = s.pace := rfl
@[simp] theorem setCore_paceSent (k : Nat) (x : Core) : (setCore s k x).paceSent = s.paceSent := rfl
@[simp] theorem setCore_secure (k : Nat) (x : Core) : (setCore s k x).secure = s.secure := rfl
@[simp] theorem setCore_report (k : Nat) (x : Core) : (setCore s k x).report = s.report := rfl
@[simp] theorem setCore_status (k : Nat) (x : Core) : (setCore s k x).status = s.status := rfl
@[simp] theorem setCore_nextFrame (k : Nat) (x : Core) : (setCore s k x).nextFrame = s.nextFrame := rfl
@[simp] theorem setCore_temps (k : Nat) (x : Core) : (setCore s k x).temps = s.temps := rfl
@[simp] theorem setCore_retired (k : Nat) (x : Core) : (setCore s k x).retired = s.retired := rfl
@[simp] theorem setCore_eccC (k : Nat) (x : Core) : (setCore s k x).eccC = s.eccC := rfl
@[simp] theorem setCore_eccU (k : Nat) (x : Core) : (setCore s k x).eccU = s.eccU := rfl
@[simp] theorem setCore_eccUnits (k : Nat) (x : Core) : (setCore s k x).eccUnits = s.eccUnits := rfl
@[simp] theorem setCore_seqNext (k : Nat) (x : Core) : (setCore s k x).seqNext = s.seqNext := rfl
@[simp] theorem setCore_freeN (k : Nat) (x : Core) : (setCore s k x).freeN = s.freeN := rfl
@[simp] theorem setCore_cur (k : Nat) (x : Core) : (setCore s k x).cur = s.cur := rfl
@[simp] theorem setCore_turns (k : Nat) (x : Core) : (setCore s k x).turns = s.turns := rfl

/-! ### setDie -/

@[simp] theorem setDie_boot (k : Nat) (x : Die) : (setDie s k x).boot = s.boot := rfl
@[simp] theorem setDie_masts (k : Nat) (x : Die) : (setDie s k x).masts = s.masts := rfl
@[simp] theorem setDie_time (k : Nat) (x : Die) : (setDie s k x).time = s.time := rfl
@[simp] theorem setDie_timebase (k : Nat) (x : Die) : (setDie s k x).timebase = s.timebase := rfl
@[simp] theorem setDie_boundary (k : Nat) (x : Die) : (setDie s k x).boundary = s.boundary := rfl
@[simp] theorem setDie_mem (k : Nat) (x : Die) : (setDie s k x).mem = s.mem := rfl
@[simp] theorem setDie_vers (k : Nat) (x : Die) : (setDie s k x).vers = s.vers := rfl
@[simp] theorem setDie_pois (k : Nat) (x : Die) : (setDie s k x).pois = s.pois := rfl
@[simp] theorem setDie_cached (k : Nat) (x : Die) : (setDie s k x).cached = s.cached := rfl
@[simp] theorem setDie_stale (k : Nat) (x : Die) : (setDie s k x).stale = s.stale := rfl
@[simp] theorem setDie_owned (k : Nat) (x : Die) : (setDie s k x).owned = s.owned := rfl
@[simp] theorem setDie_ops (k : Nat) (x : Die) : (setDie s k x).ops = s.ops := rfl
@[simp] theorem setDie_nextId (k : Nat) (x : Die) : (setDie s k x).nextId = s.nextId := rfl
@[simp] theorem setDie_vis (k : Nat) (x : Die) : (setDie s k x).vis = s.vis := rfl
@[simp] theorem setDie_ctxs (k : Nat) (x : Die) : (setDie s k x).ctxs = s.ctxs := rfl
@[simp] theorem setDie_kernels (k : Nat) (x : Die) : (setDie s k x).kernels = s.kernels := rfl
@[simp] theorem setDie_launches (k : Nat) (x : Die) : (setDie s k x).launches = s.launches := rfl
@[simp] theorem setDie_teams (k : Nat) (x : Die) : (setDie s k x).teams = s.teams := rfl
@[simp] theorem setDie_groups (k : Nat) (x : Die) : (setDie s k x).groups = s.groups := rfl
@[simp] theorem setDie_cores (k : Nat) (x : Die) : (setDie s k x).cores = s.cores := rfl
@[simp] theorem setDie_clusters (k : Nat) (x : Die) : (setDie s k x).clusters = s.clusters := rfl
@[simp] theorem setDie_heaps (k : Nat) (x : Die) : (setDie s k x).heaps = s.heaps := rfl
@[simp] theorem setDie_shrouds (k : Nat) (x : Die) : (setDie s k x).shrouds = s.shrouds := rfl
@[simp] theorem setDie_ports (k : Nat) (x : Die) : (setDie s k x).ports = s.ports := rfl
@[simp] theorem setDie_seqWords (k : Nat) (x : Die) : (setDie s k x).seqWords = s.seqWords := rfl
@[simp] theorem setDie_tlb (k : Nat) (x : Die) : (setDie s k x).tlb = s.tlb := rfl
@[simp] theorem setDie_walks (k : Nat) (x : Die) : (setDie s k x).walks = s.walks := rfl
@[simp] theorem setDie_faults (k : Nat) (x : Die) : (setDie s k x).faults = s.faults := rfl
@[simp] theorem setDie_notices (k : Nat) (x : Die) : (setDie s k x).notices = s.notices := rfl
@[simp] theorem setDie_refused (k : Nat) (x : Die) : (setDie s k x).refused = s.refused := rfl
@[simp] theorem setDie_evq (k : Nat) (x : Die) : (setDie s k x).evq = s.evq := rfl
@[simp] theorem setDie_events (k : Nat) (x : Die) : (setDie s k x).events = s.events := rfl
@[simp] theorem setDie_responses (k : Nat) (x : Die) : (setDie s k x).responses = s.responses := rfl
@[simp] theorem setDie_outN (k : Nat) (x : Die) : (setDie s k x).outN = s.outN := rfl
@[simp] theorem setDie_evSeq (k : Nat) (x : Die) : (setDie s k x).evSeq = s.evSeq := rfl
@[simp] theorem setDie_answers (k : Nat) (x : Die) : (setDie s k x).answers = s.answers := rfl
@[simp] theorem setDie_opSubs (k : Nat) (x : Die) : (setDie s k x).opSubs = s.opSubs := rfl
@[simp] theorem setDie_passed (k : Nat) (x : Die) : (setDie s k x).passed = s.passed := rfl
@[simp] theorem setDie_draining (k : Nat) (x : Die) : (setDie s k x).draining = s.draining := rfl
@[simp] theorem setDie_turnVi (k : Nat) (x : Die) : (setDie s k x).turnVi = s.turnVi := rfl
@[simp] theorem setDie_pace (k : Nat) (x : Die) : (setDie s k x).pace = s.pace := rfl
@[simp] theorem setDie_paceSent (k : Nat) (x : Die) : (setDie s k x).paceSent = s.paceSent := rfl
@[simp] theorem setDie_secure (k : Nat) (x : Die) : (setDie s k x).secure = s.secure := rfl
@[simp] theorem setDie_report (k : Nat) (x : Die) : (setDie s k x).report = s.report := rfl
@[simp] theorem setDie_status (k : Nat) (x : Die) : (setDie s k x).status = s.status := rfl
@[simp] theorem setDie_nextFrame (k : Nat) (x : Die) : (setDie s k x).nextFrame = s.nextFrame := rfl
@[simp] theorem setDie_temps (k : Nat) (x : Die) : (setDie s k x).temps = s.temps := rfl
@[simp] theorem setDie_retired (k : Nat) (x : Die) : (setDie s k x).retired = s.retired := rfl
@[simp] theorem setDie_eccC (k : Nat) (x : Die) : (setDie s k x).eccC = s.eccC := rfl
@[simp] theorem setDie_eccU (k : Nat) (x : Die) : (setDie s k x).eccU = s.eccU := rfl
@[simp] theorem setDie_eccUnits (k : Nat) (x : Die) : (setDie s k x).eccUnits = s.eccUnits := rfl
@[simp] theorem setDie_seqNext (k : Nat) (x : Die) : (setDie s k x).seqNext = s.seqNext := rfl
@[simp] theorem setDie_freeN (k : Nat) (x : Die) : (setDie s k x).freeN = s.freeN := rfl
@[simp] theorem setDie_cur (k : Nat) (x : Die) : (setDie s k x).cur = s.cur := rfl
@[simp] theorem setDie_turns (k : Nat) (x : Die) : (setDie s k x).turns = s.turns := rfl

/-! ### setCluster -/

@[simp] theorem setCluster_boot (k : Nat) (x : Cluster) : (setCluster s k x).boot = s.boot := rfl
@[simp] theorem setCluster_masts (k : Nat) (x : Cluster) : (setCluster s k x).masts = s.masts := rfl
@[simp] theorem setCluster_time (k : Nat) (x : Cluster) : (setCluster s k x).time = s.time := rfl
@[simp] theorem setCluster_timebase (k : Nat) (x : Cluster) : (setCluster s k x).timebase = s.timebase := rfl
@[simp] theorem setCluster_boundary (k : Nat) (x : Cluster) : (setCluster s k x).boundary = s.boundary := rfl
@[simp] theorem setCluster_mem (k : Nat) (x : Cluster) : (setCluster s k x).mem = s.mem := rfl
@[simp] theorem setCluster_vers (k : Nat) (x : Cluster) : (setCluster s k x).vers = s.vers := rfl
@[simp] theorem setCluster_pois (k : Nat) (x : Cluster) : (setCluster s k x).pois = s.pois := rfl
@[simp] theorem setCluster_cached (k : Nat) (x : Cluster) : (setCluster s k x).cached = s.cached := rfl
@[simp] theorem setCluster_stale (k : Nat) (x : Cluster) : (setCluster s k x).stale = s.stale := rfl
@[simp] theorem setCluster_owned (k : Nat) (x : Cluster) : (setCluster s k x).owned = s.owned := rfl
@[simp] theorem setCluster_ops (k : Nat) (x : Cluster) : (setCluster s k x).ops = s.ops := rfl
@[simp] theorem setCluster_nextId (k : Nat) (x : Cluster) : (setCluster s k x).nextId = s.nextId := rfl
@[simp] theorem setCluster_vis (k : Nat) (x : Cluster) : (setCluster s k x).vis = s.vis := rfl
@[simp] theorem setCluster_ctxs (k : Nat) (x : Cluster) : (setCluster s k x).ctxs = s.ctxs := rfl
@[simp] theorem setCluster_kernels (k : Nat) (x : Cluster) : (setCluster s k x).kernels = s.kernels := rfl
@[simp] theorem setCluster_launches (k : Nat) (x : Cluster) : (setCluster s k x).launches = s.launches := rfl
@[simp] theorem setCluster_teams (k : Nat) (x : Cluster) : (setCluster s k x).teams = s.teams := rfl
@[simp] theorem setCluster_groups (k : Nat) (x : Cluster) : (setCluster s k x).groups = s.groups := rfl
@[simp] theorem setCluster_cores (k : Nat) (x : Cluster) : (setCluster s k x).cores = s.cores := rfl
@[simp] theorem setCluster_dies (k : Nat) (x : Cluster) : (setCluster s k x).dies = s.dies := rfl
@[simp] theorem setCluster_heaps (k : Nat) (x : Cluster) : (setCluster s k x).heaps = s.heaps := rfl
@[simp] theorem setCluster_shrouds (k : Nat) (x : Cluster) : (setCluster s k x).shrouds = s.shrouds := rfl
@[simp] theorem setCluster_ports (k : Nat) (x : Cluster) : (setCluster s k x).ports = s.ports := rfl
@[simp] theorem setCluster_seqWords (k : Nat) (x : Cluster) : (setCluster s k x).seqWords = s.seqWords := rfl
@[simp] theorem setCluster_tlb (k : Nat) (x : Cluster) : (setCluster s k x).tlb = s.tlb := rfl
@[simp] theorem setCluster_walks (k : Nat) (x : Cluster) : (setCluster s k x).walks = s.walks := rfl
@[simp] theorem setCluster_faults (k : Nat) (x : Cluster) : (setCluster s k x).faults = s.faults := rfl
@[simp] theorem setCluster_notices (k : Nat) (x : Cluster) : (setCluster s k x).notices = s.notices := rfl
@[simp] theorem setCluster_refused (k : Nat) (x : Cluster) : (setCluster s k x).refused = s.refused := rfl
@[simp] theorem setCluster_evq (k : Nat) (x : Cluster) : (setCluster s k x).evq = s.evq := rfl
@[simp] theorem setCluster_events (k : Nat) (x : Cluster) : (setCluster s k x).events = s.events := rfl
@[simp] theorem setCluster_responses (k : Nat) (x : Cluster) : (setCluster s k x).responses = s.responses := rfl
@[simp] theorem setCluster_outN (k : Nat) (x : Cluster) : (setCluster s k x).outN = s.outN := rfl
@[simp] theorem setCluster_evSeq (k : Nat) (x : Cluster) : (setCluster s k x).evSeq = s.evSeq := rfl
@[simp] theorem setCluster_answers (k : Nat) (x : Cluster) : (setCluster s k x).answers = s.answers := rfl
@[simp] theorem setCluster_opSubs (k : Nat) (x : Cluster) : (setCluster s k x).opSubs = s.opSubs := rfl
@[simp] theorem setCluster_passed (k : Nat) (x : Cluster) : (setCluster s k x).passed = s.passed := rfl
@[simp] theorem setCluster_draining (k : Nat) (x : Cluster) : (setCluster s k x).draining = s.draining := rfl
@[simp] theorem setCluster_turnVi (k : Nat) (x : Cluster) : (setCluster s k x).turnVi = s.turnVi := rfl
@[simp] theorem setCluster_pace (k : Nat) (x : Cluster) : (setCluster s k x).pace = s.pace := rfl
@[simp] theorem setCluster_paceSent (k : Nat) (x : Cluster) : (setCluster s k x).paceSent = s.paceSent := rfl
@[simp] theorem setCluster_secure (k : Nat) (x : Cluster) : (setCluster s k x).secure = s.secure := rfl
@[simp] theorem setCluster_report (k : Nat) (x : Cluster) : (setCluster s k x).report = s.report := rfl
@[simp] theorem setCluster_status (k : Nat) (x : Cluster) : (setCluster s k x).status = s.status := rfl
@[simp] theorem setCluster_nextFrame (k : Nat) (x : Cluster) : (setCluster s k x).nextFrame = s.nextFrame := rfl
@[simp] theorem setCluster_temps (k : Nat) (x : Cluster) : (setCluster s k x).temps = s.temps := rfl
@[simp] theorem setCluster_retired (k : Nat) (x : Cluster) : (setCluster s k x).retired = s.retired := rfl
@[simp] theorem setCluster_eccC (k : Nat) (x : Cluster) : (setCluster s k x).eccC = s.eccC := rfl
@[simp] theorem setCluster_eccU (k : Nat) (x : Cluster) : (setCluster s k x).eccU = s.eccU := rfl
@[simp] theorem setCluster_eccUnits (k : Nat) (x : Cluster) : (setCluster s k x).eccUnits = s.eccUnits := rfl
@[simp] theorem setCluster_seqNext (k : Nat) (x : Cluster) : (setCluster s k x).seqNext = s.seqNext := rfl
@[simp] theorem setCluster_freeN (k : Nat) (x : Cluster) : (setCluster s k x).freeN = s.freeN := rfl
@[simp] theorem setCluster_cur (k : Nat) (x : Cluster) : (setCluster s k x).cur = s.cur := rfl
@[simp] theorem setCluster_turns (k : Nat) (x : Cluster) : (setCluster s k x).turns = s.turns := rfl

/-! ### setHeap -/

@[simp] theorem setHeap_boot (k : Nat) (x : Heap) : (setHeap s k x).boot = s.boot := rfl
@[simp] theorem setHeap_masts (k : Nat) (x : Heap) : (setHeap s k x).masts = s.masts := rfl
@[simp] theorem setHeap_time (k : Nat) (x : Heap) : (setHeap s k x).time = s.time := rfl
@[simp] theorem setHeap_timebase (k : Nat) (x : Heap) : (setHeap s k x).timebase = s.timebase := rfl
@[simp] theorem setHeap_boundary (k : Nat) (x : Heap) : (setHeap s k x).boundary = s.boundary := rfl
@[simp] theorem setHeap_mem (k : Nat) (x : Heap) : (setHeap s k x).mem = s.mem := rfl
@[simp] theorem setHeap_vers (k : Nat) (x : Heap) : (setHeap s k x).vers = s.vers := rfl
@[simp] theorem setHeap_pois (k : Nat) (x : Heap) : (setHeap s k x).pois = s.pois := rfl
@[simp] theorem setHeap_cached (k : Nat) (x : Heap) : (setHeap s k x).cached = s.cached := rfl
@[simp] theorem setHeap_stale (k : Nat) (x : Heap) : (setHeap s k x).stale = s.stale := rfl
@[simp] theorem setHeap_owned (k : Nat) (x : Heap) : (setHeap s k x).owned = s.owned := rfl
@[simp] theorem setHeap_ops (k : Nat) (x : Heap) : (setHeap s k x).ops = s.ops := rfl
@[simp] theorem setHeap_nextId (k : Nat) (x : Heap) : (setHeap s k x).nextId = s.nextId := rfl
@[simp] theorem setHeap_vis (k : Nat) (x : Heap) : (setHeap s k x).vis = s.vis := rfl
@[simp] theorem setHeap_ctxs (k : Nat) (x : Heap) : (setHeap s k x).ctxs = s.ctxs := rfl
@[simp] theorem setHeap_kernels (k : Nat) (x : Heap) : (setHeap s k x).kernels = s.kernels := rfl
@[simp] theorem setHeap_launches (k : Nat) (x : Heap) : (setHeap s k x).launches = s.launches := rfl
@[simp] theorem setHeap_teams (k : Nat) (x : Heap) : (setHeap s k x).teams = s.teams := rfl
@[simp] theorem setHeap_groups (k : Nat) (x : Heap) : (setHeap s k x).groups = s.groups := rfl
@[simp] theorem setHeap_cores (k : Nat) (x : Heap) : (setHeap s k x).cores = s.cores := rfl
@[simp] theorem setHeap_dies (k : Nat) (x : Heap) : (setHeap s k x).dies = s.dies := rfl
@[simp] theorem setHeap_clusters (k : Nat) (x : Heap) : (setHeap s k x).clusters = s.clusters := rfl
@[simp] theorem setHeap_shrouds (k : Nat) (x : Heap) : (setHeap s k x).shrouds = s.shrouds := rfl
@[simp] theorem setHeap_ports (k : Nat) (x : Heap) : (setHeap s k x).ports = s.ports := rfl
@[simp] theorem setHeap_seqWords (k : Nat) (x : Heap) : (setHeap s k x).seqWords = s.seqWords := rfl
@[simp] theorem setHeap_tlb (k : Nat) (x : Heap) : (setHeap s k x).tlb = s.tlb := rfl
@[simp] theorem setHeap_walks (k : Nat) (x : Heap) : (setHeap s k x).walks = s.walks := rfl
@[simp] theorem setHeap_faults (k : Nat) (x : Heap) : (setHeap s k x).faults = s.faults := rfl
@[simp] theorem setHeap_notices (k : Nat) (x : Heap) : (setHeap s k x).notices = s.notices := rfl
@[simp] theorem setHeap_refused (k : Nat) (x : Heap) : (setHeap s k x).refused = s.refused := rfl
@[simp] theorem setHeap_evq (k : Nat) (x : Heap) : (setHeap s k x).evq = s.evq := rfl
@[simp] theorem setHeap_events (k : Nat) (x : Heap) : (setHeap s k x).events = s.events := rfl
@[simp] theorem setHeap_responses (k : Nat) (x : Heap) : (setHeap s k x).responses = s.responses := rfl
@[simp] theorem setHeap_outN (k : Nat) (x : Heap) : (setHeap s k x).outN = s.outN := rfl
@[simp] theorem setHeap_evSeq (k : Nat) (x : Heap) : (setHeap s k x).evSeq = s.evSeq := rfl
@[simp] theorem setHeap_answers (k : Nat) (x : Heap) : (setHeap s k x).answers = s.answers := rfl
@[simp] theorem setHeap_opSubs (k : Nat) (x : Heap) : (setHeap s k x).opSubs = s.opSubs := rfl
@[simp] theorem setHeap_passed (k : Nat) (x : Heap) : (setHeap s k x).passed = s.passed := rfl
@[simp] theorem setHeap_draining (k : Nat) (x : Heap) : (setHeap s k x).draining = s.draining := rfl
@[simp] theorem setHeap_turnVi (k : Nat) (x : Heap) : (setHeap s k x).turnVi = s.turnVi := rfl
@[simp] theorem setHeap_pace (k : Nat) (x : Heap) : (setHeap s k x).pace = s.pace := rfl
@[simp] theorem setHeap_paceSent (k : Nat) (x : Heap) : (setHeap s k x).paceSent = s.paceSent := rfl
@[simp] theorem setHeap_secure (k : Nat) (x : Heap) : (setHeap s k x).secure = s.secure := rfl
@[simp] theorem setHeap_report (k : Nat) (x : Heap) : (setHeap s k x).report = s.report := rfl
@[simp] theorem setHeap_status (k : Nat) (x : Heap) : (setHeap s k x).status = s.status := rfl
@[simp] theorem setHeap_nextFrame (k : Nat) (x : Heap) : (setHeap s k x).nextFrame = s.nextFrame := rfl
@[simp] theorem setHeap_temps (k : Nat) (x : Heap) : (setHeap s k x).temps = s.temps := rfl
@[simp] theorem setHeap_retired (k : Nat) (x : Heap) : (setHeap s k x).retired = s.retired := rfl
@[simp] theorem setHeap_eccC (k : Nat) (x : Heap) : (setHeap s k x).eccC = s.eccC := rfl
@[simp] theorem setHeap_eccU (k : Nat) (x : Heap) : (setHeap s k x).eccU = s.eccU := rfl
@[simp] theorem setHeap_eccUnits (k : Nat) (x : Heap) : (setHeap s k x).eccUnits = s.eccUnits := rfl
@[simp] theorem setHeap_seqNext (k : Nat) (x : Heap) : (setHeap s k x).seqNext = s.seqNext := rfl
@[simp] theorem setHeap_freeN (k : Nat) (x : Heap) : (setHeap s k x).freeN = s.freeN := rfl
@[simp] theorem setHeap_cur (k : Nat) (x : Heap) : (setHeap s k x).cur = s.cur := rfl
@[simp] theorem setHeap_turns (k : Nat) (x : Heap) : (setHeap s k x).turns = s.turns := rfl

/-! ### setShroud -/

@[simp] theorem setShroud_boot (k : Nat) (x : Shroud) : (setShroud s k x).boot = s.boot := rfl
@[simp] theorem setShroud_masts (k : Nat) (x : Shroud) : (setShroud s k x).masts = s.masts := rfl
@[simp] theorem setShroud_time (k : Nat) (x : Shroud) : (setShroud s k x).time = s.time := rfl
@[simp] theorem setShroud_timebase (k : Nat) (x : Shroud) : (setShroud s k x).timebase = s.timebase := rfl
@[simp] theorem setShroud_boundary (k : Nat) (x : Shroud) : (setShroud s k x).boundary = s.boundary := rfl
@[simp] theorem setShroud_mem (k : Nat) (x : Shroud) : (setShroud s k x).mem = s.mem := rfl
@[simp] theorem setShroud_vers (k : Nat) (x : Shroud) : (setShroud s k x).vers = s.vers := rfl
@[simp] theorem setShroud_pois (k : Nat) (x : Shroud) : (setShroud s k x).pois = s.pois := rfl
@[simp] theorem setShroud_cached (k : Nat) (x : Shroud) : (setShroud s k x).cached = s.cached := rfl
@[simp] theorem setShroud_stale (k : Nat) (x : Shroud) : (setShroud s k x).stale = s.stale := rfl
@[simp] theorem setShroud_owned (k : Nat) (x : Shroud) : (setShroud s k x).owned = s.owned := rfl
@[simp] theorem setShroud_ops (k : Nat) (x : Shroud) : (setShroud s k x).ops = s.ops := rfl
@[simp] theorem setShroud_nextId (k : Nat) (x : Shroud) : (setShroud s k x).nextId = s.nextId := rfl
@[simp] theorem setShroud_vis (k : Nat) (x : Shroud) : (setShroud s k x).vis = s.vis := rfl
@[simp] theorem setShroud_ctxs (k : Nat) (x : Shroud) : (setShroud s k x).ctxs = s.ctxs := rfl
@[simp] theorem setShroud_kernels (k : Nat) (x : Shroud) : (setShroud s k x).kernels = s.kernels := rfl
@[simp] theorem setShroud_launches (k : Nat) (x : Shroud) : (setShroud s k x).launches = s.launches := rfl
@[simp] theorem setShroud_teams (k : Nat) (x : Shroud) : (setShroud s k x).teams = s.teams := rfl
@[simp] theorem setShroud_groups (k : Nat) (x : Shroud) : (setShroud s k x).groups = s.groups := rfl
@[simp] theorem setShroud_cores (k : Nat) (x : Shroud) : (setShroud s k x).cores = s.cores := rfl
@[simp] theorem setShroud_dies (k : Nat) (x : Shroud) : (setShroud s k x).dies = s.dies := rfl
@[simp] theorem setShroud_clusters (k : Nat) (x : Shroud) : (setShroud s k x).clusters = s.clusters := rfl
@[simp] theorem setShroud_heaps (k : Nat) (x : Shroud) : (setShroud s k x).heaps = s.heaps := rfl
@[simp] theorem setShroud_ports (k : Nat) (x : Shroud) : (setShroud s k x).ports = s.ports := rfl
@[simp] theorem setShroud_seqWords (k : Nat) (x : Shroud) : (setShroud s k x).seqWords = s.seqWords := rfl
@[simp] theorem setShroud_tlb (k : Nat) (x : Shroud) : (setShroud s k x).tlb = s.tlb := rfl
@[simp] theorem setShroud_walks (k : Nat) (x : Shroud) : (setShroud s k x).walks = s.walks := rfl
@[simp] theorem setShroud_faults (k : Nat) (x : Shroud) : (setShroud s k x).faults = s.faults := rfl
@[simp] theorem setShroud_notices (k : Nat) (x : Shroud) : (setShroud s k x).notices = s.notices := rfl
@[simp] theorem setShroud_refused (k : Nat) (x : Shroud) : (setShroud s k x).refused = s.refused := rfl
@[simp] theorem setShroud_evq (k : Nat) (x : Shroud) : (setShroud s k x).evq = s.evq := rfl
@[simp] theorem setShroud_events (k : Nat) (x : Shroud) : (setShroud s k x).events = s.events := rfl
@[simp] theorem setShroud_responses (k : Nat) (x : Shroud) : (setShroud s k x).responses = s.responses := rfl
@[simp] theorem setShroud_outN (k : Nat) (x : Shroud) : (setShroud s k x).outN = s.outN := rfl
@[simp] theorem setShroud_evSeq (k : Nat) (x : Shroud) : (setShroud s k x).evSeq = s.evSeq := rfl
@[simp] theorem setShroud_answers (k : Nat) (x : Shroud) : (setShroud s k x).answers = s.answers := rfl
@[simp] theorem setShroud_opSubs (k : Nat) (x : Shroud) : (setShroud s k x).opSubs = s.opSubs := rfl
@[simp] theorem setShroud_passed (k : Nat) (x : Shroud) : (setShroud s k x).passed = s.passed := rfl
@[simp] theorem setShroud_draining (k : Nat) (x : Shroud) : (setShroud s k x).draining = s.draining := rfl
@[simp] theorem setShroud_turnVi (k : Nat) (x : Shroud) : (setShroud s k x).turnVi = s.turnVi := rfl
@[simp] theorem setShroud_pace (k : Nat) (x : Shroud) : (setShroud s k x).pace = s.pace := rfl
@[simp] theorem setShroud_paceSent (k : Nat) (x : Shroud) : (setShroud s k x).paceSent = s.paceSent := rfl
@[simp] theorem setShroud_secure (k : Nat) (x : Shroud) : (setShroud s k x).secure = s.secure := rfl
@[simp] theorem setShroud_report (k : Nat) (x : Shroud) : (setShroud s k x).report = s.report := rfl
@[simp] theorem setShroud_status (k : Nat) (x : Shroud) : (setShroud s k x).status = s.status := rfl
@[simp] theorem setShroud_nextFrame (k : Nat) (x : Shroud) : (setShroud s k x).nextFrame = s.nextFrame := rfl
@[simp] theorem setShroud_temps (k : Nat) (x : Shroud) : (setShroud s k x).temps = s.temps := rfl
@[simp] theorem setShroud_retired (k : Nat) (x : Shroud) : (setShroud s k x).retired = s.retired := rfl
@[simp] theorem setShroud_eccC (k : Nat) (x : Shroud) : (setShroud s k x).eccC = s.eccC := rfl
@[simp] theorem setShroud_eccU (k : Nat) (x : Shroud) : (setShroud s k x).eccU = s.eccU := rfl
@[simp] theorem setShroud_eccUnits (k : Nat) (x : Shroud) : (setShroud s k x).eccUnits = s.eccUnits := rfl
@[simp] theorem setShroud_seqNext (k : Nat) (x : Shroud) : (setShroud s k x).seqNext = s.seqNext := rfl
@[simp] theorem setShroud_freeN (k : Nat) (x : Shroud) : (setShroud s k x).freeN = s.freeN := rfl
@[simp] theorem setShroud_cur (k : Nat) (x : Shroud) : (setShroud s k x).cur = s.cur := rfl
@[simp] theorem setShroud_turns (k : Nat) (x : Shroud) : (setShroud s k x).turns = s.turns := rfl

/-! ### setPort -/

@[simp] theorem setPort_boot (k : Nat) (x : Port) : (setPort s k x).boot = s.boot := rfl
@[simp] theorem setPort_masts (k : Nat) (x : Port) : (setPort s k x).masts = s.masts := rfl
@[simp] theorem setPort_time (k : Nat) (x : Port) : (setPort s k x).time = s.time := rfl
@[simp] theorem setPort_timebase (k : Nat) (x : Port) : (setPort s k x).timebase = s.timebase := rfl
@[simp] theorem setPort_boundary (k : Nat) (x : Port) : (setPort s k x).boundary = s.boundary := rfl
@[simp] theorem setPort_mem (k : Nat) (x : Port) : (setPort s k x).mem = s.mem := rfl
@[simp] theorem setPort_vers (k : Nat) (x : Port) : (setPort s k x).vers = s.vers := rfl
@[simp] theorem setPort_pois (k : Nat) (x : Port) : (setPort s k x).pois = s.pois := rfl
@[simp] theorem setPort_cached (k : Nat) (x : Port) : (setPort s k x).cached = s.cached := rfl
@[simp] theorem setPort_stale (k : Nat) (x : Port) : (setPort s k x).stale = s.stale := rfl
@[simp] theorem setPort_owned (k : Nat) (x : Port) : (setPort s k x).owned = s.owned := rfl
@[simp] theorem setPort_ops (k : Nat) (x : Port) : (setPort s k x).ops = s.ops := rfl
@[simp] theorem setPort_nextId (k : Nat) (x : Port) : (setPort s k x).nextId = s.nextId := rfl
@[simp] theorem setPort_vis (k : Nat) (x : Port) : (setPort s k x).vis = s.vis := rfl
@[simp] theorem setPort_ctxs (k : Nat) (x : Port) : (setPort s k x).ctxs = s.ctxs := rfl
@[simp] theorem setPort_kernels (k : Nat) (x : Port) : (setPort s k x).kernels = s.kernels := rfl
@[simp] theorem setPort_launches (k : Nat) (x : Port) : (setPort s k x).launches = s.launches := rfl
@[simp] theorem setPort_teams (k : Nat) (x : Port) : (setPort s k x).teams = s.teams := rfl
@[simp] theorem setPort_groups (k : Nat) (x : Port) : (setPort s k x).groups = s.groups := rfl
@[simp] theorem setPort_cores (k : Nat) (x : Port) : (setPort s k x).cores = s.cores := rfl
@[simp] theorem setPort_dies (k : Nat) (x : Port) : (setPort s k x).dies = s.dies := rfl
@[simp] theorem setPort_clusters (k : Nat) (x : Port) : (setPort s k x).clusters = s.clusters := rfl
@[simp] theorem setPort_heaps (k : Nat) (x : Port) : (setPort s k x).heaps = s.heaps := rfl
@[simp] theorem setPort_shrouds (k : Nat) (x : Port) : (setPort s k x).shrouds = s.shrouds := rfl
@[simp] theorem setPort_seqWords (k : Nat) (x : Port) : (setPort s k x).seqWords = s.seqWords := rfl
@[simp] theorem setPort_tlb (k : Nat) (x : Port) : (setPort s k x).tlb = s.tlb := rfl
@[simp] theorem setPort_walks (k : Nat) (x : Port) : (setPort s k x).walks = s.walks := rfl
@[simp] theorem setPort_faults (k : Nat) (x : Port) : (setPort s k x).faults = s.faults := rfl
@[simp] theorem setPort_notices (k : Nat) (x : Port) : (setPort s k x).notices = s.notices := rfl
@[simp] theorem setPort_refused (k : Nat) (x : Port) : (setPort s k x).refused = s.refused := rfl
@[simp] theorem setPort_evq (k : Nat) (x : Port) : (setPort s k x).evq = s.evq := rfl
@[simp] theorem setPort_events (k : Nat) (x : Port) : (setPort s k x).events = s.events := rfl
@[simp] theorem setPort_responses (k : Nat) (x : Port) : (setPort s k x).responses = s.responses := rfl
@[simp] theorem setPort_outN (k : Nat) (x : Port) : (setPort s k x).outN = s.outN := rfl
@[simp] theorem setPort_evSeq (k : Nat) (x : Port) : (setPort s k x).evSeq = s.evSeq := rfl
@[simp] theorem setPort_answers (k : Nat) (x : Port) : (setPort s k x).answers = s.answers := rfl
@[simp] theorem setPort_opSubs (k : Nat) (x : Port) : (setPort s k x).opSubs = s.opSubs := rfl
@[simp] theorem setPort_passed (k : Nat) (x : Port) : (setPort s k x).passed = s.passed := rfl
@[simp] theorem setPort_draining (k : Nat) (x : Port) : (setPort s k x).draining = s.draining := rfl
@[simp] theorem setPort_turnVi (k : Nat) (x : Port) : (setPort s k x).turnVi = s.turnVi := rfl
@[simp] theorem setPort_pace (k : Nat) (x : Port) : (setPort s k x).pace = s.pace := rfl
@[simp] theorem setPort_paceSent (k : Nat) (x : Port) : (setPort s k x).paceSent = s.paceSent := rfl
@[simp] theorem setPort_secure (k : Nat) (x : Port) : (setPort s k x).secure = s.secure := rfl
@[simp] theorem setPort_report (k : Nat) (x : Port) : (setPort s k x).report = s.report := rfl
@[simp] theorem setPort_status (k : Nat) (x : Port) : (setPort s k x).status = s.status := rfl
@[simp] theorem setPort_nextFrame (k : Nat) (x : Port) : (setPort s k x).nextFrame = s.nextFrame := rfl
@[simp] theorem setPort_temps (k : Nat) (x : Port) : (setPort s k x).temps = s.temps := rfl
@[simp] theorem setPort_retired (k : Nat) (x : Port) : (setPort s k x).retired = s.retired := rfl
@[simp] theorem setPort_eccC (k : Nat) (x : Port) : (setPort s k x).eccC = s.eccC := rfl
@[simp] theorem setPort_eccU (k : Nat) (x : Port) : (setPort s k x).eccU = s.eccU := rfl
@[simp] theorem setPort_eccUnits (k : Nat) (x : Port) : (setPort s k x).eccUnits = s.eccUnits := rfl
@[simp] theorem setPort_seqNext (k : Nat) (x : Port) : (setPort s k x).seqNext = s.seqNext := rfl
@[simp] theorem setPort_freeN (k : Nat) (x : Port) : (setPort s k x).freeN = s.freeN := rfl
@[simp] theorem setPort_cur (k : Nat) (x : Port) : (setPort s k x).cur = s.cur := rfl
@[simp] theorem setPort_turns (k : Nat) (x : Port) : (setPort s k x).turns = s.turns := rfl

/-! ### wrByte -/

@[simp] theorem wrByte_boot (pa : Nat) (b : Byte) : (wrByte s pa b).boot = s.boot := rfl
@[simp] theorem wrByte_masts (pa : Nat) (b : Byte) : (wrByte s pa b).masts = s.masts := rfl
@[simp] theorem wrByte_time (pa : Nat) (b : Byte) : (wrByte s pa b).time = s.time := rfl
@[simp] theorem wrByte_timebase (pa : Nat) (b : Byte) : (wrByte s pa b).timebase = s.timebase := rfl
@[simp] theorem wrByte_boundary (pa : Nat) (b : Byte) : (wrByte s pa b).boundary = s.boundary := rfl
@[simp] theorem wrByte_vers (pa : Nat) (b : Byte) : (wrByte s pa b).vers = s.vers := rfl
@[simp] theorem wrByte_pois (pa : Nat) (b : Byte) : (wrByte s pa b).pois = s.pois := rfl
@[simp] theorem wrByte_cached (pa : Nat) (b : Byte) : (wrByte s pa b).cached = s.cached := rfl
@[simp] theorem wrByte_stale (pa : Nat) (b : Byte) : (wrByte s pa b).stale = s.stale := rfl
@[simp] theorem wrByte_owned (pa : Nat) (b : Byte) : (wrByte s pa b).owned = s.owned := rfl
@[simp] theorem wrByte_ops (pa : Nat) (b : Byte) : (wrByte s pa b).ops = s.ops := rfl
@[simp] theorem wrByte_nextId (pa : Nat) (b : Byte) : (wrByte s pa b).nextId = s.nextId := rfl
@[simp] theorem wrByte_vis (pa : Nat) (b : Byte) : (wrByte s pa b).vis = s.vis := rfl
@[simp] theorem wrByte_ctxs (pa : Nat) (b : Byte) : (wrByte s pa b).ctxs = s.ctxs := rfl
@[simp] theorem wrByte_kernels (pa : Nat) (b : Byte) : (wrByte s pa b).kernels = s.kernels := rfl
@[simp] theorem wrByte_launches (pa : Nat) (b : Byte) : (wrByte s pa b).launches = s.launches := rfl
@[simp] theorem wrByte_teams (pa : Nat) (b : Byte) : (wrByte s pa b).teams = s.teams := rfl
@[simp] theorem wrByte_groups (pa : Nat) (b : Byte) : (wrByte s pa b).groups = s.groups := rfl
@[simp] theorem wrByte_cores (pa : Nat) (b : Byte) : (wrByte s pa b).cores = s.cores := rfl
@[simp] theorem wrByte_dies (pa : Nat) (b : Byte) : (wrByte s pa b).dies = s.dies := rfl
@[simp] theorem wrByte_clusters (pa : Nat) (b : Byte) : (wrByte s pa b).clusters = s.clusters := rfl
@[simp] theorem wrByte_heaps (pa : Nat) (b : Byte) : (wrByte s pa b).heaps = s.heaps := rfl
@[simp] theorem wrByte_shrouds (pa : Nat) (b : Byte) : (wrByte s pa b).shrouds = s.shrouds := rfl
@[simp] theorem wrByte_ports (pa : Nat) (b : Byte) : (wrByte s pa b).ports = s.ports := rfl
@[simp] theorem wrByte_seqWords (pa : Nat) (b : Byte) : (wrByte s pa b).seqWords = s.seqWords := rfl
@[simp] theorem wrByte_tlb (pa : Nat) (b : Byte) : (wrByte s pa b).tlb = s.tlb := rfl
@[simp] theorem wrByte_walks (pa : Nat) (b : Byte) : (wrByte s pa b).walks = s.walks := rfl
@[simp] theorem wrByte_faults (pa : Nat) (b : Byte) : (wrByte s pa b).faults = s.faults := rfl
@[simp] theorem wrByte_notices (pa : Nat) (b : Byte) : (wrByte s pa b).notices = s.notices := rfl
@[simp] theorem wrByte_refused (pa : Nat) (b : Byte) : (wrByte s pa b).refused = s.refused := rfl
@[simp] theorem wrByte_evq (pa : Nat) (b : Byte) : (wrByte s pa b).evq = s.evq := rfl
@[simp] theorem wrByte_events (pa : Nat) (b : Byte) : (wrByte s pa b).events = s.events := rfl
@[simp] theorem wrByte_responses (pa : Nat) (b : Byte) : (wrByte s pa b).responses = s.responses := rfl
@[simp] theorem wrByte_outN (pa : Nat) (b : Byte) : (wrByte s pa b).outN = s.outN := rfl
@[simp] theorem wrByte_evSeq (pa : Nat) (b : Byte) : (wrByte s pa b).evSeq = s.evSeq := rfl
@[simp] theorem wrByte_answers (pa : Nat) (b : Byte) : (wrByte s pa b).answers = s.answers := rfl
@[simp] theorem wrByte_opSubs (pa : Nat) (b : Byte) : (wrByte s pa b).opSubs = s.opSubs := rfl
@[simp] theorem wrByte_passed (pa : Nat) (b : Byte) : (wrByte s pa b).passed = s.passed := rfl
@[simp] theorem wrByte_draining (pa : Nat) (b : Byte) : (wrByte s pa b).draining = s.draining := rfl
@[simp] theorem wrByte_turnVi (pa : Nat) (b : Byte) : (wrByte s pa b).turnVi = s.turnVi := rfl
@[simp] theorem wrByte_pace (pa : Nat) (b : Byte) : (wrByte s pa b).pace = s.pace := rfl
@[simp] theorem wrByte_paceSent (pa : Nat) (b : Byte) : (wrByte s pa b).paceSent = s.paceSent := rfl
@[simp] theorem wrByte_secure (pa : Nat) (b : Byte) : (wrByte s pa b).secure = s.secure := rfl
@[simp] theorem wrByte_report (pa : Nat) (b : Byte) : (wrByte s pa b).report = s.report := rfl
@[simp] theorem wrByte_status (pa : Nat) (b : Byte) : (wrByte s pa b).status = s.status := rfl
@[simp] theorem wrByte_nextFrame (pa : Nat) (b : Byte) : (wrByte s pa b).nextFrame = s.nextFrame := rfl
@[simp] theorem wrByte_temps (pa : Nat) (b : Byte) : (wrByte s pa b).temps = s.temps := rfl
@[simp] theorem wrByte_retired (pa : Nat) (b : Byte) : (wrByte s pa b).retired = s.retired := rfl
@[simp] theorem wrByte_eccC (pa : Nat) (b : Byte) : (wrByte s pa b).eccC = s.eccC := rfl
@[simp] theorem wrByte_eccU (pa : Nat) (b : Byte) : (wrByte s pa b).eccU = s.eccU := rfl
@[simp] theorem wrByte_eccUnits (pa : Nat) (b : Byte) : (wrByte s pa b).eccUnits = s.eccUnits := rfl
@[simp] theorem wrByte_seqNext (pa : Nat) (b : Byte) : (wrByte s pa b).seqNext = s.seqNext := rfl
@[simp] theorem wrByte_freeN (pa : Nat) (b : Byte) : (wrByte s pa b).freeN = s.freeN := rfl
@[simp] theorem wrByte_cur (pa : Nat) (b : Byte) : (wrByte s pa b).cur = s.cur := rfl
@[simp] theorem wrByte_turns (pa : Nat) (b : Byte) : (wrByte s pa b).turns = s.turns := rfl

/-! ### bumpVersion -/

@[simp] theorem bumpVersion_boot (k n : Nat) : (bumpVersion s k n).boot = s.boot := rfl
@[simp] theorem bumpVersion_masts (k n : Nat) : (bumpVersion s k n).masts = s.masts := rfl
@[simp] theorem bumpVersion_time (k n : Nat) : (bumpVersion s k n).time = s.time := rfl
@[simp] theorem bumpVersion_timebase (k n : Nat) : (bumpVersion s k n).timebase = s.timebase := rfl
@[simp] theorem bumpVersion_boundary (k n : Nat) : (bumpVersion s k n).boundary = s.boundary := rfl
@[simp] theorem bumpVersion_mem (k n : Nat) : (bumpVersion s k n).mem = s.mem := rfl
@[simp] theorem bumpVersion_pois (k n : Nat) : (bumpVersion s k n).pois = s.pois := rfl
@[simp] theorem bumpVersion_cached (k n : Nat) : (bumpVersion s k n).cached = s.cached := rfl
@[simp] theorem bumpVersion_stale (k n : Nat) : (bumpVersion s k n).stale = s.stale := rfl
@[simp] theorem bumpVersion_owned (k n : Nat) : (bumpVersion s k n).owned = s.owned := rfl
@[simp] theorem bumpVersion_ops (k n : Nat) : (bumpVersion s k n).ops = s.ops := rfl
@[simp] theorem bumpVersion_nextId (k n : Nat) : (bumpVersion s k n).nextId = s.nextId := rfl
@[simp] theorem bumpVersion_vis (k n : Nat) : (bumpVersion s k n).vis = s.vis := rfl
@[simp] theorem bumpVersion_ctxs (k n : Nat) : (bumpVersion s k n).ctxs = s.ctxs := rfl
@[simp] theorem bumpVersion_kernels (k n : Nat) : (bumpVersion s k n).kernels = s.kernels := rfl
@[simp] theorem bumpVersion_launches (k n : Nat) : (bumpVersion s k n).launches = s.launches := rfl
@[simp] theorem bumpVersion_teams (k n : Nat) : (bumpVersion s k n).teams = s.teams := rfl
@[simp] theorem bumpVersion_groups (k n : Nat) : (bumpVersion s k n).groups = s.groups := rfl
@[simp] theorem bumpVersion_cores (k n : Nat) : (bumpVersion s k n).cores = s.cores := rfl
@[simp] theorem bumpVersion_dies (k n : Nat) : (bumpVersion s k n).dies = s.dies := rfl
@[simp] theorem bumpVersion_clusters (k n : Nat) : (bumpVersion s k n).clusters = s.clusters := rfl
@[simp] theorem bumpVersion_heaps (k n : Nat) : (bumpVersion s k n).heaps = s.heaps := rfl
@[simp] theorem bumpVersion_shrouds (k n : Nat) : (bumpVersion s k n).shrouds = s.shrouds := rfl
@[simp] theorem bumpVersion_ports (k n : Nat) : (bumpVersion s k n).ports = s.ports := rfl
@[simp] theorem bumpVersion_seqWords (k n : Nat) : (bumpVersion s k n).seqWords = s.seqWords := rfl
@[simp] theorem bumpVersion_tlb (k n : Nat) : (bumpVersion s k n).tlb = s.tlb := rfl
@[simp] theorem bumpVersion_walks (k n : Nat) : (bumpVersion s k n).walks = s.walks := rfl
@[simp] theorem bumpVersion_faults (k n : Nat) : (bumpVersion s k n).faults = s.faults := rfl
@[simp] theorem bumpVersion_notices (k n : Nat) : (bumpVersion s k n).notices = s.notices := rfl
@[simp] theorem bumpVersion_refused (k n : Nat) : (bumpVersion s k n).refused = s.refused := rfl
@[simp] theorem bumpVersion_evq (k n : Nat) : (bumpVersion s k n).evq = s.evq := rfl
@[simp] theorem bumpVersion_events (k n : Nat) : (bumpVersion s k n).events = s.events := rfl
@[simp] theorem bumpVersion_responses (k n : Nat) : (bumpVersion s k n).responses = s.responses := rfl
@[simp] theorem bumpVersion_outN (k n : Nat) : (bumpVersion s k n).outN = s.outN := rfl
@[simp] theorem bumpVersion_evSeq (k n : Nat) : (bumpVersion s k n).evSeq = s.evSeq := rfl
@[simp] theorem bumpVersion_answers (k n : Nat) : (bumpVersion s k n).answers = s.answers := rfl
@[simp] theorem bumpVersion_opSubs (k n : Nat) : (bumpVersion s k n).opSubs = s.opSubs := rfl
@[simp] theorem bumpVersion_passed (k n : Nat) : (bumpVersion s k n).passed = s.passed := rfl
@[simp] theorem bumpVersion_draining (k n : Nat) : (bumpVersion s k n).draining = s.draining := rfl
@[simp] theorem bumpVersion_turnVi (k n : Nat) : (bumpVersion s k n).turnVi = s.turnVi := rfl
@[simp] theorem bumpVersion_pace (k n : Nat) : (bumpVersion s k n).pace = s.pace := rfl
@[simp] theorem bumpVersion_paceSent (k n : Nat) : (bumpVersion s k n).paceSent = s.paceSent := rfl
@[simp] theorem bumpVersion_secure (k n : Nat) : (bumpVersion s k n).secure = s.secure := rfl
@[simp] theorem bumpVersion_report (k n : Nat) : (bumpVersion s k n).report = s.report := rfl
@[simp] theorem bumpVersion_status (k n : Nat) : (bumpVersion s k n).status = s.status := rfl
@[simp] theorem bumpVersion_nextFrame (k n : Nat) : (bumpVersion s k n).nextFrame = s.nextFrame := rfl
@[simp] theorem bumpVersion_temps (k n : Nat) : (bumpVersion s k n).temps = s.temps := rfl
@[simp] theorem bumpVersion_retired (k n : Nat) : (bumpVersion s k n).retired = s.retired := rfl
@[simp] theorem bumpVersion_eccC (k n : Nat) : (bumpVersion s k n).eccC = s.eccC := rfl
@[simp] theorem bumpVersion_eccU (k n : Nat) : (bumpVersion s k n).eccU = s.eccU := rfl
@[simp] theorem bumpVersion_eccUnits (k n : Nat) : (bumpVersion s k n).eccUnits = s.eccUnits := rfl
@[simp] theorem bumpVersion_seqNext (k n : Nat) : (bumpVersion s k n).seqNext = s.seqNext := rfl
@[simp] theorem bumpVersion_freeN (k n : Nat) : (bumpVersion s k n).freeN = s.freeN := rfl
@[simp] theorem bumpVersion_cur (k n : Nat) : (bumpVersion s k n).cur = s.cur := rfl
@[simp] theorem bumpVersion_turns (k n : Nat) : (bumpVersion s k n).turns = s.turns := rfl

/-! ### setPoison -/

@[simp] theorem setPoison_boot (q : Nat) (on : Bool) : (setPoison s q on).boot = s.boot := rfl
@[simp] theorem setPoison_masts (q : Nat) (on : Bool) : (setPoison s q on).masts = s.masts := rfl
@[simp] theorem setPoison_time (q : Nat) (on : Bool) : (setPoison s q on).time = s.time := rfl
@[simp] theorem setPoison_timebase (q : Nat) (on : Bool) : (setPoison s q on).timebase = s.timebase := rfl
@[simp] theorem setPoison_boundary (q : Nat) (on : Bool) : (setPoison s q on).boundary = s.boundary := rfl
@[simp] theorem setPoison_mem (q : Nat) (on : Bool) : (setPoison s q on).mem = s.mem := rfl
@[simp] theorem setPoison_vers (q : Nat) (on : Bool) : (setPoison s q on).vers = s.vers := rfl
@[simp] theorem setPoison_cached (q : Nat) (on : Bool) : (setPoison s q on).cached = s.cached := rfl
@[simp] theorem setPoison_stale (q : Nat) (on : Bool) : (setPoison s q on).stale = s.stale := rfl
@[simp] theorem setPoison_owned (q : Nat) (on : Bool) : (setPoison s q on).owned = s.owned := rfl
@[simp] theorem setPoison_ops (q : Nat) (on : Bool) : (setPoison s q on).ops = s.ops := rfl
@[simp] theorem setPoison_nextId (q : Nat) (on : Bool) : (setPoison s q on).nextId = s.nextId := rfl
@[simp] theorem setPoison_vis (q : Nat) (on : Bool) : (setPoison s q on).vis = s.vis := rfl
@[simp] theorem setPoison_ctxs (q : Nat) (on : Bool) : (setPoison s q on).ctxs = s.ctxs := rfl
@[simp] theorem setPoison_kernels (q : Nat) (on : Bool) : (setPoison s q on).kernels = s.kernels := rfl
@[simp] theorem setPoison_launches (q : Nat) (on : Bool) : (setPoison s q on).launches = s.launches := rfl
@[simp] theorem setPoison_teams (q : Nat) (on : Bool) : (setPoison s q on).teams = s.teams := rfl
@[simp] theorem setPoison_groups (q : Nat) (on : Bool) : (setPoison s q on).groups = s.groups := rfl
@[simp] theorem setPoison_cores (q : Nat) (on : Bool) : (setPoison s q on).cores = s.cores := rfl
@[simp] theorem setPoison_dies (q : Nat) (on : Bool) : (setPoison s q on).dies = s.dies := rfl
@[simp] theorem setPoison_clusters (q : Nat) (on : Bool) : (setPoison s q on).clusters = s.clusters := rfl
@[simp] theorem setPoison_heaps (q : Nat) (on : Bool) : (setPoison s q on).heaps = s.heaps := rfl
@[simp] theorem setPoison_shrouds (q : Nat) (on : Bool) : (setPoison s q on).shrouds = s.shrouds := rfl
@[simp] theorem setPoison_ports (q : Nat) (on : Bool) : (setPoison s q on).ports = s.ports := rfl
@[simp] theorem setPoison_seqWords (q : Nat) (on : Bool) : (setPoison s q on).seqWords = s.seqWords := rfl
@[simp] theorem setPoison_tlb (q : Nat) (on : Bool) : (setPoison s q on).tlb = s.tlb := rfl
@[simp] theorem setPoison_walks (q : Nat) (on : Bool) : (setPoison s q on).walks = s.walks := rfl
@[simp] theorem setPoison_faults (q : Nat) (on : Bool) : (setPoison s q on).faults = s.faults := rfl
@[simp] theorem setPoison_notices (q : Nat) (on : Bool) : (setPoison s q on).notices = s.notices := rfl
@[simp] theorem setPoison_refused (q : Nat) (on : Bool) : (setPoison s q on).refused = s.refused := rfl
@[simp] theorem setPoison_evq (q : Nat) (on : Bool) : (setPoison s q on).evq = s.evq := rfl
@[simp] theorem setPoison_events (q : Nat) (on : Bool) : (setPoison s q on).events = s.events := rfl
@[simp] theorem setPoison_responses (q : Nat) (on : Bool) : (setPoison s q on).responses = s.responses := rfl
@[simp] theorem setPoison_outN (q : Nat) (on : Bool) : (setPoison s q on).outN = s.outN := rfl
@[simp] theorem setPoison_evSeq (q : Nat) (on : Bool) : (setPoison s q on).evSeq = s.evSeq := rfl
@[simp] theorem setPoison_answers (q : Nat) (on : Bool) : (setPoison s q on).answers = s.answers := rfl
@[simp] theorem setPoison_opSubs (q : Nat) (on : Bool) : (setPoison s q on).opSubs = s.opSubs := rfl
@[simp] theorem setPoison_passed (q : Nat) (on : Bool) : (setPoison s q on).passed = s.passed := rfl
@[simp] theorem setPoison_draining (q : Nat) (on : Bool) : (setPoison s q on).draining = s.draining := rfl
@[simp] theorem setPoison_turnVi (q : Nat) (on : Bool) : (setPoison s q on).turnVi = s.turnVi := rfl
@[simp] theorem setPoison_pace (q : Nat) (on : Bool) : (setPoison s q on).pace = s.pace := rfl
@[simp] theorem setPoison_paceSent (q : Nat) (on : Bool) : (setPoison s q on).paceSent = s.paceSent := rfl
@[simp] theorem setPoison_secure (q : Nat) (on : Bool) : (setPoison s q on).secure = s.secure := rfl
@[simp] theorem setPoison_report (q : Nat) (on : Bool) : (setPoison s q on).report = s.report := rfl
@[simp] theorem setPoison_status (q : Nat) (on : Bool) : (setPoison s q on).status = s.status := rfl
@[simp] theorem setPoison_nextFrame (q : Nat) (on : Bool) : (setPoison s q on).nextFrame = s.nextFrame := rfl
@[simp] theorem setPoison_temps (q : Nat) (on : Bool) : (setPoison s q on).temps = s.temps := rfl
@[simp] theorem setPoison_retired (q : Nat) (on : Bool) : (setPoison s q on).retired = s.retired := rfl
@[simp] theorem setPoison_eccC (q : Nat) (on : Bool) : (setPoison s q on).eccC = s.eccC := rfl
@[simp] theorem setPoison_eccU (q : Nat) (on : Bool) : (setPoison s q on).eccU = s.eccU := rfl
@[simp] theorem setPoison_eccUnits (q : Nat) (on : Bool) : (setPoison s q on).eccUnits = s.eccUnits := rfl
@[simp] theorem setPoison_seqNext (q : Nat) (on : Bool) : (setPoison s q on).seqNext = s.seqNext := rfl
@[simp] theorem setPoison_freeN (q : Nat) (on : Bool) : (setPoison s q on).freeN = s.freeN := rfl
@[simp] theorem setPoison_cur (q : Nat) (on : Bool) : (setPoison s q on).cur = s.cur := rfl
@[simp] theorem setPoison_turns (q : Nat) (on : Bool) : (setPoison s q on).turns = s.turns := rfl

/-! ### dropCached -/

@[simp] theorem dropCached_boot (p : Line → Bool) : (dropCached s p).boot = s.boot := rfl
@[simp] theorem dropCached_masts (p : Line → Bool) : (dropCached s p).masts = s.masts := rfl
@[simp] theorem dropCached_time (p : Line → Bool) : (dropCached s p).time = s.time := rfl
@[simp] theorem dropCached_timebase (p : Line → Bool) : (dropCached s p).timebase = s.timebase := rfl
@[simp] theorem dropCached_boundary (p : Line → Bool) : (dropCached s p).boundary = s.boundary := rfl
@[simp] theorem dropCached_mem (p : Line → Bool) : (dropCached s p).mem = s.mem := rfl
@[simp] theorem dropCached_vers (p : Line → Bool) : (dropCached s p).vers = s.vers := rfl
@[simp] theorem dropCached_pois (p : Line → Bool) : (dropCached s p).pois = s.pois := rfl
@[simp] theorem dropCached_owned (p : Line → Bool) : (dropCached s p).owned = s.owned := rfl
@[simp] theorem dropCached_ops (p : Line → Bool) : (dropCached s p).ops = s.ops := rfl
@[simp] theorem dropCached_nextId (p : Line → Bool) : (dropCached s p).nextId = s.nextId := rfl
@[simp] theorem dropCached_vis (p : Line → Bool) : (dropCached s p).vis = s.vis := rfl
@[simp] theorem dropCached_ctxs (p : Line → Bool) : (dropCached s p).ctxs = s.ctxs := rfl
@[simp] theorem dropCached_kernels (p : Line → Bool) : (dropCached s p).kernels = s.kernels := rfl
@[simp] theorem dropCached_launches (p : Line → Bool) : (dropCached s p).launches = s.launches := rfl
@[simp] theorem dropCached_teams (p : Line → Bool) : (dropCached s p).teams = s.teams := rfl
@[simp] theorem dropCached_groups (p : Line → Bool) : (dropCached s p).groups = s.groups := rfl
@[simp] theorem dropCached_cores (p : Line → Bool) : (dropCached s p).cores = s.cores := rfl
@[simp] theorem dropCached_dies (p : Line → Bool) : (dropCached s p).dies = s.dies := rfl
@[simp] theorem dropCached_clusters (p : Line → Bool) : (dropCached s p).clusters = s.clusters := rfl
@[simp] theorem dropCached_heaps (p : Line → Bool) : (dropCached s p).heaps = s.heaps := rfl
@[simp] theorem dropCached_shrouds (p : Line → Bool) : (dropCached s p).shrouds = s.shrouds := rfl
@[simp] theorem dropCached_ports (p : Line → Bool) : (dropCached s p).ports = s.ports := rfl
@[simp] theorem dropCached_seqWords (p : Line → Bool) : (dropCached s p).seqWords = s.seqWords := rfl
@[simp] theorem dropCached_tlb (p : Line → Bool) : (dropCached s p).tlb = s.tlb := rfl
@[simp] theorem dropCached_walks (p : Line → Bool) : (dropCached s p).walks = s.walks := rfl
@[simp] theorem dropCached_faults (p : Line → Bool) : (dropCached s p).faults = s.faults := rfl
@[simp] theorem dropCached_notices (p : Line → Bool) : (dropCached s p).notices = s.notices := rfl
@[simp] theorem dropCached_refused (p : Line → Bool) : (dropCached s p).refused = s.refused := rfl
@[simp] theorem dropCached_evq (p : Line → Bool) : (dropCached s p).evq = s.evq := rfl
@[simp] theorem dropCached_events (p : Line → Bool) : (dropCached s p).events = s.events := rfl
@[simp] theorem dropCached_responses (p : Line → Bool) : (dropCached s p).responses = s.responses := rfl
@[simp] theorem dropCached_outN (p : Line → Bool) : (dropCached s p).outN = s.outN := rfl
@[simp] theorem dropCached_evSeq (p : Line → Bool) : (dropCached s p).evSeq = s.evSeq := rfl
@[simp] theorem dropCached_answers (p : Line → Bool) : (dropCached s p).answers = s.answers := rfl
@[simp] theorem dropCached_opSubs (p : Line → Bool) : (dropCached s p).opSubs = s.opSubs := rfl
@[simp] theorem dropCached_passed (p : Line → Bool) : (dropCached s p).passed = s.passed := rfl
@[simp] theorem dropCached_draining (p : Line → Bool) : (dropCached s p).draining = s.draining := rfl
@[simp] theorem dropCached_turnVi (p : Line → Bool) : (dropCached s p).turnVi = s.turnVi := rfl
@[simp] theorem dropCached_pace (p : Line → Bool) : (dropCached s p).pace = s.pace := rfl
@[simp] theorem dropCached_paceSent (p : Line → Bool) : (dropCached s p).paceSent = s.paceSent := rfl
@[simp] theorem dropCached_secure (p : Line → Bool) : (dropCached s p).secure = s.secure := rfl
@[simp] theorem dropCached_report (p : Line → Bool) : (dropCached s p).report = s.report := rfl
@[simp] theorem dropCached_status (p : Line → Bool) : (dropCached s p).status = s.status := rfl
@[simp] theorem dropCached_nextFrame (p : Line → Bool) : (dropCached s p).nextFrame = s.nextFrame := rfl
@[simp] theorem dropCached_temps (p : Line → Bool) : (dropCached s p).temps = s.temps := rfl
@[simp] theorem dropCached_retired (p : Line → Bool) : (dropCached s p).retired = s.retired := rfl
@[simp] theorem dropCached_eccC (p : Line → Bool) : (dropCached s p).eccC = s.eccC := rfl
@[simp] theorem dropCached_eccU (p : Line → Bool) : (dropCached s p).eccU = s.eccU := rfl
@[simp] theorem dropCached_eccUnits (p : Line → Bool) : (dropCached s p).eccUnits = s.eccUnits := rfl
@[simp] theorem dropCached_seqNext (p : Line → Bool) : (dropCached s p).seqNext = s.seqNext := rfl
@[simp] theorem dropCached_freeN (p : Line → Bool) : (dropCached s p).freeN = s.freeN := rfl
@[simp] theorem dropCached_cur (p : Line → Bool) : (dropCached s p).cur = s.cur := rfl
@[simp] theorem dropCached_turns (p : Line → Bool) : (dropCached s p).turns = s.turns := rfl

/-! ### invalQuarter -/

@[simp] theorem invalQuarter_boot (u q : Nat) : (invalQuarter s u q).boot = s.boot := rfl
@[simp] theorem invalQuarter_masts (u q : Nat) : (invalQuarter s u q).masts = s.masts := rfl
@[simp] theorem invalQuarter_time (u q : Nat) : (invalQuarter s u q).time = s.time := rfl
@[simp] theorem invalQuarter_timebase (u q : Nat) : (invalQuarter s u q).timebase = s.timebase := rfl
@[simp] theorem invalQuarter_boundary (u q : Nat) : (invalQuarter s u q).boundary = s.boundary := rfl
@[simp] theorem invalQuarter_mem (u q : Nat) : (invalQuarter s u q).mem = s.mem := rfl
@[simp] theorem invalQuarter_vers (u q : Nat) : (invalQuarter s u q).vers = s.vers := rfl
@[simp] theorem invalQuarter_pois (u q : Nat) : (invalQuarter s u q).pois = s.pois := rfl
@[simp] theorem invalQuarter_owned (u q : Nat) : (invalQuarter s u q).owned = s.owned := rfl
@[simp] theorem invalQuarter_ops (u q : Nat) : (invalQuarter s u q).ops = s.ops := rfl
@[simp] theorem invalQuarter_nextId (u q : Nat) : (invalQuarter s u q).nextId = s.nextId := rfl
@[simp] theorem invalQuarter_vis (u q : Nat) : (invalQuarter s u q).vis = s.vis := rfl
@[simp] theorem invalQuarter_ctxs (u q : Nat) : (invalQuarter s u q).ctxs = s.ctxs := rfl
@[simp] theorem invalQuarter_kernels (u q : Nat) : (invalQuarter s u q).kernels = s.kernels := rfl
@[simp] theorem invalQuarter_launches (u q : Nat) : (invalQuarter s u q).launches = s.launches := rfl
@[simp] theorem invalQuarter_teams (u q : Nat) : (invalQuarter s u q).teams = s.teams := rfl
@[simp] theorem invalQuarter_groups (u q : Nat) : (invalQuarter s u q).groups = s.groups := rfl
@[simp] theorem invalQuarter_cores (u q : Nat) : (invalQuarter s u q).cores = s.cores := rfl
@[simp] theorem invalQuarter_dies (u q : Nat) : (invalQuarter s u q).dies = s.dies := rfl
@[simp] theorem invalQuarter_clusters (u q : Nat) : (invalQuarter s u q).clusters = s.clusters := rfl
@[simp] theorem invalQuarter_heaps (u q : Nat) : (invalQuarter s u q).heaps = s.heaps := rfl
@[simp] theorem invalQuarter_shrouds (u q : Nat) : (invalQuarter s u q).shrouds = s.shrouds := rfl
@[simp] theorem invalQuarter_ports (u q : Nat) : (invalQuarter s u q).ports = s.ports := rfl
@[simp] theorem invalQuarter_seqWords (u q : Nat) : (invalQuarter s u q).seqWords = s.seqWords := rfl
@[simp] theorem invalQuarter_tlb (u q : Nat) : (invalQuarter s u q).tlb = s.tlb := rfl
@[simp] theorem invalQuarter_walks (u q : Nat) : (invalQuarter s u q).walks = s.walks := rfl
@[simp] theorem invalQuarter_faults (u q : Nat) : (invalQuarter s u q).faults = s.faults := rfl
@[simp] theorem invalQuarter_notices (u q : Nat) : (invalQuarter s u q).notices = s.notices := rfl
@[simp] theorem invalQuarter_refused (u q : Nat) : (invalQuarter s u q).refused = s.refused := rfl
@[simp] theorem invalQuarter_evq (u q : Nat) : (invalQuarter s u q).evq = s.evq := rfl
@[simp] theorem invalQuarter_events (u q : Nat) : (invalQuarter s u q).events = s.events := rfl
@[simp] theorem invalQuarter_responses (u q : Nat) : (invalQuarter s u q).responses = s.responses := rfl
@[simp] theorem invalQuarter_outN (u q : Nat) : (invalQuarter s u q).outN = s.outN := rfl
@[simp] theorem invalQuarter_evSeq (u q : Nat) : (invalQuarter s u q).evSeq = s.evSeq := rfl
@[simp] theorem invalQuarter_answers (u q : Nat) : (invalQuarter s u q).answers = s.answers := rfl
@[simp] theorem invalQuarter_opSubs (u q : Nat) : (invalQuarter s u q).opSubs = s.opSubs := rfl
@[simp] theorem invalQuarter_passed (u q : Nat) : (invalQuarter s u q).passed = s.passed := rfl
@[simp] theorem invalQuarter_draining (u q : Nat) : (invalQuarter s u q).draining = s.draining := rfl
@[simp] theorem invalQuarter_turnVi (u q : Nat) : (invalQuarter s u q).turnVi = s.turnVi := rfl
@[simp] theorem invalQuarter_pace (u q : Nat) : (invalQuarter s u q).pace = s.pace := rfl
@[simp] theorem invalQuarter_paceSent (u q : Nat) : (invalQuarter s u q).paceSent = s.paceSent := rfl
@[simp] theorem invalQuarter_secure (u q : Nat) : (invalQuarter s u q).secure = s.secure := rfl
@[simp] theorem invalQuarter_report (u q : Nat) : (invalQuarter s u q).report = s.report := rfl
@[simp] theorem invalQuarter_status (u q : Nat) : (invalQuarter s u q).status = s.status := rfl
@[simp] theorem invalQuarter_nextFrame (u q : Nat) : (invalQuarter s u q).nextFrame = s.nextFrame := rfl
@[simp] theorem invalQuarter_temps (u q : Nat) : (invalQuarter s u q).temps = s.temps := rfl
@[simp] theorem invalQuarter_retired (u q : Nat) : (invalQuarter s u q).retired = s.retired := rfl
@[simp] theorem invalQuarter_eccC (u q : Nat) : (invalQuarter s u q).eccC = s.eccC := rfl
@[simp] theorem invalQuarter_eccU (u q : Nat) : (invalQuarter s u q).eccU = s.eccU := rfl
@[simp] theorem invalQuarter_eccUnits (u q : Nat) : (invalQuarter s u q).eccUnits = s.eccUnits := rfl
@[simp] theorem invalQuarter_seqNext (u q : Nat) : (invalQuarter s u q).seqNext = s.seqNext := rfl
@[simp] theorem invalQuarter_freeN (u q : Nat) : (invalQuarter s u q).freeN = s.freeN := rfl
@[simp] theorem invalQuarter_cur (u q : Nat) : (invalQuarter s u q).cur = s.cur := rfl
@[simp] theorem invalQuarter_turns (u q : Nat) : (invalQuarter s u q).turns = s.turns := rfl

/-! ### fillLine -/

@[simp] theorem fillLine_boot (l : Line) : (fillLine s l).boot = s.boot := rfl
@[simp] theorem fillLine_masts (l : Line) : (fillLine s l).masts = s.masts := rfl
@[simp] theorem fillLine_time (l : Line) : (fillLine s l).time = s.time := rfl
@[simp] theorem fillLine_timebase (l : Line) : (fillLine s l).timebase = s.timebase := rfl
@[simp] theorem fillLine_boundary (l : Line) : (fillLine s l).boundary = s.boundary := rfl
@[simp] theorem fillLine_mem (l : Line) : (fillLine s l).mem = s.mem := rfl
@[simp] theorem fillLine_vers (l : Line) : (fillLine s l).vers = s.vers := rfl
@[simp] theorem fillLine_pois (l : Line) : (fillLine s l).pois = s.pois := rfl
@[simp] theorem fillLine_owned (l : Line) : (fillLine s l).owned = s.owned := rfl
@[simp] theorem fillLine_ops (l : Line) : (fillLine s l).ops = s.ops := rfl
@[simp] theorem fillLine_nextId (l : Line) : (fillLine s l).nextId = s.nextId := rfl
@[simp] theorem fillLine_vis (l : Line) : (fillLine s l).vis = s.vis := rfl
@[simp] theorem fillLine_ctxs (l : Line) : (fillLine s l).ctxs = s.ctxs := rfl
@[simp] theorem fillLine_kernels (l : Line) : (fillLine s l).kernels = s.kernels := rfl
@[simp] theorem fillLine_launches (l : Line) : (fillLine s l).launches = s.launches := rfl
@[simp] theorem fillLine_teams (l : Line) : (fillLine s l).teams = s.teams := rfl
@[simp] theorem fillLine_groups (l : Line) : (fillLine s l).groups = s.groups := rfl
@[simp] theorem fillLine_cores (l : Line) : (fillLine s l).cores = s.cores := rfl
@[simp] theorem fillLine_dies (l : Line) : (fillLine s l).dies = s.dies := rfl
@[simp] theorem fillLine_clusters (l : Line) : (fillLine s l).clusters = s.clusters := rfl
@[simp] theorem fillLine_heaps (l : Line) : (fillLine s l).heaps = s.heaps := rfl
@[simp] theorem fillLine_shrouds (l : Line) : (fillLine s l).shrouds = s.shrouds := rfl
@[simp] theorem fillLine_ports (l : Line) : (fillLine s l).ports = s.ports := rfl
@[simp] theorem fillLine_seqWords (l : Line) : (fillLine s l).seqWords = s.seqWords := rfl
@[simp] theorem fillLine_tlb (l : Line) : (fillLine s l).tlb = s.tlb := rfl
@[simp] theorem fillLine_walks (l : Line) : (fillLine s l).walks = s.walks := rfl
@[simp] theorem fillLine_faults (l : Line) : (fillLine s l).faults = s.faults := rfl
@[simp] theorem fillLine_notices (l : Line) : (fillLine s l).notices = s.notices := rfl
@[simp] theorem fillLine_refused (l : Line) : (fillLine s l).refused = s.refused := rfl
@[simp] theorem fillLine_evq (l : Line) : (fillLine s l).evq = s.evq := rfl
@[simp] theorem fillLine_events (l : Line) : (fillLine s l).events = s.events := rfl
@[simp] theorem fillLine_responses (l : Line) : (fillLine s l).responses = s.responses := rfl
@[simp] theorem fillLine_outN (l : Line) : (fillLine s l).outN = s.outN := rfl
@[simp] theorem fillLine_evSeq (l : Line) : (fillLine s l).evSeq = s.evSeq := rfl
@[simp] theorem fillLine_answers (l : Line) : (fillLine s l).answers = s.answers := rfl
@[simp] theorem fillLine_opSubs (l : Line) : (fillLine s l).opSubs = s.opSubs := rfl
@[simp] theorem fillLine_passed (l : Line) : (fillLine s l).passed = s.passed := rfl
@[simp] theorem fillLine_draining (l : Line) : (fillLine s l).draining = s.draining := rfl
@[simp] theorem fillLine_turnVi (l : Line) : (fillLine s l).turnVi = s.turnVi := rfl
@[simp] theorem fillLine_pace (l : Line) : (fillLine s l).pace = s.pace := rfl
@[simp] theorem fillLine_paceSent (l : Line) : (fillLine s l).paceSent = s.paceSent := rfl
@[simp] theorem fillLine_secure (l : Line) : (fillLine s l).secure = s.secure := rfl
@[simp] theorem fillLine_report (l : Line) : (fillLine s l).report = s.report := rfl
@[simp] theorem fillLine_status (l : Line) : (fillLine s l).status = s.status := rfl
@[simp] theorem fillLine_nextFrame (l : Line) : (fillLine s l).nextFrame = s.nextFrame := rfl
@[simp] theorem fillLine_temps (l : Line) : (fillLine s l).temps = s.temps := rfl
@[simp] theorem fillLine_retired (l : Line) : (fillLine s l).retired = s.retired := rfl
@[simp] theorem fillLine_eccC (l : Line) : (fillLine s l).eccC = s.eccC := rfl
@[simp] theorem fillLine_eccU (l : Line) : (fillLine s l).eccU = s.eccU := rfl
@[simp] theorem fillLine_eccUnits (l : Line) : (fillLine s l).eccUnits = s.eccUnits := rfl
@[simp] theorem fillLine_seqNext (l : Line) : (fillLine s l).seqNext = s.seqNext := rfl
@[simp] theorem fillLine_freeN (l : Line) : (fillLine s l).freeN = s.freeN := rfl
@[simp] theorem fillLine_cur (l : Line) : (fillLine s l).cur = s.cur := rfl
@[simp] theorem fillLine_turns (l : Line) : (fillLine s l).turns = s.turns := rfl

/-! ### wrScratch -/

@[simp] theorem wrScratch_boot (k p : Nat) (b : Byte) : (wrScratch s k p b).boot = s.boot := rfl
@[simp] theorem wrScratch_masts (k p : Nat) (b : Byte) : (wrScratch s k p b).masts = s.masts := rfl
@[simp] theorem wrScratch_time (k p : Nat) (b : Byte) : (wrScratch s k p b).time = s.time := rfl
@[simp] theorem wrScratch_timebase (k p : Nat) (b : Byte) : (wrScratch s k p b).timebase = s.timebase := rfl
@[simp] theorem wrScratch_boundary (k p : Nat) (b : Byte) : (wrScratch s k p b).boundary = s.boundary := rfl
@[simp] theorem wrScratch_mem (k p : Nat) (b : Byte) : (wrScratch s k p b).mem = s.mem := rfl
@[simp] theorem wrScratch_vers (k p : Nat) (b : Byte) : (wrScratch s k p b).vers = s.vers := rfl
@[simp] theorem wrScratch_pois (k p : Nat) (b : Byte) : (wrScratch s k p b).pois = s.pois := rfl
@[simp] theorem wrScratch_cached (k p : Nat) (b : Byte) : (wrScratch s k p b).cached = s.cached := rfl
@[simp] theorem wrScratch_stale (k p : Nat) (b : Byte) : (wrScratch s k p b).stale = s.stale := rfl
@[simp] theorem wrScratch_owned (k p : Nat) (b : Byte) : (wrScratch s k p b).owned = s.owned := rfl
@[simp] theorem wrScratch_ops (k p : Nat) (b : Byte) : (wrScratch s k p b).ops = s.ops := rfl
@[simp] theorem wrScratch_nextId (k p : Nat) (b : Byte) : (wrScratch s k p b).nextId = s.nextId := rfl
@[simp] theorem wrScratch_vis (k p : Nat) (b : Byte) : (wrScratch s k p b).vis = s.vis := rfl
@[simp] theorem wrScratch_ctxs (k p : Nat) (b : Byte) : (wrScratch s k p b).ctxs = s.ctxs := rfl
@[simp] theorem wrScratch_kernels (k p : Nat) (b : Byte) : (wrScratch s k p b).kernels = s.kernels := rfl
@[simp] theorem wrScratch_launches (k p : Nat) (b : Byte) : (wrScratch s k p b).launches = s.launches := rfl
@[simp] theorem wrScratch_groups (k p : Nat) (b : Byte) : (wrScratch s k p b).groups = s.groups := rfl
@[simp] theorem wrScratch_cores (k p : Nat) (b : Byte) : (wrScratch s k p b).cores = s.cores := rfl
@[simp] theorem wrScratch_dies (k p : Nat) (b : Byte) : (wrScratch s k p b).dies = s.dies := rfl
@[simp] theorem wrScratch_clusters (k p : Nat) (b : Byte) : (wrScratch s k p b).clusters = s.clusters := rfl
@[simp] theorem wrScratch_heaps (k p : Nat) (b : Byte) : (wrScratch s k p b).heaps = s.heaps := rfl
@[simp] theorem wrScratch_shrouds (k p : Nat) (b : Byte) : (wrScratch s k p b).shrouds = s.shrouds := rfl
@[simp] theorem wrScratch_ports (k p : Nat) (b : Byte) : (wrScratch s k p b).ports = s.ports := rfl
@[simp] theorem wrScratch_seqWords (k p : Nat) (b : Byte) : (wrScratch s k p b).seqWords = s.seqWords := rfl
@[simp] theorem wrScratch_tlb (k p : Nat) (b : Byte) : (wrScratch s k p b).tlb = s.tlb := rfl
@[simp] theorem wrScratch_walks (k p : Nat) (b : Byte) : (wrScratch s k p b).walks = s.walks := rfl
@[simp] theorem wrScratch_faults (k p : Nat) (b : Byte) : (wrScratch s k p b).faults = s.faults := rfl
@[simp] theorem wrScratch_notices (k p : Nat) (b : Byte) : (wrScratch s k p b).notices = s.notices := rfl
@[simp] theorem wrScratch_refused (k p : Nat) (b : Byte) : (wrScratch s k p b).refused = s.refused := rfl
@[simp] theorem wrScratch_evq (k p : Nat) (b : Byte) : (wrScratch s k p b).evq = s.evq := rfl
@[simp] theorem wrScratch_events (k p : Nat) (b : Byte) : (wrScratch s k p b).events = s.events := rfl
@[simp] theorem wrScratch_responses (k p : Nat) (b : Byte) : (wrScratch s k p b).responses = s.responses := rfl
@[simp] theorem wrScratch_outN (k p : Nat) (b : Byte) : (wrScratch s k p b).outN = s.outN := rfl
@[simp] theorem wrScratch_evSeq (k p : Nat) (b : Byte) : (wrScratch s k p b).evSeq = s.evSeq := rfl
@[simp] theorem wrScratch_answers (k p : Nat) (b : Byte) : (wrScratch s k p b).answers = s.answers := rfl
@[simp] theorem wrScratch_opSubs (k p : Nat) (b : Byte) : (wrScratch s k p b).opSubs = s.opSubs := rfl
@[simp] theorem wrScratch_passed (k p : Nat) (b : Byte) : (wrScratch s k p b).passed = s.passed := rfl
@[simp] theorem wrScratch_draining (k p : Nat) (b : Byte) : (wrScratch s k p b).draining = s.draining := rfl
@[simp] theorem wrScratch_turnVi (k p : Nat) (b : Byte) : (wrScratch s k p b).turnVi = s.turnVi := rfl
@[simp] theorem wrScratch_pace (k p : Nat) (b : Byte) : (wrScratch s k p b).pace = s.pace := rfl
@[simp] theorem wrScratch_paceSent (k p : Nat) (b : Byte) : (wrScratch s k p b).paceSent = s.paceSent := rfl
@[simp] theorem wrScratch_secure (k p : Nat) (b : Byte) : (wrScratch s k p b).secure = s.secure := rfl
@[simp] theorem wrScratch_report (k p : Nat) (b : Byte) : (wrScratch s k p b).report = s.report := rfl
@[simp] theorem wrScratch_status (k p : Nat) (b : Byte) : (wrScratch s k p b).status = s.status := rfl
@[simp] theorem wrScratch_nextFrame (k p : Nat) (b : Byte) : (wrScratch s k p b).nextFrame = s.nextFrame := rfl
@[simp] theorem wrScratch_temps (k p : Nat) (b : Byte) : (wrScratch s k p b).temps = s.temps := rfl
@[simp] theorem wrScratch_retired (k p : Nat) (b : Byte) : (wrScratch s k p b).retired = s.retired := rfl
@[simp] theorem wrScratch_eccC (k p : Nat) (b : Byte) : (wrScratch s k p b).eccC = s.eccC := rfl
@[simp] theorem wrScratch_eccU (k p : Nat) (b : Byte) : (wrScratch s k p b).eccU = s.eccU := rfl
@[simp] theorem wrScratch_eccUnits (k p : Nat) (b : Byte) : (wrScratch s k p b).eccUnits = s.eccUnits := rfl
@[simp] theorem wrScratch_seqNext (k p : Nat) (b : Byte) : (wrScratch s k p b).seqNext = s.seqNext := rfl
@[simp] theorem wrScratch_freeN (k p : Nat) (b : Byte) : (wrScratch s k p b).freeN = s.freeN := rfl
@[simp] theorem wrScratch_cur (k p : Nat) (b : Byte) : (wrScratch s k p b).cur = s.cur := rfl
@[simp] theorem wrScratch_turns (k p : Nat) (b : Byte) : (wrScratch s k p b).turns = s.turns := rfl

/-! ### poisonScratch -/

@[simp] theorem poisonScratch_boot (k : Nat) (ws : List Nat) (on : Bool) : (poisonScratch s k ws on).boot = s.boot := rfl
@[simp] theorem poisonScratch_masts (k : Nat) (ws : List Nat) (on : Bool) : (poisonScratch s k ws on).masts = s.masts := rfl
@[simp] theorem poisonScratch_time (k : Nat) (ws : List Nat) (on : Bool) : (poisonScratch s k ws on).time = s.time := rfl
@[simp] theorem poisonScratch_timebase (k : Nat) (ws : List Nat) (on : Bool) : (poisonScratch s k ws on).timebase = s.timebase := rfl
@[simp] theorem poisonScratch_boundary (k : Nat) (ws : List Nat) (on : Bool) : (poisonScratch s k ws on).boundary = s.boundary := rfl
@[simp] theorem poisonScratch_mem (k : Nat) (ws : List Nat) (on : Bool) : (poisonScratch s k ws on).mem = s.mem := rfl
@[simp] theorem poisonScratch_vers (k : Nat) (ws : List Nat) (on : Bool) : (poisonScratch s k ws on).vers = s.vers := rfl
@[simp] theorem poisonScratch_pois (k : Nat) (ws : List Nat) (on : Bool) : (poisonScratch s k ws on).pois = s.pois := rfl
@[simp] theorem poisonScratch_cached (k : Nat) (ws : List Nat) (on : Bool) : (poisonScratch s k ws on).cached = s.cached := rfl
@[simp] theorem poisonScratch_stale (k : Nat) (ws : List Nat) (on : Bool) : (poisonScratch s k ws on).stale = s.stale := rfl
@[simp] theorem poisonScratch_owned (k : Nat) (ws : List Nat) (on : Bool) : (poisonScratch s k ws on).owned = s.owned := rfl
@[simp] theorem poisonScratch_ops (k : Nat) (ws : List Nat) (on : Bool) : (poisonScratch s k ws on).ops = s.ops := rfl
@[simp] theorem poisonScratch_nextId (k : Nat) (ws : List Nat) (on : Bool) : (poisonScratch s k ws on).nextId = s.nextId := rfl
@[simp] theorem poisonScratch_vis (k : Nat) (ws : List Nat) (on : Bool) : (poisonScratch s k ws on).vis = s.vis := rfl
@[simp] theorem poisonScratch_ctxs (k : Nat) (ws : List Nat) (on : Bool) : (poisonScratch s k ws on).ctxs = s.ctxs := rfl
@[simp] theorem poisonScratch_kernels (k : Nat) (ws : List Nat) (on : Bool) : (poisonScratch s k ws on).kernels = s.kernels := rfl
@[simp] theorem poisonScratch_launches (k : Nat) (ws : List Nat) (on : Bool) : (poisonScratch s k ws on).launches = s.launches := rfl
@[simp] theorem poisonScratch_groups (k : Nat) (ws : List Nat) (on : Bool) : (poisonScratch s k ws on).groups = s.groups := rfl
@[simp] theorem poisonScratch_cores (k : Nat) (ws : List Nat) (on : Bool) : (poisonScratch s k ws on).cores = s.cores := rfl
@[simp] theorem poisonScratch_dies (k : Nat) (ws : List Nat) (on : Bool) : (poisonScratch s k ws on).dies = s.dies := rfl
@[simp] theorem poisonScratch_clusters (k : Nat) (ws : List Nat) (on : Bool) : (poisonScratch s k ws on).clusters = s.clusters := rfl
@[simp] theorem poisonScratch_heaps (k : Nat) (ws : List Nat) (on : Bool) : (poisonScratch s k ws on).heaps = s.heaps := rfl
@[simp] theorem poisonScratch_shrouds (k : Nat) (ws : List Nat) (on : Bool) : (poisonScratch s k ws on).shrouds = s.shrouds := rfl
@[simp] theorem poisonScratch_ports (k : Nat) (ws : List Nat) (on : Bool) : (poisonScratch s k ws on).ports = s.ports := rfl
@[simp] theorem poisonScratch_seqWords (k : Nat) (ws : List Nat) (on : Bool) : (poisonScratch s k ws on).seqWords = s.seqWords := rfl
@[simp] theorem poisonScratch_tlb (k : Nat) (ws : List Nat) (on : Bool) : (poisonScratch s k ws on).tlb = s.tlb := rfl
@[simp] theorem poisonScratch_walks (k : Nat) (ws : List Nat) (on : Bool) : (poisonScratch s k ws on).walks = s.walks := rfl
@[simp] theorem poisonScratch_faults (k : Nat) (ws : List Nat) (on : Bool) : (poisonScratch s k ws on).faults = s.faults := rfl
@[simp] theorem poisonScratch_notices (k : Nat) (ws : List Nat) (on : Bool) : (poisonScratch s k ws on).notices = s.notices := rfl
@[simp] theorem poisonScratch_refused (k : Nat) (ws : List Nat) (on : Bool) : (poisonScratch s k ws on).refused = s.refused := rfl
@[simp] theorem poisonScratch_evq (k : Nat) (ws : List Nat) (on : Bool) : (poisonScratch s k ws on).evq = s.evq := rfl
@[simp] theorem poisonScratch_events (k : Nat) (ws : List Nat) (on : Bool) : (poisonScratch s k ws on).events = s.events := rfl
@[simp] theorem poisonScratch_responses (k : Nat) (ws : List Nat) (on : Bool) : (poisonScratch s k ws on).responses = s.responses := rfl
@[simp] theorem poisonScratch_outN (k : Nat) (ws : List Nat) (on : Bool) : (poisonScratch s k ws on).outN = s.outN := rfl
@[simp] theorem poisonScratch_evSeq (k : Nat) (ws : List Nat) (on : Bool) : (poisonScratch s k ws on).evSeq = s.evSeq := rfl
@[simp] theorem poisonScratch_answers (k : Nat) (ws : List Nat) (on : Bool) : (poisonScratch s k ws on).answers = s.answers := rfl
@[simp] theorem poisonScratch_opSubs (k : Nat) (ws : List Nat) (on : Bool) : (poisonScratch s k ws on).opSubs = s.opSubs := rfl
@[simp] theorem poisonScratch_passed (k : Nat) (ws : List Nat) (on : Bool) : (poisonScratch s k ws on).passed = s.passed := rfl
@[simp] theorem poisonScratch_draining (k : Nat) (ws : List Nat) (on : Bool) : (poisonScratch s k ws on).draining = s.draining := rfl
@[simp] theorem poisonScratch_turnVi (k : Nat) (ws : List Nat) (on : Bool) : (poisonScratch s k ws on).turnVi = s.turnVi := rfl
@[simp] theorem poisonScratch_pace (k : Nat) (ws : List Nat) (on : Bool) : (poisonScratch s k ws on).pace = s.pace := rfl
@[simp] theorem poisonScratch_paceSent (k : Nat) (ws : List Nat) (on : Bool) : (poisonScratch s k ws on).paceSent = s.paceSent := rfl
@[simp] theorem poisonScratch_secure (k : Nat) (ws : List Nat) (on : Bool) : (poisonScratch s k ws on).secure = s.secure := rfl
@[simp] theorem poisonScratch_report (k : Nat) (ws : List Nat) (on : Bool) : (poisonScratch s k ws on).report = s.report := rfl
@[simp] theorem poisonScratch_status (k : Nat) (ws : List Nat) (on : Bool) : (poisonScratch s k ws on).status = s.status := rfl
@[simp] theorem poisonScratch_nextFrame (k : Nat) (ws : List Nat) (on : Bool) : (poisonScratch s k ws on).nextFrame = s.nextFrame := rfl
@[simp] theorem poisonScratch_temps (k : Nat) (ws : List Nat) (on : Bool) : (poisonScratch s k ws on).temps = s.temps := rfl
@[simp] theorem poisonScratch_retired (k : Nat) (ws : List Nat) (on : Bool) : (poisonScratch s k ws on).retired = s.retired := rfl
@[simp] theorem poisonScratch_eccC (k : Nat) (ws : List Nat) (on : Bool) : (poisonScratch s k ws on).eccC = s.eccC := rfl
@[simp] theorem poisonScratch_eccU (k : Nat) (ws : List Nat) (on : Bool) : (poisonScratch s k ws on).eccU = s.eccU := rfl
@[simp] theorem poisonScratch_eccUnits (k : Nat) (ws : List Nat) (on : Bool) : (poisonScratch s k ws on).eccUnits = s.eccUnits := rfl
@[simp] theorem poisonScratch_seqNext (k : Nat) (ws : List Nat) (on : Bool) : (poisonScratch s k ws on).seqNext = s.seqNext := rfl
@[simp] theorem poisonScratch_freeN (k : Nat) (ws : List Nat) (on : Bool) : (poisonScratch s k ws on).freeN = s.freeN := rfl
@[simp] theorem poisonScratch_cur (k : Nat) (ws : List Nat) (on : Bool) : (poisonScratch s k ws on).cur = s.cur := rfl
@[simp] theorem poisonScratch_turns (k : Nat) (ws : List Nat) (on : Bool) : (poisonScratch s k ws on).turns = s.turns := rfl

/-! ### addOp -/

@[simp] theorem addOp_boot (o : Op) : (addOp s o).boot = s.boot := rfl
@[simp] theorem addOp_masts (o : Op) : (addOp s o).masts = s.masts := rfl
@[simp] theorem addOp_time (o : Op) : (addOp s o).time = s.time := rfl
@[simp] theorem addOp_timebase (o : Op) : (addOp s o).timebase = s.timebase := rfl
@[simp] theorem addOp_boundary (o : Op) : (addOp s o).boundary = s.boundary := rfl
@[simp] theorem addOp_mem (o : Op) : (addOp s o).mem = s.mem := rfl
@[simp] theorem addOp_vers (o : Op) : (addOp s o).vers = s.vers := rfl
@[simp] theorem addOp_pois (o : Op) : (addOp s o).pois = s.pois := rfl
@[simp] theorem addOp_cached (o : Op) : (addOp s o).cached = s.cached := rfl
@[simp] theorem addOp_stale (o : Op) : (addOp s o).stale = s.stale := rfl
@[simp] theorem addOp_owned (o : Op) : (addOp s o).owned = s.owned := rfl
@[simp] theorem addOp_vis (o : Op) : (addOp s o).vis = s.vis := rfl
@[simp] theorem addOp_ctxs (o : Op) : (addOp s o).ctxs = s.ctxs := rfl
@[simp] theorem addOp_kernels (o : Op) : (addOp s o).kernels = s.kernels := rfl
@[simp] theorem addOp_launches (o : Op) : (addOp s o).launches = s.launches := rfl
@[simp] theorem addOp_teams (o : Op) : (addOp s o).teams = s.teams := rfl
@[simp] theorem addOp_groups (o : Op) : (addOp s o).groups = s.groups := rfl
@[simp] theorem addOp_cores (o : Op) : (addOp s o).cores = s.cores := rfl
@[simp] theorem addOp_dies (o : Op) : (addOp s o).dies = s.dies := rfl
@[simp] theorem addOp_clusters (o : Op) : (addOp s o).clusters = s.clusters := rfl
@[simp] theorem addOp_heaps (o : Op) : (addOp s o).heaps = s.heaps := rfl
@[simp] theorem addOp_shrouds (o : Op) : (addOp s o).shrouds = s.shrouds := rfl
@[simp] theorem addOp_ports (o : Op) : (addOp s o).ports = s.ports := rfl
@[simp] theorem addOp_seqWords (o : Op) : (addOp s o).seqWords = s.seqWords := rfl
@[simp] theorem addOp_tlb (o : Op) : (addOp s o).tlb = s.tlb := rfl
@[simp] theorem addOp_walks (o : Op) : (addOp s o).walks = s.walks := rfl
@[simp] theorem addOp_faults (o : Op) : (addOp s o).faults = s.faults := rfl
@[simp] theorem addOp_notices (o : Op) : (addOp s o).notices = s.notices := rfl
@[simp] theorem addOp_refused (o : Op) : (addOp s o).refused = s.refused := rfl
@[simp] theorem addOp_evq (o : Op) : (addOp s o).evq = s.evq := rfl
@[simp] theorem addOp_events (o : Op) : (addOp s o).events = s.events := rfl
@[simp] theorem addOp_responses (o : Op) : (addOp s o).responses = s.responses := rfl
@[simp] theorem addOp_outN (o : Op) : (addOp s o).outN = s.outN := rfl
@[simp] theorem addOp_evSeq (o : Op) : (addOp s o).evSeq = s.evSeq := rfl
@[simp] theorem addOp_answers (o : Op) : (addOp s o).answers = s.answers := rfl
@[simp] theorem addOp_opSubs (o : Op) : (addOp s o).opSubs = s.opSubs := rfl
@[simp] theorem addOp_passed (o : Op) : (addOp s o).passed = s.passed := rfl
@[simp] theorem addOp_draining (o : Op) : (addOp s o).draining = s.draining := rfl
@[simp] theorem addOp_turnVi (o : Op) : (addOp s o).turnVi = s.turnVi := rfl
@[simp] theorem addOp_pace (o : Op) : (addOp s o).pace = s.pace := rfl
@[simp] theorem addOp_paceSent (o : Op) : (addOp s o).paceSent = s.paceSent := rfl
@[simp] theorem addOp_secure (o : Op) : (addOp s o).secure = s.secure := rfl
@[simp] theorem addOp_report (o : Op) : (addOp s o).report = s.report := rfl
@[simp] theorem addOp_status (o : Op) : (addOp s o).status = s.status := rfl
@[simp] theorem addOp_nextFrame (o : Op) : (addOp s o).nextFrame = s.nextFrame := rfl
@[simp] theorem addOp_temps (o : Op) : (addOp s o).temps = s.temps := rfl
@[simp] theorem addOp_retired (o : Op) : (addOp s o).retired = s.retired := rfl
@[simp] theorem addOp_eccC (o : Op) : (addOp s o).eccC = s.eccC := rfl
@[simp] theorem addOp_eccU (o : Op) : (addOp s o).eccU = s.eccU := rfl
@[simp] theorem addOp_eccUnits (o : Op) : (addOp s o).eccUnits = s.eccUnits := rfl
@[simp] theorem addOp_seqNext (o : Op) : (addOp s o).seqNext = s.seqNext := rfl
@[simp] theorem addOp_freeN (o : Op) : (addOp s o).freeN = s.freeN := rfl
@[simp] theorem addOp_cur (o : Op) : (addOp s o).cur = s.cur := rfl
@[simp] theorem addOp_turns (o : Op) : (addOp s o).turns = s.turns := rfl

/-! ### putOp -/

@[simp] theorem putOp_boot (o : Op) : (putOp s o).boot = s.boot := rfl
@[simp] theorem putOp_masts (o : Op) : (putOp s o).masts = s.masts := rfl
@[simp] theorem putOp_time (o : Op) : (putOp s o).time = s.time := rfl
@[simp] theorem putOp_timebase (o : Op) : (putOp s o).timebase = s.timebase := rfl
@[simp] theorem putOp_boundary (o : Op) : (putOp s o).boundary = s.boundary := rfl
@[simp] theorem putOp_mem (o : Op) : (putOp s o).mem = s.mem := rfl
@[simp] theorem putOp_vers (o : Op) : (putOp s o).vers = s.vers := rfl
@[simp] theorem putOp_pois (o : Op) : (putOp s o).pois = s.pois := rfl
@[simp] theorem putOp_cached (o : Op) : (putOp s o).cached = s.cached := rfl
@[simp] theorem putOp_stale (o : Op) : (putOp s o).stale = s.stale := rfl
@[simp] theorem putOp_owned (o : Op) : (putOp s o).owned = s.owned := rfl
@[simp] theorem putOp_nextId (o : Op) : (putOp s o).nextId = s.nextId := rfl
@[simp] theorem putOp_vis (o : Op) : (putOp s o).vis = s.vis := rfl
@[simp] theorem putOp_ctxs (o : Op) : (putOp s o).ctxs = s.ctxs := rfl
@[simp] theorem putOp_kernels (o : Op) : (putOp s o).kernels = s.kernels := rfl
@[simp] theorem putOp_launches (o : Op) : (putOp s o).launches = s.launches := rfl
@[simp] theorem putOp_teams (o : Op) : (putOp s o).teams = s.teams := rfl
@[simp] theorem putOp_groups (o : Op) : (putOp s o).groups = s.groups := rfl
@[simp] theorem putOp_cores (o : Op) : (putOp s o).cores = s.cores := rfl
@[simp] theorem putOp_dies (o : Op) : (putOp s o).dies = s.dies := rfl
@[simp] theorem putOp_clusters (o : Op) : (putOp s o).clusters = s.clusters := rfl
@[simp] theorem putOp_heaps (o : Op) : (putOp s o).heaps = s.heaps := rfl
@[simp] theorem putOp_shrouds (o : Op) : (putOp s o).shrouds = s.shrouds := rfl
@[simp] theorem putOp_ports (o : Op) : (putOp s o).ports = s.ports := rfl
@[simp] theorem putOp_seqWords (o : Op) : (putOp s o).seqWords = s.seqWords := rfl
@[simp] theorem putOp_tlb (o : Op) : (putOp s o).tlb = s.tlb := rfl
@[simp] theorem putOp_walks (o : Op) : (putOp s o).walks = s.walks := rfl
@[simp] theorem putOp_faults (o : Op) : (putOp s o).faults = s.faults := rfl
@[simp] theorem putOp_notices (o : Op) : (putOp s o).notices = s.notices := rfl
@[simp] theorem putOp_refused (o : Op) : (putOp s o).refused = s.refused := rfl
@[simp] theorem putOp_evq (o : Op) : (putOp s o).evq = s.evq := rfl
@[simp] theorem putOp_events (o : Op) : (putOp s o).events = s.events := rfl
@[simp] theorem putOp_responses (o : Op) : (putOp s o).responses = s.responses := rfl
@[simp] theorem putOp_outN (o : Op) : (putOp s o).outN = s.outN := rfl
@[simp] theorem putOp_evSeq (o : Op) : (putOp s o).evSeq = s.evSeq := rfl
@[simp] theorem putOp_answers (o : Op) : (putOp s o).answers = s.answers := rfl
@[simp] theorem putOp_opSubs (o : Op) : (putOp s o).opSubs = s.opSubs := rfl
@[simp] theorem putOp_passed (o : Op) : (putOp s o).passed = s.passed := rfl
@[simp] theorem putOp_draining (o : Op) : (putOp s o).draining = s.draining := rfl
@[simp] theorem putOp_turnVi (o : Op) : (putOp s o).turnVi = s.turnVi := rfl
@[simp] theorem putOp_pace (o : Op) : (putOp s o).pace = s.pace := rfl
@[simp] theorem putOp_paceSent (o : Op) : (putOp s o).paceSent = s.paceSent := rfl
@[simp] theorem putOp_secure (o : Op) : (putOp s o).secure = s.secure := rfl
@[simp] theorem putOp_report (o : Op) : (putOp s o).report = s.report := rfl
@[simp] theorem putOp_status (o : Op) : (putOp s o).status = s.status := rfl
@[simp] theorem putOp_nextFrame (o : Op) : (putOp s o).nextFrame = s.nextFrame := rfl
@[simp] theorem putOp_temps (o : Op) : (putOp s o).temps = s.temps := rfl
@[simp] theorem putOp_retired (o : Op) : (putOp s o).retired = s.retired := rfl
@[simp] theorem putOp_eccC (o : Op) : (putOp s o).eccC = s.eccC := rfl
@[simp] theorem putOp_eccU (o : Op) : (putOp s o).eccU = s.eccU := rfl
@[simp] theorem putOp_eccUnits (o : Op) : (putOp s o).eccUnits = s.eccUnits := rfl
@[simp] theorem putOp_seqNext (o : Op) : (putOp s o).seqNext = s.seqNext := rfl
@[simp] theorem putOp_freeN (o : Op) : (putOp s o).freeN = s.freeN := rfl
@[simp] theorem putOp_cur (o : Op) : (putOp s o).cur = s.cur := rfl
@[simp] theorem putOp_turns (o : Op) : (putOp s o).turns = s.turns := rfl

/-! ### dropOp -/

@[simp] theorem dropOp_boot (k : Nat) : (dropOp s k).boot = s.boot := rfl
@[simp] theorem dropOp_masts (k : Nat) : (dropOp s k).masts = s.masts := rfl
@[simp] theorem dropOp_time (k : Nat) : (dropOp s k).time = s.time := rfl
@[simp] theorem dropOp_timebase (k : Nat) : (dropOp s k).timebase = s.timebase := rfl
@[simp] theorem dropOp_boundary (k : Nat) : (dropOp s k).boundary = s.boundary := rfl
@[simp] theorem dropOp_mem (k : Nat) : (dropOp s k).mem = s.mem := rfl
@[simp] theorem dropOp_vers (k : Nat) : (dropOp s k).vers = s.vers := rfl
@[simp] theorem dropOp_pois (k : Nat) : (dropOp s k).pois = s.pois := rfl
@[simp] theorem dropOp_cached (k : Nat) : (dropOp s k).cached = s.cached := rfl
@[simp] theorem dropOp_stale (k : Nat) : (dropOp s k).stale = s.stale := rfl
@[simp] theorem dropOp_owned (k : Nat) : (dropOp s k).owned = s.owned := rfl
@[simp] theorem dropOp_nextId (k : Nat) : (dropOp s k).nextId = s.nextId := rfl
@[simp] theorem dropOp_vis (k : Nat) : (dropOp s k).vis = s.vis := rfl
@[simp] theorem dropOp_ctxs (k : Nat) : (dropOp s k).ctxs = s.ctxs := rfl
@[simp] theorem dropOp_kernels (k : Nat) : (dropOp s k).kernels = s.kernels := rfl
@[simp] theorem dropOp_launches (k : Nat) : (dropOp s k).launches = s.launches := rfl
@[simp] theorem dropOp_teams (k : Nat) : (dropOp s k).teams = s.teams := rfl
@[simp] theorem dropOp_groups (k : Nat) : (dropOp s k).groups = s.groups := rfl
@[simp] theorem dropOp_cores (k : Nat) : (dropOp s k).cores = s.cores := rfl
@[simp] theorem dropOp_dies (k : Nat) : (dropOp s k).dies = s.dies := rfl
@[simp] theorem dropOp_clusters (k : Nat) : (dropOp s k).clusters = s.clusters := rfl
@[simp] theorem dropOp_heaps (k : Nat) : (dropOp s k).heaps = s.heaps := rfl
@[simp] theorem dropOp_shrouds (k : Nat) : (dropOp s k).shrouds = s.shrouds := rfl
@[simp] theorem dropOp_ports (k : Nat) : (dropOp s k).ports = s.ports := rfl
@[simp] theorem dropOp_seqWords (k : Nat) : (dropOp s k).seqWords = s.seqWords := rfl
@[simp] theorem dropOp_tlb (k : Nat) : (dropOp s k).tlb = s.tlb := rfl
@[simp] theorem dropOp_walks (k : Nat) : (dropOp s k).walks = s.walks := rfl
@[simp] theorem dropOp_faults (k : Nat) : (dropOp s k).faults = s.faults := rfl
@[simp] theorem dropOp_notices (k : Nat) : (dropOp s k).notices = s.notices := rfl
@[simp] theorem dropOp_refused (k : Nat) : (dropOp s k).refused = s.refused := rfl
@[simp] theorem dropOp_evq (k : Nat) : (dropOp s k).evq = s.evq := rfl
@[simp] theorem dropOp_events (k : Nat) : (dropOp s k).events = s.events := rfl
@[simp] theorem dropOp_responses (k : Nat) : (dropOp s k).responses = s.responses := rfl
@[simp] theorem dropOp_outN (k : Nat) : (dropOp s k).outN = s.outN := rfl
@[simp] theorem dropOp_evSeq (k : Nat) : (dropOp s k).evSeq = s.evSeq := rfl
@[simp] theorem dropOp_answers (k : Nat) : (dropOp s k).answers = s.answers := rfl
@[simp] theorem dropOp_opSubs (k : Nat) : (dropOp s k).opSubs = s.opSubs := rfl
@[simp] theorem dropOp_passed (k : Nat) : (dropOp s k).passed = s.passed := rfl
@[simp] theorem dropOp_draining (k : Nat) : (dropOp s k).draining = s.draining := rfl
@[simp] theorem dropOp_turnVi (k : Nat) : (dropOp s k).turnVi = s.turnVi := rfl
@[simp] theorem dropOp_pace (k : Nat) : (dropOp s k).pace = s.pace := rfl
@[simp] theorem dropOp_paceSent (k : Nat) : (dropOp s k).paceSent = s.paceSent := rfl
@[simp] theorem dropOp_secure (k : Nat) : (dropOp s k).secure = s.secure := rfl
@[simp] theorem dropOp_report (k : Nat) : (dropOp s k).report = s.report := rfl
@[simp] theorem dropOp_status (k : Nat) : (dropOp s k).status = s.status := rfl
@[simp] theorem dropOp_nextFrame (k : Nat) : (dropOp s k).nextFrame = s.nextFrame := rfl
@[simp] theorem dropOp_temps (k : Nat) : (dropOp s k).temps = s.temps := rfl
@[simp] theorem dropOp_retired (k : Nat) : (dropOp s k).retired = s.retired := rfl
@[simp] theorem dropOp_eccC (k : Nat) : (dropOp s k).eccC = s.eccC := rfl
@[simp] theorem dropOp_eccU (k : Nat) : (dropOp s k).eccU = s.eccU := rfl
@[simp] theorem dropOp_eccUnits (k : Nat) : (dropOp s k).eccUnits = s.eccUnits := rfl
@[simp] theorem dropOp_seqNext (k : Nat) : (dropOp s k).seqNext = s.seqNext := rfl
@[simp] theorem dropOp_freeN (k : Nat) : (dropOp s k).freeN = s.freeN := rfl
@[simp] theorem dropOp_cur (k : Nat) : (dropOp s k).cur = s.cur := rfl
@[simp] theorem dropOp_turns (k : Nat) : (dropOp s k).turns = s.turns := rfl

/-! ### post -/

@[simp] theorem post_boot (e : Event) : (post s e).boot = s.boot := rfl
@[simp] theorem post_masts (e : Event) : (post s e).masts = s.masts := rfl
@[simp] theorem post_time (e : Event) : (post s e).time = s.time := rfl
@[simp] theorem post_timebase (e : Event) : (post s e).timebase = s.timebase := rfl
@[simp] theorem post_boundary (e : Event) : (post s e).boundary = s.boundary := rfl
@[simp] theorem post_mem (e : Event) : (post s e).mem = s.mem := rfl
@[simp] theorem post_vers (e : Event) : (post s e).vers = s.vers := rfl
@[simp] theorem post_pois (e : Event) : (post s e).pois = s.pois := rfl
@[simp] theorem post_cached (e : Event) : (post s e).cached = s.cached := rfl
@[simp] theorem post_stale (e : Event) : (post s e).stale = s.stale := rfl
@[simp] theorem post_owned (e : Event) : (post s e).owned = s.owned := rfl
@[simp] theorem post_ops (e : Event) : (post s e).ops = s.ops := rfl
@[simp] theorem post_nextId (e : Event) : (post s e).nextId = s.nextId := rfl
@[simp] theorem post_vis (e : Event) : (post s e).vis = s.vis := rfl
@[simp] theorem post_ctxs (e : Event) : (post s e).ctxs = s.ctxs := rfl
@[simp] theorem post_kernels (e : Event) : (post s e).kernels = s.kernels := rfl
@[simp] theorem post_launches (e : Event) : (post s e).launches = s.launches := rfl
@[simp] theorem post_teams (e : Event) : (post s e).teams = s.teams := rfl
@[simp] theorem post_groups (e : Event) : (post s e).groups = s.groups := rfl
@[simp] theorem post_cores (e : Event) : (post s e).cores = s.cores := rfl
@[simp] theorem post_dies (e : Event) : (post s e).dies = s.dies := rfl
@[simp] theorem post_clusters (e : Event) : (post s e).clusters = s.clusters := rfl
@[simp] theorem post_heaps (e : Event) : (post s e).heaps = s.heaps := rfl
@[simp] theorem post_shrouds (e : Event) : (post s e).shrouds = s.shrouds := rfl
@[simp] theorem post_ports (e : Event) : (post s e).ports = s.ports := rfl
@[simp] theorem post_seqWords (e : Event) : (post s e).seqWords = s.seqWords := rfl
@[simp] theorem post_tlb (e : Event) : (post s e).tlb = s.tlb := rfl
@[simp] theorem post_walks (e : Event) : (post s e).walks = s.walks := rfl
@[simp] theorem post_faults (e : Event) : (post s e).faults = s.faults := rfl
@[simp] theorem post_notices (e : Event) : (post s e).notices = s.notices := rfl
@[simp] theorem post_refused (e : Event) : (post s e).refused = s.refused := rfl
@[simp] theorem post_evq (e : Event) : (post s e).evq = s.evq := rfl
@[simp] theorem post_responses (e : Event) : (post s e).responses = s.responses := rfl
@[simp] theorem post_answers (e : Event) : (post s e).answers = s.answers := rfl
@[simp] theorem post_opSubs (e : Event) : (post s e).opSubs = s.opSubs := rfl
@[simp] theorem post_passed (e : Event) : (post s e).passed = s.passed := rfl
@[simp] theorem post_draining (e : Event) : (post s e).draining = s.draining := rfl
@[simp] theorem post_turnVi (e : Event) : (post s e).turnVi = s.turnVi := rfl
@[simp] theorem post_pace (e : Event) : (post s e).pace = s.pace := rfl
@[simp] theorem post_paceSent (e : Event) : (post s e).paceSent = s.paceSent := rfl
@[simp] theorem post_secure (e : Event) : (post s e).secure = s.secure := rfl
@[simp] theorem post_report (e : Event) : (post s e).report = s.report := rfl
@[simp] theorem post_status (e : Event) : (post s e).status = s.status := rfl
@[simp] theorem post_nextFrame (e : Event) : (post s e).nextFrame = s.nextFrame := rfl
@[simp] theorem post_temps (e : Event) : (post s e).temps = s.temps := rfl
@[simp] theorem post_retired (e : Event) : (post s e).retired = s.retired := rfl
@[simp] theorem post_eccC (e : Event) : (post s e).eccC = s.eccC := rfl
@[simp] theorem post_eccU (e : Event) : (post s e).eccU = s.eccU := rfl
@[simp] theorem post_eccUnits (e : Event) : (post s e).eccUnits = s.eccUnits := rfl
@[simp] theorem post_seqNext (e : Event) : (post s e).seqNext = s.seqNext := rfl
@[simp] theorem post_freeN (e : Event) : (post s e).freeN = s.freeN := rfl
@[simp] theorem post_cur (e : Event) : (post s e).cur = s.cur := rfl
@[simp] theorem post_turns (e : Event) : (post s e).turns = s.turns := rfl

end Sys2Proof.Machine
end

