-- ==== Sys2Proof/Laws/Frame.lean ====
section
/-! SUPPORT. The frame of the shared shapes of core instructions: what the checks, traps, stalls and commits of a run leave
as they were (`Framed`), and the frame of the lane shape. -/

namespace Sys2Proof.Machine

/-! ### Threads of a group -/

theorem thread_setThread (g : Group) (i j : Nat) (t : Thread) :
    thread (setThread g i t) j = thread g j ∨ (i = j ∧ thread (setThread g i t) j = t) := by
  unfold thread setThread
  simp only [List.getD_eq_getElem?_getD, List.getElem?_set]
  by_cases h : i = j
  · subst h
    by_cases hl : i < g.threads.length
    · right; simp [hl]
    · left; simp [hl]
  · left; simp [h]

theorem getGroup_modGroup (s : State) (gid j : Nat) (f : Group → Group) :
    getGroup (modGroup s gid f) j = if j = gid then (getGroup s gid).map f else getGroup s j := by
  simp [getGroup, modGroup]

theorem pred_setPred (k b : Nat) (t : Thread) (v : Bool) (h : k ≠ b) : pred (setPred t b v) k = pred t k := by
  unfold pred setPred
  by_cases hk : k < 8
  · have h1 : (1#8 <<< b).getLsbD k = false := by
      simp only [BitVec.getLsbD_shiftLeft, BitVec.getLsbD_one]
      by_cases hb : k < b
      · simp [hb]
      · have : k - b ≠ 0 := by omega
        simp [this]
    cases v
    · simp only [BitVec.getLsbD_or, BitVec.getLsbD_and, BitVec.getLsbD_not, h1, hk]
      simp
    · simp only [BitVec.getLsbD_or, BitVec.getLsbD_and, BitVec.getLsbD_not, h1, hk]
      simp [h1]
  · rw [BitVec.getLsbD_of_ge _ _ (by omega), BitVec.getLsbD_of_ge _ _ (by omega)]

/-- The fields of a group that a frame keeps, in two steps. -/
theorem rest_trans {g h k : Group}
    (a : h = { g with threads := h.threads, scal := h.scal, spend := h.spend, spois := h.spois, toks := h.toks, flight := h.flight, yHead := h.yHead,
                      yRest := h.yRest, yCount := h.yCount, stalls := h.stalls, tlbMisses := h.tlbMisses })
    (b : k = { h with threads := k.threads, scal := k.scal, spend := k.spend, spois := k.spois, toks := k.toks, flight := k.flight, yHead := k.yHead,
                      yRest := k.yRest, yCount := k.yCount, stalls := k.stalls, tlbMisses := k.tlbMisses }) :
    k = { g with threads := k.threads, scal := k.scal, spend := k.spend, spois := k.spois, toks := k.toks, flight := k.flight, yHead := k.yHead,
                 yRest := k.yRest, yCount := k.yCount, stalls := k.stalls, tlbMisses := k.tlbMisses } := by
  refine b.trans ?_
  rw [a]

/-! ### What keeps a frame -/

section
variable {R : Nat → Thread → Prop} {K : Op → Prop} {cnt : Bool} {al : Allow} {run : List Nat} {gid : Nat} {g : Group} {s t : State}

/-- A state that nothing has happened to. -/
theorem framed_refl (hg : getGroup s gid = some g) (hf : ∀ f, g.flight = some f → f.run ⊆ run)
    (hR : ∀ i, R i (thread g i)) : Framed R K cnt al run gid g s s :=
  ⟨rfl, fun _ => rfl, ⟨[], by simp⟩, ⟨[], by simp⟩, fun _ _ => rfl, g, hg, rfl, fun _ => rfl, fun _ _ => ⟨rfl, Iff.rfl, Iff.rfl⟩, hf,
    fun i _ => hR i, fun _ _ => rfl⟩

/-- A weaker relation of threads. -/
theorem framed_mono {R' : Nat → Thread → Prop} (h : Framed R K cnt al run gid g s t) (hR : ∀ i b, R i b → R' i b) :
    Framed R' K cnt al run gid g s t := by
  obtain ⟨h1, h2, h3, h4, h5, h, h6, h7, hc, h8, h9, h10, h11⟩ := h
  exact ⟨h1, h2, h3, h4, h5, h, h6, h7, hc, h8, h9, fun i hi => hR i _ (h10 i hi), h11⟩

/-- A change of the group that keeps its threads and what the frame keeps of the group. -/
theorem framed_modGroup (H : Framed R K cnt al run gid g s t) (f : Group → Group)
    (hf : ∀ h : Group, f h = { h with
      threads := h.threads, scal := (f h).scal, spend := (f h).spend, spois := (f h).spois, toks := (f h).toks, flight := (f h).flight, yHead := (f h).yHead
      yRest := (f h).yRest, yCount := (f h).yCount, stalls := (f h).stalls, tlbMisses := (f h).tlbMisses })
    (hs : ∀ h k, k ∉ al.scal → mget 0 (f h).scal k = mget 0 h.scal k ∧ (k ∈ (f h).spend ↔ k ∈ h.spend) ∧ (k ∈ (f h).spois ↔ k ∈ h.spois))
    (hk : ∀ h, cnt = false → (f h).toks = h.toks)
    (hr : ∀ h fl, (f h).flight = some fl → ∃ fl', h.flight = some fl' ∧ fl.run ⊆ fl'.run) :
    Framed R K cnt al run gid g s (modGroup t gid f) := by
  obtain ⟨h1, h2, h3, h4, h5, h, h6, h7, hc, h8, h9, h10, h11⟩ := H
  have ht : (f h).threads = h.threads := by rw [hf h]
  refine ⟨?_, h2, h3, h4, ?_, f h, ?_, ?_, fun e => (hk h e).trans (hc e), ?_, ?_, ?_, ?_⟩
  · rw [h1]; rfl
  · intro j hj; rw [getGroup_modGroup, if_neg hj]; exact h5 j hj
  · rw [getGroup_modGroup, if_pos rfl, h6]; rfl
  · exact rest_trans h7 ((hf h).trans (by rw [ht]))
  · intro k hk
    exact ⟨(hs h k hk).1.trans (h8 k hk).1, (hs h k hk).2.1.trans (h8 k hk).2.1, (hs h k hk).2.2.trans (h8 k hk).2.2⟩
  · intro fl e
    obtain ⟨fl', e', hsub⟩ := hr h fl e
    exact fun x hx => h9 fl' e' (hsub hx)
  · intro i hi; have := h10 i hi; unfold thread at this ⊢; rw [ht]; exact this
  · intro i hi; have := h11 i hi; unfold thread at this ⊢; rw [ht]; exact this

/-- A change of one thread of the run. -/
theorem framed_modThread (H : Framed R K cnt al run gid g s t) {tid : Nat} (hi : tid ∈ run) (f : Thread → Thread)
    (hf : ∀ b, R tid b → R tid (f b)) : Framed R K cnt al run gid g s (modThread t gid tid f) := by
  obtain ⟨h1, h2, h3, h4, h5, h, h6, h7, hc, h8, h9, h10, h11⟩ := H
  refine ⟨?_, h2, h3, h4, ?_, setThread h tid (f (thread h tid)), ?_, ?_, hc, h8, h9, ?_, ?_⟩
  · rw [h1]; rfl
  · intro j hj; unfold modThread; rw [getGroup_modGroup, if_neg hj]; exact h5 j hj
  · unfold modThread; rw [getGroup_modGroup, if_pos rfl, h6]; rfl
  · exact rest_trans h7 rfl
  · intro i hi'
    rcases thread_setThread h tid i (f (thread h tid)) with e | ⟨e1, e2⟩
    · rw [e]; exact h10 i hi'
    · subst e1; rw [e2]; exact hf _ (h10 tid hi)
  · intro i hi'
    rcases thread_setThread h tid i (f (thread h tid)) with e | ⟨e1, e2⟩
    · rw [e]; exact h11 i hi'
    · subst e1; exact absurd hi hi'

/-- A change outside the group: only fields that the frame leaves open. -/
theorem framed_other (H : Framed R K cnt al run gid g s t) {t' : State}
    (e : t' = { t with nextId := t'.nextId, tlb := t'.tlb, walks := t'.walks, cached := t'.cached, stale := t'.stale, faults := t'.faults }) : Framed R K cnt al run gid g s t' := by
  obtain ⟨h1, h2, h3, h4, h5, h, h6, h7, hc, h8, h9, h10, h11⟩ := H
  have eo : t'.ops = t.ops := by rw [e]
  have ee : t'.events = t.events := by rw [e]
  have eg : t'.groups = t.groups := by rw [e]
  have em : t'.mem = t.mem := by rw [e]
  refine ⟨?_, ?_, ?_, ?_, ?_, h, ?_, h7, hc, h8, h9, h10, h11⟩
  · rw [e, h1]
  · intro a; unfold rdByte; rw [em]; exact h2 a
  · rw [eo]; exact h3
  · rw [ee]; exact h4
  · intro j hj; unfold getGroup; rw [eg]; exact h5 j hj
  · unfold getGroup; rw [eg]; exact h6

/-- An operation put in flight. -/
theorem framed_addOp (H : Framed R K cnt al run gid g s t) (o : Op) (ho : K { o with id := t.nextId }) :
    Framed R K cnt al run gid g s (addOp t o) := by
  obtain ⟨h1, h2, ⟨new, h3, h3'⟩, h4, h5, h, h6, h7, hc, h8, h9, h10, h11⟩ := H
  refine ⟨?_, h2, ⟨new ++ [{ o with id := t.nextId }], ?_, ?_⟩, h4, h5, h, h6, h7, hc, h8, h9, h10, h11⟩
  · unfold addOp; dsimp only; rw [h1]
  · unfold addOp; dsimp only; rw [h3, List.append_assoc]
  · intro p hp
    simp only [List.mem_append, List.mem_singleton] at hp
    rcases hp with hp | rfl
    · exact h3' p hp
    · exact ho

/-- A FAULT event posted. -/
theorem framed_post (H : Framed R K cnt al run gid g s t) (e : Event) (he : e.kind = 0x81) : Framed R K cnt al run gid g s (post t e) := by
  obtain ⟨h1, h2, h3, ⟨ev, h4, h4'⟩, h5, h, h6, h7, hc, h8, h9, h10, h11⟩ := H
  refine ⟨?_, h2, h3, ⟨ev ++ [{ e with dests := eventDests t e, seq := mget 0 t.evSeq e.vi, at_ := t.outN }], ?_, ?_⟩, h5, h, h6, h7, hc, h8, h9, h10, h11⟩
  · unfold post; dsimp only; rw [h1]
  · unfold post; dsimp only; rw [h4, List.append_assoc]
  · intro p hp
    simp only [List.mem_append, List.mem_singleton] at hp
    rcases hp with hp | rfl
    · exact h4' p hp
    · exact he

/-- An event about a trapping thread. -/
theorem framed_postFault (H : Framed R K cnt al run gid g s t) (lid k : Nat) (rs : List TrapRec) :
    Framed R K cnt al run gid g s (postFault t lid gid k rs) := by
  unfold postFault postLaunch
  split
  · exact H
  · split
    · exact H
    · exact framed_post H _ rfl

/-- A first-level miss counted. -/
theorem framed_countMiss (H : Framed R K cnt al run gid g s t) (core ctx va : Nat) :
    Framed R K cnt al run gid g s (countMiss t gid core ctx va) := by
  unfold countMiss
  split
  · exact framed_modGroup H _ (fun _ => rfl) (fun _ _ _ => ⟨rfl, Iff.rfl, Iff.rfl⟩) (fun _ _ => rfl) (fun h fl e => ⟨fl, e, fun _ hx => hx⟩)
  · exact H

/-- A translation unit comes to hold what it uses, or asks for it. -/
theorem framed_touchUnit (H : Framed R K cnt al run gid g s t) (unit ctx va : Nat) (x : Exec) :
    Framed R K cnt al run gid g s (touchUnit t unit ctx va x) := by
  unfold touchUnit
  split
  · split
    · exact framed_other H rfl
    · apply framed_other H
      unfold askWalk
      split <;> rfl
  · exact H

/-- Touching the TLB. -/
theorem framed_touchTlb (H : Framed R K cnt al run gid g s t) (core ctx slot va : Nat) :
    Framed R K cnt al run gid g s (touchTlb t gid core ctx slot va) :=
  framed_touchUnit (framed_countMiss H _ _ _) _ _ _ _

theorem fillFrom_only (s : State) (core ctx orient pa : Nat) (l1 : Bool) : CachesOnly s (fillFrom s core ctx orient pa l1) := by
  have tr : ∀ a b c : State, CachesOnly a b → CachesOnly b c → CachesOnly a c := by
    rintro a _ _ ⟨c1, o1, rfl⟩ ⟨c2, o2, rfl⟩
    exact ⟨c2, o2, rfl⟩
  have hf : ∀ s l, CachesOnly s (fillLine s l) := fun s l => ⟨_, _, rfl⟩
  have h3 := tr _ _ _ (tr _ _ _ (hf s (lineAt (llcUnit (stackOf pa)) ctx orient pa))
    (hf _ (lineAt (l2Unit (homeDie pa)) ctx orient pa))) (hf _ (lineAt (secondUnit core pa) ctx orient pa))
  unfold fillFrom
  dsimp only
  generalize fillLine (fillLine (fillLine s _) _) _ = t at h3 ⊢
  split
  · exact ⟨s.cached, s.stale, rfl⟩
  · split
    · exact h3
    · refine tr _ _ _ (tr _ _ _ h3 (hf _ (lineAt core ctx orient pa))) ?_
      generalize fillLine t _ = u
      exact ⟨_, _, rfl⟩

/-- What a core reads fills the caches between it and the home. -/
theorem framed_fillFrom (H : Framed R K cnt al run gid g s t) (core ctx orient pa : Nat) (l1 : Bool) :
    Framed R K cnt al run gid g s (fillFrom t core ctx orient pa l1) := by
  obtain ⟨c, o, e⟩ := fillFrom_only t core ctx orient pa l1
  exact framed_other H (e ▸ rfl)

theorem framed_foldl {β : Type} {f : State → β → State} (l : List β)
    (hf : ∀ t x, x ∈ l → Framed R K cnt al run gid g s t → Framed R K cnt al run gid g s (f t x)) :
    ∀ t, Framed R K cnt al run gid g s t → Framed R K cnt al run gid g s (l.foldl f t) := by
  induction l with
  | nil => intro t H; exact H
  | cons x l ih =>
    intro t H
    exact ih (fun t y hy => hf t y (List.mem_cons_of_mem _ hy)) _ (hf t x List.mem_cons_self H)

theorem framed_touchAll {α : Type} (H : Framed R K cnt al run gid g s t) (cx : Cx) (hc : cx.gid = gid) (gs : List (Got α)) :
    Framed R K cnt al run gid g s (touchAll t cx gs) := by
  unfold touchAll
  refine framed_foldl gs (fun t x _ H => ?_) t H
  refine framed_foldl x.work.lines (fun t pa _ H => framed_fillFrom H _ _ _ _ _) _ ?_
  exact framed_foldl x.work.vas (fun t va _ H => hc ▸ framed_touchTlb (hc.symm ▸ H) _ _ _ _) t H

/-- A trap of one thread of the run. -/
theorem framed_trap (H : Framed R K cnt al run gid g s t) (k : Option Kernel) (ctx lid sub : Nat) (a : TrapAt) {tid : Nat}
    (hR : ∀ b (b' : Thread), R tid b → Trapped b b' → R tid b') (hi : tid ∈ run) (tr : Trap) :
    Framed R K cnt al run gid g s
      (let s := dropWalks (modGroup t gid (fun g => leaveRun g tid)) (· == runExec t gid a.slot)
       if tr.code = cPAGE ∧ !tr.deferred then
         { parkPage s gid tid sub a tr with faults := notePage s.faults sub ctx tr { gid := gid, tid := tid } }
       else deliverUser s k lid gid tid sub a tr) := by
  have H1 : Framed R K cnt al run gid g s (dropWalks (modGroup t gid (fun g => leaveRun g tid)) (· == runExec t gid a.slot)) := by
    refine framed_other (framed_modGroup H (fun g => leaveRun g tid) ?_ ?_ ?_ ?_) rfl
    · intro h; rfl
    · intro h k hk; exact ⟨rfl, Iff.rfl, Iff.rfl⟩
    · intro h _; rfl
    · intro h fl e
      simp only [leaveRun, Option.map_eq_some_iff] at e
      obtain ⟨fl', e1, rfl⟩ := e
      exact ⟨fl', e1, fun x hx => (List.mem_filter.1 hx).1⟩
  dsimp only
  split
  · refine framed_other (framed_modThread H1 hi (fun t => { t with st := .parked sub, pc := resumePoint a, trap := recordOf a tr })
      (fun b hb => hR _ _ hb rfl)) ?_
    rfl
  · unfold deliverUser
    split
    · exact H1
    · dsimp only
      split
      · refine framed_modThread H1 hi _ (fun b hb => hR b _ hb ?_)
        rfl
      · refine framed_postFault (framed_modThread H1 hi _ (fun b hb => hR b _ hb ?_)) _ _ _
        rfl

theorem framed_takeTraps (H : Framed R K cnt al run gid g s t) (k : Option Kernel) (ctx lid : Nat) (a : TrapAt)
    (ts : List (Nat × Trap)) (hR : ∀ x ∈ ts, ∀ b (b' : Thread), R x.1 b → Trapped b b' → R x.1 b') (hi : ∀ x ∈ ts, x.1 ∈ run) :
    Framed R K cnt al run gid g s (takeTraps t k ctx lid gid a ts) := by
  unfold takeTraps
  split
  · exact H
  · unfold takeTrapsAs
    refine framed_foldl ts (fun t x hx H => ?_) _ (framed_modGroup (framed_other H rfl) _ (fun _ => rfl)
      (fun _ _ _ => ⟨rfl, Iff.rfl, Iff.rfl⟩) (fun _ _ => rfl) (fun h fl e => ?_))
    · obtain ⟨i, tr⟩ := x
      exact framed_trap H k ctx lid _ a (hR _ hx) (hi _ hx) tr
    · simp only [keepSub, Option.map_eq_some_iff] at e
      obtain ⟨fl', e1, rfl⟩ := e
      exact ⟨fl', e1, fun _ hx => hx⟩

/-- Program counters of a run's threads. -/
theorem framed_endClause (hR : ∀ i b pc, R i b → R i { b with pc := pc }) (h : Group) (pcs : List (Nat × W64)) (back : Bool)
    (hp : ∀ x ∈ pcs, x.1 ∈ run) (h10 : ∀ i ∈ run, R i (thread h i)) (h11 : ∀ i, i ∉ run → thread h i = thread g i) :
    (∀ i ∈ run, R i (thread (endClause h pcs back) i)) ∧ ∀ i, i ∉ run → thread (endClause h pcs back) i = thread g i := by
  unfold endClause
  split
  · exact ⟨h10, h11⟩
  · dsimp only
    suffices hh : ∀ (l : List (Nat × W64)) (h : Group), (∀ x ∈ l, x.1 ∈ run) → (∀ i ∈ run, R i (thread h i)) →
        (∀ i, i ∉ run → thread h i = thread g i) →
        (∀ i ∈ run, R i (thread (l.foldl (fun g x => setThread g x.1 { thread g x.1 with pc := x.2 }) h) i)) ∧
        ∀ i, i ∉ run → thread (l.foldl (fun g x => setThread g x.1 { thread g x.1 with pc := x.2 }) h) i = thread g i by
      exact hh pcs h hp h10 h11
    intro l
    induction l with
    | nil => intro h _ h10 h11; exact ⟨h10, h11⟩
    | cons x l ih =>
      intro h hp h10 h11
      refine ih _ (fun y hy => hp y (List.mem_cons_of_mem _ hy)) ?_ ?_
      · intro i hi
        rcases thread_setThread h x.1 i { thread h x.1 with pc := x.2 } with e | ⟨e1, e2⟩
        · rw [e]; exact h10 i hi
        · rw [e2]; subst e1; exact hR _ _ _ (h10 _ hi)
      · intro i hi
        rcases thread_setThread h x.1 i { thread h x.1 with pc := x.2 } with e | ⟨e1, e2⟩
        · rw [e]; exact h11 i hi
        · subst e1; exact absurd (hp x List.mem_cons_self) hi

/-- Ending a clause keeps the fields of a group that the frame keeps. -/
theorem endClause_fields (h : Group) (pcs : List (Nat × W64)) (back : Bool) :
    endClause h pcs back = { h with
      threads := (endClause h pcs back).threads, flight := (endClause h pcs back).flight
      yHead := (endClause h pcs back).yHead, yRest := (endClause h pcs back).yRest, yCount := (endClause h pcs back).yCount }
    ∧ ∀ fl, (endClause h pcs back).flight = some fl → h.flight = some fl := by
  have key : ∀ (l : List (Nat × W64)) (h : Group),
      l.foldl (fun g x => setThread g x.1 { thread g x.1 with pc := x.2 }) h
        = { h with threads := (l.foldl (fun g x => setThread g x.1 { thread g x.1 with pc := x.2 }) h).threads } := by
    intro l
    induction l with
    | nil => intro h; rfl
    | cons x l ih => intro h; simp only [List.foldl_cons]; rw [ih]; rfl
  unfold endClause
  split
  · exact ⟨rfl, fun fl e' => e'⟩
  · dsimp only
    rw [key]
    exact ⟨rfl, fun fl e' => by simp [yieldAfter] at e'⟩

/-- A change of the group by ending its clause, or moving its flight on. -/
theorem framed_end (hR : ∀ i b pc, R i b → R i { b with pc := pc }) (H : Framed R K cnt al run gid g s t) (pcs : Group → List (Nat × W64))
    (back : Bool) (hp : ∀ h fl, h.flight = some fl → fl.run ⊆ run → ∀ x ∈ pcs h, x.1 ∈ run) :
    Framed R K cnt al run gid g s (modGroup t gid (fun h => endClause h (pcs h) back)) := by
  obtain ⟨h1, h2, h3, h4, h5, h, h6, h7, hc, h8, h9, h10, h11⟩ := H
  obtain ⟨ef, efl⟩ := endClause_fields h (pcs h) back
  have hth : (∀ i ∈ run, R i (thread (endClause h (pcs h) back) i)) ∧ ∀ i, i ∉ run → thread (endClause h (pcs h) back) i = thread g i := by
    cases e : h.flight with
    | none =>
      have : endClause h (pcs h) back = h := by unfold endClause; rw [e]
      rw [this]; exact ⟨h10, h11⟩
    | some fl => exact framed_endClause hR h (pcs h) back (hp h fl e (h9 fl e)) h10 h11
  refine ⟨?_, h2, h3, h4, ?_, endClause h (pcs h) back, ?_, ?_, ?_, ?_, ?_, hth.1, hth.2⟩
  · rw [h1]; rfl
  · intro j hj; rw [getGroup_modGroup, if_neg hj]; exact h5 j hj
  · rw [getGroup_modGroup, if_pos rfl, h6]; rfl
  · refine rest_trans h7 (ef.trans ?_)
    rw [congrArg Group.scal ef, congrArg Group.spend ef, congrArg Group.spois ef, congrArg Group.stalls ef, congrArg Group.tlbMisses ef, congrArg Group.toks ef]
  · intro e; rw [ef]; exact hc e
  · intro k hk
    rw [ef]; exact h8 k hk
  · intro fl e; exact h9 fl (efl fl e)

theorem advance_eq (h : Group) (n : Nat) : advance h n = h ∨ (∃ fl, h.flight = some fl ∧ advance h n = endClause h [] false)
    ∨ (∃ fl, h.flight = some fl ∧ advance h n = { h with flight := some { fl with slot := fl.slot + n, past := [], tok := 0, sub := 0, stall := none } })
    ∨ ∃ fl, h.flight = some fl ∧ advance h n = endClause h (fl.run.map (fun t => (t, nextHeader fl.hdr (hLen fl.w0)))) false := by
  unfold advance
  split
  · left; rfl
  · rename_i fl e
    split
    · right; left; exact ⟨fl, e, rfl⟩
    · split
      · right; right; left; exact ⟨fl, e, rfl⟩
      · right; right; right; exact ⟨fl, e, rfl⟩

/-- A run moves past its slots. -/
theorem framed_advance (hR : ∀ i b pc, R i b → R i { b with pc := pc }) (H : Framed R K cnt al run gid g s t) (n : Nat) :
    Framed R K cnt al run gid g s (modGroup t gid (fun h => advance h n)) := by
  obtain ⟨h, hh⟩ : ∃ h, getGroup t gid = some h := ⟨_, H.2.2.2.2.2.choose_spec.1⟩
  have hm : ∀ f1 f2 : Group → Group, f1 h = f2 h → modGroup t gid f1 = modGroup t gid f2 := by
    intro f1 f2 e
    unfold getGroup at hh
    simp only [modGroup, mmod, hh, e]
  rcases advance_eq h n with e | ⟨fl, e1, e⟩ | ⟨fl, e1, e⟩ | ⟨fl, e1, e⟩
  · rw [hm _ id e]
    exact framed_modGroup H id (fun _ => rfl) (fun _ _ _ => ⟨rfl, Iff.rfl, Iff.rfl⟩) (fun _ _ => rfl) (fun h fl e => ⟨fl, e, fun _ hx => hx⟩)
  · rw [hm _ (fun h => endClause h [] false) e]
    exact framed_end hR H (fun _ => []) false (by simp)
  · rw [hm _ (fun h => { h with flight := h.flight.map (fun fl => { fl with slot := fl.slot + n, past := [], tok := 0, sub := 0, stall := none }) }) (by rw [e, e1]; rfl)]
    refine framed_modGroup H (fun h => { h with flight := h.flight.map (fun fl => { fl with slot := fl.slot + n, past := [], tok := 0, sub := 0, stall := none }) }) (fun _ => rfl)
      (fun _ _ _ => ⟨rfl, Iff.rfl, Iff.rfl⟩) (fun _ _ => rfl) (fun h fl e => ?_)
    simp only [Option.map_eq_some_iff] at e
    obtain ⟨fl', e1, rfl⟩ := e
    exact ⟨fl', e1, fun _ hx => hx⟩
  · rw [hm _ (fun h => endClause h (match h.flight with
      | some fl => fl.run.map (fun t => (t, nextHeader fl.hdr (hLen fl.w0)))
      | none => []) false) (by rw [e, e1])]
    refine framed_end hR H _ false (fun h fl e hs x hx => ?_)
    rw [e] at hx
    simp only [List.mem_map] at hx
    obtain ⟨y, hy, rfl⟩ := hx
    exact hs hy

end

/-! ### A thread that retires -/

theorem mem_sinsert (k x : Nat) (l : List Nat) : x ∈ sinsert k l ↔ x = k ∨ x ∈ l := by
  induction l with
  | nil => simp [sinsert]
  | cons j l ih =>
    simp only [sinsert]
    split
    · subst_vars; simp
    · split
      · simp
      · simp only [List.mem_cons, ih]; tauto

theorem mem_sunion (l xs : List Nat) (x : Nat) : x ∈ sunion l xs ↔ x ∈ l ∨ x ∈ xs := by
  unfold sunion
  induction xs generalizing l with
  | nil => simp
  | cons y xs ih => simp only [List.foldl_cons, ih, mem_sinsert, List.mem_cons]; tauto

theorem mget_puts (ks : List Nat) (ws : List W32) (m : NMap W32) (k : Nat) (hk : k ∉ ks) :
    mget 0 ((ks.zip ws).foldl (fun m kv => mset 0 m kv.1 kv.2) m) k = mget 0 m k := by
  induction ks generalizing ws m with
  | nil => rfl
  | cons j ks ih =>
    cases ws with
    | nil => rfl
    | cons w ws =>
      simp only [List.mem_cons, not_or] at hk
      simp only [List.zip_cons_cons, List.foldl_cons]
      rw [ih ws _ hk.2, mget_mset_ne hk.1]

theorem retired_refl (al : Allow) (t : Thread) : Retired al t t :=
  ⟨rfl, fun _ _ => ⟨rfl, Iff.rfl, Iff.rfl⟩, fun _ _ => rfl, fun _ _ => rfl, fun _ => ⟨rfl, rfl⟩, fun _ => rfl⟩

theorem retired_wb {al : Allow} {a b : Thread} (h : Retired al a b) : b.wb = a.wb := by
  have e := congrArg Thread.wb h.1
  exact e

theorem retired_trans {al : Allow} {a b c : Thread} (h : Retired al a b) (k : Retired al b c) : Retired al a c := by
  have hw := retired_wb h
  obtain ⟨h1, h2, h3, h4, h5, h6⟩ := h
  obtain ⟨k1, k2, k3, k4, k5, k6⟩ := k
  rw [hw] at k2
  refine ⟨k1.trans ?_, ?_, ?_, ?_, ?_, ?_⟩
  · rw [h1]
  · intro x hx
    exact ⟨(k2 x hx).1.trans (h2 x hx).1, (k2 x hx).2.1.trans (h2 x hx).2.1, (k2 x hx).2.2.trans (h2 x hx).2.2⟩
  · intro x hx; exact (k3 x hx).trans (h3 x hx)
  · intro x hx; exact (k4 x hx).trans (h4 x hx)
  · intro x; exact ⟨(k5 x).1.trans (h5 x).1, (k5 x).2.trans (h5 x).2⟩
  · intro x; exact (k6 x).trans (h6 x)

theorem retired_putRegs {al : Allow} (t : Thread) (abs : Nat) (ws : List W32) (h : ∀ k ∈ rangeFrom abs ws.length, k ∈ al.regs t.wb) :
    Retired al t (putRegs t abs ws false) := by
  refine ⟨rfl, fun k hk => ⟨?_, ?_, ?_⟩, fun _ _ => rfl, fun _ _ => rfl, fun _ => ⟨rfl, rfl⟩, fun _ => rfl⟩
  · exact mget_puts _ _ _ _ (fun hx => hk (h k hx))
  · have : k ∉ rangeFrom abs ws.length := fun hx => hk (h k hx)
    simp [putRegs, this]
  · have : k ∉ rangeFrom abs ws.length := fun hx => hk (h k hx)
    simp [putRegs, this]

theorem retired_pend {al : Allow} (t : Thread) (ks : List Nat) (h : ∀ k ∈ ks, k ∈ al.regs t.wb) :
    Retired al t { t with pend := sunion t.pend ks } := by
  refine ⟨rfl, fun k hk => ⟨rfl, ?_, Iff.rfl⟩, fun _ _ => rfl, fun _ _ => rfl, fun _ => ⟨rfl, rfl⟩, fun _ => rfl⟩
  have : k ∉ ks := fun hx => hk (h k hx)
  simp [mem_sunion, this]

theorem retired_preds {al : Allow} (ps : List (Nat × Bool)) (t : Thread) (h : ∀ p ∈ ps, p.1 ∈ al.preds) :
    Retired al t (ps.foldl (fun t q => setPred t q.1 q.2) t) := by
  induction ps generalizing t with
  | nil => exact retired_refl al t
  | cons p ps ih =>
    refine retired_trans ?_ (ih _ (fun q hq => h q (List.mem_cons_of_mem _ hq)))
    refine ⟨rfl, fun _ _ => ⟨rfl, Iff.rfl, Iff.rfl⟩, fun k hk => ?_, fun _ _ => rfl, fun _ => ⟨rfl, rfl⟩, fun _ => rfl⟩
    exact pred_setPred _ _ _ _ (fun e => hk (e ▸ h p List.mem_cons_self))

theorem retired_stream {al : Allow} (t : Thread) (i : Nat) (r : StreamReg) (h : i ∈ al.streams) :
    Retired al t (setStream t i r) := by
  refine ⟨rfl, fun _ _ => ⟨rfl, Iff.rfl, Iff.rfl⟩, fun _ _ => rfl, fun k hk => ?_, fun _ => ⟨rfl, rfl⟩, fun _ => rfl⟩
  unfold streamReg setStream
  exact mget_mset_ne (fun e => hk (e ▸ h))

theorem retired_pc {al : Allow} {a b : Thread} (pc : W64) (h : Retired al a b) : Retired al a { b with pc := pc } := by
  obtain ⟨h1, h2⟩ := h
  refine ⟨?_, h2⟩
  rw [h1]

/-- A thread whose operands have been read: only streams and the random stream have moved. -/
def Moved (al : Allow) (a b : Thread) : Prop :=
  b = { a with streams := b.streams, key := b.key, ctr := b.ctr, idx := b.idx }
    ∧ (∀ k, k ∉ al.streams → streamReg b k = streamReg a k)
    ∧ (al.draws = false → b.ctr = a.ctr ∧ b.idx = a.idx)
    ∧ (al.key = false → b.key = a.key)

theorem moved_refl (al : Allow) (t : Thread) : Moved al t t := ⟨rfl, fun _ _ => rfl, fun _ => ⟨rfl, rfl⟩, fun _ => rfl⟩

theorem moved_trans {al : Allow} {a b c : Thread} (h : Moved al a b) (k : Moved al b c) : Moved al a c := by
  obtain ⟨h1, h4, h5, h6⟩ := h
  obtain ⟨k1, k4, k5, k6⟩ := k
  refine ⟨k1.trans ?_, ?_, ?_, ?_⟩
  · rw [h1]
  · intro x hx; exact (k4 x hx).trans (h4 x hx)
  · intro x; exact ⟨(k5 x).1.trans (h5 x).1, (k5 x).2.trans (h5 x).2⟩
  · intro x; exact (k6 x).trans (h6 x)

theorem retired_of_moved {al : Allow} {a b : Thread} (h : Moved al a b) : Retired al a b := by
  obtain ⟨h1, h4, h5, h6⟩ := h
  have e1 := congrArg Thread.regs h1
  have e2 := congrArg Thread.pend h1
  have e3 := congrArg Thread.rpois h1
  have e4 := congrArg Thread.preds h1
  refine ⟨h1.trans ?_, fun k _ => ⟨?_, ?_, ?_⟩, fun k _ => ?_, h4, h5, h6⟩
  · rw [h1]
  · rw [e1]
  · rw [e2]
  · rw [e3]
  · unfold pred; rw [e4]

theorem moved_stream {al : Allow} (t : Thread) (i : Nat) (r : StreamReg) (h : i ∈ al.streams) : Moved al t (setStream t i r) := by
  refine ⟨rfl, fun k hk => ?_, fun _ => ⟨rfl, rfl⟩, fun _ => rfl⟩
  unfold streamReg setStream
  exact mget_mset_ne (fun e => hk (e ▸ h))

/-! ### Results of one register, of a pair, or of the entry's width -/

@[simp] theorem leWords_length (n v : Nat) : (leWords n v).length = n := by
  induction n generalizing v with
  | zero => rfl
  | succ n ih => simp [leWords, ih]

@[simp] theorem out32_words_length (v : Nat) : (out32 v).words.length = 1 := rfl
@[simp] theorem out32_preds (v : Nat) : (out32 v).preds = [] := rfl
@[simp] theorem out32_upd (v : Nat) (t : Thread) : (out32 v).upd t = t := rfl
@[simp] theorem out64_words_length (v : Nat) : (out64 v).words.length = 2 := rfl
@[simp] theorem out64_preds (v : Nat) : (out64 v).preds = [] := rfl
@[simp] theorem out64_upd (v : Nat) (t : Thread) : (out64 v).upd t = t := rfl
@[simp] theorem outN_words_length (cx : Cx) (v : Nat) : (outN cx v).words.length = if cx.wide then 2 else 1 := by
  unfold outN; split <;> rfl
@[simp] theorem outN_preds (cx : Cx) (v : Nat) : (outN cx v).preds = [] := by
  unfold outN; split <;> rfl
@[simp] theorem outN_upd (cx : Cx) (v : Nat) (t : Thread) : (outN cx v).upd t = t := by
  unfold outN; split <;> rfl

/-! ### The commit of a lane instruction -/

/-- Where a destination leads, within what the instruction may change. -/
def PlanOk (al : Allow) (wb n : Nat) (p : Plan) : Prop :=
  match p with
  | .win abs => ∀ k ∈ rangeFrom abs n, k ∈ al.regs wb
  | .scal k => k ∈ al.scal
  | .strm _ _ _ => al.toStream = true
  | .none => True

/-- What the threads of a run may have become: retired, or trapped. -/
def LaneRel (al : Allow) (g : Group) (k : Nat) (b : Thread) : Prop := Retired al (thread g k) b ∨ Trapped (thread g k) b

theorem laneRel_pc {al : Allow} {g : Group} (i : Nat) (b : Thread) (pc : W64) (h : LaneRel al g i b) :
    LaneRel al g i { b with pc := pc } := by
  rcases h with h | h
  · exact Or.inl (retired_pc pc h)
  · right; unfold Trapped at h ⊢; rw [h]

theorem framed_commitOne {al : Allow} {run : List Nat} {s t : State} {cx : Cx} (H : Framed (LaneRel al cx.g) (ResultOk al run cx.gid cx.g) false al run cx.gid cx.g s t)
    (first : Bool) {tid : Nat} (hi : tid ∈ run) {th : Thread} (ht : Retired al (thread cx.g tid) th) (p : Plan) (o : Out)
    (hp : PlanOk al th.wb o.words.length p) (hu : Retired al th (o.upd th)) (hq : ∀ q ∈ o.preds, q.1 ∈ al.preds) :
    Framed (LaneRel al cx.g) (ResultOk al run cx.gid cx.g) false al run cx.gid cx.g s (commitOne cx t first tid th p o) := by
  have h1 : Retired al th (o.preds.foldl (fun t q => setPred t q.1 q.2) (o.upd th)) :=
    retired_trans hu (retired_preds _ _ hq)
  have hwb := retired_wb h1
  have hwb2 := retired_wb ht
  have h2 := retired_trans ht h1
  unfold commitOne
  dsimp only
  generalize hth : o.preds.foldl (fun t q => setPred t q.1 q.2) (o.upd th) = th' at *
  cases p with
  | win abs =>
    have hp' : ∀ k ∈ rangeFrom abs o.words.length, k ∈ al.regs th'.wb := by rw [hwb]; exact hp
    dsimp only
    split
    · refine framed_addOp (framed_modThread H hi (fun _ => { th' with pend := sunion th'.pend (rangeFrom abs o.words.length) })
        (fun b _ => Or.inl (retired_trans h2 (retired_pend _ _ hp')))) _ ?_
      refine ⟨rfl, rfl, ?_, by simp⟩
      intro r hr
      simp only [List.mem_singleton] at hr
      subst hr
      refine ⟨hi, ?_⟩
      rw [← hwb2, ← hwb]
      exact hp'
    · exact framed_modThread H hi (fun _ => putRegs th' abs o.words false)
        (fun b _ => Or.inl (retired_trans h2 (retired_putRegs _ _ _ hp')))
  | scal k =>
    have H1 := framed_modThread H hi (fun _ => th') (fun b _ => Or.inl h2)
    have hne : ∀ j, j ∉ al.scal → j ≠ k := fun j hj e => hj (e ▸ hp)
    dsimp only
    split
    · exact H1
    · split
      · refine framed_addOp (framed_modGroup H1 (fun g => { g with spend := sinsert k g.spend }) (fun _ => rfl) ?_ (fun _ _ => rfl)
          (fun h fl e => ⟨fl, e, fun _ hx => hx⟩)) _ ?_
        · intro h j hj
          exact ⟨rfl, by simp [mem_sinsert, hne j hj], Iff.rfl⟩
        · refine ⟨rfl, rfl, by simp, ?_⟩
          intro j hj
          simp only [Option.some.injEq] at hj
          exact hj ▸ hp
      · refine framed_modGroup H1 (fun g => { g with scal := mset 0 g.scal k _, spois := g.spois.filter (· ≠ k) }) (fun _ => rfl) ?_
          (fun _ _ => rfl) (fun h fl e => ⟨fl, e, fun _ hx => hx⟩)
        intro h j hj
        exact ⟨mget_mset_ne (hne j hj), Iff.rfl, by simp [hne j hj]⟩
  | strm b a ls =>
    dsimp only
    exact framed_addOp (framed_modThread H hi (fun _ => th') (fun b _ => Or.inl h2)) _ hp
  | none => exact framed_modThread H hi (fun _ => th') (fun b _ => Or.inl h2)

/-- A participant that may commit. -/
def GotOk (al : Allow) (run : List Nat) (g : Group) (x : Got Out) : Prop :=
  x.tid ∈ run ∧ Retired al (thread g x.tid) x.work.th ∧ PlanOk al x.work.th.wb x.val.words.length x.plan
    ∧ Retired al x.work.th (x.val.upd x.work.th) ∧ ∀ q ∈ x.val.preds, q.1 ∈ al.preds

theorem framed_commitAll {al : Allow} {run : List Nat} {s t : State} {cx : Cx} (H : Framed (LaneRel al cx.g) (ResultOk al run cx.gid cx.g) false al run cx.gid cx.g s t)
    (outs : List (Got Out)) (ho : ∀ x ∈ outs, GotOk al run cx.g x) :
    Framed (LaneRel al cx.g) (ResultOk al run cx.gid cx.g) false al run cx.gid cx.g s (commitAll t cx outs) := by
  unfold commitAll
  suffices hh : ∀ (l : List (Got Out)) (t : State) (b : Bool), (∀ x ∈ l, GotOk al run cx.g x) →
      Framed (LaneRel al cx.g) (ResultOk al run cx.gid cx.g) false al run cx.gid cx.g s t → Framed (LaneRel al cx.g) (ResultOk al run cx.gid cx.g) false al run cx.gid cx.g s
        (l.foldl (fun (acc : State × Bool) g => (commitOne cx acc.1 acc.2 g.tid g.work.th g.plan g.val, false)) (t, b)).1 from
    hh outs t _ ho H
  intro l
  induction l with
  | nil => intro t b _ H; exact H
  | cons x l ih =>
    intro t b hx H
    obtain ⟨h1, h2, h3, h4, h5⟩ := hx x List.mem_cons_self
    exact ih _ _ (fun y hy => hx y (List.mem_cons_of_mem _ hy)) (framed_commitOne H b h1 h2 x.plan x.val h3 h4 h5)

/-! ### Reading -/

/-- Reading changes of a thread only what the instruction may change. -/
def RdKeeps {α : Type} (al : Allow) (rd : Rd α) : Prop := ∀ w v w', rd.run w = .ok (v, w') → Moved al w.th w'.th

/-- Field D is a destination that the instruction may change, of at least n words. -/
def DestOk (al : Allow) (code n : Nat) : Prop :=
  ∃ u ∈ al.dest, u.code = code ∧ n ≤ u.words ∧ (112 ≤ code → code < 116 → code - 112 ∈ al.streams)

theorem destOk_regs {al : Allow} {code n wb : Nat} (h : DestOk al code n) (hc : code < 96) :
    ∀ k ∈ rangeFrom (wb + code) n, k ∈ al.regs wb := by
  obtain ⟨u, hu, rfl, hn, _⟩ := h
  intro k hk
  simp only [rangeFrom, List.mem_map, List.mem_range] at hk
  obtain ⟨j, hj, rfl⟩ := hk
  simp only [Allow.regs, List.mem_flatMap]
  refine ⟨u, hu, ?_⟩
  rw [if_pos hc]
  simp only [rangeFrom, List.mem_map, List.mem_range]
  exact ⟨j, by omega, rfl⟩

theorem destOk_scal {al : Allow} {code n : Nat} (h : DestOk al code n) (h1 : 96 ≤ code) (h2 : code < 112) : code - 96 ∈ al.scal := by
  obtain ⟨u, hu, rfl, _⟩ := h
  simp only [Allow.scal, List.mem_filterMap]
  exact ⟨u, hu, by simp [h1, h2]⟩

theorem destOk_strm {al : Allow} {code n : Nat} (h : DestOk al code n) (h1 : 112 ≤ code) (h2 : code < 116) : al.toStream = true := by
  obtain ⟨u, hu, rfl, _⟩ := h
  simp only [Allow.toStream, List.any_eq_true, decide_eq_true_eq]
  exact ⟨u, hu, h1, h2⟩

/-- A reading in two parts. -/
theorem rd_bind {α β : Type} {m : Rd α} {f : α → Rd β} {w w' : Work} {v : β} (h : (m >>= f).run w = .ok (v, w')) :
    ∃ a w1, m.run w = .ok (a, w1) ∧ (f a).run w1 = .ok (v, w') := by
  simp only [StateT.run_bind] at h
  cases hx : m.run w with
  | error e => simp [hx, bind, Except.bind] at h
  | ok r => exact ⟨r.1, r.2, rfl, by simpa [hx, bind, Except.bind] using h⟩

theorem rdKeeps_pure {α : Type} {al : Allow} (a : α) : RdKeeps al (pure a) := by
  intro w v w' h
  cases h
  exact moved_refl al _

theorem rdKeeps_bind {α β : Type} {al : Allow} {m : Rd α} {f : α → Rd β} (hm : RdKeeps al m) (hf : ∀ a, RdKeeps al (f a)) :
    RdKeeps al (m >>= f) := by
  intro w v w' h
  obtain ⟨a, w1, hx, h2⟩ := rd_bind h
  exact moved_trans (hm w a w1 hx) (hf a w1 v w' h2)

theorem rdKeeps_get {al : Allow} : RdKeeps al (get : Rd Work) := by
  intro w v w' h
  cases h
  exact moved_refl al _

theorem rdKeeps_trap {α : Type} {al : Allow} (t : Trap) : RdKeeps al (trapRd t : Rd α) := by
  intro w v w' h
  cases h

theorem rdKeeps_stall {α : Type} {al : Allow} (b : Bool) : RdKeeps al (stallRd b : Rd α) := by
  intro w v w' h
  cases h

theorem rdKeeps_liftT {α : Type} {al : Allow} (x : Except Trap α) : RdKeeps al (liftT x) := by
  unfold liftT
  split
  · exact rdKeeps_pure _
  · exact rdKeeps_trap _

/-- A noted trap that is not there lets a reading go on. -/
theorem settle_ok {w w' : Work} {u : Unit} (h : settleRd.run w = .ok (u, w')) : w' = w := by
  unfold settleRd at h
  change (match w.note with
    | some t => (throw (Stop.trap t) : Rd Unit)
    | none => pure ()).run w = _ at h
  split at h
  · cases h
  · cases h
    rfl

/-- A change of the copy's own notes. -/
theorem rdKeeps_modify {al : Allow} (f : Work → Work) (hf : ∀ w, (f w).th = w.th) : RdKeeps al (modify f : Rd Unit) := by
  intro w v w' h
  cases h
  rw [hf]
  exact moved_refl al _

theorem rdKeeps_note {al : Allow} (t : Trap) : RdKeeps al (noteRd t) := rdKeeps_modify _ (fun _ => rfl)

theorem rdKeeps_settle {al : Allow} : RdKeeps al settleRd := by
  intro w v w' h
  rw [settle_ok h]
  exact moved_refl al _

theorem rdKeeps_late {α : Type} {al : Allow} {x : Rd α} (h : RdKeeps al x) : RdKeeps al (readLate x) := by
  intro w v w' e
  change (match x w with
    | .ok (v, w') => Except.ok (some v, w')
    | .error (Stop.trap t) =>
      if trapRank t.code = 1 then .ok (none, { w with note := some (firstTrap w.note t) }) else .error (Stop.trap t)
    | .error e => .error e) = .ok (v, w') at e
  split at e
  · rename_i y w1 hx
    cases e
    exact h _ _ _ hx
  · split at e
    · cases e
      exact moved_refl al _
    · cases e
  · cases e

theorem rdKeeps_touch {al : Allow} (va : Nat) : RdKeeps al (touch va) := by
  intro w v w' h
  cases h
  exact moved_refl al _

theorem rdKeeps_streamDone {al : Allow} (i : Nat) (b : Stream) (h : i ∈ al.streams) : RdKeeps al (streamDone i b) := by
  intro w v w' e
  cases e
  exact moved_stream _ _ _ h

theorem rdKeeps_ite {α : Type} {al : Allow} {p : Prop} [Decidable p] {a b : Rd α} (ha : RdKeeps al a) (hb : RdKeeps al b) :
    RdKeeps al (if p then a else b) := by
  split <;> assumption

theorem rdKeeps_nextWord {al : Allow} (h : al.draws = true) : RdKeeps al nextWord := by
  intro w v w' e
  unfold nextWord at e
  dsimp only [StateT.run_bind, StateT.run_get, Bind.bind, Except.bind, StateT.run, get, getThe, MonadStateOf.get, StateT.get,
    StateT.bind, set, StateT.set, pure, Except.pure, StateT.pure] at e
  simp only [Except.ok.injEq, Prod.mk.injEq] at e
  obtain ⟨-, rfl⟩ := e
  refine ⟨?_, fun _ _ => ?_, fun x => absurd (h.symm.trans x) (by simp), fun _ => ?_⟩
  all_goals (dsimp only; split <;> rfl)

/-- What a reading gives. -/
def RdGives {α : Type} (P : α → Prop) (rd : Rd α) : Prop := ∀ w v w', rd.run w = .ok (v, w') → P v

theorem rdGives_pure {α : Type} {P : α → Prop} {a : α} (h : P a) : RdGives P (pure a) := by
  intro w v w' e
  cases e
  exact h

theorem rdGives_bind {α β : Type} {P : β → Prop} {m : Rd α} {f : α → Rd β} (hf : ∀ a, RdGives P (f a)) :
    RdGives P (m >>= f) := by
  intro w v w' h
  obtain ⟨a, w1, hx, h2⟩ := rd_bind h
  exact hf a w1 v w' h2

/-- Where field D leads is within what the instruction may change (R53). -/
theorem planD_ok {al : Allow} {s : State} {cx : Cx} {code n : Nat} (hd : DestOk al code n) {w w' : Work} {p : Plan}
    (h : (planD s cx code).run w = .ok (p, w')) : Moved al w.th w'.th ∧ PlanOk al w'.th.wb n p := by
  unfold planD at h
  simp only [StateT.run_bind] at h
  change (do
    let __do_lift ← (Except.ok (w, w) : Except Stop (Work × Work))
    _) = _ at h
  simp only [bind, Except.bind] at h
  split at h
  · rename_i hc
    cases h
    exact ⟨moved_refl al _, destOk_regs hd hc⟩
  · split at h
    · rename_i h1 h2
      cases h
      exact ⟨moved_refl al _, destOk_scal hd (by omega) h2⟩
    · split at h
      · rename_i h1 h2 h3
        have hs : code - 112 ∈ al.streams := hd.choose_spec.2.2.2 (by omega) h3
        have hk : ∀ b : Stream, RdKeeps al (do
            let (addr, locs) ← liftT (streamLocs s cx b .write)
            if !b.scratch then touch addr
            streamDone (code - 112) b
            pure (Plan.strm b addr locs)) := fun b => rdKeeps_bind (rdKeeps_liftT _) (fun x => by
          obtain ⟨addr, locs⟩ := x
          dsimp only
          have hq : RdKeeps al (do streamDone (code - 112) b; pure (Plan.strm b addr locs)) :=
            rdKeeps_bind (rdKeeps_streamDone _ _ hs) (fun _ => rdKeeps_pure _)
          split
          · exact rdKeeps_bind (rdKeeps_touch _) (fun _ => hq)
          · exact hq)
        have hv : ∀ b : Stream, RdGives (fun p => al.toStream = true ∧ ∃ b a l, p = Plan.strm b a l) (do
            let (addr, locs) ← liftT (streamLocs s cx b .write)
            if !b.scratch then touch addr
            streamDone (code - 112) b
            pure (Plan.strm b addr locs)) := fun b => rdGives_bind (fun x => by
          obtain ⟨addr, locs⟩ := x
          dsimp only
          have hq : RdGives (fun p => al.toStream = true ∧ ∃ b a l, p = Plan.strm b a l)
              (do streamDone (code - 112) b; pure (Plan.strm b addr locs)) :=
            rdGives_bind (fun _ => rdGives_pure ⟨destOk_strm hd (by omega) h3, b, addr, locs, rfl⟩)
          split
          · exact rdGives_bind (fun _ => hq)
          · exact hq)
        cases hb : (streamReg w.th (code - 112)).bind with
        | none =>
          simp only [hb] at h
          cases h
        | some b =>
          simp only [hb] at h
          split at h
          · cases h
          · refine ⟨hk b w p w' h, ?_⟩
            obtain ⟨h5, b', a', l', rfl⟩ := hv b w p w' h
            exact h5
      · cases h
        exact ⟨moved_refl al _, trivial⟩

/-! ### The lane shape -/

/-- What one participant has read: its sources, then where field D leads. -/
theorem readOne_ok {α : Type} {s : State} {cx : Cx} {rd : Nat → Rd α} {hasD : Bool} {tid : Nat} {g : Got α}
    (h : readOne s cx rd hasD tid = .ok g) : g.tid = tid ∧ ∃ w w1, w.th = thread cx.g tid ∧ (rd tid).run w = .ok (g.val, w1)
      ∧ (hasD = true → (planD s cx cx.f.d.toNat).run w1 = .ok (g.plan, g.work))
      ∧ (hasD = false → g.work = w1 ∧ g.plan = .none) := by
  unfold readOne at h
  dsimp only at h
  split at h
  · cases h
  · split at h
    · cases h
    · split at h
      · cases h
      · cases h
      · split at h
        · cases h
        · rename_i v p w hx
          cases h
          refine ⟨rfl, ?_⟩
          obtain ⟨a, w1, ha, h2⟩ := rd_bind hx
          cases hasD with
          | true =>
            rw [if_pos rfl] at h2
            obtain ⟨q, w2, hp, h3⟩ := rd_bind h2
            obtain ⟨u, w3, h4, h5⟩ := rd_bind h3
            cases h5
            cases settle_ok h4
            exact ⟨_, w1, rfl, ha, fun _ => hp, by simp⟩
          | false =>
            obtain ⟨q, w2, hp, h3⟩ := rd_bind h2
            cases hp
            obtain ⟨u, w3, h4, h5⟩ := rd_bind h3
            cases h5
            cases settle_ok h4
            exact ⟨_, _, rfl, ha, by simp, fun _ => ⟨rfl, rfl⟩⟩

theorem readOne_keeps {α : Type} {al : Allow} {s : State} {cx : Cx} {rd : Nat → Rd α} {hasD : Bool} {tid n : Nat} {g : Got α}
    (hrd : ∀ tid, RdKeeps al (rd tid)) (hd : hasD = true → DestOk al cx.f.d.toNat n) (h : readOne s cx rd hasD tid = .ok g) :
    g.tid = tid ∧ Moved al (thread cx.g tid) g.work.th ∧ PlanOk al g.work.th.wb n g.plan := by
  obtain ⟨h1, w, w1, hw, hr, hy, hn⟩ := readOne_ok h
  have h2 := hrd tid _ _ _ hr
  rw [hw] at h2
  refine ⟨h1, ?_⟩
  cases hasD with
  | true =>
    have h4 := planD_ok (hd rfl) (hy rfl)
    exact ⟨moved_trans h2 h4.1, h4.2⟩
  | false =>
    obtain ⟨e1, e2⟩ := hn rfl
    rw [e1, e2]
    exact ⟨h2, trivial⟩

theorem readAll_got {α : Type} {s : State} {cx : Cx} {rd : Nat → Rd α} {hasD : Bool} {ts : List Nat} :
    (∀ g ∈ (readAll s cx rd hasD ts).got, ∃ t ∈ ts, readOne s cx rd hasD t = .ok g)
      ∧ ∀ x ∈ (readAll s cx rd hasD ts).traps, x.1 ∈ ts := by
  induction ts with
  | nil => simp [readAll]
  | cons t ts ih =>
    simp only [readAll]
    split
    · simp
    · refine ⟨fun g hg => ?_, fun x hx => ?_⟩
      · obtain ⟨t', ht', e⟩ := ih.1 g hg
        exact ⟨t', List.mem_cons_of_mem _ ht', e⟩
      · simp only [List.mem_cons] at hx
        rcases hx with rfl | hx
        · exact List.mem_cons_self
        · exact List.mem_cons_of_mem _ (ih.2 x hx)
    · rename_i g0 e0
      refine ⟨fun g hg => ?_, fun x hx => List.mem_cons_of_mem _ (ih.2 x hx)⟩
      simp only [List.mem_cons] at hg
      rcases hg with rfl | hg
      · exact ⟨t, List.mem_cons_self, e0⟩
      · obtain ⟨t', ht', e⟩ := ih.1 g hg
        exact ⟨t', List.mem_cons_of_mem _ ht', e⟩

theorem othersD_traps (s : State) (cx : Cx) (n : Nat) (ts : List Nat) : ∀ x ∈ (othersD s cx n ts).2, x.1 ∈ ts := by
  unfold othersD
  dsimp only
  generalize hf : (fun (x : Bool × List (Nat × Trap)) (t : Nat) => _) = f
  have hone : ∀ p xs t, ∀ x ∈ (f (p, xs) t).2, x ∈ xs ∨ x.1 = t := by
    intro p xs t x hx
    subst hf
    have happ : ∀ tr : Trap, x ∈ xs ++ [(t, tr)] → x ∈ xs ∨ x.1 = t := by
      intro tr hx
      simp only [List.mem_append, List.mem_singleton] at hx
      rcases hx with h | rfl
      · exact Or.inl h
      · exact Or.inr rfl
    dsimp only at hx
    split at hx
    · exact happ _ hx
    · split at hx
      · split at hx
        · exact happ _ hx
        · exact Or.inl hx
      · exact Or.inl hx
  suffices hh : ∀ (l : List Nat) (p : Bool) (xs : List (Nat × Trap)), ∀ x ∈ (l.foldl f (p, xs)).2, x ∈ xs ∨ x.1 ∈ l by
    intro x hx
    rcases hh ts false [] x hx with h | h
    · cases h
    · exact h
  intro l
  induction l with
  | nil => intro p xs x hx; exact Or.inl hx
  | cons t l ih =>
    intro p xs x hx
    rw [List.foldl_cons] at hx
    rcases ih (f (p, xs) t).1 (f (p, xs) t).2 x hx with h | h
    · rcases hone p xs t x h with h | h
      · exact Or.inl h
      · exact Or.inr (h ▸ List.mem_cons_self)
    · exact Or.inr (List.mem_cons_of_mem _ h)

theorem uniformOuts_ok {al : Allow} {run : List Nat} {s : State} {cx : Cx} {hasD : Bool} {o : Out} {ts : List Nat}
    (hd : hasD = true → DestOk al cx.f.d.toNat o.words.length) (hu : ∀ t, Retired al t (o.upd t))
    (hq : ∀ q ∈ o.preds, q.1 ∈ al.preds) (hts : ∀ t ∈ ts, t ∈ run) : ∀ x ∈ uniformOuts s cx hasD o ts, GotOk al run cx.g x := by
  intro x hx
  unfold uniformOuts at hx
  simp only [List.mem_filterMap] at hx
  obtain ⟨t, ht, e⟩ := hx
  split at e
  · cases e
    exact ⟨hts t ht, retired_refl al _, trivial, hu _, hq⟩
  · rename_i hc
    have hD : hasD = true := by cases hasD <;> simp_all
    split at e
    · rename_i p w hp
      cases e
      have h2 := planD_ok (hd hD) hp
      exact ⟨hts t ht, retired_of_moved h2.1, h2.2, hu _, hq⟩
    · cases e

theorem trapped_trans {a b c : Thread} (h : Trapped a b) (k : Trapped b c) : Trapped a c := by
  unfold Trapped at *
  refine k.trans ?_
  rw [h]

section
variable {K : Op → Prop} {cnt : Bool} {al : Allow} {s t : State} {cx : Cx} {run : List Nat}

/-- Traps of threads that have done nothing else. -/
theorem framed_trapRun (H : Framed (fun i b => Trapped (thread cx.g i) b) K cnt al run cx.gid cx.g s t)
    (u : Bool) (ts : List (Nat × Trap)) (hi : ∀ x ∈ ts, x.1 ∈ run) :
    Framed (fun i b => Trapped (thread cx.g i) b) K cnt al run cx.gid cx.g s (trapRun t cx u ts) := by
  unfold trapRun
  have H1 := framed_foldl (f := fun s va => countMiss s cx.gid cx.g.core cx.ctx va) (faultVas ts)
    (fun t va _ H => framed_countMiss H _ _ _) t H
  generalize (faultVas ts).foldl (fun s va => countMiss s cx.gid cx.g.core cx.ctx va) t = t' at H1 ⊢
  exact framed_takeTraps (R := fun i b => Trapped (thread cx.g i) b) H1 _ _ _ _ ts (fun _ _ _ _ h k => trapped_trans h k) hi

theorem trapped_pc (g : Group) (i : Nat) (b : Thread) (pc : W64) (h : Trapped (thread g i) b) :
    Trapped (thread g i) { b with pc := pc } := by
  unfold Trapped at *; rw [h]

/-- A relation that a trapped thread meets, and that no program counter breaks. -/
def Loose (R : Nat → Thread → Prop) (g : Group) : Prop :=
  (∀ i b, Trapped (thread g i) b → R i b) ∧ ∀ i (b : Thread) pc, R i b → R i { b with pc := pc }

theorem framed_trapped {R : Nat → Thread → Prop} (hR : Loose R cx.g)
    (H : Framed (fun i b => Trapped (thread cx.g i) b) K cnt al run cx.gid cx.g s t) :
    Framed R K cnt al run cx.gid cx.g s t := framed_mono H hR.1

theorem framed_start (hg : getGroup s cx.gid = some cx.g) (hf : cx.g.flight = some cx.fl) (hr : cx.fl.run ⊆ run) :
    Framed (fun i b => Trapped (thread cx.g i) b) K cnt al run cx.gid cx.g s s :=
  framed_refl hg (fun f e => by rw [hf] at e; cases e; exact hr) (fun _ => rfl)

/-- A stall changes only a count. -/
theorem framed_stall {R : Nat → Thread → Prop} (H : Framed R K cnt al run cx.gid cx.g s t) (b : Bool) :
    Framed R K cnt al run cx.gid cx.g s (stallRun t cx b) := by
  unfold stallRun
  refine framed_modGroup H _ (fun _ => rfl) (fun _ _ _ => ⟨rfl, Iff.rfl, Iff.rfl⟩) (fun _ _ => rfl) (fun h fl e => ?_)
  simp only [stallGroup, Option.map_eq_some_iff] at e
  obtain ⟨fl', e1, rfl⟩ := e
  exact ⟨fl', e1, fun _ hx => hx⟩

/-- A trap of the whole run. -/
theorem framed_trapWhole {R : Nat → Thread → Prop} (hR : Loose R cx.g) (hg : getGroup s cx.gid = some cx.g)
    (hf : cx.g.flight = some cx.fl) (hr : cx.fl.run ⊆ run) (u : Bool) (tr : Trap) :
    Framed R K cnt al run cx.gid cx.g s (trapWhole s cx u tr) := by
  unfold trapWhole
  refine framed_advance hR.2 (framed_trapped hR (framed_trapRun (framed_start hg hf hr) u _ ?_)) _
  intro x hx
  simp only [List.mem_map] at hx
  obtain ⟨y, hy, rfl⟩ := hx
  exact hr hy

end

theorem laneRel_loose (al : Allow) (g : Group) : Loose (LaneRel al g) g :=
  ⟨fun _ _ h => Or.inr h, fun i b pc h => laneRel_pc i b pc h⟩

/-- Some threads of the run have passed its slot. -/
theorem framed_passed {R : Nat → Thread → Prop} {K : Op → Prop} {cnt : Bool} {al : Allow} {run : List Nat} {gid : Nat} {g : Group}
    {s t : State} (H : Framed R K cnt al run gid g s t) (f : Group → List Nat) :
    Framed R K cnt al run gid g s (modGroup t gid (fun g => passed g (f g))) := by
  refine framed_modGroup H (fun h => passed h (f h)) (fun _ => rfl) (fun _ _ _ => ⟨rfl, Iff.rfl, Iff.rfl⟩) (fun _ _ => rfl) (fun h fl e => ?_)
  simp only [passed, Option.map_eq_some_iff] at e
  obtain ⟨fl', e1, rfl⟩ := e
  exact ⟨fl', e1, fun _ hx => hx⟩

theorem todo_sub (cx : Cx) : cx.todo ⊆ cx.low :: cx.fl.run := fun _ hx => List.mem_cons_of_mem _ (List.mem_filter.1 hx).1

/-- The frame of the lane shape. -/
theorem laneExec_framed {α : Type} {al : Allow} {s : State} {cx : Cx} {hasD : Bool} {rd : Nat → Rd α}
    {fin : List (Got α) → Got α → Out} {whole : Bool} (n : Nat) (hg : getGroup s cx.gid = some cx.g) (hf : cx.g.flight = some cx.fl)
    (hrd : ∀ tid, RdKeeps al (rd tid)) (hd : hasD = true → DestOk al cx.f.d.toNat n)
    (hfin : ∀ gs tid g, readOne s cx rd hasD tid = .ok g → (hasD = true → (fin gs g).words.length = n)
      ∧ (Retired al g.work.th ((fin gs g).upd g.work.th) ∧ (cx.uni = true → ∀ t, Retired al t ((fin gs g).upd t))) ∧ ∀ q ∈ (fin gs g).preds, q.1 ∈ al.preds) :
    Framed (LaneRel al cx.g) (ResultOk al (cx.low :: cx.fl.run) cx.gid cx.g) false al (cx.low :: cx.fl.run) cx.gid cx.g s (laneExec s cx hasD rd fin whole) := by
  have hr : cx.fl.run ⊆ cx.low :: cx.fl.run := fun x hx => List.mem_cons_of_mem _ hx
  have H0 := framed_start (al := al) (K := ResultOk al (cx.low :: cx.fl.run) cx.gid cx.g) (cnt := false) hg hf hr
  have hL := laneRel_loose al cx.g
  have hpc := fun i b pc (h : LaneRel al cx.g i b) => laneRel_pc i b pc h
  have hplan : ∀ (g : Got α) (gs : List (Got α)) (tid : Nat), readOne s cx rd hasD tid = .ok g → tid ∈ cx.low :: cx.fl.run →
      GotOk al (cx.low :: cx.fl.run) cx.g { g with val := fin gs g } := by
    intro g gs tid e hm
    obtain ⟨h1, h2, h3⟩ := readOne_keeps hrd hd e
    obtain ⟨h4, h5, h6⟩ := hfin gs tid g e
    refine ⟨h1 ▸ hm, h1 ▸ retired_of_moved h2, ?_, h5.1, h6⟩
    cases hasD with
    | true => rw [h4 rfl]; exact h3
    | false =>
      obtain ⟨-, w, w1, -, -, -, hn⟩ := readOne_ok e
      have hnp : g.plan = .none := (hn rfl).2
      dsimp only
      rw [hnp]; trivial
  unfold laneExec
  split
  · rename_i hu
    dsimp only
    have hm := readAll_got (s := s) (cx := cx) (rd := rd) (hasD := hasD) (ts := [cx.low])
    split
    · exact framed_stall (framed_trapped hL H0) _
    · exact framed_trapWhole hL hg hf hr _ _
    · rename_i g gs _ _ hgot
      obtain ⟨t, ht, e⟩ := hm.1 g (by rw [hgot]; exact List.mem_cons_self)
      simp only [List.mem_singleton] at ht
      subst ht
      have hrest : ∀ x ∈ cx.fl.run.filter (· ≠ g.tid), x ∈ cx.low :: cx.fl.run := fun x hx => hr (List.mem_filter.1 hx).1
      have htr : ∀ x ∈ (if hasD then othersD s cx (fin [g] g).words.length (cx.fl.run.filter (· ≠ g.tid)) else (false, [])).2,
          x.1 ∈ cx.low :: cx.fl.run := by
        intro x hx
        split at hx
        · exact hrest _ (othersD_traps _ _ _ _ x hx)
        · cases hx
      generalize (if hasD then othersD s cx (fin [g] g).words.length (cx.fl.run.filter (· ≠ g.tid)) else (false, [])) = pt at htr ⊢
      obtain ⟨pend, traps⟩ := pt
      dsimp only at htr ⊢
      split
      · exact framed_stall (framed_trapped hL H0) _
      · have H1 := framed_trapped hL (framed_trapRun (framed_touchAll H0 cx rfl
            (readAll s cx rd hasD [cx.low]).got) false traps htr)
        generalize trapRun (touchAll s cx (readAll s cx rd hasD [cx.low]).got) cx false traps = t1 at H1 ⊢
        refine framed_advance hpc (framed_commitAll H1 _ ?_) _
        intro x hx
        simp only [List.mem_cons] at hx
        obtain ⟨h4, h5, h6⟩ := hfin [g] cx.low g e
        rcases hx with rfl | hx
        · exact hplan g [g] cx.low e List.mem_cons_self
        · refine uniformOuts_ok (fun hD => ?_) (h5.2 hu) h6 (fun t ht => hrest t (List.mem_filter.1 ht).1) x hx
          rw [h4 hD]; exact hd hD
    · exact framed_advance hpc (framed_trapped hL H0) _
  · dsimp only
    have hm := readAll_got (s := s) (cx := cx) (rd := rd) (hasD := hasD) (ts := cx.todo)
    have HR : Framed (LaneRel al cx.g) (ResultOk al (cx.low :: cx.fl.run) cx.gid cx.g) false al (cx.low :: cx.fl.run) cx.gid cx.g s
        (laneRetire s cx (readAll s cx rd hasD cx.todo) fin) := by
      unfold laneRetire
      have H1 := framed_trapped hL (framed_trapRun (framed_touchAll H0 cx rfl
        (readAll s cx rd hasD cx.todo).got) false _ (fun x hx => todo_sub cx (hm.2 x hx)))
      generalize trapRun (touchAll s cx (readAll s cx rd hasD cx.todo).got) cx false _ = t1 at H1 ⊢
      refine framed_commitAll H1 _ ?_
      intro x hx
      simp only [List.mem_map] at hx
      obtain ⟨g, hgm, rfl⟩ := hx
      obtain ⟨t, ht, e⟩ := hm.1 g hgm
      exact hplan g _ t e (todo_sub cx ht)
    split
    · split
      · exact framed_stall (framed_trapped hL H0) _
      · exact framed_stall (framed_passed HR _) _
    · exact framed_advance hpc HR _

/-- The frame of the lane shape without a destination, for any relation that its update of a thread meets. -/
theorem laneExec_framed_upd {α : Type} {R : Nat → Thread → Prop} {K : Op → Prop} {al : Allow} {s : State} {cx : Cx}
    {rd : Nat → Rd α} {fin : List (Got α) → Got α → Out} {whole : Bool} (hR : Loose R cx.g) (hg : getGroup s cx.gid = some cx.g)
    (hf : cx.g.flight = some cx.fl)
    (hfin : ∀ gs tid g, readOne s cx rd false tid = .ok g → (fin gs g).preds = [] ∧ R tid ((fin gs g).upd g.work.th)
      ∧ (cx.uni = true → ∀ t, R t ((fin gs g).upd (thread cx.g t)))) :
    Framed R K false al (cx.low :: cx.fl.run) cx.gid cx.g s (laneExec s cx false rd fin whole) := by
  have hr : cx.fl.run ⊆ cx.low :: cx.fl.run := fun x hx => List.mem_cons_of_mem _ hx
  have H0 := framed_start (al := al) (K := K) (cnt := false) hg hf hr
  have hcommit : ∀ (l : List (Got Out)) (t : State) (b : Bool),
      (∀ x ∈ l, x.tid ∈ cx.low :: cx.fl.run ∧ x.plan = .none ∧ x.val.preds = [] ∧ R x.tid (x.val.upd x.work.th)) →
      Framed R K false al (cx.low :: cx.fl.run) cx.gid cx.g s t →
      Framed R K false al (cx.low :: cx.fl.run) cx.gid cx.g s
        (l.foldl (fun (acc : State × Bool) g => (commitOne cx acc.1 acc.2 g.tid g.work.th g.plan g.val, false)) (t, b)).1 := by
    intro l
    induction l with
    | nil => intro t b _ H; exact H
    | cons x l ih =>
      intro t b hx H
      obtain ⟨h1, h2, h3, h4⟩ := hx x List.mem_cons_self
      refine ih _ _ (fun y hy => hx y (List.mem_cons_of_mem _ hy)) ?_
      simp only [commitOne, h2, h3, List.foldl_nil]
      exact framed_modThread H h1 (fun _ => x.val.upd x.work.th) (fun _ _ => h4)
  have hone : ∀ (g : Got α) (gs : List (Got α)) (tid : Nat), readOne s cx rd false tid = .ok g →
      g.tid = tid ∧ g.plan = .none ∧ (fin gs g).preds = [] ∧ R tid ((fin gs g).upd g.work.th) := by
    intro g gs tid e
    obtain ⟨h1, w, w1, -, -, -, hn⟩ := readOne_ok e
    exact ⟨h1, (hn rfl).2, (hfin gs tid g e).1, (hfin gs tid g e).2.1⟩
  unfold laneExec
  split
  · rename_i hu
    dsimp only
    have hm := readAll_got (s := s) (cx := cx) (rd := rd) (hasD := false) (ts := [cx.low])
    split
    · exact framed_stall (framed_trapped hR H0) _
    · exact framed_trapWhole hR hg hf hr _ _
    · rename_i g gs _ _ hgot
      obtain ⟨t, ht, e⟩ := hm.1 g (by rw [hgot]; exact List.mem_cons_self)
      simp only [List.mem_singleton] at ht
      subst ht
      obtain ⟨h1, h2, h3, h4⟩ := hone g [g] cx.low e
      simp only [Bool.false_eq_true, if_false]
      have H1 := framed_trapped hR (framed_trapRun (framed_touchAll H0 cx rfl
          (readAll s cx rd false [cx.low]).got) false [] (fun x hx => nomatch hx))
      generalize trapRun (touchAll s cx (readAll s cx rd false [cx.low]).got) cx false [] = t1 at H1 ⊢
      refine framed_advance hR.2 (hcommit _ _ _ ?_ H1) _
      intro x hx
      simp only [List.mem_cons] at hx
      rcases hx with rfl | hx
      · refine ⟨?_, h2, h3, ?_⟩
        · exact h1 ▸ List.mem_cons_self
        · dsimp only; rw [h1]; exact h4
      · unfold uniformOuts at hx
        simp only [List.mem_filterMap] at hx
        obtain ⟨t, ht, e2⟩ := hx
        simp only [Bool.not_false, true_or, if_true] at e2
        cases e2
        exact ⟨hr (List.mem_filter.1 (List.mem_filter.1 ht).1).1, rfl, h3, (hfin [g] cx.low g e).2.2 hu t⟩
    · exact framed_advance hR.2 (framed_trapped hR H0) _
  · dsimp only
    have hm := readAll_got (s := s) (cx := cx) (rd := rd) (hasD := false) (ts := cx.todo)
    have HR : Framed R K false al (cx.low :: cx.fl.run) cx.gid cx.g s (laneRetire s cx (readAll s cx rd false cx.todo) fin) := by
      unfold laneRetire
      have H1 := framed_trapped hR (framed_trapRun (framed_touchAll H0 cx rfl
        (readAll s cx rd false cx.todo).got) false _ (fun x hx => todo_sub cx (hm.2 x hx)))
      generalize trapRun (touchAll s cx (readAll s cx rd false cx.todo).got) cx false _ = t1 at H1 ⊢
      refine hcommit _ _ _ ?_ H1
      intro x hx
      simp only [List.mem_map] at hx
      obtain ⟨g, hgm, rfl⟩ := hx
      obtain ⟨t, ht, e⟩ := hm.1 g hgm
      obtain ⟨h1, h2, h3, h4⟩ := hone g _ t e
      exact ⟨h1 ▸ todo_sub cx ht, h2, h3, h1 ▸ h4⟩
    split
    · split
      · exact framed_stall (framed_trapped hR H0) _
      · exact framed_stall (framed_passed HR _) _
    · exact framed_advance hR.2 HR _

/-! ### The shape of an instruction whose operation goes in flight -/

theorem issued_refl (al : Allow) (t : Thread) : Issued al t t := ⟨rfl, fun _ _ => Iff.rfl, fun _ _ => rfl, fun _ => ⟨rfl, rfl⟩⟩

theorem issued_of_moved {al : Allow} (hk : al.key = false) {a b : Thread} (h : Moved al a b) : Issued al a b := by
  obtain ⟨h1, h4, h5, h6⟩ := h
  have e1 := congrArg Thread.pend h1
  refine ⟨h1.trans ?_, fun k _ => ?_, h4, h5⟩
  · rw [h6 hk, h1]
  · rw [e1]

theorem issued_pend {al : Allow} {a b : Thread} (ks : List Nat) (hk : ∀ k ∈ ks, k ∈ al.regs a.wb) (h : Issued al a b) :
    Issued al a { b with pend := sunion b.pend ks } := by
  obtain ⟨h1, h2, h3, h4⟩ := h
  refine ⟨?_, fun k hx => ?_, h3, h4⟩
  · rw [h1]
  · have : k ∉ ks := fun hy => hx (hk k hy)
    simp [mem_sunion, this, h2 k hx]

theorem issued_fence {al : Allow} {a b : Thread} (f : List Dep) (h : Issued al a b) : Issued al a { b with fence := f } := by
  obtain ⟨h1, h2⟩ := h
  exact ⟨by rw [h1], h2⟩

/-- What the threads of a run may have become: their operation is in flight, or they have trapped. -/
def IssueRel (al : Allow) (g : Group) (k : Nat) (b : Thread) : Prop := Issued al (thread g k) b ∨ Trapped (thread g k) b

theorem issueRel_loose (al : Allow) (g : Group) : Loose (IssueRel al g) g := by
  refine ⟨fun _ _ h => Or.inr h, fun i b pc h => ?_⟩
  rcases h with h | h
  · obtain ⟨h1, h2⟩ := h
    exact Or.inl ⟨by rw [h1], h2⟩
  · right; unfold Trapped at *; rw [h]

section
variable {K : Op → Prop} {al : Allow} {s t : State} {cx : Cx} {run : List Nat}

/-- Destinations within what the instruction may change. -/
def DstOk (al : Allow) (run : List Nat) (g : Group) (gid : Nat) (d : Dst) : Prop :=
  d.gid = gid ∧ (∀ r ∈ d.regs, r.1 ∈ run ∧ ∀ k ∈ rangeFrom r.2 d.n, k ∈ al.regs (thread g r.1).wb)
    ∧ ∀ k, d.scal = some k → k ∈ al.scal

theorem dstFor_ok {n : Nat} (hd : DestOk al cx.f.d.toNat n) {ts : List Nat} (ht : ∀ i ∈ ts, i ∈ run) (first : Bool) :
    DstOk al run cx.g cx.gid (dstFor cx n ts first) := by
  unfold dstFor
  dsimp only
  split
  · rename_i hc
    refine ⟨rfl, fun r hr => ?_, fun k hk => by simp at hk⟩
    simp only [List.mem_map] at hr
    obtain ⟨i, hi, rfl⟩ := hr
    exact ⟨ht i hi, destOk_regs hd hc⟩
  · split
    · rename_i h1 h2
      refine ⟨rfl, by simp, fun k hk => ?_⟩
      simp only [Option.some.injEq] at hk
      exact hk ▸ destOk_scal hd (by omega) h2.1
    · exact ⟨rfl, by simp, by simp⟩

end

/-- What the threads of a run have become once those of a list have trapped: the others have their operation in flight. -/
def SplitRel (al : Allow) (g : Group) (T : List Nat) (k : Nat) (b : Thread) : Prop :=
  (k ∈ T → Trapped (thread g k) b) ∧ (k ∉ T → Issued al (thread g k) b)

theorem issueRel_of_split {al : Allow} {g : Group} {T : List Nat} (k : Nat) (b : Thread) (h : SplitRel al g T k b) : IssueRel al g k b := by
  by_cases hk : k ∈ T
  · exact Or.inr (h.1 hk)
  · exact Or.inl (h.2 hk)

section
variable {K : Op → Prop} {al : Allow} {s t : State} {cx : Cx} {run T : List Nat}

/-- Traps of some threads. -/
theorem split_traps (hg : getGroup s cx.gid = some cx.g) (hf : cx.g.flight = some cx.fl) (hr : cx.fl.run ⊆ run) {α : Type}
    (gs : List (Got α)) (u : Bool) (ts : List (Nat × Trap)) (hi : ∀ x ∈ ts, x.1 ∈ run) :
    Framed (SplitRel al cx.g (ts.map (·.1))) K true al run cx.gid cx.g s (trapRun (touchAll s cx gs) cx u ts) := by
  have H0 : Framed (fun i b => (i ∈ ts.map (·.1) → Trapped (thread cx.g i) b) ∧ (i ∉ ts.map (·.1) → b = thread cx.g i)) K true al run
      cx.gid cx.g s s := framed_refl hg (fun f e => by rw [hf] at e; cases e; exact hr) (fun _ => ⟨fun _ => rfl, fun _ => rfl⟩)
  unfold trapRun
  have H1 := framed_foldl (f := fun s va => countMiss s cx.gid cx.g.core cx.ctx va) (faultVas ts)
    (fun t va _ H => framed_countMiss H _ _ _) _ (framed_touchAll H0 cx rfl gs)
  generalize (faultVas ts).foldl (fun s va => countMiss s cx.gid cx.g.core cx.ctx va) (touchAll s cx gs) = t' at H1 ⊢
  refine framed_mono (framed_takeTraps H1 _ _ _ _ ts (fun x hx b b' h k => ?_) hi) (fun i b h => ?_)
  · have hm : x.1 ∈ ts.map (·.1) := List.mem_map.2 ⟨x, hx, rfl⟩
    exact ⟨fun _ => trapped_trans (h.1 hm) k, fun hn => absurd hm hn⟩
  · refine ⟨h.1, fun hn => ?_⟩
    rw [h.2 hn]; exact issued_refl _ _

theorem setPending_framed (H : Framed (SplitRel al cx.g T) K true al run cx.gid cx.g s t) {d : Dst} (hd : DstOk al run cx.g cx.gid d)
    (hT : ∀ r ∈ d.regs, r.1 ∉ T) : Framed (SplitRel al cx.g T) K true al run cx.gid cx.g s (setPending t d) := by
  obtain ⟨hgid, hregs, hscal⟩ := hd
  have key : ∀ (l : List (Nat × Nat)), (∀ r ∈ l, r ∈ d.regs) → ∀ t, Framed (SplitRel al cx.g T) K true al run cx.gid cx.g s t →
      Framed (SplitRel al cx.g T) K true al run cx.gid cx.g s (modGroup t cx.gid (fun g => l.foldl (fun g r =>
        setThread g r.1 { thread g r.1 with pend := sunion (thread g r.1).pend (rangeFrom r.2 d.n) }) g)) := by
    intro l
    induction l with
    | nil =>
      intro _ t H
      exact framed_modGroup H _ (fun _ => rfl) (fun _ _ _ => ⟨rfl, Iff.rfl, Iff.rfl⟩) (fun _ _ => rfl) (fun h fl e => ⟨fl, e, fun _ hx => hx⟩)
    | cons r l ih =>
      intro hl t H
      have hr := hl r List.mem_cons_self
      have h1 := framed_modThread H (hregs r hr).1 (fun th => { th with pend := sunion th.pend (rangeFrom r.2 d.n) }) (fun b hb =>
        ⟨fun hm => absurd hm (hT r hr), fun hn => issued_pend _ (hregs r hr).2 (hb.2 hn)⟩)
      have h2 := ih (fun x hx => hl x (List.mem_cons_of_mem _ hx)) _ h1
      have e : modGroup (modThread t cx.gid r.1 (fun th => { th with pend := sunion th.pend (rangeFrom r.2 d.n) })) cx.gid
          (fun g => l.foldl (fun g r => setThread g r.1 { thread g r.1 with pend := sunion (thread g r.1).pend (rangeFrom r.2 d.n) }) g)
          = modGroup t cx.gid (fun g => (r :: l).foldl (fun g r =>
            setThread g r.1 { thread g r.1 with pend := sunion (thread g r.1).pend (rangeFrom r.2 d.n) }) g) := by
        unfold modThread modGroup
        simp only [mmod_mmod]
        rfl
      rw [← e]; exact h2
  unfold setPending
  rw [hgid]
  cases hs : d.scal with
  | none => exact key d.regs (fun _ h => h) t H
  | some k =>
    have h2 := framed_modGroup (key d.regs (fun _ h => h) t H) (fun g => { g with spend := sinsert k g.spend }) (fun _ => rfl)
      (fun h j hj => ⟨rfl, by
        have : j ≠ k := fun e => hj (e ▸ hscal k hs)
        simp [mem_sinsert, this]⟩) (fun _ _ => rfl) (fun h fl e => ⟨fl, e, fun _ hx => hx⟩)
    have e : ∀ f : Group → Group, modGroup (modGroup t cx.gid f) cx.gid (fun g => { g with spend := sinsert k g.spend })
        = modGroup t cx.gid (fun g => { f g with spend := sinsert k (f g).spend }) := by
      intro f
      unfold modGroup
      simp only [mmod_mmod]
    rw [e] at h2
    exact h2

end

/-- The operations that an instruction of a run issues. -/
def IssuedOp (kind : OpKind → Bool) (run : List Nat) (gid : Nat) (o : Op) : Prop :=
  kind o.kind = true ∧ ∃ k ∈ run, o.who = .thread { gid := gid, tid := k }

section
variable {kind : OpKind → Bool} {al : Allow} {s t : State} {cx : Cx} {run T : List Nat}

theorem issueOne_framed (H : Framed (SplitRel al cx.g T) (IssuedOp kind run cx.gid) true al run cx.gid cx.g s t) (tok flag : Nat) {d : Dst}
    {g : Got Req} (hi : g.tid ∈ run) (hn : g.tid ∉ T) (hth : Issued al (thread cx.g g.tid) g.work.th)
    (hd : DstOk al run cx.g cx.gid d) (hT : ∀ r ∈ d.regs, r.1 ∉ T) (hp : ∀ s k, g.val.prep s k = (s, k)) (hk : kind (g.val.kind d) = true)
    (hl : g.val.list ≠ [] → kind (.load g.val.list 0 { gid := cx.gid }) = true)
    (hr : ∀ i ∈ cx.fl.run, i ∈ run ∧ i ∉ T) :
    Framed (SplitRel al cx.g T) (IssuedOp kind run cx.gid) true al run cx.gid cx.g s (issueOne t cx tok flag d g) := by
  have h1 := framed_modThread H hi (fun _ => g.work.th) (fun b _ => ⟨fun hm => absurd hm hn, fun _ => hth⟩)
  have h2 := setPending_framed h1 hd hT
  unfold issueOne
  simp only [hp]
  have h3 := framed_addOp h2
    { id := 0, who := cx.who g.tid, ctx := cx.ctx, launch := cx.g.launch, core := cx.g.core, tok := tok, flag := flag,
      opcode := cx.opcode, run := if cx.uni then cx.fl.run else [],
      deps := cx.fence g.tid ++ runOverlap t cx g.tid g.val.locs g.val.stores ++ g.val.deps
        ++ performed (g.val.after tok t),
      kind := g.val.kind d } ⟨hk, g.tid, hi, rfl⟩
  generalize (setPending (modThread t cx.gid g.tid fun _ => g.work.th) d).nextId = id
  generalize addOp (setPending (modThread t cx.gid g.tid fun _ => g.work.th) d) _ = t3 at h3 ⊢
  have h4 : Framed (SplitRel al cx.g T) (IssuedOp kind run cx.gid) true al run cx.gid cx.g s (if g.val.list.isEmpty then t3 else addOp t3
      { id := 0, who := cx.who g.tid, ctx := cx.ctx, launch := cx.g.launch, core := cx.g.core, tok := tok + 1,
        flag := hSeta cx.fl.w0, opcode := cx.opcode, kind := .load g.val.list 0 { gid := cx.gid } }) := by
    split
    · exact h3
    · rename_i he
      exact framed_addOp h3 _ ⟨hl (by simpa using he), g.tid, hi, rfl⟩
  generalize (if g.val.list.isEmpty then t3 else _) = t4 at h4 ⊢
  split
  · refine framed_foldl _ (fun t i hm H => ?_) _ h4
    have hm' : i ∈ run ∧ i ∉ T := by
      unfold Cx.by at hm
      split at hm
      · exact hr i hm
      · simp only [List.mem_singleton] at hm
        subst hm; exact ⟨hi, hn⟩
    unfold addFence
    exact framed_modThread H hm'.1 _ (fun b hb => ⟨fun h => absurd h hm'.2, fun h => issued_fence _ (hb.2 h)⟩)
  · exact h4

/-- A counted execution begins, or more operations join it. -/
theorem framed_toks {R : Nat → Thread → Prop} {K : Op → Prop} (H : Framed R K true al run cx.gid cx.g s t) (f : Group → Group)
    (hf : ∀ h, ∃ ts, f h = { h with toks := ts }) : Framed R K true al run cx.gid cx.g s (modGroup t cx.gid f) := by
  refine framed_modGroup H f (fun h => ?_) (fun h k _ => ?_) (fun _ e => by cases e) (fun h fl e => ?_)
  all_goals obtain ⟨ts, e1⟩ := hf h
  · rw [e1]
  · rw [e1]; exact ⟨rfl, Iff.rfl, Iff.rfl⟩
  · rw [e1] at e; exact ⟨fl, e, fun _ hx => hx⟩

theorem addTok_toks (h : Group) (id flag n : Nat) : ∃ ts, addTok h id flag n = { h with toks := ts } := by
  unfold addTok; split <;> exact ⟨_, rfl⟩

theorem beginCount_framed {R : Nat → Thread → Prop} {K : Op → Prop} (H : Framed R K true al run cx.gid cx.g s t) (flag n k : Nat) :
    Framed R K true al run cx.gid cx.g s (beginCount t cx flag n k) := by
  unfold beginCount
  split
  · refine framed_toks (framed_other H rfl) _ (fun h => ?_)
    obtain ⟨a, ea⟩ := addTok_toks h t.nextId flag n
    obtain ⟨b, eb⟩ := addTok_toks { h with toks := a } (t.nextId + 1) cx.seta k
    exact ⟨b, by rw [ea, eb]⟩
  · exact framed_toks H _ (fun h => ⟨_, rfl⟩)

/-- The limit on counts (R129). -/
theorem guard63_framed {R : Nat → Thread → Prop} {K : Op → Prop} {new : State} (H0 : Framed R K true al run cx.gid cx.g s s)
    (H : Framed R K true al run cx.gid cx.g s new) : Framed R K true al run cx.gid cx.g s (guard63 s new cx) := by
  unfold guard63
  split
  · exact H
  · split
    · exact framed_stall H0 _
    · exact H

/-- What is read without a destination. -/
theorem readOne_moved {α : Type} {rd : Nat → Rd α} {tid : Nat} {g : Got α} (hrd : ∀ tid, RdKeeps al (rd tid))
    (h : readOne s cx rd false tid = .ok g) : g.tid = tid ∧ Moved al (thread cx.g tid) g.work.th := by
  have := readOne_keeps (n := 0) hrd (fun e => by cases e) h
  exact ⟨this.1, this.2.1⟩

/-- A thread that has read does not trap. -/
theorem readAll_split {α : Type} {rd : Nat → Rd α} {hasD : Bool} {ts : List Nat} :
    ∀ x ∈ (readAll s cx rd hasD ts).traps, ∃ tr, readOne s cx rd hasD x.1 = .error (.trap tr) := by
  induction ts with
  | nil => simp [readAll]
  | cons t ts ih =>
    simp only [readAll]
    split
    · simp
    · rename_i tr e
      intro x hx
      simp only [List.mem_cons] at hx
      rcases hx with rfl | hx
      · exact ⟨tr, e⟩
      · exact ih x hx
    · exact ih

end

/-- The participants' operations go in flight. -/
theorem issueAll_framed {kind : OpKind → Bool} {al : Allow} {s t : State} {cx : Cx} {tok flag words : Nat} {hasD : Bool}
    {rd : Nat → Rd Req} {T : List Nat} (gs : List (Got Req)) (hu : cx.uni = false) (hkey : al.key = false)
    (hrd : ∀ tid, RdKeeps al (rd tid))
    (hreq : ∀ tid g, readOne s cx rd false tid = .ok g → (∀ s k, g.val.prep s k = (s, k)) ∧ (∀ d, kind (g.val.kind d) = true)
      ∧ (g.val.list ≠ [] → kind (.load g.val.list 0 { gid := cx.gid }) = true)
      ∧ (hasD = true → DestOk al cx.f.d.toNat (g.val.n.getD words)))
    (hgs : ∀ g ∈ gs, ∃ i ∈ cx.low :: cx.fl.run, readOne s cx rd false i = .ok g ∧ i ∉ T)
    (H : Framed (SplitRel al cx.g T) (IssuedOp kind (cx.low :: cx.fl.run) cx.gid) true al (cx.low :: cx.fl.run) cx.gid cx.g s t) :
    Framed (SplitRel al cx.g T) (IssuedOp kind (cx.low :: cx.fl.run) cx.gid) true al (cx.low :: cx.fl.run) cx.gid cx.g s
      (issueAll t cx tok flag words hasD gs) := by
  unfold issueAll
  suffices hh : ∀ (l : List (Got Req)), (∀ g ∈ l, g ∈ gs) → ∀ (t : State) (b : Bool),
      Framed (SplitRel al cx.g T) (IssuedOp kind (cx.low :: cx.fl.run) cx.gid) true al (cx.low :: cx.fl.run) cx.gid cx.g s t →
      Framed (SplitRel al cx.g T) (IssuedOp kind (cx.low :: cx.fl.run) cx.gid) true al (cx.low :: cx.fl.run) cx.gid cx.g s
        (l.foldl (fun (acc : State × Bool) g =>
          (issueOne acc.1 cx tok flag (reqDst cx words hasD g [g.tid] acc.2) g, false)) (t, b)).1 from hh _ (fun _ h => h) _ _ H
  intro l
  induction l with
  | nil => intro _ t b H; exact H
  | cons g l ih =>
    intro hl t b H
    refine ih (fun x hx => hl x (List.mem_cons_of_mem _ hx)) _ _ ?_
    obtain ⟨i, hi, e, hn⟩ := hgs g (hl g List.mem_cons_self)
    obtain ⟨e1, e2⟩ := readOne_moved hrd e
    obtain ⟨q1, q2, q4, q3⟩ := hreq i g e
    have hn : g.tid ∉ T := e1 ▸ hn
    have hdst : DstOk al (cx.low :: cx.fl.run) cx.g cx.gid (reqDst cx words hasD g [g.tid] b) := by
      unfold reqDst
      split
      · rename_i hD
        exact dstFor_ok (q3 hD) (by simp only [List.mem_singleton]; rintro j rfl; rw [e1]; exact hi) _
      · exact ⟨rfl, by simp, by simp⟩
    have hTd : ∀ r ∈ (reqDst cx words hasD g [g.tid] b).regs, r.1 ∉ T := by
      intro r hrr
      unfold reqDst at hrr
      split at hrr
      · unfold dstFor at hrr
        dsimp only at hrr
        split at hrr
        · simp only [List.map_cons, List.map_nil, List.mem_singleton] at hrr
          subst hrr; exact hn
        · split at hrr <;> simp at hrr
      · simp at hrr
    have hh := issueOne_framed (cx := { cx with fl := { cx.fl with run := [] } }) H tok flag (by rw [e1]; exact hi) hn
      (by rw [e1]; exact issued_of_moved hkey e2) hdst hTd q1 (q2 _) q4 (by simp)
    have he : issueOne t { cx with fl := { cx.fl with run := [] } } tok flag (reqDst cx words hasD g [g.tid] b) g
        = issueOne t cx tok flag (reqDst cx words hasD g [g.tid] b) g := by
      have e1 : Cx.uni { cx with fl := { cx.fl with run := [] } } = cx.uni := rfl
      simp only [issueOne, Cx.fence, runOverlap, Cx.by, e1, hu]
      rfl
    rw [he] at hh
    exact hh

/-- The frame of the in-flight shape: the hold on a count may end last. -/
theorem asyncExec_framed {kind : OpKind → Bool} {al : Allow} {s : State} {cx : Cx} {flag words : Nat} {hasD : Bool} {rd : Nat → Rd Req}
    {room : Nat} (hg : getGroup s cx.gid = some cx.g) (hf : cx.g.flight = some cx.fl) (hkey : al.key = false)
    (hrd : ∀ tid, RdKeeps al (rd tid))
    (hreq : ∀ tid g, readOne s cx rd false tid = .ok g → (∀ s k, g.val.prep s k = (s, k)) ∧ (∀ d, kind (g.val.kind d) = true)
      ∧ (g.val.list ≠ [] → kind (.load g.val.list 0 { gid := cx.gid }) = true)
      ∧ (hasD = true → DestOk al cx.f.d.toNat (g.val.n.getD words))) :
    ∃ u, Framed (IssueRel al cx.g) (IssuedOp kind (cx.low :: cx.fl.run) cx.gid) true al (cx.low :: cx.fl.run) cx.gid cx.g s u
      ∧ (asyncExec s cx flag words hasD rd room = u ∨ asyncExec s cx flag words hasD rd room = letGo u cx.gid cx.fl.tok) := by
  have hr : cx.fl.run ⊆ cx.low :: cx.fl.run := fun x hx => List.mem_cons_of_mem _ hx
  have hL := issueRel_loose al cx.g
  have H0 : Framed (IssueRel al cx.g) (IssuedOp kind (cx.low :: cx.fl.run) cx.gid) true al (cx.low :: cx.fl.run) cx.gid cx.g s s :=
    framed_trapped hL (framed_start hg hf hr)
  have none_ok : ∀ n, DstOk al (cx.low :: cx.fl.run) cx.g cx.gid { gid := cx.gid, n := n } := fun n => ⟨rfl, by simp, by simp⟩
  unfold asyncExec
  dsimp only
  split
  · have hm := readAll_got (s := s) (cx := cx) (rd := rd) (hasD := false) (ts := [cx.low])
    split
    · exact ⟨_, framed_stall H0 _, .inl rfl⟩
    · exact ⟨_, framed_trapWhole hL hg hf hr _ _, .inl rfl⟩
    · rename_i g gs _ _ hgot
      obtain ⟨t, ht, e⟩ := hm.1 g (by rw [hgot]; exact List.mem_cons_self)
      simp only [List.mem_singleton] at ht
      subst ht
      obtain ⟨e1, e2⟩ := readOne_moved hrd e
      obtain ⟨q1, q2, q4, q3⟩ := hreq cx.low g e
      have htr : ∀ x ∈ (if hasD then othersD s cx (g.val.n.getD words) (cx.fl.run.filter (· ≠ g.tid)) else (false, [])).2,
          x.1 ∈ cx.fl.run ∧ x.1 ≠ cx.low := by
        intro x hx
        split at hx
        · have := othersD_traps _ _ _ _ x hx
          simp only [List.mem_filter, decide_eq_true_eq] at this
          exact ⟨this.1, e1 ▸ this.2⟩
        · cases hx
      generalize (if hasD then othersD s cx (g.val.n.getD words) (cx.fl.run.filter (· ≠ g.tid)) else (false, [])) = pt at htr ⊢
      obtain ⟨pend, traps⟩ := pt
      dsimp only at htr ⊢
      split
      · exact ⟨_, framed_stall H0 _, .inl rfl⟩
      · have hT : ∀ i ∈ cx.fl.run.filter (fun t => !(traps.map (·.1)).contains t), i ∈ cx.low :: cx.fl.run ∧ i ∉ traps.map (·.1) := by
          intro i hi
          simp only [List.mem_filter, Bool.not_eq_true', List.contains_eq_mem, decide_eq_false_iff_not] at hi
          exact ⟨hr hi.1, hi.2⟩
        have hlow : cx.low ∉ traps.map (·.1) := by
          intro hx
          simp only [List.mem_map] at hx
          obtain ⟨x, hx, ex⟩ := hx
          exact (htr x hx).2 ex
        have H1 := beginCount_framed (cx := cx) (split_traps (K := IssuedOp kind (cx.low :: cx.fl.run) cx.gid) (al := al) hg hf hr
          (readAll s cx rd false [cx.low]).got false traps (fun x hx => hr (htr x hx).1)) flag 1 (listReads [g])
        generalize trapRun (touchAll s cx (readAll s cx rd false [cx.low]).got) cx false traps = s1 at H1 ⊢
        refine ⟨_, guard63_framed H0 (framed_advance hL.2 (framed_mono (R := SplitRel al cx.g (traps.map (·.1)))
          (issueOne_framed (cx := { cx with fl := { cx.fl with run := cx.fl.run.filter (fun t => !(traps.map (·.1)).contains t) } })
            H1 _ _ (by rw [e1]; exact List.mem_cons_self)
            (by rw [e1]; exact hlow) (by rw [e1]; exact issued_of_moved hkey e2) ?_ ?_ q1 (q2 _) q4 hT) issueRel_of_split) _), .inl rfl⟩
        · unfold reqDst
          split
          · rename_i hD
            exact dstFor_ok (q3 hD) (fun i hi => (hT i hi).1) _
          · exact none_ok _
        · intro r hrr
          unfold reqDst at hrr
          split at hrr
          · unfold dstFor at hrr
            dsimp only at hrr
            split at hrr
            · simp only [List.mem_map] at hrr
              obtain ⟨i, hi, rfl⟩ := hrr
              exact (hT i hi).2
            · split at hrr <;> simp at hrr
          · simp at hrr
    · exact ⟨_, framed_advance hL.2 H0 _, .inl rfl⟩
  · rename_i hu
    have hu : cx.uni = false := by simpa using hu
    have hm := readAll_got (s := s) (cx := cx) (rd := rd) (hasD := false) (ts := cx.todo.take room)
    have hsp := readAll_split (s := s) (cx := cx) (rd := rd) (hasD := false) (ts := cx.todo.take room)
    have hts : ∀ i ∈ cx.todo.take room, i ∈ cx.low :: cx.fl.run := fun i hi => todo_sub cx (List.mem_of_mem_take hi)
    have H1 := split_traps (K := IssuedOp kind (cx.low :: cx.fl.run) cx.gid) (al := al) hg hf hr
      (readAll s cx rd false (cx.todo.take room)).got false (readAll s cx rd false (cx.todo.take room)).traps
      (fun x hx => hts _ (hm.2 x hx))
    have hgs : ∀ g ∈ (readAll s cx rd false (cx.todo.take room)).got, ∃ i ∈ cx.low :: cx.fl.run, readOne s cx rd false i = .ok g
        ∧ i ∉ (readAll s cx rd false (cx.todo.take room)).traps.map (·.1) := by
      intro g hgm
      obtain ⟨i, hi, e⟩ := hm.1 g hgm
      refine ⟨i, hts i hi, e, fun hx => ?_⟩
      simp only [List.mem_map] at hx
      obtain ⟨x, hx, ex⟩ := hx
      obtain ⟨tr, et⟩ := hsp x hx
      rw [ex, e] at et
      cases et
    generalize trapRun (touchAll s cx (readAll s cx rd false (cx.todo.take room)).got) cx false
      (readAll s cx rd false (cx.todo.take room)).traps = s1 at H1 ⊢
    have HA : ∀ n k tok, Framed (IssueRel al cx.g) (IssuedOp kind (cx.low :: cx.fl.run) cx.gid) true al (cx.low :: cx.fl.run) cx.gid cx.g s
        (issueAll (beginCount s1 cx flag n k) cx tok flag words hasD (readAll s cx rd false (cx.todo.take room)).got) := fun n k tok =>
      framed_mono (issueAll_framed _ hu hkey hrd hreq hgs (beginCount_framed H1 _ _ _)) issueRel_of_split
    generalize (match (readAll s cx rd false (cx.todo.take room)).stall with
      | some b => some b
      | none => if room < cx.todo.length then some true else none) = stop
    split
    · split
      · exact ⟨_, framed_stall H0 _, .inl rfl⟩
      · refine ⟨_, guard63_framed H0 (framed_stall ?_ _), .inl rfl⟩
        unfold issuePart
        split
        · exact framed_mono H1 issueRel_of_split
        · refine framed_modGroup (HA _ _ _) (fun g => passed { g with flight := g.flight.map (fun f => { f with tok := tokOf s1 cx }) } _)
            (fun _ => rfl) (fun _ _ _ => ⟨rfl, Iff.rfl, Iff.rfl⟩) (fun _ e => by cases e) (fun h fl e => ?_)
          simp only [passed, Option.map_eq_some_iff] at e
          obtain ⟨f1, ⟨f2, e2, rfl⟩, rfl⟩ := e
          exact ⟨f2, e2, fun _ hx => hx⟩
    · have H2 := framed_advance hL.2 (HA (readAll s cx rd false (cx.todo.take room)).got.length
        (listReads (readAll s cx rd false (cx.todo.take room)).got) (tokOf s1 cx)) cx.slots
      unfold issueRest
      generalize modGroup (issueAll _ cx (tokOf s1 cx) flag words hasD _) cx.gid _ = u at H2 ⊢
      unfold guard63
      split
      · exact ⟨u, H2, .inr rfl⟩
      · split
        · exact ⟨_, framed_stall H0 _, .inl rfl⟩
        · exact ⟨u, H2, .inr rfl⟩

/-! ### What operands change -/

section
variable {al : Allow} {s : State} {cx : Cx} {tid : Nat}

theorem rdKeeps_readNow (a : Nat) (ls : List Loc) : RdKeeps al (readNow s cx tid a ls) := by
  unfold readNow
  refine rdKeeps_bind rdKeeps_get (fun w => rdKeeps_ite (rdKeeps_stall _) (rdKeeps_ite (rdKeeps_trap _) ?_))
  split
  · exact rdKeeps_bind (rdKeeps_modify _ (fun _ => rfl)) (fun _ => rdKeeps_pure _)
  · exact rdKeeps_bind (rdKeeps_pure _) (fun _ => rdKeeps_pure _)

theorem rdKeeps_readTable (va n : Nat) : RdKeeps al (readTable s cx tid va n) := by
  unfold readTable
  exact rdKeeps_bind (rdKeeps_liftT _) (fun _ => rdKeeps_bind (rdKeeps_touch _) (fun _ =>
    rdKeeps_bind (rdKeeps_readNow _ _) (fun _ => rdKeeps_pure _)))

theorem rdKeeps_readRegs (abs n : Nat) : RdKeeps al (readRegs abs n) := by
  unfold readRegs
  refine rdKeeps_bind rdKeeps_get (fun w => ?_)
  split
  · exact rdKeeps_bind (rdKeeps_note _) (fun _ => rdKeeps_pure _)
  · exact rdKeeps_bind (rdKeeps_pure _) (fun _ => rdKeeps_pure _)

theorem rdKeeps_readBlock (c n : Nat) : RdKeeps al (readBlock c n) := by
  unfold readBlock
  exact rdKeeps_bind rdKeeps_get (fun w => rdKeeps_readRegs _ _)

theorem rdKeeps_rejectDraw (h : al.draws = true) (dix : Nat) (d : Dist) (n : Nat) : RdKeeps al (rejectDraw s cx tid dix d n) := by
  induction n with
  | zero =>
    unfold rejectDraw
    refine rdKeeps_bind rdKeeps_get (fun w => ?_)
    split
    · exact rdKeeps_bind (rdKeeps_note _) (fun _ => rdKeeps_pure _)
    · exact rdKeeps_bind (rdKeeps_trap _) (fun _ => rdKeeps_pure _)
  | succ n ih =>
    unfold rejectDraw
    dsimp only
    exact rdKeeps_bind (rdKeeps_nextWord h) (fun _ => rdKeeps_bind (rdKeeps_readTable _ _) (fun _ =>
      rdKeeps_bind (rdKeeps_readTable _ _) (fun _ => rdKeeps_ite (rdKeeps_pure _)
        (rdKeeps_bind (rdKeeps_nextWord h) (fun _ => rdKeeps_ite (rdKeeps_pure _) ih)))))

/-- A draw moves only the position of the random stream (R206). -/
theorem rdKeeps_drawFrom (h : al.draws = true) (dix : Nat) (d : Dist) : RdKeeps al (drawFrom s cx tid dix d) := by
  have hw := rdKeeps_nextWord h
  unfold drawFrom
  split
  · exact rdKeeps_bind hw (fun _ => rdKeeps_pure _)
  · exact rdKeeps_bind hw (fun _ => rdKeeps_bind (rdKeeps_readTable _ _) (fun _ => rdKeeps_bind (rdKeeps_readTable _ _)
      (fun _ => rdKeeps_pure _)))
  · exact rdKeeps_bind hw (fun _ => rdKeeps_bind (rdKeeps_readTable _ _) (fun _ => rdKeeps_pure _))
  · exact rdKeeps_rejectDraw h _ _ _
  · exact rdKeeps_bind hw (fun _ => rdKeeps_pure _)
  · exact rdKeeps_bind hw (fun _ => rdKeeps_pure _)

/-- Reading a stream moves only that stream (R53). -/
theorem rdKeeps_readStream (i : Nat) (wide : Bool) (h : i ∈ al.streams) : RdKeeps al (readStream s cx tid i wide) := by
  unfold readStream
  refine rdKeeps_bind rdKeeps_get (fun w => ?_)
  split
  · exact rdKeeps_trap _
  · rename_i b _
    refine rdKeeps_ite (rdKeeps_trap _) (rdKeeps_bind (rdKeeps_liftT _) (fun x => ?_))
    obtain ⟨addr, ls⟩ := x
    dsimp only
    have hq : RdKeeps al (do
        let bs ← readNow s cx tid addr ls
        streamDone i b
        pure (streamExtend b (leVal bs) wide)) :=
      rdKeeps_bind (rdKeeps_readNow _ _) (fun _ => rdKeeps_bind (rdKeeps_streamDone _ _ h) (fun _ => rdKeeps_pure _))
    split
    · exact rdKeeps_bind (rdKeeps_touch _) (fun _ => hq)
    · exact hq

/-- The field code of a source is one whose reading changes only what the instruction may change. -/
def SrcOk (al : Allow) (code : Nat) : Prop :=
  (112 ≤ code → code < 116 → code - 112 ∈ al.streams) ∧ (120 ≤ code → al.draws = true)

theorem rdKeeps_readCode (code : Nat) (wide : Bool) (h : SrcOk al code) : RdKeeps al (readCode s cx tid code wide) := by
  unfold readCode
  split
  · exact rdKeeps_bind rdKeeps_get (fun w => rdKeeps_bind (rdKeeps_readRegs _ _) (fun _ => rdKeeps_pure _))
  · split
    · dsimp only
      split
      · exact rdKeeps_bind (rdKeeps_note _) (fun _ => rdKeeps_pure _)
      · exact rdKeeps_pure _
    · split
      · exact rdKeeps_readStream _ _ (h.1 (by omega) (by omega))
      · split
        · exact rdKeeps_pure _
        · split
          · exact rdKeeps_pure _
          · split
            · exact rdKeeps_pure _
            · split
              · exact rdKeeps_pure _
              · exact rdKeeps_drawFrom (h.2 (by omega)) _ _

theorem rdKeeps_readA (wide : Bool) (h : SrcOk al cx.f.a.toNat) : RdKeeps al (readA s cx tid wide) := rdKeeps_readCode _ _ h
theorem rdKeeps_readD (wide : Bool) (h : SrcOk al cx.f.d.toNat) : RdKeeps al (readD s cx tid wide) := rdKeeps_readCode _ _ h
theorem rdKeeps_readB (wide : Bool) (h : cx.m.lit = false → SrcOk al cx.f.b.toNat) : RdKeeps al (readB s cx tid wide) := by
  unfold readB
  split
  · exact rdKeeps_pure _
  · rename_i hx
    exact rdKeeps_readCode _ _ (h (eq_false_of_ne_true hx))

theorem rdKeeps_srWord (h : cx.m.rnd = 4 → al.draws = true) : RdKeeps al (srWord cx) := by
  unfold srWord
  split
  · rename_i e
    exact rdKeeps_bind (rdKeeps_nextWord (h (BitVec.eq_of_toNat_eq e))) (fun _ => rdKeeps_pure _)
  · exact rdKeeps_pure _

end

/-! ### From the lane shape to instructions -/

/-- The run of the current group. -/
theorem runCx_some {s : State} {op : Nat} {ext : Bool} {e : Entry} {m : Mod} {f : FR} {cx : Cx} (h : runCx s op ext e m f = some cx) :
    s.cur = .group cx.gid ∧ getGroup s cx.gid = some cx.g ∧ cx.g.flight = some cx.fl ∧ cx.e = e ∧ cx.m = m ∧ cx.f = f := by
  unfold runCx at h
  split at h
  · rename_i gid hc
    split at h
    · cases h
    · rename_i g hg
      split at h
      · rename_i fl l hf hl
        split at h
        · cases h
          exact ⟨hc, hg, hf, rfl, rfl, rfl⟩
        · cases h
      · cases h
  · cases h

/-- The checks of a core instruction keep the frame, and so does its body. -/
theorem withRun_framed {R : Nat → Thread → Prop} {K : Op → Prop} {cnt : Bool} {al : Allow} {s t : State} {op : Nat} {ext legal : Bool} {e : Entry} {m : Mod} {f : FR} {body : Cx → State}
    {gid : Nat} {g : Group} {fl : Flight} (hc : s.cur = .group gid) (hg : getGroup s gid = some g) (hf : g.flight = some fl)
    (hR : Loose R g)
    (hb : ∀ cx, runCx s op ext e m f = some cx → cx.g = g → Framed R K cnt al (cx.low :: cx.fl.run) cx.gid g s (body cx))
    (h : withRun s op ext e m f legal body = .next t) : Framed R K cnt al (fl.run.headD 0 :: fl.run) gid g s t := by
  unfold withRun at h
  split at h
  · cases h
  · rename_i cx hr
    obtain ⟨h1, h2, h3, -⟩ := runCx_some hr
    rw [hc] at h1
    cases h1
    rw [hg] at h2
    cases h2
    rw [hf] at h3
    cases h3
    split at h
    · cases h
      exact framed_trapWhole hR hg hf (fun x hx => List.mem_cons_of_mem _ hx) _ _
    · dsimp only at h
      split at h
      · cases h
        exact framed_trapWhole hR hg hf (fun x hx => List.mem_cons_of_mem _ hx) _ _
      · cases h
        exact hb cx hr rfl

/-- The checks of a core instruction trap its run, or its body runs. -/
theorem withRun_cases {R : Nat → Thread → Prop} {K : Op → Prop} {cnt : Bool} {al : Allow} {s t : State} {op : Nat} {ext legal : Bool} {e : Entry} {m : Mod} {f : FR} {body : Cx → State}
    {gid : Nat} {g : Group} {fl : Flight} (hc : s.cur = .group gid) (hg : getGroup s gid = some g) (hf : g.flight = some fl)
    (hR : Loose R g) (h : withRun s op ext e m f legal body = .next t) :
    Framed R K cnt al (fl.run.headD 0 :: fl.run) gid g s t
      ∨ ∃ cx, runCx s op ext e m f = some cx ∧ cx.gid = gid ∧ cx.g = g ∧ cx.fl = fl ∧ t = body cx := by
  unfold withRun at h
  split at h
  · cases h
  · rename_i cx hr
    obtain ⟨h1, h2, h3, -⟩ := runCx_some hr
    rw [hc] at h1
    cases h1
    rw [hg] at h2
    cases h2
    rw [hf] at h3
    cases h3
    split at h
    · cases h
      exact .inl (framed_trapWhole hR hg hf (fun x hx => List.mem_cons_of_mem _ hx) _ _)
    · dsimp only at h
      split at h
      · cases h
        exact .inl (framed_trapWhole hR hg hf (fun x hx => List.mem_cons_of_mem _ hx) _ _)
      · cases h
        exact .inr ⟨cx, hr, rfl, rfl, rfl, rfl⟩

/-- What a lane instruction must say of its operands, so that its frame follows from the lane shape. -/
def LaneKeeps {α : Type} (al : Allow) (s : State) (cx : Cx) (hasD : Bool) (rd : Nat → Rd α)
    (fin : List (Got α) → Got α → Out) (n : Nat) : Prop :=
  (∀ tid, RdKeeps al (rd tid)) ∧ (hasD = true → DestOk al cx.f.d.toNat n)
    ∧ ∀ gs tid g, readOne s cx rd hasD tid = .ok g → (hasD = true → (fin gs g).words.length = n)
      ∧ (Retired al g.work.th ((fin gs g).upd g.work.th) ∧ (cx.uni = true → ∀ t, Retired al t ((fin gs g).upd t))) ∧ ∀ q ∈ (fin gs g).preds, q.1 ∈ al.preds

/-- The form of a core instruction with this entry. -/
theorem coreForm_r {i : Instr} {op : Nat} {f : FR} {e : Entry} (hv : view i = .r op f) (he : entryOf op = some e) :
    coreForm i = some ⟨op, false, e, baseMod e, f⟩ := by
  simp [coreForm, hv, he]
theorem coreForm_t {i : Instr} {op : Nat} {f : FR} {m : Mod} {e : Entry} (hv : view i = .twin op f m) (he : entryOf op = some e) :
    coreForm i = some ⟨op + 512, true, e, m, f⟩ := by
  simp [coreForm, hv, he]
theorem coreForm_i {i : Instr} {op : Nat} {f : FI} {e : Entry} (hv : view i = .i op f) (he : entryOf op = some e) :
    coreForm i = some ⟨op, false, e, baseMod e, { u := f.u, d := f.d, a := 0, b := 0 }⟩ := by
  simp [coreForm, hv, he]

/-- Field A is a source operand. -/
theorem srcOk_a {c : CoreForm} {w : Wd} (h : c.e.a = .src w) : SrcOk (allowOf c) c.f.a.toNat := by
  have hm : (⟨c.f.a.toNat, if wide c.e c.m w then 2 else 1, true, false⟩ : Use) ∈ uses c.e c.m c.f := by
    simp [uses, useOf, h]
  refine ⟨fun h1 h2 => ?_, fun h1 => ?_⟩
  · simp only [allowOf, List.mem_map, List.mem_filter, decide_eq_true_eq]
    exact ⟨_, ⟨hm, h1, h2⟩, rfl⟩
  · simp only [allowOf, Bool.or_eq_true, List.any_eq_true, decide_eq_true_eq]
    exact Or.inr ⟨_, hm, h1⟩

/-- Field B is a source operand. -/
theorem srcOk_b {c : CoreForm} {w : Wd} (h : c.e.b = .src w) (hl : c.m.lit = false) : SrcOk (allowOf c) c.f.b.toNat := by
  have hm : (⟨c.f.b.toNat, if wide c.e c.m w then 2 else 1, true, false⟩ : Use) ∈ uses c.e c.m c.f := by
    simp [uses, useOf, h, hl]
  refine ⟨fun h1 h2 => ?_, fun h1 => ?_⟩
  · simp only [allowOf, List.mem_map, List.mem_filter, decide_eq_true_eq]
    exact ⟨_, ⟨hm, h1, h2⟩, rfl⟩
  · simp only [allowOf, Bool.or_eq_true, List.any_eq_true, decide_eq_true_eq]
    exact Or.inr ⟨_, hm, h1⟩

/-- Field D is a source and a destination. -/
theorem srcOk_d {c : CoreForm} {w : Wd} (h : c.e.d = .both w) : SrcOk (allowOf c) c.f.d.toNat := by
  have hm : (⟨c.f.d.toNat, if wide c.e c.m w then 2 else 1, true, true⟩ : Use) ∈ uses c.e c.m c.f := by
    simp [uses, useOf, h]
  refine ⟨fun h1 h2 => ?_, fun h1 => ?_⟩
  · simp only [allowOf, List.mem_map, List.mem_filter, decide_eq_true_eq]
    exact ⟨_, ⟨hm, h1, h2⟩, rfl⟩
  · simp only [allowOf, Bool.or_eq_true, List.any_eq_true, decide_eq_true_eq]
    exact Or.inr ⟨_, hm, h1⟩

/-- Field D is a destination of the width w. -/
theorem destOk_d {c : CoreForm} {w : Wd} (h : c.e.d = .dst w ∨ c.e.d = .both w) :
    DestOk (allowOf c) c.f.d.toNat (if wide c.e c.m w then 2 else 1) := by
  rcases h with h | h
  · refine ⟨⟨c.f.d.toNat, if wide c.e c.m w then 2 else 1, false, true⟩, by simp [allowOf, useOf, h], rfl, Nat.le_refl _, fun h1 h2 => ?_⟩
    simp only [allowOf, List.mem_map, List.mem_filter, decide_eq_true_eq]
    exact ⟨⟨c.f.d.toNat, if wide c.e c.m w then 2 else 1, false, true⟩, ⟨by simp [uses, useOf, h], h1, h2⟩, rfl⟩
  · refine ⟨⟨c.f.d.toNat, if wide c.e c.m w then 2 else 1, true, true⟩, by simp [allowOf, useOf, h], rfl, Nat.le_refl _, fun h1 h2 => ?_⟩
    simp only [allowOf, List.mem_map, List.mem_filter, decide_eq_true_eq]
    exact ⟨⟨c.f.d.toNat, if wide c.e c.m w then 2 else 1, true, true⟩, ⟨by simp [uses, useOf, h], h1, h2⟩, rfl⟩

/-- The frame of a base instruction of the lane pipeline. -/
theorem laneFrame_of_coreR {α : Type} {i : Instr} {op : Nat} {f : FR} {body : State → Cx → State} {hasD : Bool} {e : Entry}
    {rd : State → Cx → Nat → Rd α} {fin : Cx → List (Got α) → Got α → Out} {whole : Bool} {more : CoreForm → Allow → Allow} (n : Cx → Nat)
    (he : ∀ s, exec i s = coreR op f s (body s)) (hv : view i = .r op f)
    (hee : entryOf op = some e)
    (hb : ∀ s cx, body s cx = laneExec s cx hasD (rd s cx) (fin cx) whole)
    (hk : ∀ s cx, cx.e = e → cx.m = baseMod e → cx.f = f →
      LaneKeeps (more ⟨op, false, e, baseMod e, f⟩ (allowOf ⟨op, false, e, baseMod e, f⟩)) s cx hasD (rd s cx) (fin cx) (n cx)) : LaneFrame i more := by
  intro s t gid g fl c hc hcur hg hf h
  rw [he] at h
  rw [coreForm_r hv hee] at hc
  cases hc
  simp only [coreR, withEntry, hee] at h
  refine withRun_framed hcur hg hf (laneRel_loose _ g) (fun cx hr eg => ?_) h
  subst eg
  obtain ⟨h1, h2, h3, h4, h5, h6⟩ := runCx_some hr
  rw [hcur] at h1
  cases h1
  rw [h3] at hf
  cases hf
  obtain ⟨k1, k2, k3⟩ := hk s cx h4 h5 h6
  rw [hb]
  exact laneExec_framed (n cx) h2 h3 k1 k2 k3

/-- The frame of a twin of the lane pipeline. -/
theorem laneFrame_of_coreT {α : Type} {i : Instr} {op : Nat} {f : FR} {m : Mod} {body : State → Cx → State} {hasD : Bool} {e : Entry}
    {rd : State → Cx → Nat → Rd α} {fin : Cx → List (Got α) → Got α → Out} {whole : Bool} {more : CoreForm → Allow → Allow} (n : Cx → Nat)
    (he : ∀ s, exec i s = coreT op f m s (body s)) (hv : view i = .twin op f m)
    (hee : entryOf op = some e)
    (hb : ∀ s cx, body s cx = laneExec s cx hasD (rd s cx) (fin cx) whole)
    (hk : ∀ s cx, cx.e = e → cx.m = m → cx.f = f →
      LaneKeeps (more ⟨op + 512, true, e, m, f⟩ (allowOf ⟨op + 512, true, e, m, f⟩)) s cx hasD (rd s cx) (fin cx) (n cx)) : LaneFrame i more := by
  intro s t gid g fl c hc hcur hg hf h
  rw [he] at h
  rw [coreForm_t hv hee] at hc
  cases hc
  simp only [coreT, withEntry, hee] at h
  refine withRun_framed hcur hg hf (laneRel_loose _ g) (fun cx hr eg => ?_) h
  subst eg
  obtain ⟨h1, h2, h3, h4, h5, h6⟩ := runCx_some hr
  rw [hcur] at h1
  cases h1
  rw [h3] at hf
  cases hf
  obtain ⟨k1, k2, k3⟩ := hk s cx h4 h5 h6
  rw [hb]
  exact laneExec_framed (n cx) h2 h3 k1 k2 k3

/-- The frame of an instruction of format I14 of the lane pipeline. -/
theorem laneFrame_of_coreI {α : Type} {i : Instr} {op : Nat} {f : FI} {body : State → Cx → State} {hasD : Bool} {e : Entry}
    {rd : State → Cx → Nat → Rd α} {fin : Cx → List (Got α) → Got α → Out} {whole : Bool} {more : CoreForm → Allow → Allow} (n : Cx → Nat)
    (he : ∀ s, exec i s = coreI op f s (body s)) (hv : view i = .i op f)
    (hee : entryOf op = some e)
    (hb : ∀ s cx, body s cx = laneExec s cx hasD (rd s cx) (fin cx) whole)
    (hk : ∀ s cx, cx.e = e → cx.m = baseMod e → cx.f = { u := f.u, d := f.d, a := 0, b := 0 } →
      LaneKeeps (more ⟨op, false, e, baseMod e, { u := f.u, d := f.d, a := 0, b := 0 }⟩ (allowOf ⟨op, false, e, baseMod e, { u := f.u, d := f.d, a := 0, b := 0 }⟩)) s cx hasD (rd s cx) (fin cx) (n cx)) : LaneFrame i more := by
  intro s t gid g fl c hc hcur hg hf h
  rw [he] at h
  rw [coreForm_i hv hee] at hc
  cases hc
  simp only [coreI, withEntry, hee] at h
  refine withRun_framed hcur hg hf (laneRel_loose _ g) (fun cx hr eg => ?_) h
  subst eg
  obtain ⟨h1, h2, h3, h4, h5, h6⟩ := runCx_some hr
  rw [hcur] at h1
  cases h1
  rw [h3] at hf
  cases hf
  obtain ⟨k1, k2, k3⟩ := hk s cx h4 h5 h6
  rw [hb]
  exact laneExec_framed (n cx) h2 h3 k1 k2 k3

/-- What an instruction whose operation goes in flight must say of its operands, so that its frame follows from the
shape. -/
def IssueKeeps (kind : OpKind → Bool) (al : Allow) (s : State) (cx : Cx) (words : Nat) (hasD : Bool) (rd : Nat → Rd Req) : Prop :=
  (∀ tid, RdKeeps al (rd tid))
    ∧ ∀ tid g, readOne s cx rd false tid = .ok g → (∀ s k, g.val.prep s k = (s, k)) ∧ (∀ d, kind (g.val.kind d) = true)
      ∧ (g.val.list ≠ [] → kind (.load g.val.list 0 { gid := cx.gid }) = true)
      ∧ (hasD = true → DestOk al cx.f.d.toNat (g.val.n.getD words))

/-- The frame of a base instruction whose operation goes in flight. -/
theorem issueFrame_of_coreR {i : Instr} {op : Nat} {f : FR} {body : State → Cx → State} {flag words : Cx → Nat} {room : State → Cx → Nat} {hasD : Bool}
    {e : Entry} {kind : OpKind → Bool} {rd : State → Cx → Nat → Rd Req} (he : ∀ s, exec i s = coreR op f s (body s))
    (hv : view i = .r op f) (hee : entryOf op = some e)
    (hb : ∀ s cx, body s cx = asyncExec s cx (flag cx) (words cx) hasD (rd s cx) (room s cx))
    (hk : ∀ s cx, cx.e = e → cx.m = baseMod e → cx.f = f →
      IssueKeeps kind (allowOf ⟨op, false, e, baseMod e, f⟩) s cx (words cx) hasD (rd s cx)) :
    IssueFrame i kind := by
  intro s t gid g fl c hc hcur hg hf _ h
  rw [he] at h
  rw [coreForm_r hv hee] at hc
  cases hc
  simp only [coreR, withEntry, hee] at h
  rcases withRun_cases hcur hg hf (issueRel_loose _ g) h with h | ⟨cx, hr, rfl, rfl, rfl, rfl⟩
  · exact ⟨t, h, .inl rfl⟩
  · obtain ⟨-, h2, h3, h4, h5, h6⟩ := runCx_some hr
    obtain ⟨k1, k2⟩ := hk s cx h4 h5 h6
    rw [hb]
    exact asyncExec_framed h2 h3 rfl k1 k2

/-- The frame of a twin whose operation goes in flight. -/
theorem issueFrame_of_coreT {i : Instr} {op : Nat} {f : FR} {m : Mod} {body : State → Cx → State} {flag words : Cx → Nat} {room : State → Cx → Nat} {hasD : Bool}
    {e : Entry} {kind : OpKind → Bool} {rd : State → Cx → Nat → Rd Req} (he : ∀ s, exec i s = coreT op f m s (body s))
    (hv : view i = .twin op f m) (hee : entryOf op = some e)
    (hb : ∀ s cx, body s cx = asyncExec s cx (flag cx) (words cx) hasD (rd s cx) (room s cx))
    (hk : ∀ s cx, cx.e = e → cx.m = m → cx.f = f →
      IssueKeeps kind (allowOf ⟨op + 512, true, e, m, f⟩) s cx (words cx) hasD (rd s cx)) :
    IssueFrame i kind := by
  intro s t gid g fl c hc hcur hg hf _ h
  rw [he] at h
  rw [coreForm_t hv hee] at hc
  cases hc
  simp only [coreT, withEntry, hee] at h
  rcases withRun_cases hcur hg hf (issueRel_loose _ g) h with h | ⟨cx, hr, rfl, rfl, rfl, rfl⟩
  · exact ⟨t, h, .inl rfl⟩
  · obtain ⟨-, h2, h3, h4, h5, h6⟩ := runCx_some hr
    obtain ⟨k1, k2⟩ := hk s cx h4 h5 h6
    rw [hb]
    exact asyncExec_framed h2 h3 rfl k1 k2

end Sys2Proof.Machine
end

