-- ==== Sys2Proof/Laws/Lane.lean ====
section
/-! SUPPORT. What the shared shapes of core instructions do when nothing traps or stalls: the checks of a core
instruction, and the lane, in-flight and atomic shapes. -/

namespace Sys2Proof.Machine

/-! ### The checks of a core instruction -/

/-- Taking no trap changes nothing. -/
@[simp] theorem takeTraps_nil (s : State) (k : Option Kernel) (ctx lid gid : Nat) (a : TrapAt) :
    takeTraps s k ctx lid gid a [] = s := rfl

/-- Taking no trap of a run changes nothing. -/
@[simp] theorem trapRun_nil (s : State) (cx : Cx) (u : Bool) : trapRun s cx u [] = s := rfl

/-- What `runOf` says of an instruction: its form, its run, and that its checks pass. -/
theorem runOf_some {i : Instr} {s : State} {cx : Cx} (h : runOf i s = some cx) :
    ∃ c, coreForm i = some c ∧ runCx s c.op c.ext c.e c.m c.f = some cx ∧ wellFormed i = true
      ∧ decodeTrap cx true (featsOf (c.op % 512) c.f.b c.m) = none
      ∧ canvasTrap cx (price (c.op % 512) (c.f.b.toNat / 8 % 4 + 1)) = none := by
  unfold runOf at h
  cases hc : coreForm i with
  | none => simp [hc] at h
  | some c =>
    simp only [hc] at h
    cases hr : runCx s c.op c.ext c.e c.m c.f with
    | none => simp [hr] at h
    | some x =>
      simp only [hr] at h
      split at h
      · rename_i hx
        cases h
        simp only [Bool.and_eq_true, Option.isNone_iff_eq_none] at hx
        exact ⟨c, rfl, hr, hx.1.1, hx.1.2, hx.2⟩
      · simp at h

/-- A run whose checks pass executes the body. -/
theorem withRun_next {s : State} {op : Nat} {ext : Bool} {e : Entry} {m : Mod} {f : FR} {cx : Cx} {body : Cx → State}
    (hr : runCx s op ext e m f = some cx) (hd : decodeTrap cx true (featsOf (op % 512) f.b m) = none)
    (hp : canvasTrap cx (price (op % 512) (f.b.toNat / 8 % 4 + 1)) = none) :
    withRun s op ext e m f true body = .next (body cx) := by
  simp [withRun, hr, hd, hp]

/-- A base instruction of formats R, K and I7 that runs. -/
theorem coreR_next {i : Instr} {op : Nat} {f : FR} {s : State} {cx : Cx} {body : Cx → State}
    (hv : view i = .r op f) (h : runOf i s = some cx) : coreR op f s body = .next (body cx) := by
  obtain ⟨c, hc, hr, hw, hd, hp⟩ := runOf_some h
  simp only [coreForm, hv, Option.map_eq_some_iff] at hc
  obtain ⟨e, he, rfl⟩ := hc
  simp only [wellFormed, check, hv, he] at hw
  have hf : fieldsOk e (baseMod e) f = true := by
    cases hx : fieldsOk e (baseMod e) f <;> simp_all
  simp only [coreR, withEntry, he, hf]
  exact withRun_next hr hd hp

/-- A twin that runs. -/
theorem coreT_next {i : Instr} {op : Nat} {f : FR} {m : Mod} {s : State} {cx : Cx} {body : Cx → State}
    (hv : view i = .twin op f m) (h : runOf i s = some cx) : coreT op f m s body = .next (body cx) := by
  obtain ⟨c, hc, hr, hw, hd, hp⟩ := runOf_some h
  simp only [coreForm, hv, Option.map_eq_some_iff] at hc
  obtain ⟨e, he, rfl⟩ := hc
  simp only [wellFormed, check, hv, he] at hw
  have hm : modOk e f.b m = true := by
    cases hx : modOk e f.b m <;> simp_all
  have hf : fieldsOk e m f = true := by
    cases hx : fieldsOk e m f <;> simp_all
  simp only [coreT, withEntry, he, hf, hm, Bool.and_true]
  exact withRun_next hr hd hp

/-- An instruction of format I14 that runs. -/
theorem coreI_next {i : Instr} {op : Nat} {f : FI} {s : State} {cx : Cx} {body : Cx → State}
    (hv : view i = .i op f) (h : runOf i s = some cx) : coreI op f s body = .next (body cx) := by
  obtain ⟨c, hc, hr, hw, hd, hp⟩ := runOf_some h
  simp only [coreForm, hv, Option.map_eq_some_iff] at hc
  obtain ⟨e, he, rfl⟩ := hc
  simp only [wellFormed, check, hv, he] at hw
  have hf : ((op == 0x066 || fieldOk e (baseMod e) e.d f.d.toNat) && immOk op f) = true := by
    cases hx : ((op == 0x066 || fieldOk e (baseMod e) e.d f.d.toNat) && immOk op f)
    · rw [hx] at hw; simp at hw
    · rfl
  simp only [coreI, withEntry, he, hf]
  exact withRun_next hr hd hp

/-- A branch that runs. -/
theorem coreB_next {i : Instr} {op : Nat} {f : FB} {s : State} {cx : Cx} {body : Cx → State}
    (hv : view i = .b op f) (h : runOf i s = some cx) : coreB op f s body = .next (body cx) := by
  obtain ⟨c, hc, hr, hw, hd, hp⟩ := runOf_some h
  simp only [coreForm, hv, Option.map_eq_some_iff] at hc
  obtain ⟨e, he, rfl⟩ := hc
  simp only [coreB, withEntry, he]
  exact withRun_next hr hd hp

/-- The literal form of MOVI that runs. -/
theorem literal_next {f : FI} {w : W32} {s : State} {cx : Cx} (h : runOf (.moviLiteral f w) s = some cx) :
    execMoviLiteral f w s = .next (laneExec s cx.each true (fun _ => pure ()) (fun _ _ => out32 w.toNat)) := by
  obtain ⟨c, hc, hr, hw, hd, hp⟩ := runOf_some h
  simp only [coreForm, view, Option.map_eq_some_iff] at hc
  obtain ⟨e, he, rfl⟩ := hc
  have hf : (fieldOk e (baseMod e) e.d f.d.toNat && f.imm == 0) = true := by
    have he' : e = { d := .dst .w32 } := by
      have : entryOf 0x061 = some { d := .dst .w32 } := rfl
      rw [this] at he
      exact (Option.some.inj he).symm
    subst he'
    revert hw
    simp only [wellFormed, check, view]
    cases hx : (f.imm == 0 && decide (f.d.toNat ≤ 116)) <;> simp_all [fieldOk, pairOk, wide]
  simp only [execMoviLiteral, withEntry, he, hf]
  exact withRun_next hr hd hp

/-! ### The shapes -/

/-- What one thread has read carries its number. -/
theorem readOne_tid {α : Type} {s : State} {cx : Cx} {rd : Nat → Rd α} {hasD : Bool} {t : Nat} {g : Got α}
    (h : readOne s cx rd hasD t = .ok g) : g.tid = t := by
  unfold readOne at h
  dsimp only at h
  split at h
  · cases h
  · split at h
    · cases h
    · split at h
      · cases h
      · cases h
      · split at h
        · cases h
        · cases h; rfl

/-- What a single thread has read carries its number. -/
theorem readAll_one_tid {α : Type} {s : State} {cx : Cx} {rd : Nat → Rd α} {hasD : Bool} {t : Nat} {g : Got α}
    (h : g ∈ (readAll s cx rd hasD [t]).got) : g.tid = t := by
  simp only [readAll] at h
  split at h
  · simp at h
  · simp at h
  · rename_i x hx
    simp only [List.mem_singleton] at h
    subst h
    exact readOne_tid hx

/-- A lane instruction whose threads read and whose rest may receive retires for its whole run. -/
theorem laneExec_done {α : Type} {s : State} {cx : Cx} {hasD : Bool} {rd : Nat → Rd α}
    {fin : List (Got α) → Got α → Out} {whole : Bool} (h : LaneOk s cx hasD rd fin) :
    laneExec s cx hasD rd fin whole = laneDone s cx hasD rd fin := by
  obtain ⟨⟨hs, ht⟩, hrest⟩ := h
  unfold laneExec laneDone laneOuts
  by_cases hu : cx.uni = true
  · simp only [hu, if_true]
    have hd : doers cx = [cx.low] := by simp [doers, hu]
    rw [hd] at hs ht
    simp only [gotOf, hd] at hrest ⊢
    rw [hs, ht]
    cases hg : (readAll s cx rd hasD [cx.low]).got with
    | nil => rfl
    | cons g gs =>
      have hgm : g ∈ (readAll s cx rd hasD [cx.low]).got := by rw [hg]; exact List.mem_cons_self
      have hgl := readAll_one_tid hgm
      have hr := hrest g hgm hu
      simp only [restOfRun, hu, if_true] at hr ⊢
      rw [hgl]
      cases hasD with
      | false => simp
      | true =>
        have := hr rfl
        simp only [ne_eq, decide_not] at this ⊢
        simp [this]
  · simp only [hu]
    have hd : doers cx = cx.todo := by simp [doers, hu]
    rw [hd] at hs ht
    simp only [gotOf, hd]
    simp only [hs, laneRetire, ht]
    rfl

/-- The 63 limit does not stall a state whose flags are below it (R129). -/
theorem guard63_below {old new : State} {cx : Cx} (h : flagsBelow new cx.gid = true) : guard63 old new cx = new := by
  unfold flagsBelow at h
  unfold guard63
  split
  · rfl
  · rename_i g hg
    simp only [hg, List.all_eq_true, decide_eq_true_eq] at h
    rw [if_neg]
    simp only [List.any_eq_true, decide_eq_true_eq, not_exists, not_and, Nat.not_lt]
    exact h

/-- Reading for one thread, as reading for a list of one. -/
theorem readAll_one {α : Type} {s : State} {cx : Cx} {rd : Nat → Rd α} {hasD : Bool} {t : Nat}
    (hs : (readAll s cx rd hasD [t]).stall = none) (ht : (readAll s cx rd hasD [t]).traps = []) :
    ∃ g, readOne s cx rd hasD t = .ok g ∧ (readAll s cx rd hasD [t]).got = [g] := by
  simp only [readAll] at hs ht ⊢
  split at hs
  · simp at hs
  · rename_i hx
    simp [hx] at ht
  · rename_i g hx
    exact ⟨g, hx, rfl⟩

/-- An instruction whose threads read issues one operation for each of them. -/
theorem asyncExec_done {s : State} {cx : Cx} {flag words : Nat} {hasD : Bool} {rd : Nat → Rd Req} {room : Nat}
    (h : AsyncOk s cx flag words hasD rd room) :
    asyncExec s cx flag words hasD rd room = asyncDone s cx flag words hasD rd := by
  obtain ⟨⟨hs, ht⟩, hrest, hroom, hfl⟩ := h
  have key : asyncExec s cx flag words hasD rd room = guard63 s (asyncDone s cx flag words hasD rd) cx := by
    unfold asyncExec asyncDone
    by_cases hu : cx.uni = true
    · simp only [hu, if_true]
      have hd : doers cx = [cx.low] := by simp [doers, hu]
      rw [hd] at hs ht
      simp only [gotOf, hd] at hrest ⊢
      obtain ⟨g0, -, hg0⟩ := readAll_one hs ht
      rw [hs, ht]
      cases hg : (readAll s cx rd false [cx.low]).got with
      | nil => rw [hg0] at hg; cases hg
      | cons g gs =>
        have hgm : g ∈ (readAll s cx rd false [cx.low]).got := by rw [hg]; exact List.mem_cons_self
        have hgl := readAll_one_tid hgm
        have hr := hrest g hgm hu
        simp only [restOfRun, hu, if_true] at hr ⊢
        have hroom : room ≠ 0 := by rw [hd] at hroom; simp at hroom; omega
        rw [hgl]
        cases hasD with
        | false => simp [hroom]
        | true =>
          have := hr rfl
          simp only [ne_eq, decide_not] at this ⊢
          simp [this, hroom]
    · simp only [hu]
      have hd : doers cx = cx.todo := by simp [doers, hu]
      rw [hd] at hs ht hroom
      simp only [gotOf, hd, List.take_of_length_le hroom]
      simp only [hs, ht, if_neg (Nat.not_lt.mpr hroom)]
      rfl
  rw [key]
  exact guard63_below hfl

/-- An atomic whose lanes read issues its requests. -/
theorem atomRun_done {s : State} {cx : Cx} {scratch cas : Bool} (h : AtomOk s cx scratch cas) :
    atomRun s cx scratch cas = atomDone s cx scratch cas := by
  obtain ⟨⟨hs, ht⟩, hrest, hfl⟩ := h
  have key : atomRun s cx scratch cas = guard63 s (atomDone s cx scratch cas) cx := by
    simp only [runners, restOfRun] at hs ht hrest
    unfold atomRun atomDone gotRun runners
    simp only [hs, ht, hrest]
    generalize (if cx.uni = true then [cx.low] else cx.fl.run) = tids
    cases cx.uni <;> simp
  rw [key]
  exact guard63_below hfl

/-- A branch whose threads have a next header moves each of them (R159). -/
theorem branchRun_done {s : State} {cx : Cx} {f : FB} {cond : Thread → Bool} (h : BranchOk cx f (takesBranch cx cond)) :
    branchRun s cx f cond = branchDone s cx f (takesBranch cx cond) := by
  have h1 : cx.fl.run.filter (fun t =>
      if takesBranch cx cond t then !isHeader cx.k (branchTarget cx f) else !cx.hasNext) = [] := by
    rw [List.filter_eq_nil_iff]
    intro t ht
    have := h t ht
    split <;> simp_all
  have h2 : cx.fl.run.filter (fun t =>
      !(if takesBranch cx cond t then !isHeader cx.k (branchTarget cx f) else !cx.hasNext)) = cx.fl.run := by
    rw [List.filter_eq_self]
    intro t ht
    have := h t ht
    split <;> simp_all
  have e : branchRun s cx f cond = transferRun (trapRun s cx false ((cx.fl.run.filter (fun t =>
      if takesBranch cx cond t then !isHeader cx.k (branchTarget cx f) else !cx.hasNext)).map (fun t => (t, { code := cTARGET }))))
      cx ((cx.fl.run.filter (fun t => !(if takesBranch cx cond t then !isHeader cx.k (branchTarget cx f) else !cx.hasNext))).map
        (fun t => (t, if takesBranch cx cond t then some (branchTarget cx f) else none))) := rfl
  rw [e, h1, h2, List.map_nil, trapRun_nil, branchDone]

/-- The link pairs of threads that are free give no trap and no stall. -/
theorem othersLink_free {cx : Cx} {c : Nat} {ts : List Nat}
    (h : ∀ t ∈ ts, ∃ w, (checkLink cx c).run { th := thread cx.g t } = .ok ((), w)) : othersLink cx c ts = (false, []) := by
  induction ts with
  | nil => rfl
  | cons t ts ih =>
    obtain ⟨w, hw⟩ := h t List.mem_cons_self
    simp only [othersLink, hw]
    exact ih (fun u hu => h u (List.mem_cons_of_mem _ hu))

/-- A jump whose threads have targets that are headers moves each of them (R160, R161). -/
theorem jumpRun_done {s : State} {cx : Cx} {link : Option Nat} {target : Nat → Rd Nat} (h : JumpOk s cx link target) :
    jumpRun s cx link target = jumpDone s cx link target := by
  obtain ⟨⟨hs, ht⟩, hh, hr⟩ := h
  by_cases hu : cx.uni = true
  · have hd : doers cx = [cx.low] := by simp [doers, hu]
    simp only [gotOf, hd] at hs ht hh
    obtain ⟨g, hg, hgot⟩ := readAll_one hs ht
    have hhd := hh g (by rw [hgot]; exact List.mem_cons_self)
    simp only [restOfRun, hu, if_true] at hr
    have htid := readOne_tid hg
    unfold jumpDone
    simp only [gotOf, hd, hgot, hu, if_true]
    cases link with
    | none =>
      have hg' : readOne s cx (fun tid => target tid) false cx.low = .ok g := hg
      simp [jumpRun, hu, hg', hhd]
    | some c =>
      have hg' : readOne s cx (fun tid => do checkLink cx c; target tid) false cx.low = .ok g := hg
      have hl := othersLink_free (fun t ht => hr t ht c rfl)
      rw [← htid] at hl
      simp only [ne_eq, decide_not] at hl
      simp only [jumpRun, hu, if_true, hg', hhd, Bool.not_true, ne_eq, decide_not, hl]
      simp
  · have hd : doers cx = cx.todo := by simp [doers, hu]
    have hj : jumpDone s cx link target = transferRun
        (jumped (touchAll s cx (readAll s cx (jumpRd cx link target) false cx.todo).got) cx link
          (readAll s cx (jumpRd cx link target) false cx.todo).got) cx
        (jumpedTo cx (readAll s cx (jumpRd cx link target) false cx.todo).got) := by
      simp [jumpDone, gotOf, hd, hu]
    simp only [gotOf, hd] at hs ht hh
    have h1 : (readAll s cx (jumpRd cx link target) false cx.todo).got.filter
        (fun g => !isHeader cx.k (BitVec.ofNat 64 g.val)) = [] := by
      rw [List.filter_eq_nil_iff]
      intro g hg
      simp [hh g hg]
    have h2 : (readAll s cx (jumpRd cx link target) false cx.todo).got.filter
        (fun g => !!isHeader cx.k (BitVec.ofNat 64 g.val)) = (readAll s cx (jumpRd cx link target) false cx.todo).got := by
      rw [List.filter_eq_self]
      intro g hg
      simp [hh g hg]
    rw [hj]
    have hx : jumpRun s cx link target =
        let r := readAll s cx (jumpRd cx link target) false cx.todo
        let bad (a : Nat) : Bool := !isHeader cx.k (BitVec.ofNat 64 a)
        let go := r.got.filter (fun g => !bad g.val)
        let s := jumpEach s cx link r (r.got.filter (fun g => bad g.val)) go
        match r.stall with
        | some b => stallRun (modGroup s cx.gid (fun g => passed g (go.map (·.tid)))) cx b
        | none => transferRun s cx (jumpedTo cx go) := by
      unfold jumpRun
      rw [if_neg hu]
      rfl
    rw [hx]
    dsimp only
    rw [hs, h1, h2]
    dsimp only [jumpEach]
    rw [ht]
    rfl

/-- Threads that sign without diverging take no trap. -/
theorem signRun_done {s : State} {cx : Cx} {key c : Nat} {counted : Bool} {wait : Option Wait} {sigs : List (Nat × Sig × Option Thread)}
    (h : (signAll s cx key c counted wait sigs).traps = []) :
    signRun s cx key c counted wait sigs = (signAll s cx key c counted wait sigs).s := by
  unfold signAll at h
  unfold signRun signAll
  simp only [h]
  rfl

end Sys2Proof.Machine
end

