-- ==== Sys2Proof/Laws/Issue.lean ====
section
/-! SUPPORT. From the shapes of Laws/Lane.lean to the completion of instructions: an instruction whose meaning is one of
the shared shapes answers the state that the shape gives. -/

namespace Sys2Proof.Machine

/-! ### Meanings that are a shared shape -/

/-- A base instruction of the lane pipeline completes. -/
theorem lane_of_coreR {α : Type} {i : Instr} {op : Nat} {f : FR} {body : State → Cx → State} {hasD : Bool}
    {rd : State → Cx → Nat → Rd α} {fin : Cx → List (Got α) → Got α → Out}
    (he : ∀ s, exec i s = coreR op f s (body s)) (hv : view i = .r op f)
    (hb : ∀ s cx, body s cx = laneExec s cx hasD (rd s cx) (fin cx)) : LaneCompletes i hasD rd fin := by
  intro s cx h ok
  rw [he, coreR_next hv h, hb, laneExec_done ok]

/-- A twin of the lane pipeline completes. -/
theorem lane_of_coreT {α : Type} {i : Instr} {op : Nat} {f : FR} {m : Mod} {body : State → Cx → State} {hasD : Bool}
    {rd : State → Cx → Nat → Rd α} {fin : Cx → List (Got α) → Got α → Out}
    (he : ∀ s, exec i s = coreT op f m s (body s)) (hv : view i = .twin op f m)
    (hb : ∀ s cx, body s cx = laneExec s cx hasD (rd s cx) (fin cx)) : LaneCompletes i hasD rd fin := by
  intro s cx h ok
  rw [he, coreT_next hv h, hb, laneExec_done ok]

/-- An instruction of format I14 of the lane pipeline completes. -/
theorem lane_of_coreI {α : Type} {i : Instr} {op : Nat} {f : FI} {body : State → Cx → State} {hasD : Bool}
    {rd : State → Cx → Nat → Rd α} {fin : Cx → List (Got α) → Got α → Out}
    (he : ∀ s, exec i s = coreI op f s (body s)) (hv : view i = .i op f)
    (hb : ∀ s cx, body s cx = laneExec s cx hasD (rd s cx) (fin cx)) : LaneCompletes i hasD rd fin := by
  intro s cx h ok
  rw [he, coreI_next hv h, hb, laneExec_done ok]

/-- A base instruction whose operation goes in flight completes. -/
theorem async_of_coreR {i : Instr} {op : Nat} {f : FR} {body : State → Cx → State} {flag words : Cx → Nat} {hasD : Bool}
    {rd : State → Cx → Nat → Rd Req} (he : ∀ s, exec i s = coreR op f s (body s)) (hv : view i = .r op f)
    (hb : ∀ s cx, body s cx = asyncExec s cx (flag cx) (words cx) hasD (rd s cx)) : AsyncCompletes i flag words hasD rd := by
  intro s cx h ok
  rw [he, coreR_next hv h, hb, asyncExec_done ok]

/-- A twin whose operation goes in flight completes. -/
theorem async_of_coreT {i : Instr} {op : Nat} {f : FR} {m : Mod} {body : State → Cx → State} {flag words : Cx → Nat}
    {hasD : Bool} {rd : State → Cx → Nat → Rd Req} (he : ∀ s, exec i s = coreT op f m s (body s)) (hv : view i = .twin op f m)
    (hb : ∀ s cx, body s cx = asyncExec s cx (flag cx) (words cx) hasD (rd s cx)) : AsyncCompletes i flag words hasD rd := by
  intro s cx h ok
  rw [he, coreT_next hv h, hb, asyncExec_done ok]

/-- A base instruction of a team whose operation goes in flight completes. -/
theorem team_of_coreR {i : Instr} {op : Nat} {f : FR} {body : State → Cx → State} {flag words : Cx → Nat} {hasD : Bool}
    {rd : State → Cx → Nat → Nat → Rd Req} (he : ∀ s, exec i s = coreR op f s (body s)) (hv : view i = .r op f)
    (hb : ∀ s cx, body s cx = teamRun s cx 0 true (fun key => asyncExec s cx (flag cx) (words cx) hasD (rd s cx key))) :
    TeamCompletes i flag words hasD rd := by
  intro s cx key h hk ok
  rw [he, coreR_next hv h, hb]
  simp only [teamRun, hk, if_true]
  rw [asyncExec_done ok]

/-- A twin of a team whose operation goes in flight completes. -/
theorem team_of_coreT {i : Instr} {op : Nat} {f : FR} {m : Mod} {body : State → Cx → State} {flag words : Cx → Nat}
    {hasD : Bool} {rd : State → Cx → Nat → Nat → Rd Req} (he : ∀ s, exec i s = coreT op f m s (body s))
    (hv : view i = .twin op f m)
    (hb : ∀ s cx, body s cx = teamRun s cx 0 true (fun key => asyncExec s cx (flag cx) (words cx) hasD (rd s cx key))) :
    TeamCompletes i flag words hasD rd := by
  intro s cx key h hk ok
  rw [he, coreT_next hv h, hb]
  simp only [teamRun, hk, if_true]
  rw [asyncExec_done ok]

/-! ### Copies, waits and engine calls -/

/-- A copy of a core that has room for it issues (R242). -/
theorem copyExec_done {s : State} {cx : Cx} {rd : Nat → Rd Req}
    (ok : AsyncOk s cx cx.setb 1 true rd (Config.coreCopies - openCopies s cx.g.core)) :
    copyExec s cx rd = asyncDone s cx cx.setb 1 true rd := asyncExec_done ok

/-- SEMWAIT whose threads read. -/
theorem semWaitRun_done {s : State} {cx : Cx} (ok : RunReads s cx (semWaitRd s cx)) : semWaitRun s cx = semWaitDone s cx := by
  obtain ⟨hs, ht⟩ := ok
  unfold semWaitRun semWaitDone gotRun commitReads waitsOf runners
  unfold runners at hs ht
  have e : (fun tid : Nat => (do
    let w ← readA s cx tid false
    let b ← readLate (readB s cx tid false)
    let i ← liftT (ownSem cx.g.core w)
    settleRd
    if !depsDone s (cx.fence tid) || !(semDeps s cx tid cx.g.core i).isEmpty then stallRd false
    pure (i, b.getD 0) : Rd (Nat × Nat))) = semWaitRd s cx := rfl
  simp only [e, hs, ht]
  cases cx.uni <;> rfl

/-- TGWAIT whose threads read. -/
theorem tgwaitRun_done {s : State} {cx : Cx} (ok : RunReads s cx (tgWaitRd s cx)) : tgwaitRun s cx = tgWaitDone s cx := by
  obtain ⟨hs, ht⟩ := ok
  unfold tgwaitRun tgWaitDone gotRun commitReads waitsOf runners
  unfold runners at hs ht
  have e : (fun tid : Nat => (do
    let va ← readA s cx tid true
    alignRd va va 128
    let ls ← recordRd s cx va .read
    poisonRd s cx tid va ls
    if !depsDone s (cx.fence tid) || !(runOverlap s cx tid ls true).isEmpty then stallRd false
    pure (recordPa ls) : Rd Nat)) = tgWaitRd s cx := rfl
  simp only [e, hs, ht]
  cases cx.uni <;> rfl

/-- An engine call whose threads read and do not diverge signs. -/
theorem callRun_done {s : State} {cx : Cx} {key : Nat} {rd : State → Nat → Rd Sig} (hk : cx.team = some key)
    (ok : cx.uni = true → Reads s cx false (rd s)) (h0 : (callSigned s cx key rd).2 = none)
    (h1 : (callSigned s cx key rd).1.traps = []) (h2 : flagsBelow (callDone s cx key rd) cx.gid = true) :
    callRun s cx rd = callDone s cx key rd := by
  have e : callRun s cx rd = callEndRun s cx (callSigned s cx key rd) := by
    unfold callRun callSigned
    simp only [teamRun, hk, if_true]
    by_cases hu : cx.uni = true
    · have hd : doers cx = [cx.low] := by simp [doers, hu]
      obtain ⟨hs, ht⟩ := ok hu
      rw [hd] at hs ht
      obtain ⟨g, hg, hgot⟩ := readAll_one hs ht
      simp only [hu, if_true, gotOf, hd, hgot, hg]
    · simp only [hu]
      rfl
  rw [e]
  unfold callEndRun
  simp only [h0, h1, trapRun_nil]
  exact guard63_below h2

end Sys2Proof.Machine
end

