-- ==== Sys2Proof/Laws/PerInstr.lean ====
section
/-! SUPPORT. The family Found: every instruction is found again at the words that encode it, one lemma for each
constructor (R131, R134, R137, R138, R294). Whether its fields are legal is left to `check`. -/

/-- A machine event has no words; a core instruction is what the base or twin table of the core holds at its words, a
shroud instruction what the shroud's holds at its word. -/
def Sys2Proof.Laws.Found.Statement (i : Sys2Proof.Instr) : Prop :=
  match Sys2Proof.encode i with
  | [] => Sys2Proof.isEvent i = true
  | [w] =>
    (Sys2Proof.isCore i = true ∧ Sys2Proof.isTwin w = false ∧ Sys2Proof.baseInstr (Sys2Proof.opcodeOf w) w = some i)
      ∨ (Sys2Proof.isCore i = false ∧ Sys2Proof.look (w.extractLsb' 27 5).toNat (Sys2Proof.shroudRow w) = some i)
  | [w, x] =>
    Sys2Proof.isCore i = true ∧ Sys2Proof.isTwin w = true ∧ Sys2Proof.twinInstr (Sys2Proof.opcodeOf w) w x = some i
      ∧ ∃ j, Sys2Proof.twinInstr (Sys2Proof.opcodeOf w) w 0 = some j
  | _ => False

namespace Sys2Proof.Laws

open Sys2Proof.Machine

theorem found_r {mk : FR → Instr} {op : Nat} (hv : ∀ f, view (mk f) = .r op f) (ho : op < 512)
    (hb : ∀ w, baseInstr op w = some (mk (frOf w))) (f : FR) : Found.Statement (mk f) := by
  have he : encode (mk f) = [wordR 0 op f] := by rw [encode, hv]
  rw [Found.Statement, he]
  exact .inl ⟨by rw [isCore, hv], isTwin_wordR _ _ _, by rw [opcodeOf_wordR _ _ _ ho, hb, frOf_wordR]⟩
theorem found_i {mk : FI → Instr} {op : Nat} (hv : ∀ f, view (mk f) = .i op f) (ho : op < 512)
    (hb : ∀ w, baseInstr op w = some (mk (fiOf w))) (f : FI) : Found.Statement (mk f) := by
  have he : encode (mk f) = [wordI 0 op f] := by rw [encode, hv]
  rw [Found.Statement, he]
  exact .inl ⟨by rw [isCore, hv], isTwin_wordI _ _ _, by rw [opcodeOf_wordI _ _ _ ho, hb, fiOf_wordI]⟩
theorem found_b {mk : FB → Instr} {op : Nat} (hv : ∀ f, view (mk f) = .b op f) (ho : op < 512)
    (hb : ∀ w, baseInstr op w = some (mk (fbOf w))) (f : FB) : Found.Statement (mk f) := by
  have he : encode (mk f) = [wordB op f] := by rw [encode, hv]
  rw [Found.Statement, he]
  exact .inl ⟨by rw [isCore, hv], isTwin_wordB _ _, by rw [opcodeOf_wordB _ _ ho, hb, fbOf_wordB]⟩
theorem found_brcT (k : BitVec 3) (f : FB) : Found.Statement (.brcT k f) := by
  refine found_b (mk := .brcT k) (op := 0x020 + k.toNat) (fun _ => rfl) (by omega) (fun w => ?_) f
  revert k
  exact fun k => (by decide : ∀ k : BitVec 3, (0x020 + k.toNat) / 32 = 1 ∧ (0x020 + k.toNat) % 32 = k.toNat) k |> fun h => by
    rw [baseInstr, h.1, h.2]
    simp [branchRow, k.isLt]
theorem found_brcF (k : BitVec 3) (f : FB) : Found.Statement (.brcF k f) := by
  refine found_b (mk := .brcF k) (op := 0x028 + k.toNat) (fun _ => rfl) (by omega) (fun w => ?_) f
  have h := (by decide : ∀ k : BitVec 3, (0x028 + k.toNat) / 32 = 1 ∧ (0x028 + k.toNat) % 32 = 8 + k.toNat
    ∧ BitVec.ofNat 3 (8 + k.toNat) = k) k
  rw [baseInstr, h.1, h.2.1]
  have := k.isLt
  simp only [branchRow]
  rw [if_neg (by omega), if_pos (by omega), h.2.2]
theorem found_bre (n k : BitVec 2) (f : FB) : Found.Statement (.bre n k f) := by
  refine found_b (mk := .bre n k) (op := 0x030 + 4 * n.toNat + k.toNat) (fun _ => rfl) (by omega) (fun w => ?_) f
  have h := (by decide : ∀ n k : BitVec 2, (0x030 + 4 * n.toNat + k.toNat) / 32 = 1
    ∧ (0x030 + 4 * n.toNat + k.toNat) % 32 = 16 + 4 * n.toNat + k.toNat
    ∧ BitVec.ofNat 2 ((16 + 4 * n.toNat + k.toNat) / 4) = n ∧ BitVec.ofNat 2 (16 + 4 * n.toNat + k.toNat) = k) n k
  rw [baseInstr, h.1, h.2.1]
  simp only [branchRow]
  rw [if_neg (by omega), if_neg (by omega), h.2.2.1, h.2.2.2]
theorem found_t {mk : FR → Mod → Instr} {op : Nat} (hv : ∀ f m, view (mk f m) = .twin op f m) (ho : op < 512)
    (hb : ∀ w x, twinInstr op w x = some (mk (frOf w) (modOf x))) (f : FR) (m : Mod) : Found.Statement (mk f m) := by
  have he : encode (mk f m) = [wordR 1 op f, wordM m] := by rw [encode, hv]
  rw [Found.Statement, he]
  exact ⟨by rw [isCore, hv], isTwin_wordR _ _ _, by rw [opcodeOf_wordR _ _ _ ho, hb, frOf_wordR, modOf_wordM],
    _, by rw [opcodeOf_wordR _ _ _ ho, hb]⟩
theorem found_literal (f : FI) (w : W32) : Found.Statement (.moviLiteral f w) := by
  have hb : ∀ x y, twinInstr 0x061 x y = some (.moviLiteral (fiOf x) y) := fun _ _ => rfl
  exact ⟨rfl, isTwin_wordI _ _ _, by rw [opcodeOf_wordI _ _ _ (by decide), hb, fiOf_wordI],
    _, by rw [opcodeOf_wordI _ _ _ (by decide), hb]⟩
theorem found_sr {mk : SR → Instr} {op : Nat} (hv : ∀ f, view (mk f) = .sr op f) (ho : op < 32)
    (hb : ∀ w, look op (shroudRow w) = some (mk (srOf w))) (f : SR) : Found.Statement (mk f) := by
  have he : encode (mk f) = [BitVec.ofNat 5 op ++ f.d ++ f.a ++ f.b ++ f.f] := by rw [encode, hv]
  rw [Found.Statement, he]
  exact .inr ⟨by rw [isCore, hv], by rw [srOp_word _ _ ho, hb, srOf_word]⟩
theorem found_si {mk : SI → Instr} {op : Nat} (hv : ∀ f, view (mk f) = .si op f) (ho : op < 32)
    (hb : ∀ w, look op (shroudRow w) = some (mk (siOf w))) (f : SI) : Found.Statement (mk f) := by
  have he : encode (mk f) = [BitVec.ofNat 5 op ++ f.d ++ f.a ++ f.imm] := by rw [encode, hv]
  rw [Found.Statement, he]
  exact .inr ⟨by rw [isCore, hv], by rw [siOp_word _ _ ho, hb, siOf_word]⟩
theorem found_sf {mk : SF → Instr} {op : Nat} (hv : ∀ f, view (mk f) = .sf op f) (ho : op < 32)
    (hb : ∀ w, look op (shroudRow w) = some (mk (sfOf w))) (f : SF) : Found.Statement (mk f) := by
  have he : encode (mk f) = [BitVec.ofNat 5 op ++ f.d ++ f.a ++ f.fn ++ f.imm] := by rw [encode, hv]
  rw [Found.Statement, he]
  exact .inr ⟨by rw [isCore, hv], by rw [sfOp_word _ _ ho, hb, sfOf_word]⟩
theorem found_sb {mk : SB → Instr} {op : Nat} (hv : ∀ f, view (mk f) = .sb op f) (ho : op < 32)
    (hb : ∀ w, look op (shroudRow w) = some (mk (sbOf w))) (f : SB) : Found.Statement (mk f) := by
  have he : encode (mk f) = [BitVec.ofNat 5 op ++ f.a ++ f.z ++ f.off] := by rw [encode, hv]
  rw [Found.Statement, he]
  exact .inr ⟨by rw [isCore, hv], by rw [sbOp_word _ _ ho, hb, sbOf_word]⟩

theorem Found.clauseIssue (core lane : Nat) : Found.Statement (.clauseIssue core lane) := rfl
theorem Found.canvasGrant (core : Nat) : Found.Statement (.canvasGrant core) := rfl
theorem Found.halyardCycle : Found.Statement (.halyardCycle) := rfl
theorem Found.canvasClaim (core : Nat) : Found.Statement (.canvasClaim core) := rfl
theorem Found.intervalBoundary (wish : List Nat) : Found.Statement (.intervalBoundary wish) :=
  rfl
theorem Found.vmailWrite (cluster target : Nat) : Found.Statement (.vmailWrite cluster target) :=
  rfl
theorem Found.voltageMoveDone (cluster : Nat) : Found.Statement (.voltageMoveDone cluster) :=
  rfl
theorem Found.halyardCtlWrite (die value : Nat) : Found.Statement (.halyardCtlWrite die value) :=
  rfl
theorem Found.binTimerExpiry (core bin : Nat) : Found.Statement (.binTimerExpiry core bin) :=
  rfl
theorem Found.binEntry (op : Nat) : Found.Statement (.binEntry op) := rfl
theorem Found.launchEnd (launch : Nat) : Found.Statement (.launchEnd launch) := rfl
theorem Found.loadComplete (op : Nat) (ecc : Ecc) : Found.Statement (.loadComplete op ecc) :=
  rfl
theorem Found.longOpResult (op : Nat) : Found.Statement (.longOpResult op) := rfl
theorem Found.writePerform (op part : Nat) : Found.Statement (.writePerform op part) := rfl
theorem Found.atomicPerform (op : Nat) : Found.Statement (.atomicPerform op) := rfl
theorem Found.engineLineAcquire (op : Nat) : Found.Statement (.engineLineAcquire op) := rfl
theorem Found.copyIssue (op : Nat) : Found.Statement (.copyIssue op) := rfl
theorem Found.copyComplete (op : Nat) : Found.Statement (.copyComplete op) := rfl
theorem Found.mmaComplete (op : Nat) : Found.Statement (.mmaComplete op) := rfl
theorem Found.joinComplete (op : Nat) : Found.Statement (.joinComplete op) := rfl
theorem Found.normComplete (op : Nat) : Found.Statement (.normComplete op) := rfl
theorem Found.pdrnComplete (op : Nat) : Found.Statement (.pdrnComplete op) := rfl
theorem Found.cmtRoundClose (team cleat : Nat) : Found.Statement (.cmtRoundClose team cleat) :=
  rfl
theorem Found.arenaBlockNotice : Found.Statement (.arenaBlockNotice) := rfl
theorem Found.pageFaultResolve (fault : Nat) : Found.Statement (.pageFaultResolve fault) := rfl
theorem Found.pageWalk (die : Nat) : Found.Statement (.pageWalk die) := rfl
theorem Found.preempt (core ctx : Nat) : Found.Statement (.preempt core ctx) := rfl
theorem Found.placementPass (prefs : List (Nat × Nat)) : Found.Statement (.placementPass prefs) :=
  rfl
theorem Found.drainStart : Found.Statement (.drainStart) := rfl
theorem Found.shroudDispatchDeliver (shroud : Nat) : Found.Statement (.shroudDispatchDeliver shroud) :=
  rfl
theorem Found.shroudRoutineStart (shroud thread : Nat) : Found.Statement (.shroudRoutineStart shroud thread) :=
  rfl
theorem Found.svcEcho (op : Nat) : Found.Statement (.svcEcho op) := rfl
theorem Found.svcNote (op : Nat) : Found.Statement (.svcNote op) := rfl
theorem Found.svcAbortSelf (op : Nat) : Found.Statement (.svcAbortSelf op) := rfl
theorem Found.openVi (m : Msg) : Found.Statement (.openVi m) := rfl
theorem Found.closeVi (m : Msg) : Found.Statement (.closeVi m) := rfl
theorem Found.negotiate (m : Msg) : Found.Statement (.negotiate m) := rfl
theorem Found.createCtx (m : Msg) : Found.Statement (.createCtx m) := rfl
theorem Found.destroyCtx (m : Msg) : Found.Statement (.destroyCtx m) := rfl
theorem Found.mapWindow (m : Msg) : Found.Statement (.mapWindow m) := rfl
theorem Found.unmapWindow (m : Msg) : Found.Statement (.unmapWindow m) := rfl
theorem Found.loadObject (m : Msg) : Found.Statement (.loadObject m) := rfl
theorem Found.unload (m : Msg) : Found.Statement (.unload m) := rfl
theorem Found.launch (m : Msg) : Found.Statement (.launch m) := rfl
theorem Found.abort (m : Msg) : Found.Statement (.abort m) := rfl
theorem Found.unpark (m : Msg) : Found.Statement (.unpark m) := rfl
theorem Found.postGraph (m : Msg) : Found.Statement (.postGraph m) := rfl
theorem Found.queryContext (m : Msg) : Found.Statement (.queryContext m) := rfl
theorem Found.queryLaunch (m : Msg) : Found.Statement (.queryLaunch m) := rfl
theorem Found.queryGrant (m : Msg) : Found.Statement (.queryGrant m) := rfl
theorem Found.attest (m : Msg) : Found.Statement (.attest m) := rfl
theorem Found.subscribe (m : Msg) : Found.Statement (.subscribe m) := rfl
theorem Found.assignHeap (m : Msg) : Found.Statement (.assignHeap m) := rfl
theorem Found.releaseHeap (m : Msg) : Found.Statement (.releaseHeap m) := rfl
theorem Found.addQuota (m : Msg) : Found.Statement (.addQuota m) := rfl
theorem Found.setArenaMax (m : Msg) : Found.Statement (.setArenaMax m) := rfl
theorem Found.writeTap (m : Msg) : Found.Statement (.writeTap m) := rfl
theorem Found.writeSteer (m : Msg) : Found.Statement (.writeSteer m) := rfl
theorem Found.clearTrip (m : Msg) : Found.Statement (.clearTrip m) := rfl
theorem Found.writePaths (m : Msg) : Found.Statement (.writePaths m) := rfl
theorem Found.writePkeys (m : Msg) : Found.Statement (.writePkeys m) := rfl
theorem Found.rmaPut (r : Rma) : Found.Statement (.rmaPut r) := rfl
theorem Found.rmaGet (r : Rma) : Found.Statement (.rmaGet r) := rfl
theorem Found.rmaAtomic (r : Rma) : Found.Statement (.rmaAtomic r) := rfl
theorem Found.paceReceive (port pace : Nat) : Found.Statement (.paceReceive port pace) := rfl
theorem Found.linkLoss (port : Nat) : Found.Statement (.linkLoss port) := rfl
theorem Found.linkRestore (port : Nat) : Found.Statement (.linkRestore port) := rfl
theorem Found.powerOn (image : List Byte) : Found.Statement (.powerOn image) := rfl
theorem Found.firstStage (reefMin : Nat) (image : List Byte) : Found.Statement (.firstStage reefMin image) :=
  rfl
theorem Found.malukStage : Found.Statement (.malukStage) := rfl
theorem Found.fullReset : Found.Statement (.fullReset) := rfl
theorem Found.thermalThrottle (die temp : Nat) : Found.Statement (.thermalThrottle die temp) :=
  rfl
theorem Found.thermalRelease (die temp : Nat) : Found.Statement (.thermalRelease die temp) :=
  rfl
theorem Found.thermalShutdown (temp : Nat) : Found.Statement (.thermalShutdown temp) := rfl
theorem Found.patrolScrub (quarter : Nat) (ecc : Ecc) : Found.Statement (.patrolScrub quarter ecc) :=
  rfl
theorem Found.errorCounterPoll : Found.Statement (.errorCounterPoll) := rfl
theorem Found.sessionEndpointFails (vi : Nat) : Found.Statement (.sessionEndpointFails vi) :=
  rfl
theorem Found.walkEnd (walk : Nat) : Found.Statement (.walkEnd walk) := rfl
theorem Found.svcOtherService (op : Nat) : Found.Statement (.svcOtherService op) := rfl
theorem Found.queryOtherSubject (m : Msg) : Found.Statement (.queryOtherSubject m) := rfl
theorem Found.malformedRequest (m : Msg) : Found.Statement (.malformedRequest m) := rfl
theorem Found.coreRestart (core : Nat) : Found.Statement (.coreRestart core) := rfl
theorem Found.malukHeapPush (heap : Nat) (act : HeapAct) : Found.Statement (.malukHeapPush heap act) :=
  rfl
theorem Found.packetRetransmit (port msg : Nat) : Found.Statement (.packetRetransmit port msg) :=
  rfl
theorem Found.send (f : SR) : Found.Statement (.send f) :=
  found_sr (mk := .send) (fun _ => rfl) (by decide) (fun _ => rfl) _
theorem Found.sjmp (f : SB) : Found.Statement (.sjmp f) :=
  found_sb (mk := .sjmp) (fun _ => rfl) (by decide) (fun _ => rfl) _
theorem Found.sbrz (f : SB) : Found.Statement (.sbrz f) :=
  found_sb (mk := .sbrz) (fun _ => rfl) (by decide) (fun _ => rfl) _
theorem Found.sbrnz (f : SB) : Found.Statement (.sbrnz f) :=
  found_sb (mk := .sbrnz) (fun _ => rfl) (by decide) (fun _ => rfl) _
theorem Found.sloop (f : SB) : Found.Statement (.sloop f) :=
  found_sb (mk := .sloop) (fun _ => rfl) (by decide) (fun _ => rfl) _
theorem Found.salu (f : SR) : Found.Statement (.salu f) :=
  found_sr (mk := .salu) (fun _ => rfl) (by decide) (fun _ => rfl) _
theorem Found.salui (f : SF) : Found.Statement (.salui f) :=
  found_sf (mk := .salui) (fun _ => rfl) (by decide) (fun _ => rfl) _
theorem Found.smovi (f : SI) : Found.Statement (.smovi f) :=
  found_si (mk := .smovi) (fun _ => rfl) (by decide) (fun _ => rfl) _
theorem Found.sld (f : SI) : Found.Statement (.sld f) :=
  found_si (mk := .sld) (fun _ => rfl) (by decide) (fun _ => rfl) _
theorem Found.sst (f : SI) : Found.Statement (.sst f) :=
  found_si (mk := .sst) (fun _ => rfl) (by decide) (fun _ => rfl) _
theorem Found.sfence (f : SR) : Found.Statement (.sfence f) :=
  found_sr (mk := .sfence) (fun _ => rfl) (by decide) (fun _ => rfl) _
theorem Found.ssem (f : SR) : Found.Statement (.ssem f) :=
  found_sr (mk := .ssem) (fun _ => rfl) (by decide) (fun _ => rfl) _
theorem Found.skey (f : SR) : Found.Statement (.skey f) :=
  found_sr (mk := .skey) (fun _ => rfl) (by decide) (fun _ => rfl) _
theorem Found.vld (f : SR) : Found.Statement (.vld f) :=
  found_sr (mk := .vld) (fun _ => rfl) (by decide) (fun _ => rfl) _
theorem Found.vst (f : SR) : Found.Statement (.vst f) :=
  found_sr (mk := .vst) (fun _ => rfl) (by decide) (fun _ => rfl) _
theorem Found.valu (f : SR) : Found.Statement (.valu f) :=
  found_sr (mk := .valu) (fun _ => rfl) (by decide) (fun _ => rfl) _
theorem Found.vfma (f : SR) : Found.Statement (.vfma f) :=
  found_sr (mk := .vfma) (fun _ => rfl) (by decide) (fun _ => rfl) _
theorem Found.vsqrt (f : SR) : Found.Statement (.vsqrt f) :=
  found_sr (mk := .vsqrt) (fun _ => rfl) (by decide) (fun _ => rfl) _
theorem Found.vdiv (f : SR) : Found.Statement (.vdiv f) :=
  found_sr (mk := .vdiv) (fun _ => rfl) (by decide) (fun _ => rfl) _
theorem Found.vbcast (f : SR) : Found.Statement (.vbcast f) :=
  found_sr (mk := .vbcast) (fun _ => rfl) (by decide) (fun _ => rfl) _
theorem Found.vred (f : SR) : Found.Statement (.vred f) :=
  found_sr (mk := .vred) (fun _ => rfl) (by decide) (fun _ => rfl) _
theorem Found.vcmp (f : SR) : Found.Statement (.vcmp f) :=
  found_sr (mk := .vcmp) (fun _ => rfl) (by decide) (fun _ => rfl) _
theorem Found.vsel (f : SR) : Found.Statement (.vsel f) :=
  found_sr (mk := .vsel) (fun _ => rfl) (by decide) (fun _ => rfl) _
theorem Found.vspk (f : SR) : Found.Statement (.vspk f) :=
  found_sr (mk := .vspk) (fun _ => rfl) (by decide) (fun _ => rfl) _
theorem Found.nop (f : FR) : Found.Statement (.nop f) :=
  found_r (mk := .nop) (fun _ => rfl) (by decide) (fun _ => rfl) _
theorem Found.bra (f : FB) : Found.Statement (.bra f) :=
  found_b (mk := .bra) (fun _ => rfl) (by decide) (fun _ => rfl) _
theorem Found.jmpi (f : FR) : Found.Statement (.jmpi f) :=
  found_r (mk := .jmpi) (fun _ => rfl) (by decide) (fun _ => rfl) _
theorem Found.call (f : FB) : Found.Statement (.call f) :=
  found_b (mk := .call) (fun _ => rfl) (by decide) (fun _ => rfl) _
theorem Found.calli (f : FR) : Found.Statement (.calli f) :=
  found_r (mk := .calli) (fun _ => rfl) (by decide) (fun _ => rfl) _
theorem Found.ret (f : FR) : Found.Statement (.ret f) :=
  found_r (mk := .ret) (fun _ => rfl) (by decide) (fun _ => rfl) _
theorem Found.exit (f : FR) : Found.Statement (.exit f) :=
  found_r (mk := .exit) (fun _ => rfl) (by decide) (fun _ => rfl) _
theorem Found.yield (f : FR) : Found.Statement (.yield f) :=
  found_r (mk := .yield) (fun _ => rfl) (by decide) (fun _ => rfl) _
theorem Found.spawn (f : FR) : Found.Statement (.spawn f) :=
  found_r (mk := .spawn) (fun _ => rfl) (by decide) (fun _ => rfl) _
theorem Found.bincfg (f : FI) : Found.Statement (.bincfg f) :=
  found_i (mk := .bincfg) (fun _ => rfl) (by decide) (fun _ => rfl) _
theorem Found.rejn (f : FR) : Found.Statement (.rejn f) :=
  found_r (mk := .rejn) (fun _ => rfl) (by decide) (fun _ => rfl) _
theorem Found.rejnCmt (f : FR) : Found.Statement (.rejnCmt f) :=
  found_r (mk := .rejnCmt) (fun _ => rfl) (by decide) (fun _ => rfl) _
theorem Found.bar (f : FR) : Found.Statement (.bar f) :=
  found_r (mk := .bar) (fun _ => rfl) (by decide) (fun _ => rfl) _
theorem Found.bara (f : FR) : Found.Statement (.bara f) :=
  found_r (mk := .bara) (fun _ => rfl) (by decide) (fun _ => rfl) _
theorem Found.barw (f : FR) : Found.Statement (.barw f) :=
  found_r (mk := .barw) (fun _ => rfl) (by decide) (fun _ => rfl) _
theorem Found.clset (f : FR) : Found.Statement (.clset f) :=
  found_r (mk := .clset) (fun _ => rfl) (by decide) (fun _ => rfl) _
theorem Found.waitf (f : FI) : Found.Statement (.waitf f) :=
  found_i (mk := .waitf) (fun _ => rfl) (by decide) (fun _ => rfl) _
theorem Found.trap (f : FI) : Found.Statement (.trap f) :=
  found_i (mk := .trap) (fun _ => rfl) (by decide) (fun _ => rfl) _
theorem Found.svc (f : FI) : Found.Statement (.svc f) :=
  found_i (mk := .svc) (fun _ => rfl) (by decide) (fun _ => rfl) _
theorem Found.brcT (k : BitVec 3) (f : FB) : Found.Statement (.brcT k f) := found_brcT _ _
theorem Found.brcF (k : BitVec 3) (f : FB) : Found.Statement (.brcF k f) := found_brcF _ _
theorem Found.bre (n k : BitVec 2) (f : FB) : Found.Statement (.bre n k f) := found_bre _ _ _
theorem Found.iadd (f : FR) : Found.Statement (.iadd f) :=
  found_r (mk := .iadd) (fun _ => rfl) (by decide) (fun _ => rfl) _
theorem Found.isub (f : FR) : Found.Statement (.isub f) :=
  found_r (mk := .isub) (fun _ => rfl) (by decide) (fun _ => rfl) _
theorem Found.imul (f : FR) : Found.Statement (.imul f) :=
  found_r (mk := .imul) (fun _ => rfl) (by decide) (fun _ => rfl) _
theorem Found.imulh (f : FR) : Found.Statement (.imulh f) :=
  found_r (mk := .imulh) (fun _ => rfl) (by decide) (fun _ => rfl) _
theorem Found.imad (f : FR) : Found.Statement (.imad f) :=
  found_r (mk := .imad) (fun _ => rfl) (by decide) (fun _ => rfl) _
theorem Found.imadw (f : FR) : Found.Statement (.imadw f) :=
  found_r (mk := .imadw) (fun _ => rfl) (by decide) (fun _ => rfl) _
theorem Found.imin (f : FR) : Found.Statement (.imin f) :=
  found_r (mk := .imin) (fun _ => rfl) (by decide) (fun _ => rfl) _
theorem Found.imax (f : FR) : Found.Statement (.imax f) :=
  found_r (mk := .imax) (fun _ => rfl) (by decide) (fun _ => rfl) _
theorem Found.iabs (f : FR) : Found.Statement (.iabs f) :=
  found_r (mk := .iabs) (fun _ => rfl) (by decide) (fun _ => rfl) _
theorem Found.ineg (f : FR) : Found.Statement (.ineg f) :=
  found_r (mk := .ineg) (fun _ => rfl) (by decide) (fun _ => rfl) _
theorem Found.idiv (f : FR) : Found.Statement (.idiv f) :=
  found_r (mk := .idiv) (fun _ => rfl) (by decide) (fun _ => rfl) _
theorem Found.irem (f : FR) : Found.Statement (.irem f) :=
  found_r (mk := .irem) (fun _ => rfl) (by decide) (fun _ => rfl) _
theorem Found.isad (f : FR) : Found.Statement (.isad f) :=
  found_r (mk := .isad) (fun _ => rfl) (by decide) (fun _ => rfl) _
theorem Found.isetp (f : FR) : Found.Statement (.isetp f) :=
  found_r (mk := .isetp) (fun _ => rfl) (by decide) (fun _ => rfl) _
theorem Found.isel (f : FR) : Found.Statement (.isel f) :=
  found_r (mk := .isel) (fun _ => rfl) (by decide) (fun _ => rfl) _
theorem Found.lea (f : FR) : Found.Statement (.lea f) :=
  found_r (mk := .lea) (fun _ => rfl) (by decide) (fun _ => rfl) _
theorem Found.shl (f : FR) : Found.Statement (.shl f) :=
  found_r (mk := .shl) (fun _ => rfl) (by decide) (fun _ => rfl) _
theorem Found.shr (f : FR) : Found.Statement (.shr f) :=
  found_r (mk := .shr) (fun _ => rfl) (by decide) (fun _ => rfl) _
theorem Found.sar (f : FR) : Found.Statement (.sar f) :=
  found_r (mk := .sar) (fun _ => rfl) (by decide) (fun _ => rfl) _
theorem Found.rotl (f : FR) : Found.Statement (.rotl f) :=
  found_r (mk := .rotl) (fun _ => rfl) (by decide) (fun _ => rfl) _
theorem Found.iand (f : FR) : Found.Statement (.iand f) :=
  found_r (mk := .iand) (fun _ => rfl) (by decide) (fun _ => rfl) _
theorem Found.ior (f : FR) : Found.Statement (.ior f) :=
  found_r (mk := .ior) (fun _ => rfl) (by decide) (fun _ => rfl) _
theorem Found.ixor (f : FR) : Found.Statement (.ixor f) :=
  found_r (mk := .ixor) (fun _ => rfl) (by decide) (fun _ => rfl) _
theorem Found.inot (f : FR) : Found.Statement (.inot f) :=
  found_r (mk := .inot) (fun _ => rfl) (by decide) (fun _ => rfl) _
theorem Found.bfe (f : FR) : Found.Statement (.bfe f) :=
  found_r (mk := .bfe) (fun _ => rfl) (by decide) (fun _ => rfl) _
theorem Found.bfi (f : FR) : Found.Statement (.bfi f) :=
  found_r (mk := .bfi) (fun _ => rfl) (by decide) (fun _ => rfl) _
theorem Found.popc (f : FR) : Found.Statement (.popc f) :=
  found_r (mk := .popc) (fun _ => rfl) (by decide) (fun _ => rfl) _
theorem Found.clz (f : FR) : Found.Statement (.clz f) :=
  found_r (mk := .clz) (fun _ => rfl) (by decide) (fun _ => rfl) _
theorem Found.brev (f : FR) : Found.Statement (.brev f) :=
  found_r (mk := .brev) (fun _ => rfl) (by decide) (fun _ => rfl) _
theorem Found.prmt (f : FR) : Found.Statement (.prmt f) :=
  found_r (mk := .prmt) (fun _ => rfl) (by decide) (fun _ => rfl) _
theorem Found.mov (f : FR) : Found.Statement (.mov f) :=
  found_r (mk := .mov) (fun _ => rfl) (by decide) (fun _ => rfl) _
theorem Found.movi (f : FI) : Found.Statement (.movi f) :=
  found_i (mk := .movi) (fun _ => rfl) (by decide) (fun _ => rfl) _
theorem Found.movh (f : FI) : Found.Statement (.movh f) :=
  found_i (mk := .movh) (fun _ => rfl) (by decide) (fun _ => rfl) _
theorem Found.movrel (f : FR) : Found.Statement (.movrel f) :=
  found_r (mk := .movrel) (fun _ => rfl) (by decide) (fun _ => rfl) _
theorem Found.movrw (f : FR) : Found.Statement (.movrw f) :=
  found_r (mk := .movrw) (fun _ => rfl) (by decide) (fun _ => rfl) _
theorem Found.winb (f : FI) : Found.Statement (.winb f) :=
  found_i (mk := .winb) (fun _ => rfl) (by decide) (fun _ => rfl) _
theorem Found.srd (f : FI) : Found.Statement (.srd f) :=
  found_i (mk := .srd) (fun _ => rfl) (by decide) (fun _ => rfl) _
theorem Found.pand (f : FR) : Found.Statement (.pand f) :=
  found_r (mk := .pand) (fun _ => rfl) (by decide) (fun _ => rfl) _
theorem Found.por (f : FR) : Found.Statement (.por f) :=
  found_r (mk := .por) (fun _ => rfl) (by decide) (fun _ => rfl) _
theorem Found.pxor (f : FR) : Found.Statement (.pxor f) :=
  found_r (mk := .pxor) (fun _ => rfl) (by decide) (fun _ => rfl) _
theorem Found.pnot (f : FR) : Found.Statement (.pnot f) :=
  found_r (mk := .pnot) (fun _ => rfl) (by decide) (fun _ => rfl) _
theorem Found.ptov (f : FR) : Found.Statement (.ptov f) :=
  found_r (mk := .ptov) (fun _ => rfl) (by decide) (fun _ => rfl) _
theorem Found.vtop (f : FR) : Found.Statement (.vtop f) :=
  found_r (mk := .vtop) (fun _ => rfl) (by decide) (fun _ => rfl) _
theorem Found.fadd (f : FR) : Found.Statement (.fadd f) :=
  found_r (mk := .fadd) (fun _ => rfl) (by decide) (fun _ => rfl) _
theorem Found.fsub (f : FR) : Found.Statement (.fsub f) :=
  found_r (mk := .fsub) (fun _ => rfl) (by decide) (fun _ => rfl) _
theorem Found.fmul (f : FR) : Found.Statement (.fmul f) :=
  found_r (mk := .fmul) (fun _ => rfl) (by decide) (fun _ => rfl) _
theorem Found.ffma (f : FR) : Found.Statement (.ffma f) :=
  found_r (mk := .ffma) (fun _ => rfl) (by decide) (fun _ => rfl) _
theorem Found.fmin (f : FR) : Found.Statement (.fmin f) :=
  found_r (mk := .fmin) (fun _ => rfl) (by decide) (fun _ => rfl) _
theorem Found.fmax (f : FR) : Found.Statement (.fmax f) :=
  found_r (mk := .fmax) (fun _ => rfl) (by decide) (fun _ => rfl) _
theorem Found.fabs (f : FR) : Found.Statement (.fabs f) :=
  found_r (mk := .fabs) (fun _ => rfl) (by decide) (fun _ => rfl) _
theorem Found.fneg (f : FR) : Found.Statement (.fneg f) :=
  found_r (mk := .fneg) (fun _ => rfl) (by decide) (fun _ => rfl) _
theorem Found.fsetp (f : FR) : Found.Statement (.fsetp f) :=
  found_r (mk := .fsetp) (fun _ => rfl) (by decide) (fun _ => rfl) _
theorem Found.fclass (f : FR) : Found.Statement (.fclass f) :=
  found_r (mk := .fclass) (fun _ => rfl) (by decide) (fun _ => rfl) _
theorem Found.frcp (f : FR) : Found.Statement (.frcp f) :=
  found_r (mk := .frcp) (fun _ => rfl) (by decide) (fun _ => rfl) _
theorem Found.frsq (f : FR) : Found.Statement (.frsq f) :=
  found_r (mk := .frsq) (fun _ => rfl) (by decide) (fun _ => rfl) _
theorem Found.fsqrt (f : FR) : Found.Statement (.fsqrt f) :=
  found_r (mk := .fsqrt) (fun _ => rfl) (by decide) (fun _ => rfl) _
theorem Found.fdiv (f : FR) : Found.Statement (.fdiv f) :=
  found_r (mk := .fdiv) (fun _ => rfl) (by decide) (fun _ => rfl) _
theorem Found.fexp2 (f : FR) : Found.Statement (.fexp2 f) :=
  found_r (mk := .fexp2) (fun _ => rfl) (by decide) (fun _ => rfl) _
theorem Found.flog2 (f : FR) : Found.Statement (.flog2 f) :=
  found_r (mk := .flog2) (fun _ => rfl) (by decide) (fun _ => rfl) _
theorem Found.ftanh (f : FR) : Found.Statement (.ftanh f) :=
  found_r (mk := .ftanh) (fun _ => rfl) (by decide) (fun _ => rfl) _
theorem Found.fsin (f : FR) : Found.Statement (.fsin f) :=
  found_r (mk := .fsin) (fun _ => rfl) (by decide) (fun _ => rfl) _
theorem Found.fcos (f : FR) : Found.Statement (.fcos f) :=
  found_r (mk := .fcos) (fun _ => rfl) (by decide) (fun _ => rfl) _
theorem Found.fsigm (f : FR) : Found.Statement (.fsigm f) :=
  found_r (mk := .fsigm) (fun _ => rfl) (by decide) (fun _ => rfl) _
theorem Found.ferf (f : FR) : Found.Statement (.ferf f) :=
  found_r (mk := .ferf) (fun _ => rfl) (by decide) (fun _ => rfl) _
theorem Found.frnd (f : FR) : Found.Statement (.frnd f) :=
  found_r (mk := .frnd) (fun _ => rfl) (by decide) (fun _ => rfl) _
theorem Found.fscale (f : FR) : Found.Statement (.fscale f) :=
  found_r (mk := .fscale) (fun _ => rfl) (by decide) (fun _ => rfl) _
theorem Found.hadd2 (f : FR) : Found.Statement (.hadd2 f) :=
  found_r (mk := .hadd2) (fun _ => rfl) (by decide) (fun _ => rfl) _
theorem Found.hsub2 (f : FR) : Found.Statement (.hsub2 f) :=
  found_r (mk := .hsub2) (fun _ => rfl) (by decide) (fun _ => rfl) _
theorem Found.hmul2 (f : FR) : Found.Statement (.hmul2 f) :=
  found_r (mk := .hmul2) (fun _ => rfl) (by decide) (fun _ => rfl) _
theorem Found.hfma2 (f : FR) : Found.Statement (.hfma2 f) :=
  found_r (mk := .hfma2) (fun _ => rfl) (by decide) (fun _ => rfl) _
theorem Found.hmin2 (f : FR) : Found.Statement (.hmin2 f) :=
  found_r (mk := .hmin2) (fun _ => rfl) (by decide) (fun _ => rfl) _
theorem Found.hmax2 (f : FR) : Found.Statement (.hmax2 f) :=
  found_r (mk := .hmax2) (fun _ => rfl) (by decide) (fun _ => rfl) _
theorem Found.habs2 (f : FR) : Found.Statement (.habs2 f) :=
  found_r (mk := .habs2) (fun _ => rfl) (by decide) (fun _ => rfl) _
theorem Found.hsetp2 (f : FR) : Found.Statement (.hsetp2 f) :=
  found_r (mk := .hsetp2) (fun _ => rfl) (by decide) (fun _ => rfl) _
theorem Found.hdot2 (f : FR) : Found.Statement (.hdot2 f) :=
  found_r (mk := .hdot2) (fun _ => rfl) (by decide) (fun _ => rfl) _
theorem Found.htanh2 (f : FR) : Found.Statement (.htanh2 f) :=
  found_r (mk := .htanh2) (fun _ => rfl) (by decide) (fun _ => rfl) _
theorem Found.hrcp2 (f : FR) : Found.Statement (.hrcp2 f) :=
  found_r (mk := .hrcp2) (fun _ => rfl) (by decide) (fun _ => rfl) _
theorem Found.cvtf (f : FR) : Found.Statement (.cvtf f) :=
  found_r (mk := .cvtf) (fun _ => rfl) (by decide) (fun _ => rfl) _
theorem Found.cvti (f : FR) : Found.Statement (.cvti f) :=
  found_r (mk := .cvti) (fun _ => rfl) (by decide) (fun _ => rfl) _
theorem Found.cvtif (f : FR) : Found.Statement (.cvtif f) :=
  found_r (mk := .cvtif) (fun _ => rfl) (by decide) (fun _ => rfl) _
theorem Found.cvtii (f : FR) : Found.Statement (.cvtii f) :=
  found_r (mk := .cvtii) (fun _ => rfl) (by decide) (fun _ => rfl) _
theorem Found.pack8 (f : FR) : Found.Statement (.pack8 f) :=
  found_r (mk := .pack8) (fun _ => rfl) (by decide) (fun _ => rfl) _
theorem Found.unpk8 (f : FR) : Found.Statement (.unpk8 f) :=
  found_r (mk := .unpk8) (fun _ => rfl) (by decide) (fun _ => rfl) _
theorem Found.pack4 (f : FR) : Found.Statement (.pack4 f) :=
  found_r (mk := .pack4) (fun _ => rfl) (by decide) (fun _ => rfl) _
theorem Found.unpk4 (f : FR) : Found.Statement (.unpk4 f) :=
  found_r (mk := .unpk4) (fun _ => rfl) (by decide) (fun _ => rfl) _
theorem Found.packds (f : FR) : Found.Statement (.packds f) :=
  found_r (mk := .packds) (fun _ => rfl) (by decide) (fun _ => rfl) _
theorem Found.unpkds (f : FR) : Found.Statement (.unpkds f) :=
  found_r (mk := .unpkds) (fun _ => rfl) (by decide) (fun _ => rfl) _
theorem Found.bscale (f : FR) : Found.Statement (.bscale f) :=
  found_r (mk := .bscale) (fun _ => rfl) (by decide) (fun _ => rfl) _
theorem Found.cvt2 (f : FR) : Found.Statement (.cvt2 f) :=
  found_r (mk := .cvt2) (fun _ => rfl) (by decide) (fun _ => rfl) _
theorem Found.shfl (f : FR) : Found.Statement (.shfl f) :=
  found_r (mk := .shfl) (fun _ => rfl) (by decide) (fun _ => rfl) _
theorem Found.shflx (f : FR) : Found.Statement (.shflx f) :=
  found_r (mk := .shflx) (fun _ => rfl) (by decide) (fun _ => rfl) _
theorem Found.vote (f : FR) : Found.Statement (.vote f) :=
  found_r (mk := .vote) (fun _ => rfl) (by decide) (fun _ => rfl) _
theorem Found.ballot (f : FR) : Found.Statement (.ballot f) :=
  found_r (mk := .ballot) (fun _ => rfl) (by decide) (fun _ => rfl) _
theorem Found.ffs (f : FR) : Found.Statement (.ffs f) :=
  found_r (mk := .ffs) (fun _ => rfl) (by decide) (fun _ => rfl) _
theorem Found.gred (f : FR) : Found.Statement (.gred f) :=
  found_r (mk := .gred) (fun _ => rfl) (by decide) (fun _ => rfl) _
theorem Found.gscan (f : FR) : Found.Statement (.gscan f) :=
  found_r (mk := .gscan) (fun _ => rfl) (by decide) (fun _ => rfl) _
theorem Found.bcast (f : FR) : Found.Statement (.bcast f) :=
  found_r (mk := .bcast) (fun _ => rfl) (by decide) (fun _ => rfl) _
theorem Found.gmatch (f : FR) : Found.Statement (.gmatch f) :=
  found_r (mk := .gmatch) (fun _ => rfl) (by decide) (fun _ => rfl) _
theorem Found.gcount (f : FR) : Found.Statement (.gcount f) :=
  found_r (mk := .gcount) (fun _ => rfl) (by decide) (fun _ => rfl) _
theorem Found.wbind (f : FR) : Found.Statement (.wbind f) :=
  found_r (mk := .wbind) (fun _ => rfl) (by decide) (fun _ => rfl) _
theorem Found.wunb (f : FR) : Found.Statement (.wunb f) :=
  found_r (mk := .wunb) (fun _ => rfl) (by decide) (fun _ => rfl) _
theorem Found.wpos (f : FR) : Found.Statement (.wpos f) :=
  found_r (mk := .wpos) (fun _ => rfl) (by decide) (fun _ => rfl) _
theorem Found.dload (f : FR) : Found.Statement (.dload f) :=
  found_r (mk := .dload) (fun _ => rfl) (by decide) (fun _ => rfl) _
theorem Found.dkey (f : FR) : Found.Statement (.dkey f) :=
  found_r (mk := .dkey) (fun _ => rfl) (by decide) (fun _ => rfl) _
theorem Found.dpos (f : FR) : Found.Statement (.dpos f) :=
  found_r (mk := .dpos) (fun _ => rfl) (by decide) (fun _ => rfl) _
theorem Found.dget (f : FR) : Found.Statement (.dget f) :=
  found_r (mk := .dget) (fun _ => rfl) (by decide) (fun _ => rfl) _
theorem Found.dset (f : FR) : Found.Statement (.dset f) :=
  found_r (mk := .dset) (fun _ => rfl) (by decide) (fun _ => rfl) _
theorem Found.dskip (f : FR) : Found.Statement (.dskip f) :=
  found_r (mk := .dskip) (fun _ => rfl) (by decide) (fun _ => rfl) _
theorem Found.dfork (f : FR) : Found.Statement (.dfork f) :=
  found_r (mk := .dfork) (fun _ => rfl) (by decide) (fun _ => rfl) _
theorem Found.rand (f : FR) : Found.Statement (.rand f) :=
  found_r (mk := .rand) (fun _ => rfl) (by decide) (fun _ => rfl) _
theorem Found.dinfo (f : FR) : Found.Statement (.dinfo f) :=
  found_r (mk := .dinfo) (fun _ => rfl) (by decide) (fun _ => rfl) _
theorem Found.randn (f : FR) : Found.Statement (.randn f) :=
  found_r (mk := .randn) (fun _ => rfl) (by decide) (fun _ => rfl) _
theorem Found.dpeek (f : FR) : Found.Statement (.dpeek f) :=
  found_r (mk := .dpeek) (fun _ => rfl) (by decide) (fun _ => rfl) _
theorem Found.ld (f : FR) : Found.Statement (.ld f) :=
  found_r (mk := .ld) (fun _ => rfl) (by decide) (fun _ => rfl) _
theorem Found.st (f : FR) : Found.Statement (.st f) :=
  found_r (mk := .st) (fun _ => rfl) (by decide) (fun _ => rfl) _
theorem Found.lds (f : FR) : Found.Statement (.lds f) :=
  found_r (mk := .lds) (fun _ => rfl) (by decide) (fun _ => rfl) _
theorem Found.sts (f : FR) : Found.Statement (.sts f) :=
  found_r (mk := .sts) (fun _ => rfl) (by decide) (fun _ => rfl) _
theorem Found.ldo (f : FR) : Found.Statement (.ldo f) :=
  found_r (mk := .ldo) (fun _ => rfl) (by decide) (fun _ => rfl) _
theorem Found.ldv (f : FR) : Found.Statement (.ldv f) :=
  found_r (mk := .ldv) (fun _ => rfl) (by decide) (fun _ => rfl) _
theorem Found.stt (f : FR) : Found.Statement (.stt f) :=
  found_r (mk := .stt) (fun _ => rfl) (by decide) (fun _ => rfl) _
theorem Found.pref (f : FR) : Found.Statement (.pref f) :=
  found_r (mk := .pref) (fun _ => rfl) (by decide) (fun _ => rfl) _
theorem Found.lda (f : FR) : Found.Statement (.lda f) :=
  found_r (mk := .lda) (fun _ => rfl) (by decide) (fun _ => rfl) _
theorem Found.str (f : FR) : Found.Statement (.str f) :=
  found_r (mk := .str) (fun _ => rfl) (by decide) (fun _ => rfl) _
theorem Found.fence (f : FR) : Found.Statement (.fence f) :=
  found_r (mk := .fence) (fun _ => rfl) (by decide) (fun _ => rfl) _
theorem Found.atomAdd (f : FR) : Found.Statement (.atomAdd f) :=
  found_r (mk := .atomAdd) (fun _ => rfl) (by decide) (fun _ => rfl) _
theorem Found.atomFadd (f : FR) : Found.Statement (.atomFadd f) :=
  found_r (mk := .atomFadd) (fun _ => rfl) (by decide) (fun _ => rfl) _
theorem Found.atomMin (f : FR) : Found.Statement (.atomMin f) :=
  found_r (mk := .atomMin) (fun _ => rfl) (by decide) (fun _ => rfl) _
theorem Found.atomMax (f : FR) : Found.Statement (.atomMax f) :=
  found_r (mk := .atomMax) (fun _ => rfl) (by decide) (fun _ => rfl) _
theorem Found.atomAnd (f : FR) : Found.Statement (.atomAnd f) :=
  found_r (mk := .atomAnd) (fun _ => rfl) (by decide) (fun _ => rfl) _
theorem Found.atomOr (f : FR) : Found.Statement (.atomOr f) :=
  found_r (mk := .atomOr) (fun _ => rfl) (by decide) (fun _ => rfl) _
theorem Found.atomXor (f : FR) : Found.Statement (.atomXor f) :=
  found_r (mk := .atomXor) (fun _ => rfl) (by decide) (fun _ => rfl) _
theorem Found.atomXchg (f : FR) : Found.Statement (.atomXchg f) :=
  found_r (mk := .atomXchg) (fun _ => rfl) (by decide) (fun _ => rfl) _
theorem Found.atomCas (f : FR) : Found.Statement (.atomCas f) :=
  found_r (mk := .atomCas) (fun _ => rfl) (by decide) (fun _ => rfl) _
theorem Found.atomInc (f : FR) : Found.Statement (.atomInc f) :=
  found_r (mk := .atomInc) (fun _ => rfl) (by decide) (fun _ => rfl) _
theorem Found.atomDec (f : FR) : Found.Statement (.atomDec f) :=
  found_r (mk := .atomDec) (fun _ => rfl) (by decide) (fun _ => rfl) _
theorem Found.atomHadd2 (f : FR) : Found.Statement (.atomHadd2 f) :=
  found_r (mk := .atomHadd2) (fun _ => rfl) (by decide) (fun _ => rfl) _
theorem Found.atomsAdd (f : FR) : Found.Statement (.atomsAdd f) :=
  found_r (mk := .atomsAdd) (fun _ => rfl) (by decide) (fun _ => rfl) _
theorem Found.atomsCas (f : FR) : Found.Statement (.atomsCas f) :=
  found_r (mk := .atomsCas) (fun _ => rfl) (by decide) (fun _ => rfl) _
theorem Found.atomsXchg (f : FR) : Found.Statement (.atomsXchg f) :=
  found_r (mk := .atomsXchg) (fun _ => rfl) (by decide) (fun _ => rfl) _
theorem Found.copy (f : FR) : Found.Statement (.copy f) :=
  found_r (mk := .copy) (fun _ => rfl) (by decide) (fun _ => rfl) _
theorem Found.copys (f : FR) : Found.Statement (.copys f) :=
  found_r (mk := .copys) (fun _ => rfl) (by decide) (fun _ => rfl) _
theorem Found.copym (f : FR) : Found.Statement (.copym f) :=
  found_r (mk := .copym) (fun _ => rfl) (by decide) (fun _ => rfl) _
theorem Found.copyr (f : FR) : Found.Statement (.copyr f) :=
  found_r (mk := .copyr) (fun _ => rfl) (by decide) (fun _ => rfl) _
theorem Found.seminc (f : FR) : Found.Statement (.seminc f) :=
  found_r (mk := .seminc) (fun _ => rfl) (by decide) (fun _ => rfl) _
theorem Found.semwait (f : FR) : Found.Statement (.semwait f) :=
  found_r (mk := .semwait) (fun _ => rfl) (by decide) (fun _ => rfl) _
theorem Found.semset (f : FR) : Found.Statement (.semset f) :=
  found_r (mk := .semset) (fun _ => rfl) (by decide) (fun _ => rfl) _
theorem Found.semrd (f : FR) : Found.Statement (.semrd f) :=
  found_r (mk := .semrd) (fun _ => rfl) (by decide) (fun _ => rfl) _
theorem Found.tgpost (f : FR) : Found.Statement (.tgpost f) :=
  found_r (mk := .tgpost) (fun _ => rfl) (by decide) (fun _ => rfl) _
theorem Found.tgwait (f : FR) : Found.Statement (.tgwait f) :=
  found_r (mk := .tgwait) (fun _ => rfl) (by decide) (fun _ => rfl) _
theorem Found.tginit (f : FR) : Found.Statement (.tginit f) :=
  found_r (mk := .tginit) (fun _ => rfl) (by decide) (fun _ => rfl) _
theorem Found.tglink (f : FR) : Found.Statement (.tglink f) :=
  found_r (mk := .tglink) (fun _ => rfl) (by decide) (fun _ => rfl) _
theorem Found.cpst (f : FR) : Found.Statement (.cpst f) :=
  found_r (mk := .cpst) (fun _ => rfl) (by decide) (fun _ => rfl) _
theorem Found.mma (f : FR) : Found.Statement (.mma f) :=
  found_r (mk := .mma) (fun _ => rfl) (by decide) (fun _ => rfl) _
theorem Found.mmaq (f : FR) : Found.Statement (.mmaq f) :=
  found_r (mk := .mmaq) (fun _ => rfl) (by decide) (fun _ => rfl) _
theorem Found.mmas (f : FR) : Found.Statement (.mmas f) :=
  found_r (mk := .mmas) (fun _ => rfl) (by decide) (fun _ => rfl) _
theorem Found.join (f : FR) : Found.Statement (.join f) :=
  found_r (mk := .join) (fun _ => rfl) (by decide) (fun _ => rfl) _
theorem Found.pcfg (f : FR) : Found.Statement (.pcfg f) :=
  found_r (mk := .pcfg) (fun _ => rfl) (by decide) (fun _ => rfl) _
theorem Found.pins (f : FR) : Found.Statement (.pins f) :=
  found_r (mk := .pins) (fun _ => rfl) (by decide) (fun _ => rfl) _
theorem Found.plup (f : FR) : Found.Statement (.plup f) :=
  found_r (mk := .plup) (fun _ => rfl) (by decide) (fun _ => rfl) _
theorem Found.pcnt (f : FR) : Found.Statement (.pcnt f) :=
  found_r (mk := .pcnt) (fun _ => rfl) (by decide) (fun _ => rfl) _
theorem Found.prd (f : FR) : Found.Statement (.prd f) :=
  found_r (mk := .prd) (fun _ => rfl) (by decide) (fun _ => rfl) _
theorem Found.pdrn (f : FR) : Found.Statement (.pdrn f) :=
  found_r (mk := .pdrn) (fun _ => rfl) (by decide) (fun _ => rfl) _
theorem Found.pclr (f : FR) : Found.Statement (.pclr f) :=
  found_r (mk := .pclr) (fun _ => rfl) (by decide) (fun _ => rfl) _
theorem Found.pdel (f : FR) : Found.Statement (.pdel f) :=
  found_r (mk := .pdel) (fun _ => rfl) (by decide) (fun _ => rfl) _
theorem Found.norm (f : FR) : Found.Statement (.norm f) :=
  found_r (mk := .norm) (fun _ => rfl) (by decide) (fun _ => rfl) _
theorem Found.smrg (f : FR) : Found.Statement (.smrg f) :=
  found_r (mk := .smrg) (fun _ => rfl) (by decide) (fun _ => rfl) _
theorem Found.spick (f : FR) : Found.Statement (.spick f) :=
  found_r (mk := .spick) (fun _ => rfl) (by decide) (fun _ => rfl) _
theorem Found.hpush (f : FR) : Found.Statement (.hpush f) :=
  found_r (mk := .hpush) (fun _ => rfl) (by decide) (fun _ => rfl) _
theorem Found.htake (f : FR) : Found.Statement (.htake f) :=
  found_r (mk := .htake) (fun _ => rfl) (by decide) (fun _ => rfl) _
theorem Found.hbud (f : FR) : Found.Statement (.hbud f) :=
  found_r (mk := .hbud) (fun _ => rfl) (by decide) (fun _ => rfl) _
theorem Found.hdel (f : FR) : Found.Statement (.hdel f) :=
  found_r (mk := .hdel) (fun _ => rfl) (by decide) (fun _ => rfl) _
theorem Found.hpeek (f : FR) : Found.Statement (.hpeek f) :=
  found_r (mk := .hpeek) (fun _ => rfl) (by decide) (fun _ => rfl) _
theorem Found.hlen (f : FR) : Found.Statement (.hlen f) :=
  found_r (mk := .hlen) (fun _ => rfl) (by decide) (fun _ => rfl) _
theorem Found.rmask (f : FR) : Found.Statement (.rmask f) :=
  found_r (mk := .rmask) (fun _ => rfl) (by decide) (fun _ => rfl) _
theorem Found.tret (f : FR) : Found.Statement (.tret f) :=
  found_r (mk := .tret) (fun _ => rfl) (by decide) (fun _ => rfl) _
theorem Found.trrd (f : FR) : Found.Statement (.trrd f) :=
  found_r (mk := .trrd) (fun _ => rfl) (by decide) (fun _ => rfl) _
theorem Found.cycrd (f : FR) : Found.Statement (.cycrd f) :=
  found_r (mk := .cycrd) (fun _ => rfl) (by decide) (fun _ => rfl) _
theorem Found.perfrd (f : FR) : Found.Statement (.perfrd f) :=
  found_r (mk := .perfrd) (fun _ => rfl) (by decide) (fun _ => rfl) _
theorem Found.seqbind (f : FR) : Found.Statement (.seqbind f) :=
  found_r (mk := .seqbind) (fun _ => rfl) (by decide) (fun _ => rfl) _
theorem Found.seqrd (f : FR) : Found.Statement (.seqrd f) :=
  found_r (mk := .seqrd) (fun _ => rfl) (by decide) (fun _ => rfl) _
theorem Found.privrd (f : FR) : Found.Statement (.privrd f) :=
  found_r (mk := .privrd) (fun _ => rfl) (by decide) (fun _ => rfl) _
theorem Found.privwr (f : FR) : Found.Statement (.privwr f) :=
  found_r (mk := .privwr) (fun _ => rfl) (by decide) (fun _ => rfl) _
theorem Found.tlbinv (f : FR) : Found.Statement (.tlbinv f) :=
  found_r (mk := .tlbinv) (fun _ => rfl) (by decide) (fun _ => rfl) _
theorem Found.ctxsw (f : FR) : Found.Statement (.ctxsw f) :=
  found_r (mk := .ctxsw) (fun _ => rfl) (by decide) (fun _ => rfl) _
theorem Found.cachefl (f : FR) : Found.Statement (.cachefl f) :=
  found_r (mk := .cachefl) (fun _ => rfl) (by decide) (fun _ => rfl) _
theorem Found.poisclr (f : FR) : Found.Statement (.poisclr f) :=
  found_r (mk := .poisclr) (fun _ => rfl) (by decide) (fun _ => rfl) _
theorem Found.halt (f : FR) : Found.Statement (.halt f) :=
  found_r (mk := .halt) (fun _ => rfl) (by decide) (fun _ => rfl) _
theorem Found.evpost (f : FR) : Found.Statement (.evpost f) :=
  found_r (mk := .evpost) (fun _ => rfl) (by decide) (fun _ => rfl) _
theorem Found.iaddTwin (f : FR) (m : Mod) : Found.Statement (.iaddTwin f m) :=
  found_t (mk := .iaddTwin) (fun _ _ => rfl) (by decide) (fun _ _ => rfl) _ _
theorem Found.isubTwin (f : FR) (m : Mod) : Found.Statement (.isubTwin f m) :=
  found_t (mk := .isubTwin) (fun _ _ => rfl) (by decide) (fun _ _ => rfl) _ _
theorem Found.imulTwin (f : FR) (m : Mod) : Found.Statement (.imulTwin f m) :=
  found_t (mk := .imulTwin) (fun _ _ => rfl) (by decide) (fun _ _ => rfl) _ _
theorem Found.imulhTwin (f : FR) (m : Mod) : Found.Statement (.imulhTwin f m) :=
  found_t (mk := .imulhTwin) (fun _ _ => rfl) (by decide) (fun _ _ => rfl) _ _
theorem Found.imadTwin (f : FR) (m : Mod) : Found.Statement (.imadTwin f m) :=
  found_t (mk := .imadTwin) (fun _ _ => rfl) (by decide) (fun _ _ => rfl) _ _
theorem Found.imadwTwin (f : FR) (m : Mod) : Found.Statement (.imadwTwin f m) :=
  found_t (mk := .imadwTwin) (fun _ _ => rfl) (by decide) (fun _ _ => rfl) _ _
theorem Found.iminTwin (f : FR) (m : Mod) : Found.Statement (.iminTwin f m) :=
  found_t (mk := .iminTwin) (fun _ _ => rfl) (by decide) (fun _ _ => rfl) _ _
theorem Found.imaxTwin (f : FR) (m : Mod) : Found.Statement (.imaxTwin f m) :=
  found_t (mk := .imaxTwin) (fun _ _ => rfl) (by decide) (fun _ _ => rfl) _ _
theorem Found.iabsTwin (f : FR) (m : Mod) : Found.Statement (.iabsTwin f m) :=
  found_t (mk := .iabsTwin) (fun _ _ => rfl) (by decide) (fun _ _ => rfl) _ _
theorem Found.inegTwin (f : FR) (m : Mod) : Found.Statement (.inegTwin f m) :=
  found_t (mk := .inegTwin) (fun _ _ => rfl) (by decide) (fun _ _ => rfl) _ _
theorem Found.idivTwin (f : FR) (m : Mod) : Found.Statement (.idivTwin f m) :=
  found_t (mk := .idivTwin) (fun _ _ => rfl) (by decide) (fun _ _ => rfl) _ _
theorem Found.iremTwin (f : FR) (m : Mod) : Found.Statement (.iremTwin f m) :=
  found_t (mk := .iremTwin) (fun _ _ => rfl) (by decide) (fun _ _ => rfl) _ _
theorem Found.isadTwin (f : FR) (m : Mod) : Found.Statement (.isadTwin f m) :=
  found_t (mk := .isadTwin) (fun _ _ => rfl) (by decide) (fun _ _ => rfl) _ _
theorem Found.isetpTwin (f : FR) (m : Mod) : Found.Statement (.isetpTwin f m) :=
  found_t (mk := .isetpTwin) (fun _ _ => rfl) (by decide) (fun _ _ => rfl) _ _
theorem Found.iselTwin (f : FR) (m : Mod) : Found.Statement (.iselTwin f m) :=
  found_t (mk := .iselTwin) (fun _ _ => rfl) (by decide) (fun _ _ => rfl) _ _
theorem Found.leaTwin (f : FR) (m : Mod) : Found.Statement (.leaTwin f m) :=
  found_t (mk := .leaTwin) (fun _ _ => rfl) (by decide) (fun _ _ => rfl) _ _
theorem Found.shlTwin (f : FR) (m : Mod) : Found.Statement (.shlTwin f m) :=
  found_t (mk := .shlTwin) (fun _ _ => rfl) (by decide) (fun _ _ => rfl) _ _
theorem Found.shrTwin (f : FR) (m : Mod) : Found.Statement (.shrTwin f m) :=
  found_t (mk := .shrTwin) (fun _ _ => rfl) (by decide) (fun _ _ => rfl) _ _
theorem Found.sarTwin (f : FR) (m : Mod) : Found.Statement (.sarTwin f m) :=
  found_t (mk := .sarTwin) (fun _ _ => rfl) (by decide) (fun _ _ => rfl) _ _
theorem Found.rotlTwin (f : FR) (m : Mod) : Found.Statement (.rotlTwin f m) :=
  found_t (mk := .rotlTwin) (fun _ _ => rfl) (by decide) (fun _ _ => rfl) _ _
theorem Found.iandTwin (f : FR) (m : Mod) : Found.Statement (.iandTwin f m) :=
  found_t (mk := .iandTwin) (fun _ _ => rfl) (by decide) (fun _ _ => rfl) _ _
theorem Found.iorTwin (f : FR) (m : Mod) : Found.Statement (.iorTwin f m) :=
  found_t (mk := .iorTwin) (fun _ _ => rfl) (by decide) (fun _ _ => rfl) _ _
theorem Found.ixorTwin (f : FR) (m : Mod) : Found.Statement (.ixorTwin f m) :=
  found_t (mk := .ixorTwin) (fun _ _ => rfl) (by decide) (fun _ _ => rfl) _ _
theorem Found.inotTwin (f : FR) (m : Mod) : Found.Statement (.inotTwin f m) :=
  found_t (mk := .inotTwin) (fun _ _ => rfl) (by decide) (fun _ _ => rfl) _ _
theorem Found.bfeTwin (f : FR) (m : Mod) : Found.Statement (.bfeTwin f m) :=
  found_t (mk := .bfeTwin) (fun _ _ => rfl) (by decide) (fun _ _ => rfl) _ _
theorem Found.bfiTwin (f : FR) (m : Mod) : Found.Statement (.bfiTwin f m) :=
  found_t (mk := .bfiTwin) (fun _ _ => rfl) (by decide) (fun _ _ => rfl) _ _
theorem Found.popcTwin (f : FR) (m : Mod) : Found.Statement (.popcTwin f m) :=
  found_t (mk := .popcTwin) (fun _ _ => rfl) (by decide) (fun _ _ => rfl) _ _
theorem Found.clzTwin (f : FR) (m : Mod) : Found.Statement (.clzTwin f m) :=
  found_t (mk := .clzTwin) (fun _ _ => rfl) (by decide) (fun _ _ => rfl) _ _
theorem Found.brevTwin (f : FR) (m : Mod) : Found.Statement (.brevTwin f m) :=
  found_t (mk := .brevTwin) (fun _ _ => rfl) (by decide) (fun _ _ => rfl) _ _
theorem Found.prmtTwin (f : FR) (m : Mod) : Found.Statement (.prmtTwin f m) :=
  found_t (mk := .prmtTwin) (fun _ _ => rfl) (by decide) (fun _ _ => rfl) _ _
theorem Found.movTwin (f : FR) (m : Mod) : Found.Statement (.movTwin f m) :=
  found_t (mk := .movTwin) (fun _ _ => rfl) (by decide) (fun _ _ => rfl) _ _
theorem Found.moviLiteral (f : FI) (w : W32) : Found.Statement (.moviLiteral f w) :=
  found_literal _ _
theorem Found.faddTwin (f : FR) (m : Mod) : Found.Statement (.faddTwin f m) :=
  found_t (mk := .faddTwin) (fun _ _ => rfl) (by decide) (fun _ _ => rfl) _ _
theorem Found.fsubTwin (f : FR) (m : Mod) : Found.Statement (.fsubTwin f m) :=
  found_t (mk := .fsubTwin) (fun _ _ => rfl) (by decide) (fun _ _ => rfl) _ _
theorem Found.fmulTwin (f : FR) (m : Mod) : Found.Statement (.fmulTwin f m) :=
  found_t (mk := .fmulTwin) (fun _ _ => rfl) (by decide) (fun _ _ => rfl) _ _
theorem Found.ffmaTwin (f : FR) (m : Mod) : Found.Statement (.ffmaTwin f m) :=
  found_t (mk := .ffmaTwin) (fun _ _ => rfl) (by decide) (fun _ _ => rfl) _ _
theorem Found.fminTwin (f : FR) (m : Mod) : Found.Statement (.fminTwin f m) :=
  found_t (mk := .fminTwin) (fun _ _ => rfl) (by decide) (fun _ _ => rfl) _ _
theorem Found.fmaxTwin (f : FR) (m : Mod) : Found.Statement (.fmaxTwin f m) :=
  found_t (mk := .fmaxTwin) (fun _ _ => rfl) (by decide) (fun _ _ => rfl) _ _
theorem Found.fabsTwin (f : FR) (m : Mod) : Found.Statement (.fabsTwin f m) :=
  found_t (mk := .fabsTwin) (fun _ _ => rfl) (by decide) (fun _ _ => rfl) _ _
theorem Found.fnegTwin (f : FR) (m : Mod) : Found.Statement (.fnegTwin f m) :=
  found_t (mk := .fnegTwin) (fun _ _ => rfl) (by decide) (fun _ _ => rfl) _ _
theorem Found.fsetpTwin (f : FR) (m : Mod) : Found.Statement (.fsetpTwin f m) :=
  found_t (mk := .fsetpTwin) (fun _ _ => rfl) (by decide) (fun _ _ => rfl) _ _
theorem Found.fclassTwin (f : FR) (m : Mod) : Found.Statement (.fclassTwin f m) :=
  found_t (mk := .fclassTwin) (fun _ _ => rfl) (by decide) (fun _ _ => rfl) _ _
theorem Found.frcpTwin (f : FR) (m : Mod) : Found.Statement (.frcpTwin f m) :=
  found_t (mk := .frcpTwin) (fun _ _ => rfl) (by decide) (fun _ _ => rfl) _ _
theorem Found.frsqTwin (f : FR) (m : Mod) : Found.Statement (.frsqTwin f m) :=
  found_t (mk := .frsqTwin) (fun _ _ => rfl) (by decide) (fun _ _ => rfl) _ _
theorem Found.fsqrtTwin (f : FR) (m : Mod) : Found.Statement (.fsqrtTwin f m) :=
  found_t (mk := .fsqrtTwin) (fun _ _ => rfl) (by decide) (fun _ _ => rfl) _ _
theorem Found.fdivTwin (f : FR) (m : Mod) : Found.Statement (.fdivTwin f m) :=
  found_t (mk := .fdivTwin) (fun _ _ => rfl) (by decide) (fun _ _ => rfl) _ _
theorem Found.fexp2Twin (f : FR) (m : Mod) : Found.Statement (.fexp2Twin f m) :=
  found_t (mk := .fexp2Twin) (fun _ _ => rfl) (by decide) (fun _ _ => rfl) _ _
theorem Found.flog2Twin (f : FR) (m : Mod) : Found.Statement (.flog2Twin f m) :=
  found_t (mk := .flog2Twin) (fun _ _ => rfl) (by decide) (fun _ _ => rfl) _ _
theorem Found.ftanhTwin (f : FR) (m : Mod) : Found.Statement (.ftanhTwin f m) :=
  found_t (mk := .ftanhTwin) (fun _ _ => rfl) (by decide) (fun _ _ => rfl) _ _
theorem Found.fsinTwin (f : FR) (m : Mod) : Found.Statement (.fsinTwin f m) :=
  found_t (mk := .fsinTwin) (fun _ _ => rfl) (by decide) (fun _ _ => rfl) _ _
theorem Found.fcosTwin (f : FR) (m : Mod) : Found.Statement (.fcosTwin f m) :=
  found_t (mk := .fcosTwin) (fun _ _ => rfl) (by decide) (fun _ _ => rfl) _ _
theorem Found.fsigmTwin (f : FR) (m : Mod) : Found.Statement (.fsigmTwin f m) :=
  found_t (mk := .fsigmTwin) (fun _ _ => rfl) (by decide) (fun _ _ => rfl) _ _
theorem Found.ferfTwin (f : FR) (m : Mod) : Found.Statement (.ferfTwin f m) :=
  found_t (mk := .ferfTwin) (fun _ _ => rfl) (by decide) (fun _ _ => rfl) _ _
theorem Found.frndTwin (f : FR) (m : Mod) : Found.Statement (.frndTwin f m) :=
  found_t (mk := .frndTwin) (fun _ _ => rfl) (by decide) (fun _ _ => rfl) _ _
theorem Found.fscaleTwin (f : FR) (m : Mod) : Found.Statement (.fscaleTwin f m) :=
  found_t (mk := .fscaleTwin) (fun _ _ => rfl) (by decide) (fun _ _ => rfl) _ _
theorem Found.hadd2Twin (f : FR) (m : Mod) : Found.Statement (.hadd2Twin f m) :=
  found_t (mk := .hadd2Twin) (fun _ _ => rfl) (by decide) (fun _ _ => rfl) _ _
theorem Found.hsub2Twin (f : FR) (m : Mod) : Found.Statement (.hsub2Twin f m) :=
  found_t (mk := .hsub2Twin) (fun _ _ => rfl) (by decide) (fun _ _ => rfl) _ _
theorem Found.hmul2Twin (f : FR) (m : Mod) : Found.Statement (.hmul2Twin f m) :=
  found_t (mk := .hmul2Twin) (fun _ _ => rfl) (by decide) (fun _ _ => rfl) _ _
theorem Found.hfma2Twin (f : FR) (m : Mod) : Found.Statement (.hfma2Twin f m) :=
  found_t (mk := .hfma2Twin) (fun _ _ => rfl) (by decide) (fun _ _ => rfl) _ _
theorem Found.hmin2Twin (f : FR) (m : Mod) : Found.Statement (.hmin2Twin f m) :=
  found_t (mk := .hmin2Twin) (fun _ _ => rfl) (by decide) (fun _ _ => rfl) _ _
theorem Found.hmax2Twin (f : FR) (m : Mod) : Found.Statement (.hmax2Twin f m) :=
  found_t (mk := .hmax2Twin) (fun _ _ => rfl) (by decide) (fun _ _ => rfl) _ _
theorem Found.habs2Twin (f : FR) (m : Mod) : Found.Statement (.habs2Twin f m) :=
  found_t (mk := .habs2Twin) (fun _ _ => rfl) (by decide) (fun _ _ => rfl) _ _
theorem Found.hsetp2Twin (f : FR) (m : Mod) : Found.Statement (.hsetp2Twin f m) :=
  found_t (mk := .hsetp2Twin) (fun _ _ => rfl) (by decide) (fun _ _ => rfl) _ _
theorem Found.hdot2Twin (f : FR) (m : Mod) : Found.Statement (.hdot2Twin f m) :=
  found_t (mk := .hdot2Twin) (fun _ _ => rfl) (by decide) (fun _ _ => rfl) _ _
theorem Found.htanh2Twin (f : FR) (m : Mod) : Found.Statement (.htanh2Twin f m) :=
  found_t (mk := .htanh2Twin) (fun _ _ => rfl) (by decide) (fun _ _ => rfl) _ _
theorem Found.hrcp2Twin (f : FR) (m : Mod) : Found.Statement (.hrcp2Twin f m) :=
  found_t (mk := .hrcp2Twin) (fun _ _ => rfl) (by decide) (fun _ _ => rfl) _ _
theorem Found.cvtfTwin (f : FR) (m : Mod) : Found.Statement (.cvtfTwin f m) :=
  found_t (mk := .cvtfTwin) (fun _ _ => rfl) (by decide) (fun _ _ => rfl) _ _
theorem Found.cvtiTwin (f : FR) (m : Mod) : Found.Statement (.cvtiTwin f m) :=
  found_t (mk := .cvtiTwin) (fun _ _ => rfl) (by decide) (fun _ _ => rfl) _ _
theorem Found.cvtifTwin (f : FR) (m : Mod) : Found.Statement (.cvtifTwin f m) :=
  found_t (mk := .cvtifTwin) (fun _ _ => rfl) (by decide) (fun _ _ => rfl) _ _
theorem Found.cvtiiTwin (f : FR) (m : Mod) : Found.Statement (.cvtiiTwin f m) :=
  found_t (mk := .cvtiiTwin) (fun _ _ => rfl) (by decide) (fun _ _ => rfl) _ _
theorem Found.pack8Twin (f : FR) (m : Mod) : Found.Statement (.pack8Twin f m) :=
  found_t (mk := .pack8Twin) (fun _ _ => rfl) (by decide) (fun _ _ => rfl) _ _
theorem Found.unpk8Twin (f : FR) (m : Mod) : Found.Statement (.unpk8Twin f m) :=
  found_t (mk := .unpk8Twin) (fun _ _ => rfl) (by decide) (fun _ _ => rfl) _ _
theorem Found.pack4Twin (f : FR) (m : Mod) : Found.Statement (.pack4Twin f m) :=
  found_t (mk := .pack4Twin) (fun _ _ => rfl) (by decide) (fun _ _ => rfl) _ _
theorem Found.unpk4Twin (f : FR) (m : Mod) : Found.Statement (.unpk4Twin f m) :=
  found_t (mk := .unpk4Twin) (fun _ _ => rfl) (by decide) (fun _ _ => rfl) _ _
theorem Found.packdsTwin (f : FR) (m : Mod) : Found.Statement (.packdsTwin f m) :=
  found_t (mk := .packdsTwin) (fun _ _ => rfl) (by decide) (fun _ _ => rfl) _ _
theorem Found.unpkdsTwin (f : FR) (m : Mod) : Found.Statement (.unpkdsTwin f m) :=
  found_t (mk := .unpkdsTwin) (fun _ _ => rfl) (by decide) (fun _ _ => rfl) _ _
theorem Found.bscaleTwin (f : FR) (m : Mod) : Found.Statement (.bscaleTwin f m) :=
  found_t (mk := .bscaleTwin) (fun _ _ => rfl) (by decide) (fun _ _ => rfl) _ _
theorem Found.cvt2Twin (f : FR) (m : Mod) : Found.Statement (.cvt2Twin f m) :=
  found_t (mk := .cvt2Twin) (fun _ _ => rfl) (by decide) (fun _ _ => rfl) _ _
theorem Found.shflTwin (f : FR) (m : Mod) : Found.Statement (.shflTwin f m) :=
  found_t (mk := .shflTwin) (fun _ _ => rfl) (by decide) (fun _ _ => rfl) _ _
theorem Found.shflxTwin (f : FR) (m : Mod) : Found.Statement (.shflxTwin f m) :=
  found_t (mk := .shflxTwin) (fun _ _ => rfl) (by decide) (fun _ _ => rfl) _ _
theorem Found.voteTwin (f : FR) (m : Mod) : Found.Statement (.voteTwin f m) :=
  found_t (mk := .voteTwin) (fun _ _ => rfl) (by decide) (fun _ _ => rfl) _ _
theorem Found.ballotTwin (f : FR) (m : Mod) : Found.Statement (.ballotTwin f m) :=
  found_t (mk := .ballotTwin) (fun _ _ => rfl) (by decide) (fun _ _ => rfl) _ _
theorem Found.ffsTwin (f : FR) (m : Mod) : Found.Statement (.ffsTwin f m) :=
  found_t (mk := .ffsTwin) (fun _ _ => rfl) (by decide) (fun _ _ => rfl) _ _
theorem Found.gredTwin (f : FR) (m : Mod) : Found.Statement (.gredTwin f m) :=
  found_t (mk := .gredTwin) (fun _ _ => rfl) (by decide) (fun _ _ => rfl) _ _
theorem Found.gscanTwin (f : FR) (m : Mod) : Found.Statement (.gscanTwin f m) :=
  found_t (mk := .gscanTwin) (fun _ _ => rfl) (by decide) (fun _ _ => rfl) _ _
theorem Found.bcastTwin (f : FR) (m : Mod) : Found.Statement (.bcastTwin f m) :=
  found_t (mk := .bcastTwin) (fun _ _ => rfl) (by decide) (fun _ _ => rfl) _ _
theorem Found.gmatchTwin (f : FR) (m : Mod) : Found.Statement (.gmatchTwin f m) :=
  found_t (mk := .gmatchTwin) (fun _ _ => rfl) (by decide) (fun _ _ => rfl) _ _
theorem Found.gcountTwin (f : FR) (m : Mod) : Found.Statement (.gcountTwin f m) :=
  found_t (mk := .gcountTwin) (fun _ _ => rfl) (by decide) (fun _ _ => rfl) _ _
theorem Found.wbindTwin (f : FR) (m : Mod) : Found.Statement (.wbindTwin f m) :=
  found_t (mk := .wbindTwin) (fun _ _ => rfl) (by decide) (fun _ _ => rfl) _ _
theorem Found.wunbTwin (f : FR) (m : Mod) : Found.Statement (.wunbTwin f m) :=
  found_t (mk := .wunbTwin) (fun _ _ => rfl) (by decide) (fun _ _ => rfl) _ _
theorem Found.wposTwin (f : FR) (m : Mod) : Found.Statement (.wposTwin f m) :=
  found_t (mk := .wposTwin) (fun _ _ => rfl) (by decide) (fun _ _ => rfl) _ _
theorem Found.dloadTwin (f : FR) (m : Mod) : Found.Statement (.dloadTwin f m) :=
  found_t (mk := .dloadTwin) (fun _ _ => rfl) (by decide) (fun _ _ => rfl) _ _
theorem Found.dkeyTwin (f : FR) (m : Mod) : Found.Statement (.dkeyTwin f m) :=
  found_t (mk := .dkeyTwin) (fun _ _ => rfl) (by decide) (fun _ _ => rfl) _ _
theorem Found.dposTwin (f : FR) (m : Mod) : Found.Statement (.dposTwin f m) :=
  found_t (mk := .dposTwin) (fun _ _ => rfl) (by decide) (fun _ _ => rfl) _ _
theorem Found.dgetTwin (f : FR) (m : Mod) : Found.Statement (.dgetTwin f m) :=
  found_t (mk := .dgetTwin) (fun _ _ => rfl) (by decide) (fun _ _ => rfl) _ _
theorem Found.dsetTwin (f : FR) (m : Mod) : Found.Statement (.dsetTwin f m) :=
  found_t (mk := .dsetTwin) (fun _ _ => rfl) (by decide) (fun _ _ => rfl) _ _
theorem Found.dskipTwin (f : FR) (m : Mod) : Found.Statement (.dskipTwin f m) :=
  found_t (mk := .dskipTwin) (fun _ _ => rfl) (by decide) (fun _ _ => rfl) _ _
theorem Found.dforkTwin (f : FR) (m : Mod) : Found.Statement (.dforkTwin f m) :=
  found_t (mk := .dforkTwin) (fun _ _ => rfl) (by decide) (fun _ _ => rfl) _ _
theorem Found.randTwin (f : FR) (m : Mod) : Found.Statement (.randTwin f m) :=
  found_t (mk := .randTwin) (fun _ _ => rfl) (by decide) (fun _ _ => rfl) _ _
theorem Found.dinfoTwin (f : FR) (m : Mod) : Found.Statement (.dinfoTwin f m) :=
  found_t (mk := .dinfoTwin) (fun _ _ => rfl) (by decide) (fun _ _ => rfl) _ _
theorem Found.randnTwin (f : FR) (m : Mod) : Found.Statement (.randnTwin f m) :=
  found_t (mk := .randnTwin) (fun _ _ => rfl) (by decide) (fun _ _ => rfl) _ _
theorem Found.dpeekTwin (f : FR) (m : Mod) : Found.Statement (.dpeekTwin f m) :=
  found_t (mk := .dpeekTwin) (fun _ _ => rfl) (by decide) (fun _ _ => rfl) _ _
theorem Found.ldTwin (f : FR) (m : Mod) : Found.Statement (.ldTwin f m) :=
  found_t (mk := .ldTwin) (fun _ _ => rfl) (by decide) (fun _ _ => rfl) _ _
theorem Found.stTwin (f : FR) (m : Mod) : Found.Statement (.stTwin f m) :=
  found_t (mk := .stTwin) (fun _ _ => rfl) (by decide) (fun _ _ => rfl) _ _
theorem Found.ldsTwin (f : FR) (m : Mod) : Found.Statement (.ldsTwin f m) :=
  found_t (mk := .ldsTwin) (fun _ _ => rfl) (by decide) (fun _ _ => rfl) _ _
theorem Found.stsTwin (f : FR) (m : Mod) : Found.Statement (.stsTwin f m) :=
  found_t (mk := .stsTwin) (fun _ _ => rfl) (by decide) (fun _ _ => rfl) _ _
theorem Found.ldoTwin (f : FR) (m : Mod) : Found.Statement (.ldoTwin f m) :=
  found_t (mk := .ldoTwin) (fun _ _ => rfl) (by decide) (fun _ _ => rfl) _ _
theorem Found.ldvTwin (f : FR) (m : Mod) : Found.Statement (.ldvTwin f m) :=
  found_t (mk := .ldvTwin) (fun _ _ => rfl) (by decide) (fun _ _ => rfl) _ _
theorem Found.sttTwin (f : FR) (m : Mod) : Found.Statement (.sttTwin f m) :=
  found_t (mk := .sttTwin) (fun _ _ => rfl) (by decide) (fun _ _ => rfl) _ _
theorem Found.prefTwin (f : FR) (m : Mod) : Found.Statement (.prefTwin f m) :=
  found_t (mk := .prefTwin) (fun _ _ => rfl) (by decide) (fun _ _ => rfl) _ _
theorem Found.ldaTwin (f : FR) (m : Mod) : Found.Statement (.ldaTwin f m) :=
  found_t (mk := .ldaTwin) (fun _ _ => rfl) (by decide) (fun _ _ => rfl) _ _
theorem Found.strTwin (f : FR) (m : Mod) : Found.Statement (.strTwin f m) :=
  found_t (mk := .strTwin) (fun _ _ => rfl) (by decide) (fun _ _ => rfl) _ _
theorem Found.fenceTwin (f : FR) (m : Mod) : Found.Statement (.fenceTwin f m) :=
  found_t (mk := .fenceTwin) (fun _ _ => rfl) (by decide) (fun _ _ => rfl) _ _
theorem Found.atomAddTwin (f : FR) (m : Mod) : Found.Statement (.atomAddTwin f m) :=
  found_t (mk := .atomAddTwin) (fun _ _ => rfl) (by decide) (fun _ _ => rfl) _ _
theorem Found.atomFaddTwin (f : FR) (m : Mod) : Found.Statement (.atomFaddTwin f m) :=
  found_t (mk := .atomFaddTwin) (fun _ _ => rfl) (by decide) (fun _ _ => rfl) _ _
theorem Found.atomMinTwin (f : FR) (m : Mod) : Found.Statement (.atomMinTwin f m) :=
  found_t (mk := .atomMinTwin) (fun _ _ => rfl) (by decide) (fun _ _ => rfl) _ _
theorem Found.atomMaxTwin (f : FR) (m : Mod) : Found.Statement (.atomMaxTwin f m) :=
  found_t (mk := .atomMaxTwin) (fun _ _ => rfl) (by decide) (fun _ _ => rfl) _ _
theorem Found.atomAndTwin (f : FR) (m : Mod) : Found.Statement (.atomAndTwin f m) :=
  found_t (mk := .atomAndTwin) (fun _ _ => rfl) (by decide) (fun _ _ => rfl) _ _
theorem Found.atomOrTwin (f : FR) (m : Mod) : Found.Statement (.atomOrTwin f m) :=
  found_t (mk := .atomOrTwin) (fun _ _ => rfl) (by decide) (fun _ _ => rfl) _ _
theorem Found.atomXorTwin (f : FR) (m : Mod) : Found.Statement (.atomXorTwin f m) :=
  found_t (mk := .atomXorTwin) (fun _ _ => rfl) (by decide) (fun _ _ => rfl) _ _
theorem Found.atomXchgTwin (f : FR) (m : Mod) : Found.Statement (.atomXchgTwin f m) :=
  found_t (mk := .atomXchgTwin) (fun _ _ => rfl) (by decide) (fun _ _ => rfl) _ _
theorem Found.atomCasTwin (f : FR) (m : Mod) : Found.Statement (.atomCasTwin f m) :=
  found_t (mk := .atomCasTwin) (fun _ _ => rfl) (by decide) (fun _ _ => rfl) _ _
theorem Found.atomIncTwin (f : FR) (m : Mod) : Found.Statement (.atomIncTwin f m) :=
  found_t (mk := .atomIncTwin) (fun _ _ => rfl) (by decide) (fun _ _ => rfl) _ _
theorem Found.atomDecTwin (f : FR) (m : Mod) : Found.Statement (.atomDecTwin f m) :=
  found_t (mk := .atomDecTwin) (fun _ _ => rfl) (by decide) (fun _ _ => rfl) _ _
theorem Found.atomHadd2Twin (f : FR) (m : Mod) : Found.Statement (.atomHadd2Twin f m) :=
  found_t (mk := .atomHadd2Twin) (fun _ _ => rfl) (by decide) (fun _ _ => rfl) _ _
theorem Found.atomsAddTwin (f : FR) (m : Mod) : Found.Statement (.atomsAddTwin f m) :=
  found_t (mk := .atomsAddTwin) (fun _ _ => rfl) (by decide) (fun _ _ => rfl) _ _
theorem Found.atomsCasTwin (f : FR) (m : Mod) : Found.Statement (.atomsCasTwin f m) :=
  found_t (mk := .atomsCasTwin) (fun _ _ => rfl) (by decide) (fun _ _ => rfl) _ _
theorem Found.atomsXchgTwin (f : FR) (m : Mod) : Found.Statement (.atomsXchgTwin f m) :=
  found_t (mk := .atomsXchgTwin) (fun _ _ => rfl) (by decide) (fun _ _ => rfl) _ _
theorem Found.copyTwin (f : FR) (m : Mod) : Found.Statement (.copyTwin f m) :=
  found_t (mk := .copyTwin) (fun _ _ => rfl) (by decide) (fun _ _ => rfl) _ _
theorem Found.copysTwin (f : FR) (m : Mod) : Found.Statement (.copysTwin f m) :=
  found_t (mk := .copysTwin) (fun _ _ => rfl) (by decide) (fun _ _ => rfl) _ _
theorem Found.copymTwin (f : FR) (m : Mod) : Found.Statement (.copymTwin f m) :=
  found_t (mk := .copymTwin) (fun _ _ => rfl) (by decide) (fun _ _ => rfl) _ _
theorem Found.copyrTwin (f : FR) (m : Mod) : Found.Statement (.copyrTwin f m) :=
  found_t (mk := .copyrTwin) (fun _ _ => rfl) (by decide) (fun _ _ => rfl) _ _
theorem Found.semincTwin (f : FR) (m : Mod) : Found.Statement (.semincTwin f m) :=
  found_t (mk := .semincTwin) (fun _ _ => rfl) (by decide) (fun _ _ => rfl) _ _
theorem Found.semwaitTwin (f : FR) (m : Mod) : Found.Statement (.semwaitTwin f m) :=
  found_t (mk := .semwaitTwin) (fun _ _ => rfl) (by decide) (fun _ _ => rfl) _ _
theorem Found.semsetTwin (f : FR) (m : Mod) : Found.Statement (.semsetTwin f m) :=
  found_t (mk := .semsetTwin) (fun _ _ => rfl) (by decide) (fun _ _ => rfl) _ _
theorem Found.semrdTwin (f : FR) (m : Mod) : Found.Statement (.semrdTwin f m) :=
  found_t (mk := .semrdTwin) (fun _ _ => rfl) (by decide) (fun _ _ => rfl) _ _
theorem Found.tgpostTwin (f : FR) (m : Mod) : Found.Statement (.tgpostTwin f m) :=
  found_t (mk := .tgpostTwin) (fun _ _ => rfl) (by decide) (fun _ _ => rfl) _ _
theorem Found.tgwaitTwin (f : FR) (m : Mod) : Found.Statement (.tgwaitTwin f m) :=
  found_t (mk := .tgwaitTwin) (fun _ _ => rfl) (by decide) (fun _ _ => rfl) _ _
theorem Found.tginitTwin (f : FR) (m : Mod) : Found.Statement (.tginitTwin f m) :=
  found_t (mk := .tginitTwin) (fun _ _ => rfl) (by decide) (fun _ _ => rfl) _ _
theorem Found.tglinkTwin (f : FR) (m : Mod) : Found.Statement (.tglinkTwin f m) :=
  found_t (mk := .tglinkTwin) (fun _ _ => rfl) (by decide) (fun _ _ => rfl) _ _
theorem Found.cpstTwin (f : FR) (m : Mod) : Found.Statement (.cpstTwin f m) :=
  found_t (mk := .cpstTwin) (fun _ _ => rfl) (by decide) (fun _ _ => rfl) _ _
theorem Found.mmaTwin (f : FR) (m : Mod) : Found.Statement (.mmaTwin f m) :=
  found_t (mk := .mmaTwin) (fun _ _ => rfl) (by decide) (fun _ _ => rfl) _ _
theorem Found.mmaqTwin (f : FR) (m : Mod) : Found.Statement (.mmaqTwin f m) :=
  found_t (mk := .mmaqTwin) (fun _ _ => rfl) (by decide) (fun _ _ => rfl) _ _
theorem Found.mmasTwin (f : FR) (m : Mod) : Found.Statement (.mmasTwin f m) :=
  found_t (mk := .mmasTwin) (fun _ _ => rfl) (by decide) (fun _ _ => rfl) _ _
theorem Found.joinTwin (f : FR) (m : Mod) : Found.Statement (.joinTwin f m) :=
  found_t (mk := .joinTwin) (fun _ _ => rfl) (by decide) (fun _ _ => rfl) _ _
theorem Found.pcfgTwin (f : FR) (m : Mod) : Found.Statement (.pcfgTwin f m) :=
  found_t (mk := .pcfgTwin) (fun _ _ => rfl) (by decide) (fun _ _ => rfl) _ _
theorem Found.pinsTwin (f : FR) (m : Mod) : Found.Statement (.pinsTwin f m) :=
  found_t (mk := .pinsTwin) (fun _ _ => rfl) (by decide) (fun _ _ => rfl) _ _
theorem Found.plupTwin (f : FR) (m : Mod) : Found.Statement (.plupTwin f m) :=
  found_t (mk := .plupTwin) (fun _ _ => rfl) (by decide) (fun _ _ => rfl) _ _
theorem Found.pcntTwin (f : FR) (m : Mod) : Found.Statement (.pcntTwin f m) :=
  found_t (mk := .pcntTwin) (fun _ _ => rfl) (by decide) (fun _ _ => rfl) _ _
theorem Found.prdTwin (f : FR) (m : Mod) : Found.Statement (.prdTwin f m) :=
  found_t (mk := .prdTwin) (fun _ _ => rfl) (by decide) (fun _ _ => rfl) _ _
theorem Found.pdrnTwin (f : FR) (m : Mod) : Found.Statement (.pdrnTwin f m) :=
  found_t (mk := .pdrnTwin) (fun _ _ => rfl) (by decide) (fun _ _ => rfl) _ _
theorem Found.pclrTwin (f : FR) (m : Mod) : Found.Statement (.pclrTwin f m) :=
  found_t (mk := .pclrTwin) (fun _ _ => rfl) (by decide) (fun _ _ => rfl) _ _
theorem Found.pdelTwin (f : FR) (m : Mod) : Found.Statement (.pdelTwin f m) :=
  found_t (mk := .pdelTwin) (fun _ _ => rfl) (by decide) (fun _ _ => rfl) _ _
theorem Found.normTwin (f : FR) (m : Mod) : Found.Statement (.normTwin f m) :=
  found_t (mk := .normTwin) (fun _ _ => rfl) (by decide) (fun _ _ => rfl) _ _
theorem Found.smrgTwin (f : FR) (m : Mod) : Found.Statement (.smrgTwin f m) :=
  found_t (mk := .smrgTwin) (fun _ _ => rfl) (by decide) (fun _ _ => rfl) _ _
theorem Found.spickTwin (f : FR) (m : Mod) : Found.Statement (.spickTwin f m) :=
  found_t (mk := .spickTwin) (fun _ _ => rfl) (by decide) (fun _ _ => rfl) _ _
theorem Found.hpushTwin (f : FR) (m : Mod) : Found.Statement (.hpushTwin f m) :=
  found_t (mk := .hpushTwin) (fun _ _ => rfl) (by decide) (fun _ _ => rfl) _ _
theorem Found.htakeTwin (f : FR) (m : Mod) : Found.Statement (.htakeTwin f m) :=
  found_t (mk := .htakeTwin) (fun _ _ => rfl) (by decide) (fun _ _ => rfl) _ _
theorem Found.hbudTwin (f : FR) (m : Mod) : Found.Statement (.hbudTwin f m) :=
  found_t (mk := .hbudTwin) (fun _ _ => rfl) (by decide) (fun _ _ => rfl) _ _
theorem Found.hdelTwin (f : FR) (m : Mod) : Found.Statement (.hdelTwin f m) :=
  found_t (mk := .hdelTwin) (fun _ _ => rfl) (by decide) (fun _ _ => rfl) _ _
theorem Found.hpeekTwin (f : FR) (m : Mod) : Found.Statement (.hpeekTwin f m) :=
  found_t (mk := .hpeekTwin) (fun _ _ => rfl) (by decide) (fun _ _ => rfl) _ _
theorem Found.hlenTwin (f : FR) (m : Mod) : Found.Statement (.hlenTwin f m) :=
  found_t (mk := .hlenTwin) (fun _ _ => rfl) (by decide) (fun _ _ => rfl) _ _
theorem Found.rmaskTwin (f : FR) (m : Mod) : Found.Statement (.rmaskTwin f m) :=
  found_t (mk := .rmaskTwin) (fun _ _ => rfl) (by decide) (fun _ _ => rfl) _ _

end Sys2Proof.Laws
end

