-- ==== Sys2Proof/Laws/ShroudRun.lean ====
section
/-! SUPPORT. What a shroud instruction does when its thread has a routine and its fields are legal. -/

namespace Sys2Proof.Machine

/-- A shroud instruction that runs executes its body. -/
theorem shExec_next {i : Instr} {s : State} {h : Sh} {ok : Bool} {body : Sh → State} (hr : routineOf i s = some h)
    (hok : wellFormed i = true → ok = true) : shExec s ok body = .next (body h) := by
  unfold routineOf at hr
  unfold shExec
  split at hr
  · rename_i k t hc
    split at hr
    · simp at hr
    · rename_i x hx
      split at hr
      · rename_i hw
        cases hr
        simp only [hc, hx, hok hw, if_true]
      · simp at hr
  · simp at hr

/-- The legality of a shroud instruction is that of its fields. -/
theorem wellFormed_sr {i : Instr} {op : Nat} {f : SR} (hv : view i = .sr op f) (h : wellFormed i = true) : srOk op f = true := by
  cases hx : srOk op f <;> simp_all [wellFormed, check]
theorem wellFormed_si {i : Instr} {op : Nat} {f : SI} (hv : view i = .si op f) (h : wellFormed i = true) : siOk op f = true := by
  cases hx : siOk op f <;> simp_all [wellFormed, check]
theorem wellFormed_sf {i : Instr} {op : Nat} {f : SF} (hv : view i = .sf op f) (h : wellFormed i = true) :
    (isS f.d && isS f.a && decide (f.fn.toNat < 12)) = true := by
  simp only [wellFormed, check, hv] at h
  split at h
  · rename_i hx; simpa [isS] using hx
  · simp at h
theorem wellFormed_sjmp {f : SB} (h : wellFormed (.sjmp f) = true) : (f.a == 0 && f.z == 0) = true := by
  have h1 : check (.sjmp f) = none := by simpa [wellFormed] using h
  have h2 : check (.sjmp f) = if f.z == 0 && f.a == 0 then none else some .badField := rfl
  rw [h2, Bool.and_comm] at h1
  cases hx : (f.a == 0 && f.z == 0) <;> simp_all
theorem wellFormed_sb {i : Instr} {op : Nat} {f : SB} (hv : view i = .sb op f) (ho : op ≠ 1) (h : wellFormed i = true) :
    (isS f.a && f.z == 0) = true := by
  have h1 : check i = none := by simpa [wellFormed] using h
  rw [check, hv] at h1
  rw [Bool.and_comm]
  cases hx : (f.z == 0 && isS f.a) <;> simp_all [isS]

/-- A branch that is not taken, or whose target lies in the routine, on a register that is not poisoned (R297). -/
theorem shBranch_next {s : State} {h : Sh} {f : SB} {taken : Bool} {x : SThread} (ht : taken = true → shInside h f) :
    shBranch s h f taken false x = if taken then shGoto s h f x else shNext s h x := by
  unfold shBranch shGoto
  cases taken with
  | false => simp
  | true =>
    obtain ⟨h1, h2⟩ := ht rfl
    unfold shTarget at *
    simp only [Bool.true_and]
    rw [if_neg]
    · simp
    · simp only [Bool.or_eq_true, decide_eq_true_eq, not_or]
      omega

/-- An aligned access of an address that maps, through a register that is not poisoned, goes on at its physical
address; its bytes are charged (R291, R296). -/
theorem shAccess_next {s s' : State} {h : Sh} {va align bytes pa : Nat} {a : Acc} {al : Bool} {go : State → Nat → State}
    (ha : (!al || va % align != 0) = false) (hm : ShMapped s h va bytes a s' pa) :
    shAccess s h va align bytes a al false go = go (chargeQuota s' h.x.ctx bytes) pa := by
  have hw : (if a = .write then argsIn s' h.x.ctx va bytes else none) = none := by
    split
    · exact hm.2 ‹_›
    · rfl
  simp [shAccess, ha, hm.1, hw]

/-- A load whose lines are free reads its bytes at the home (R299, R300, R306). -/
theorem shLoad_next {s s' : State} {h : Sh} {va align bytes pa : Nat} {al : Bool} {a : BitVec 5} {offs : List Nat}
    {go : List Byte → List Bool → SThread} (ha : (!al || va % align != 0) = false) (hp : spoisd h.x a = false)
    (hf : ShFree s h va offs) (hm : ShMapped s h va bytes .read s' pa) :
    shLoad s h va align bytes al a offs go =
      let s1 := chargeQuota s' h.x.ctx bytes
      shNext s1 h (go (offs.map (fun o => rdByte s1 (pa + o))) (offs.map (fun o => isPoisoned s1 (quarterOf (pa + o))))) := by
  unfold shLoad
  dsimp only
  rw [if_neg, hp, shAccess_next ha hm]
  cases hx : translate s (shroudUnit h.k) h.x.ctx va .read with
  | ok pa' => simp [hf.1 pa' hx]
  | error r =>
    cases r with
    | zero => simp [hf.2 hx]
    | succ => simp

/-- A store of an address that maps puts its quarters in flight (R299, R300, R306). -/
theorem shStore_next {s s' : State} {h : Sh} {va align pa : Nat} {bs : List Byte} {pois : List Bool}
    (ha : va % align = 0) (hm : ShMapped s h va bs.length .write s' pa) :
    shStore s h va align bs pois false = shStored s' h pa bs pois := by
  unfold shStore
  rw [shAccess_next (by simp [ha]) hm]
  rfl

end Sys2Proof.Machine
end

