-- ==== Sys2Proof/Tests/Slice0.lean ====
section
/-! SUPPORT. Tests: ill-formed terms that the checks refuse, words written out from the spec's encodings, single steps
with results worked out from the rules, and for each statement with hypotheses a state and operands that meet them. -/

namespace Sys2Proof.Tests

open Sys2Proof Sys2Proof.Machine
set_option Elab.async false
set_option linter.unusedVariables false

/-! ### The small state of the tests -/

/-- Fields of an instruction. -/
def r (d a b : BitVec 7) : FR := { u := false, d := d, a := a, b := b }
/-- A modifier word with RND, TYPE and SCOPE; the rest zero. -/
def md (rnd ty scope : BitVec 3) : Mod := { rnd := rnd, sat := false, scope := scope, ty := ty, lit := false, low := 0 }

/-- One lane thread in a clause of n slots, of a privileged context whose heap holds the addresses below 2^30, with
the registers, the scalar registers and the predicates given; both pocket regions are on, and the byte at 0x1000 is 1. -/
def lane (n : Nat) (regs : NMap W32) (scal : NMap W64) (preds : BitVec 8) : State :=
  let s := modCtx (wrByte (placeLane State.reset n []) 0x1000 1) 1 (fun c => { c with
    heapLimit := 2 ^ 30, heapMap := [(0, 3)], seqCount := 4, seqBase := 8 })
  let s := { s with teams := s.teams.map (fun t => (t.1, { t.2 with cfg := 0x8010, cfgNew := 0x8010 })) }
  let s := modThread s 1 0 (fun t => { t with regs := regs, preds := preds })
  let s := modGroup s 1 (fun g => { g with scal := scal })
  { s with kernels := s.kernels.map (fun k => (k.1, { k.2 with coarse := 16, fine := 16 }))
           cur := .group 1 }

/-- A lane instruction runs and its thread reads its operands, by `rd`. -/
def laneMet {α : Type} (s : State) (i : Instr) (hasD : Bool) (rd : State → Cx → Nat → Rd α) : Bool :=
  match runOf i s with
  | none => false
  | some cx => (readAll s cx (rd s cx) hasD (doers cx)).stall.isNone && (readAll s cx (rd s cx) hasD (doers cx)).traps.isEmpty && !cx.uni

/-- What `laneMet` says: the hypotheses of `LaneCompletes` are met, whatever the result. -/
theorem laneMet_meets {α : Type} {s : State} {i : Instr} {hasD : Bool} {rd : State → Cx → Nat → Rd α}
    (h : laneMet s i hasD rd = true) (fin : Cx → List (Got α) → Got α → Out) :
    ∃ cx, runOf i s = some cx ∧ LaneOk s cx hasD (rd s cx) (fin cx) := by
  unfold laneMet at h
  split at h
  · cases h
  · rename_i cx hr
    simp only [Bool.and_eq_true, Option.isNone_iff_eq_none, List.isEmpty_iff, Bool.not_eq_true'] at h
    exact ⟨cx, hr, ⟨h.1.1, h.1.2⟩, fun _ _ hu => absurd hu (by simp [h.2])⟩

/-- What `laneMet` says of an instruction that each thread executes for itself, whatever bit U is. -/
theorem laneMet_each {α : Type} {s : State} {i : Instr} {hasD : Bool} {rd : State → Cx → Nat → Rd α}
    (h : laneMet s i hasD rd = true) (fin : Cx → List (Got α) → Got α → Out) :
    ∃ cx, runOf i s = some cx ∧ LaneOk s cx.each hasD (rd s cx.each) (fin cx.each) := by
  unfold laneMet at h
  split at h
  · cases h
  · rename_i cx hr
    simp only [Bool.and_eq_true, Option.isNone_iff_eq_none, List.isEmpty_iff, Bool.not_eq_true'] at h
    have hu : cx.f.u = false := h.2
    have he : cx.each = cx := by
      unfold Cx.each
      rw [← hu]
    refine ⟨cx, hr, ?_⟩
    rw [he]
    exact ⟨⟨h.1.1, h.1.2⟩, fun _ _ hu => absurd hu (by simp [h.2])⟩

/-- An instruction runs, its thread reads, and no flag passes 63: the hypotheses of `AsyncCompletes`. -/
def asyncMet (s : State) (i : Instr) (flag words : Cx → Nat) (hasD : Bool) (rd : State → Cx → Nat → Rd Req) : Bool :=
  match runOf i s with
  | none => false
  | some cx => (readAll s cx (rd s cx) false (doers cx)).stall.isNone && (readAll s cx (rd s cx) false (doers cx)).traps.isEmpty
      && !cx.uni && decide ((doers cx).length ≤ 64) && flagsBelow (asyncDone s cx (flag cx) (words cx) hasD (rd s cx)) cx.gid

theorem asyncMet_meets {s : State} {i : Instr} {flag words : Cx → Nat} {hasD : Bool} {rd : State → Cx → Nat → Rd Req}
    (h : asyncMet s i flag words hasD rd = true) :
    ∃ cx, runOf i s = some cx ∧ AsyncOk s cx (flag cx) (words cx) hasD (rd s cx) := by
  unfold asyncMet at h
  split at h
  · cases h
  · rename_i cx hr
    simp only [Bool.and_eq_true, Option.isNone_iff_eq_none, List.isEmpty_iff, Bool.not_eq_true', decide_eq_true_eq] at h
    exact ⟨cx, hr, ⟨h.1.1.1.1, h.1.1.1.2⟩, fun _ _ hu => absurd hu (by simp [h.1.1.2]), h.1.2, h.2⟩

/-- An instruction runs and a condition on its run holds: the hypotheses of `RunCompletes`. -/
def runMet (s : State) (i : Instr) (ok : Cx → Bool) : Bool :=
  match runOf i s with
  | none => false
  | some cx => ok cx

theorem runMet_meets {s : State} {i : Instr} {ok : Cx → Bool} (h : runMet s i ok = true) :
    ∃ cx, runOf i s = some cx ∧ ok cx = true := by
  unfold runMet at h
  split at h
  · cases h
  · exact ⟨_, ‹_›, h⟩

/-- The run of an instruction whose condition on its run, decided, holds. -/
def runOk (s : State) (i : Instr) (ok : Cx → Prop) [∀ cx, Decidable (ok cx)] : Bool := runMet s i (fun cx => decide (ok cx))

theorem runOk_meets {s : State} {i : Instr} {ok : Cx → Prop} [∀ cx, Decidable (ok cx)] (h : runOk s i ok = true) :
    ∃ cx, runOf i s = some cx ∧ ok cx := by
  obtain ⟨cx, hr, h⟩ := runMet_meets h
  exact ⟨cx, hr, of_decide_eq_true h⟩

/-- The hypotheses of an instruction of a team whose operation goes in flight. -/
def teamMet (s : State) (i : Instr) (flag words : Cx → Nat) (hasD : Bool) (rd : State → Cx → Nat → Nat → Rd Req) : Bool :=
  runMet s i (fun cx => cx.team.isSome) && asyncMet s i flag words hasD (fun s cx => rd s cx (cx.team.getD 0))

theorem teamMet_meets {s : State} {i : Instr} {flag words : Cx → Nat} {hasD : Bool} {rd : State → Cx → Nat → Nat → Rd Req}
    (h : teamMet s i flag words hasD rd = true) :
    ∃ cx key, runOf i s = some cx ∧ cx.team = some key ∧ AsyncOk s cx (flag cx) (words cx) hasD (rd s cx key) := by
  simp only [teamMet, Bool.and_eq_true] at h
  obtain ⟨cx, h1, h2⟩ := runMet_meets h.1
  obtain ⟨cy, h3, h4⟩ := asyncMet_meets h.2
  cases h1.symm.trans h3
  obtain ⟨key, hk⟩ := Option.isSome_iff_exists.mp h2
  exact ⟨cx, key, h1, hk, by simpa [hk] using h4⟩

/-- The hypotheses of an atomic. -/
def atomMet (s : State) (i : Instr) (scratch cas : Bool) : Bool :=
  runOk s i (fun cx => (readAll s cx (fun t => atomRd s cx t scratch cas) false (runners cx)).stall = none
    ∧ (readAll s cx (fun t => atomRd s cx t scratch cas) false (runners cx)).traps.isEmpty = true
    ∧ othersD s cx (if cx.wide then 2 else 1) (restOfRun cx) = (false, []) ∧ flagsBelow (atomDone s cx scratch cas) cx.gid = true)

theorem atomMet_meets {s : State} {i : Instr} {scratch cas : Bool} (h : atomMet s i scratch cas = true) :
    ∃ cx, runOf i s = some cx ∧ AtomOk s cx scratch cas := by
  obtain ⟨cx, hr, h1, h2, h3, h4⟩ := runOk_meets h
  exact ⟨cx, hr, ⟨h1, List.isEmpty_iff.mp h2⟩, h3, h4⟩

/-- The hypotheses of a copy. -/
def copyMet (s : State) (i : Instr) (rd : State → Cx → Nat → Rd Req) : Bool :=
  asyncMet s i Cx.setb (fun _ => 1) true rd
    && runOk s i (fun cx => (doers cx).length ≤ Config.coreCopies - openCopies s cx.g.core)

/-- The hypotheses of an engine call. -/
def callMet (s : State) (i : Instr) (rd : Cx → State → Nat → Rd Sig) : Bool :=
  runOk s i (fun cx => cx.team.isSome = true ∧ (readAll s cx (rd cx s) false (doers cx)).stall = none
    ∧ (readAll s cx (rd cx s) false (doers cx)).traps.isEmpty = true
    ∧ (callSigned s cx (cx.team.getD 0) (rd cx)).2 = none ∧ (callSigned s cx (cx.team.getD 0) (rd cx)).1.traps.isEmpty = true
    ∧ flagsBelow (callDone s cx (cx.team.getD 0) (rd cx)) cx.gid = true)

/-- The hypotheses of a branch that is taken, or not. -/
def branchMet (s : State) (i : Instr) (f : FB) (cond : Thread → Bool) : Bool :=
  runOk s i (fun cx => ∀ t ∈ cx.fl.run, (if takesBranch cx cond t then isHeader cx.k (branchTarget cx f) else cx.hasNext) = true)

/-- The hypotheses of a jump. -/
def jumpMet (s : State) (i : Instr) (own : Bool) (link : Cx → Option Nat) (target : Cx → Nat → Rd Nat) : Bool :=
  runOk s i (fun c =>
    let cx := if own then c.each else c
    (readAll s cx (jumpRd cx (link cx) (target cx)) false (doers cx)).stall = none
    ∧ (readAll s cx (jumpRd cx (link cx) (target cx)) false (doers cx)).traps.isEmpty = true
    ∧ (∀ g ∈ gotOf s cx false (jumpRd cx (link cx) (target cx)), isHeader cx.k (BitVec.ofNat 64 g.val) = true) ∧ restOfRun cx = [])

/-- A run's thread reads: `Reads`. -/
def readsMet {α : Type} (s : State) (i : Instr) (rd : State → Cx → Nat → Rd α) : Bool := laneMet s i false rd

/-- Fields of the other formats. -/
def fi (d : BitVec 7) (imm : BitVec 14) : FI := { u := false, d := d, imm := imm }
def fb (off : BitVec 21) : FB := { u := false, off := off }

/-! ### The witnesses of the statements that core instructions complete -/

theorem test_met_IntegerArithmeticCompletes : (
    laneMet (lane 1 [] [] 0) (.iadd (r 16 8 12)) true read2
    && laneMet (lane 2 [] [] 0) (.iaddTwin (r 16 8 12) (md 0 0 0)) true read2
    && laneMet (lane 1 [] [] 0) (.isub (r 16 8 12)) true read2
    && laneMet (lane 2 [] [] 0) (.isubTwin (r 16 8 12) (md 0 0 0)) true read2
    && laneMet (lane 1 [] [] 0) (.imul (r 16 8 12)) true read2
    && laneMet (lane 2 [] [] 0) (.imulTwin (r 16 8 12) (md 0 0 0)) true read2
    && laneMet (lane 1 [] [] 0) (.imulh (r 16 8 12)) true read2
    && laneMet (lane 2 [] [] 0) (.imulhTwin (r 16 8 12) (md 0 0 0)) true read2
    && laneMet (lane 1 [] [] 0) (.imad (r 16 8 12)) true read3
    && laneMet (lane 2 [] [] 0) (.imadTwin (r 16 8 12) (md 0 0 0)) true read3
    && laneMet (lane 1 [] [] 0) (.imadw (r 16 8 12)) true (fun s cx tid => do
      let a ← readA s cx tid false
      let b ← readB s cx tid false
      let d ← readD s cx tid true
      pure (a, b, d))
    && laneMet (lane 2 [] [] 0) (.imadwTwin (r 16 8 12) (md 0 0 0)) true (fun s cx tid => do
      let a ← readA s cx tid false
      let b ← readB s cx tid false
      let d ← readD s cx tid true
      pure (a, b, d))
    && laneMet (lane 1 [] [] 0) (.imin (r 16 8 12)) true read2
    && laneMet (lane 2 [] [] 0) (.iminTwin (r 16 8 12) (md 0 0 0)) true read2
    && laneMet (lane 1 [] [] 0) (.imax (r 16 8 12)) true read2
    && laneMet (lane 2 [] [] 0) (.imaxTwin (r 16 8 12) (md 0 0 0)) true read2
    && laneMet (lane 1 [] [] 0) (.iabs (r 16 8 0)) true read1
    && laneMet (lane 2 [] [] 0) (.iabsTwin (r 16 8 0) (md 0 0 0)) true read1
    && laneMet (lane 1 [] [] 0) (.ineg (r 16 8 0)) true read1
    && laneMet (lane 2 [] [] 0) (.inegTwin (r 16 8 0) (md 0 0 0)) true read1
    && laneMet (lane 1 [] [] 0) (.isad (r 16 8 12)) true read3
    && laneMet (lane 2 [] [] 0) (.isadTwin (r 16 8 12) (md 0 0 0)) true read3
    && laneMet (lane 1 [] [] 0) (.idiv (r 16 8 12)) true read2
    && laneMet (lane 2 [] [] 0) (.idivTwin (r 16 8 12) (md 0 0 0)) true read2
    && laneMet (lane 1 [] [] 0) (.irem (r 16 8 12)) true read2
    && laneMet (lane 2 [] [] 0) (.iremTwin (r 16 8 12) (md 0 0 0)) true read2) = true := by decide +kernel

theorem test_met_IntegerBitsComplete : (
    laneMet (lane 1 [] [] 0) (.isetp (r 0 8 12)) false read2
    && laneMet (lane 2 [] [] 0) (.isetpTwin (r 0 8 12) (md 0 0 0)) false read2
    && laneMet (lane 1 [] [] 0) (.isel (r 16 8 12)) true (fun s cx tid => do
      let w ← get
      let o := if cx.m.lit then 0 else cx.opt
      let x ← read2 s cx tid
      pure (x, pred w.th (o % 8) != bitOf o 3))
    && laneMet (lane 2 [] [] 0) (.iselTwin (r 16 8 12) (md 0 0 0)) true (fun s cx tid => do
      let w ← get
      let o := if cx.m.lit then 0 else cx.opt
      let x ← read2 s cx tid
      pure (x, pred w.th (o % 8) != bitOf o 3))
    && laneMet (lane 1 [] [] 0) (.lea (r 16 8 12)) true (fun s cx tid => do
      let a ← readA s cx tid true
      let b ← readB s cx tid false
      pure (a, b))
    && laneMet (lane 2 [] [] 0) (.leaTwin (r 16 8 12) (md 0 0 0)) true (fun s cx tid => do
      let a ← readA s cx tid true
      let b ← readB s cx tid false
      pure (a, b))
    && laneMet (lane 1 [] [] 0) (.shl (r 16 8 12)) true readShift
    && laneMet (lane 2 [] [] 0) (.shlTwin (r 16 8 12) (md 0 0 0)) true readShift
    && laneMet (lane 1 [] [] 0) (.shr (r 16 8 12)) true readShift
    && laneMet (lane 2 [] [] 0) (.shrTwin (r 16 8 12) (md 0 0 0)) true readShift
    && laneMet (lane 1 [] [] 0) (.sar (r 16 8 12)) true readShift
    && laneMet (lane 2 [] [] 0) (.sarTwin (r 16 8 12) (md 0 0 0)) true readShift
    && laneMet (lane 1 [] [] 0) (.rotl (r 16 8 12)) true readShift
    && laneMet (lane 2 [] [] 0) (.rotlTwin (r 16 8 12) (md 0 0 0)) true readShift
    && laneMet (lane 1 [] [] 0) (.iand (r 16 8 12)) true read2
    && laneMet (lane 2 [] [] 0) (.iandTwin (r 16 8 12) (md 0 0 0)) true read2
    && laneMet (lane 1 [] [] 0) (.ior (r 16 8 12)) true read2
    && laneMet (lane 2 [] [] 0) (.iorTwin (r 16 8 12) (md 0 0 0)) true read2
    && laneMet (lane 1 [] [] 0) (.ixor (r 16 8 12)) true read2
    && laneMet (lane 2 [] [] 0) (.ixorTwin (r 16 8 12) (md 0 0 0)) true read2
    && laneMet (lane 1 [] [] 0) (.inot (r 16 8 0)) true read1
    && laneMet (lane 2 [] [] 0) (.inotTwin (r 16 8 0) (md 0 0 0)) true read1
    && laneMet (lane 1 [] [] 0) (.bfe (r 16 8 12)) true readShift
    && laneMet (lane 2 [] [] 0) (.bfeTwin (r 16 8 12) (md 0 0 0)) true readShift
    && laneMet (lane 1 [] [] 0) (.bfi (r 16 8 12)) true (fun s cx tid => do
      let a ← readA s cx tid cx.wide
      let b ← readB s cx tid false
      let d ← readD s cx tid cx.wide
      pure (a, b, d))
    && laneMet (lane 2 [] [] 0) (.bfiTwin (r 16 8 12) (md 0 0 0)) true (fun s cx tid => do
      let a ← readA s cx tid cx.wide
      let b ← readB s cx tid false
      let d ← readD s cx tid cx.wide
      pure (a, b, d))
    && laneMet (lane 1 [] [] 0) (.popc (r 16 8 0)) true read1
    && laneMet (lane 2 [] [] 0) (.popcTwin (r 16 8 0) (md 0 0 0)) true read1
    && laneMet (lane 1 [] [] 0) (.clz (r 16 8 0)) true read1
    && laneMet (lane 2 [] [] 0) (.clzTwin (r 16 8 0) (md 0 0 0)) true read1
    && laneMet (lane 1 [] [] 0) (.brev (r 16 8 0)) true read1
    && laneMet (lane 2 [] [] 0) (.brevTwin (r 16 8 0) (md 0 0 0)) true read1
    && laneMet (lane 1 [] [] 0) (.prmt (r 16 8 12)) true read3
    && laneMet (lane 2 [] [] 0) (.prmtTwin (r 16 8 12) (md 0 0 0)) true read3) = true := by decide +kernel

theorem test_met_MovesComplete : (
    laneMet (lane 1 [] [] 0) (.mov (r 16 8 0)) true read1
    && laneMet (lane 2 [] [] 0) (.movTwin (r 16 8 0) (md 0 0 0)) true read1
    && laneMet (lane 1 [] [] 0) (.movi (fi 16 0)) true readNone
    && laneMet (lane 2 [] [] 0) (.moviLiteral (fi 16 0) 5) true readNone
    && laneMet (lane 1 [] [] 0) (.movh (fi 16 0)) true (fun s cx tid => readD s cx tid false)
    && laneMet (lane 1 [] [] 0) (.movrel (r 16 16 12)) true (fun s cx tid => do
      let b ← readB s cx tid false
      let w ← get
      match relIndex cx w.th cx.f.a.toNat b with
      | .error e => throw e
      | .ok i => readRegs i 1)
    && laneMet (lane 1 [] [] 0) (.movrw (r 16 8 12)) false readRw
    && laneMet (lane 1 [] [] 0) (.winb (fi 0 0)) false (fun _ cx => winbRd cx (fi 0 0))
    && laneMet (lane 1 [] [] 0) (.srd (fi 16 0)) true (fun _ cx => srdRd cx (fi 16 0))
    && laneMet (lane 1 [] [] 0) (.pand (r 0 0 0)) false (readPreds (· && ·))
    && laneMet (lane 1 [] [] 0) (.por (r 0 0 0)) false (readPreds (· || ·))
    && laneMet (lane 1 [] [] 0) (.pxor (r 0 0 0)) false (readPreds (· != ·))
    && laneMet (lane 1 [] [] 0) (.pnot (r 0 0 0)) false (readPreds (fun a _ => !a))
    && laneMet (lane 1 [] [] 0) (.ptov (r 16 0 0)) true (fun _ cx _ => readPred cx)
    && laneMet (lane 1 [] [] 0) (.vtop (r 0 8 0)) false readA32) = true := by decide +kernel

theorem test_met_FloatingPointCompletes : (
    laneMet (lane 1 [] [] 0) (.fadd (r 16 8 12)) true (readFp true false)
    && laneMet (lane 2 [] [] 0) (.faddTwin (r 16 8 12) (md 0 0 0)) true (readFp true false)
    && laneMet (lane 1 [] [] 0) (.fsub (r 16 8 12)) true (readFp true false)
    && laneMet (lane 2 [] [] 0) (.fsubTwin (r 16 8 12) (md 0 0 0)) true (readFp true false)
    && laneMet (lane 1 [] [] 0) (.fmul (r 16 8 12)) true (readFp true false)
    && laneMet (lane 2 [] [] 0) (.fmulTwin (r 16 8 12) (md 0 0 0)) true (readFp true false)
    && laneMet (lane 1 [] [] 0) (.ffma (r 16 8 12)) true (readFp true true)
    && laneMet (lane 2 [] [] 0) (.ffmaTwin (r 16 8 12) (md 0 0 0)) true (readFp true true)
    && laneMet (lane 1 [] [] 0) (.fmin (r 16 8 12)) true readAB32
    && laneMet (lane 2 [] [] 0) (.fminTwin (r 16 8 12) (md 0 0 0)) true readAB32
    && laneMet (lane 1 [] [] 0) (.fmax (r 16 8 12)) true readAB32
    && laneMet (lane 2 [] [] 0) (.fmaxTwin (r 16 8 12) (md 0 0 0)) true readAB32
    && laneMet (lane 1 [] [] 0) (.fabs (r 16 8 0)) true readA32
    && laneMet (lane 2 [] [] 0) (.fabsTwin (r 16 8 0) (md 0 0 0)) true readA32
    && laneMet (lane 1 [] [] 0) (.fneg (r 16 8 0)) true readA32
    && laneMet (lane 2 [] [] 0) (.fnegTwin (r 16 8 0) (md 0 0 0)) true readA32
    && laneMet (lane 1 [] [] 0) (.fsetp (r 0 8 12)) false readAB32
    && laneMet (lane 2 [] [] 0) (.fsetpTwin (r 0 8 12) (md 0 0 0)) false readAB32
    && laneMet (lane 1 [] [] 0) (.fclass (r 16 8 0)) true readA32
    && laneMet (lane 2 [] [] 0) (.fclassTwin (r 16 8 0) (md 0 0 0)) true readA32
    && laneMet (lane 1 [] [] 0) (.frcp (r 16 8 0)) true readA32
    && laneMet (lane 2 [] [] 0) (.frcpTwin (r 16 8 0) (md 0 0 0)) true readA32
    && laneMet (lane 1 [] [] 0) (.frsq (r 16 8 0)) true readA32
    && laneMet (lane 2 [] [] 0) (.frsqTwin (r 16 8 0) (md 0 0 0)) true readA32
    && laneMet (lane 1 [] [] 0) (.fsqrt (r 16 8 0)) true (readFp false false)
    && laneMet (lane 2 [] [] 0) (.fsqrtTwin (r 16 8 0) (md 0 0 0)) true (readFp false false)
    && laneMet (lane 1 [] [] 0) (.fdiv (r 16 8 12)) true (readFp true false)
    && laneMet (lane 2 [] [] 0) (.fdivTwin (r 16 8 12) (md 0 0 0)) true (readFp true false)
    && laneMet (lane 1 [] [] 0) (.fexp2 (r 16 8 0)) true readA32
    && laneMet (lane 2 [] [] 0) (.fexp2Twin (r 16 8 0) (md 0 0 0)) true readA32
    && laneMet (lane 1 [] [] 0) (.flog2 (r 16 8 0)) true readA32
    && laneMet (lane 2 [] [] 0) (.flog2Twin (r 16 8 0) (md 0 0 0)) true readA32
    && laneMet (lane 1 [] [] 0) (.ftanh (r 16 8 0)) true readA32
    && laneMet (lane 2 [] [] 0) (.ftanhTwin (r 16 8 0) (md 0 0 0)) true readA32
    && laneMet (lane 1 [] [] 0) (.fsin (r 16 8 0)) true readA32
    && laneMet (lane 2 [] [] 0) (.fsinTwin (r 16 8 0) (md 0 0 0)) true readA32
    && laneMet (lane 1 [] [] 0) (.fcos (r 16 8 0)) true readA32
    && laneMet (lane 2 [] [] 0) (.fcosTwin (r 16 8 0) (md 0 0 0)) true readA32
    && laneMet (lane 1 [] [] 0) (.fsigm (r 16 8 0)) true readA32
    && laneMet (lane 2 [] [] 0) (.fsigmTwin (r 16 8 0) (md 0 0 0)) true readA32
    && laneMet (lane 1 [] [] 0) (.ferf (r 16 8 0)) true readA32
    && laneMet (lane 2 [] [] 0) (.ferfTwin (r 16 8 0) (md 0 0 0)) true readA32
    && laneMet (lane 1 [] [] 0) (.frnd (r 16 8 0)) true readA32
    && laneMet (lane 2 [] [] 0) (.frndTwin (r 16 8 0) (md 0 0 0)) true readA32
    && laneMet (lane 1 [] [] 0) (.fscale (r 16 8 12)) true (readFp true false)
    && laneMet (lane 2 [] [] 0) (.fscaleTwin (r 16 8 12) (md 0 0 0)) true (readFp true false)) = true := by decide +kernel

theorem test_met_PackedPairsComplete : (
    laneMet (lane 1 [] [] 0) (.hadd2 (r 16 8 12)) true (readPack false)
    && laneMet (lane 2 [] [] 0) (.hadd2Twin (r 16 8 12) (md 0 0 0)) true (readPack false)
    && laneMet (lane 1 [] [] 0) (.hsub2 (r 16 8 12)) true (readPack false)
    && laneMet (lane 2 [] [] 0) (.hsub2Twin (r 16 8 12) (md 0 0 0)) true (readPack false)
    && laneMet (lane 1 [] [] 0) (.hmul2 (r 16 8 12)) true (readPack false)
    && laneMet (lane 2 [] [] 0) (.hmul2Twin (r 16 8 12) (md 0 0 0)) true (readPack false)
    && laneMet (lane 1 [] [] 0) (.hfma2 (r 16 8 12)) true (readPack true)
    && laneMet (lane 2 [] [] 0) (.hfma2Twin (r 16 8 12) (md 0 0 0)) true (readPack true)
    && laneMet (lane 1 [] [] 0) (.hmin2 (r 16 8 12)) true readAB32
    && laneMet (lane 2 [] [] 0) (.hmin2Twin (r 16 8 12) (md 0 0 0)) true readAB32
    && laneMet (lane 1 [] [] 0) (.hmax2 (r 16 8 12)) true readAB32
    && laneMet (lane 2 [] [] 0) (.hmax2Twin (r 16 8 12) (md 0 0 0)) true readAB32
    && laneMet (lane 1 [] [] 0) (.habs2 (r 16 8 0)) true readA32
    && laneMet (lane 2 [] [] 0) (.habs2Twin (r 16 8 0) (md 0 0 0)) true readA32
    && laneMet (lane 1 [] [] 0) (.hsetp2 (r 0 8 12)) false readAB32
    && laneMet (lane 2 [] [] 0) (.hsetp2Twin (r 0 8 12) (md 0 0 0)) false readAB32
    && laneMet (lane 1 [] [] 0) (.hdot2 (r 16 8 12)) true (readFp true true)
    && laneMet (lane 2 [] [] 0) (.hdot2Twin (r 16 8 12) (md 0 0 0)) true (readFp true true)
    && laneMet (lane 1 [] [] 0) (.htanh2 (r 16 8 0)) true readA32
    && laneMet (lane 2 [] [] 0) (.htanh2Twin (r 16 8 0) (md 0 0 0)) true readA32
    && laneMet (lane 1 [] [] 0) (.hrcp2 (r 16 8 0)) true readA32
    && laneMet (lane 2 [] [] 0) (.hrcp2Twin (r 16 8 0) (md 0 0 0)) true readA32) = true := by decide +kernel

theorem test_met_ConversionsComplete : (
    laneMet (lane 1 [] [] 0) (.cvtf (r 16 8 0)) true (fun s cx tid => do
      let a ← readA s cx tid false
      let u ← if widens cx.ty (cx.opt % 8) then pure 0 else srWord cx
      pure (a, u))
    && laneMet (lane 2 [] [] 0) (.cvtfTwin (r 16 8 0) (md 0 0 0)) true (fun s cx tid => do
      let a ← readA s cx tid false
      let u ← if widens cx.ty (cx.opt % 8) then pure 0 else srWord cx
      pure (a, u))
    && laneMet (lane 1 [] [] 0) (.cvti (r 16 8 0)) true readA32
    && laneMet (lane 2 [] [] 0) (.cvtiTwin (r 16 8 0) (md 0 0 0)) true readA32
    && laneMet (lane 1 [] [] 0) (.cvtif (r 16 8 0)) true (fun s cx tid => do
      let a ← readA s cx tid cx.srcWide
      let u ← srWord cx
      pure (a, u))
    && laneMet (lane 2 [] [] 0) (.cvtifTwin (r 16 8 0) (md 0 0 0)) true (fun s cx tid => do
      let a ← readA s cx tid cx.srcWide
      let u ← srWord cx
      pure (a, u))
    && laneMet (lane 1 [] [] 0) (.cvtii (r 16 8 0)) true (fun s cx tid => readA s cx tid cx.srcWide)
    && laneMet (lane 2 [] [] 0) (.cvtiiTwin (r 16 8 0) (md 0 0 0)) true (fun s cx tid => readA s cx tid cx.srcWide)
    && laneMet (lane 1 [] [] 0) (.pack8 (r 16 8 12)) true (readPack true)
    && laneMet (lane 2 [] [] 0) (.pack8Twin (r 16 8 12) (md 0 0 0)) true (readPack true)
    && laneMet (lane 1 [] [] 0) (.unpk8 (r 16 8 0)) true readA32
    && laneMet (lane 2 [] [] 0) (.unpk8Twin (r 16 8 0) (md 0 0 0)) true readA32
    && laneMet (lane 1 [] [] 0) (.unpk4 (r 16 8 12)) true readAB32
    && laneMet (lane 2 [] [] 0) (.unpk4Twin (r 16 8 12) (md 0 0 0)) true readAB32
    && laneMet (lane 1 [] [] 0) (.packds (r 16 8 12)) true read3
    && laneMet (lane 2 [] [] 0) (.packdsTwin (r 16 8 12) (md 0 0 0)) true read3
    && laneMet (lane 1 [] [] 0) (.unpkds (r 16 8 12)) true readAB32
    && laneMet (lane 2 [] [] 0) (.unpkdsTwin (r 16 8 12) (md 0 0 0)) true readAB32
    && laneMet (lane 1 [] [] 0) (.bscale (r 16 8 0)) true readA32
    && laneMet (lane 2 [] [] 0) (.bscaleTwin (r 16 8 0) (md 0 0 0)) true readA32
    && laneMet (lane 1 [] [] 0) (.cvt2 (r 16 8 12)) true (fun s cx tid => do
      let a ← readA s cx tid false
      let b ← readB s cx tid false
      let u0 ← srWord cx
      let u1 ← srWord cx
      pure (a, b, u0, u1))
    && laneMet (lane 2 [] [] 0) (.cvt2Twin (r 16 8 12) (md 0 0 0)) true (fun s cx tid => do
      let a ← readA s cx tid false
      let b ← readB s cx tid false
      let u0 ← srWord cx
      let u1 ← srWord cx
      pure (a, b, u0, u1))
    && laneMet (lane 1 [] [] 0) (.pack4 (r 16 8 12)) true readPack4
    && laneMet (lane 2 [] [] 0) (.pack4Twin (r 16 8 12) (md 0 0 0)) true readPack4) = true := by decide +kernel

theorem test_met_GroupDataCompletes : (
    laneMet (lane 1 [] [] 0) (.shfl (r 16 8 12)) true (fun s cx tid => do
      let a ← readA s cx tid cx.wide
      let b ← readB s cx tid false
      let d ← readD s cx tid cx.wide
      pure (a, b, d))
    && laneMet (lane 2 [] [] 0) (.shflTwin (r 16 8 12) (md 0 0 0)) true (fun s cx tid => do
      let a ← readA s cx tid cx.wide
      let b ← readB s cx tid false
      let d ← readD s cx tid cx.wide
      pure (a, b, d))
    && laneMet (lane 1 [] [] 0) (.shflx (r 16 8 12)) true (fun s cx tid => do
      let a ← readA s cx tid cx.wide
      let b ← readB s cx tid false
      let d ← readD s cx tid cx.wide
      pure (a, b, d))
    && laneMet (lane 2 [] [] 0) (.shflxTwin (r 16 8 12) (md 0 0 0)) true (fun s cx tid => do
      let a ← readA s cx tid cx.wide
      let b ← readB s cx tid false
      let d ← readD s cx tid cx.wide
      pure (a, b, d))
    && laneMet (lane 1 [] [] 0) (.bcast (r 16 8 12)) true (fun s cx tid => do
      let a ← readA s cx tid cx.wide
      let b ← readB s cx tid false
      let d ← readD s cx tid cx.wide
      pure (a, b, d))
    && laneMet (lane 2 [] [] 0) (.bcastTwin (r 16 8 12) (md 0 0 0)) true (fun s cx tid => do
      let a ← readA s cx tid cx.wide
      let b ← readB s cx tid false
      let d ← readD s cx tid cx.wide
      pure (a, b, d))
    && laneMet (lane 1 [] [] 0) (.vote (r 0 0 0)) false (fun _ cx _ => readPred cx)
    && laneMet (lane 2 [] [] 0) (.voteTwin (r 0 0 0) (md 0 0 0)) false (fun _ cx _ => readPred cx)
    && laneMet (lane 1 [] [] 0) (.ballot (r 16 0 0)) true (fun _ cx _ => readPred cx)
    && laneMet (lane 2 [] [] 0) (.ballotTwin (r 16 0 0) (md 0 0 0)) true (fun _ cx _ => readPred cx)
    && laneMet (lane 1 [] [] 0) (.ffs (r 16 8 0)) true read1
    && laneMet (lane 2 [] [] 0) (.ffsTwin (r 16 8 0) (md 0 0 0)) true read1
    && laneMet (lane 1 [] [] 0) (.gmatch (r 16 8 0)) true read1
    && laneMet (lane 2 [] [] 0) (.gmatchTwin (r 16 8 0) (md 0 0 0)) true read1
    && laneMet (lane 1 [] [] 0) (.gcount (r 16 0 0)) true readNone
    && laneMet (lane 2 [] [] 0) (.gcountTwin (r 16 0 0) (md 0 0 0)) true readNone
    && laneMet (lane 1 [] [] 0) (.gred (r 16 8 0)) true read1
    && laneMet (lane 2 [] [] 0) (.gredTwin (r 16 8 0) (md 0 0 0)) true read1
    && laneMet (lane 1 [] [] 0) (.gscan (r 16 8 0)) true read1
    && laneMet (lane 2 [] [] 0) (.gscanTwin (r 16 8 0) (md 0 0 0)) true read1) = true := by decide +kernel

theorem test_met_StreamsAndDrawsComplete : (
    laneMet (lane 1 [(28, 1)] [] 0) (.wbind (r 0 24 0)) false (fun _ cx _ => do
      let ws ← readBlock cx.f.a.toNat 12
      liftT (bindOf ws))
    && laneMet (lane 2 [(28, 1)] [] 0) (.wbindTwin (r 0 24 0) (md 0 0 0)) false (fun _ cx _ => do
      let ws ← readBlock cx.f.a.toNat 12
      liftT (bindOf ws))
    && laneMet (lane 1 [] [] 0) (.wunb (r 0 0 0)) false readNone
    && laneMet (lane 2 [] [] 0) (.wunbTwin (r 0 0 0) (md 0 0 0)) false readNone
    && laneMet (modThread (lane 1 [] [] 0) 1 0 (fun t => setStream t 0 { bind := some ⟨0, 2, false, false, 0, 0, [1], [4], [0]⟩ })) (.wpos (r 16 0 0)) true (fun _ cx _ => do
      let w ← get
      match (streamReg w.th cx.f.a.toNat).bind with
      | none => trapRd { code := cILLEGAL }
      | some b => pure (posOf b))
    && laneMet (modThread (lane 2 [] [] 0) 1 0 (fun t => setStream t 0 { bind := some ⟨0, 2, false, false, 0, 0, [1], [4], [0]⟩ })) (.wposTwin (r 16 0 0) (md 0 0 0)) true (fun _ cx _ => do
      let w ← get
      match (streamReg w.th cx.f.a.toNat).bind with
      | none => trapRd { code := cILLEGAL }
      | some b => pure (posOf b))
    && laneMet (lane 1 [] [] 0) (.dkey (r 0 8 0)) false (fun s cx tid => do
      (do let a ← readA s cx tid true; modRng (fun r => { r with key := BitVec.ofNat 64 a }))
      let w ← get
      pure (rngOf w.th))
    && laneMet (lane 2 [] [] 0) (.dkeyTwin (r 0 8 0) (md 0 0 0)) false (fun s cx tid => do
      (do let a ← readA s cx tid true; modRng (fun r => { r with key := BitVec.ofNat 64 a }))
      let w ← get
      pure (rngOf w.th))
    && laneMet (lane 1 [] [] 0) (.dpos (r 0 8 12)) false (fun s cx tid => do
      (do
        let a ← readA s cx tid true
        let b ← readB s cx tid true
        modRng (fun r => { r with ctr := BitVec.ofNat 128 (b * 2 ^ 64 + a), idx := 0 }))
      let w ← get
      pure (rngOf w.th))
    && laneMet (lane 2 [] [] 0) (.dposTwin (r 0 8 12) (md 0 0 0)) false (fun s cx tid => do
      (do
        let a ← readA s cx tid true
        let b ← readB s cx tid true
        modRng (fun r => { r with ctr := BitVec.ofNat 128 (b * 2 ^ 64 + a), idx := 0 }))
      let w ← get
      pure (rngOf w.th))
    && laneMet (lane 1 [] [] 0) (.dset (r 0 16 0)) false (fun s cx tid => do
      (do let ws ← readBlock cx.f.a.toNat 8; let r ← liftT (rngBlock ws); modRng (fun _ => r))
      let w ← get
      pure (rngOf w.th))
    && laneMet (lane 2 [] [] 0) (.dsetTwin (r 0 16 0) (md 0 0 0)) false (fun s cx tid => do
      (do let ws ← readBlock cx.f.a.toNat 8; let r ← liftT (rngBlock ws); modRng (fun _ => r))
      let w ← get
      pure (rngOf w.th))
    && laneMet (lane 1 [] [] 0) (.dskip (r 0 8 0)) false (fun s cx tid => do
      (do let a ← readA s cx tid true; modRng (skipRng a))
      let w ← get
      pure (rngOf w.th))
    && laneMet (lane 2 [] [] 0) (.dskipTwin (r 0 8 0) (md 0 0 0)) false (fun s cx tid => do
      (do let a ← readA s cx tid true; modRng (skipRng a))
      let w ← get
      pure (rngOf w.th))
    && laneMet (lane 1 [] [] 0) (.dfork (r 0 8 0)) false (fun s cx tid => do
      (do let a ← readA s cx tid true; modRng (forkRng a))
      let w ← get
      pure (rngOf w.th))
    && laneMet (lane 2 [] [] 0) (.dforkTwin (r 0 8 0) (md 0 0 0)) false (fun s cx tid => do
      (do let a ← readA s cx tid true; modRng (forkRng a))
      let w ← get
      pure (rngOf w.th))
    && laneMet (lane 1 [] [] 0) (.dget (r 16 0 0)) true (fun _ _ _ => do
      let w ← get
      pure (rngOf w.th))
    && laneMet (lane 2 [] [] 0) (.dgetTwin (r 16 0 0) (md 0 0 0)) true (fun _ _ _ => do
      let w ← get
      pure (rngOf w.th))
    && laneMet (lane 1 [] [] 0) (.rand (r 16 0 0)) true (fun _ cx _ => do
      let ws ← randWords cx
      let w ← get
      pure (ws, rngOf w.th))
    && laneMet (lane 2 [] [] 0) (.randTwin (r 16 0 0) (md 0 0 0)) true (fun _ cx _ => do
      let ws ← randWords cx
      let w ← get
      pure (ws, rngOf w.th))
    && laneMet (lane 1 [] [] 0) (.randn (r 16 0 0)) true (fun _ cx _ => do
      let ws ← randnWords
      let w ← get
      pure (ws, rngOf w.th))
    && laneMet (lane 2 [] [] 0) (.randnTwin (r 16 0 0) (md 0 0 0)) true (fun _ cx _ => do
      let ws ← randnWords
      let w ← get
      pure (ws, rngOf w.th))
    && laneMet (lane 1 [] [] 0) (.dinfo (r 16 0 0)) true (fun _ cx _ => pure (distOf cx.g cx.f.a.toNat))
    && laneMet (lane 2 [] [] 0) (.dinfoTwin (r 16 0 0) (md 0 0 0)) true (fun _ cx _ => pure (distOf cx.g cx.f.a.toNat))
    && laneMet (lane 1 [] [] 0) (.dpeek (r 16 0 0)) true (fun s cx tid => do
      let w ← get
      let v ← drawFrom s cx tid cx.f.a.toNat (distOf cx.g cx.f.a.toNat)
      modify (fun x => { x with th := setRng (rngOf w.th) x.th })
      pure v)
    && laneMet (lane 2 [] [] 0) (.dpeekTwin (r 16 0 0) (md 0 0 0)) true (fun s cx tid => do
      let w ← get
      let v ← drawFrom s cx tid cx.f.a.toNat (distOf cx.g cx.f.a.toNat)
      modify (fun x => { x with th := setRng (rngOf w.th) x.th })
      pure v)
    && readsMet (lane 1 [] [] 0) (.dload (r 0 24 0)) (fun _ cx => distRd cx)
    && readsMet (lane 2 [] [] 0) (.dloadTwin (r 0 24 0) (md 0 0 0)) (fun _ cx => distRd cx)) = true := by decide +kernel

theorem test_met_TransfersComplete : (
    runMet (lane 1 [] [] 0) (.nop (r 0 0 0)) (fun _ => true)
    && runMet (lane 1 [] [] 0) (.yield (r 0 0 0)) (fun _ => true)
    && branchMet (lane 1 [] [] 0) (.bra (fb 0)) (fb 0) (fun _ => true)
    && branchMet (lane 1 [] [] 0) (.brcT 0 (fb 0)) (fb 0) (fun t => pred t 0)
    && branchMet (lane 1 [] [] 0) (.brcF 0 (fb 0)) (fb 0) (fun t => !pred t 0)
    && branchMet (lane 1 [] [] 0) (.bre 0 0 (fb 0)) (fb 0) (fun t => endFlag t 0 0)
    && jumpMet (lane 1 [(20, 0x100000)] [] 0) (.jmpi (r 0 20 0)) false (fun _ => none) (fun cx t => readA (lane 1 [(20, 0x100000)] [] 0) cx t true)
    && jumpMet (lane 1 [(20, 0x100000)] [] 0) (.ret (r 0 20 0)) false (fun _ => none) (fun cx t => readA (lane 1 [(20, 0x100000)] [] 0) cx t true)
    && jumpMet (lane 1 [(20, 0x100000)] [] 0) (.calli (r 16 20 0)) false (fun _ => some 16) (fun cx t => readA (lane 1 [(20, 0x100000)] [] 0) cx t true)
    && jumpMet (lane 1 [] [] 0) (.call (fb 0)) true (fun _ => some 0) (fun cx _ => pure (branchTarget cx (fb 0)).toNat)) = true := by decide +kernel

theorem test_met_ExitSpawnServiceTrapWaitComplete : (
    runMet (lane 1 [] [] 0) (.exit (r 0 0 0)) (fun _ => true)
    && asyncMet (lane 1 [(20, 0x100000)] [] 0) (.spawn (r 16 20 16)) Cx.setb (fun _ => 1) true (fun s cx tid => do
    let a ← readA s cx tid true
    let b ← readB s cx tid true
    if isHeader cx.k (BitVec.ofNat 64 a) then
      pure { kind := fun d => .spawn a (BitVec.ofNat 64 b) d, deps := relDeps s cx tid 4,
             after := fun tok s => ofExecution s cx.gid tok }
    else trapRd { code := cTARGET })
    && readsMet (lane 1 [] [] 0) (.bincfg (fi 8 0)) (fun s cx t => readD s cx t false)
    && asyncMet (lane 1 [] [] 0) (.svc (fi 16 0)) Cx.setb (fun _ => 1) true (fun s cx tid => do
    let args ← readBlock ((fi 16 0).d.toNat + 1) 7
    pure { kind := fun d => .service (fi 16 0).imm.toNat args d, deps := performed (ownStores s cx tid) })
    && runMet (lane 1 [] [] 0) (.trap (fi 0 0)) (fun _ => true)
    && runOk (lane 1 [] [] 0) (.waitf (fi 0 0)) (fun cx => ∀ t ∈ cx.fl.run, takeDeferred (namedBy 0) (thread cx.g t).deferred = none)) = true := by decide +kernel

theorem test_met_RejoinsAndBarriersComplete : (
    runOk (lane 1 [] [] 0) (.rejn (r 0 0 0)) (fun cx => cx.team.isSome = true ∧ (signAll (lane 1 [] [] 0) cx (cx.team.getD 0) 0 false (some (.cleat 0)) (cx.fl.run.map (fun t => (t, ({} : Sig), none)))).traps.isEmpty = true)
    && runOk (lane 1 [] [] 0) (.rejnCmt (r 0 0 0)) (fun cx => cx.team.isSome = true ∧ (let s : State := (lane 1 [] [] 0)
        signAll { s with nextId := s.nextId + 1 } cx (cx.team.getD 0) 0 false (some (.commit 0 cx.fl.hdr cx.fl.slot s.nextId)) (cx.fl.run.map (fun t => (t, ({} : Sig), none)))).traps.isEmpty = true)
    && runOk (lane 1 [] [] 0) (.bar (r 0 0 0)) (fun cx => cx.team.isSome = true ∧ 0 < cx.k.bars)
    && runOk (lane 1 [] [] 0) (.bara (r 0 0 0)) (fun cx => cx.team.isSome = true ∧ 0 < cx.k.bars)
    && runOk (lane 1 [] [] 0) (.barw (r 0 0 0)) (fun cx => cx.team.isSome = true ∧ 0 < cx.k.bars)
    && readsMet (lane 1 [] [] 0) (.clset (r 0 96 0)) (fun s cx t => readA s cx t false) && runOk (lane 1 [] [] 0) (.clset (r 0 96 0)) (fun cx => (cx.team.bind (mfind ((lane 1 [] [] 0)).teams)).isSome = true)) = true := by decide +kernel

theorem test_met_LoadsAndStoresComplete : (
    asyncMet (lane 1 [] [] 0) (.ld (r 16 20 12)) Cx.seta Cx.memWords true (fun s cx => loadReq s cx false
    (fun t => do let (a, b) ← ldstOps s cx t; ldstRd s cx t a b .read))
    && asyncMet (lane 2 [] [] 0) (.ldTwin (r 16 20 12) (md 0 0 0)) Cx.seta Cx.memWords true (fun s cx => loadReq s cx false
    (fun t => do let (a, b) ← ldstOps s cx t; ldstRd s cx t a b .read))
    && asyncMet (lane 1 [] [] 0) (.st (r 8 20 12)) Cx.setb (fun _ => 1) false (fun s cx => storeReq s cx (fun _ => []) (ldstOps s cx)
    (fun t ab => ldstRd s cx t ab.1 ab.2 .write))
    && asyncMet (lane 2 [] [] 0) (.stTwin (r 8 20 12) (md 0 0 0)) Cx.setb (fun _ => 1) false (fun s cx => storeReq s cx (fun _ => []) (ldstOps s cx)
    (fun t ab => ldstRd s cx t ab.1 ab.2 .write))
    && asyncMet (lane 1 [] [] 0) (.lds (r 16 8 12)) Cx.seta Cx.memWords true (fun s cx => loadReq s cx false
    (fun t => do let (a, b) ← ldsOps s cx t; scratchRd s cx a b (memBytes cx.ty)))
    && asyncMet (lane 2 [] [] 0) (.ldsTwin (r 16 8 12) (md 0 0 0)) Cx.seta Cx.memWords true (fun s cx => loadReq s cx false
    (fun t => do let (a, b) ← ldsOps s cx t; scratchRd s cx a b (memBytes cx.ty)))
    && asyncMet (lane 1 [] [] 0) (.sts (r 8 8 12)) Cx.setb (fun _ => 1) false (fun s cx => storeReq s cx (fun _ => []) (ldsOps s cx)
    (fun _ ab => scratchRd s cx ab.1 ab.2 (memBytes cx.ty)))
    && asyncMet (lane 2 [] [] 0) (.stsTwin (r 8 8 12) (md 0 0 0)) Cx.setb (fun _ => 1) false (fun s cx => storeReq s cx (fun _ => []) (ldsOps s cx)
    (fun _ ab => scratchRd s cx ab.1 ab.2 (memBytes cx.ty)))
    && asyncMet (lane 1 [] [] 0) (.lda (r 16 8 12)) Cx.seta Cx.memWords true (fun s cx => loadReq s cx true
    (fun t => do let ab ← ldaOps s cx t; ldaAddr s cx .read ab))
    && asyncMet (lane 2 [] [] 0) (.ldaTwin (r 16 8 12) (md 0 0 4)) Cx.seta Cx.memWords true (fun s cx => loadReq s cx true
    (fun t => do let ab ← ldaOps s cx t; ldaAddr s cx .read ab))
    && asyncMet (lane 1 [] [] 0) (.str (r 8 8 12)) Cx.setb (fun _ => 1) false (fun s cx => storeReq s cx
    (fun t => relDeps s cx t cx.m.scope.toNat) (ldaOps s cx) (fun _ ab => ldaAddr s cx .write ab))
    && asyncMet (lane 2 [] [] 0) (.strTwin (r 8 8 12) (md 0 0 4)) Cx.setb (fun _ => 1) false (fun s cx => storeReq s cx
    (fun t => relDeps s cx t cx.m.scope.toNat) (ldaOps s cx) (fun _ ab => ldaAddr s cx .write ab))) = true := by decide +kernel

theorem test_met_TilesPrefetchFencesComplete : (
    asyncMet (lane 1 [] [] 0) (.ldo (r 16 8 0)) Cx.seta (fun _ => 8) true (fun s cx tid => do
    let a ← readA s cx tid true
    let e := 4 / 2 ^ cx.ty
    let row := a % 1024 / 32
    if row % (32 / e) ≠ 0 ∨ a % 32 % e ≠ 0 then trapRd { code := cALIGN, addr := a }
    let base ← liftT (globalLocs s cx a 1 .read)
    touch a
    let ls := base.flatMap (fun l => match l with
      | .g pa => (List.range (32 / e)).flatMap (fun i => (rangeFrom (pa + 32 * i) e).map Loc.g)
      | .s _ _ => [])
    poisonRd s cx tid a ls
    pure { kind := fun d => .load ls (8 + cx.loadFmt) d, locs := ls })
    && asyncMet (lane 2 [] [] 0) (.ldoTwin (r 16 8 0) (md 0 0 0)) Cx.seta (fun _ => 8) true (fun s cx tid => do
    let a ← readA s cx tid true
    let e := 4 / 2 ^ cx.ty
    let row := a % 1024 / 32
    if row % (32 / e) ≠ 0 ∨ a % 32 % e ≠ 0 then trapRd { code := cALIGN, addr := a }
    let base ← liftT (globalLocs s cx a 1 .read)
    touch a
    let ls := base.flatMap (fun l => match l with
      | .g pa => (List.range (32 / e)).flatMap (fun i => (rangeFrom (pa + 32 * i) e).map Loc.g)
      | .s _ _ => [])
    poisonRd s cx tid a ls
    pure { kind := fun d => .load ls (8 + cx.loadFmt) d, locs := ls })
    && asyncMet (lane 1 [] [] 0) (.ldv (r 16 24 0)) Cx.seta (fun _ => 1) true (fun s cx tid => do
    let (va, sa) ← tileOps cx
    let gl ← liftT (globalLocs s cx va 1024 .read)
    touch va
    poisonRd s cx tid va gl
    let sl ← liftT (scratchLocs s cx (saddr sa) (saddr sa).off 1024)
    pure { kind := fun d => .tileRead (lowestPa gl) (scratchTeam s cx (saddr sa)) (BitVec.ofNat 32 sa) d, locs := gl ++ sl,
           stores := true })
    && asyncMet (lane 2 [] [] 0) (.ldvTwin (r 16 24 0) (md 0 0 0)) Cx.seta (fun _ => 1) true (fun s cx tid => do
    let (va, sa) ← tileOps cx
    let gl ← liftT (globalLocs s cx va 1024 .read)
    touch va
    poisonRd s cx tid va gl
    let sl ← liftT (scratchLocs s cx (saddr sa) (saddr sa).off 1024)
    pure { kind := fun d => .tileRead (lowestPa gl) (scratchTeam s cx (saddr sa)) (BitVec.ofNat 32 sa) d, locs := gl ++ sl,
           stores := true })
    && asyncMet (lane 1 [] [] 0) (.stt (r 16 24 0)) Cx.setb (fun _ => 1) true (fun s cx tid => do
    let (va, sa) ← tileOps cx
    let sl ← liftT (scratchLocs s cx (saddr sa) (saddr sa).off 1024)
    poisonRd s cx tid sa sl
    let gl ← liftT (globalLocs s cx va 1024 .write)
    touch va
    pure { kind := fun d => .tileWrite (lowestPa gl) (scratchTeam s cx (saddr sa)) (BitVec.ofNat 32 sa) (bitOf cx.opt 0) none []
             (List.range 32) d, locs := gl ++ sl, stores := true })
    && asyncMet (lane 2 [] [] 0) (.sttTwin (r 16 24 0) (md 0 0 0)) Cx.setb (fun _ => 1) true (fun s cx tid => do
    let (va, sa) ← tileOps cx
    let sl ← liftT (scratchLocs s cx (saddr sa) (saddr sa).off 1024)
    poisonRd s cx tid sa sl
    let gl ← liftT (globalLocs s cx va 1024 .write)
    touch va
    pure { kind := fun d => .tileWrite (lowestPa gl) (scratchTeam s cx (saddr sa)) (BitVec.ofNat 32 sa) (bitOf cx.opt 0) none []
             (List.range 32) d, locs := gl ++ sl, stores := true })
    && runOk (lane 1 [] [] 0) (.pref (r 0 8 12)) (fun cx => (readAll (lane 1 [] [] 0) cx (prefAddr (lane 1 [] [] 0) cx) false (doers cx)).stall = none)
    && runOk (lane 2 [] [] 0) (.prefTwin (r 0 8 12) (md 0 0 0)) (fun cx => (readAll (lane 2 [] [] 0) cx (prefAddr (lane 2 [] [] 0) cx) false (doers cx)).stall = none)
    && runMet (lane 1 [] [] 0) (.fence (r 0 0 0)) (fun _ => true)
    && runMet (lane 2 [] [] 0) (.fenceTwin (r 0 0 0) (md 0 0 4)) (fun _ => true)) = true := by decide +kernel

theorem test_met_AtomicsComplete : (
    atomMet (lane 1 [] [] 0) (.atomAdd (r 16 8 12)) false false
    && atomMet (lane 2 [] [] 0) (.atomAddTwin (r 16 8 12) (md 0 0 0)) false false
    && atomMet (lane 1 [] [] 0) (.atomFadd (r 16 8 12)) false false
    && atomMet (lane 2 [] [] 0) (.atomFaddTwin (r 16 8 12) (md 0 0 0)) false false
    && atomMet (lane 1 [] [] 0) (.atomMin (r 16 8 12)) false false
    && atomMet (lane 2 [] [] 0) (.atomMinTwin (r 16 8 12) (md 0 0 0)) false false
    && atomMet (lane 1 [] [] 0) (.atomMax (r 16 8 12)) false false
    && atomMet (lane 2 [] [] 0) (.atomMaxTwin (r 16 8 12) (md 0 0 0)) false false
    && atomMet (lane 1 [] [] 0) (.atomAnd (r 16 8 12)) false false
    && atomMet (lane 2 [] [] 0) (.atomAndTwin (r 16 8 12) (md 0 0 0)) false false
    && atomMet (lane 1 [] [] 0) (.atomOr (r 16 8 12)) false false
    && atomMet (lane 2 [] [] 0) (.atomOrTwin (r 16 8 12) (md 0 0 0)) false false
    && atomMet (lane 1 [] [] 0) (.atomXor (r 16 8 12)) false false
    && atomMet (lane 2 [] [] 0) (.atomXorTwin (r 16 8 12) (md 0 0 0)) false false
    && atomMet (lane 1 [] [] 0) (.atomXchg (r 16 8 12)) false false
    && atomMet (lane 2 [] [] 0) (.atomXchgTwin (r 16 8 12) (md 0 0 0)) false false
    && atomMet (lane 1 [] [] 0) (.atomCas (r 16 8 16)) false true
    && atomMet (lane 2 [] [] 0) (.atomCasTwin (r 16 8 16) (md 0 0 0)) false true
    && atomMet (lane 1 [] [] 0) (.atomInc (r 16 8 12)) false false
    && atomMet (lane 2 [] [] 0) (.atomIncTwin (r 16 8 12) (md 0 0 0)) false false
    && atomMet (lane 1 [] [] 0) (.atomDec (r 16 8 12)) false false
    && atomMet (lane 2 [] [] 0) (.atomDecTwin (r 16 8 12) (md 0 0 0)) false false
    && atomMet (lane 1 [] [] 0) (.atomHadd2 (r 16 8 12)) false false
    && atomMet (lane 2 [] [] 0) (.atomHadd2Twin (r 16 8 12) (md 0 0 0)) false false
    && atomMet (lane 1 [] [] 0) (.atomsAdd (r 16 8 12)) true false
    && atomMet (lane 2 [] [] 0) (.atomsAddTwin (r 16 8 12) (md 0 0 0)) true false
    && atomMet (lane 1 [] [] 0) (.atomsCas (r 16 8 16)) true true
    && atomMet (lane 2 [] [] 0) (.atomsCasTwin (r 16 8 16) (md 0 0 0)) true true
    && atomMet (lane 1 [] [] 0) (.atomsXchg (r 16 8 12)) true false
    && atomMet (lane 2 [] [] 0) (.atomsXchgTwin (r 16 8 12) (md 0 0 0)) true false) = true := by decide +kernel

theorem test_met_SemaphoresComplete : (
    asyncMet (lane 1 [] [] 0) (.seminc (r 0 8 12)) Cx.setb (fun _ => 1) false (fun s cx tid => do
    let w ← readA s cx tid false
    let b ← readLate (readB s cx tid false)
    let (core, i) ← liftT (semTarget cx.g.core w)
    pure { kind := fun _ => .semInc core cx.ctx i (BitVec.ofNat 32 (b.getD 0)) false,
           deps := semRelease s cx tid core i ++ performed (semDeps s cx tid core i), after := fun tok s => ofExecution s cx.gid tok })
    && asyncMet (lane 2 [] [] 0) (.semincTwin (r 0 8 12) (md 0 0 4)) Cx.setb (fun _ => 1) false (fun s cx tid => do
    let w ← readA s cx tid false
    let b ← readLate (readB s cx tid false)
    let (core, i) ← liftT (semTarget cx.g.core w)
    pure { kind := fun _ => .semInc core cx.ctx i (BitVec.ofNat 32 (b.getD 0)) false,
           deps := semRelease s cx tid core i ++ performed (semDeps s cx tid core i), after := fun tok s => ofExecution s cx.gid tok })
    && asyncMet (lane 1 [] [] 0) (.semset (r 0 8 12)) Cx.setb (fun _ => 1) false (fun s cx tid => do
    let w ← readA s cx tid false
    let b ← readLate (readB s cx tid false)
    let (core, i) ← liftT (semTarget cx.g.core w)
    pure { kind := fun _ => .semInc core cx.ctx i (BitVec.ofNat 32 (b.getD 0)) true,
           deps := semRelease s cx tid core i ++ performed (semDeps s cx tid core i), after := fun tok s => ofExecution s cx.gid tok })
    && asyncMet (lane 2 [] [] 0) (.semsetTwin (r 0 8 12) (md 0 0 4)) Cx.setb (fun _ => 1) false (fun s cx tid => do
    let w ← readA s cx tid false
    let b ← readLate (readB s cx tid false)
    let (core, i) ← liftT (semTarget cx.g.core w)
    pure { kind := fun _ => .semInc core cx.ctx i (BitVec.ofNat 32 (b.getD 0)) true,
           deps := semRelease s cx tid core i ++ performed (semDeps s cx tid core i), after := fun tok s => ofExecution s cx.gid tok })
    && asyncMet (lane 1 [] [] 0) (.semrd (r 16 8 0)) Cx.seta (fun _ => 1) true (fun s cx tid => do
    let w ← readA s cx tid false
    let i ← liftT (ownSem cx.g.core w)
    pure { kind := fun d => .semRead cx.g.core cx.ctx i d, deps := performed (semDeps s cx tid cx.g.core i),
           after := fun tok s => ofExecution s cx.gid tok, acquire := true })
    && asyncMet (lane 2 [] [] 0) (.semrdTwin (r 16 8 0) (md 0 0 4)) Cx.seta (fun _ => 1) true (fun s cx tid => do
    let w ← readA s cx tid false
    let i ← liftT (ownSem cx.g.core w)
    pure { kind := fun d => .semRead cx.g.core cx.ctx i d, deps := performed (semDeps s cx tid cx.g.core i),
           after := fun tok s => ofExecution s cx.gid tok, acquire := true })
    && readsMet (lane 1 [] [] 0) (.semwait (r 0 8 12)) semWaitRd
    && readsMet (lane 2 [] [] 0) (.semwaitTwin (r 0 8 12) (md 0 0 4)) semWaitRd) = true := by decide +kernel

theorem test_met_TaskGraphCompletes : (
    asyncMet (lane 1 [] [] 0) (.tgpost (r 0 8 0)) Cx.setb (fun _ => 1) false (fun s cx tid => do
    let va ← readA s cx tid true
    alignRd va va 128
    let ls ← recordRd s cx va .write
    poisonRd s cx tid va ls
    pure { kind := fun _ => .post va ls, locs := ls, stores := true, deps := relDeps s cx tid 4 })
    && asyncMet (lane 2 [] [] 0) (.tgpostTwin (r 0 8 0) (md 0 0 0)) Cx.setb (fun _ => 1) false (fun s cx tid => do
    let va ← readA s cx tid true
    alignRd va va 128
    let ls ← recordRd s cx va .write
    poisonRd s cx tid va ls
    pure { kind := fun _ => .post va ls, locs := ls, stores := true, deps := relDeps s cx tid 4 })
    && asyncMet (lane 1 [(26, 0x100000)] [] 0) (.tginit (r 0 24 0)) Cx.setb (fun _ => 1) false (fun s cx _ => do
    let ws ← readBlock cx.f.a.toNat 10
    let b := initOf ws
    if b.tier = 1 ∧ !cx.granted 6 then trapRd { code := cILLEGAL }
    complGranted cx b.compl
    if initBad b then trapRd { code := cFIELD }
    alignRd b.va b.va 128
    let okEntry : Bool := match b.tier with
      | 0 => isHeader cx.k (BitVec.ofNat 64 b.entry)
      | 1 => decide (b.entry < cx.k.routines.length)
      | _ => true
    if !okEntry then trapRd { code := cTARGET }
    let ls ← recordRd s cx b.va .write
    let parts := pieces 32 (ls.zip (initBytes cx b))
    pure { kind := fun _ => if bitOf cx.opt 0 then .go b.va parts else .store parts (parts.map (fun _ => false))
           locs := ls, stores := true })
    && asyncMet (lane 2 [(26, 0x100000)] [] 0) (.tginitTwin (r 0 24 0) (md 0 0 0)) Cx.setb (fun _ => 1) false (fun s cx _ => do
    let ws ← readBlock cx.f.a.toNat 10
    let b := initOf ws
    if b.tier = 1 ∧ !cx.granted 6 then trapRd { code := cILLEGAL }
    complGranted cx b.compl
    if initBad b then trapRd { code := cFIELD }
    alignRd b.va b.va 128
    let okEntry : Bool := match b.tier with
      | 0 => isHeader cx.k (BitVec.ofNat 64 b.entry)
      | 1 => decide (b.entry < cx.k.routines.length)
      | _ => true
    if !okEntry then trapRd { code := cTARGET }
    let ls ← recordRd s cx b.va .write
    let parts := pieces 32 (ls.zip (initBytes cx b))
    pure { kind := fun _ => if bitOf cx.opt 0 then .go b.va parts else .store parts (parts.map (fun _ => false))
           locs := ls, stores := true })
    && asyncMet (lane 1 [] [] 0) (.tglink (r 16 24 0)) Cx.setb (fun _ => 1) true (fun s cx tid => do
    let ws ← readBlock cx.f.a.toNat 4
    let va := wordsVal (ws.take 2)
    let succ := wordsVal (ws.drop 2)
    alignRd va va 128
    alignRd succ succ 128
    let l1 ← recordRd s cx va .write
    poisonRd s cx tid va l1
    let l2 ← recordRd s cx succ .write
    poisonRd s cx tid succ l2
    pure { kind := fun d => .link va succ (l1 ++ l2) d, locs := l1 ++ l2, stores := true })
    && asyncMet (lane 2 [] [] 0) (.tglinkTwin (r 16 24 0) (md 0 0 0)) Cx.setb (fun _ => 1) true (fun s cx tid => do
    let ws ← readBlock cx.f.a.toNat 4
    let va := wordsVal (ws.take 2)
    let succ := wordsVal (ws.drop 2)
    alignRd va va 128
    alignRd succ succ 128
    let l1 ← recordRd s cx va .write
    poisonRd s cx tid va l1
    let l2 ← recordRd s cx succ .write
    poisonRd s cx tid succ l2
    pure { kind := fun d => .link va succ (l1 ++ l2) d, locs := l1 ++ l2, stores := true })
    && readsMet (lane 1 [] [] 0) (.tgwait (r 0 8 0)) tgWaitRd
    && readsMet (lane 2 [] [] 0) (.tgwaitTwin (r 0 8 0) (md 0 0 0)) tgWaitRd
    && laneMet (lane 1 [] [] 0) (.cpst (r 16 0 0)) true (fun _ _ _ => (pure () : Rd Unit))
    && laneMet (lane 2 [] [] 0) (.cpstTwin (r 16 0 0) (md 0 0 0)) true (fun _ _ _ => (pure () : Rd Unit))) = true := by decide +kernel

theorem test_met_CopiesComplete : (
    copyMet (lane 1 [(28, 2), (30, 1), (42, 1)] [] 0) (.copy (r 16 24 12)) (fun s cx t => do
    let ws ← readBlock cx.f.a.toNat 24
    let w ← readLate (readB s cx t false)
    copyReq s cx t (layoutOf ws) false false [(layoutOf ws).dst] false (w.getD 0) none false)
    && copyMet (lane 2 [(28, 2), (30, 1), (42, 1)] [] 0) (.copyTwin (r 16 24 12) (md 0 0 0)) (fun s cx t => do
    let ws ← readBlock cx.f.a.toNat 24
    let w ← readLate (readB s cx t false)
    copyReq s cx t (layoutOf ws) false false [(layoutOf ws).dst] false (w.getD 0) none false)
    && copyMet (lane 1 [(28, 4)] [] 0) (.copys (r 16 24 0)) (fun s cx t => do
    let ws ← readBlock cx.f.a.toNat 6
    let n := (ws.getD 4 0).toNat
    let l := linearOf ws (bitOf cx.opt 0) (bitOf cx.opt 1)
    copyReq s cx t l (decide (n < 4 ∨ 16777216 < n)) (n % 4 != 0) [l.dst] false (ws.getD 5 0).toNat none false)
    && copyMet (lane 2 [(28, 4)] [] 0) (.copysTwin (r 16 24 0) (md 0 0 0)) (fun s cx t => do
    let ws ← readBlock cx.f.a.toNat 6
    let n := (ws.getD 4 0).toNat
    let l := linearOf ws (bitOf cx.opt 0) (bitOf cx.opt 1)
    copyReq s cx t l (decide (n < 4 ∨ 16777216 < n)) (n % 4 != 0) [l.dst] false (ws.getD 5 0).toNat none false)
    && copyMet (lane 1 [(12, 0x1000), (28, 2), (30, 1), (42, 1)] [] 0) (.copym (r 16 24 12)) (copyListRd (fun _ => none) (fun _ => 0))
    && copyMet (lane 2 [(12, 0x1000), (28, 2), (30, 1), (42, 1)] [] 0) (.copymTwin (r 16 24 12) (md 0 0 0)) (copyListRd (fun _ => none) (fun _ => 0))
    && copyMet (lane 1 [(12, 0x1000), (28, 2), (30, 1), (42, 1)] [] 0) (.copyr (r 16 24 12)) (copyListRd (fun cx => some (bitsOf cx.opt 3 1, cx.ty))
    (fun cx => if cx.ty = 1 ∨ cx.ty = 2 then 2 else 4))
    && copyMet (lane 2 [(12, 0x1000), (28, 2), (30, 1), (42, 1)] [] 0) (.copyrTwin (r 16 24 12) (md 0 0 0)) (copyListRd (fun cx => some (bitsOf cx.opt 3 1, cx.ty))
    (fun cx => if cx.ty = 1 ∨ cx.ty = 2 then 2 else 4))) = true := by decide +kernel

theorem test_met_EngineCallsComplete : (
    callMet (lane 1 [] [] 0) (.mma (r 8 24 0)) (fun cx s => mmaSig s cx)
    && callMet (lane 2 [] [] 0) (.mmaTwin (r 8 24 0) (md 0 0 0)) (fun cx s => mmaSig s cx)
    && callMet (lane 1 [(8, 0x70000)] [] 0) (.mmaq (r 8 24 0)) (fun cx s => mmaSig s cx)
    && callMet (lane 2 [(8, 0x70000)] [] 0) (.mmaqTwin (r 8 24 0) (md 0 0 0)) (fun cx s => mmaSig s cx)
    && callMet (lane 1 [] [] 0) (.mmas (r 8 24 0)) (fun cx s => mmaSig s cx)
    && callMet (lane 2 [] [] 0) (.mmasTwin (r 8 24 0) (md 0 0 0)) (fun cx s => mmaSig s cx)
    && callMet (lane 1 [] [] 0) (.join (r 8 24 0)) (fun cx s => joinSig s cx)
    && callMet (lane 2 [] [] 0) (.joinTwin (r 8 24 0) (md 0 0 0)) (fun cx s => joinSig s cx)
    && callMet (lane 1 [(27, 0x10020)] [] 0) (.norm (r 8 24 0)) (fun cx s => normSig s cx)
    && callMet (lane 2 [(27, 0x10020)] [] 0) (.normTwin (r 8 24 0) (md 0 0 0)) (fun cx s => normSig s cx)) = true := by decide +kernel

theorem test_met_PocketInstructionsComplete : (
    teamMet (lane 1 [] [] 0) (.pcfg (r 0 8 0)) Cx.setb (fun _ => 1) false (fun s cx key t => do
    let a ← readA s cx t false
    let w : W32 := BitVec.ofNat 32 a
    if !cfgOk w cx.k.coarse cx.k.fine then trapRd { code := cFIELD }
    pure { pocketReq key (fun _ => .cfg w) [] with
      prep := fun s k => (modTeam s key (fun t => { t with cfgNew := w }), k) })
    && teamMet (lane 2 [] [] 0) (.pcfgTwin (r 0 8 0) (md 0 0 0)) Cx.setb (fun _ => 1) false (fun s cx key t => do
    let a ← readA s cx t false
    let w : W32 := BitVec.ofNat 32 a
    if !cfgOk w cx.k.coarse cx.k.fine then trapRd { code := cFIELD }
    pure { pocketReq key (fun _ => .cfg w) [] with
      prep := fun s k => (modTeam s key (fun t => { t with cfgNew := w }), k) })
    && teamMet (lane 1 [] [] 0) (.pins (r 0 8 12)) Cx.setb (fun _ => 1) false (fun s cx key t => do
    let k ← readLate (readA s cx t true)
    let v ← readLate (readB s cx t false)
    regionRd s cx false
    pure (pocketReq key (fun _ => .add (k.getD 0) (BitVec.ofNat 32 (v.getD 0)) false) []))
    && teamMet (lane 2 [] [] 0) (.pinsTwin (r 0 8 12) (md 0 0 0)) Cx.setb (fun _ => 1) false (fun s cx key t => do
    let k ← readLate (readA s cx t true)
    let v ← readLate (readB s cx t false)
    regionRd s cx false
    pure (pocketReq key (fun _ => .add (k.getD 0) (BitVec.ofNat 32 (v.getD 0)) false) []))
    && teamMet (lane 1 [] [] 0) (.pcnt (r 0 8 12)) Cx.setb (fun _ => 1) false (fun s cx key t => do
    let k ← readLate (readA s cx t true)
    let v ← readLate (readB s cx t false)
    regionRd s cx false
    pure (pocketReq key (fun _ => .add (k.getD 0) (BitVec.ofNat 32 (v.getD 0)) true) []))
    && teamMet (lane 2 [] [] 0) (.pcntTwin (r 0 8 12) (md 0 0 0)) Cx.setb (fun _ => 1) false (fun s cx key t => do
    let k ← readLate (readA s cx t true)
    let v ← readLate (readB s cx t false)
    regionRd s cx false
    pure (pocketReq key (fun _ => .add (k.getD 0) (BitVec.ofNat 32 (v.getD 0)) true) []))
    && teamMet (lane 1 [] [] 0) (.plup (r 16 8 12)) Cx.seta (fun _ => 1) true (fun s cx key t => do
    let k ← readLate (readA s cx t true)
    let b ← readLate (readB s cx t false)
    let k := k.getD 0
    let b := b.getD 0
    let coarse := bitOf cx.opt 0
    regionRd s cx coarse
    if coarse ∧ b / 2 ^ 10 ≠ 0 then trapRd { code := cFIELD }
    if poisonOpen s key then stallRd false
    if pocketPoisoned s key coarse k then trapRd { code := cPOISON }
    let who := if cx.uni then cx.fl.run else [t]
    pure (pocketReq key (fun d => .lookup k coarse b
      (if bitOf cx.opt 4 then
        { d with preds := (if cx.f.d.toNat < 96 then d.regs.map (·.1) else who).map (fun i => (i, bitsOf cx.opt 3 1)) }
      else d)) []))
    && teamMet (lane 2 [] [] 0) (.plupTwin (r 16 8 12) (md 0 0 0)) Cx.seta (fun _ => 1) true (fun s cx key t => do
    let k ← readLate (readA s cx t true)
    let b ← readLate (readB s cx t false)
    let k := k.getD 0
    let b := b.getD 0
    let coarse := bitOf cx.opt 0
    regionRd s cx coarse
    if coarse ∧ b / 2 ^ 10 ≠ 0 then trapRd { code := cFIELD }
    if poisonOpen s key then stallRd false
    if pocketPoisoned s key coarse k then trapRd { code := cPOISON }
    let who := if cx.uni then cx.fl.run else [t]
    pure (pocketReq key (fun d => .lookup k coarse b
      (if bitOf cx.opt 4 then
        { d with preds := (if cx.f.d.toNat < 96 then d.regs.map (·.1) else who).map (fun i => (i, bitsOf cx.opt 3 1)) }
      else d)) []))
    && teamMet (lane 1 [] [] 0) (.prd (r 16 8 12)) Cx.seta (fun _ => 1) true (fun s cx key t => do
    let k ← readLate (readA s cx t true)
    let b ← readLate (readB s cx t false)
    let k := k.getD 0
    let b := b.getD 0
    remotesRd cx [b]
    regionRd s cx true
    alignRd b ((saddr b).off : Int) 128
    let _ ← liftT (scratchLocs s cx (saddr b) (saddr b).off 4096)
    pure (pocketReq key (fun d => .read k (BitVec.ofNat 32 b) d) (relDeps s cx t 4)))
    && teamMet (lane 2 [] [] 0) (.prdTwin (r 16 8 12) (md 0 0 0)) Cx.seta (fun _ => 1) true (fun s cx key t => do
    let k ← readLate (readA s cx t true)
    let b ← readLate (readB s cx t false)
    let k := k.getD 0
    let b := b.getD 0
    remotesRd cx [b]
    regionRd s cx true
    alignRd b ((saddr b).off : Int) 128
    let _ ← liftT (scratchLocs s cx (saddr b) (saddr b).off 4096)
    pure (pocketReq key (fun d => .read k (BitVec.ofNat 32 b) d) (relDeps s cx t 4)))
    && teamMet (lane 1 [(32, 1)] [] 0) (.pdrn (r 16 24 12)) Cx.setb (fun _ => 1) true (fun s cx key t => do
    let ws ← readBlock cx.f.a.toNat 9
    let b ← readLate (readB s cx t false)
    let b := b.getD 0
    let fine := bitOf cx.opt 0
    let d0 := drainOf ws fine {} {}
    complGranted cx b
    regionRd s cx (!fine)
    if d0.max < 1 ∨ 16777215 < d0.max ∨ d0.hi < d0.lo then trapRd { code := cFIELD }
    match complOf b with
    | none => trapRd { code := cFIELD }
    | some w =>
      alignRd d0.keys d0.keys 8
      alignRd d0.vals d0.vals (if fine then 4 else 128)
      pure { pocketReq key (fun _ => .clear 0) (relDeps s cx t 4) with
        kind := fun d => .drain (drainOf ws fine w d) key [] })
    && teamMet (lane 2 [(32, 1)] [] 0) (.pdrnTwin (r 16 24 12) (md 0 0 0)) Cx.setb (fun _ => 1) true (fun s cx key t => do
    let ws ← readBlock cx.f.a.toNat 9
    let b ← readLate (readB s cx t false)
    let b := b.getD 0
    let fine := bitOf cx.opt 0
    let d0 := drainOf ws fine {} {}
    complGranted cx b
    regionRd s cx (!fine)
    if d0.max < 1 ∨ 16777215 < d0.max ∨ d0.hi < d0.lo then trapRd { code := cFIELD }
    match complOf b with
    | none => trapRd { code := cFIELD }
    | some w =>
      alignRd d0.keys d0.keys 8
      alignRd d0.vals d0.vals (if fine then 4 else 128)
      pure { pocketReq key (fun _ => .clear 0) (relDeps s cx t 4) with
        kind := fun d => .drain (drainOf ws fine w d) key [] })
    && teamMet (lane 1 [] [] 0) (.pclr (r 0 0 0)) Cx.setb (fun _ => 1) false (fun s cx key _ => do
    let sel := bitsOf cx.opt 1 0
    if sel = 1 then regionRd s cx true
    if sel = 2 then regionRd s cx false
    pure (pocketReq key (fun _ => .clear sel) []))
    && teamMet (lane 2 [] [] 0) (.pclrTwin (r 0 0 0) (md 0 0 0)) Cx.setb (fun _ => 1) false (fun s cx key _ => do
    let sel := bitsOf cx.opt 1 0
    if sel = 1 then regionRd s cx true
    if sel = 2 then regionRd s cx false
    pure (pocketReq key (fun _ => .clear sel) []))
    && teamMet (lane 1 [] [] 0) (.pdel (r 16 8 0)) Cx.setb (fun _ => 1) true (fun s cx key t => do
    let k ← readLate (readA s cx t true)
    let coarse := bitOf cx.opt 0
    regionRd s cx coarse
    pure (pocketReq key (fun d => .del (k.getD 0) coarse d) []))
    && teamMet (lane 2 [] [] 0) (.pdelTwin (r 16 8 0) (md 0 0 0)) Cx.setb (fun _ => 1) true (fun s cx key t => do
    let k ← readLate (readA s cx t true)
    let coarse := bitOf cx.opt 0
    regionRd s cx coarse
    pure (pocketReq key (fun d => .del (k.getD 0) coarse d) []))) = true := by decide +kernel

theorem test_met_GenerationLoopCompletes : (
    laneMet (lane 1 [(26, 1)] [] 0) (.smrg (r 16 24 0)) true (fun s cx t => do
    let ws ← readBlock cx.f.a.toNat 3
    let w (i : Nat) : Nat := (ws.getD i 0).toNat
    let nt := w 2
    remotesRd cx [w 0]
    if nt < 1 ∨ 256 < nt then trapRd { code := cFIELD }
    if w 1 % 8 ≠ 0 ∨ (saddr (w 0)).off % 4 ≠ 0 then trapRd { code := cALIGN, addr := w 0 }
    let ms ← scratchWords s cx t (w 0) ((List.range nt).map (fun k => w 1 * k))
    let ss ← scratchWords s cx t (w 0) ((List.range nt).map (fun k => w 1 * k + 4))
    let u ← nextWord
    pure (smrgOf ms ss u))
    && laneMet (lane 2 [(26, 1)] [] 0) (.smrgTwin (r 16 24 0) (md 0 0 0)) true (fun s cx t => do
    let ws ← readBlock cx.f.a.toNat 3
    let w (i : Nat) : Nat := (ws.getD i 0).toNat
    let nt := w 2
    remotesRd cx [w 0]
    if nt < 1 ∨ 256 < nt then trapRd { code := cFIELD }
    if w 1 % 8 ≠ 0 ∨ (saddr (w 0)).off % 4 ≠ 0 then trapRd { code := cALIGN, addr := w 0 }
    let ms ← scratchWords s cx t (w 0) ((List.range nt).map (fun k => w 1 * k))
    let ss ← scratchWords s cx t (w 0) ((List.range nt).map (fun k => w 1 * k + 4))
    let u ← nextWord
    pure (smrgOf ms ss u))
    && laneMet (lane 1 [(25, 1)] [] 0) (.spick (r 16 24 0)) true (fun s cx t => do
    let resid := bitOf cx.opt 0
    let ws ← readBlock cx.f.a.toNat (if resid then 7 else 5)
    let w (i : Nat) : Nat := (ws.getD i 0).toNat
    let vn := w 1
    remotesRd cx (if resid then [w 0, w 5] else [w 0])
    if vn < 1 ∨ 128 < vn then trapRd { code := cFIELD }
    if (saddr (w 0)).off % 4 ≠ 0 then trapRd { code := cALIGN, addr := w 0 }
    if resid ∧ (saddr (w 5)).off % 4 ≠ 0 then trapRd { code := cALIGN, addr := w 5 }
    let offs := (List.range vn).map (4 * ·)
    let ls ← scratchWords s cx t (w 0) offs
    if resid then
      let qs ← scratchWords s cx t (w 5) offs
      let u ← nextWord
      let wts := (ls.zip qs).map (fun x => spickWeight x.1 (w 3) (some (w 6, x.2)))
      pure (spickOf (w 2) (fmulN (u24 (u.toNat / 2 ^ 8)) ((prefixSums wts).getLastD 0)) ls wts)
    else pure (spickOf (w 2) (w 4) ls (ls.map (fun l => spickWeight l (w 3) none))))
    && laneMet (lane 2 [(25, 1)] [] 0) (.spickTwin (r 16 24 0) (md 0 0 0)) true (fun s cx t => do
    let resid := bitOf cx.opt 0
    let ws ← readBlock cx.f.a.toNat (if resid then 7 else 5)
    let w (i : Nat) : Nat := (ws.getD i 0).toNat
    let vn := w 1
    remotesRd cx (if resid then [w 0, w 5] else [w 0])
    if vn < 1 ∨ 128 < vn then trapRd { code := cFIELD }
    if (saddr (w 0)).off % 4 ≠ 0 then trapRd { code := cALIGN, addr := w 0 }
    if resid ∧ (saddr (w 5)).off % 4 ≠ 0 then trapRd { code := cALIGN, addr := w 5 }
    let offs := (List.range vn).map (4 * ·)
    let ls ← scratchWords s cx t (w 0) offs
    if resid then
      let qs ← scratchWords s cx t (w 5) offs
      let u ← nextWord
      let wts := (ls.zip qs).map (fun x => spickWeight x.1 (w 3) (some (w 6, x.2)))
      pure (spickOf (w 2) (fmulN (u24 (u.toNat / 2 ^ 8)) ((prefixSums wts).getLastD 0)) ls wts)
    else pure (spickOf (w 2) (w 4) ls (ls.map (fun l => spickWeight l (w 3) none))))
    && laneMet (lane 1 [] [] 0) (.rmask (r 16 8 12)) true (fun s cx t => do
    let a ← readA s cx t true
    let b ← readB s cx t false
    pure (keepMask (thread cx.g t) a b))
    && laneMet (lane 2 [] [] 0) (.rmaskTwin (r 16 8 12) (md 0 0 0)) true (fun s cx t => do
    let a ← readA s cx t true
    let b ← readB s cx t false
    pure (keepMask (thread cx.g t) a b))
    && asyncMet (lane 1 [] [] 0) (.hpush (r 16 8 12)) Cx.setb (fun _ => 1) true (heapRd false (fun s cx t => relDeps s cx t 4) (fun s cx t => do
    let a ← readA s cx t true
    let b ← readB s cx t true
    pure (fun d => .push a (BitVec.ofNat 32 b) (BitVec.ofNat 32 (b / 2 ^ 32)) d)))
    && asyncMet (lane 2 [] [] 0) (.hpushTwin (r 16 8 12) (md 0 0 0)) Cx.setb (fun _ => 1) true (heapRd false (fun s cx t => relDeps s cx t 4) (fun s cx t => do
    let a ← readA s cx t true
    let b ← readB s cx t true
    pure (fun d => .push a (BitVec.ofNat 32 b) (BitVec.ofNat 32 (b / 2 ^ 32)) d)))
    && asyncMet (lane 1 [] [] 0) (.htake (r 16 0 0)) Cx.setb (fun _ => 2) true (heapRd true (fun _ _ _ => []) (fun _ _ _ => pure (fun d => .take d)))
    && asyncMet (lane 2 [] [] 0) (.htakeTwin (r 16 0 0) (md 0 0 0)) Cx.setb (fun _ => 2) true (heapRd true (fun _ _ _ => []) (fun _ _ _ => pure (fun d => .take d)))
    && asyncMet (lane 1 [] [] 0) (.hbud (r 0 8 0)) Cx.setb (fun _ => 1) false (heapRd false (fun _ _ _ => []) (fun s cx t => do
    let a ← readA s cx t false
    pure (fun _ => .budget (BitVec.ofNat 32 a) (bitOf cx.opt 4))))
    && asyncMet (lane 2 [] [] 0) (.hbudTwin (r 0 8 0) (md 0 0 0)) Cx.setb (fun _ => 1) false (heapRd false (fun _ _ _ => []) (fun s cx t => do
    let a ← readA s cx t false
    pure (fun _ => .budget (BitVec.ofNat 32 a) (bitOf cx.opt 4))))
    && asyncMet (lane 1 [] [] 0) (.hdel (r 16 8 0)) Cx.setb (fun _ => 1) true (heapRd false (fun _ _ _ => []) (fun s cx t => do
    let a ← readA s cx t false
    pure (fun d => .remove (BitVec.ofNat 32 a) d)))
    && asyncMet (lane 2 [] [] 0) (.hdelTwin (r 16 8 0) (md 0 0 0)) Cx.setb (fun _ => 1) true (heapRd false (fun _ _ _ => []) (fun s cx t => do
    let a ← readA s cx t false
    pure (fun d => .remove (BitVec.ofNat 32 a) d)))
    && asyncMet (lane 1 [] [] 0) (.hpeek (r 16 0 0)) Cx.seta (fun _ => 2) true (heapRd false (fun _ _ _ => []) (fun _ _ _ => pure (fun d => .peek d)))
    && asyncMet (lane 2 [] [] 0) (.hpeekTwin (r 16 0 0) (md 0 0 0)) Cx.seta (fun _ => 2) true (heapRd false (fun _ _ _ => []) (fun _ _ _ => pure (fun d => .peek d)))
    && asyncMet (lane 1 [] [] 0) (.hlen (r 16 0 0)) Cx.seta (fun _ => 1) true (heapRd false (fun _ _ _ => []) (fun _ _ _ => pure (fun d => .size d)))
    && asyncMet (lane 2 [] [] 0) (.hlenTwin (r 16 0 0) (md 0 0 0)) Cx.seta (fun _ => 1) true (heapRd false (fun _ _ _ => []) (fun _ _ _ => pure (fun d => .size d)))) = true := by decide +kernel

theorem test_met_TrapReturnAndCountersComplete : (
    runOk (modThread (lane 1 [] [] 0) 1 0 (fun t => { t with handler := some { point := 0x100000, clause := 0x100000, slot := 0, ext := false, header := false, code := 0 } })) (.tret (r 0 0 0)) (fun cx => ∀ t ∈ cx.fl.run, tretTrap cx.k (cx.f.a.toNat == 1) (thread cx.g t) = none)
    && laneMet (lane 1 [] [] 0) (.trrd (r 16 0 0)) true (fun _ cx t => pure (trapWord (thread cx.g t).trap cx.f.a.toNat))
    && laneMet (lane 1 [] [] 0) (.cycrd (r 16 0 0)) true (fun s cx _ => pure s.timebase.toNat)
    && laneMet (lane 1 [] [] 0) (.perfrd (r 16 0 0)) true (fun s cx _ => pure (perfCounter cx.g cx.f.a.toNat).toNat)
    && laneMet (lane 1 [] [] 0) (.seqbind (r 0 8 0)) false (fun s cx t => do
    match (thread cx.g t).seq with
    | some k => if tripped s k then trapRd { code := cPRIV }
    | none => pure ()
    let a ← readA s cx t false
    if a = 0xFFFFFFFF then pure none
    else if cx.c.seqCount ≤ a then trapRd { code := cFIELD }
    else pure (some (cx.c.seqBase + a)))
    && laneMet (lane 1 [] [] 0) (.seqrd (r 16 0 0)) true (fun s cx t => pure (match (thread cx.g t).seq with
    | some k => (seqWord s k).toNat
    | none => 0))) = true := by decide +kernel

theorem test_met_PrivilegedInstructionsComplete : (
    asyncMet (lane 1 [] [] 0) (.privrd (r 16 8 0)) Cx.seta (fun _ => 1) true (fun s cx t => do
    let sel ← readA s cx t false
    let code := cx.f.d.toNat
    let n := if sel = 1 then 2 else 1
    if 5 ≤ sel ∨ !pairOk (sel == 1) code then trapRd { code := cILLEGAL }
    let w ← get
    let u : Use := ⟨code, n, false, true⟩
    match boundsOf cx.k.regs w.th.wb [u] with
    | some tr => trapRd tr
    | none => if pendingUse cx.g w.th u then stallRd true else pure ()
    pure { kind := fun d => .system (.read sel d), n := some n })
    && asyncMet (lane 1 [(8, 1)] [] 0) (.privwr (r 0 8 12)) Cx.setb (fun _ => 1) false (fun s cx t => do
    let sel ← readA s cx t false
    let v ← readB s cx t true
    if sel ≠ 1 then trapRd { code := cILLEGAL }
    pure { kind := fun _ => .system (.write sel (BitVec.ofNat 64 v)) })
    && asyncMet (lane 1 [] [] 0) (.tlbinv (r 0 8 12)) Cx.setb (fun _ => 1) false (fun s cx t => do
    let va ← readA s cx t true
    let w ← readB s cx t false
    if bitsOf w 30 12 ≠ 0 then trapRd { code := cFIELD }
    pure { kind := fun _ => .system (.tlbInv va (bitsOf w 11 0) (bitOf w 31) false) })
    && asyncMet (lane 1 [] [] 0) (.ctxsw (r 0 8 0)) Cx.setb (fun _ => 1) false (fun s cx t => do
    let id ← readA s cx t false
    pure { kind := fun _ => .system (if cx.f.b.toNat = 0 then .preempt id false else .resume id) })
    && asyncMet (lane 1 [] [] 0) (.cachefl (r 0 8 0)) Cx.setb (fun _ => 1) false (fun s cx t => do
    let va ← readA s cx t true
    let ls ← liftT (globalLocs s cx va 1 .read)
    touch va
    let pa := match ls with
      | .g pa :: _ => pa
      | _ => 0
    pure { kind := fun _ => .system (.flush pa), locs := (rangeFrom (pa / 1024 * 1024) 1024).map .g, stores := true })
    && asyncMet (lane 1 [] [] 0) (.poisclr (r 0 8 0)) Cx.setb (fun _ => 1) false (fun s cx t => do
    let va ← readA s cx t true
    alignRd va va 32
    let ls ← liftT (globalLocs s cx va 32 .write)
    touch va
    let pa := match ls with
      | .g pa :: _ => pa
      | _ => 0
    pure { kind := fun _ => .system (.clearPoison pa), locs := ls, stores := true })
    && asyncMet (lane 1 [] [] 0) (.halt (r 0 8 0)) Cx.setb (fun _ => 1) false (fun s cx t => do
    let w ← readA s cx t false
    let (core, _) ← liftT (semTarget cx.g.core w)
    pure { kind := fun _ => .system (.halt core) })
    && asyncMet (lane 1 [] [] 0) (.evpost (r 16 8 12)) Cx.setb (fun _ => 1) true (fun s cx t => do
    let vi ← readA s cx t false
    let code ← readB s cx t false
    if 64 ≤ vi then trapRd { code := cFIELD }
    pure { kind := fun d => .system (.event vi code d) })) = true := by decide +kernel

/-! ### Shroud instructions -/

/-- A shroud thread at its only word, of a context whose heap holds the addresses below 2^30. -/
def shroudAt : State := modCtx (placeShroud State.reset []) 1 (fun c => { c with heapLimit := 2 ^ 30 })

/-- The same with a value in a scalar register. -/
def shroudWith (k : Nat) (v : W64) : State :=
  setSThread shroudAt 0 0 { ctx := 1, launch := 1, record := 0, routine := 0, code := placedFrame, len := 1, n := [(k, v)] }

/-- The hypotheses of `ShroudCompletes`. -/
def shroudMet (s : State) (i : Instr) (ok : State → Sh → Bool) : Bool :=
  match routineOf i s with
  | none => false
  | some h => ok s h

theorem shroudMet_meets {s : State} {i : Instr} {ok : State → Sh → Bool} (h : shroudMet s i ok = true) :
    ∃ h, routineOf i s = some h ∧ ok s h = true := by
  unfold shroudMet at h
  split at h
  · cases h
  · exact ⟨_, ‹_›, h⟩

/-- A shroud access: the address aligned and translated, nothing in its way. -/
def shMet (i : Instr) (va align : Nat) (acc : Acc) (offs : List Nat) : Bool :=
  shroudMet shroudAt i (fun s h => va % align == 0 && (let x := resolveAt s (shroudUnit h.k) h.x.ctx va acc (.routine h.k h.t)
      x.2.isOk && (argsIn x.1 h.x.ctx va align).isNone)
    && match translate s (shroudUnit h.k) h.x.ctx va .read with
      | .ok pa => !shBlocked s h (offs.map (fun o => .g (pa + o)))
      | .error _ => depsDone s h.x.fence)

theorem test_met_ShroudScalarsComplete : (
    shroudMet shroudAt (.sjmp ⟨0, 0, 0⟩) (fun _ h => decide (0 ≤ shTarget h ⟨0, 0, 0⟩ ∧ shTarget h ⟨0, 0, 0⟩ < (h.x.len : Int)))
    && shroudMet shroudAt (.sbrz ⟨1, 0, 0⟩) (fun _ h => !spoisd h.x 1 && decide (sreg h.x 1 = 0 ∧ shTarget h ⟨1, 0, 0⟩ = 0))
    && shroudMet shroudAt (.sbrnz ⟨1, 0, 0⟩) (fun _ h => !spoisd h.x 1 && decide (sreg h.x 1 = 0))
    && shroudMet shroudAt (.sloop ⟨1, 0, 0⟩) (fun _ h => !spoisd h.x 1 && decide (sreg h.x 1 - 1 ≠ 0 ∧ shTarget h ⟨1, 0, 0⟩ = 0))
    && shroudMet shroudAt (.send ⟨0, 0, 0, 0⟩) (fun s h => depsDone s (shRelease s h 4) && !recordOwned s (shroudUnit h.k) h.x)
    && shroudMet shroudAt (.salu ⟨1, 1, 1, 0⟩) (fun _ _ => true)
    && shroudMet shroudAt (.salui ⟨1, 1, 0, 5⟩) (fun _ _ => true)
    && shroudMet shroudAt (.smovi ⟨1, 0, 5⟩) (fun _ _ => true)
    && shroudMet shroudAt (.sfence ⟨0, 0, 0, 0⟩) (fun s h => !scopeDenied s h ⟨0, 0, 0, 0⟩)
    && shroudMet shroudAt (.skey ⟨0, 1, 2, 0⟩) (fun _ h => !spoisd h.x 1 && !spoisd h.x 2)
    && shroudMet (shroudWith 1 0x8000) (.ssem ⟨0, 1, 2, 0⟩) (fun s h => let w := (sreg h.x 1).toNat
      !scopeDenied s h ⟨0, 1, 2, 0⟩ && decide (w / 2 ^ 16 = 0 ∧ bitsOf w 11 6 < 48) && bitOf w 15 && !spoisd h.x 1)) = true := by decide +kernel

theorem test_met_ShroudVectorsComplete : (
    [Instr.valu ⟨17, 17, 18, 0⟩, .vfma ⟨17, 17, 18, 0⟩, .vsqrt ⟨17, 17, 0, 0⟩, .vdiv ⟨17, 17, 18, 0⟩, .vbcast ⟨17, 1, 0, 0⟩,
      .vcmp ⟨17, 17, 18, 0⟩, .vsel ⟨17, 17, 18, 0⟩, .vred ⟨1, 17, 0, 0⟩, .vspk ⟨17, 18, 1, 0⟩].all
      (fun i => shroudMet shroudAt i (fun _ _ => true))) = true := by
  decide +kernel

theorem test_met_ShroudMemoryCompletes : (
    shMet (.sld ⟨1, 0, 64⟩) 64 8 .read (List.range 8) && shMet (.sst ⟨1, 0, 64⟩) 64 8 .write []
    && shMet (.vld ⟨17, 0, 0, 0⟩) 0 64 .read (List.range 64) && shMet (.vst ⟨17, 0, 0, 0⟩) 0 64 .write []) = true := by
  decide +kernel

/-! ### Events on operations in flight, the scheduler and the halyards -/

/-- The lane state with one operation in flight, or more, issued by its thread. -/
def opOf (k : OpKind) (id : Nat := 1) : Op :=
  { id := id, who := .thread { gid := 1, tid := 0 }, ctx := 1, launch := 1, core := 0, kind := k }
def acting (l : List Op) : State := { lane 1 [] [] 0 with ops := l }

/-- The hypothesis `Acts`, decided. -/
def actsMet (s : State) (o : Op) : Bool := decide (findOp s o.id = some o) && opReady s o && powered s
theorem actsMet_meets {s : State} {o : Op} (h : actsMet s o = true) : Acts s o.id o := by
  simp only [actsMet, Bool.and_eq_true, decide_eq_true_eq] at h
  exact ⟨h.1.1, h.1.2, h.2⟩

/-- The operation acts in its state, and what more a statement asks holds. -/
def opMet (k : OpKind) (more : State → Op → Bool := fun _ _ => true) : Bool :=
  actsMet (acting [opOf k]) (opOf k) && more (acting [opOf k]) (opOf k)

theorem test_met_CompletionsOfResults : (
    opMet (.load [.g 0x1000] 0 {}) (fun s _ => !anyOwned s [.g 0x1000])
    && opMet (.tileRead 0x1000 (teamKey 1 0) 0 {}) (fun s _ => !anyOwned s ((rangeFrom 0x1000 1024).map .g))
    && opMet (.pocket (.lookup 5 false 0 {}) (teamKey 1 0)) (fun s _ =>
      ((mfind s.teams (teamKey 1 0)).bind (fun t => regionOf t false)).isSome)
    && opMet (.pocket (.read 5 0 {}) (teamKey 1 0)) (fun s _ =>
      ((mfind s.teams (teamKey 1 0)).bind (fun t => regionOf t true)).isSome)
    && opMet (.semRead 0 1 3 {}) && opMet (.heap 3 (.size {})) && opMet (.heap 3 (.peek {})) && opMet (.system (.read 0 {}))
    && opMet (.long {} 7)) = true := by
  decide +kernel

/-- A run of no threads left on the core: its context is pre-empted there. -/
def asleep : State :=
  let s := modGroup (lane 1 [] [] 0) 1 (fun g => { g with flight := none })
  setCore s 0 { getCore s 0 with susp := [1] }

theorem test_met_CompletionsOfWrites : (
    opMet (.store [[(.g 0x1000, 5)]] [false]) (fun s o => !partBlocked s o [[(.g 0x1000, 5)]] [(.g 0x1000, 5)])
    && opMet (.semInc 0 1 3 1 false) && opMet (.post 0x1000 [.g 0x1000]) (fun s _ => !anyOwned s [.g 0x1000])
    && opMet (.release 0x1000) (fun s o => match resolvePa s homeUnit o.ctx 0x1000 .write with
      | (s', .ok pa) => !ownedLine s' pa
      | _ => false)
    && opMet (.go 0x1000 [[(.g 0x1000, 5)]]) (fun s o => !partBlocked s o [[(.g 0x1000, 5)]] [(.g 0x1000, 5)])
    && opMet (.tileWrite 0x1000 (teamKey 1 0) 0 false none [] [31] {}) (fun s _ => !anyOwned s ((rangeFrom 0x1000 1024).map .g))
    && opMet (.tileWrite 0x1000 (teamKey 1 0) 0 true none [] [] {}) (fun s _ => !anyOwned s ((rangeFrom 0x1000 1024).map .g))
    && opMet (.heap 3 (.budget 5 true)) && opMet (.heap 3 (.push 1 2 3 {})) && opMet (.heap 3 (.take {}))
    && opMet (.heap 3 (.remove 2 {})) && opMet (.pocket (.cfg 5) (teamKey 1 0)) && opMet (.pocket (.add 5 1 false) (teamKey 1 0))
    && opMet (.pocket (.del 5 true {}) (teamKey 1 0)) (fun s _ =>
      ((mfind s.teams (teamKey 1 0)).bind (fun t => regionOf t true)).isSome)
    && opMet (.pocket (.clear 2) (teamKey 1 0)) (fun s _ => (mfind s.teams (teamKey 1 0)).isSome)
    && opMet (.atomic [.g 0x1000, .g 0x1001, .g 0x1002, .g 0x1003] 0 false [⟨0, 1, 0, {}⟩]) (fun s _ => !anyOwned s [.g 0x1000]))
    = true := by decide +kernel

theorem test_met_CompletionsOfSystemWrites : (
    opMet (.system (.write 1 5)) && opMet (.system (.tlbInv 0 1 true false)) && opMet (.system (.tlbInv 0 1 true true))
    && opMet (.system (.preempt 1 false)) && opMet (.system (.flush 0x1000)) && opMet (.system (.halt 383))
    && opMet (.system (.clearPoison 0x1000)) (fun s _ => !anyOwned s [.g 0x1000]) && opMet (.system (.event 1 7 {}))
    && (let o := opOf (.system (.preempt 1 true))
        actsMet { asleep with ops := [o] } o && stopped { asleep with ops := [o] } 0 1)
    && (let o := opOf (.system (.resume 1))
        actsMet { asleep with ops := [o] } o && (getCore { asleep with ops := [o] } 0).susp.contains 1
          && resumeFits { asleep with ops := [o] } 0 1)) = true := by decide +kernel

/-- A copy of one byte within a line. -/
def copy1 : Copy :=
  { esize := 0, elems := [{ src := some { va := none, locs := some [.g 0x1000] }, dst := [{ va := none, locs := some [.g 0x1001] }] }], fill := 0, red := none,
    compl := {}, orient := 0, strict := false, forbid := 0, abort := false, charge := 2, dst := {} }
def call1 (op : Nat) : Call :=
  { opcode := op, fmt := 0, regs := [], chunks := 1, tap := 0, zskip := false, vstat := false, flag := 15 }
def drain1 : Drain := { fine := true, keys := 0x1000, vals := 0x2000, lo := 0, hi := 0, max := 0, compl := {}, dst := {} }

theorem test_met_EnginesAct : (
    opMet (.copy copy1 true []) (fun s o => decide ((engineLines s o).find? (fun l => !s.owned.contains (l, o.id)) = some 32)
      && !s.owned.any (fun x => x.1 == 32) && !earlierEngine s o (engineLines s o))
    && opMet (.copy copy1 false []) (fun s o => decide (0 < (getCluster s 0).balance) && !exhausted s o.ctx && !olderCopy s o)
    && actsMet { acting [opOf (.copy copy1 true [])] with owned := [(32, 1)] } (opOf (.copy copy1 true []))
    && (let s := { acting [opOf (.copy copy1 true [])] with owned := [(32, 1)] }
        holdsAll s 1 (engineLines s (opOf (.copy copy1 true []))))
    && (let o := { opOf (.store [[(.g 0x1000, 5)]] [false]) with who := .port 0 }
        actsMet (acting [o]) o && decide ((partLines [[(.g 0x1000, 5)]]).find? (fun l => !(acting [o]).owned.contains (l, 1)) = some 32)
          && !(acting [o]).owned.any (fun x => x.1 == 32) && !earlierEngine (acting [o]) o (partLines [[(.g 0x1000, 5)]]))
    && opMet (.call (call1 0x140) (teamKey 1 0) [] []) && opMet (.call (call1 0x143) (teamKey 1 0) [] [])
    && opMet (.call (call1 0x14C) (teamKey 1 0) [] [])
    && opMet (.drain drain1 (teamKey 1 0) []) (fun s o => let p := drainPlan s o drain1 (teamKey 1 0)
      p.2.2.isNone && holdsAll p.1 o.id (planLines p.2.1) && ((mfind p.1.teams (teamKey 1 0)).bind (fun t => regionOf t false)).isSome)
    && (let s := modCtx { acting [opOf (.pocket (.add 5 1 false) (teamKey 1 0))] with notices := [1] } 1
          (fun c => { c with arenaMax := 300 })
        decide (findOp { s with notices := [] } 1 = some (opOf (.pocket (.add 5 1 false) (teamKey 1 0))))
          && (match mfind s.ctxs 1 with
            | some c => decide (c.arenaBlocks < c.arenaMax)
            | none => false) && (allocFrame { s with notices := [] }).isSome)) = true := by decide +kernel

/-- The lane state whose thread waits at the REJN.CMT of cleat 0, with a sequence slot. -/
def committing : State :=
  let s := modThread (lane 1 [] [] 0) 1 0 (fun t => { t with st := .waiting (.commit 0 0x100000 0 7), seq := some 9 })
  modTeam s (teamKey 1 0) (fun t => { t with
    cleats := [(0, { mask := 1, sig := some (0x00B, 0, 0),
                     signers := [{ who := { gid := 1, tid := 0 }, aRegs := [], bRegs := [], tok := 0, flag := 15 }] })] })
/-- What the close of a commit round asks of its team. -/
def closeMet (s : State) : Bool := match mfind s.teams (teamKey 1 0) with
  | none => false
  | some t => decide ((cleatOf t 0).sig = some (0x00B, 0, 0)) && covered s t (cleatOf t 0) && !commitBusy s t 0 (cleatOf t 0)
    && (match getGroup s 1 with
      | none => false
      | some g => decide ((thread g 0).st = .waiting (.commit 0 0x100000 0 7)
        ∧ takeDeferred (fun d => d.flag == 15 || [0x140, 0x141, 0x142, 0x143, 0x14C].contains (d.opcode % 512)) (thread g 0).deferred = none
        ∧ (thread g 0).seq = some 9 ∧ (thread g 0).handler = none))

/-- A commit round closes for a thread whose slot shows no telltale, and for one whose slot does. -/
theorem test_met_commitClose : (
    closeMet committing && !tripped committing 9
    && (let s := { committing with
          seqWords := mset 0 committing.seqWords 9 (mget 0 committing.seqWords 9 ||| 0x80000000#32)
          kernels := committing.kernels.map (fun k => (k.1, { k.2 with trapvec := some 0 })) }
        closeMet s && tripped s 9 && (kernelOf s 1).any (fun k => k.trapvec.isSome))) = true := by decide +kernel

/-- The lane state between two clauses, its context without a heap: no run in flight, the thread ready at a header
whose CANVAS field is `n`. -/
def idle (n : Byte) : State :=
  wrByte (modGroup (modCtx (lane 1 [] [] 0) 1 (fun c => { c with heapLimit := 0 })) 1 (fun g => { g with flight := none }))
    (placedFrame + 3) n

theorem test_met_ClausesIssue : (
    (let s1 := refreshQueue (idle 0) 0
     !laneBusy (idle 0) 0 0 && decide (choose s1 0 0 = (some (1, false), [])) && (match getGroup s1 1 with
      | some g => (match planIssue s1 g with
        | some i => i.fault.isNone && issueNeed i == 0
        | none => false)
      | none => false))
    && (match (getCore (refreshQueue (idle 1) 0) 0).canvas with
      | w :: _ => w.granted.isNone && decide (w.need ≤ (getCore (refreshQueue (idle 1) 0) 0).share + (getCore (refreshQueue (idle 1) 0) 0).free)
      | [] => false)) = true := by decide +kernel

/-- A bin bound to the launch's text start, one thread held in it. -/
def binned : State := setCore (lane 1 [] [] 0) 0 { getCore (lane 1 [] [] 0) 0 with
  bins := [(3, { bound := some (1, placedText), timer := 10, since := 0, held := [7] })] }
/-- The launch of the lane state with its groups ended. -/
def done : State := { lane 1 [] [] 0 with groups := [] }

/-- The launch of the lane state with a team still to place: it is the head of its VI's queue. -/
def queued : State := { lane 1 [] [] 0 with launches := (lane 1 [] [] 0).launches.map (fun l => (l.1, { l.2 with teams := 2 })) }

/-- The candidate that placement takes, one that it passes over, and one that drains. -/
theorem test_met_Placement : (
    decide ((candidates queued).map (·.1) = [.head 1 1]) && (queueHead queued 1 0).isSome && powered queued
    && (match candidates queued with
      | x :: _ => (placeCand queued [] x).isSome && decide ((firstFit (dropPassed queued) [] (candidates (dropPassed queued)) []).2 = [])
        && (let full := { queued with launches := [] }
            (candidates full).isEmpty && (firstFit full [] (candidates full) []).1.isNone)
        && (let tight := { queued with kernels := queued.kernels.map (fun k => (k.1, { k.2 with regs := 2 ^ 30 })) }
            match candidates tight with
            | y :: _ => (placeCand tight [] y).isNone && !tight.draining.contains y.1
              && ({ tight with draining := [y.1] } : State).draining.contains y.1
            | [] => false)
      | [] => false)) = true := by decide +kernel

theorem test_met_SchedulerActs : (
    decide (0 < Config.cores) && (mfind (lane 1 [] [] 0).ctxs 1).isSome && decide ((lane 1 [] [] 0).boot = .maluk)
    && opMet (.spawn placedText 7 {}) (fun s o => (kernelOf s o.launch).isSome
      && (match mfind s.launches o.launch with
        | some l => !l.aborted
        | none => false)
      && (match binFor s o.core o.launch placedText with
        | some i => !(mget {} (getCore s o.core).bins i).ready
        | none => false))
    && (let b := mget {} (getCore binned 0).bins 3
        decide (b.bound = some (1, placedText) ∧ b.timer ≠ 0 ∧ b.held ≠ [] ∧ b.since + b.timer ≤ ({ binned with time := 10 } : State).time)
          && !b.ready && !(getCore binned 0).susp.contains (ctxOf binned 1))
    && (match mfind done.launches 1 with
        | some l => !l.ended && launchOver done 1 l && (kernelOf done 1).isSome
        | none => false)) = true := by decide +kernel

theorem test_met_HalyardActs : (
    decide ((lane 1 [] [] 0).time < (lane 1 [] [] 0).boundary)
    && (let s := { setCore (idle 1) 0 { getCore (idle 1) 0 with canvas := [{ gid := 1, need := 1, pc := 0, headAt := some 0 }] } with
          time := 96 }
        (match (getCore s 0).canvas.head? with
          | some w => decide (w.headAt = some 0) && w.granted.isNone
          | none => false) && decide (0 + 96 ≤ s.time) && !(getDie s (dieOf 0)).claims.any (fun c => c.core == 0))
    && decide (({ idle 1 with time := 1000 } : State).boundary ≤ 1000)
    && (let s := { setCluster (idle 1) 2 { getCluster (idle 1) 2 with moving := true, moveAt := 5 } with time := 5 }
        (getCluster s 2).moving && decide ((getCluster s 2).moveAt ≤ s.time ∧ (getCluster s 2).pending = none))
    && (let s := { setCluster (idle 1) 2 { getCluster (idle 1) 2 with moving := true, moveAt := 5, pending := some 500 } with time := 5 }
        (getCluster s 2).moving && decide ((getCluster s 2).moveAt ≤ s.time ∧ (getCluster s 2).pending = some 500))) = true := by
  decide +kernel

/-! ### Maluk, its requests, the ports and boot -/

/-- The lane state of VI 1, its launch open, its heap window at 0x200000 for peers too, and port 0 up. -/
def host : State :=
  let s := modCtx (lane 1 [] [] 0) 1 (fun c => { c with windows := c.windows ++
    [{ va := 0x200000, size := 0x100000, kind := .heap, read := true, write := true, exec := false, fabric := true, pkey := 9 }] })
  setPort s 0 { up := true, pkeys := [9], paceEn := true, flight := [{ id := 1, flow := none, path := [] }] }

/-- A request of a kind: its 32-byte header, and its body (R384); with class `auth` a trailer of key 7, counter 1. -/
def msg (kind vi auth : Nat) (body : List Byte) : Msg :=
  let tr := if auth = 0 then [] else leBytes 4 7 ++ leBytes 4 0 ++ leBytes 8 1 ++ List.replicate 96 0
  { port := 0, src := 0, pkey := 0
    raw := leBytes 2 0x4B4D ++ [1, 0] ++ leBytes 2 kind ++ leBytes 1 vi ++ leBytes 1 auth ++ leBytes 4 5 ++ leBytes 4 0
      ++ leBytes 4 (body.length + tr.length) ++ leBytes 12 0 ++ body ++ tr }

/-- What a request's message and the state must be, but for the opaque parts of the authority; and what `ok` asks. -/
def reqMet (s : State) (m : Msg) (kind : Nat) (ok : State → MReq → Bool) : Bool :=
  reaches s m && reqHeaderOk (reqOf m) && (reqOf m).kind == kind && !lateSeq s (reqOf m) && reqLenOk (reqOf m)
    && trailerZero (reqOf m) && (reqOf m).auth == reqClass (reqOf m) && ok (taken s (reqOf m)) (reqOf m)
/-- A session's request on its open VI. -/
def sessionMet (s : State) (m : Msg) (kind : Nat) (ok : State → MReq → Bool) : Bool :=
  reqMet s m kind ok && (reqOf m).auth == 0 && (reqOf m).kind != 1 && sessionOk s (reqOf m)

theorem sessionMet_meets {s : State} {m : Msg} {kind : Nat} {ok : State → MReq → Bool} (h : sessionMet s m kind ok = true) :
    Accepted s m kind ∧ ok (taken s (reqOf m)) (reqOf m) = true := by
  simp only [sessionMet, reqMet, Bool.and_eq_true, beq_iff_eq, bne_iff_ne, Bool.not_eq_true'] at h
  obtain ⟨⟨⟨⟨⟨⟨⟨⟨⟨⟨h1, h2⟩, h3⟩, hl⟩, h4⟩, h5⟩, h6⟩, h7⟩, h8⟩, h9⟩, h10⟩ := h
  exact ⟨⟨h1, h2, h3, hl, h4, by simp [authOk, h6.symm.trans h8, h8, h9, h10], h5⟩, h7⟩

/-- An OPEN_VI from a source that Maluk's policy admits. -/
theorem openMet_meets {s : State} {m : Msg} {ok : State → MReq → Bool} (h : reqMet s m 1 ok = true) (h0 : (reqOf m).auth = 0)
    (ha : Config.admits (reqOf m).src = true) : Accepted s m 1 ∧ ok (taken s (reqOf m)) (reqOf m) = true := by
  simp only [reqMet, Bool.and_eq_true, beq_iff_eq, Bool.not_eq_true'] at h
  obtain ⟨⟨⟨⟨⟨⟨⟨h1, h2⟩, h3⟩, hl⟩, h4⟩, h5⟩, h6⟩, h7⟩ := h
  exact ⟨⟨h1, h2, h3, hl, h4, by simp [authOk, ← h6, h0, h3, ha], h5⟩, h7⟩

/-- A request whose credential the key list and the signature check accept. -/
theorem credMet_meets {s : State} {m : Msg} {kind : Nat} {ok : State → MReq → Bool} (h : reqMet s m kind ok = true)
    (h0 : (reqOf m).auth ≠ 0) (hc : credOk s (reqOf m) = true) :
    Accepted s m kind ∧ ok (taken s (reqOf m)) (reqOf m) = true := by
  simp only [reqMet, Bool.and_eq_true, beq_iff_eq, Bool.not_eq_true'] at h
  obtain ⟨⟨⟨⟨⟨⟨⟨h1, h2⟩, h3⟩, hl⟩, h4⟩, h5⟩, h6⟩, h7⟩ := h
  exact ⟨⟨h1, h2, h3, hl, h4, by simp [authOk, ← h6, h0, hc], h5⟩, h7⟩

theorem test_met_MalukServesOfItsOwn : (
    (pickWalk { host with walks := [{ id := 1, die := 0, unit := 0, ctx := 1, va := placedText, at_ := 0, exec := .run 1 0 0 }] } 0).isSome
    && (match mfind host.ctxs 1 with
      | some c => (walk host c placedText).isOk
      | none => false)
    && (let q : Queued := { ctx := 1, launch := 1, record := 0x200000 }
        decide ((getShroud (setShroud host 0 { held := [q] }) 0).held = [q]
            ∧ (getShroud (setShroud host 0 { held := [q] }) 0).queue.length < Config.shroudQueue ∧ 0 < Config.shrouds)
          && (mfind (getShroud (setShroud host 0 { queue := [q] }) 0).threads 2).isNone
          && decide (firstOf (fun q => !exhausted host q.ctx) (getShroud (setShroud host 0 { queue := [q] }) 0).queue = some q)
          && (match resolveAt host (shroudUnit 0) q.ctx (q.record + 0x10) .write (.routine 0 2) with
            | (s', .ok pa) => !ownedLine s' pa
            | _ => false)
          && (startRoutine { host with kernels := host.kernels.map (fun k => (k.1, { k.2 with routines := [⟨0, 1⟩] })) } q 7).isSome)
    && opMet (.service 0 [] {}) && opMet (.service 1 [] {}) (fun s o => (mfind s.launches o.launch).isSome)
    && opMet (.service 2 [] {}) && opMet (.service 3 [] {})
    && (let s := setHeap host 4 { owner := some (1, 0) }
        (getHeap s 4).owner.isSome && (getHeap s 4).releasing.isNone)) = true := by decide +kernel

/-- A body of 32-bit words. -/
def words (l : List Nat) : List Byte := l.flatMap (leBytes 4)

/-- An object with one kernel of one clause, EXIT (R147, R148, R150). -/
def object1 : List Byte :=
  words [0x4A424F45, 0x00010001, 32, 48, 4, 204, 0, 0] ++ words [128, 52, 0, 0] ++ [0x6B, 0, 0, 0]
    ++ words [1, 1, 0, 0, 0, 0, 0, 0, 0] ++ List.replicate 40 0
    ++ words [0x4B485045, 192, 12, 0, 0xFFFFFFFF, 0x01100010, 1, 0, 0, 0, 0, 0, 0, 0, 0, 0]
    ++ words [1, 0, 0x00C00000]
def withObject : State := wrBytes host 0x200000 object1

theorem test_met_SessionAndContextRequests : (
    sessionMet host (msg 0x02 1 0 []) 0x02 (fun _ _ => true)
    && sessionMet host (msg 0x03 1 0 (List.replicate 24 0)) 0x03 (fun _ q => endpointOk (q.f 16 8))
    && sessionMet host (msg 0x05 1 0 (words [1, 0])) 0x05 (fun s q => q.f 4 4 == 0 && (namedCtx s q (q.f 0 4)).isOk)
    && sessionMet host (msg 0x06 1 0 (words [1, 3, 0, 0, 4096, 0, 0, 0])) 0x06 (fun s q =>
      decide (q.f 4 4 < 8 ∧ q.f 8 8 = 0 ∧ q.f 16 8 % 4096 = 0 ∧ q.f 16 8 ≠ 0 ∧ q.f 24 4 = 0 ∧ q.f 28 4 = 0)
        && (match namedCtx s q (q.f 0 4) with
          | .ok c => (findRange c (q.f 16 8)).isSome
          | .error _ => false))
    && sessionMet (modCtx host 1 (fun c => { c with windows := [⟨0x400000, 4096, .user, true, true, false, false, 0⟩] }))
      (msg 0x07 1 0 (words [1, 0, 0x400000, 0])) 0x07 (fun s q => q.f 4 4 == 0 && (match namedCtx s q (q.f 0 4) with
          | .ok c => (c.windows.find? (fun w => w.kind == .user && w.va == q.f 8 8)).isSome
          | .error _ => false))
    && sessionMet withObject (msg 0x08 1 0 (words [1, 0, 0x200000, 0, 204, 0])) 0x08 (fun s q =>
      decide (q.f 4 4 = 0 ∧ 32 ≤ q.f 16 8 ∧ q.f 16 8 ≤ 2 ^ 32) && (match namedCtx s q (q.f 0 4) with
          | .ok c => inWindow c (q.f 8 8) (q.f 16 8) (·.read)
          | .error _ => false)
        && (match readRange (q.f 0 4) (pagesOf (q.f 16 8) + 1) (q.f 8 8) (q.f 16 8) s with
          | none => false
          | some (bs, s1) => (match parseObject bs (((mfind s1.vis q.vi).map (·.grant)).getD 1) with
            | .error _ => false
            | .ok ps => (loadAll (q.f 0 4) ps s1).isSome)))
    && sessionMet { host with launches := [] } (msg 0x09 1 0 (words [1, 1])) 0x09 (fun s q => (namedCtx s q (q.f 0 4)).isOk
      && (getKernel s (q.f 0 4) (q.f 4 4)).isSome
      && !s.launches.any (fun l => l.2.ctx == q.f 0 4 && l.2.kid == q.f 4 4 && !l.2.ended))
    && sessionMet host (msg 0x0A 1 0 (words [1, 1, 1, 0, 1, 0, 0x200000, 0, 0, 0, 0, 0, 0, 0, 0, 0, 0, 0])) 0x0A (fun s q =>
      launchFieldsOk q && (match namedCtx s q (q.f 0 4), getKernel s (q.f 0 4) (q.f 4 4) with
        | .ok c, some k => inWindow c (q.f 24 8) (max k.args 1) (fun _ => true) && everFits k (bitOf (q.f 16 4) 0)
          && (freeTag s (q.f 0 4)).isSome && privSize q k == 0
        | _, _ => false))
    && sessionMet host (msg 0x0B 1 0 (words [1, 0])) 0x0B (fun s q => (namedLaunch s q (q.f 0 8)).isOk)
    && sessionMet host (msg 0x0C 1 0 (words [1, 0])) 0x0C (fun s q => (namedLaunch s q (q.f 0 8)).isOk)
    && sessionMet host (msg 0x0D 1 0 (words [1, 0, 0x200000, 0])) 0x0D (fun s q => decide (q.f 4 4 = 0 ∧ q.f 8 8 % 128 = 0)
      && (match namedCtx s q (q.f 0 4) with
        | .ok c => inWindow c (q.f 8 8) 128 (·.write)
        | .error _ => false)
      && (match resolvePa s homeUnit (q.f 0 4) (q.f 8 8) .write with
        | (s1, .ok pa) => !ownedLoc s1 (.g pa)
        | _ => false))) = true := by decide +kernel

/-- OPEN_VI, under a policy that admits the source. -/
theorem test_met_openVi (h : Config.admits 0 = true) : Accepted host (msg 0x01 0xFF 0 (List.replicate 24 0)) 0x01
    ∧ (endpointOk ((reqOf (msg 0x01 0xFF 0 (List.replicate 24 0))).f 16 8)
      && (firstOf (fun v => (mfind (taken host (reqOf (msg 0x01 0xFF 0 (List.replicate 24 0)))).vis v).isNone) (List.range 64) == some 0)) = true :=
  openMet_meets (ok := fun s q => endpointOk (q.f 16 8) && (firstOf (fun v => (mfind s.vis v).isNone) (List.range 64) == some 0))
    (by decide +kernel) (by decide +kernel) h

/-- CREATE_CTX without arena allowance, sequence slots or heap. -/
theorem test_met_createCtx : sessionMet host (msg 0x04 1 0 (List.replicate 32 0)) 0x04 (fun s q =>
    decide (q.f 12 4 = 0 ∧ q.f 24 8 = 0 ∧ q.f 4 4 = 0 ∧ s.seqNext + q.f 8 4 = 0) && (freeCtx s == some 0)
      && (match allocRun s 256 1 with
        | some (_, s1) => (allocRun s1 (q.f 24 8 / 4096) 512).isSome && (allocRun s1 (3 + Config.imageFrames) 1).isSome
        | none => false)) = true := by decide +kernel

theorem test_met_HeapQuotaSubscription : (
    sessionMet host (msg 0x0F 1 0 (words [5, 0, 1, 0])) 0x0F (fun s q =>
      decide (q.vi ≠ 0xFF ∧ q.f 8 4 < 2 ^ 11 ∧ q.f 12 4 = 0 ∧ endpointOf s q.vi (q.f 0 8) ≠ 0) && endpointOk (q.f 0 8))
    && reqMet host (msg 0x0F 0xFF 1 (words [5, 0, 0x400, 0])) 0x0F (fun s q =>
      decide (q.vi = 0xFF ∧ q.f 8 4 < 2 ^ 11 ∧ q.f 12 4 = 0 ∧ endpointOf s q.vi (q.f 0 8) ≠ 0 ∧ Nat.land (q.f 8 4) 0x460 = q.f 8 4)
        && endpointOk (q.f 0 8))
    && sessionMet host (msg 0x10 1 0 (words [1, 2])) 0x10 (fun s q => decide (q.f 4 4 < 16)
      && (match namedCtx s q (q.f 0 4) with
        | .ok c => (mfind c.heapMap (q.f 4 4)).isNone
        | .error _ => false)
      && (firstOf (fun h => (getHeap s h).owner.isNone) (List.range 16)).isSome)
    && sessionMet host (msg 0x11 1 0 (words [1, 0])) 0x11 (fun s q => decide (q.f 4 4 < 16)
      && (match namedCtx s q (q.f 0 4) with
        | .ok c => (mfind c.heapMap (q.f 4 4)).isSome
        | .error _ => false))
    && sessionMet host (msg 0x12 1 0 (words [1, 0, 5, 0])) 0x12 (fun s q => decide (q.f 4 4 = 0 ∧ q.f 8 8 ≠ 0 ∧ q.f 8 8 < 2 ^ 63)
      && (match namedCtx s q (q.f 0 4) with
        | .ok c => decide (quotaOf s c + q.f 8 8 < 2 ^ 63)
        | .error _ => false))
    && sessionMet host (msg 0x13 1 0 (words [1, 0])) 0x13 (fun s q => (match namedCtx s q (q.f 0 4) with
        | .ok c => decide (q.f 4 4 ≤ c.arenaMax)
        | .error _ => false))
    && (mfind host.vis 1).isSome) = true := by decide +kernel

theorem test_met_Queries : (
    sessionMet host (msg 0x0E 1 0 (words [1, 0, 1, 0, 0, 0, 0, 0, 0, 0])) 0x0E (fun s q => q.f 0 4 == 1 && argZero q 12
      && (namedCtx s q (q.f 8 4)).isOk)
    && sessionMet host (msg 0x0E 1 0 (words [2, 0, 1, 0, 0, 0, 0, 0, 0, 0])) 0x0E (fun s q => q.f 0 4 == 2 && argZero q 16
      && (namedLaunch s q (q.f 8 8)).isOk)
    && sessionMet host (msg 0x0E 1 0 (words [3, 0, 0, 0, 0, 0, 0, 0, 0, 0])) 0x0E (fun s q => q.f 0 4 == 3 && argZero q 8
      && (mfind s.vis q.vi).isSome)
    && sessionMet host (msg 0x0E 1 0 (words [0xA7, 0, 7, 0, 0, 0, 0, 0, 0, 0])) 0x0E (fun s q => q.f 0 4 == 0xA7 && q.f 4 4 == 0
      && decide (s.secure.aliasLeaf < Config.aliasLeaves))
    && sessionMet host (msg 0x0E 1 0 (words [9, 0, 7, 0, 0, 0, 0, 0, 0, 0])) 0x0E (fun _ q => !knownSubject (q.f 0 4) && q.f 4 4 == 0)
    && (reaches host { msg 0x02 1 0 [] with raw := [0] } && !reqHeaderOk (reqOf { msg 0x02 1 0 [] with raw := [0] }))) = true := by
  decide +kernel

/-- The requests of the operator and of fabric management, but for their credential (`credMet_meets`). -/
theorem test_met_OperatorAndFabric : (
    reqMet host (msg 0x20 0xFF 1 (words [1, 3] ++ words [0x00200000, 0] ++ List.replicate 120 0)) 0x20 (fun s q =>
      decide (q.f 4 4 < 8) && tapOk (q.body.drop 8) && (mfind s.ctxs (q.f 0 4)).isSome)
    && reqMet host (msg 0x21 0xFF 1 (words [1, 3, 200, 0])) 0x21 (fun s q => decide (q.f 8 4 < 256 ∧ q.f 12 4 = 0)
      && (match mfind s.ctxs (q.f 0 4) with
        | some c => decide (q.f 4 4 < c.seqCount)
        | none => false))
    && reqMet host (msg 0x22 0xFF 1 (words [1, 3])) 0x22 (fun s q => (match mfind s.ctxs (q.f 0 4) with
        | some c => decide (q.f 4 4 < c.seqCount)
        | none => false))
    && reqMet host (msg 0x30 0xFF 2 (words [3, 4, 1, 0, 0x00020001, 0x00040003])) 0x30 (fun _ q =>
      decide (q.f 0 4 < 8 ∧ 1 ≤ q.f 4 4 ∧ q.f 4 4 ≤ 256 ∧ q.f 8 4 < 2 ∧ q.f 12 4 = 0 ∧ q.f (16 + 2 * q.f 4 4) 8 = 0))
    && reqMet host (msg 0x31 0xFF 2 (words [3, 2, 7, 9])) 0x31 (fun _ q =>
      decide (q.f 0 4 < 8 ∧ 1 ≤ q.f 4 4 ∧ q.f 4 4 ≤ 64 ∧ q.f (8 + 4 * q.f 4 4) 8 = 0))) = true := by decide +kernel

/-- An access of a peer to the window at 0x200000. -/
def rma1 (len : Nat) (data : List Byte) (sem : Option (Nat × Nat × Nat)) : Rma :=
  { port := 0, ctx := 1, va := 0x200000, len := len, pkey := 9, data := data, sem := sem, aop := 0x10C, ty := 0, opnd := 1, cmp := 0,
    mode := .rod, flow := 3 }

theorem test_met_Ports : (
    portTakes host (rma1 2 [1, 2] none) [.rod, .rud, .rudi] && portTakes host (rma1 4 [] none) [.rod, .rud]
    && !flowBusy host (rma1 4 [] none) && (rmaWindow host (rma1 2 [1, 2] none) .write).isSome
    && (rmaWindow host (rma1 2 [1, 2] (some (383, 63, 1))) .write).isSome && decide (383 < Config.cores)
    && (rmaWindow host (rma1 4 [] none) .read).isSome && decide (rmaWidth 0x10C 0 = some 4 ∧ (rma1 4 [] none).va % 4 = 0)
    && (let x := rmaParts .write 1 2 0x200000 (List.replicate 4 0) host
        !anyOwned x.1 (partLocs x.2))
    && (let x := rmaParts .read 1 2 0x200000 (List.replicate 4 0) host
        !anyOwned x.1 (partLocs x.2))
    && (getPort host 0).up && (getPort host 0).paceEn && decide (host.boot = .maluk) && !(getPort host 1).up
    && (liveMsgs { host with ops := [opOf (.long {} 0)] } (getPort host 0)).any (fun m => m.id == 1)) = true := by decide +kernel

/-- The bytes of an image of no payload (R398). -/
def image1 : List Byte := words [0x474D4C49, 0, 0, 0] ++ List.replicate 0x74C 0

/-- An image whose form is legal is accepted when both keys' hashes are the fused ones, both signatures verify, and its
version is not too old. -/
theorem test_met_image (h1 : sha384 (ecdsaKeyBytes Config.bootPoint) = Config.fusedEcdsa)
    (h2 : sha384 (lmsKeyBytes bootLms) = Config.fusedLms)
    (h3 : ecdsaOk Config.bootPoint (signedPart image1) ((image1.drop 0x10).take 96) = true)
    (h4 : lmsOk bootLms (signedPart image1) ((image1.drop 0x70).take 1772) = true) (h5 : Config.fusedSvn = 0) :
    imageCause image1 = none := by
  have h : imageFormOk image1 = true := by decide +kernel
  simp [imageCause, h, h1, h2, h3, h4, h5]

theorem test_met_Boot : (
    decide (State.reset.boot = .off ∧ ({ State.reset with boot := .rom } : State).boot = .rom
      ∧ ({ State.reset with boot := .first } : State).boot = .first ∧ host.boot = .maluk ∧ 0 < Config.dies)) = true := by
  decide +kernel

/-! ### Words written out from the spec's encodings (spec/opcode_table.json, R131, R134, R135, R294) -/

/-- The words decode to the instruction. -/
noncomputable def decodesTo (ws : List W32) (i : Instr) : Bool := match decodeWords ws with
  | .ok j => j == i
  | .error _ => false
noncomputable def shroudDecodesTo (w : W32) (i : Instr) : Bool := match decodeShroud w with
  | .ok j => j == i
  | .error _ => false

theorem test_words_1 : (decodesTo [0x00000000] (.nop (r 0 0 0))
    && decodesTo [0x00200005] (.bra (fb 5))
    && decodesTo [0x00400A00] (.jmpi (r 0 20 0))
    && decodesTo [0x00600005] (.call (fb 5))
    && decodesTo [0x00840A00] (.calli (r 16 20 0))
    && decodesTo [0x00A00A00] (.ret (r 0 20 0))
    && decodesTo [0x00C00000] (.exit (r 0 0 0))
    && decodesTo [0x00E00000] (.yield (r 0 0 0))
    && decodesTo [0x01040A0C] (.spawn (r 16 20 12))
    && decodesTo [0x01220005] (.bincfg (fi 8 5))
    && decodesTo [0x01400000] (.rejn (r 0 0 0))
    && decodesTo [0x01600000] (.rejnCmt (r 0 0 0))
    && decodesTo [0x01800000] (.bar (r 0 0 0))
    && decodesTo [0x01A00000] (.bara (r 0 0 0))
    && decodesTo [0x01C00000] (.barw (r 0 0 0))
    && decodesTo [0x01E03000] (.clset (r 0 96 0))
    && decodesTo [0x02000005] (.waitf (fi 0 5))
    && decodesTo [0x02200005] (.trap (fi 0 5))
    && decodesTo [0x02440005] (.svc (fi 16 5))
    && decodesTo [0x04600005] (.brcT 3 (fb 5))
    && decodesTo [0x05600005] (.brcF 3 (fb 5))
    && decodesTo [0x07200005] (.bre 2 1 (fb 5))
    && decodesTo [0x0804040C] (.iadd (r 16 8 12))
    && decodesTo [0x0824040C] (.isub (r 16 8 12))
    && decodesTo [0x0844040C] (.imul (r 16 8 12))
    && decodesTo [0x0864040C] (.imulh (r 16 8 12))
    && decodesTo [0x0884040C] (.imad (r 16 8 12))
    && decodesTo [0x08A4040C] (.imadw (r 16 8 12))
    && decodesTo [0x08C4040C] (.imin (r 16 8 12))
    && decodesTo [0x08E4040C] (.imax (r 16 8 12))
    && decodesTo [0x09040400] (.iabs (r 16 8 0))
    && decodesTo [0x09240400] (.ineg (r 16 8 0))
    && decodesTo [0x0944040C] (.idiv (r 16 8 12))
    && decodesTo [0x0964040C] (.irem (r 16 8 12))
    && decodesTo [0x0984040C] (.isad (r 16 8 12))
    && decodesTo [0x09A0040C] (.isetp (r 0 8 12))
    && decodesTo [0x09C4040C] (.isel (r 16 8 12))
    && decodesTo [0x09E4040C] (.lea (r 16 8 12))
    && decodesTo [0x0A04040C] (.shl (r 16 8 12))
    && decodesTo [0x0A24040C] (.shr (r 16 8 12))) = true := by decide +kernel

theorem test_words_2 : (decodesTo [0x0A44040C] (.sar (r 16 8 12))
    && decodesTo [0x0A64040C] (.rotl (r 16 8 12))
    && decodesTo [0x0A84040C] (.iand (r 16 8 12))
    && decodesTo [0x0AA4040C] (.ior (r 16 8 12))
    && decodesTo [0x0AC4040C] (.ixor (r 16 8 12))
    && decodesTo [0x0AE40400] (.inot (r 16 8 0))
    && decodesTo [0x0B04040C] (.bfe (r 16 8 12))
    && decodesTo [0x0B24040C] (.bfi (r 16 8 12))
    && decodesTo [0x0B440400] (.popc (r 16 8 0))
    && decodesTo [0x0B640400] (.clz (r 16 8 0))
    && decodesTo [0x0B840400] (.brev (r 16 8 0))
    && decodesTo [0x0BA4040C] (.prmt (r 16 8 12))
    && decodesTo [0x0C040400] (.mov (r 16 8 0))
    && decodesTo [0x0C240005] (.movi (fi 16 5))
    && decodesTo [0x0C440005] (.movh (fi 16 5))
    && decodesTo [0x0C64080C] (.movrel (r 16 16 12))
    && decodesTo [0x0C84040C] (.movrw (r 16 8 12))
    && decodesTo [0x0CA00005] (.winb (fi 0 5))
    && decodesTo [0x0CC40005] (.srd (fi 16 5))
    && decodesTo [0x0CE00000] (.pand (r 0 0 0))
    && decodesTo [0x0D000000] (.por (r 0 0 0))
    && decodesTo [0x0D200000] (.pxor (r 0 0 0))
    && decodesTo [0x0D400000] (.pnot (r 0 0 0))
    && decodesTo [0x0D640000] (.ptov (r 16 0 0))
    && decodesTo [0x0D800400] (.vtop (r 0 8 0))
    && decodesTo [0x1004040C] (.fadd (r 16 8 12))
    && decodesTo [0x1024040C] (.fsub (r 16 8 12))
    && decodesTo [0x1044040C] (.fmul (r 16 8 12))
    && decodesTo [0x1064040C] (.ffma (r 16 8 12))
    && decodesTo [0x1084040C] (.fmin (r 16 8 12))
    && decodesTo [0x10A4040C] (.fmax (r 16 8 12))
    && decodesTo [0x10C40400] (.fabs (r 16 8 0))
    && decodesTo [0x10E40400] (.fneg (r 16 8 0))
    && decodesTo [0x1100040C] (.fsetp (r 0 8 12))
    && decodesTo [0x11240400] (.fclass (r 16 8 0))
    && decodesTo [0x11440400] (.frcp (r 16 8 0))
    && decodesTo [0x11640400] (.frsq (r 16 8 0))
    && decodesTo [0x11840400] (.fsqrt (r 16 8 0))
    && decodesTo [0x11A4040C] (.fdiv (r 16 8 12))
    && decodesTo [0x11C40400] (.fexp2 (r 16 8 0))) = true := by decide +kernel

theorem test_words_3 : (decodesTo [0x11E40400] (.flog2 (r 16 8 0))
    && decodesTo [0x12040400] (.ftanh (r 16 8 0))
    && decodesTo [0x12240400] (.fsin (r 16 8 0))
    && decodesTo [0x12440400] (.fcos (r 16 8 0))
    && decodesTo [0x12640400] (.fsigm (r 16 8 0))
    && decodesTo [0x12840400] (.ferf (r 16 8 0))
    && decodesTo [0x12A40400] (.frnd (r 16 8 0))
    && decodesTo [0x12C4040C] (.fscale (r 16 8 12))
    && decodesTo [0x1404040C] (.hadd2 (r 16 8 12))
    && decodesTo [0x1424040C] (.hsub2 (r 16 8 12))
    && decodesTo [0x1444040C] (.hmul2 (r 16 8 12))
    && decodesTo [0x1464040C] (.hfma2 (r 16 8 12))
    && decodesTo [0x1484040C] (.hmin2 (r 16 8 12))
    && decodesTo [0x14A4040C] (.hmax2 (r 16 8 12))
    && decodesTo [0x14C40400] (.habs2 (r 16 8 0))
    && decodesTo [0x14E0040C] (.hsetp2 (r 0 8 12))
    && decodesTo [0x1504040C] (.hdot2 (r 16 8 12))
    && decodesTo [0x15240400] (.htanh2 (r 16 8 0))
    && decodesTo [0x15440400] (.hrcp2 (r 16 8 0))
    && decodesTo [0x18040400] (.cvtf (r 16 8 0))
    && decodesTo [0x18240400] (.cvti (r 16 8 0))
    && decodesTo [0x18440400] (.cvtif (r 16 8 0))
    && decodesTo [0x18640400] (.cvtii (r 16 8 0))
    && decodesTo [0x1884040C] (.pack8 (r 16 8 12))
    && decodesTo [0x18A40400] (.unpk8 (r 16 8 0))
    && decodesTo [0x18C4040C] (.pack4 (r 16 8 12))
    && decodesTo [0x18E4040C] (.unpk4 (r 16 8 12))
    && decodesTo [0x1904040C] (.packds (r 16 8 12))
    && decodesTo [0x1924040C] (.unpkds (r 16 8 12))
    && decodesTo [0x19440400] (.bscale (r 16 8 0))
    && decodesTo [0x1964040C] (.cvt2 (r 16 8 12))
    && decodesTo [0x1A04040C] (.shfl (r 16 8 12))
    && decodesTo [0x1A24040C] (.shflx (r 16 8 12))
    && decodesTo [0x1A400000] (.vote (r 0 0 0))
    && decodesTo [0x1A640000] (.ballot (r 16 0 0))
    && decodesTo [0x1A840400] (.ffs (r 16 8 0))
    && decodesTo [0x1AA40400] (.gred (r 16 8 0))
    && decodesTo [0x1AC40400] (.gscan (r 16 8 0))
    && decodesTo [0x1AE4040C] (.bcast (r 16 8 12))
    && decodesTo [0x1B040400] (.gmatch (r 16 8 0))) = true := by decide +kernel

theorem test_words_4 : (decodesTo [0x1B240000] (.gcount (r 16 0 0))
    && decodesTo [0x1C000C00] (.wbind (r 0 24 0))
    && decodesTo [0x1C200000] (.wunb (r 0 0 0))
    && decodesTo [0x1C440000] (.wpos (r 16 0 0))
    && decodesTo [0x1C600C00] (.dload (r 0 24 0))
    && decodesTo [0x1C800400] (.dkey (r 0 8 0))
    && decodesTo [0x1CA0040C] (.dpos (r 0 8 12))
    && decodesTo [0x1CC40000] (.dget (r 16 0 0))
    && decodesTo [0x1CE00800] (.dset (r 0 16 0))
    && decodesTo [0x1D000400] (.dskip (r 0 8 0))
    && decodesTo [0x1D200400] (.dfork (r 0 8 0))
    && decodesTo [0x1D440000] (.rand (r 16 0 0))
    && decodesTo [0x1D640000] (.dinfo (r 16 0 0))
    && decodesTo [0x1D840000] (.randn (r 16 0 0))
    && decodesTo [0x1DA40000] (.dpeek (r 16 0 0))
    && decodesTo [0x20040A0C] (.ld (r 16 20 12))
    && decodesTo [0x20220A0C] (.st (r 8 20 12))
    && decodesTo [0x2044040C] (.lds (r 16 8 12))
    && decodesTo [0x2062040C] (.sts (r 8 8 12))
    && decodesTo [0x20840400] (.ldo (r 16 8 0))
    && decodesTo [0x20A40C00] (.ldv (r 16 24 0))
    && decodesTo [0x20C40C00] (.stt (r 16 24 0))
    && decodesTo [0x20E0040C] (.pref (r 0 8 12))
    && decodesTo [0x2104040C] (.lda (r 16 8 12))
    && decodesTo [0x2122040C] (.str (r 8 8 12))
    && decodesTo [0x21400000] (.fence (r 0 0 0))
    && decodesTo [0x2164040C] (.atomAdd (r 16 8 12))
    && decodesTo [0x2184040C] (.atomFadd (r 16 8 12))
    && decodesTo [0x21A4040C] (.atomMin (r 16 8 12))
    && decodesTo [0x21C4040C] (.atomMax (r 16 8 12))
    && decodesTo [0x21E4040C] (.atomAnd (r 16 8 12))
    && decodesTo [0x2204040C] (.atomOr (r 16 8 12))
    && decodesTo [0x2224040C] (.atomXor (r 16 8 12))
    && decodesTo [0x2244040C] (.atomXchg (r 16 8 12))
    && decodesTo [0x22640410] (.atomCas (r 16 8 16))
    && decodesTo [0x2284040C] (.atomInc (r 16 8 12))
    && decodesTo [0x22A4040C] (.atomDec (r 16 8 12))
    && decodesTo [0x22C4040C] (.atomHadd2 (r 16 8 12))
    && decodesTo [0x22E4040C] (.atomsAdd (r 16 8 12))
    && decodesTo [0x23040410] (.atomsCas (r 16 8 16))) = true := by decide +kernel

theorem test_words_5 : (decodesTo [0x2324040C] (.atomsXchg (r 16 8 12))
    && decodesTo [0x24040C0C] (.copy (r 16 24 12))
    && decodesTo [0x24240C00] (.copys (r 16 24 0))
    && decodesTo [0x24440C0C] (.copym (r 16 24 12))
    && decodesTo [0x24640C0C] (.copyr (r 16 24 12))
    && decodesTo [0x2480040C] (.seminc (r 0 8 12))
    && decodesTo [0x24A0040C] (.semwait (r 0 8 12))
    && decodesTo [0x24C0040C] (.semset (r 0 8 12))
    && decodesTo [0x24E40400] (.semrd (r 16 8 0))
    && decodesTo [0x25000400] (.tgpost (r 0 8 0))
    && decodesTo [0x25200400] (.tgwait (r 0 8 0))
    && decodesTo [0x25400C00] (.tginit (r 0 24 0))
    && decodesTo [0x25640C00] (.tglink (r 16 24 0))
    && decodesTo [0x25840000] (.cpst (r 16 0 0))
    && decodesTo [0x28020C00] (.mma (r 8 24 0))
    && decodesTo [0x28220C00] (.mmaq (r 8 24 0))
    && decodesTo [0x28420C00] (.mmas (r 8 24 0))
    && decodesTo [0x28620C00] (.join (r 8 24 0))
    && decodesTo [0x28800400] (.pcfg (r 0 8 0))
    && decodesTo [0x28A0040C] (.pins (r 0 8 12))
    && decodesTo [0x28C4040C] (.plup (r 16 8 12))
    && decodesTo [0x28E0040C] (.pcnt (r 0 8 12))
    && decodesTo [0x2904040C] (.prd (r 16 8 12))
    && decodesTo [0x29240C0C] (.pdrn (r 16 24 12))
    && decodesTo [0x29400000] (.pclr (r 0 0 0))
    && decodesTo [0x29640400] (.pdel (r 16 8 0))
    && decodesTo [0x29820C00] (.norm (r 8 24 0))
    && decodesTo [0x29A40C00] (.smrg (r 16 24 0))
    && decodesTo [0x29C40C00] (.spick (r 16 24 0))
    && decodesTo [0x29E4040C] (.hpush (r 16 8 12))
    && decodesTo [0x2A040000] (.htake (r 16 0 0))
    && decodesTo [0x2A200400] (.hbud (r 0 8 0))
    && decodesTo [0x2A440400] (.hdel (r 16 8 0))
    && decodesTo [0x2A640000] (.hpeek (r 16 0 0))
    && decodesTo [0x2A840000] (.hlen (r 16 0 0))
    && decodesTo [0x2AA4040C] (.rmask (r 16 8 12))
    && decodesTo [0x2C000000] (.tret (r 0 0 0))
    && decodesTo [0x2C240000] (.trrd (r 16 0 0))
    && decodesTo [0x2C440000] (.cycrd (r 16 0 0))
    && decodesTo [0x2C640000] (.perfrd (r 16 0 0))) = true := by decide +kernel

theorem test_words_6 : (decodesTo [0x2C800400] (.seqbind (r 0 8 0))
    && decodesTo [0x2CA40000] (.seqrd (r 16 0 0))
    && decodesTo [0x2CC40400] (.privrd (r 16 8 0))
    && decodesTo [0x2CE0040C] (.privwr (r 0 8 12))
    && decodesTo [0x2D00040C] (.tlbinv (r 0 8 12))
    && decodesTo [0x2D200400] (.ctxsw (r 0 8 0))
    && decodesTo [0x2D400400] (.cachefl (r 0 8 0))
    && decodesTo [0x2D600400] (.poisclr (r 0 8 0))
    && decodesTo [0x2D800400] (.halt (r 0 8 0))
    && decodesTo [0x2DA4040C] (.evpost (r 16 8 12))
    && decodesTo [0x4804040C, 0x00000000] (.iaddTwin (r 16 8 12) (md 0 0 0))
    && decodesTo [0x4824040C, 0x00000000] (.isubTwin (r 16 8 12) (md 0 0 0))
    && decodesTo [0x4844040C, 0x00000000] (.imulTwin (r 16 8 12) (md 0 0 0))
    && decodesTo [0x4864040C, 0x00000000] (.imulhTwin (r 16 8 12) (md 0 0 0))
    && decodesTo [0x4884040C, 0x00000000] (.imadTwin (r 16 8 12) (md 0 0 0))
    && decodesTo [0x48A4040C, 0x00000000] (.imadwTwin (r 16 8 12) (md 0 0 0))
    && decodesTo [0x48C4040C, 0x00000000] (.iminTwin (r 16 8 12) (md 0 0 0))
    && decodesTo [0x48E4040C, 0x00000000] (.imaxTwin (r 16 8 12) (md 0 0 0))
    && decodesTo [0x49040400, 0x00000000] (.iabsTwin (r 16 8 0) (md 0 0 0))
    && decodesTo [0x49240400, 0x00000000] (.inegTwin (r 16 8 0) (md 0 0 0))
    && decodesTo [0x4944040C, 0x00000000] (.idivTwin (r 16 8 12) (md 0 0 0))
    && decodesTo [0x4964040C, 0x00000000] (.iremTwin (r 16 8 12) (md 0 0 0))
    && decodesTo [0x4984040C, 0x00000000] (.isadTwin (r 16 8 12) (md 0 0 0))
    && decodesTo [0x49A0040C, 0x00000000] (.isetpTwin (r 0 8 12) (md 0 0 0))
    && decodesTo [0x49C4040C, 0x00000000] (.iselTwin (r 16 8 12) (md 0 0 0))
    && decodesTo [0x49E4040C, 0x00000000] (.leaTwin (r 16 8 12) (md 0 0 0))
    && decodesTo [0x4A04040C, 0x00000000] (.shlTwin (r 16 8 12) (md 0 0 0))
    && decodesTo [0x4A24040C, 0x00000000] (.shrTwin (r 16 8 12) (md 0 0 0))
    && decodesTo [0x4A44040C, 0x00000000] (.sarTwin (r 16 8 12) (md 0 0 0))
    && decodesTo [0x4A64040C, 0x00000000] (.rotlTwin (r 16 8 12) (md 0 0 0))
    && decodesTo [0x4A84040C, 0x00000000] (.iandTwin (r 16 8 12) (md 0 0 0))
    && decodesTo [0x4AA4040C, 0x00000000] (.iorTwin (r 16 8 12) (md 0 0 0))
    && decodesTo [0x4AC4040C, 0x00000000] (.ixorTwin (r 16 8 12) (md 0 0 0))
    && decodesTo [0x4AE40400, 0x00000000] (.inotTwin (r 16 8 0) (md 0 0 0))
    && decodesTo [0x4B04040C, 0x00000000] (.bfeTwin (r 16 8 12) (md 0 0 0))
    && decodesTo [0x4B24040C, 0x00000000] (.bfiTwin (r 16 8 12) (md 0 0 0))
    && decodesTo [0x4B440400, 0x00000000] (.popcTwin (r 16 8 0) (md 0 0 0))
    && decodesTo [0x4B640400, 0x00000000] (.clzTwin (r 16 8 0) (md 0 0 0))
    && decodesTo [0x4B840400, 0x00000000] (.brevTwin (r 16 8 0) (md 0 0 0))
    && decodesTo [0x4BA4040C, 0x00000000] (.prmtTwin (r 16 8 12) (md 0 0 0))) = true := by decide +kernel

theorem test_words_7 : (decodesTo [0x4C040400, 0x00000000] (.movTwin (r 16 8 0) (md 0 0 0))
    && decodesTo [0x4C240000, 0x38000001] (.moviLiteral (fi 16 0) 0x38000001)
    && decodesTo [0x5004040C, 0x00000000] (.faddTwin (r 16 8 12) (md 0 0 0))
    && decodesTo [0x5024040C, 0x00000000] (.fsubTwin (r 16 8 12) (md 0 0 0))
    && decodesTo [0x5044040C, 0x00000000] (.fmulTwin (r 16 8 12) (md 0 0 0))
    && decodesTo [0x5064040C, 0x00000000] (.ffmaTwin (r 16 8 12) (md 0 0 0))
    && decodesTo [0x5084040C, 0x00000000] (.fminTwin (r 16 8 12) (md 0 0 0))
    && decodesTo [0x50A4040C, 0x00000000] (.fmaxTwin (r 16 8 12) (md 0 0 0))
    && decodesTo [0x50C40400, 0x00000000] (.fabsTwin (r 16 8 0) (md 0 0 0))
    && decodesTo [0x50E40400, 0x00000000] (.fnegTwin (r 16 8 0) (md 0 0 0))
    && decodesTo [0x5100040C, 0x00000000] (.fsetpTwin (r 0 8 12) (md 0 0 0))
    && decodesTo [0x51240400, 0x00000000] (.fclassTwin (r 16 8 0) (md 0 0 0))
    && decodesTo [0x51440400, 0x00000000] (.frcpTwin (r 16 8 0) (md 0 0 0))
    && decodesTo [0x51640400, 0x00000000] (.frsqTwin (r 16 8 0) (md 0 0 0))
    && decodesTo [0x51840400, 0x00000000] (.fsqrtTwin (r 16 8 0) (md 0 0 0))
    && decodesTo [0x51A4040C, 0x00000000] (.fdivTwin (r 16 8 12) (md 0 0 0))
    && decodesTo [0x51C40400, 0x00000000] (.fexp2Twin (r 16 8 0) (md 0 0 0))
    && decodesTo [0x51E40400, 0x00000000] (.flog2Twin (r 16 8 0) (md 0 0 0))
    && decodesTo [0x52040400, 0x00000000] (.ftanhTwin (r 16 8 0) (md 0 0 0))
    && decodesTo [0x52240400, 0x00000000] (.fsinTwin (r 16 8 0) (md 0 0 0))
    && decodesTo [0x52440400, 0x00000000] (.fcosTwin (r 16 8 0) (md 0 0 0))
    && decodesTo [0x52640400, 0x00000000] (.fsigmTwin (r 16 8 0) (md 0 0 0))
    && decodesTo [0x52840400, 0x00000000] (.ferfTwin (r 16 8 0) (md 0 0 0))
    && decodesTo [0x52A40400, 0x00000000] (.frndTwin (r 16 8 0) (md 0 0 0))
    && decodesTo [0x52C4040C, 0x00000000] (.fscaleTwin (r 16 8 12) (md 0 0 0))
    && decodesTo [0x5404040C, 0x00000000] (.hadd2Twin (r 16 8 12) (md 0 0 0))
    && decodesTo [0x5424040C, 0x00000000] (.hsub2Twin (r 16 8 12) (md 0 0 0))
    && decodesTo [0x5444040C, 0x00000000] (.hmul2Twin (r 16 8 12) (md 0 0 0))
    && decodesTo [0x5464040C, 0x00000000] (.hfma2Twin (r 16 8 12) (md 0 0 0))
    && decodesTo [0x5484040C, 0x00000000] (.hmin2Twin (r 16 8 12) (md 0 0 0))
    && decodesTo [0x54A4040C, 0x00000000] (.hmax2Twin (r 16 8 12) (md 0 0 0))
    && decodesTo [0x54C40400, 0x00000000] (.habs2Twin (r 16 8 0) (md 0 0 0))
    && decodesTo [0x54E0040C, 0x00000000] (.hsetp2Twin (r 0 8 12) (md 0 0 0))
    && decodesTo [0x5504040C, 0x00000000] (.hdot2Twin (r 16 8 12) (md 0 0 0))
    && decodesTo [0x55240400, 0x00000000] (.htanh2Twin (r 16 8 0) (md 0 0 0))
    && decodesTo [0x55440400, 0x00000000] (.hrcp2Twin (r 16 8 0) (md 0 0 0))
    && decodesTo [0x58040400, 0x00000000] (.cvtfTwin (r 16 8 0) (md 0 0 0))
    && decodesTo [0x58240400, 0x00000000] (.cvtiTwin (r 16 8 0) (md 0 0 0))
    && decodesTo [0x58440400, 0x00000000] (.cvtifTwin (r 16 8 0) (md 0 0 0))
    && decodesTo [0x58640400, 0x00000000] (.cvtiiTwin (r 16 8 0) (md 0 0 0))) = true := by decide +kernel

theorem test_words_8 : (decodesTo [0x5884040C, 0x00000000] (.pack8Twin (r 16 8 12) (md 0 0 0))
    && decodesTo [0x58A40400, 0x00000000] (.unpk8Twin (r 16 8 0) (md 0 0 0))
    && decodesTo [0x58C4040C, 0x00000000] (.pack4Twin (r 16 8 12) (md 0 0 0))
    && decodesTo [0x58E4040C, 0x00000000] (.unpk4Twin (r 16 8 12) (md 0 0 0))
    && decodesTo [0x5904040C, 0x00000000] (.packdsTwin (r 16 8 12) (md 0 0 0))
    && decodesTo [0x5924040C, 0x00000000] (.unpkdsTwin (r 16 8 12) (md 0 0 0))
    && decodesTo [0x59440400, 0x00000000] (.bscaleTwin (r 16 8 0) (md 0 0 0))
    && decodesTo [0x5964040C, 0x00000000] (.cvt2Twin (r 16 8 12) (md 0 0 0))
    && decodesTo [0x5A04040C, 0x00000000] (.shflTwin (r 16 8 12) (md 0 0 0))
    && decodesTo [0x5A24040C, 0x00000000] (.shflxTwin (r 16 8 12) (md 0 0 0))
    && decodesTo [0x5A400000, 0x00000000] (.voteTwin (r 0 0 0) (md 0 0 0))
    && decodesTo [0x5A640000, 0x00000000] (.ballotTwin (r 16 0 0) (md 0 0 0))
    && decodesTo [0x5A840400, 0x00000000] (.ffsTwin (r 16 8 0) (md 0 0 0))
    && decodesTo [0x5AA40400, 0x00000000] (.gredTwin (r 16 8 0) (md 0 0 0))
    && decodesTo [0x5AC40400, 0x00000000] (.gscanTwin (r 16 8 0) (md 0 0 0))
    && decodesTo [0x5AE4040C, 0x00000000] (.bcastTwin (r 16 8 12) (md 0 0 0))
    && decodesTo [0x5B040400, 0x00000000] (.gmatchTwin (r 16 8 0) (md 0 0 0))
    && decodesTo [0x5B240000, 0x00000000] (.gcountTwin (r 16 0 0) (md 0 0 0))
    && decodesTo [0x5C000C00, 0x00000000] (.wbindTwin (r 0 24 0) (md 0 0 0))
    && decodesTo [0x5C200000, 0x00000000] (.wunbTwin (r 0 0 0) (md 0 0 0))
    && decodesTo [0x5C440000, 0x00000000] (.wposTwin (r 16 0 0) (md 0 0 0))
    && decodesTo [0x5C600C00, 0x00000000] (.dloadTwin (r 0 24 0) (md 0 0 0))
    && decodesTo [0x5C800400, 0x00000000] (.dkeyTwin (r 0 8 0) (md 0 0 0))
    && decodesTo [0x5CA0040C, 0x00000000] (.dposTwin (r 0 8 12) (md 0 0 0))
    && decodesTo [0x5CC40000, 0x00000000] (.dgetTwin (r 16 0 0) (md 0 0 0))
    && decodesTo [0x5CE00800, 0x00000000] (.dsetTwin (r 0 16 0) (md 0 0 0))
    && decodesTo [0x5D000400, 0x00000000] (.dskipTwin (r 0 8 0) (md 0 0 0))
    && decodesTo [0x5D200400, 0x00000000] (.dforkTwin (r 0 8 0) (md 0 0 0))
    && decodesTo [0x5D440000, 0x00000000] (.randTwin (r 16 0 0) (md 0 0 0))
    && decodesTo [0x5D640000, 0x00000000] (.dinfoTwin (r 16 0 0) (md 0 0 0))
    && decodesTo [0x5D840000, 0x00000000] (.randnTwin (r 16 0 0) (md 0 0 0))
    && decodesTo [0x5DA40000, 0x00000000] (.dpeekTwin (r 16 0 0) (md 0 0 0))
    && decodesTo [0x60040A0C, 0x00000000] (.ldTwin (r 16 20 12) (md 0 0 0))
    && decodesTo [0x60220A0C, 0x00000000] (.stTwin (r 8 20 12) (md 0 0 0))
    && decodesTo [0x6044040C, 0x00000000] (.ldsTwin (r 16 8 12) (md 0 0 0))
    && decodesTo [0x6062040C, 0x00000000] (.stsTwin (r 8 8 12) (md 0 0 0))
    && decodesTo [0x60840400, 0x00000000] (.ldoTwin (r 16 8 0) (md 0 0 0))
    && decodesTo [0x60A40C00, 0x00000000] (.ldvTwin (r 16 24 0) (md 0 0 0))
    && decodesTo [0x60C40C00, 0x00000000] (.sttTwin (r 16 24 0) (md 0 0 0))
    && decodesTo [0x60E0040C, 0x00000000] (.prefTwin (r 0 8 12) (md 0 0 0))) = true := by decide +kernel

theorem test_words_9 : (decodesTo [0x6104040C, 0x08000000] (.ldaTwin (r 16 8 12) (md 0 0 4))
    && decodesTo [0x6122040C, 0x08000000] (.strTwin (r 8 8 12) (md 0 0 4))
    && decodesTo [0x61400000, 0x08000000] (.fenceTwin (r 0 0 0) (md 0 0 4))
    && decodesTo [0x6164040C, 0x00000000] (.atomAddTwin (r 16 8 12) (md 0 0 0))
    && decodesTo [0x6184040C, 0x00000000] (.atomFaddTwin (r 16 8 12) (md 0 0 0))
    && decodesTo [0x61A4040C, 0x00000000] (.atomMinTwin (r 16 8 12) (md 0 0 0))
    && decodesTo [0x61C4040C, 0x00000000] (.atomMaxTwin (r 16 8 12) (md 0 0 0))
    && decodesTo [0x61E4040C, 0x00000000] (.atomAndTwin (r 16 8 12) (md 0 0 0))
    && decodesTo [0x6204040C, 0x00000000] (.atomOrTwin (r 16 8 12) (md 0 0 0))
    && decodesTo [0x6224040C, 0x00000000] (.atomXorTwin (r 16 8 12) (md 0 0 0))
    && decodesTo [0x6244040C, 0x00000000] (.atomXchgTwin (r 16 8 12) (md 0 0 0))
    && decodesTo [0x62640410, 0x00000000] (.atomCasTwin (r 16 8 16) (md 0 0 0))
    && decodesTo [0x6284040C, 0x00000000] (.atomIncTwin (r 16 8 12) (md 0 0 0))
    && decodesTo [0x62A4040C, 0x00000000] (.atomDecTwin (r 16 8 12) (md 0 0 0))
    && decodesTo [0x62C4040C, 0x00000000] (.atomHadd2Twin (r 16 8 12) (md 0 0 0))
    && decodesTo [0x62E4040C, 0x00000000] (.atomsAddTwin (r 16 8 12) (md 0 0 0))
    && decodesTo [0x63040410, 0x00000000] (.atomsCasTwin (r 16 8 16) (md 0 0 0))
    && decodesTo [0x6324040C, 0x00000000] (.atomsXchgTwin (r 16 8 12) (md 0 0 0))
    && decodesTo [0x64040C0C, 0x00000000] (.copyTwin (r 16 24 12) (md 0 0 0))
    && decodesTo [0x64240C00, 0x00000000] (.copysTwin (r 16 24 0) (md 0 0 0))
    && decodesTo [0x64440C0C, 0x00000000] (.copymTwin (r 16 24 12) (md 0 0 0))
    && decodesTo [0x64640C0C, 0x00000000] (.copyrTwin (r 16 24 12) (md 0 0 0))
    && decodesTo [0x6480040C, 0x08000000] (.semincTwin (r 0 8 12) (md 0 0 4))
    && decodesTo [0x64A0040C, 0x08000000] (.semwaitTwin (r 0 8 12) (md 0 0 4))
    && decodesTo [0x64C0040C, 0x08000000] (.semsetTwin (r 0 8 12) (md 0 0 4))
    && decodesTo [0x64E40400, 0x08000000] (.semrdTwin (r 16 8 0) (md 0 0 4))
    && decodesTo [0x65000400, 0x00000000] (.tgpostTwin (r 0 8 0) (md 0 0 0))
    && decodesTo [0x65200400, 0x00000000] (.tgwaitTwin (r 0 8 0) (md 0 0 0))
    && decodesTo [0x65400C00, 0x00000000] (.tginitTwin (r 0 24 0) (md 0 0 0))
    && decodesTo [0x65640C00, 0x00000000] (.tglinkTwin (r 16 24 0) (md 0 0 0))
    && decodesTo [0x65840000, 0x00000000] (.cpstTwin (r 16 0 0) (md 0 0 0))
    && decodesTo [0x68020C00, 0x00000000] (.mmaTwin (r 8 24 0) (md 0 0 0))
    && decodesTo [0x68220C00, 0x00000000] (.mmaqTwin (r 8 24 0) (md 0 0 0))
    && decodesTo [0x68420C00, 0x00000000] (.mmasTwin (r 8 24 0) (md 0 0 0))
    && decodesTo [0x68620C00, 0x00000000] (.joinTwin (r 8 24 0) (md 0 0 0))
    && decodesTo [0x68800400, 0x00000000] (.pcfgTwin (r 0 8 0) (md 0 0 0))
    && decodesTo [0x68A0040C, 0x00000000] (.pinsTwin (r 0 8 12) (md 0 0 0))
    && decodesTo [0x68C4040C, 0x00000000] (.plupTwin (r 16 8 12) (md 0 0 0))
    && decodesTo [0x68E0040C, 0x00000000] (.pcntTwin (r 0 8 12) (md 0 0 0))
    && decodesTo [0x6904040C, 0x00000000] (.prdTwin (r 16 8 12) (md 0 0 0))) = true := by decide +kernel

theorem test_words_10 : (decodesTo [0x69240C0C, 0x00000000] (.pdrnTwin (r 16 24 12) (md 0 0 0))
    && decodesTo [0x69400000, 0x00000000] (.pclrTwin (r 0 0 0) (md 0 0 0))
    && decodesTo [0x69640400, 0x00000000] (.pdelTwin (r 16 8 0) (md 0 0 0))
    && decodesTo [0x69820C00, 0x00000000] (.normTwin (r 8 24 0) (md 0 0 0))
    && decodesTo [0x69A40C00, 0x00000000] (.smrgTwin (r 16 24 0) (md 0 0 0))
    && decodesTo [0x69C40C00, 0x00000000] (.spickTwin (r 16 24 0) (md 0 0 0))
    && decodesTo [0x69E4040C, 0x00000000] (.hpushTwin (r 16 8 12) (md 0 0 0))
    && decodesTo [0x6A040000, 0x00000000] (.htakeTwin (r 16 0 0) (md 0 0 0))
    && decodesTo [0x6A200400, 0x00000000] (.hbudTwin (r 0 8 0) (md 0 0 0))
    && decodesTo [0x6A440400, 0x00000000] (.hdelTwin (r 16 8 0) (md 0 0 0))
    && decodesTo [0x6A640000, 0x00000000] (.hpeekTwin (r 16 0 0) (md 0 0 0))
    && decodesTo [0x6A840000, 0x00000000] (.hlenTwin (r 16 0 0) (md 0 0 0))
    && decodesTo [0x6AA4040C, 0x00000000] (.rmaskTwin (r 16 8 12) (md 0 0 0))) = true := by decide +kernel

theorem test_words_shroud : (shroudDecodesTo 0x00000000 (.send ⟨0, 0, 0, 0⟩)
    && shroudDecodesTo 0x08000005 (.sjmp ⟨0, 0, 5⟩)
    && shroudDecodesTo 0x10C00005 (.sbrz ⟨3, 0, 5⟩)
    && shroudDecodesTo 0x18C00005 (.sbrnz ⟨3, 0, 5⟩)
    && shroudDecodesTo 0x20C00005 (.sloop ⟨3, 0, 5⟩)
    && shroudDecodesTo 0x28443009 (.salu ⟨1, 2, 3, 9⟩)
    && shroudDecodesTo 0x30452005 (.salui ⟨1, 2, 9, 5⟩)
    && shroudDecodesTo 0x38400005 (.smovi ⟨1, 0, 5⟩)
    && shroudDecodesTo 0x40440040 (.sld ⟨1, 2, 64⟩)
    && shroudDecodesTo 0x48440040 (.sst ⟨1, 2, 64⟩)
    && shroudDecodesTo 0x50000002 (.sfence ⟨0, 0, 0, 2⟩)
    && shroudDecodesTo 0x58043004 (.ssem ⟨0, 2, 3, 4⟩)
    && shroudDecodesTo 0x60043000 (.skey ⟨0, 2, 3, 0⟩)
    && shroudDecodesTo 0x6C440005 (.vld ⟨17, 2, 0, 5⟩)
    && shroudDecodesTo 0x74440001 (.vst ⟨17, 2, 0, 1⟩)
    && shroudDecodesTo 0x7C653002 (.valu ⟨17, 18, 19, 2⟩)
    && shroudDecodesTo 0x84653000 (.vfma ⟨17, 18, 19, 0⟩)
    && shroudDecodesTo 0x8C640000 (.vsqrt ⟨17, 18, 0, 0⟩)
    && shroudDecodesTo 0x94653000 (.vdiv ⟨17, 18, 19, 0⟩)
    && shroudDecodesTo 0x9C440000 (.vbcast ⟨17, 2, 0, 0⟩)
    && shroudDecodesTo 0xA0640002 (.vred ⟨1, 18, 0, 2⟩)
    && shroudDecodesTo 0xAC653003 (.vcmp ⟨17, 18, 19, 3⟩)
    && shroudDecodesTo 0xB4653000 (.vsel ⟨17, 18, 19, 0⟩)
    && shroudDecodesTo 0xBC643000 (.vspk ⟨17, 18, 3, 0⟩)) = true := by decide +kernel

/-! ### Frames and rules of the whole machine -/

/-- An instruction answers a next state. -/
def runs (s : State) (i : Instr) : Bool := match exec i s with
  | .next _ => true
  | _ => false
/-- The hypotheses of the frames of core instructions: a run in flight executes it and answers a next state. -/
def frameMet (s : State) (i : Instr) : Bool :=
  (coreForm i).isSome && decide (s.cur = .group 1) && ((getGroup s 1).bind (·.flight)).isSome && runs s i
def plain : State := lane 1 [] [] 0
def plain2 : State := lane 2 [] [] 0

theorem test_met_ArithmeticFrame : (frameMet plain (.iadd (r 16 8 12)) && frameMet plain2 (.hfma2Twin (r 16 8 12) (md 0 0 0))
    && frameMet plain (.pack4 (r 16 8 12)) && frameMet plain (.isetp (r 2 8 12)) && frameMet plain (.hsetp2 (r 2 8 12))) = true := by decide +kernel
theorem test_met_MoveGroupStreamDrawFrame : (frameMet plain (.mov (r 16 8 0)) && frameMet plain (.movi (fi 16 5))
    && frameMet plain2 (.moviLiteral (fi 16 0) 5) && frameMet plain (.vtop (r 1 8 0)) && frameMet plain (.srd (fi 16 3))
    && frameMet plain (.shfl (r 16 8 12)) && frameMet plain (.wunb (r 0 0 0)) && frameMet plain (.dkey (r 0 8 0))
    && frameMet plain (.rand (r 16 0 0)) && frameMet plain (.movrw (r 16 8 12)) && frameMet plain (.winb (fi 0 1))) = true := by decide +kernel
theorem test_met_MemoryInstructionFrame : (frameMet plain (.ld (r 16 8 12)) && frameMet plain (.st (r 16 8 12))
    && frameMet plain (.ldv (r 16 8 12)) && frameMet plain (.stt (r 16 8 12)) && frameMet plain (.atomAdd (r 16 8 12))
    && frameMet plain (.seminc (r 0 8 12)) && frameMet plain (.semrd (r 16 8 0)) && frameMet plain (.tgpost (r 0 8 0))
    && frameMet plain (.tglink (r 16 8 12)) && frameMet plain (.tginit (r 0 8 24))) = true := by decide +kernel
theorem test_met_PocketHeapSystemInstructionFrame : (frameMet plain (.pins (r 0 8 12)) && frameMet plain (.pdrn (r 16 24 0))
    && frameMet plain (.hlen (r 16 0 0)) && frameMet plain (.spawn (r 16 8 12)) && frameMet plain (.svc (fi 16 0))
    && frameMet plain (.privwr (r 3 8 0)) && frameMet plain (.privrd (r 16 0 0))) = true := by decide +kernel
theorem test_met_TransfersFrame : (frameMet plain (.nop (r 0 0 0)) && frameMet plain (.bra (fb 0)) && frameMet plain (.jmpi (r 0 20 0))
    && frameMet plain (.brcT 0 (fb 0)) && frameMet plain (.bre 0 0 (fb 0)) && frameMet plain (.call (fb 0))
    && frameMet plain (.calli (r 16 20 0)) && frameMet plain (.cpst (r 16 0 0)) && frameMet plain (.smrg (r 16 24 0))) = true := by
  decide +kernel
theorem test_met_WaitsAndEngineCallsFrame : ([Instr.rejn (r 0 0 0), .bar (r 0 0 0), .exit (r 0 0 0), .yield (r 0 0 0), .waitf (fi 0 0),
    .trap (fi 0 5), .semwait (r 0 8 12), .fence (r 0 0 0), .pref (r 0 8 12), .mma (r 0 24 0), .dload (r 2 24 0)].all (runs plain)) = true := by
  decide +kernel

/-- The lane state of a context with a heap and no window: no page of it is absent. -/
def heapOnly : State := modCtx plain 1 (fun c => { c with windows := [] })
theorem test_met_pagesPresent : PagesPresent heapOnly 1 := by
  intro unit va a h
  have hc : mfind heapOnly.ctxs 1 = some { (mfind heapOnly.ctxs 1).getD { vi := 0 } with windows := [] } := by decide +kernel
  unfold Machine.translate at h
  rw [hc] at h
  simp only [windowsAt, List.filter_nil, List.isEmpty_nil, if_true] at h
  repeat' (split at h)
  all_goals cases h
theorem test_met_copyFrame : frameMet heapOnly (.copys (r 16 24 0)) = true := by decide +kernel

/-- An operation in flight whose event answers a next state. -/
theorem test_met_MemoryOperationsFrame : (
    runs (acting [opOf (.store [[(.g 0x1000, 5)]] [false])]) (.writePerform 1 0)
    && runs (acting [opOf (.tileWrite 0x1000 (teamKey 1 0) 0 false none [] [] {})]) (.writePerform 1 0)
    && runs (acting [opOf (.tileWrite 0x1000 (teamKey 1 0) 0 true none [] [] {})]) (.writePerform 1 0)
    && runs (acting [opOf (.atomic ((rangeFrom 0x1000 4).map .g) 0 false [⟨0, 1, 0, {}⟩])]) (.atomicPerform 1)
    && runs (acting [opOf (.semInc 0 1 3 1 false)]) (.writePerform 1 0) && runs plain (.loadComplete 1 .clean)
    && runs plain (.longOpResult 1)) = true := by decide +kernel

theorem test_met_ShroudArithmeticFrame : ([Instr.salu ⟨1, 1, 1, 0⟩, .valu ⟨17, 17, 18, 0⟩, .vspk ⟨17, 18, 1, 0⟩, .sfence ⟨0, 0, 0, 0⟩, .salu ⟨0, 1, 1, 0⟩].all
    (fun i => (routineOf i shroudAt).isSome && runs shroudAt i)) = true := by decide +kernel

theorem test_met_HeapTranslation : (match mfind plain.ctxs 1 with
    | some c => decide (c.heapBase ≤ 0x1000 ∧ 0x1000 < c.heapLimit)
    | none => false) = true ∧ Sound plain := by
  refine ⟨by decide +kernel, by decide +kernel, ?_, ?_⟩ <;> decide +kernel

theorem test_met_TaskLink : (
    opMet (.link 0x2000 0x3000 ((rangeFrom 0x2000 256).map .g) {}) (fun s _ => !anyOwned s ((rangeFrom 0x2000 256).map .g)
      && decide (((rangeFrom 0x2000 256).map Loc.g).head? = some (.g 0x2000)
        ∧ (((rangeFrom 0x2000 256).map Loc.g).drop 128).head? = some (.g 0x2080) ∧ rdMem s 0x2020 4 ≠ 11)
      && !bitOf (rdMem s 0x2004 4) 2)
    && bitOf (rdMem (wrBytes plain 0x2004 [4]) 0x2004 4) 2 && decide (rdMem (wrBytes plain 0x2020 [11]) 0x2020 4 = 11)) = true := by
  decide +kernel

/-- The hypotheses of the MOV to a scalar register. -/
theorem test_met_ScalarRegisters : (laneMet plain (.mov (r 97 8 0)) true read1
    && runOk plain (.mov (r 97 8 0)) (fun cx => cx.fl.past = [] ∧ cx.f.d.toNat = 96 + 1 ∧ (gotOf plain cx true (read1 plain cx)).length = 1)) = true := by
  decide +kernel

/-- The lane state of a kernel with a trap vector. -/
def vectored : State := { plain with kernels := plain.kernels.map (fun k => (k.1, { k.2 with trapvec := some 0 })) }
theorem test_met_UserTrapDelivery : (
    (match getGroup plain 1 with
      | some g => decide (0 < g.threads.length ∧ (thread g 0).handler = none)
      | none => false)
    && (kernelOf plain 1).any (fun k => k.trapvec == none) && (mfind plain.launches 1).isSome
    && runOk vectored (.trap (fi 0 5)) (fun cx => cx.k.trapvec = some 0 ∧ cx.fl.run.Nodup
      ∧ ∀ i ∈ cx.fl.run, i < cx.g.threads.length ∧ (thread cx.g i).handler = none)) = true := by decide +kernel

theorem test_met_HalyardControl : (decide ((getDie plain 0).reefOpen = false ∧ (getDie plain 0).reef = 7
    ∧ (getDie plain 0).claims.length < 256) && runs plain (.intervalBoundary [])) = true := by decide +kernel

/-! ### Ill-formed terms that the checks refuse -/

theorem test_illFormed : (
    decide (check (.iadd (r 117 8 12)) = some .badField)          -- D names no register (R131)
    && decide (check (.exit (r 1 0 0)) = some .badField)          -- a field that must be zero
    && decide (check (.isetp (r 48 8 12)) = some .badField)       -- COND 6 (R176)
    && decide (check (.trap (fi 3 5)) = some .badField)           -- D of TRAP must be zero (R171)
    && decide (check (.svc (fi 89 3)) = some .badField)           -- the window of SVC ends at code 88 (R172)
    && decide (check (.bar (r 0 8 0)) = some .badField)           -- BAR takes an index in B
    && decide (check (.iaddTwin (r 16 8 12) (md 5 0 0)) = some .badModifier)   -- RND of an integer instruction (R135)
    && decide (check (.leaTwin (r 16 8 12) (md 0 1 0)) = some .badModifier)    -- LEA accepts only TYPE 0 (R178)
    && decide (check (.iaddTwin (r 117 8 12) (md 0 0 0)) = some .badField)
    && decide (check (.moviLiteral (fi 16 1) 5) = some .badField)              -- IMM14 of the L twin must be zero (R182)
    && decide (check (.send ⟨1, 0, 0, 0⟩) = some .badField) && decide (check (.smovi ⟨17, 0, 5⟩) = some .badField)
    && decide (check (.salui ⟨1, 1, 12, 0⟩) = some .badField) && decide (check (.sbrz ⟨1, 1, 0⟩) = some .badField)) = true := by
  decide +kernel

/-- No row has opcode 0x1FF; a twin's word needs its extension word; and three bytes are no word. -/
theorem test_notDecoded : (
    (match decodeWord 0x3FE00000 none with
      | .error e => e == .unassigned
      | _ => false)
    && (match decodeWord 0x48040000 none with
      | .error e => e == .noExtension
      | _ => false)
    && (match decodeBytes [0, 0, 0xC0] with
      | .error e => e == .shortText
      | _ => false)) = true := by decide +kernel

/-! ### Single steps, with results worked out from the rules -/

/-- What a core instruction leaves in v16 of the only thread (none: it answers no next state). -/
def v16After (s : State) (i : Instr) : Option W32 := match exec i s with
  | .next t => (getGroup t 1).map (fun g => mget 0 (thread g 0).regs 16)
  | _ => none
/-- Registers v8, v12 and v16 before it, in a clause of n slots. -/
def abd (n : Nat) (a b d : W32) : State := lane n [(8, a), (12, b), (16, d)] [] 0

theorem test_iadd_wraps : v16After (abd 1 0xFFFFFFFF 2 0) (.iadd (r 16 8 12)) = some 1 := by decide +kernel
theorem test_iadd_saturates : v16After (abd 2 0x7FFFFFFF 2 0) (.iaddTwin (r 16 8 12) { md 0 0 0 with sat := true })
    = some 0x7FFFFFFF := by decide +kernel
theorem test_isub_order : v16After (abd 1 5 7 0) (.isub (r 16 8 12)) = some 0xFFFFFFFE := by decide +kernel
theorem test_imad_reads_d : v16After (abd 1 3 5 7) (.imad (r 16 8 12)) = some 22 := by decide +kernel
theorem test_imulh_signed : v16After (abd 1 0xFFFFFFFF 2 0) (.imulh (r 16 8 12)) = some 0xFFFFFFFF := by decide +kernel
theorem test_iabs_most_negative : v16After (abd 1 0x80000000 0 0) (.iabs (r 16 8 0)) = some 0x80000000 := by decide +kernel
theorem test_shl_full_width : v16After (abd 1 1 32 9) (.shl (r 16 8 12)) = some 0 := by decide +kernel
theorem test_sar_full_width : v16After (abd 1 0x80000000 99 9) (.sar (r 16 8 12)) = some 0xFFFFFFFF := by decide +kernel
theorem test_rotl : v16After (abd 1 0x80000001 33 0) (.rotl (r 16 8 12)) = some 3 := by decide +kernel
/-- The rows of R180's table. -/
theorem test_bfe_signed : v16After (abd 1 0xABCDEF12 0x0808 0) (.bfe (r 16 8 12)) = some 0xFFFFFFEF := by decide +kernel
theorem test_bfe_short : v16After (abd 2 0xABCDEF12 0x101C 0) (.bfeTwin (r 16 8 12) (md 0 1 0)) = some 0xA := by decide +kernel
theorem test_bfi : v16After (abd 1 5 0x0404 0xFFFFFFFF) (.bfi (r 16 8 12)) = some 0xFFFFFF5F := by decide +kernel
/-- The example of R181. -/
theorem test_prmt : v16After (abd 1 0x11223344 0x4567 0x55667788) (.prmt (r 16 8 12)) = some 0x88776655 := by decide +kernel
theorem test_movi_extends_sign : v16After (abd 1 0 0 0) (.movi (fi 16 0x3FFF)) = some 0xFFFFFFFF := by decide +kernel
/-- 2^24 + 1 is a tie between two values of FP32; the even one is 2^24. -/
theorem test_fadd_ties_to_even : v16After (abd 1 0x4B800000 0x3F800000 0) (.fadd (r 16 8 12)) = some 0x4B800000 := by decide +kernel
/-- Exactly one NaN: the other operand (R189); −0 below +0. -/
theorem test_fmin_nan : v16After (abd 1 0x7FC00001 0x3F800000 0) (.fmin (r 16 8 12)) = some 0x3F800000 := by decide +kernel
theorem test_fmax_zeros : v16After (abd 1 0x80000000 0 0) (.fmax (r 16 8 12)) = some 0 := by decide +kernel
/-- 1.5 × 2 + 1 in both elements, BF16 (the default type of R192). -/
theorem test_hfma2 : v16After (abd 1 0x3FC03FC0 0x40004000 0x3F803F80) (.hfma2 (r 16 8 12)) = some 0x40804080 := by decide +kernel
/-- −7 < 3 signed. -/
theorem test_isetp_lt : (match exec (.isetp (r 17 8 12)) (abd 1 0xFFFFFFF9 3 0) with
    | .next t => (getGroup t 1).map (fun g => pred (thread g 0) 1)
    | _ => none) = some true := by decide +kernel
/-- A user trap without a handler parks the thread (R171, R349). -/
theorem test_trap_parks : (match exec (.trap (fi 0 42)) (abd 1 0 0 0) with
    | .next t => (getGroup t 1).map (fun g => ((thread g 0).st, (thread g 0).trap.info))
    | _ => none) = some (.parked 1, 42) := by decide +kernel
/-- EXIT ends the only thread, and its group with it (R164, R43). -/
theorem test_exit : (match exec (.exit (r 0 0 0)) (abd 1 0 0 0) with
    | .next t => some (getGroup t 1).isNone
    | _ => none) = some true := by decide +kernel
/-- A shroud register above S0 receives a − 1; S0 reads zero (R298, R293). -/
theorem test_salui : (match exec (.salui ⟨3, 1, 0, 0x1FFF⟩) (shroudWith 1 5) with
    | .next t => (mfind (getShroud t 0).threads 0).map (fun x => mget 0 x.n 3)
    | _ => none) = some 4 := by decide +kernel
/-- A store performs its bytes, and a load's result is their value, least significant byte first (R85, R59). -/
theorem test_store_performs : (match exec (.writePerform 1 0) (acting [opOf (.store [[(.g 0x2000, 5), (.g 0x2001, 1)]] [false])]) with
    | .next t => some (rdMem t 0x2000 4)
    | _ => none) = some 0x105 := by decide +kernel
theorem test_atomic_adds : (match exec (.atomicPerform 1) (acting [opOf (.atomic ((rangeFrom 0x1000 4).map .g) 0x10B false [⟨0, 7, 0, {}⟩])]) with
    | .next t => some (rdMem t 0x1000 4)
    | _ => none) = some 8 := by decide +kernel
/-- The halyard cycle moves time by one nanosecond; HALYARD_CTL's write sets REEF_MIN only (R374). -/
theorem test_halyard_ctl : (match exec (.halyardCtlWrite 3 0x5FF) plain with
    | .next t => some (ctlWord (getDie t 3))
    | _ => none) = some 0x507 := by decide +kernel

/-! ### Decode traps, fetching, decoding and the invariant -/

/-- The hypotheses of a decode trap's clause. -/
def trapMet (s : State) (i : Instr) (ok : CoreForm → Cx → Bool) : Bool :=
  match coreForm i with
  | none => false
  | some c => match runCx s c.op c.ext c.e c.m c.f with
    | none => false
    | some cx => ok c cx
/-- A clause that breaks no encoding rule. -/
def legalIn (i : Instr) (c : CoreForm) (cx : Cx) : Bool :=
  wellFormed i && (!c.e.last || cx.fl.slot + cx.slots == hLen cx.fl.w0) && decide (cx.fl.slot + cx.slots ≤ hLen cx.fl.w0)
    && (c.e.feat :: featsOf (c.op % 512) c.f.b c.m).all cx.granted
def unprivileged : State := modCtx plain 1 (fun c => { c with priv := false })
def lastClause : State := { plain with kernels := plain.kernels.map (fun k => (k.1, { k.2 with chain := [0] })) }
def spent : State := modGroup plain 1 (fun g => { g with flight := g.flight.map (fun f => { f with sum := 15 }) })

theorem test_met_DecodeTraps : (
    trapMet plain (.exit (r 1 0 0)) (fun _ _ => !wellFormed (.exit (r 1 0 0)))
    && trapMet unprivileged (.halt (r 0 8 0)) (fun c cx => legalIn (.halt (r 0 8 0)) c cx && c.e.priv && !cx.c.priv)
    && trapMet lastClause (.iadd (r 16 8 12)) (fun c cx => legalIn (.iadd (r 16 8 12)) c cx && !c.e.priv && cx.isLast
      && !noFall (c.op % 512) && !cx.hasNext)
    && trapMet spent (.join (r 0 24 0)) (fun c cx => legalIn (.join (r 0 24 0)) c cx && !c.e.priv && cx.hasNext
      && decide (hCanvas cx.fl.w0 < cx.fl.sum + price (c.op % 512) (c.f.b.toNat / 8 % 4 + 1)))) = true := by decide +kernel

/-- A group whose run stands at words of its text, and a shroud thread at a word. -/
def standing (ws : List W32) : State := placeLane State.reset ws.length (ws.flatMap (fun w => leBytes 4 w.toNat))
def standingShroud (w : W32) : State := placeShroud State.reset (leBytes 4 w.toNat)
/-- The run's slot is fetched: the address of its word, not poisoned, and whether it is a twin's. -/
def fetchMet (s : State) (slot : Nat) (twin : Bool) : Bool :=
  s.turns.isEmpty && decide (s.cur = .group 1) && (match (getGroup s 1).bind (·.flight) with
    | none => false
    | some fl => (match Machine.translate s 0 1 (slotAddr fl.hdr slot).toNat .fetch with
      | .error _ => false
      | .ok pa => !isPoisoned s (quarterOf pa) && isTwin (BitVec.ofNat 32 (rdMem s pa 4)) == twin && decide (slot < hLen fl.w0)))

theorem test_met_StepRuns : (
    fetchMet (standing [0x08408081]) 0 false && decodesTo [0x08408081] (.imul (r 2 1 1))
    && fetchMet (standing [0x48007A80, 0x00200003]) 0 true && fetchMet (standing [0x48007A80, 0x00200003]) 1 false
    && decodesTo [0x48007A80, 0x00200003] (.iaddTwin (r 1 117 0) { md 0 0 0 with lit := true, low := 3 })
    && (match fetchLane (standing [0x3FE00000]) 1 with
      | .word w _ => w == 0x3FE00000
      | _ => false)
    && (match fetchLane (modCtx (standing [0]) 1 (fun c => { c with windows := [] })) 1 with
      | .trap _ _ => true
      | _ => false)
    && decide ((standingShroud 0x40C20000).cur = .shroud 0 0) && (mfind (getShroud (standingShroud 0x40C20000) 0).threads 0).any (fun x =>
      decide (x.word < x.len) && shroudDecodesTo (BitVec.ofNat 32 (rdMem (standingShroud 0x40C20000) (x.code + 4 * x.word) 4))
        (.sld ⟨3, 1, 0⟩))
    && isEvent .halyardCycle) = true := by decide +kernel

theorem test_met_RoundTrip : (wellFormed (.imul (r 2 1 1)) && isCore (.imul (r 2 1 1)) && wellFormed (.sld ⟨3, 1, 0⟩)
    && !isCore (.sld ⟨3, 1, 0⟩) && !isEvent (.sld ⟨3, 1, 0⟩)) = true := by decide +kernel
/-- The invariant holds in a state that runs an instruction. -/
theorem test_met_InvStep : Sound (standing [0x08408081]) ∧ (match step (standing [0x08408081]) with
    | .next _ => true
    | _ => false) = true := by
  refine ⟨⟨by decide +kernel, ?_, ?_⟩, by decide +kernel⟩ <;> decide +kernel

/-! ### Where instructions trap, and what completing operations leave -/

/-- Threads that all meet `hit`, none of which has issued (`IssueTraps`). -/
def hitMet (s : State) (i : Instr) (tr : Trap) (hit : Cx → Bool) : Bool :=
  runOk s i (fun cx => cx.fl.tok = 0 ∧ cx.todo.length ≤ 64 ∧ flagsBelow (trappedAll s cx (fun _ => tr)) cx.gid = true
    ∧ doers cx = [0] ∧ hit cx = true)
/-- The first register past a kernel of 16 registers. -/
def few : State := { plain with kernels := plain.kernels.map (fun k => (k.1, { k.2 with regs := 16, bars := 3 })) }
def outMet (i : Instr) : Bool :=
  runMet few i (fun cx => match boundsOf cx.k.regs (thread cx.g 0).wb (uses cx.e cx.m cx.f) with
    | none => false
    | some tr => hitMet few i tr (fun _ => true) && decide (tr.code = 0x04 ∧ 16 ≤ tr.info))
/-- A thread reads its operands, and `ok` holds of them. -/
def opsMet {α : Type} (s : State) (i : Instr) (tr : Trap) (ops : Cx → Nat → Rd α) (ok : Cx → α → Bool) : Bool :=
  hitMet s i tr (fun cx => match readOne s cx (ops cx) false 0 with
    | .ok g => ok cx g.val
    | .error _ => false)

theorem test_met_RegisterBound : ([Instr.iadd (r 16 8 12), .fadd (r 16 8 12), .hadd2 (r 16 8 12), .cvtf (r 16 8 0), .mov (r 16 8 0),
    .shfl (r 16 8 12), .dset (r 0 16 0), .ld (r 16 8 12), .st (r 16 8 12), .ldv (r 16 24 0)].all outMet) = true := by decide +kernel

theorem test_met_MemoryTraps : (
    (let s := lane 1 [(8, 1)] [] 0
     opsMet s (.ld (r 16 8 12)) { code := 0x0C, addr := 1 } (ldstOps s) (fun cx v =>
        let va := wrapN 64 ((v.1 : Int) + v.2)
        bitOf cx.opt 0 == false && decide (va % memBytes cx.ty ≠ 0 ∧ va = 1)))
    && (let s := lane 1 [(9, 2 ^ 28)] [] 0
        let tr : Trap := { code := 0x0A, addr := 2 ^ 60, info := 1, info2 := 3 }
        opsMet s (.st (r 16 8 12)) tr (withValue ldstOps s) (fun cx v =>
        let va := wrapN 64 ((v.1.1 : Int) + v.1.2)
        bitOf cx.opt 0 == false && va % memBytes cx.ty == 0 && (match globalLocs s cx va (memBytes cx.ty) .write with
          | .error t => decide (t = tr)
          | .ok _ => false)))
    && (let s := lane 1 [(8, 3)] [] 0
        opsMet s (.lds (r 16 8 12)) { code := 0x0C, addr := 3 } (ldsOps s) (fun cx v =>
        decide (((saddr v.1).off + v.2) % (memBytes cx.ty : Int) ≠ 0)))
    && (let s := lane 1 [(8, 65536)] [] 0
        let tr : Trap := { code := 0x06, addr := 65536 }
        opsMet s (.sts (r 16 8 12)) tr (withValue ldsOps s) (fun cx v =>
        let off := ((saddr v.1.1).off : Int) + v.1.2
        decide (off % (memBytes cx.ty : Int) = 0) && (match scratchLocs s cx (saddr v.1.1) off (memBytes cx.ty) with
          | .error t => decide (t = tr)
          | .ok _ => false)))
    && (let s := modCtx plain 1 (fun c => { c with windows := c.windows ++
          [{ va := 0x2008, size := 8, kind := .args, read := true, write := false, exec := false }] })
        (argsIn s 1 0x2001 8 == some 0x2008) && (argsIn s 1 0x2000 8).isNone)) = true := by decide +kernel

theorem test_met_TargetsAndBounds : (
    runOk plain (.winb (fi 0 (-1))) (fun cx => cx.todo = [0] ∧ ((thread cx.g 0).wb : Int) + 8 * sext 14 (fi 0 (-1)).imm.toNat < 0)
    && runOk plain (.winb (fi 0 128)) (fun cx => (cx.k.regs : Int) ≤ ((thread cx.g 0).wb : Int) + 8 * sext 14 (fi 0 128).imm.toNat)
    && (let s := lane 1 [(20, 0x100004)] [] 0
        opsMet s (.spawn (r 16 20 16)) { code := 0x02 } (fun cx t => do
        let a ← readA s cx t true
        let b ← readB s cx t true
        pure (a, b)) (fun cx v => !isHeader cx.k (BitVec.ofNat 64 v.1)))
    && runOk few (.bar (r 0 0 3)) (fun cx => cx.k.bars ≤ 3)
    && (let spawned := modGroup plain 1 (fun g => { g with team := none })
        [Instr.bara (r 0 0 0), .barw (r 0 0 0), .rejn (r 0 0 0), .rejnCmt (r 0 0 0), .clset (r 0 96 0)].all
        (fun i => runOk spawned i (fun cx => cx.team = none)))
    && runMet plain (.bra (fb 5)) (fun cx => !isHeader cx.k (branchTarget cx (fb 5)))
    && runMet lastClause (.brcT 0 (fb 0)) (fun cx => !cx.hasNext && !pred (thread cx.g 0) 0)
    && (let s := lane 1 [(20, 0x100004)] [] 0
        let rd (cx : Cx) := jumpRd cx none (fun t => readA s cx t true)
        runOk s (.jmpi { u := true, d := 0, a := 20, b := 0 }) (fun cx => cx.uni = true ∧ (match readOne s cx (rd cx) false cx.low with
          | .ok g => !isHeader cx.k (BitVec.ofNat 64 g.val)
          | .error _ => false) = true)
        && runOk s (.ret (r 0 20 0)) (fun cx => cx.uni = false ∧ (readAll s cx (rd cx) false (doers cx)).stall = none
        ∧ (readAll s cx (rd cx) false (doers cx)).traps = []))
    && runMet plain (.call (fb 5)) (fun cx => !isHeader cx.k (branchTarget cx (fb 5)))) = true := by decide +kernel

/-- A shroud thread whose VI's grant lacks FABRIC. -/
def ungranted : State := { shroudAt with vis := [(1, { src := 0, pkey := 0, grant := 1, endpoint := 0 })] }
/-- A shroud thread's store of 64 bytes that begins 8 bytes below an argument block. -/
def blockAhead : State := modCtx (shroudWith 1 0x2000) 1 (fun c => { c with windows := c.windows ++
  [{ va := 0x2008, size := 8, kind := .args, read := true, write := false, exec := false }] })
/-- A shroud thread with a poisoned n1, or with a value in it. -/
def spoiled : State := setSThread shroudAt 0 0
  { ctx := 1, launch := 1, record := 0, routine := 0, code := placedFrame, len := 1, npois := [1] }
def spoiledWord : State := setSThread shroudAt 0 0
  { ctx := 1, launch := 1, record := 0, routine := 0, code := placedFrame, len := 1, n := [(1, 0x8BFF)], npois := [1] }
def shHit (s : State) (i : Instr) (ok : Sh → Bool) : Bool := shroudMet s i (fun _ h => ok h)

theorem test_met_ShroudFaultsTaken : (
    (!wellFormed (.send ⟨1, 0, 0, 0⟩) && !isCore (.send ⟨1, 0, 0, 0⟩) && decide (shroudAt.cur = .shroud 0 0)
      && (mfind (getShroud shroudAt 0).threads 0).isSome)
    && shHit shroudAt (.sjmp ⟨0, 0, -1⟩) (fun h => decide (shTarget h ⟨0, 0, -1⟩ < 0))
    && shHit spoiled (.sbrz ⟨1, 0, 0⟩) (fun h => spoisd h.x 1 && sreg h.x 1 == 0)
    && shHit shroudAt (.sld ⟨1, 0, 1⟩) (fun h => decide (siAddr h.x ⟨1, 0, 1⟩ % 8 ≠ 0) && !shBlocked shroudAt h ((List.range 8).map (fun o => .g (1 + o))))
    && shHit (shroudWith 1 0x40000000) (.sst ⟨2, 1, 0⟩) (fun h =>
      decide (siAddr h.x ⟨2, 1, 0⟩ % 8 = 0) && !(resolveAt (shroudWith 1 0x40000000) (shroudUnit h.k) h.x.ctx 0x40000000 .write
        (.routine h.k h.t)).2.isOk)
    && shHit spoiled (.vld ⟨17, 1, 0, 0⟩) (fun h => spoisd h.x 1 && !shBlocked spoiled h ((List.range 64).map (fun o => .g o))
      && (resolveAt spoiled (shroudUnit h.k) h.x.ctx 0 .read (.routine h.k h.t)).2.isOk)
    && shHit spoiled (.vst ⟨17, 1, 0, 0⟩) (fun h => spoisd h.x 1
      && (resolveAt spoiled (shroudUnit h.k) h.x.ctx 0 .write (.routine h.k h.t)).2.isOk)
    && shHit blockAhead (.vst ⟨17, 1, 0, 0⟩) (fun h => decide ((sreg h.x 1).toNat % 64 = 0)
      && (let x := resolveAt blockAhead (shroudUnit h.k) h.x.ctx 0x2000 .write (.routine h.k h.t)
          x.2.isOk && (argsIn x.1 h.x.ctx 0x2000 64).isSome && (argsIn x.1 h.x.ctx 0x2000 8).isNone))
    && shHit ungranted (.sfence ⟨0, 0, 0, 5⟩) (fun h => !h.granted ungranted 9)
    && shHit ungranted (.ssem ⟨0, 1, 2, 5⟩) (fun h => scopeDenied ungranted h ⟨0, 1, 2, 5⟩)
    && shHit (shroudWith 1 0x10000) (.ssem ⟨0, 1, 2, 0⟩) (fun h => !scopeDenied (shroudWith 1 0x10000) h ⟨0, 1, 2, 0⟩
      && decide (2 ^ 16 ≤ (sreg h.x 1).toNat))
    && shHit spoiledWord (.ssem ⟨0, 1, 2, 0⟩) (fun h => !scopeDenied spoiledWord h ⟨0, 1, 2, 0⟩ && spoisd h.x 1 && decide ((sreg h.x 1).toNat < 2 ^ 16
          ∧ bitsOf (sreg h.x 1).toNat 11 6 = 47) && bitOf (sreg h.x 1).toNat 15)
    && shHit spoiled (.skey ⟨0, 1, 2, 0⟩) (fun h => spoisd h.x 1)
    && (match mfind (getShroud shroudAt 0).threads 0 with
      | none => false
      | some x => !recordOwned shroudAt (shroudUnit 0) x && (translate shroudAt (shroudUnit 0) x.ctx x.record .write).isOk
        && recordOwned { shroudAt with owned := [(0, 9)] } (shroudUnit 0) x)) = true := by decide +kernel

/-- The hypotheses of a completing operation's frame: it is in flight, its context stays, and `ok` holds. -/
def leavesMet (k : OpKind) (ok : State → Op → Bool := fun _ _ => true) (mem : List (Nat × List Byte) := []) : Bool :=
  let s := mem.foldl (fun s x => wrBytes s x.1 x.2) (acting [opOf k])
  decide (findOp s 1 = some (opOf k)) && (mfind s.ctxs 1).all (fun c => !c.dying) && ok s (opOf k)
/-- A record's address translates for writing, and `ok` holds of its physical address. -/
def recordMet (ok : State → Nat → Bool) (s : State) (o : Op) : Bool := match translate s homeUnit o.ctx 0x1000 .write with
  | .ok pa => ok s pa
  | .error _ => false

theorem test_met_OperationsLeave : (
    leavesMet (.store [[(.g 0x1000, 5)]] [false]) (fun s o => actsMet s o && !partBlocked s o [[(.g 0x1000, 5)]] [(.g 0x1000, 5)])
    && leavesMet (.tileWrite 0x1000 (teamKey 1 0) 0 false none [] [31] {}) && leavesMet (.tileWrite 0x1000 (teamKey 1 0) 0 true none [] [] {})
    && leavesMet (.go 0x1000 [[(.g 0x1000, 5)], [(.g 0x1020, 0)]])
    && leavesMet (.go 0x1000 [[(.g 0x1000, 5)]]) (recordMet (fun s pa =>
      decide (rdMem (performPart s (.core 0 1) 0 [(.g 0x1000, 5)] false) pa 4 ≠ 0)))
    && leavesMet (.go 0x1000 [[(.g 0x1000, 0)]]) (recordMet (fun s pa =>
      decide (bitsOf (rdMem (performPart s (.core 0 1) 0 [(.g 0x1000, 0)] false) (pa + 4) 4) 1 0 ≠ 2)))
    && leavesMet (.post 0x1000 []) (recordMet (fun s pa => decide (rdMem s (pa + 0x20) 4 = 0)))
    && leavesMet (.post 0x1000 []) (recordMet (fun s pa => bitOf (rdMem s (pa + 4) 4) 2)) [(0x1004, [4])]
    && leavesMet (.release 0x1000) (recordMet (fun s pa => decide (rdMem s pa 4 = 0))) [(0x1000, [0])]
    && leavesMet (.release 0x1000) (recordMet (fun s pa => decide (rdMem s pa 4 = 1 ∧ bitsOf (rdMem s (pa + 4) 4) 1 0 ≠ 2)))
    && leavesMet (.release 0x1000) (recordMet (fun s pa => decide (2 ≤ rdMem s pa 4))) [(0x1000, [2])]
    && leavesMet (.semInc 0 1 3 1 false) && leavesMet (.pocket (.cfg 0) (teamKey 1 0)) && leavesMet (.heap 3 (.take {}))
    && leavesMet (.system (.halt 0)) && leavesMet (.system (.clearPoison 0x1000))
    && leavesMet (.atomic ((rangeFrom 0x1000 4).map .g) 0 false [⟨0, 1, 0, {}⟩]) (fun s o => actsMet s o
      && !anyOwned s ((rangeFrom 0x1000 4).map .g))
    && leavesMet (.link 0x2000 0x3000 ((rangeFrom 0x2000 256).map .g) {}) && leavesMet (.load [.g 0x1000] 0 {}) && leavesMet (.long {} 7)
    && leavesMet (.copy copy1 true []) && leavesMet (.drain drain1 (teamKey 1 0) []) (fun s o =>
      decide ((drainPlan s o drain1 (teamKey 1 0)).1.mem = s.mem))
    && leavesMet (.call (call1 0x140) (teamKey 1 0) [] []) (fun _ _ => !(call1 0x140).vstat)) = true := by decide +kernel

/-- The service context at boot, and an argument block in a heap. -/
theorem test_met_HeapTranslationOfContexts : (
    (mfind State.reset.ctxs serviceCtx).isNone && (mfind (createService State.reset).ctxs serviceCtx).isSome
    && (let s := modCtx plain 1 (fun c => { c with windows := [{ va := 0x2000, size := 8, kind := .args, read := true, write := false, exec := false }] })
        (mfind s.ctxs 1).any (fun c => (windowsAt c 0x2007).any (fun w => w.kind == .args)
          && !(windowsAt c 0x2008).any (fun w => w.kind == .args) && decide (c.heapBase ≤ 0x2007 ∧ 0x2008 < c.heapLimit)))) = true := by
  decide +kernel

/-! ### Values from outside the model -/

/-- SHA-256 and SHA-384 of "abc" (FIPS 180-4's examples). -/
theorem test_sha256_abc : beVal (sha256 [0x61, 0x62, 0x63]) =
    0xBA7816BF8F01CFEA414140DE5DAE2223B00361A396177A9CB410FF61F20015AD := by decide +kernel
theorem test_sha384_abc : beVal (sha384 [0x61, 0x62, 0x63]) =
    0xCB00753F45A35E8BB5A03D699AC65007272C32AB0EDED1631A8B605A43FF5BED8086072BA1E7CC2358BAECA134C825A7 := by decide +kernel
/-- The base point lies on P-384 (FIPS 186-4). -/
theorem test_p384_base : onCurve p384G = true := by decide +kernel
/-- VSEL's NaN is canonical (R302). -/
theorem test_vsel_nan : canonNaN 0xFFC12345 = 0x7FC00000 := by decide +kernel

end Sys2Proof.Tests
end

section
/-! Byte order (R2): how a little-endian read splits into smaller reads, and the bytes of a value. -/

namespace Sys2Proof.Machine

/-! ### Reads of memory, from the lowest byte up -/

@[simp] theorem rdMem_zero (s : State) (pa : Nat) : rdMem s pa 0 = 0 := rfl

theorem rdMem_succ (s : State) (pa n : Nat) :
    rdMem s pa (n + 1) = (rdByte s pa).toNat + 256 * rdMem s (pa + 1) n := by
  rw [rdMem, rdBytes_succ, leVal, rdMem]

/-- The low `m` bytes of a read stand at the lower addresses. -/
theorem rdMem_add (s : State) (pa m n : Nat) :
    rdMem s pa (m + n) = rdMem s pa m + 2 ^ (8 * m) * rdMem s (pa + m) n := by
  induction m generalizing pa with
  | zero => simp
  | succ m ih =>
    have hpow : 2 ^ (8 * (m + 1)) = 256 * 2 ^ (8 * m) := by rw [Nat.mul_succ, Nat.pow_add, Nat.mul_comm]
    calc rdMem s pa (m + 1 + n)
        = (rdByte s pa).toNat + 256 * rdMem s (pa + 1) (m + n) := by rw [Nat.add_right_comm, rdMem_succ]
      _ = (rdByte s pa).toNat + 256 * (rdMem s (pa + 1) m + 2 ^ (8 * m) * rdMem s (pa + 1 + m) n) := by rw [ih]
      _ = rdMem s pa (m + 1) + 2 ^ (8 * (m + 1)) * rdMem s (pa + (m + 1)) n := by
        rw [rdMem_succ, hpow, Nat.add_assoc pa 1 m, Nat.add_comm 1 m]; ring

/-! ### The bytes of a value -/

/-- Byte `i` of a value holds its bits 8i to 8i+7. -/
theorem toNat_getElem_leBytes {n v i : Nat} (h : i < (leBytes n v).length) :
    (leBytes n v)[i].toNat = v / 2 ^ (8 * i) % 256 := by
  induction n generalizing v i with
  | zero => simp at h
  | succ n ih =>
    cases i with
    | zero => simp [leBytes]
    | succ i =>
      have hdiv : v / 256 / 2 ^ (8 * i) = v / 2 ^ (8 * (i + 1)) := by
        rw [Nat.div_div_eq_div_mul, Nat.mul_succ, Nat.pow_add, Nat.mul_comm]
      simp only [leBytes, List.getElem_cons_succ]
      rw [ih, hdiv]

theorem toNat_rdByte_wrBytes_leBytes (s : State) {pa n v i : Nat} (hi : i < n) :
    (rdByte (wrBytes s pa (leBytes n v)) (pa + i)).toNat = v / 2 ^ (8 * i) % 256 := by
  have hlen : i < (leBytes n v).length := by rwa [length_leBytes]
  rw [rdByte_wrBytes s hlen, toNat_getElem_leBytes]

/-- Settles O53: a read is taken apart byte by byte and at its fourth byte (`rdMem_succ`, `rdMem_add`), a write is read
back whole and byte by byte, and `wrBytes` is framed by its length. -/
theorem byteOrder : Obligations.ByteOrder := by
  unfold Obligations.ByteOrder
  exact ⟨fun s pa n => ⟨rdMem_zero s pa, rdMem_succ s pa n⟩,
    fun s pa => rdMem_add s pa 4 4,
    rdMem_wrBytes,
    fun s _ _ _ _ hi => toNat_rdByte_wrBytes_leBytes s hi,
    fun _ _ _ _ h => rdByte_wrBytes_out h⟩

end Sys2Proof.Machine
end

section
/-! Frames of the lane pipeline (R22, R25, R50, R57): what each shape of an arithmetic instruction reads and writes, and
from it the frame of every arithmetic instruction and of its twin. -/

namespace Sys2Proof.Machine

/-! ### A run and the form it executes -/

/-- The run executes an instruction of the form `c`. -/
def SameForm (cx : Cx) (c : CoreForm) : Prop := cx.e = c.e ∧ cx.m = c.m ∧ cx.f = c.f

section
variable {s : State} {cx : Cx} {c : CoreForm} {tid : Nat}

/-- Field A as a source moves only what the form's operands name. -/
theorem rdKeeps_sourceA (h : SameForm cx c) (wide : Bool) {w : Wd} (ha : c.e.a = .src w) :
    RdKeeps (allowOf c) (readA s cx tid wide) := by
  obtain ⟨-, -, hf⟩ := h
  exact rdKeeps_readA _ (hf ▸ srcOk_a ha)

/-- Field B as a source, or the literal in its place. -/
theorem rdKeeps_sourceB (h : SameForm cx c) (wide : Bool) {w : Wd} (hb : c.e.b = .src w) :
    RdKeeps (allowOf c) (readB s cx tid wide) := by
  obtain ⟨-, hm, hf⟩ := h
  exact rdKeeps_readB _ (fun hl => hf ▸ srcOk_b hb (hm ▸ hl))

/-- Field D as a source. -/
theorem rdKeeps_sourceD (h : SameForm cx c) (wide : Bool) {w : Wd} (hd : c.e.d = .both w) :
    RdKeeps (allowOf c) (readD s cx tid wide) := by
  obtain ⟨-, -, hf⟩ := h
  exact rdKeeps_readD _ (hf ▸ srcOk_d hd)

/-- The word of `.SR` moves only the random stream, and only under that mode (R72). -/
theorem rdKeeps_roundingWord (h : SameForm cx c) : RdKeeps (allowOf c) (srWord cx) := by
  obtain ⟨-, hm, -⟩ := h
  refine rdKeeps_srWord (fun hr => ?_)
  simp [allowOf, ← hm, hr]

/-! ### The operands of a shape -/

theorem rdKeeps_both (h : SameForm cx c) (x y : Bool) {wa wb : Wd} (ha : c.e.a = .src wa) (hb : c.e.b = .src wb) :
    RdKeeps (allowOf c) (do let a ← readA s cx tid x; let b ← readB s cx tid y; pure (a, b)) :=
  rdKeeps_bind (rdKeeps_sourceA h x ha) (fun _ => rdKeeps_bind (rdKeeps_sourceB h y hb) (fun _ => rdKeeps_pure _))

theorem rdKeeps_three (h : SameForm cx c) (x y z : Bool) {wa wb wd : Wd} (ha : c.e.a = .src wa) (hb : c.e.b = .src wb)
    (hd : c.e.d = .both wd) :
    RdKeeps (allowOf c)
      (do let a ← readA s cx tid x; let b ← readB s cx tid y; let d ← readD s cx tid z; pure (a, b, d)) :=
  rdKeeps_bind (rdKeeps_sourceA h x ha) (fun _ => rdKeeps_bind (rdKeeps_sourceB h y hb) (fun _ =>
    rdKeeps_bind (rdKeeps_sourceD h z hd) (fun _ => rdKeeps_pure _)))

/-- An operand that some instructions of a shape do not have, and what goes on with it. -/
theorem rdKeeps_optional {α : Type} {al : Allow} {p : Prop} [Decidable p] {x y : Rd Nat} {k : Nat → Rd α}
    (hx : p → RdKeeps al x) (hy : ¬ p → RdKeeps al y) (hk : ∀ v, RdKeeps al (k v)) :
    RdKeeps al (if p then x >>= k else y >>= k) := by
  split
  · exact rdKeeps_bind (hx ‹_›) hk
  · exact rdKeeps_bind (hy ‹_›) hk

/-- One word drawn under `.SR`, or two. -/
theorem rdKeeps_rounded {α : Type} (h : SameForm cx c) (f : Nat → α) :
    RdKeeps (allowOf c) (do let u ← srWord cx; pure (f u)) :=
  rdKeeps_bind (rdKeeps_roundingWord h) (fun _ => rdKeeps_pure _)

theorem rdKeeps_roundedTwice {α : Type} (h : SameForm cx c) (f : Nat → Nat → α) :
    RdKeeps (allowOf c) (do let u ← srWord cx; let v ← srWord cx; pure (f u v)) :=
  rdKeeps_bind (rdKeeps_roundingWord h) (fun _ => rdKeeps_rounded h _)

end

/-! ### Results -/

/-- A result that is `n` words for field D and nothing else. -/
def IsWords (n : Nat) (o : Out) : Prop := o.words.length = n ∧ o.preds = [] ∧ o.upd = id

theorem out32_isWords (v : Nat) : IsWords 1 (out32 v) := ⟨rfl, rfl, rfl⟩
theorem out64_isWords (v : Nat) : IsWords 2 (out64 v) := ⟨rfl, rfl, rfl⟩
theorem outN_isWords (cx : Cx) (v : Nat) : IsWords (if wide cx.e cx.m .wn then 2 else 1) (outN cx v) := by
  unfold outN
  show IsWords (if cx.wide then 2 else 1) _
  split
  · exact out64_isWords v
  · exact out32_isWords v
/-- An integer result of a conversion has the width that its TYPE code names (R194). -/
theorem intOut_isWords (cx : Cx) (x : Int) : IsWords (if wide cx.e cx.m .wty then 2 else 1) (intOut cx.ty x) := by
  show IsWords (if cvt64 cx.ty then 2 else 1) _
  generalize cx.ty = code
  unfold intOut
  match code with
  | 0 | 1 | 2 | 3 | 4 | 5 | 6 | n + 7 => exact ⟨rfl, rfl, rfl⟩

/-! ### From a shape to the frames of an instruction and its twin -/

/-- Under the entry `e`, `body` is the lane pipeline with operands and a result that change only what `more` allows. -/
def LaneBody (e : Entry) (more : CoreForm → Allow → Allow) (body : State → Cx → State) : Prop :=
  ∃ (α : Type) (hasD whole : Bool) (rd : State → Cx → Nat → Rd α) (fin : Cx → List (Got α) → Got α → Out) (n : Cx → Nat),
    (∀ s cx, body s cx = laneExec s cx hasD (rd s cx) (fin cx) whole) ∧
    ∀ s cx c, c.e = e → SameForm cx c → LaneKeeps (more c (allowOf c)) s cx hasD (rd s cx) (fin cx) (n cx)

/-- An instruction of format R and its twin stand at the opcode `op` and mean `body`. -/
def Means (base : FR → Instr) (twin : FR → Mod → Instr) (op : Nat) (body : State → Cx → State) : Prop :=
  ∀ f m s, view (base f) = .r op f ∧ exec (base f) s = coreR op f s (body s)
    ∧ view (twin f m) = .twin op f m ∧ exec (twin f m) s = coreT op f m s (body s)

/-- An instruction and its twin of the lane pipeline have its frame. -/
theorem laneFrame_withTwin {more : CoreForm → Allow → Allow} {base : FR → Instr} {twin : FR → Mod → Instr} {f : FR} {m : Mod}
    {e : Entry} {body : State → Cx → State} (op : Nat) (he : entryOf op = some e) (hbody : LaneBody e more body)
    (hm : Means base twin op body) : WithTwin (fun i => LaneFrame i more) (base f) (twin f m) := by
  obtain ⟨α, hasD, whole, rd, fin, n, hb, hk⟩ := hbody
  have hv : view (base f) = .r op f ∧ view (twin f m) = .twin op f m := ⟨(hm f m .reset).1, (hm f m .reset).2.2.1⟩
  exact ⟨laneFrame_of_coreR n (fun s => (hm f m s).2.1) hv.1 he hb
      (fun s cx h1 h2 h3 => hk s cx ⟨op, false, e, baseMod e, f⟩ rfl ⟨h1, h2, h3⟩),
    laneFrame_of_coreT n (fun s => (hm f m s).2.2.2) hv.2 he hb
      (fun s cx h1 h2 h3 => hk s cx ⟨op + 512, true, e, m, f⟩ rfl ⟨h1, h2, h3⟩)⟩

/-- A lane instruction whose only result is its destination D, of the width w. -/
theorem laneBody_dst {α : Type} {e : Entry} {w : Wd} {rd : State → Cx → Nat → Rd α} {fin : Cx → List (Got α) → Got α → Out}
    (hd : e.d = .dst w ∨ e.d = .both w)
    (hrd : ∀ s cx c tid, c.e = e → SameForm cx c → RdKeeps (allowOf c) (rd s cx tid))
    (hfin : ∀ cx gs g, cx.e = e → IsWords (if wide e cx.m w then 2 else 1) (fin cx gs g)) :
    LaneBody e (fun _ a => a) (fun s cx => laneExec s cx true (rd s cx) (fin cx)) := by
  refine ⟨α, true, false, rd, fin, fun cx => if wide e cx.m w then 2 else 1, fun _ _ => rfl, fun s cx c he hc => ?_⟩
  obtain ⟨h1, h2, h3⟩ := hc
  refine ⟨fun tid => hrd s cx c tid he ⟨h1, h2, h3⟩, fun _ => ?_, fun gs tid g _ => ?_⟩
  · subst he
    dsimp only
    rw [h2, h3]
    exact destOk_d hd
  · obtain ⟨k1, k2, k3⟩ := hfin cx gs g (h1.trans he)
    rw [k2, k3]
    exact ⟨fun _ => k1, ⟨retired_refl _ _, fun _ t => retired_refl _ t⟩, fun q hq => nomatch hq⟩

/-- A lane instruction whose only result is a set of predicates. -/
theorem laneBody_preds {α : Type} {e : Entry} {ps : FR → List Nat} {rd : State → Cx → Nat → Rd α}
    {fin : Cx → List (Got α) → Got α → Out}
    (hrd : ∀ s cx c tid, c.e = e → SameForm cx c → RdKeeps (allowOf c) (rd s cx tid))
    (hfin : ∀ cx gs g, (∀ q ∈ (fin cx gs g).preds, q.1 ∈ ps cx.f) ∧ (fin cx gs g).upd = id) :
    LaneBody e (fun c a => { a with preds := ps c.f }) (fun s cx => laneExec s cx false (rd s cx) (fin cx)) := by
  refine ⟨α, false, false, rd, fin, fun _ => 0, fun _ _ => rfl, fun s cx c he hc => ?_⟩
  refine ⟨fun tid => hrd s cx c tid he hc, fun h => absurd h Bool.false_ne_true, fun gs tid g _ => ?_⟩
  obtain ⟨k1, k2⟩ := hfin cx gs g
  rw [k2]
  refine ⟨fun h => absurd h Bool.false_ne_true, ⟨retired_refl _ _, fun _ t => retired_refl _ t⟩, ?_⟩
  intro q hq
  dsimp only
  rw [← hc.2.2]
  exact k1 q hq

/-! ### The shapes of arithmetic -/

section
variable {e : Entry}

theorem intBin_lane (hd : e.d = .dst .wn) (ha : e.a = .src .wn) (hb : e.b = .src .wn) {op : Cx → Int → Int → Int} :
    LaneBody e (fun _ a => a) (fun s cx => intBin s cx (op cx)) :=
  laneBody_dst (.inl hd) (fun _ _ _ _ he h => rdKeeps_both h _ _ (he ▸ ha) (he ▸ hb)) (fun cx _ _ he => he ▸ outN_isWords cx _)

theorem intUn_lane (hd : e.d = .dst .wn) (ha : e.a = .src .wn) {op : Int → Int} :
    LaneBody e (fun _ a => a) (fun s cx => intUn s cx op) :=
  laneBody_dst (.inl hd) (fun _ _ _ _ he h => rdKeeps_sourceA h _ (he ▸ ha)) (fun cx _ _ he => he ▸ outN_isWords cx _)

theorem intTri_lane (hd : e.d = .both .wn) (ha : e.a = .src .wn) (hb : e.b = .src .wn) {op : Int → Int → Int → Int} :
    LaneBody e (fun _ a => a) (fun s cx => intTri s cx op) :=
  laneBody_dst (.inr hd) (fun _ _ _ _ he h => rdKeeps_three h _ _ _ (he ▸ ha) (he ▸ hb) (he ▸ hd))
    (fun cx _ _ he => he ▸ outN_isWords cx _)

theorem bitBin_lane (hd : e.d = .dst .wn) (ha : e.a = .src .wn) (hb : e.b = .src .wn) {op : Nat → Nat → Nat} :
    LaneBody e (fun _ a => a) (fun s cx => bitBin s cx op) :=
  laneBody_dst (.inl hd) (fun _ _ _ _ he h => rdKeeps_both h _ _ (he ▸ ha) (he ▸ hb)) (fun cx _ _ he => he ▸ outN_isWords cx _)

theorem shiftBin_lane (hd : e.d = .dst .wn) (ha : e.a = .src .wn) (hb : e.b = .src .w32) {op : Cx → Nat → Nat → Nat} :
    LaneBody e (fun _ a => a) (fun s cx => shiftBin s cx (op cx)) :=
  laneBody_dst (.inl hd) (fun _ _ _ _ he h => rdKeeps_both h _ _ (he ▸ ha) (he ▸ hb)) (fun cx _ _ he => he ▸ outN_isWords cx _)

theorem intDiv_lane (hd : e.d = .dst .wn) (ha : e.a = .src .wn) (hb : e.b = .src .wn) {op : Int → Int → Int} :
    LaneBody e (fun _ a => a) (fun s cx => intDiv s cx op) :=
  laneBody_dst (.inl hd) (fun _ _ _ _ he h => rdKeeps_both h _ _ (he ▸ ha) (he ▸ hb)) (fun cx _ _ he => he ▸ outN_isWords cx _)

theorem imadw_lane (hd : e.d = .both .w64) (ha : e.a = .src .w32) (hb : e.b = .src .w32) : LaneBody e (fun _ a => a) imadw :=
  laneBody_dst (.inr hd) (fun _ _ _ _ he h => rdKeeps_three h _ _ _ (he ▸ ha) (he ▸ hb) (he ▸ hd))
    (fun _ _ _ _ => out64_isWords _)

theorem isel_lane (hd : e.d = .dst .wn) (ha : e.a = .src .wn) (hb : e.b = .src .wn) : LaneBody e (fun _ a => a) isel :=
  laneBody_dst (.inl hd)
    (fun _ _ _ _ he h => rdKeeps_bind rdKeeps_get (fun _ =>
      rdKeeps_bind (rdKeeps_both h _ _ (he ▸ ha) (he ▸ hb)) (fun _ => rdKeeps_pure _)))
    (fun cx _ _ he => he ▸ outN_isWords cx _)

theorem lea_lane (hd : e.d = .dst .w64) (ha : e.a = .src .w64) (hb : e.b = .src .w32) : LaneBody e (fun _ a => a) lea :=
  laneBody_dst (.inl hd) (fun _ _ _ _ he h => rdKeeps_both h _ _ (he ▸ ha) (he ▸ hb)) (fun _ _ _ _ => out64_isWords _)

theorem bfiRun_lane (hd : e.d = .both .wn) (ha : e.a = .src .wn) (hb : e.b = .src .w32) : LaneBody e (fun _ a => a) bfiRun :=
  laneBody_dst (.inr hd) (fun _ _ _ _ he h => rdKeeps_three h _ _ _ (he ▸ ha) (he ▸ hb) (he ▸ hd))
    (fun cx _ _ he => he ▸ outN_isWords cx _)

/-- A function of operand A with a result of the operand's width: INOT and BREV. -/
theorem read1_lane (hd : e.d = .dst .wn) (ha : e.a = .src .wn) {op : Cx → Nat → Nat} :
    LaneBody e (fun _ a => a) (fun s cx => laneExec s cx true (read1 s cx) (fun _ g => outN cx (op cx g.val))) :=
  laneBody_dst (.inl hd) (fun _ _ _ _ he h => rdKeeps_sourceA h _ (he ▸ ha)) (fun cx _ _ he => he ▸ outN_isWords cx _)

/-- A function of operand A with a result of 32 bits: POPC and CLZ. -/
theorem count1_lane (hd : e.d = .dst .w32) (ha : e.a = .src .wn) {op : Cx → Nat → Nat} :
    LaneBody e (fun _ a => a) (fun s cx => laneExec s cx true (read1 s cx) (fun _ g => out32 (op cx g.val))) :=
  laneBody_dst (.inl hd) (fun _ _ _ _ he h => rdKeeps_sourceA h _ (he ▸ ha)) (fun _ _ _ _ => out32_isWords _)

/-- PRMT: a function of operands A, B and D of 32 bits. -/
theorem word3_lane (hd : e.d = .both .w32) (ha : e.a = .src .w32) (hb : e.b = .src .w32) {op : Nat → Nat → Nat → Nat} :
    LaneBody e (fun _ a => a)
      (fun s cx => laneExec s cx true (read3 s cx) (fun _ g => out32 (op g.val.1 g.val.2.1 g.val.2.2))) :=
  laneBody_dst (.inr hd) (fun _ _ _ _ he h => rdKeeps_three h _ _ _ (he ▸ ha) (he ▸ hb) (he ▸ hd))
    (fun _ _ _ _ => out32_isWords _)

theorem fpRun_lane (useB useD : Bool) (hd : e.d = .dst .w32 ∨ e.d = .both .w32) (ha : e.a = .src .w32)
    (hb : useB = true → e.b = .src .w32) (hD : useD = true → e.d = .both .w32) {long : Bool}
    {op : Cx → Nat → Nat → Nat → FV × Bool} : LaneBody e (fun _ a => a)
      (fun s cx => fpRun s cx useB useD long (op cx)) :=
  laneBody_dst hd
    (fun _ _ _ _ he h => rdKeeps_bind (rdKeeps_sourceA h _ (he ▸ ha)) (fun _ =>
      rdKeeps_optional (fun x => rdKeeps_sourceB h _ (he ▸ hb x)) (fun _ => rdKeeps_pure _) (fun _ =>
      rdKeeps_optional (fun x => rdKeeps_sourceD h _ (he ▸ hD x)) (fun _ => rdKeeps_pure _) (fun _ => rdKeeps_rounded h _))))
    (fun _ _ _ _ => ⟨rfl, rfl, rfl⟩)

theorem fpUn_lane (hd : e.d = .dst .w32) (ha : e.a = .src .w32) {long : Bool} {op : Cx → Nat → Nat} :
    LaneBody e (fun _ a => a) (fun s cx => fpUn s cx long (op cx)) :=
  laneBody_dst (.inl hd) (fun _ _ _ _ he h => rdKeeps_sourceA h _ (he ▸ ha)) (fun _ _ _ _ => ⟨rfl, rfl, rfl⟩)

theorem fpBin_lane (hd : e.d = .dst .w32) (ha : e.a = .src .w32) (hb : e.b = .src .w32) {op : Cx → Nat → Nat → Nat} :
    LaneBody e (fun _ a => a) (fun s cx => fpBin s cx (op cx)) :=
  laneBody_dst (.inl hd) (fun _ _ _ _ he h => rdKeeps_both h _ _ (he ▸ ha) (he ▸ hb)) (fun _ _ _ _ => out32_isWords _)

theorem packRun_lane (useD : Bool) (hd : e.d = .dst .w32 ∨ e.d = .both .w32) (ha : e.a = .src .w32) (hb : e.b = .src .w32)
    (hD : useD = true → e.d = .both .w32) {op : Cx → FV → FV → FV → FV} :
    LaneBody e (fun _ a => a) (fun s cx => packRun s cx useD (op cx)) :=
  laneBody_dst hd
    (fun _ _ _ _ he h => rdKeeps_bind (rdKeeps_sourceA h _ (he ▸ ha)) (fun _ =>
      rdKeeps_bind (rdKeeps_sourceB h _ (he ▸ hb)) (fun _ =>
      rdKeeps_optional (fun x => rdKeeps_sourceD h _ (he ▸ hD x)) (fun _ => rdKeeps_pure _) (fun _ => rdKeeps_roundedTwice h _))))
    (fun _ _ _ _ => out32_isWords _)

/-! ### The shapes of conversions -/

theorem cvtf_lane (hd : e.d = .dst .w32) (ha : e.a = .src .w32) : LaneBody e (fun _ a => a) cvtf :=
  laneBody_dst (.inl hd)
    (fun _ _ _ _ he h => rdKeeps_bind (rdKeeps_sourceA h _ (he ▸ ha)) (fun _ =>
      rdKeeps_optional (fun _ => rdKeeps_pure _) (fun _ => rdKeeps_roundingWord h) (fun _ => rdKeeps_pure _)))
    (fun _ _ _ _ => out32_isWords _)

theorem cvti_lane (hd : e.d = .dst .wty) (ha : e.a = .src .w32) : LaneBody e (fun _ a => a) cvti :=
  laneBody_dst (.inl hd) (fun _ _ _ _ he h => rdKeeps_sourceA h _ (he ▸ ha)) (fun cx _ _ he => he ▸ intOut_isWords cx _)

theorem cvtif_lane (hd : e.d = .dst .w32) (ha : e.a = .src .wopt) : LaneBody e (fun _ a => a) cvtif :=
  laneBody_dst (.inl hd)
    (fun _ _ _ _ he h => rdKeeps_bind (rdKeeps_sourceA h _ (he ▸ ha)) (fun _ => rdKeeps_rounded h _))
    (fun _ _ _ _ => out32_isWords _)

theorem cvtii_lane (hd : e.d = .dst .wty) (ha : e.a = .src .wopt) : LaneBody e (fun _ a => a) cvtii :=
  laneBody_dst (.inl hd) (fun _ _ _ _ he h => rdKeeps_sourceA h _ (he ▸ ha)) (fun cx _ _ he => he ▸ intOut_isWords cx _)

theorem unpk8_lane (hd : e.d = .dst .w32) (ha : e.a = .src .w32) : LaneBody e (fun _ a => a) unpk8 :=
  laneBody_dst (.inl hd) (fun _ _ _ _ he h => rdKeeps_sourceA h _ (he ▸ ha)) (fun _ _ _ _ => out32_isWords _)

theorem unpk4_lane (hd : e.d = .dst .w32) (ha : e.a = .src .w32) (hb : e.b = .src .w32) : LaneBody e (fun _ a => a) unpk4 :=
  laneBody_dst (.inl hd) (fun _ _ _ _ he h => rdKeeps_both h _ _ (he ▸ ha) (he ▸ hb)) (fun _ _ _ _ => out32_isWords _)

theorem unpkds_lane (hd : e.d = .dst .w32) (ha : e.a = .src .w32) (hb : e.b = .src .w32) : LaneBody e (fun _ a => a) unpkds :=
  laneBody_dst (.inl hd) (fun _ _ _ _ he h => rdKeeps_both h _ _ (he ▸ ha) (he ▸ hb)) (fun _ _ _ _ => out32_isWords _)

theorem pack8_lane (hd : e.d = .both .w32) (ha : e.a = .src .w32) (hb : e.b = .src .w32) : LaneBody e (fun _ a => a) pack8 :=
  laneBody_dst (.inr hd)
    (fun _ _ _ _ he h => rdKeeps_bind (rdKeeps_sourceA h _ (he ▸ ha)) (fun _ =>
      rdKeeps_bind (rdKeeps_sourceB h _ (he ▸ hb)) (fun _ =>
      rdKeeps_bind (rdKeeps_sourceD h _ (he ▸ hd)) (fun _ => rdKeeps_roundedTwice h _))))
    (fun _ _ _ _ => out32_isWords _)

theorem pack4_lane (hd : e.d = .both .w32) (ha : e.a = .src .w32) (hb : e.b = .src .w32) : LaneBody e (fun _ a => a) pack4 :=
  laneBody_dst (.inr hd)
    (fun _ _ _ _ he h => rdKeeps_bind (rdKeeps_sourceA h _ (he ▸ ha)) (fun _ =>
      rdKeeps_bind (rdKeeps_sourceB h _ (he ▸ hb)) (fun _ =>
      rdKeeps_bind (rdKeeps_sourceD h _ (he ▸ hd)) (fun _ => rdKeeps_rounded h _))))
    (fun _ _ _ _ => out32_isWords _)

theorem packds_lane (hd : e.d = .both .w32) (ha : e.a = .src .w32) (hb : e.b = .src .w32) : LaneBody e (fun _ a => a) packds :=
  laneBody_dst (.inr hd) (fun _ _ _ _ he h => rdKeeps_three h _ _ _ (he ▸ ha) (he ▸ hb) (he ▸ hd))
    (fun _ _ _ _ => out32_isWords _)

theorem cvt2_lane (hd : e.d = .dst .w32) (ha : e.a = .src .w32) (hb : e.b = .src .w32) : LaneBody e (fun _ a => a) cvt2 :=
  laneBody_dst (.inl hd)
    (fun _ _ _ _ he h => rdKeeps_bind (rdKeeps_sourceA h _ (he ▸ ha)) (fun _ =>
      rdKeeps_bind (rdKeeps_sourceB h _ (he ▸ hb)) (fun _ => rdKeeps_roundedTwice h _)))
    (fun _ _ _ _ => out32_isWords _)

/-! ### The shapes of comparisons -/

theorem isetp_lane (ha : e.a = .src .wn) (hb : e.b = .src .wn) :
    LaneBody e (fun c a => { a with preds := [c.f.d.toNat % 8] }) isetp :=
  laneBody_preds (ps := fun f => [f.d.toNat % 8]) (fun _ _ _ _ he h => rdKeeps_both h _ _ (he ▸ ha) (he ▸ hb))
    (fun _ _ _ => ⟨by simp, rfl⟩)

theorem fsetp_lane (ha : e.a = .src .w32) (hb : e.b = .src .w32) :
    LaneBody e (fun c a => { a with preds := [c.f.d.toNat % 8] }) fsetp :=
  laneBody_preds (ps := fun f => [f.d.toNat % 8]) (fun _ _ _ _ he h => rdKeeps_both h _ _ (he ▸ ha) (he ▸ hb))
    (fun _ _ _ => ⟨by simp, rfl⟩)

theorem hsetp2_lane (ha : e.a = .src .w32) (hb : e.b = .src .w32) :
    LaneBody e (fun c a => { a with preds := [c.f.d.toNat % 8, c.f.d.toNat % 8 + 1] }) hsetp2 :=
  laneBody_preds (ps := fun f => [f.d.toNat % 8, f.d.toNat % 8 + 1])
    (fun _ _ _ _ he h => rdKeeps_both h _ _ (he ▸ ha) (he ▸ hb)) (fun _ _ _ => ⟨by simp, rfl⟩)

end

/-! ### Every arithmetic instruction -/

/-- The frame of an instruction, and of its twin, that writes its destination D only. -/
abbrev DestFrame (base twin : Instr) : Prop := WithTwin (fun i => LaneFrame i (fun _ a => a)) base twin

section
variable (f : FR) (m : Mod)

theorem iadd_frame : DestFrame (.iadd f) (.iaddTwin f m) :=
  laneFrame_withTwin 0x040 rfl (intBin_lane rfl rfl rfl) (fun _ _ _ => ⟨rfl, rfl, rfl, rfl⟩)
theorem isub_frame : DestFrame (.isub f) (.isubTwin f m) :=
  laneFrame_withTwin 0x041 rfl (intBin_lane rfl rfl rfl) (fun _ _ _ => ⟨rfl, rfl, rfl, rfl⟩)
theorem imul_frame : DestFrame (.imul f) (.imulTwin f m) :=
  laneFrame_withTwin 0x042 rfl (intBin_lane rfl rfl rfl) (fun _ _ _ => ⟨rfl, rfl, rfl, rfl⟩)
theorem imulh_frame : DestFrame (.imulh f) (.imulhTwin f m) :=
  laneFrame_withTwin 0x043 rfl (intBin_lane rfl rfl rfl) (fun _ _ _ => ⟨rfl, rfl, rfl, rfl⟩)
theorem imad_frame : DestFrame (.imad f) (.imadTwin f m) :=
  laneFrame_withTwin 0x044 rfl (intTri_lane rfl rfl rfl) (fun _ _ _ => ⟨rfl, rfl, rfl, rfl⟩)
theorem imadw_frame : DestFrame (.imadw f) (.imadwTwin f m) :=
  laneFrame_withTwin 0x045 rfl (imadw_lane rfl rfl rfl) (fun _ _ _ => ⟨rfl, rfl, rfl, rfl⟩)
theorem imin_frame : DestFrame (.imin f) (.iminTwin f m) :=
  laneFrame_withTwin 0x046 rfl (intBin_lane rfl rfl rfl) (fun _ _ _ => ⟨rfl, rfl, rfl, rfl⟩)
theorem imax_frame : DestFrame (.imax f) (.imaxTwin f m) :=
  laneFrame_withTwin 0x047 rfl (intBin_lane rfl rfl rfl) (fun _ _ _ => ⟨rfl, rfl, rfl, rfl⟩)
theorem iabs_frame : DestFrame (.iabs f) (.iabsTwin f m) :=
  laneFrame_withTwin 0x048 rfl (intUn_lane rfl rfl) (fun _ _ _ => ⟨rfl, rfl, rfl, rfl⟩)
theorem ineg_frame : DestFrame (.ineg f) (.inegTwin f m) :=
  laneFrame_withTwin 0x049 rfl (intUn_lane rfl rfl) (fun _ _ _ => ⟨rfl, rfl, rfl, rfl⟩)
theorem isad_frame : DestFrame (.isad f) (.isadTwin f m) :=
  laneFrame_withTwin 0x04C rfl (intTri_lane rfl rfl rfl) (fun _ _ _ => ⟨rfl, rfl, rfl, rfl⟩)
theorem idiv_frame : DestFrame (.idiv f) (.idivTwin f m) :=
  laneFrame_withTwin 0x04A rfl (intDiv_lane rfl rfl rfl) (fun _ _ _ => ⟨rfl, rfl, rfl, rfl⟩)
theorem irem_frame : DestFrame (.irem f) (.iremTwin f m) :=
  laneFrame_withTwin 0x04B rfl (intDiv_lane rfl rfl rfl) (fun _ _ _ => ⟨rfl, rfl, rfl, rfl⟩)
theorem isel_frame : DestFrame (.isel f) (.iselTwin f m) :=
  laneFrame_withTwin 0x04E rfl (isel_lane rfl rfl rfl) (fun _ _ _ => ⟨rfl, rfl, rfl, rfl⟩)
theorem lea_frame : DestFrame (.lea f) (.leaTwin f m) :=
  laneFrame_withTwin 0x04F rfl (lea_lane rfl rfl rfl) (fun _ _ _ => ⟨rfl, rfl, rfl, rfl⟩)
theorem shl_frame : DestFrame (.shl f) (.shlTwin f m) :=
  laneFrame_withTwin 0x050 rfl (shiftBin_lane rfl rfl rfl) (fun _ _ _ => ⟨rfl, rfl, rfl, rfl⟩)
theorem shr_frame : DestFrame (.shr f) (.shrTwin f m) :=
  laneFrame_withTwin 0x051 rfl (shiftBin_lane rfl rfl rfl) (fun _ _ _ => ⟨rfl, rfl, rfl, rfl⟩)
theorem sar_frame : DestFrame (.sar f) (.sarTwin f m) :=
  laneFrame_withTwin 0x052 rfl (shiftBin_lane rfl rfl rfl) (fun _ _ _ => ⟨rfl, rfl, rfl, rfl⟩)
theorem rotl_frame : DestFrame (.rotl f) (.rotlTwin f m) :=
  laneFrame_withTwin 0x053 rfl (shiftBin_lane rfl rfl rfl) (fun _ _ _ => ⟨rfl, rfl, rfl, rfl⟩)
theorem iand_frame : DestFrame (.iand f) (.iandTwin f m) :=
  laneFrame_withTwin 0x054 rfl (bitBin_lane rfl rfl rfl) (fun _ _ _ => ⟨rfl, rfl, rfl, rfl⟩)
theorem ior_frame : DestFrame (.ior f) (.iorTwin f m) :=
  laneFrame_withTwin 0x055 rfl (bitBin_lane rfl rfl rfl) (fun _ _ _ => ⟨rfl, rfl, rfl, rfl⟩)
theorem ixor_frame : DestFrame (.ixor f) (.ixorTwin f m) :=
  laneFrame_withTwin 0x056 rfl (bitBin_lane rfl rfl rfl) (fun _ _ _ => ⟨rfl, rfl, rfl, rfl⟩)
theorem inot_frame : DestFrame (.inot f) (.inotTwin f m) :=
  laneFrame_withTwin 0x057 rfl (read1_lane rfl rfl) (fun _ _ _ => ⟨rfl, rfl, rfl, rfl⟩)
theorem bfe_frame : DestFrame (.bfe f) (.bfeTwin f m) :=
  laneFrame_withTwin 0x058 rfl (shiftBin_lane rfl rfl rfl) (fun _ _ _ => ⟨rfl, rfl, rfl, rfl⟩)
theorem bfi_frame : DestFrame (.bfi f) (.bfiTwin f m) :=
  laneFrame_withTwin 0x059 rfl (bfiRun_lane rfl rfl rfl) (fun _ _ _ => ⟨rfl, rfl, rfl, rfl⟩)
theorem popc_frame : DestFrame (.popc f) (.popcTwin f m) :=
  laneFrame_withTwin 0x05A rfl (count1_lane rfl rfl) (fun _ _ _ => ⟨rfl, rfl, rfl, rfl⟩)
theorem clz_frame : DestFrame (.clz f) (.clzTwin f m) :=
  laneFrame_withTwin 0x05B rfl (count1_lane rfl rfl) (fun _ _ _ => ⟨rfl, rfl, rfl, rfl⟩)
theorem brev_frame : DestFrame (.brev f) (.brevTwin f m) :=
  laneFrame_withTwin 0x05C rfl (read1_lane rfl rfl) (fun _ _ _ => ⟨rfl, rfl, rfl, rfl⟩)
theorem prmt_frame : DestFrame (.prmt f) (.prmtTwin f m) :=
  laneFrame_withTwin 0x05D rfl (word3_lane rfl rfl rfl) (fun _ _ _ => ⟨rfl, rfl, rfl, rfl⟩)
theorem fadd_frame : DestFrame (.fadd f) (.faddTwin f m) :=
  laneFrame_withTwin 0x080 rfl (fpRun_lane true false (.inl rfl) rfl (fun _ => rfl) nofun) (fun _ _ _ => ⟨rfl, rfl, rfl, rfl⟩)
theorem fsub_frame : DestFrame (.fsub f) (.fsubTwin f m) :=
  laneFrame_withTwin 0x081 rfl (fpRun_lane true false (.inl rfl) rfl (fun _ => rfl) nofun) (fun _ _ _ => ⟨rfl, rfl, rfl, rfl⟩)
theorem fmul_frame : DestFrame (.fmul f) (.fmulTwin f m) :=
  laneFrame_withTwin 0x082 rfl (fpRun_lane true false (.inl rfl) rfl (fun _ => rfl) nofun) (fun _ _ _ => ⟨rfl, rfl, rfl, rfl⟩)
theorem ffma_frame : DestFrame (.ffma f) (.ffmaTwin f m) :=
  laneFrame_withTwin 0x083 rfl (fpRun_lane true true (.inr rfl) rfl (fun _ => rfl) (fun _ => rfl))
    (fun _ _ _ => ⟨rfl, rfl, rfl, rfl⟩)
theorem fmin_frame : DestFrame (.fmin f) (.fminTwin f m) :=
  laneFrame_withTwin 0x084 rfl (fpBin_lane rfl rfl rfl) (fun _ _ _ => ⟨rfl, rfl, rfl, rfl⟩)
theorem fmax_frame : DestFrame (.fmax f) (.fmaxTwin f m) :=
  laneFrame_withTwin 0x085 rfl (fpBin_lane rfl rfl rfl) (fun _ _ _ => ⟨rfl, rfl, rfl, rfl⟩)
theorem fabs_frame : DestFrame (.fabs f) (.fabsTwin f m) :=
  laneFrame_withTwin 0x086 rfl (fpUn_lane rfl rfl) (fun _ _ _ => ⟨rfl, rfl, rfl, rfl⟩)
theorem fneg_frame : DestFrame (.fneg f) (.fnegTwin f m) :=
  laneFrame_withTwin 0x087 rfl (fpUn_lane rfl rfl) (fun _ _ _ => ⟨rfl, rfl, rfl, rfl⟩)
theorem fclass_frame : DestFrame (.fclass f) (.fclassTwin f m) :=
  laneFrame_withTwin 0x089 rfl (fpUn_lane rfl rfl) (fun _ _ _ => ⟨rfl, rfl, rfl, rfl⟩)
theorem frcp_frame : DestFrame (.frcp f) (.frcpTwin f m) :=
  laneFrame_withTwin 0x08A rfl (fpUn_lane rfl rfl) (fun _ _ _ => ⟨rfl, rfl, rfl, rfl⟩)
theorem frsq_frame : DestFrame (.frsq f) (.frsqTwin f m) :=
  laneFrame_withTwin 0x08B rfl (fpUn_lane rfl rfl) (fun _ _ _ => ⟨rfl, rfl, rfl, rfl⟩)
theorem fsqrt_frame : DestFrame (.fsqrt f) (.fsqrtTwin f m) :=
  laneFrame_withTwin 0x08C rfl (fpRun_lane false false (.inl rfl) rfl nofun nofun) (fun _ _ _ => ⟨rfl, rfl, rfl, rfl⟩)
theorem fdiv_frame : DestFrame (.fdiv f) (.fdivTwin f m) :=
  laneFrame_withTwin 0x08D rfl (fpRun_lane true false (.inl rfl) rfl (fun _ => rfl) nofun) (fun _ _ _ => ⟨rfl, rfl, rfl, rfl⟩)
theorem fexp2_frame : DestFrame (.fexp2 f) (.fexp2Twin f m) :=
  laneFrame_withTwin 0x08E rfl (fpUn_lane rfl rfl) (fun _ _ _ => ⟨rfl, rfl, rfl, rfl⟩)
theorem flog2_frame : DestFrame (.flog2 f) (.flog2Twin f m) :=
  laneFrame_withTwin 0x08F rfl (fpUn_lane rfl rfl) (fun _ _ _ => ⟨rfl, rfl, rfl, rfl⟩)
theorem ftanh_frame : DestFrame (.ftanh f) (.ftanhTwin f m) :=
  laneFrame_withTwin 0x090 rfl (fpUn_lane rfl rfl) (fun _ _ _ => ⟨rfl, rfl, rfl, rfl⟩)
theorem fsin_frame : DestFrame (.fsin f) (.fsinTwin f m) :=
  laneFrame_withTwin 0x091 rfl (fpUn_lane rfl rfl) (fun _ _ _ => ⟨rfl, rfl, rfl, rfl⟩)
theorem fcos_frame : DestFrame (.fcos f) (.fcosTwin f m) :=
  laneFrame_withTwin 0x092 rfl (fpUn_lane rfl rfl) (fun _ _ _ => ⟨rfl, rfl, rfl, rfl⟩)
theorem fsigm_frame : DestFrame (.fsigm f) (.fsigmTwin f m) :=
  laneFrame_withTwin 0x093 rfl (fpUn_lane rfl rfl) (fun _ _ _ => ⟨rfl, rfl, rfl, rfl⟩)
theorem ferf_frame : DestFrame (.ferf f) (.ferfTwin f m) :=
  laneFrame_withTwin 0x094 rfl (fpUn_lane rfl rfl) (fun _ _ _ => ⟨rfl, rfl, rfl, rfl⟩)
theorem frnd_frame : DestFrame (.frnd f) (.frndTwin f m) :=
  laneFrame_withTwin 0x095 rfl (fpUn_lane rfl rfl) (fun _ _ _ => ⟨rfl, rfl, rfl, rfl⟩)
theorem fscale_frame : DestFrame (.fscale f) (.fscaleTwin f m) :=
  laneFrame_withTwin 0x096 rfl (fpRun_lane true false (.inl rfl) rfl (fun _ => rfl) nofun) (fun _ _ _ => ⟨rfl, rfl, rfl, rfl⟩)
theorem hadd2_frame : DestFrame (.hadd2 f) (.hadd2Twin f m) :=
  laneFrame_withTwin 0x0A0 rfl (packRun_lane false (.inl rfl) rfl rfl nofun) (fun _ _ _ => ⟨rfl, rfl, rfl, rfl⟩)
theorem hsub2_frame : DestFrame (.hsub2 f) (.hsub2Twin f m) :=
  laneFrame_withTwin 0x0A1 rfl (packRun_lane false (.inl rfl) rfl rfl nofun) (fun _ _ _ => ⟨rfl, rfl, rfl, rfl⟩)
theorem hmul2_frame : DestFrame (.hmul2 f) (.hmul2Twin f m) :=
  laneFrame_withTwin 0x0A2 rfl (packRun_lane false (.inl rfl) rfl rfl nofun) (fun _ _ _ => ⟨rfl, rfl, rfl, rfl⟩)
theorem hfma2_frame : DestFrame (.hfma2 f) (.hfma2Twin f m) :=
  laneFrame_withTwin 0x0A3 rfl (packRun_lane true (.inr rfl) rfl rfl (fun _ => rfl)) (fun _ _ _ => ⟨rfl, rfl, rfl, rfl⟩)
theorem hmin2_frame : DestFrame (.hmin2 f) (.hmin2Twin f m) :=
  laneFrame_withTwin 0x0A4 rfl (fpBin_lane rfl rfl rfl) (fun _ _ _ => ⟨rfl, rfl, rfl, rfl⟩)
theorem hmax2_frame : DestFrame (.hmax2 f) (.hmax2Twin f m) :=
  laneFrame_withTwin 0x0A5 rfl (fpBin_lane rfl rfl rfl) (fun _ _ _ => ⟨rfl, rfl, rfl, rfl⟩)
theorem habs2_frame : DestFrame (.habs2 f) (.habs2Twin f m) :=
  laneFrame_withTwin 0x0A6 rfl (fpUn_lane rfl rfl) (fun _ _ _ => ⟨rfl, rfl, rfl, rfl⟩)
theorem hdot2_frame : DestFrame (.hdot2 f) (.hdot2Twin f m) :=
  laneFrame_withTwin 0x0A8 rfl (fpRun_lane true true (.inr rfl) rfl (fun _ => rfl) (fun _ => rfl))
    (fun _ _ _ => ⟨rfl, rfl, rfl, rfl⟩)
theorem htanh2_frame : DestFrame (.htanh2 f) (.htanh2Twin f m) :=
  laneFrame_withTwin 0x0A9 rfl (fpUn_lane rfl rfl) (fun _ _ _ => ⟨rfl, rfl, rfl, rfl⟩)
theorem hrcp2_frame : DestFrame (.hrcp2 f) (.hrcp2Twin f m) :=
  laneFrame_withTwin 0x0AA rfl (fpUn_lane rfl rfl) (fun _ _ _ => ⟨rfl, rfl, rfl, rfl⟩)
theorem cvtf_frame : DestFrame (.cvtf f) (.cvtfTwin f m) :=
  laneFrame_withTwin 0x0C0 rfl (cvtf_lane rfl rfl) (fun _ _ _ => ⟨rfl, rfl, rfl, rfl⟩)
theorem cvti_frame : DestFrame (.cvti f) (.cvtiTwin f m) :=
  laneFrame_withTwin 0x0C1 rfl (cvti_lane rfl rfl) (fun _ _ _ => ⟨rfl, rfl, rfl, rfl⟩)
theorem cvtif_frame : DestFrame (.cvtif f) (.cvtifTwin f m) :=
  laneFrame_withTwin 0x0C2 rfl (cvtif_lane rfl rfl) (fun _ _ _ => ⟨rfl, rfl, rfl, rfl⟩)
theorem cvtii_frame : DestFrame (.cvtii f) (.cvtiiTwin f m) :=
  laneFrame_withTwin 0x0C3 rfl (cvtii_lane rfl rfl) (fun _ _ _ => ⟨rfl, rfl, rfl, rfl⟩)
theorem pack8_frame : DestFrame (.pack8 f) (.pack8Twin f m) :=
  laneFrame_withTwin 0x0C4 rfl (pack8_lane rfl rfl rfl) (fun _ _ _ => ⟨rfl, rfl, rfl, rfl⟩)
theorem unpk8_frame : DestFrame (.unpk8 f) (.unpk8Twin f m) :=
  laneFrame_withTwin 0x0C5 rfl (unpk8_lane rfl rfl) (fun _ _ _ => ⟨rfl, rfl, rfl, rfl⟩)
theorem unpk4_frame : DestFrame (.unpk4 f) (.unpk4Twin f m) :=
  laneFrame_withTwin 0x0C7 rfl (unpk4_lane rfl rfl rfl) (fun _ _ _ => ⟨rfl, rfl, rfl, rfl⟩)
theorem packds_frame : DestFrame (.packds f) (.packdsTwin f m) :=
  laneFrame_withTwin 0x0C8 rfl (packds_lane rfl rfl rfl) (fun _ _ _ => ⟨rfl, rfl, rfl, rfl⟩)
theorem unpkds_frame : DestFrame (.unpkds f) (.unpkdsTwin f m) :=
  laneFrame_withTwin 0x0C9 rfl (unpkds_lane rfl rfl rfl) (fun _ _ _ => ⟨rfl, rfl, rfl, rfl⟩)
theorem bscale_frame : DestFrame (.bscale f) (.bscaleTwin f m) :=
  laneFrame_withTwin 0x0CA rfl (fpUn_lane rfl rfl) (fun _ _ _ => ⟨rfl, rfl, rfl, rfl⟩)
theorem cvt2_frame : DestFrame (.cvt2 f) (.cvt2Twin f m) :=
  laneFrame_withTwin 0x0CB rfl (cvt2_lane rfl rfl rfl) (fun _ _ _ => ⟨rfl, rfl, rfl, rfl⟩)
theorem pack4_frame : DestFrame (.pack4 f) (.pack4Twin f m) :=
  laneFrame_withTwin 0x0C6 rfl (pack4_lane rfl rfl rfl) (fun _ _ _ => ⟨rfl, rfl, rfl, rfl⟩)

/-! ### Comparisons -/

theorem isetp_frame : WithTwin (fun i => LaneFrame i (fun c a => { a with preds := [c.f.d.toNat % 8] }))
    (.isetp f) (.isetpTwin f m) :=
  laneFrame_withTwin 0x04D rfl (isetp_lane rfl rfl) (fun _ _ _ => ⟨rfl, rfl, rfl, rfl⟩)
theorem fsetp_frame : WithTwin (fun i => LaneFrame i (fun c a => { a with preds := [c.f.d.toNat % 8] }))
    (.fsetp f) (.fsetpTwin f m) :=
  laneFrame_withTwin 0x088 rfl (fsetp_lane rfl rfl) (fun _ _ _ => ⟨rfl, rfl, rfl, rfl⟩)
theorem hsetp2_frame : WithTwin (fun i => LaneFrame i (fun c a => { a with preds := [c.f.d.toNat % 8, c.f.d.toNat % 8 + 1] }))
    (.hsetp2 f) (.hsetp2Twin f m) :=
  laneFrame_withTwin 0x0A7 rfl (hsetp2_lane rfl rfl) (fun _ _ _ => ⟨rfl, rfl, rfl, rfl⟩)

end

/-- Settles O40: every arithmetic instruction is the lane pipeline (`laneFrame_withTwin`) with operands that move only
what their fields name (`RdKeeps`) and a result that is its destination's words or its predicates. -/
theorem arithmeticFrame : Obligations.ArithmeticFrame := by
  unfold Obligations.ArithmeticFrame
  exact ⟨fun f m => ⟨iadd_frame f m, isub_frame f m, imul_frame f m, imulh_frame f m, imad_frame f m, imadw_frame f m,
      imin_frame f m, imax_frame f m, iabs_frame f m, ineg_frame f m, isad_frame f m, idiv_frame f m,
      irem_frame f m, isel_frame f m, lea_frame f m, shl_frame f m, shr_frame f m, sar_frame f m,
      rotl_frame f m, iand_frame f m, ior_frame f m, ixor_frame f m, inot_frame f m, bfe_frame f m,
      bfi_frame f m, popc_frame f m, clz_frame f m, brev_frame f m, prmt_frame f m, fadd_frame f m,
      fsub_frame f m, fmul_frame f m, ffma_frame f m, fmin_frame f m, fmax_frame f m, fabs_frame f m,
      fneg_frame f m, fclass_frame f m, frcp_frame f m, frsq_frame f m, fsqrt_frame f m, fdiv_frame f m,
      fexp2_frame f m, flog2_frame f m, ftanh_frame f m, fsin_frame f m, fcos_frame f m, fsigm_frame f m,
      ferf_frame f m, frnd_frame f m, fscale_frame f m, hadd2_frame f m, hsub2_frame f m, hmul2_frame f m,
      hfma2_frame f m, hmin2_frame f m, hmax2_frame f m, habs2_frame f m, hdot2_frame f m, htanh2_frame f m,
      hrcp2_frame f m, cvtf_frame f m, cvti_frame f m, cvtif_frame f m, cvtii_frame f m, pack8_frame f m,
      unpk8_frame f m, unpk4_frame f m, packds_frame f m, unpkds_frame f m, bscale_frame f m, cvt2_frame f m,
      pack4_frame f m⟩,
    fun f m => ⟨isetp_frame f m, fsetp_frame f m⟩, hsetp2_frame⟩

end Sys2Proof.Machine
end

section
/-! Engine calls that complete (R255, R274, R279, R280): an instruction of the call shape, and its twin, signs as
`callRun_done` says. -/

namespace Sys2Proof.Machine

/-- An instruction that runs as the engine call `rd` completes as one, and so does its twin. -/
theorem callCompletes_withTwin {base : FR → Instr} {twin : FR → Mod → Instr} (f : FR) (m : Mod) {rd : Cx → State → Nat → Rd Sig}
    (op : Nat) (hm : Means base twin op (fun s cx => callRun s cx (rd cx))) :
    WithTwin (fun i => CallCompletes i rd) (base f) (twin f m) := by
  refine ⟨fun s cx key hr hk ok h0 h1 h2 => ?_, fun s cx key hr hk ok h0 h1 h2 => ?_⟩
  · obtain ⟨hv, he, -, -⟩ := hm f m s
    exact he.trans ((coreR_next hv hr).trans (congrArg Host.Outcome.next (callRun_done hk ok h0 h1 h2)))
  · obtain ⟨-, -, hv, he⟩ := hm f m s
    exact he.trans ((coreT_next hv hr).trans (congrArg Host.Outcome.next (callRun_done hk ok h0 h1 h2)))

/-- Settles O19: each of the five engine calls runs as `callRun` of its operands (`callCompletes_withTwin`). -/
theorem engineCallsComplete : Obligations.EngineCallsComplete := by
  unfold Obligations.EngineCallsComplete
  exact ⟨fun f m => callCompletes_withTwin f m 0x140 (fun _ _ _ => ⟨rfl, rfl, rfl, rfl⟩),
    fun f m => callCompletes_withTwin f m 0x141 (fun _ _ _ => ⟨rfl, rfl, rfl, rfl⟩),
    fun f m => callCompletes_withTwin f m 0x142 (fun _ _ _ => ⟨rfl, rfl, rfl, rfl⟩),
    fun f m => callCompletes_withTwin f m 0x143 (fun _ _ _ => ⟨rfl, rfl, rfl, rfl⟩),
    fun f m => callCompletes_withTwin f m 0x14C (fun _ _ _ => ⟨rfl, rfl, rfl, rfl⟩)⟩

end Sys2Proof.Machine
end

section
/-! A step of the package (R22, R122, R131, R139, R294, R308): what the fetch notes of its translations, and what an agent
executes at the word that it stands at. -/

namespace Sys2Proof.Machine

/-! ### What a translation notes -/

/-- Only the translation units, the walks and the groups' miss counters have changed (R344, R358). -/
def NotesMisses (s t : State) : Prop :=
  (∃ w l n g, t = { s with walks := w, tlb := l, nextId := n, groups := g })
    ∧ ∀ j h, getGroup t j = some h → ∃ g, getGroup s j = some g ∧ h = { g with tlbMisses := h.tlbMisses }

theorem notesMisses_refl (s : State) : NotesMisses s s := ⟨⟨_, _, _, _, rfl⟩, fun _ h e => ⟨h, e, rfl⟩⟩

theorem notesMisses_trans {s t u : State} (h : NotesMisses s t) (k : NotesMisses t u) : NotesMisses s u := by
  obtain ⟨⟨w, l, n, g, rfl⟩, hg⟩ := h
  obtain ⟨⟨w', l', n', g', rfl⟩, kg⟩ := k
  refine ⟨⟨w', l', n', g', rfl⟩, fun j x hx => ?_⟩
  obtain ⟨y, hy, ey⟩ := kg j x hx
  obtain ⟨z, hz, ez⟩ := hg j y hy
  refine ⟨z, hz, ?_⟩
  rw [ey, ez]

/-- Memory is not among what a translation notes. -/
theorem NotesMisses.rdByte {s t : State} (h : NotesMisses s t) (a : Nat) : rdByte t a = rdByte s a := by
  obtain ⟨⟨w, l, n, g, rfl⟩, -⟩ := h
  rfl

theorem notesMisses_countMiss (s : State) (gid core ctx va : Nat) : NotesMisses s (countMiss s gid core ctx va) := by
  unfold countMiss
  split
  · refine ⟨⟨_, _, _, _, rfl⟩, fun j h e => ?_⟩
    rw [getGroup_modGroup] at e
    split at e
    · next hj =>
      subst hj
      obtain ⟨g, hg, rfl⟩ := Option.map_eq_some_iff.mp e
      exact ⟨g, hg, rfl⟩
    · exact ⟨h, e, rfl⟩
  · exact notesMisses_refl s

theorem notesMisses_touchUnit (s : State) (unit ctx va : Nat) (x : Exec) : NotesMisses s (touchUnit s unit ctx va x) := by
  unfold touchUnit
  split
  · split
    · exact ⟨⟨_, _, _, _, rfl⟩, fun _ h e => ⟨h, e, rfl⟩⟩
    · unfold askWalk
      split
      · exact ⟨⟨_, _, _, _, rfl⟩, fun _ h e => ⟨h, e, rfl⟩⟩
      · exact ⟨⟨_, _, _, _, rfl⟩, fun _ h e => ⟨h, e, rfl⟩⟩
  · exact notesMisses_refl s

theorem notesMisses_touchWord (s : State) (gid core ctx : Nat) (fl : Flight) (va : Nat) :
    NotesMisses s (touchWord s gid core ctx fl va) := by
  unfold touchWord
  split
  · exact notesMisses_touchUnit _ _ _ _ _
  · exact notesMisses_trans (notesMisses_countMiss _ _ _ _ _) (notesMisses_touchUnit _ _ _ _ _)

/-- The words of a fetch are one or two translations of the group's core. -/
theorem notesMisses_touchFetch (s : State) (gid : Nat) (x : Option W32) : NotesMisses s (touchFetch s gid x) := by
  unfold touchFetch
  split
  · exact notesMisses_refl s
  · split
    · dsimp only
      split
      · exact notesMisses_trans (notesMisses_touchWord _ _ _ _ _ _) (notesMisses_touchWord _ _ _ _ _ _)
      · exact notesMisses_touchWord _ _ _ _ _ _
    · exact notesMisses_refl s

/-! ### What a run fetches -/

/-- A word on a page that may be executed and is not poisoned is fetched. -/
theorem fetchWord_ok {s : State} {core ctx : Nat} {va : W64} {pa : Nat} (ht : translate s core ctx va.toNat .fetch = .ok pa)
    (hp : isPoisoned s (quarterOf pa) = false) : fetchWord s core ctx va = .ok (BitVec.ofNat 32 (rdMem s pa 4)) := by
  unfold fetchWord
  simp [ht, hp]

section
variable {s : State} {gid : Nat} {g : Group} {fl : Flight} {l : Launch} {w x : W32}

/-- A run fetches one word of an instruction that is no twin. -/
theorem fetchLane_single (hg : getGroup s gid = some g) (hf : g.flight = some fl) (hl : mfind s.launches g.launch = some l)
    (hw : fetchWord s g.core l.ctx (slotAddr fl.hdr fl.slot) = .ok w) (ht : isTwin w = false) :
    fetchLane s gid = .word w none := by
  unfold fetchLane
  simp [hg, hf, hl, hw, ht]

/-- A run fetches two words of a twin that has a next slot in its clause. -/
theorem fetchLane_twin (hg : getGroup s gid = some g) (hf : g.flight = some fl) (hl : mfind s.launches g.launch = some l)
    (hw : fetchWord s g.core l.ctx (slotAddr fl.hdr fl.slot) = .ok w) (ht : isTwin w = true) (hs : fl.slot + 1 < hLen fl.w0)
    (hx : fetchWord s g.core l.ctx (slotAddr fl.hdr (fl.slot + 1)) = .ok x) :
    fetchLane s gid = .word w (some x) := by
  unfold fetchLane
  simp [hg, hf, hl, hw, ht, hs, hx]

end

/-! ### What an agent executes -/

section
variable {s : State} {gid k t : Nat} {w : W32} {x : Option W32} {y : SThread} {i : Instr}

theorem stepAgent_word (hf : fetchLane s gid = .word w x) (hd : decodeWord w x = .ok i) :
    stepAgent (.group gid) s = exec i (touchFetch s gid x) := by
  simp only [stepAgent, hf, hd]

/-- A word that is no instruction raises ILLEGAL for its run (R139). -/
theorem stepAgent_illegal (hf : fetchLane s gid = .word w x) (hd : ∀ i, decodeWord w x ≠ .ok i) :
    stepAgent (.group gid) s = .next (trapSlot (touchFetch s gid x) gid w { code := cILLEGAL }) := by
  cases e : decodeWord w x with
  | ok i => exact absurd e (hd i)
  | error r => simp only [stepAgent, hf, e]

theorem stepAgent_trap {tr : Trap} (hf : fetchLane s gid = .trap w tr) :
    stepAgent (.group gid) s = .next (trapFetch s gid w tr) := by
  simp only [stepAgent, hf]

/-- A shroud thread within its routine fetches the word that it stands at (R308). -/
theorem fetchRoutine_word (hx : mfind (getShroud s k).threads t = some y) (hl : y.word < y.len) :
    fetchRoutine s k t = .word (BitVec.ofNat 32 (rdMem s (y.code + 4 * y.word) 4)) := by
  simp [fetchRoutine, fetchShroud, hx, Nat.not_le.mpr hl]

theorem stepAgent_routine (hx : mfind (getShroud s k).threads t = some y) (hl : y.word < y.len)
    (hd : decodeShroud (BitVec.ofNat 32 (rdMem s (y.code + 4 * y.word) 4)) = .ok i) :
    stepAgent (.shroud k t) s = exec i s := by
  simp only [stepAgent, fetchRoutine_word hx hl, hd]

/-- A routine that has fallen past its last word ends there (R295). -/
theorem stepAgent_past (hx : mfind (getShroud s k).threads t = some y) (hl : y.len ≤ y.word) :
    stepAgent (.shroud k t) s = .next (endFault s k t { y with word := y.len } cTARGET) := by
  have hf : fetchRoutine s k t = .past := by simp [fetchRoutine, hx, hl]
  simp only [stepAgent, hf, shroudPast, hx]

theorem stepAgent_routineIllegal (hx : mfind (getShroud s k).threads t = some y) (hl : y.word < y.len)
    (hd : ∀ i, decodeShroud (BitVec.ofNat 32 (rdMem s (y.code + 4 * y.word) 4)) ≠ .ok i) :
    stepAgent (.shroud k t) s = .next (endFault s k t y cILLEGAL) := by
  cases e : decodeShroud (BitVec.ofNat 32 (rdMem s (y.code + 4 * y.word) 4)) with
  | ok i => exact absurd e (hd i)
  | error r => simp only [stepAgent, fetchRoutine_word hx hl, e, shroudIllegal, hx]

end

/-! ### A step -/

section
variable {s : State}

/-- With no turn listed, the current agent goes on. -/
theorem step_of_cur {a : Agent} (ht : (settle (rails s)).turns = []) (hc : (settle (rails s)).cur = a) :
    step s = stepAgent a (settle (rails s)) := by
  unfold step stepTurn
  rw [ht, hc]

theorem step_of_event {i : Instr} {r : List Turn} (ht : (settle (rails s)).turns = .event i :: r) (hi : isEvent i = true) :
    step s = exec i { settle (rails s) with turns := r } := by
  unfold step stepTurn
  rw [ht]
  simp only [hi, if_true]

theorem step_of_agent {a : Agent} {r : List Turn} (ht : (settle (rails s)).turns = .agent a :: r) :
    step s = stepAgent a { settle (rails s) with turns := r, cur := a } := by
  unfold step stepTurn
  rw [ht]

end

/-- Settles O59: a step is its turn's (`step_of_cur`, `step_of_event`, `step_of_agent`), an agent's is decided by what it
fetches (`fetchLane_single`, `fetchLane_twin`, `fetchRoutine_word`), and a fetch notes only its translations
(`notesMisses_touchFetch`). -/
theorem stepRunsDecodedInstruction : Obligations.StepRunsDecodedInstruction := by
  unfold Obligations.StepRunsDecodedInstruction
  intro s
  refine ⟨?single, ?twin, ?notes, ?illegal, ?trap, ?routine, ?past, ?routineIllegal, fun i r => step_of_event, fun a r => step_of_agent⟩
  case single =>
    intro gid g fl l pa i ht hc hg hf hl hpa hp hw hd
    exact (step_of_cur ht hc).trans (stepAgent_word (fetchLane_single hg hf hl (fetchWord_ok hpa hp) hw) hd)
  case twin =>
    intro gid g fl l pa pb i ht hc hg hf hl hpa hp hw hs hpb hq x hd
    exact (step_of_cur ht hc).trans
      (stepAgent_word (fetchLane_twin hg hf hl (fetchWord_ok hpa hp) hw hs (fetchWord_ok hpb hq)) hd)
  case notes =>
    intro gid x
    have h := notesMisses_touchFetch (settle (rails s)) gid x
    exact ⟨h.rdByte, h.1, h.2⟩
  case illegal =>
    exact fun gid w x ht hc hf hd => (step_of_cur ht hc).trans (stepAgent_illegal hf hd)
  case trap =>
    exact fun gid w tr ht hc hf => (step_of_cur ht hc).trans (stepAgent_trap hf)
  case routine =>
    exact fun k t y i ht hc hx hl hd => (step_of_cur ht hc).trans (stepAgent_routine hx hl hd)
  case past =>
    exact fun k t y ht hc hx hl => (step_of_cur ht hc).trans (stepAgent_past hx hl)
  case routineIllegal =>
    exact fun k t y ht hc hx hl hd => (step_of_cur ht hc).trans (stepAgent_routineIllegal hx hl hd)

end Sys2Proof.Machine
end

section
/-! CLAUSE_ISSUE and CANVAS_GRANT (R27, R28, R126, R365, R372). -/

namespace Sys2Proof.Machine

/-- A lane at a clause boundary of a core that is not halted begins the clause of the group that it chooses, when the
clause needs no canvas or its context has quota. -/
theorem clauseIssue_begins {core lane : Nat} {s : State} {gid : Nat} {byGrant : Bool} {passed : List Nat} {g : Group}
    {i : Issue} (hh : (getCore s core).halted = false) (hb : laneBusy s core lane = false)
    (hc : choose (refreshQueue s core) core lane = (some (gid, byGrant), passed))
    (hg : getGroup (refreshQueue s core) gid = some g) (hi : planIssue (refreshQueue s core) g = some i)
    (hq : 0 < issueNeed i → exhausted (refreshQueue s core) (ctxOf (refreshQueue s core) g.launch) = false) :
    exec (.clauseIssue core lane) s = .next
      (let s1 := refreshQueue s core
       let s2 := if issueNeed i = 0 then s1
         else chargeQuota (spendCanvas s1 core gid) (ctxOf s1 g.launch) (65536 * issueNeed i)
       let s3 := passed.foldl (fun s x => modGroup s x (fun g => { g with passOver := false })) s2
       let s4 := if byGrant then modGroup s3 gid (fun g => { g with grant := none, passOver := true }) else s3
       let s5 := if byGrant then s4 else setCore s4 core { getCore s4 core with last := mput (getCore s4 core).last lane g.bound }
       { beginClause s5 gid g i with cur := .group gid }) := by
  have hn : ¬ (decide (0 < issueNeed i) && exhausted (refreshQueue s core) (ctxOf (refreshQueue s core) g.launch)) = true := by
    intro h
    obtain ⟨h1, h2⟩ := Bool.and_eq_true_iff.mp h
    rw [hq (of_decide_eq_true h1)] at h2
    cases h2
  have hr : ¬ ((getCore s core).halted || laneBusy s core lane) = true := by rw [hh, hb]; exact Bool.false_ne_true
  show execClauseIssue core lane s = _
  unfold execClauseIssue
  rw [if_neg hr]
  simp only [hc, hg, hi]
  rw [if_neg hn]

/-- The head of a core's queue is granted when the core holds its units, share units first. -/
theorem canvasGrant_grants {core : Nat} {s : State} {w : CanvasWait} {r : List CanvasWait}
    (hc : (getCore (refreshQueue s core) core).canvas = w :: r) (hw : w.granted = none)
    (hn : w.need ≤ (getCore (refreshQueue s core) core).share + (getCore (refreshQueue s core) core).free) :
    exec (.canvasGrant core) s = .next
      (let s1 := refreshQueue s core
       let c := getCore s1 core
       let a := min c.share w.need
       dropClaim (setCore s1 core { c with
         share := c.share - a, free := c.free - (w.need - a), canvas := { w with granted := some (a, w.need - a) } :: r }) core) := by
  have h : ¬ (w.granted.isSome
      || decide ((getCore (refreshQueue s core) core).share + (getCore (refreshQueue s core) core).free < w.need)) = true := by
    simp [hw, hn]
  show execCanvasGrant core s = _
  unfold execCanvasGrant
  simp only [hc]
  rw [if_neg h]

/-- Settles O30: the two events are read off at a group that may begin (`clauseIssue_begins`) and a head that may be
granted (`canvasGrant_grants`). -/
theorem clausesIssue : Obligations.ClausesIssue := by
  unfold Obligations.ClausesIssue
  exact ⟨fun core lane s gid byGrant passed g i hh hb hc hg hi hq => clauseIssue_begins hh hb hc hg hi hq,
    fun core s w r hc hw hn => canvasGrant_grants hc hw hn⟩

end Sys2Proof.Machine
end

section
/-! Engine events on ready operations (R37, R101, R242, R268, R278-R281, R339). The close of a commit round is the long one:
each signer's thread is touched by its own signer only. -/

namespace Sys2Proof.Machine

/-! ### Engines, copies, calls, drains and notices -/

/-- An engine takes its next line when no other owns it and no earlier engine of its core goes first. -/
theorem acquireNext_takes {s : State} {o : Op} {lines : List Nat} {l : Nat}
    (hl : lines.find? (fun l => !s.owned.contains (l, o.id)) = some l) (ho : s.owned.any (fun x => x.1 == l) = false)
    (he : earlierEngine s o lines = false) : acquireNext s o lines = { s with owned := s.owned ++ [(l, o.id)] } := by
  unfold acquireNext
  rw [hl]
  simp [ho, he]

section
variable {s : State} {id : Nat} {o : Op}

theorem engineLineAcquire_copy {c : Copy} {ls : List Nat} {l : Nat} (h : Acts s id o) (hk : o.kind = .copy c true ls)
    (hl : (engineLines s o).find? (fun l => !s.owned.contains (l, o.id)) = some l)
    (ho : s.owned.any (fun x => x.1 == l) = false) (he : earlierEngine s o (engineLines s o) = false) :
    exec (.engineLineAcquire id) s = .next { s with owned := s.owned ++ [(l, o.id)] } := by
  refine (onOp_acts h).trans (congrArg Host.Outcome.next ?_)
  simp only [hk]
  exact acquireNext_takes hl ho he

theorem engineLineAcquire_store {n : Nat} {ps : List (List (Loc × Byte))} {pois : List Bool} {l : Nat} (h : Acts s id o)
    (hk : o.kind = .store ps pois) (hw : o.who = .port n)
    (hl : (partLines ps).find? (fun l => !s.owned.contains (l, o.id)) = some l)
    (ho : s.owned.any (fun x => x.1 == l) = false) (he : earlierEngine s o (partLines ps) = false) :
    exec (.engineLineAcquire id) s = .next { s with owned := s.owned ++ [(l, o.id)] } := by
  refine (onOp_acts h).trans (congrArg Host.Outcome.next ?_)
  simp only [hk, hw]
  exact acquireNext_takes hl ho he

/-- A copy that the byte budget and the quota cover, with no older one waiting, reads (R242, R370-R372). -/
theorem copyIssue_reads {c : Copy} {ls : List Nat} (h : Acts s id o) (hk : o.kind = .copy c false ls)
    (hb : 0 < (getCluster s (clusterOf o.core)).balance) (hq : exhausted s o.ctx = false) (hc : olderCopy s o = false) :
    exec (.copyIssue id) s = .next
      (let k := clusterOf o.core
       let cl := getCluster s k
       let x := copyReach (chargeQuota (setCluster s k { cl with balance := cl.balance - c.charge }) o.ctx c.charge) o c
       putOp x.1 { o with deps := visibleDeps x.1 o.core o.ctx .all, kind := .copy x.2 true ls }) := by
  refine (onOp_acts h).trans (congrArg Host.Outcome.next ?_)
  simp only [hk, hq, hc, Bool.or_false, decide_eq_true_eq]
  rw [if_neg (by omega)]

/-- A copy that holds its lines writes, and then its completion goes out (R242). -/
theorem copyComplete_writes {c : Copy} {ls : List Nat} (h : Acts s id o) (hk : o.kind = .copy c true ls)
    (hl : holdsAll s o.id (engineLines s o) = true) :
    exec (.copyComplete id) s = .next
      (wroteEnd (arrive (complete (copyPerform s o c).1 o.ctx c.compl) c.dst (copyPerform s o c).2 false) o) := by
  refine (onOp_acts h).trans (congrArg Host.Outcome.next ?_)
  simp only [hk, hl]
  rfl

/-- A drain that holds its lines, on pages that are there and a region that is, writes (R268). -/
theorem pdrnComplete_writes {d : Drain} {t : Nat} {ls : List Nat} {s' : State} {es : List DEnt}
    (h : Acts s id o) (hk : o.kind = .drain d t ls) (hp : drainPlan s o d t = (s', es, none))
    (hl : holdsAll s' o.id (planLines es) = true)
    (hr : ((mfind s'.teams t).bind (fun t => regionOf t (!d.fine))).isSome = true) :
    exec (.pdrnComplete id) s = .next
      (wroteEnd (arrive (complete (drainPerform s' o d t es false).1 o.ctx d.compl) d.dst (drainPerform s' o d t es false).2
        false) o) := by
  have hn : ((mfind s'.teams t).bind (fun t => regionOf t (!d.fine))).isNone = false := by
    rw [← Option.not_isSome, hr]; rfl
  refine (onOp_acts h).trans (congrArg Host.Outcome.next ?_)
  simp only [hk, hp, hl, hn]
  rfl

end

/-- The oldest notice receives a block, a frame of its own (R339). -/
theorem arenaBlockNotice_gives {s : State} {id : Nat} {r : List Nat} {o : Op} {c : Ctx} {f : Nat} {s' : State}
    (hn : s.notices = id :: r) (ho : findOp { s with notices := r } id = some o) (hc : mfind s.ctxs o.ctx = some c)
    (hb : c.arenaBlocks < c.arenaMax) (hf : allocFrame { s with notices := r } = some (f, s')) :
    exec .arenaBlockNotice s = .next
      (modRecord s' o.ctx (fun c => { c with arenaBlocks := c.arenaBlocks + 1, grown := c.grown ++ [f] })) := by
  show execArenaBlockNotice s = _
  unfold execArenaBlockNotice
  rw [hn]
  simp only [ho, hc, hb, if_true, hf]

/-! ### What the handling of one signer touches -/

/-- Teams, launches, kernels and sequence words are as they were. -/
def SameOwners (s u : State) : Prop :=
  u.teams = s.teams ∧ u.launches = s.launches ∧ u.kernels = s.kernels ∧ u.seqWords = s.seqWords

/-- Of the threads, only those that `p` names may have changed; a group keeps its threads' number and a grant. -/
def TouchesOnly (p : Tid → Prop) (s u : State) : Prop :=
  SameOwners s u ∧ ∀ j g, getGroup s j = some g → ∃ h, getGroup u j = some h ∧ h.threads.length = g.threads.length
    ∧ (g.grant.isSome = true → h.grant.isSome = true) ∧ ∀ i, ¬ p ⟨j, i⟩ → thread h i = thread g i

section
variable {p : Tid → Prop} {s t u : State}

theorem touchesOnly_refl (s : State) : TouchesOnly p s s :=
  ⟨⟨rfl, rfl, rfl, rfl⟩, fun _ g hg => ⟨g, hg, rfl, id, fun _ _ => rfl⟩⟩

theorem touchesOnly_trans (h : TouchesOnly p s t) (k : TouchesOnly p t u) : TouchesOnly p s u := by
  obtain ⟨⟨h1, h2, h3, h4⟩, hg⟩ := h
  obtain ⟨⟨k1, k2, k3, k4⟩, kg⟩ := k
  refine ⟨⟨k1.trans h1, k2.trans h2, k3.trans h3, k4.trans h4⟩, fun j g e => ?_⟩
  obtain ⟨x, ex, lx, gx, tx⟩ := hg j g e
  obtain ⟨y, ey, ly, gy, ty⟩ := kg j x ex
  exact ⟨y, ey, ly.trans lx, fun a => gy (gx a), fun i hi => (ty i hi).trans (tx i hi)⟩

theorem touchesOnly_mono {q : Tid → Prop} (h : TouchesOnly p s t) (hq : ∀ x, p x → q x) : TouchesOnly q s t := by
  obtain ⟨h1, hg⟩ := h
  refine ⟨h1, fun j g e => ?_⟩
  obtain ⟨x, ex, lx, gx, tx⟩ := hg j g e
  exact ⟨x, ex, lx, gx, fun i hi => tx i (fun hp => hi (hq _ hp))⟩

/-- A change of a group that is one of its threads' only. -/
theorem touchesOnly_modGroup (gid : Nat) {f : Group → Group} (hl : ∀ g, (f g).threads.length = g.threads.length)
    (hg : ∀ g, g.grant.isSome = true → (f g).grant.isSome = true) (ht : ∀ g i, ¬ p ⟨gid, i⟩ → thread (f g) i = thread g i) :
    TouchesOnly p s (modGroup s gid f) := by
  refine ⟨⟨rfl, rfl, rfl, rfl⟩, fun j g e => ?_⟩
  rw [getGroup_modGroup]
  by_cases hj : j = gid
  · subst hj
    rw [if_pos rfl, e]
    exact ⟨f g, rfl, hl g, hg g, ht g⟩
  · rw [if_neg hj]
    exact ⟨g, e, rfl, id, fun _ _ => rfl⟩

theorem touchesOnly_modThread (x : Tid) (hx : p x) (f : Thread → Thread) : TouchesOnly p s (modThread s x.gid x.tid f) := by
  refine touchesOnly_modGroup _ (fun g => by simp [setThread]) (fun g h => h) (fun g i hi => ?_)
  rcases thread_setThread g x.tid i (f (thread g x.tid)) with e | ⟨e, -⟩
  · exact e
  · subst e
    exact absurd hx hi

theorem touchesOnly_dropWalks (q : Exec → Bool) : TouchesOnly p s (dropWalks s q) :=
  ⟨⟨rfl, rfl, rfl, rfl⟩, fun _ g hg => ⟨g, hg, rfl, id, fun _ _ => rfl⟩⟩

theorem touchesOnly_faults (h : TouchesOnly p s u) (fs : List PageFault) : TouchesOnly p s { u with faults := fs } := h

theorem touchesOnly_postFault (lid gid tid : Nat) (rs : List TrapRec) : TouchesOnly p s (postFault s lid gid tid rs) := by
  unfold postFault postLaunch
  split
  · exact touchesOnly_refl s
  · split
    · exact touchesOnly_refl s
    · exact ⟨⟨rfl, rfl, rfl, rfl⟩, fun _ g hg => ⟨g, hg, rfl, id, fun _ _ => rfl⟩⟩

theorem touchesOnly_deliverUser (x : Tid) (hx : p x) (k : Option Kernel) (lid sub : Nat) (a : TrapAt) (tr : Trap) :
    TouchesOnly p s (deliverUser s k lid x.gid x.tid sub a tr) := by
  unfold deliverUser
  split
  · exact touchesOnly_refl s
  · dsimp only
    split
    · exact touchesOnly_modThread x hx _
    · exact touchesOnly_trans (touchesOnly_modThread x hx _) (touchesOnly_postFault _ _ _ _)

theorem touchesOnly_trapOne (x : Tid) (hx : p x) (k : Option Kernel) (sub ctx lid : Nat) (a : TrapAt) (tr : Trap) :
    TouchesOnly p s (takeTrapsAs s sub k ctx lid x.gid a [(x.tid, tr)]) := by
  have h : TouchesOnly p s (dropWalks (modGroup s x.gid (fun g => leaveRun g x.tid)) (· == runExec s x.gid a.slot)) :=
    touchesOnly_trans (touchesOnly_modGroup (f := fun g => leaveRun g x.tid) x.gid (fun _ => rfl) (fun _ h => h) (fun _ _ _ => rfl))
      (touchesOnly_dropWalks _)
  unfold takeTrapsAs
  simp only [List.foldl_cons, List.foldl_nil]
  split
  · exact touchesOnly_faults (touchesOnly_trans h (touchesOnly_modThread x hx _)) _
  · exact touchesOnly_trans h (touchesOnly_deliverUser x hx _ _ _ _ _)

theorem touchesOnly_releaseSigner (x : Tid) (hx : p x) : TouchesOnly p s (releaseSigner s x) := by
  have hn : TouchesOnly p (modThread s x.gid x.tid (fun t => { t with st := .ready }))
      { modThread s x.gid x.tid (fun t => { t with st := .ready }) with
        nextId := (modThread s x.gid x.tid (fun t => { t with st := .ready })).nextId + 1 } :=
    ⟨⟨rfl, rfl, rfl, rfl⟩, fun _ g hg => ⟨g, hg, rfl, id, fun _ _ => rfl⟩⟩
  refine touchesOnly_trans (touchesOnly_modThread x hx _) (touchesOnly_trans hn ?_)
  refine touchesOnly_modGroup _ (fun g => ?_) (fun g h => ?_) (fun g i _ => ?_)
  · split <;> rfl
  · split
    · rfl
    · exact h
  · split <;> rfl

end

/-! ### One signer of a closing commit round -/

/-- The thread stands at its REJN.CMT. -/
def AwaitsCommit (th : Thread) : Prop := ∃ c hdr slot sub, th.st = .waiting (.commit c hdr slot sub)

section
variable {s : State} {t : Team} {x : Tid} {g : Group}

theorem threadAt_eq (hg : getGroup s x.gid = some g) : threadAt s x = thread g x.tid := by
  unfold threadAt
  rw [hg]

/-- A thread that does not stand at its REJN.CMT is left as it is. -/
theorem commitSigner_settled (h : ¬ AwaitsCommit (threadAt s x)) : commitSigner s t x = s := by
  unfold commitSigner
  dsimp only
  split
  · next c hdr slot sub e => exact absurd ⟨c, hdr, slot, sub, e⟩ h
  · rfl

theorem touchesOnly_commitSigner {p : Tid → Prop} (hx : p x) : TouchesOnly p s (commitSigner s t x) := by
  unfold commitSigner
  dsimp only
  split
  · split
    · exact touchesOnly_trans (touchesOnly_modThread x hx _) (touchesOnly_trapOne x hx _ _ _ _ _ _)
    · split
      · split
        · exact touchesOnly_trapOne x hx _ _ _ _ _ _
        · exact touchesOnly_releaseSigner x hx
      · exact touchesOnly_releaseSigner x hx
  · exact touchesOnly_refl s

/-- What a commit round's close looks for among a thread's deferred traps. -/
def commitNames (d : Deferred) : Bool := d.flag == 15 || [0x140, 0x141, 0x142, 0x143, 0x14C].contains (d.opcode % 512)

/-- A signer whose sequence slot shows no telltale is released (R36, R37). -/
theorem commitSigner_release {c hdr slot sub} (hg : getGroup s x.gid = some g)
    (hs : (thread g x.tid).st = .waiting (.commit c hdr slot sub)) (hd : takeDeferred commitNames (thread g x.tid).deferred = none)
    (hk : ∀ k, (thread g x.tid).seq = some k → tripped s k = false) : commitSigner s t x = releaseSigner s x := by
  unfold commitNames at hd
  unfold commitSigner
  simp only [threadAt_eq hg, hs, hd]
  split
  · next k e => simp [hk k e]
  · rfl

/-- A signer whose sequence slot shows a telltale takes TELLTALE at its REJN.CMT (R383). -/
theorem commitSigner_telltale {c hdr slot sub k} (hg : getGroup s x.gid = some g)
    (hs : (thread g x.tid).st = .waiting (.commit c hdr slot sub)) (hd : takeDeferred commitNames (thread g x.tid).deferred = none)
    (hk : (thread g x.tid).seq = some k) (ht : tripped s k = true) :
    commitSigner s t x = takeTrapsAs s sub (kernelOf s t.launch) (ctxOf s t.launch) t.launch x.gid
      { hdr := hdr, slot := slot, opcode := 0x00B, ext := false, uniform := false, header := false }
      [(x.tid, { code := cTELLTALE, info := k })] := by
  unfold commitNames at hd
  unfold commitSigner
  simp only [threadAt_eq hg, hs, hd, hk, ht, if_true]
  rfl

theorem thread_setThread_self {i : Nat} (hi : i < g.threads.length) (th : Thread) : thread (setThread g i th) i = th := by
  simp [thread, setThread, hi]

/-- A released signer is READY and its group holds a grant. -/
theorem releaseSigner_thread (hg : getGroup s x.gid = some g) (hi : x.tid < g.threads.length) :
    ∃ h, getGroup (releaseSigner s x) x.gid = some h ∧ thread h x.tid = { thread g x.tid with st := .ready }
      ∧ h.grant.isSome = true := by
  have hr : getGroup (modThread s x.gid x.tid (fun t => { t with st := .ready })) x.gid
      = some (setThread g x.tid { thread g x.tid with st := .ready }) := by
    rw [modThread, getGroup_modGroup, if_pos rfl, hg]
    rfl
  refine ⟨_, (getGroup_modGroup _ _ _ _).trans ((if_pos rfl).trans (congrArg _ hr)), ?_, ?_⟩
  · dsimp only
    split <;> exact thread_setThread_self hi _
  · dsimp only
    split
    · rfl
    · next h => simpa [Option.isSome_iff_ne_none] using h

/-- A thread outside handler mode, of a kernel with a trap vector, goes there (R350). -/
theorem trapOne_thread {k : Kernel} {v : Nat} {sub ctx lid : Nat} {a : TrapAt} {tr : Trap} (hg : getGroup s x.gid = some g)
    (hi : x.tid < g.threads.length) (hv : k.trapvec = some v) (hh : (thread g x.tid).handler = none) (hc : tr.code ≠ cPAGE) :
    ∃ h, getGroup (takeTrapsAs s sub (some k) ctx lid x.gid a [(x.tid, tr)]) x.gid = some h ∧
      thread h x.tid = { thread g x.tid with
        st := .ready, pc := BitVec.ofNat 64 (k.text + v), trap := recordOf a tr, handler := some (handlerOf a tr) } := by
  have hg1 : getGroup (dropWalks (modGroup s x.gid (fun g => leaveRun g x.tid)) (· == runExec s x.gid a.slot)) x.gid
      = some (leaveRun g x.tid) := by
    show getGroup (modGroup s x.gid _) x.gid = _
    rw [getGroup_modGroup, if_pos rfl, hg]
    rfl
  have hh1 : (thread (leaveRun g x.tid) x.tid).handler = none := hh
  unfold takeTrapsAs
  simp only [List.foldl_cons, List.foldl_nil, hc, false_and, if_false]
  unfold deliverUser
  simp only [hg1, Option.bind_some, hv, hh1]
  unfold modThread
  rw [getGroup_modGroup, if_pos rfl, hg1]
  exact ⟨_, rfl, thread_setThread_self hi _⟩

end

/-! ### All the signers of a closing commit round -/

section
variable {t : Team} {x : Tid}

theorem touchesOnly_commitSigners (l : List Tid) : ∀ s, TouchesOnly (· ∈ l) s (l.foldl (commitSigner · t ·) s) := by
  induction l with
  | nil => exact fun s => touchesOnly_refl s
  | cons y l ih =>
    intro s
    exact touchesOnly_trans (touchesOnly_commitSigner List.mem_cons_self)
      (touchesOnly_mono (ih _) (fun _ h => List.mem_cons_of_mem _ h))

/-- Once a signer no longer stands at its REJN.CMT, its further mentions leave it as it is. -/
theorem commitSigners_settled (l : List Tid) : ∀ s g, getGroup s x.gid = some g → ¬ AwaitsCommit (thread g x.tid) →
    ∃ h, getGroup (l.foldl (commitSigner · t ·) s) x.gid = some h ∧ thread h x.tid = thread g x.tid
      ∧ (g.grant.isSome = true → h.grant.isSome = true) := by
  induction l with
  | nil => exact fun s g hg _ => ⟨g, hg, rfl, id⟩
  | cons y l ih =>
    intro s g hg hs
    rw [List.foldl_cons]
    by_cases hy : y = x
    · subst hy
      rw [commitSigner_settled (by rw [threadAt_eq hg]; exact hs)]
      exact ih s g hg hs
    · obtain ⟨h, eh, -, gh, th⟩ := (touchesOnly_commitSigner (p := (· = y)) (s := s) (t := t) rfl).2 x.gid g hg
      have e : thread h x.tid = thread g x.tid := th x.tid (fun e => hy e.symm)
      obtain ⟨h', e1, e2, e3⟩ := ih _ h eh (by rw [e]; exact hs)
      exact ⟨h', e1, e2.trans e, fun a => e3 (gh a)⟩

/-- A signer is handled once, in a state where its thread is still as the round found it. -/
theorem commitSigners_handles {l : List Tid} (hx : x ∈ l) (s : State) : ∃ s1, TouchesOnly (· ≠ x) s s1 ∧
    ∀ h, getGroup (commitSigner s1 t x) x.gid = some h → ¬ AwaitsCommit (thread h x.tid) →
      ∃ h', getGroup (l.foldl (commitSigner · t ·) s) x.gid = some h' ∧ thread h' x.tid = thread h x.tid
        ∧ (h.grant.isSome = true → h'.grant.isSome = true) := by
  obtain ⟨pre, suf, rfl, hn⟩ := List.eq_append_cons_of_mem hx
  refine ⟨pre.foldl (commitSigner · t ·) s, touchesOnly_mono (touchesOnly_commitSigners pre s) (fun y hy e => hn (e ▸ hy)), ?_⟩
  intro h hh hs
  rw [List.foldl_append, List.foldl_cons]
  exact commitSigners_settled suf _ h hh hs

end

/-! ### The end of the round -/

section
variable {s : State} {key c : Nat} {cl : Cleat}

/-- The second signers of a cleat go on. -/
def wakeSecond (c : Nat) (g : Group) : Group :=
  { g with threads := g.threads.map (fun th => if th.st = .waiting (.second c) then { th with st := .ready } else th) }

theorem thread_wakeSecond {g : Group} {i : Nat} (hs : (thread g i).st ≠ .waiting (.second c)) :
    thread (wakeSecond c g) i = thread g i := by
  unfold thread at hs ⊢
  simp only [wakeSecond, List.getD_eq_getElem?_getD, List.getElem?_map] at hs ⊢
  cases e : g.threads[i]? with
  | none => rfl
  | some th =>
    rw [e] at hs
    simp only [Option.map_some, Option.getD_some] at hs ⊢
    exact if_neg hs

theorem touchesOnly_wakeSeconds (l : List Nat) : ∀ s,
    TouchesOnly (fun x => (threadAt s x).st = .waiting (.second c)) s (l.foldl (fun s gid => modGroup s gid (wakeSecond c)) s) := by
  intro s
  suffices H : ∀ u, TouchesOnly (fun x => (threadAt s x).st = .waiting (.second c)) s u →
      TouchesOnly (fun x => (threadAt s x).st = .waiting (.second c)) s (l.foldl (fun s gid => modGroup s gid (wakeSecond c)) u) from
    H s (touchesOnly_refl s)
  induction l with
  | nil => exact fun u h => h
  | cons gid l ih =>
    intro u h
    refine ih _ ?_
    obtain ⟨ho, hg⟩ := h
    refine ⟨ho, fun j g e => ?_⟩
    obtain ⟨x, ex, lx, gx, tx⟩ := hg j g e
    rw [getGroup_modGroup]
    by_cases hj : j = gid
    · subst hj
      rw [if_pos rfl, ex]
      refine ⟨wakeSecond c x, rfl, by simpa [wakeSecond] using lx, gx, fun i hi => ?_⟩
      have hi' : (thread x i).st ≠ .waiting (.second c) := by
        rw [tx i hi]
        exact fun h => hi ((congrArg Thread.st (threadAt_eq (x := ⟨j, i⟩) e)).trans h)
      rw [thread_wakeSecond hi', tx i hi]
    · rw [if_neg hj]
      exact ⟨x, ex, lx, gx, tx⟩

/-- The end of a round empties its cleat and lets its second signers go on. -/
theorem endRound_touches :
    TouchesOnly (fun x => (threadAt s x).st = .waiting (.second c)) (setCleat s key c { mask := cl.next.getD cl.mask })
      (endRound s key c cl) := by
  unfold endRound
  dsimp only
  split
  · exact touchesOnly_refl _
  · exact touchesOnly_wakeSeconds _ _

end

/-- A covered commit round whose signers' engine work is complete closes (R37). -/
theorem commitClose_closes {s : State} {team cleat : Nat} {t : Team} {fmt : W32} {reg : Nat} (ht : mfind s.teams team = some t)
    (hs : (cleatOf t cleat).sig = some (0x00B, fmt, reg)) (hc : covered s t (cleatOf t cleat) = true)
    (hb : commitBusy s t cleat (cleatOf t cleat) = false) :
    commitClose s team cleat
      = ((cleatOf t cleat).signers.map (·.who)).foldl (commitSigner · t ·) (endRound s team cleat (cleatOf t cleat)) := by
  unfold commitClose
  simp only [ht, hs, hc, hb, List.foldl_map]
  rfl

section
variable {s : State} {team cleat : Nat} {t : Team}

/-- The state in which a signer is handled: its own thread is as the round found it, and so is what decides about it. -/
theorem commitClose_handles {x : Tid} {g : Group} {l : List Tid} (hx : x ∈ l)
    (hg : getGroup s x.gid = some g) (hi : x.tid < g.threads.length) (ha : AwaitsCommit (thread g x.tid)) :
    ∃ s1 g1, getGroup s1 x.gid = some g1 ∧ x.tid < g1.threads.length ∧ thread g1 x.tid = thread g x.tid
      ∧ (∀ k, tripped s1 k = tripped s k) ∧ kernelOf s1 t.launch = kernelOf s t.launch ∧
      ∀ h, getGroup (commitSigner s1 t x) x.gid = some h → ¬ AwaitsCommit (thread h x.tid) →
        ∃ h', getGroup (l.foldl (commitSigner · t ·) (endRound s team cleat (cleatOf t cleat))) x.gid = some h'
          ∧ thread h' x.tid = thread h x.tid ∧ (h.grant.isSome = true → h'.grant.isSome = true) := by
  obtain ⟨⟨-, hl1, hk1, hq1⟩, hg1⟩ := endRound_touches (s := s) (key := team) (c := cleat) (cl := cleatOf t cleat)
  obtain ⟨s1, ⟨⟨-, hl2, hk2, hq2⟩, hg2⟩, hfin⟩ :=
    commitSigners_handles (t := t) hx (endRound s team cleat (cleatOf t cleat))
  obtain ⟨y, ey, ly, -, ty⟩ := hg1 x.gid g hg
  obtain ⟨z, ez, lz, -, tz⟩ := hg2 x.gid y ey
  have hne : (threadAt s x).st ≠ .waiting (.second cleat) := by
    obtain ⟨c, hdr, slot, sub, e⟩ := ha
    rw [threadAt_eq hg, e]
    simp
  refine ⟨s1, z, ez, by omega, (tz x.tid (fun e => e rfl)).trans (ty x.tid hne), fun k => ?_, ?_, hfin⟩
  · unfold tripped seqWord
    rw [hq2, hq1]
    rfl
  · unfold kernelOf getKernel
    rw [hl2, hl1, hk2, hk1]
    rfl

/-- The cleat is empty after its round. -/
theorem commitClose_cleat (ht : mfind s.teams team = some t) (l : List Tid) {v : Team}
    (hv : mfind (l.foldl (commitSigner · t ·) (endRound s team cleat (cleatOf t cleat))).teams team = some v) :
    cleatOf v cleat = { mask := (cleatOf t cleat).next.getD (cleatOf t cleat).mask } := by
  rw [(touchesOnly_commitSigners l _).1.1, (endRound_touches (s := s) (key := team) (c := cleat) (cl := cleatOf t cleat)).1.1] at hv
  simp only [setCleat, modTeam, mfind_mmod, if_true, ht, Option.map_some, Option.some.injEq] at hv
  subst hv
  simp [cleatOf]

end

/-- CMT_ROUND_CLOSE of a covered round of REJN.CMT whose signers' engine work is complete: the cleat is empty, a signer
whose slot shows no telltale is READY with a grant for its group, and every other takes TELLTALE (R37, R383). -/
theorem cmtRoundClose_closes {s : State} {team cleat : Nat} {t : Team} {fmt : W32} {reg : Nat} (ht : mfind s.teams team = some t)
    (hs : (cleatOf t cleat).sig = some (0x00B, fmt, reg)) (hc : covered s t (cleatOf t cleat) = true)
    (hb : commitBusy s t cleat (cleatOf t cleat) = false) :
    ∃ u, exec (.cmtRoundClose team cleat) s = .next u ∧
      (∀ v, mfind u.teams team = some v →
        cleatOf v cleat = { mask := (cleatOf t cleat).next.getD (cleatOf t cleat).mask }) ∧
      ∀ x ∈ (cleatOf t cleat).signers, ∀ g c hdr slot sub, getGroup s x.who.gid = some g → x.who.tid < g.threads.length →
        let th := thread g x.who.tid
        th.st = .waiting (.commit c hdr slot sub) →
        takeDeferred commitNames th.deferred = none →
        ∃ h, getGroup u x.who.gid = some h ∧
          ((∀ k, th.seq = some k → tripped s k = false) → thread h x.who.tid = { th with st := .ready } ∧ h.grant.isSome = true) ∧
          (∀ k kern v, th.seq = some k → tripped s k = true → kernelOf s t.launch = some kern → kern.trapvec = some v →
            th.handler = none →
            let a : TrapAt := { hdr := hdr, slot := slot, opcode := 0x00B, ext := false, uniform := false, header := false }
            let tr : Trap := { code := cTELLTALE, info := k }
            thread h x.who.tid = { th with
              st := .ready, pc := BitVec.ofNat 64 (kern.text + v), trap := recordOf a tr, handler := some (handlerOf a tr) }) := by
  refine ⟨_, congrArg Host.Outcome.next (commitClose_closes ht hs hc hb), fun v hv => commitClose_cleat ht _ hv, ?_⟩
  intro x hx g c hdr slot sub hg hi th hst hd
  obtain ⟨s1, g1, hg1, hi1, e1, htr, hke, hfin⟩ :=
    commitClose_handles (s := s) (team := team) (t := t) (cleat := cleat) (List.mem_map_of_mem hx) hg hi ⟨c, hdr, slot, sub, hst⟩
  have hst1 : (thread g1 x.who.tid).st = .waiting (.commit c hdr slot sub) := e1 ▸ hst
  have hd1 : takeDeferred commitNames (thread g1 x.who.tid).deferred = none := e1 ▸ hd
  have ready : ∀ b : Thread, b.st = .ready → ¬ AwaitsCommit b := by
    rintro b hb' ⟨c, hdr, slot, sub, e⟩
    rw [hb'] at e
    cases e
  by_cases hk : ∀ k, th.seq = some k → tripped s k = false
  · have hrel := commitSigner_release (t := t) hg1 hst1 hd1 (fun k e => (htr k).trans (hk k ((congrArg Thread.seq e1).symm.trans e)))
    obtain ⟨h, eh, th1, gr⟩ := releaseSigner_thread hg1 hi1
    obtain ⟨h', eh', th2, gr'⟩ := hfin h (by rw [hrel]; exact eh) (ready _ (by rw [th1]))
    refine ⟨h', eh', fun _ => ⟨?_, gr' gr⟩, fun k kern v e ht' => ?_⟩
    · rw [th2, th1, e1]
    · rw [hk k e] at ht'
      cases ht'
  · have hno := hk
    push Not at hk
    obtain ⟨k, hseq, htrip⟩ := hk
    have htrip : tripped s k = true := by simpa using htrip
    have htell := commitSigner_telltale (t := t) hg1 hst1 hd1 ((congrArg Thread.seq e1).trans hseq) ((htr k).trans htrip)
    obtain ⟨y, ey, -⟩ := (endRound_touches (s := s) (key := team) (c := cleat) (cl := cleatOf t cleat)).2 x.who.gid g hg
    obtain ⟨h', eh', -⟩ := (touchesOnly_commitSigners (t := t) ((cleatOf t cleat).signers.map (·.who)) _).2 x.who.gid y ey
    refine ⟨h', eh', fun hk => absurd hk hno, fun k' kern v e ht' hker hv hh => ?_⟩
    obtain rfl : k = k' := Option.some.inj (hseq.symm.trans e)
    rw [hke, hker] at htell
    obtain ⟨h, eh, th1⟩ := trapOne_thread (sub := sub) (ctx := ctxOf s1 t.launch) (lid := t.launch)
      (a := { hdr := hdr, slot := slot, opcode := 0x00B, ext := false, uniform := false, header := false })
      (tr := { code := cTELLTALE, info := k }) hg1 hi1 hv (by rw [e1]; exact hh) (show cTELLTALE ≠ cPAGE by decide)
    obtain ⟨h'', eh'', th2, -⟩ := hfin h (by rw [htell]; exact eh) (ready _ (by rw [th1]))
    obtain rfl : h' = h'' := Option.some.inj (eh'.symm.trans eh'')
    rw [th2, th1, e1]

/-- Settles O29: each event is read off at an operation that may act, and the close of a commit round is
`cmtRoundClose_closes`. -/
theorem enginesAct : Obligations.EnginesAct := by
  unfold Obligations.EnginesAct
  refine ⟨fun id s o c ls l h hk => engineLineAcquire_copy h hk, fun id s o n ps pois l h hk hw => engineLineAcquire_store h hk hw,
    fun id s o c ls h hk => copyIssue_reads h hk, fun id s o c ls h hk => copyComplete_writes h hk, ?mma, ?join, ?norm,
    fun id s o d t ls s' es h hk hp hl hr => pdrnComplete_writes h hk hp hl hr,
    fun team cleat s t fmt reg ht hs hc hb => cmtRoundClose_closes ht hs hc hb,
    fun s id r o c hn ho hc hb f s' hf => arenaBlockNotice_gives hn ho hc hb hf⟩
  case mma =>
    intro id s o c t sg ranks h hk h1 h2
    refine (onOp_acts h).trans (congrArg Host.Outcome.next ?_)
    simp only [hk, h1, h2, and_self, if_true]
  case join =>
    intro id s o c t sg ranks h hk h1
    refine (onOp_acts h).trans (congrArg Host.Outcome.next ?_)
    simp only [hk, h1, if_true]
  case norm =>
    intro id s o c t sg ranks h hk h1
    refine (onOp_acts h).trans (congrArg Host.Outcome.next ?_)
    simp only [hk, h1, if_true, callEnd]

end Sys2Proof.Machine
end

section
/-! What the operands of an instruction whose operation goes in flight read and ask for (R55, R128, R213-R218), and from it the
frame of the instruction and of its twin. -/

namespace Sys2Proof.Machine

/-! ### Register operands -/

/-- A register operand of the form may be read. -/
theorem srcOk_use {c : CoreForm} {u : Use} (h : u ∈ uses c.e c.m c.f) : SrcOk (allowOf c) u.code := by
  refine ⟨fun h1 h2 => ?_, fun h1 => ?_⟩
  · simp only [allowOf, List.mem_map, List.mem_filter, decide_eq_true_eq]
    exact ⟨u, ⟨h, h1, h2⟩, rfl⟩
  · simp only [allowOf, Bool.or_eq_true, List.any_eq_true, decide_eq_true_eq]
    exact Or.inr ⟨u, h, h1⟩

/-- Field D is a destination of at least n words. -/
theorem destOk_use {c : CoreForm} {u : Use} {n : Nat} (h : u ∈ useOf c.e c.m c.e.d c.f.d.toNat) (hw : u.writes = true)
    (hc : u.code = c.f.d.toNat) (hn : n ≤ u.words) : DestOk (allowOf c) c.f.d.toNat n := by
  refine ⟨u, by simp [allowOf, h, hw], hc, hn, fun h1 h2 => ?_⟩
  have hu : u ∈ uses c.e c.m c.f := by simp [uses, h]
  have := (srcOk_use hu).1
  rw [hc] at this
  exact this h1 h2

/-! ### Reading that asks -/

/-- A reading that moves only what the instruction may change, and gives what `P` says. -/
def Asks {α : Type} (al : Allow) (P : α → Prop) (rd : Rd α) : Prop := RdKeeps al rd ∧ RdGives P rd

section
variable {α β : Type} {al : Allow} {P : β → Prop}

theorem asks_pure {b : β} (h : P b) : Asks al P (pure b) := ⟨rdKeeps_pure _, rdGives_pure h⟩

theorem asks_bind {m : Rd α} {f : α → Rd β} (hm : RdKeeps al m) (hf : ∀ a, Asks al P (f a)) : Asks al P (m >>= f) :=
  ⟨rdKeeps_bind hm (fun a => (hf a).1), rdGives_bind (fun a => (hf a).2)⟩

theorem asks_trap (t : Trap) : Asks al P (trapRd t : Rd β) := ⟨rdKeeps_trap t, fun _ _ _ h => nomatch h⟩

/-- A check, and what goes on when it passes. -/
theorem asks_check {p : Prop} [Decidable p] {t : Trap} {k : PUnit → Rd β} (hk : ∀ u, Asks al P (k u)) :
    Asks al P (if p then trapRd t >>= k else pure PUnit.unit >>= k) := by
  split
  · exact asks_bind (rdKeeps_trap t) hk
  · exact asks_bind (rdKeeps_pure _) hk

theorem rdKeeps_check {p : Prop} [Decidable p] {t : Trap} {k : PUnit → Rd α} (hk : ∀ u, RdKeeps al (k u)) :
    RdKeeps al (if p then trapRd t >>= k else pure PUnit.unit >>= k) := by
  split
  · exact rdKeeps_bind (rdKeeps_trap t) hk
  · exact rdKeeps_bind (rdKeeps_pure _) hk

/-- A check whose failure ends the reading. -/
theorem rdKeeps_guard {p : Prop} [Decidable p] {t : Trap} : RdKeeps al (if p then trapRd t else pure ()) :=
  rdKeeps_ite (rdKeeps_trap t) (rdKeeps_pure _)
theorem rdKeeps_require {p : Prop} [Decidable p] {t : Trap} : RdKeeps al (if p then pure () else trapRd t) :=
  rdKeeps_ite (rdKeeps_pure _) (rdKeeps_trap t)

/-- What a participant has read is what its reading gives. -/
theorem readOne_gives {s : State} {cx : Cx} {rd : Nat → Rd β} {hasD : Bool} {tid : Nat} {g : Got β} (h : RdGives P (rd tid))
    (hg : readOne s cx rd hasD tid = .ok g) : P g.val := by
  obtain ⟨-, w, w1, -, hr, -, -⟩ := readOne_ok hg
  exact h w g.val w1 hr

end

/-! ### Addresses -/

section
variable {al : Allow} {s : State} {cx : Cx}

theorem rdKeeps_alignRd (addr : Nat) (x : Int) (n : Nat) : RdKeeps al (alignRd addr x n) := rdKeeps_require
theorem rdKeeps_poisonRd (tid addr : Nat) (ls : List Loc) : RdKeeps al (poisonRd s cx tid addr ls) := rdKeeps_guard
theorem rdKeeps_remoteRd (a : SAddr) : RdKeeps al (remoteRd cx a) := rdKeeps_guard
theorem rdKeeps_complGranted (w : Nat) : RdKeeps al (complGranted cx w) := rdKeeps_guard

theorem rdKeeps_remotesRd (l : List Nat) : RdKeeps al (remotesRd cx l) := by
  induction l with
  | nil => exact rdKeeps_pure _
  | cons a l ih => exact rdKeeps_bind (rdKeeps_remoteRd _) (fun _ => ih)

/-- A translation that is then noted as touched. -/
theorem rdKeeps_translated (x : Except Trap (List Loc)) (va : Nat) :
    RdKeeps al (do let ls ← liftT x; touch va; pure ls) :=
  rdKeeps_bind (rdKeeps_liftT _) (fun _ => rdKeeps_bind (rdKeeps_touch _) (fun _ => rdKeeps_pure _))

theorem rdKeeps_globalRd (va n : Nat) (a : Acc) : RdKeeps al (globalRd s cx va n a) :=
  rdKeeps_bind (rdKeeps_alignRd _ _ _) (fun _ => rdKeeps_translated _ _)

theorem rdKeeps_recordRd (va : Nat) (a : Acc) : RdKeeps al (recordRd s cx va a) := rdKeeps_translated _ _

theorem rdKeeps_scratchRd (a : Nat) (b : Int) (n : Nat) : RdKeeps al (scratchRd s cx a b n) :=
  rdKeeps_bind (rdKeeps_remoteRd _) (fun _ => rdKeeps_bind (rdKeeps_alignRd _ _ _) (fun _ =>
    rdKeeps_bind (rdKeeps_liftT _) (fun _ => rdKeeps_pure _)))

theorem rdKeeps_ldstRd (tid a : Nat) (b : Int) (acc : Acc) : RdKeeps al (ldstRd s cx tid a b acc) :=
  rdKeeps_ite
    (rdKeeps_bind (rdKeeps_alignRd _ _ _) (fun _ => rdKeeps_bind (rdKeeps_liftT _) (fun _ => rdKeeps_pure _)))
    (rdKeeps_bind (rdKeeps_globalRd _ _ _) (fun _ => rdKeeps_pure _))

theorem rdKeeps_ldaAddr (acc : Acc) (ab : Nat × Int) : RdKeeps al (ldaAddr s cx acc ab) :=
  rdKeeps_bind (rdKeeps_globalRd _ _ _) (fun _ => rdKeeps_pure _)

theorem rdKeeps_tileOps : RdKeeps al (tileOps cx) :=
  rdKeeps_bind (rdKeeps_readBlock _ _) (fun _ => rdKeeps_bind (rdKeeps_remoteRd _) (fun _ =>
    rdKeeps_bind (rdKeeps_alignRd _ _ _) (fun _ => rdKeeps_bind (rdKeeps_alignRd _ _ _) (fun _ => rdKeeps_pure _))))

end

/-! ### Source fields -/

/-- Field A of an entry is read as one operand. -/
def ReadsA (e : Entry) : Prop := ∀ m code, ∃ u ∈ useOf e m e.a code, u.code = code
/-- Field B of an entry is read as one operand. -/
def ReadsB (e : Entry) : Prop := ∀ m code, ∃ u ∈ useOf e m e.b code, u.code = code
/-- Field D of an entry is read as one operand. -/
def ReadsD (e : Entry) : Prop := ∀ m code, ∃ u ∈ useOf e m e.d code, u.code = code

theorem readsA_src {e : Entry} {w : Wd} (h : e.a = .src w) : ReadsA e := fun m code => by simp [useOf, h]
theorem readsA_addr {e : Entry} (h : e.a = .addr) : ReadsA e := fun m code => by simp [useOf, h]
theorem readsB_src {e : Entry} {w : Wd} (h : e.b = .src w) : ReadsB e := fun m code => by simp [useOf, h]
theorem readsB_pair {e : Entry} (h : e.b = .pair) : ReadsB e := fun m code => by simp [useOf, h]
theorem readsD_memStore {e : Entry} (h : e.d = .memStore) : ReadsD e := fun m code => by simp [useOf, h]

section
variable {s : State} {cx : Cx} {c : CoreForm} {tid : Nat}

theorem rdKeeps_fieldA (h : SameForm cx c) (ha : ReadsA c.e) (wide : Bool) : RdKeeps (allowOf c) (readA s cx tid wide) := by
  obtain ⟨-, -, hf⟩ := h
  obtain ⟨u, hu, hc⟩ := ha c.m c.f.a.toNat
  refine rdKeeps_readA _ ?_
  rw [hf, ← hc]
  exact srcOk_use (by simp [uses, hu])

theorem rdKeeps_fieldB (h : SameForm cx c) (hb : ReadsB c.e) (wide : Bool) : RdKeeps (allowOf c) (readB s cx tid wide) := by
  obtain ⟨-, hm, hf⟩ := h
  obtain ⟨u, hu, hc⟩ := hb c.m c.f.b.toNat
  refine rdKeeps_readB _ (fun hl => ?_)
  rw [hm] at hl
  rw [hf, ← hc]
  exact srcOk_use (by simp [uses, hl, hu])

theorem rdKeeps_fieldD (h : SameForm cx c) (hd : ReadsD c.e) (wide : Bool) : RdKeeps (allowOf c) (readD s cx tid wide) := by
  obtain ⟨-, -, hf⟩ := h
  obtain ⟨u, hu, hc⟩ := hd c.m c.f.d.toNat
  refine rdKeeps_readD _ ?_
  rw [hf, ← hc]
  exact srcOk_use (by simp [uses, hu])

theorem rdKeeps_offsetRd (h : SameForm cx c) (hb : ReadsB c.e) : RdKeeps (allowOf c) (offsetRd s cx tid) :=
  rdKeeps_bind (rdKeeps_fieldB h hb _) (fun _ => rdKeeps_pure _)

/-- An address and an offset: the operands of LD and ST, of a scratchpad access, of LDA and STR. -/
theorem rdKeeps_addrOps (h : SameForm cx c) (ha : ReadsA c.e) (hb : ReadsB c.e) (wide : Bool) :
    RdKeeps (allowOf c) (do let a ← readA s cx tid wide; let b ← offsetRd s cx tid; pure (a, b)) :=
  rdKeeps_bind (rdKeeps_fieldA h ha _) (fun _ => rdKeeps_bind (rdKeeps_offsetRd h hb) (fun _ => rdKeeps_pure _))

theorem rdKeeps_storeValue (h : SameForm cx c) (hd : ReadsD c.e) : RdKeeps (allowOf c) (storeValue s cx tid) :=
  rdKeeps_ite (rdKeeps_bind (rdKeeps_readBlock _ _) (fun _ => rdKeeps_pure _)) (rdKeeps_fieldD h hd _)

end

/-! ### The frame of an operation that goes in flight -/

/-- The run stands in the state, in its launch's context. -/
def Runs (s : State) (cx : Cx) : Prop :=
  getGroup s cx.gid = some cx.g ∧ cx.g.flight = some cx.fl ∧ cx.ctx = ctxOf s cx.g.launch

theorem runs_of_runCx {s : State} {op : Nat} {ext : Bool} {e : Entry} {m : Mod} {f : FR} {cx : Cx}
    (h : runCx s op ext e m f = some cx) : Runs s cx := by
  obtain ⟨-, hg, hf, -⟩ := runCx_some h
  refine ⟨hg, hf, ?_⟩
  unfold runCx at h
  split at h
  · split at h
    · cases h
    · split at h
      · rename_i fl l hf hl
        split at h
        · cases h
          simp [ctxOf, hl]
        · cases h
      · cases h
  · cases h

/-- What an issuing run leaves: its frame, up to the end of its hold on the count (R128). -/
def IssuesOnly (kind : OpKind → Bool) (al : Allow) (s : State) (cx : Cx) (t : State) : Prop :=
  ∃ u, Framed (IssueRel al cx.g) (IssuedOp kind (cx.low :: cx.fl.run) cx.gid) true al (cx.low :: cx.fl.run) cx.gid cx.g s u
    ∧ (t = u ∨ t = letGo u cx.gid cx.fl.tok)

/-- Under the entry `e`, `body` issues operations of the kind and changes nothing but what `more` allows, in the states in
which `pre` holds. -/
def IssueBody (e : Entry) (kind : OpKind → Bool) (more : CoreForm → Allow → Allow) (pre : State → Group → Prop)
    (body : State → Cx → State) : Prop :=
  ∀ s cx c, c.e = e → SameForm cx c → fieldOk e c.m e.d c.f.d.toNat = true → Runs s cx → pre s cx.g →
    IssuesOnly kind (more c (allowOf c)) s cx (body s cx)

/-- An instruction that fails a decode check does not run its body. -/
theorem withRun_legal {R : Nat → Thread → Prop} {K : Op → Prop} {cnt : Bool} {al : Allow} {s t : State} {op : Nat}
    {ext legal : Bool} {e : Entry} {m : Mod} {f : FR} {body : Cx → State} {gid : Nat} {g : Group} {fl : Flight}
    (hc : s.cur = .group gid) (hg : getGroup s gid = some g) (hf : g.flight = some fl) (hR : Loose R g)
    (h : withRun s op ext e m f legal body = .next t) :
    Framed R K cnt al (fl.run.headD 0 :: fl.run) gid g s t
      ∨ (legal = true ∧ ∃ cx, runCx s op ext e m f = some cx ∧ cx.gid = gid ∧ cx.g = g ∧ cx.fl = fl ∧ t = body cx) := by
  cases legal with
  | true => exact (withRun_cases hc hg hf hR h).imp id (fun x => ⟨rfl, x⟩)
  | false =>
    rcases withRun_cases (K := K) (cnt := cnt) (al := al) hc hg hf hR h with h' | ⟨cx, hr, rfl, rfl, rfl, -⟩
    · exact .inl h'
    · have e : withRun s op ext e m f false body = .next (trapWhole s cx cx.uni { code := cILLEGAL }) := by
        unfold withRun
        simp [hr, decodeTrap]
      rw [e] at h
      cases h
      exact .inl (framed_trapWhole hR hg hf (fun x hx => List.mem_cons_of_mem _ hx) _ _)

section
variable {kind : OpKind → Bool} {more : CoreForm → Allow → Allow} {pre : State → Group → Prop} {e : Entry}
  {body : State → Cx → State}

/-- The frame of a run from the frame of its body. -/
theorem issueFrame_of_withRun {s t : State} {c : CoreForm} {legal : Bool} {gid : Nat} {g : Group} {fl : Flight}
    (hcur : s.cur = .group gid) (hg : getGroup s gid = some g) (hf : g.flight = some fl) (hpre : pre s g)
    (hl : legal = true → fieldOk c.e c.m c.e.d c.f.d.toNat = true) (hb : IssueBody c.e kind more pre body)
    (h : withRun s c.op c.ext c.e c.m c.f legal (body s) = .next t) :
    ∃ u, Framed (IssueRel (more c (allowOf c)) g) (IssuedOp kind (fl.run.headD 0 :: fl.run) gid) true (more c (allowOf c))
      (fl.run.headD 0 :: fl.run) gid g s u ∧ (t = u ∨ t = letGo u gid fl.tok) := by
  rcases withRun_legal hcur hg hf (issueRel_loose _ g) h with h | ⟨hlegal, cx, hr, rfl, rfl, rfl, rfl⟩
  · exact ⟨t, h, .inl rfl⟩
  · obtain ⟨-, -, -, h4, h5, h6⟩ := runCx_some hr
    exact hb s cx c rfl ⟨h4, h5, h6⟩ (hl hlegal) (runs_of_runCx hr) hpre

/-- An instruction whose operation goes in flight has its frame, and so does its twin. -/
theorem issueFrame_withTwin {base : FR → Instr} {twin : FR → Mod → Instr} {f : FR} {m : Mod} (op : Nat)
    (he : entryOf op = some e) (hb : IssueBody e kind more pre body) (hm : Means base twin op body) :
    WithTwin (fun i => IssueFrame i kind more pre) (base f) (twin f m) := by
  refine ⟨fun s t gid g fl c hc hcur hg hf hpre h => ?_, fun s t gid g fl c hc hcur hg hf hpre h => ?_⟩
  · obtain ⟨hv, hx, -, -⟩ := hm f m s
    rw [coreForm_r hv he] at hc
    cases hc
    rw [hx] at h
    simp only [coreR, withEntry, he] at h
    refine issueFrame_of_withRun (c := ⟨op, false, e, baseMod e, f⟩) hcur hg hf hpre (fun hl => ?_) hb h
    simp only [fieldsOk, Bool.and_eq_true] at hl
    exact hl.1.1
  · obtain ⟨-, -, hv, hx⟩ := hm f m s
    rw [coreForm_t hv he] at hc
    cases hc
    rw [hx] at h
    simp only [coreT, withEntry, he] at h
    refine issueFrame_of_withRun (c := ⟨op + 512, true, e, m, f⟩) hcur hg hf hpre (fun hl => ?_) hb h
    simp only [fieldsOk, Bool.and_eq_true] at hl
    exact hl.2.1.1

end

/-! ### Requests -/

/-- A request for an operation of the kind, with nothing for Maluk to resolve, no list, and the instruction's words of result. -/
def PlainReq (kind : OpKind → Bool) (q : Req) : Prop :=
  (∀ s k, q.prep s k = (s, k)) ∧ (∀ d, kind (q.kind d) = true) ∧ q.list = [] ∧ q.n = none

/-- An instruction whose participants ask for plain operations issues them. -/
theorem issueBody_async {e : Entry} {kind : OpKind → Bool} {flag words : Cx → Nat} {hasD : Bool} {rd : State → Cx → Nat → Rd Req}
    (hd : hasD = true → ∀ cx c, c.e = e → SameForm cx c →
      ∃ u ∈ useOf c.e c.m c.e.d c.f.d.toNat, u.writes = true ∧ u.code = c.f.d.toNat ∧ words cx ≤ u.words)
    (hrd : ∀ s cx c tid, c.e = e → SameForm cx c → Asks (allowOf c) (PlainReq kind) (rd s cx tid)) :
    IssueBody e kind (fun _ a => a) (fun _ _ => True) (fun s cx => asyncExec s cx (flag cx) (words cx) hasD (rd s cx)) := by
  intro s cx c he hc _ hr _
  obtain ⟨hg, hf, -⟩ := hr
  refine asyncExec_framed hg hf rfl (fun tid => (hrd s cx c tid he hc).1) (fun tid g hx => ?_)
  obtain ⟨h1, h2, h3, h4⟩ := readOne_gives (hrd s cx c tid he hc).2 hx
  refine ⟨h1, h2, fun h => absurd h3 h, fun h => ?_⟩
  obtain ⟨u, hu, hw, hcode, hn⟩ := hd h cx c he hc
  rw [h4, hc.2.2]
  exact destOk_use hu hw hcode hn

/-- The result registers of a `.out` field. -/
theorem outUse {e : Entry} {w : Wd} (h : e.d = .out w) {words : Cx → Nat} (hw : ∀ cx, cx.e = e → words cx ≤ if wide e cx.m w then 2 else 1) :
    ∀ cx c, c.e = e → SameForm cx c →
      ∃ u ∈ useOf c.e c.m c.e.d c.f.d.toNat, u.writes = true ∧ u.code = c.f.d.toNat ∧ words cx ≤ u.words := by
  intro cx c he hc
  obtain ⟨h1, h2, -⟩ := hc
  subst he
  refine ⟨⟨c.f.d.toNat, if wide c.e c.m w then 2 else 1, false, true⟩, by simp [useOf, h], rfl, rfl, ?_⟩
  rw [← h2]
  exact hw cx h1

end Sys2Proof.Machine
end

section
/-! The frame of the memory instructions (R106, R111, R213-R228, R245-R248): loads, stores, tiles, semaphores and task records. -/

namespace Sys2Proof.Machine

section
variable {kind : OpKind → Bool} {e : Entry}

/-- The plain issue of a body: nothing more than field D, in every state. -/
abbrev Issues (e : Entry) (kind : OpKind → Bool) (body : State → Cx → State) : Prop :=
  IssueBody e kind (fun _ a => a) (fun _ _ => True) body

/-! ### Loads and stores -/

/-- A load's destination has the words of its TYPE. -/
theorem memLoadUse (hd : e.d = .memLoad) : ∀ cx c, c.e = e → SameForm cx c →
    ∃ u ∈ useOf c.e c.m c.e.d c.f.d.toNat, u.writes = true ∧ u.code = c.f.d.toNat ∧ cx.memWords ≤ u.words := by
  intro cx c he hc
  obtain ⟨-, h2, -⟩ := hc
  subst he
  refine ⟨⟨c.f.d.toNat, (memBytes c.m.ty.toNat + 3) / 4, false, true⟩, by simp [useOf, hd], rfl, rfl, ?_⟩
  rw [← h2]
  exact Nat.le_refl _

theorem ldoUse (hd : e.d = .ldo) : ∀ cx c, c.e = e → SameForm cx c →
    ∃ u ∈ useOf c.e c.m c.e.d c.f.d.toNat, u.writes = true ∧ u.code = c.f.d.toNat ∧ 8 ≤ u.words := by
  intro cx c he _
  subst he
  exact ⟨⟨c.f.d.toNat, 8, false, true⟩, by simp [useOf, hd], rfl, rfl, Nat.le_refl _⟩

theorem loadRun_issues (hd : e.d = .memLoad) (acquire : Bool) {addr : State → Cx → Nat → Rd (Nat × List Loc)}
    (hk : ∀ ls n d, kind (.load ls n d) = true)
    (ha : ∀ s cx c tid, c.e = e → SameForm cx c → RdKeeps (allowOf c) (addr s cx tid)) :
    Issues e kind (fun s cx => loadRun s cx acquire (addr s cx)) :=
  issueBody_async (flag := Cx.seta) (fun _ => memLoadUse hd) (fun s cx c tid he hc =>
    asks_bind (ha s cx c tid he hc) (fun _ => asks_bind (rdKeeps_poisonRd _ _ _) (fun _ =>
      asks_pure ⟨fun _ _ => rfl, fun _ => hk _ _ _, rfl, rfl⟩)))

theorem storeRun_issues (hd : ReadsD e) {rel : State → Cx → Nat → List Dep} {ops : State → Cx → Nat → Rd (Nat × Int)}
    {addr : State → Cx → Nat → Nat × Int → Rd (Nat × List Loc)} (hk : ∀ ps b, kind (.store ps b) = true)
    (ho : ∀ s cx c tid, c.e = e → SameForm cx c → RdKeeps (allowOf c) (ops s cx tid))
    (ha : ∀ s cx tid ab (al : Allow), RdKeeps al (addr s cx tid ab)) :
    Issues e kind (fun s cx => storeRun s cx (rel s cx) (ops s cx) (addr s cx)) :=
  issueBody_async (flag := Cx.setb) (words := fun _ => 1) (hasD := false) nofun (fun s cx c tid he hc =>
    asks_bind (ho s cx c tid he hc) (fun _ => asks_bind (rdKeeps_late (rdKeeps_storeValue hc (he ▸ hd))) (fun _ =>
      asks_bind (ha _ _ _ _ _) (fun _ => asks_pure ⟨fun _ _ => rfl, fun _ => hk _ _, rfl, rfl⟩))))

theorem ldRun_issues (hd : e.d = .memLoad) (hra : ReadsA e) (hrb : ReadsB e) (hk : ∀ ls n d, kind (.load ls n d) = true) :
    Issues e kind ldRun :=
  loadRun_issues hd false hk (fun _ _ _ _ he hc =>
    rdKeeps_bind (rdKeeps_addrOps hc (he ▸ hra) (he ▸ hrb) _) (fun _ => rdKeeps_ldstRd _ _ _ _))

theorem ldsRun_issues (hd : e.d = .memLoad) (hra : ReadsA e) (hrb : ReadsB e) (hk : ∀ ls n d, kind (.load ls n d) = true) :
    Issues e kind ldsRun :=
  loadRun_issues hd false hk (fun _ _ _ _ he hc =>
    rdKeeps_bind (rdKeeps_addrOps hc (he ▸ hra) (he ▸ hrb) _) (fun _ => rdKeeps_scratchRd _ _ _))

theorem ldaRun_issues (hd : e.d = .memLoad) (hra : ReadsA e) (hrb : ReadsB e) (hk : ∀ ls n d, kind (.load ls n d) = true) :
    Issues e kind ldaRun :=
  loadRun_issues hd true hk (fun _ _ _ _ he hc =>
    rdKeeps_bind (rdKeeps_addrOps hc (he ▸ hra) (he ▸ hrb) _) (fun _ => rdKeeps_ldaAddr _ _))

theorem stRun_issues (hd : ReadsD e) (hra : ReadsA e) (hrb : ReadsB e) (hk : ∀ ps b, kind (.store ps b) = true) :
    Issues e kind stRun :=
  storeRun_issues hd hk (fun _ _ _ _ he hc => rdKeeps_addrOps hc (he ▸ hra) (he ▸ hrb) _) (fun _ _ _ _ _ => rdKeeps_ldstRd _ _ _ _)

theorem stsRun_issues (hd : ReadsD e) (hra : ReadsA e) (hrb : ReadsB e) (hk : ∀ ps b, kind (.store ps b) = true) :
    Issues e kind stsRun :=
  storeRun_issues hd hk (fun _ _ _ _ he hc => rdKeeps_addrOps hc (he ▸ hra) (he ▸ hrb) _) (fun _ _ _ _ _ => rdKeeps_scratchRd _ _ _)

theorem strRun_issues (hd : ReadsD e) (hra : ReadsA e) (hrb : ReadsB e) (hk : ∀ ps b, kind (.store ps b) = true) :
    Issues e kind strRun :=
  storeRun_issues (addr := fun s cx _ ab => ldaAddr s cx .write ab) hd hk
    (fun _ _ _ _ he hc => rdKeeps_addrOps hc (he ▸ hra) (he ▸ hrb) _) (fun _ _ _ _ _ => rdKeeps_ldaAddr _ _)

theorem ldoRun_issues (hd : e.d = .ldo) (hra : ReadsA e) (hk : ∀ ls n d, kind (.load ls n d) = true) : Issues e kind ldoRun :=
  issueBody_async (flag := Cx.seta) (words := fun _ => 8) (fun _ => ldoUse hd) (fun _ _ _ _ he hc =>
    asks_bind (rdKeeps_fieldA hc (he ▸ hra) _) (fun _ => asks_check (fun _ =>
      asks_bind (rdKeeps_liftT _) (fun _ => asks_bind (rdKeeps_touch _) (fun _ =>
        asks_bind (rdKeeps_poisonRd _ _ _) (fun _ => asks_pure ⟨fun _ _ => rfl, fun _ => hk _ _ _, rfl, rfl⟩))))))

/-! ### Tiles -/

theorem ldvRun_issues (hd : e.d = .out .w32) (hk : ∀ a b c d, kind (.tileRead a b c d) = true) : Issues e kind ldvRun :=
  issueBody_async (flag := Cx.seta) (words := fun _ => 1) (fun _ => outUse hd (fun _ _ => Nat.le_refl _))
    (fun _ _ _ _ _ _ => asks_bind rdKeeps_tileOps (fun _ => asks_bind (rdKeeps_liftT _) (fun _ =>
      asks_bind (rdKeeps_touch _) (fun _ => asks_bind (rdKeeps_poisonRd _ _ _) (fun _ => asks_bind (rdKeeps_liftT _) (fun _ =>
        asks_pure ⟨fun _ _ => rfl, fun _ => hk _ _ _ _, rfl, rfl⟩))))))

theorem sttRun_issues (hd : e.d = .out .w32) (hk : ∀ a b c d f g h i, kind (.tileWrite a b c d f g h i) = true) :
    Issues e kind sttRun :=
  issueBody_async (flag := Cx.setb) (words := fun _ => 1) (fun _ => outUse hd (fun _ _ => Nat.le_refl _))
    (fun _ _ _ _ _ _ => asks_bind rdKeeps_tileOps (fun _ => asks_bind (rdKeeps_liftT _) (fun _ =>
      asks_bind (rdKeeps_poisonRd _ _ _) (fun _ => asks_bind (rdKeeps_liftT _) (fun _ => asks_bind (rdKeeps_touch _) (fun _ =>
        asks_pure ⟨fun _ _ => rfl, fun _ => hk _ _ _ _ _ _ _ _, rfl, rfl⟩))))))

/-! ### Semaphores -/

theorem semIncRun_issues (set : Bool) (hra : ReadsA e) (hrb : ReadsB e) (hk : ∀ a b c d f, kind (.semInc a b c d f) = true) :
    Issues e kind (fun s cx => semIncRun s cx set) :=
  issueBody_async (flag := Cx.setb) (words := fun _ => 1) (hasD := false) nofun (fun _ _ _ _ he hc =>
    asks_bind (rdKeeps_fieldA hc (he ▸ hra) _) (fun _ => asks_bind (rdKeeps_late (rdKeeps_fieldB hc (he ▸ hrb) _)) (fun _ =>
      asks_bind (rdKeeps_liftT _) (fun _ => asks_pure ⟨fun _ _ => rfl, fun _ => hk _ _ _ _ _, rfl, rfl⟩))))

theorem semRdRun_issues (hd : e.d = .out .w32) (hra : ReadsA e) (hk : ∀ a b c d, kind (.semRead a b c d) = true) :
    Issues e kind semRdRun :=
  issueBody_async (flag := Cx.seta) (words := fun _ => 1) (fun _ => outUse hd (fun _ _ => Nat.le_refl _))
    (fun _ _ _ _ he hc => asks_bind (rdKeeps_fieldA hc (he ▸ hra) _) (fun _ => asks_bind (rdKeeps_liftT _) (fun _ =>
      asks_pure ⟨fun _ _ => rfl, fun _ => hk _ _ _ _, rfl, rfl⟩)))

/-! ### Task records -/

theorem tgpostRun_issues (hra : ReadsA e) (hk : ∀ a b, kind (.post a b) = true) : Issues e kind tgpostRun :=
  issueBody_async (flag := Cx.setb) (words := fun _ => 1) (hasD := false) nofun (fun _ _ _ _ he hc =>
    asks_bind (rdKeeps_fieldA hc (he ▸ hra) _) (fun _ => asks_bind (rdKeeps_alignRd _ _ _) (fun _ =>
      asks_bind (rdKeeps_recordRd _ _) (fun _ => asks_bind (rdKeeps_poisonRd _ _ _) (fun _ =>
        asks_pure ⟨fun _ _ => rfl, fun _ => hk _ _, rfl, rfl⟩)))))

theorem tglinkRun_issues (hd : e.d = .out .w32) (hk : ∀ a b c d, kind (.link a b c d) = true) : Issues e kind tglinkRun :=
  issueBody_async (flag := Cx.setb) (words := fun _ => 1) (fun _ => outUse hd (fun _ _ => Nat.le_refl _))
    (fun _ _ _ _ _ _ => asks_bind (rdKeeps_readBlock _ _) (fun _ => asks_bind (rdKeeps_alignRd _ _ _) (fun _ =>
      asks_bind (rdKeeps_alignRd _ _ _) (fun _ => asks_bind (rdKeeps_recordRd _ _) (fun _ =>
        asks_bind (rdKeeps_poisonRd _ _ _) (fun _ => asks_bind (rdKeeps_recordRd _ _) (fun _ =>
          asks_bind (rdKeeps_poisonRd _ _ _) (fun _ => asks_pure ⟨fun _ _ => rfl, fun _ => hk _ _ _ _, rfl, rfl⟩))))))))

theorem tginitRun_issues (hs : ∀ a b, kind (.store a b) = true) (hg : ∀ a b, kind (.go a b) = true) :
    Issues e kind tginitRun := by
  have hk : ∀ (p : Bool) (va : Nat) (ps : List (List (Loc × Byte))),
      kind (if p then .go va ps else .store ps (ps.map (fun _ => false))) = true := by
    intro p va ps
    cases p with
    | true => exact hg _ _
    | false => exact hs _ _
  exact issueBody_async (flag := Cx.setb) (words := fun _ => 1) (hasD := false) nofun (fun s cx c tid he hc =>
    asks_bind (rdKeeps_readBlock _ _) (fun _ => asks_check (fun _ => asks_bind (rdKeeps_complGranted _) (fun _ =>
      asks_check (fun _ => asks_bind (rdKeeps_alignRd _ _ _) (fun _ => asks_check (fun _ =>
        asks_bind (rdKeeps_recordRd _ _) (fun _ => asks_pure ⟨fun _ _ => rfl, fun _ => hk _ _ _, rfl, rfl⟩))))))))

end

end Sys2Proof.Machine
end

section
/-! The frame of the atomics (R97, R225): the lanes of a run that name one location issue one request. -/

namespace Sys2Proof.Machine

/-! ### What a lane reads -/

section
variable {s : State} {cx : Cx} {c : CoreForm} {tid : Nat}

theorem rdKeeps_atomB (h : SameForm cx c) (cas : Bool) (hb : cas = false → ReadsB c.e) :
    RdKeeps (allowOf c) (atomB s cx tid cas) := by
  unfold atomB
  cases cas with
  | true => exact rdKeeps_bind (rdKeeps_readBlock _ _) (fun _ => rdKeeps_pure _)
  | false => exact rdKeeps_bind (rdKeeps_fieldB h (hb rfl) _) (fun _ => rdKeeps_pure _)

theorem rdKeeps_atomRd (h : SameForm cx c) (scratch cas : Bool) (ha : ReadsA c.e) (hb : cas = false → ReadsB c.e) :
    RdKeeps (allowOf c) (atomRd s cx tid scratch cas) := by
  have last : ∀ x y addr ls, RdKeeps (allowOf c)
      (do poisonRd s cx tid addr ls; pure ({ locs := ls, x := x, y := y } : AReq)) :=
    fun _ _ _ _ => rdKeeps_bind (rdKeeps_poisonRd _ _ _) (fun _ => rdKeeps_pure _)
  refine rdKeeps_bind (rdKeeps_fieldA h ha _) (fun _ => rdKeeps_bind (rdKeeps_late (rdKeeps_atomB h cas hb)) (fun xy => ?_))
  dsimp only
  split
  · exact rdKeeps_bind (rdKeeps_scratchRd _ _ _) (fun al => last _ _ al.1 al.2)
  · exact rdKeeps_bind (rdKeeps_globalRd _ _ _) (fun ls => last _ _ _ ls)

end

/-! ### Requests -/

/-- The lanes of a request are lanes of the run. -/
theorem mem_combineLanes {n : Nat} {gs l : List (Got AReq)} (hl : l ∈ combineLanes n gs) : ∀ g ∈ l, g ∈ gs := by
  induction n generalizing gs with
  | zero => cases hl
  | succ n ih =>
    cases gs with
    | nil => cases hl
    | cons g0 r =>
      simp only [combineLanes, List.mem_cons] at hl
      rcases hl with rfl | hl
      · intro g hg
        rcases List.mem_cons.mp hg with rfl | hg
        · exact List.mem_cons_self
        · exact List.mem_cons_of_mem _ (List.mem_filter.mp hg).1
      · exact fun g hg => List.mem_cons_of_mem _ (List.mem_filter.mp (ih hl g hg)).1

theorem dstFor_regs {cx : Cx} {n : Nat} {ts : List Nat} {first : Bool} : ∀ r ∈ (dstFor cx n ts first).regs, r.1 ∈ ts := by
  intro r hr
  unfold dstFor at hr
  dsimp only at hr
  split at hr
  · simp only [List.mem_map] at hr
    obtain ⟨i, hi, rfl⟩ := hr
    exact hi
  · split at hr <;> cases hr

section
variable {kind : OpKind → Bool} {al : Allow} {s : State} {cx : Cx} {run T : List Nat} {words : Nat}

/-- A lane that may issue: a thread of the run that has not trapped, and whose reading moved only what it may. -/
def LaneReady (al : Allow) (cx : Cx) (run T : List Nat) (g : Got AReq) : Prop :=
  g.tid ∈ run ∧ g.tid ∉ T ∧ Issued al (thread cx.g g.tid) g.work.th ∧ ∀ i ∈ cx.by g.tid, i ∈ run ∧ i ∉ T

theorem issueAtomic_framed (hk : ∀ a b c d, kind (.atomic a b c d) = true) (hd : DestOk al cx.f.d.toNat words) (tok first : Nat)
    (gs : List (Got AReq)) (hgs : ∀ g ∈ gs, LaneReady al cx run T g) {t : State}
    (H : Framed (SplitRel al cx.g T) (IssuedOp kind run cx.gid) true al run cx.gid cx.g s t) :
    Framed (SplitRel al cx.g T) (IssuedOp kind run cx.gid) true al run cx.gid cx.g s (issueAtomic cx words tok first t gs) := by
  cases gs with
  | nil => exact H
  | cons g0 r =>
    refine framed_addOp (framed_foldl (g0 :: r) (fun u g hg H => ?_) t H) _
      ⟨hk _ _ _ _, g0.tid, (hgs g0 List.mem_cons_self).1, rfl⟩
    obtain ⟨hi, hn, hth, hby⟩ := hgs g hg
    refine setPending_framed (framed_modThread H hi (fun _ => g.work.th) (fun b _ => ⟨fun hm => absurd hm hn, fun _ => hth⟩))
      (dstFor_ok hd (fun i hx => (hby i hx).1) _) (fun x hx => (hby x.1 (dstFor_regs x hx)).2)

theorem issueAtomics_framed (hk : ∀ a b c d, kind (.atomic a b c d) = true) (hd : DestOk al cx.f.d.toNat words) (tok first : Nat)
    {got : List (Got AReq)} (n : Nat) (hgs : ∀ g ∈ got, LaneReady al cx run T g) {t : State}
    (H : Framed (SplitRel al cx.g T) (IssuedOp kind run cx.gid) true al run cx.gid cx.g s t) :
    Framed (SplitRel al cx.g T) (IssuedOp kind run cx.gid) true al run cx.gid cx.g s
      ((combineLanes n got).foldl (issueAtomic cx words tok first) t) :=
  framed_foldl _ (fun _ gs hl H =>
    issueAtomic_framed hk hd tok first gs (fun g hg => hgs g (mem_combineLanes hl g hg)) H) t H

end

/-- The requests of the lanes that have read go in flight on one new count. -/
def atomIssue (cx cx' : Cx) (words : Nat) (got : List (Got AReq)) (t : State) : State :=
  let reqs := combineLanes (got.length + 1) got
  reqs.foldl (issueAtomic cx' words t.nextId ((got.head?.map (·.tid)).getD 0))
    (modGroup { t with nextId := t.nextId + 1 } cx.gid (fun g => addTok g t.nextId cx.setb reqs.length))

theorem atomIssue_framed {kind : OpKind → Bool} {al : Allow} {s t : State} {cx cx' : Cx} {run T : List Nat} {words : Nat}
    {got : List (Got AReq)} (hc : cx'.gid = cx.gid) (hk : ∀ a b c d, kind (.atomic a b c d) = true)
    (hd : DestOk al cx'.f.d.toNat words)
    (H : Framed (SplitRel al cx'.g T) (IssuedOp kind run cx'.gid) true al run cx'.gid cx'.g s t)
    (hgs : ∀ g ∈ got, LaneReady al cx' run T g) :
    Framed (SplitRel al cx'.g T) (IssuedOp kind run cx'.gid) true al run cx'.gid cx'.g s (atomIssue cx cx' words got t) := by
  unfold atomIssue
  dsimp only
  rw [← hc]
  exact issueAtomics_framed hk hd _ _ _ hgs (framed_toks (framed_other H rfl) _ (fun h => addTok_toks h _ _ _))

/-! ### The run -/

/-- The participants of an atomic: under U = 1 the lowest thread (R57). -/
def atomDoers (cx : Cx) : List Nat := if cx.uni then [cx.low] else cx.fl.run
/-- The threads that only receive its result. -/
def atomOthers (cx : Cx) : List Nat := if cx.uni then cx.fl.run.filter (· ≠ cx.low) else []

/-- The run without some of its threads. -/
def withoutThreads (cx : Cx) (T : List Nat) : Cx := { cx with fl := { cx.fl with run := cx.fl.run.filter (fun t => !T.contains t) } }

/-- An atomic once its participants have read and the others' destinations are known. -/
def atomEnd (s : State) (cx : Cx) (words : Nat) (r : ReadRes AReq) (po : Bool × List (Nat × Trap)) : State :=
  match r.stall with
  | some b => stallRun s cx b
  | none =>
    match cx.uni, r.traps with
    | true, (_, t) :: _ => trapWhole s cx true t
    | _, _ =>
      if po.1 then stallRun s cx true
      else
        guard63 s (modGroup (atomIssue cx (withoutThreads cx (po.2.map (·.1))) words r.got
          (trapRun (touchAll s cx r.got) cx false (r.traps ++ po.2))) cx.gid (fun g => advance g cx.slots)) cx

theorem atomRun_eq (s : State) (cx : Cx) (scratch cas : Bool) : atomRun s cx scratch cas
    = atomEnd s cx (if cx.wide then 2 else 1) (readAll s cx (fun t => atomRd s cx t scratch cas) false (atomDoers cx))
        (othersD s cx (if cx.wide then 2 else 1) (atomOthers cx)) := rfl

section
variable {al : Allow} {s : State} {cx : Cx} {rd : Nat → Rd AReq} {others : List (Nat × Trap)}

/-- A thread that has read neither traps itself nor is one of the others. -/
theorem atomReader_untrapped (ho : ∀ x ∈ others, x.1 ∈ atomOthers cx) {i : Nat} {g : Got AReq} (hi : i ∈ atomDoers cx)
    (hg : readOne s cx rd false i = .ok g) :
    i ∉ ((readAll s cx rd false (atomDoers cx)).traps ++ others).map (·.1) := by
  intro hx
  rw [List.map_append, List.mem_append] at hx
  rcases hx with hx | hx
  · obtain ⟨x, hx', rfl⟩ := List.mem_map.mp hx
    obtain ⟨tr, e⟩ := readAll_split x hx'
    rw [hg] at e
    cases e
  · obtain ⟨x, hx', rfl⟩ := List.mem_map.mp hx
    have h := ho x hx'
    unfold atomOthers at h
    unfold atomDoers at hi
    by_cases hu : cx.uni = true
    · simp only [hu, if_true, List.mem_singleton, List.mem_filter, decide_eq_true_eq] at hi h
      exact h.2 hi
    · simp [hu] at h

/-- What a thread that has read may issue, once the traps are taken: under U = 1 no participant has trapped. -/
theorem atomReader_ready (hkey : al.key = false) (hrd : ∀ tid, RdKeeps al (rd tid)) (ho : ∀ x ∈ others, x.1 ∈ atomOthers cx)
    (hu : cx.uni = true → (readAll s cx rd false (atomDoers cx)).traps = []) :
    ∀ g ∈ (readAll s cx rd false (atomDoers cx)).got,
      LaneReady al (withoutThreads cx (others.map (·.1)))
        (cx.low :: cx.fl.run) (((readAll s cx rd false (atomDoers cx)).traps ++ others).map (·.1)) g := by
  intro g hg
  obtain ⟨i, hi, e⟩ := readAll_got.1 g hg
  obtain ⟨rfl, hm⟩ := readOne_moved hrd e
  have hrun : g.tid ∈ cx.low :: cx.fl.run := by
    unfold atomDoers at hi
    split at hi
    · rw [List.mem_singleton.mp hi]; exact List.mem_cons_self
    · exact List.mem_cons_of_mem _ hi
  have hn := atomReader_untrapped ho hi e
  refine ⟨hrun, hn, issued_of_moved hkey hm, fun j hj => ?_⟩
  unfold Cx.by at hj
  split at hj
  · rename_i h1
    have h2 : (readAll s cx rd false (atomDoers cx)).traps = [] := hu h1
    have hj := List.mem_filter.mp hj
    rw [h2, List.nil_append]
    exact ⟨List.mem_cons_of_mem _ hj.1, by simpa using hj.2⟩
  · rw [List.mem_singleton.mp hj]
    exact ⟨hrun, hn⟩

/-- Those that trap at an atomic are threads of its run. -/
theorem atomTraps_run (ho : ∀ x ∈ others, x.1 ∈ atomOthers cx) :
    ∀ x ∈ (readAll s cx rd false (atomDoers cx)).traps ++ others, x.1 ∈ cx.low :: cx.fl.run := by
  intro x hx
  rcases List.mem_append.mp hx with hx | hx
  · have h := readAll_got.2 x hx
    unfold atomDoers at h
    split at h
    · rw [List.mem_singleton.mp h]; exact List.mem_cons_self
    · exact List.mem_cons_of_mem _ h
  · have h := ho x hx
    unfold atomOthers at h
    split at h
    · exact List.mem_cons_of_mem _ (List.mem_filter.mp h).1
    · cases h

end

/-- The frame of an atomic. -/
theorem atomRun_framed {kind : OpKind → Bool} {al : Allow} {s : State} {cx : Cx} {scratch cas : Bool}
    (hg : getGroup s cx.gid = some cx.g) (hf : cx.g.flight = some cx.fl) (hkey : al.key = false)
    (hk : ∀ a b c d, kind (.atomic a b c d) = true) (hrd : ∀ tid, RdKeeps al (atomRd s cx tid scratch cas))
    (hd : DestOk al cx.f.d.toNat (if cx.wide then 2 else 1)) :
    Framed (IssueRel al cx.g) (IssuedOp kind (cx.low :: cx.fl.run) cx.gid) true al (cx.low :: cx.fl.run) cx.gid cx.g s
      (atomRun s cx scratch cas) := by
  have hr : cx.fl.run ⊆ cx.low :: cx.fl.run := fun x hx => List.mem_cons_of_mem _ hx
  have hL := issueRel_loose al cx.g
  have H0 : Framed (IssueRel al cx.g) (IssuedOp kind (cx.low :: cx.fl.run) cx.gid) true al (cx.low :: cx.fl.run) cx.gid cx.g s s :=
    framed_trapped hL (framed_start hg hf hr)
  rw [atomRun_eq]
  have ho := othersD_traps s cx (if cx.wide then 2 else 1) (atomOthers cx)
  generalize othersD s cx (if cx.wide then 2 else 1) (atomOthers cx) = po at ho
  unfold atomEnd
  split
  · exact framed_stall H0 _
  · split
    · exact framed_trapWhole hL hg hf hr _ _
    · rename_i hno
      have hu : cx.uni = true → (readAll s cx (fun t => atomRd s cx t scratch cas) false (atomDoers cx)).traps = [] := by
        intro hu
        cases e : (readAll s cx (fun t => atomRd s cx t scratch cas) false (atomDoers cx)).traps with
        | nil => rfl
        | cons x l => exact absurd e (hno x.1 x.2 l hu)
      have hready := atomReader_ready hkey hrd ho hu
      split
      · exact framed_stall H0 _
      · have H1 := split_traps (K := IssuedOp kind (cx.low :: cx.fl.run) cx.gid) (al := al) hg hf hr
          (readAll s cx (fun t => atomRd s cx t scratch cas) false (atomDoers cx)).got false
          ((readAll s cx (fun t => atomRd s cx t scratch cas) false (atomDoers cx)).traps ++ po.2) (atomTraps_run ho)
        have H2 := atomIssue_framed (cx := cx) (cx' := withoutThreads cx (po.2.map (·.1))) rfl hk hd H1 hready
        exact guard63_framed H0 (framed_advance hL.2 (framed_mono H2 issueRel_of_split) _)

/-- An atomic issues requests. -/
theorem atomRun_issues {kind : OpKind → Bool} {e : Entry} (scratch cas : Bool) (hd : e.d = .out .wn) (ha : ReadsA e)
    (hb : cas = false → ReadsB e) (hk : ∀ a b c d, kind (.atomic a b c d) = true) :
    Issues e kind (fun s cx => atomRun s cx scratch cas) := by
  intro s cx c he hc _ hr _
  subst he
  refine ⟨_, atomRun_framed hr.1 hr.2.1 rfl hk (fun tid => rdKeeps_atomRd hc scratch cas ha hb) ?_, .inl rfl⟩
  obtain ⟨u, hu, hw, hcode, hn⟩ := outUse (words := fun cx => if cx.wide then 2 else 1) hd
    (fun cx he => by rw [← he]; exact Nat.le_refl _) cx c rfl hc
  rw [hc.2.2]
  exact destOk_use hu hw hcode hn

end Sys2Proof.Machine
end

section
/-! The frame of every memory instruction (R22, R25, R26, R59, R128). -/

namespace Sys2Proof.Machine

/-- The frame of an instruction, and of its twin, whose operation goes in flight. -/
abbrev IssueFrames (kind : OpKind → Bool) (base twin : Instr) : Prop := WithTwin (fun i => IssueFrame i kind) base twin

section
variable {kind : OpKind → Bool} (f : FR) (m : Mod)

theorem ld_issueFrame (hk : ∀ ls n d, kind (.load ls n d) = true) :
    IssueFrames kind (.ld f) (.ldTwin f m) :=
  issueFrame_withTwin 0x100 rfl (ldRun_issues rfl (readsA_addr rfl) (readsB_src rfl) hk) (fun _ _ _ => ⟨rfl, rfl, rfl, rfl⟩)
theorem lds_issueFrame (hk : ∀ ls n d, kind (.load ls n d) = true) :
    IssueFrames kind (.lds f) (.ldsTwin f m) :=
  issueFrame_withTwin 0x102 rfl (ldsRun_issues rfl (readsA_src rfl) (readsB_src rfl) hk) (fun _ _ _ => ⟨rfl, rfl, rfl, rfl⟩)
theorem lda_issueFrame (hk : ∀ ls n d, kind (.load ls n d) = true) :
    IssueFrames kind (.lda f) (.ldaTwin f m) :=
  issueFrame_withTwin 0x108 rfl (ldaRun_issues rfl (readsA_src rfl) (readsB_src rfl) hk) (fun _ _ _ => ⟨rfl, rfl, rfl, rfl⟩)
theorem ldo_issueFrame (hk : ∀ ls n d, kind (.load ls n d) = true) :
    IssueFrames kind (.ldo f) (.ldoTwin f m) :=
  issueFrame_withTwin 0x104 rfl (ldoRun_issues rfl (readsA_src rfl) hk) (fun _ _ _ => ⟨rfl, rfl, rfl, rfl⟩)
theorem st_issueFrame (hk : ∀ ps b, kind (.store ps b) = true) :
    IssueFrames kind (.st f) (.stTwin f m) :=
  issueFrame_withTwin 0x101 rfl (stRun_issues (readsD_memStore rfl) (readsA_addr rfl) (readsB_src rfl) hk) (fun _ _ _ => ⟨rfl, rfl, rfl, rfl⟩)
theorem sts_issueFrame (hk : ∀ ps b, kind (.store ps b) = true) :
    IssueFrames kind (.sts f) (.stsTwin f m) :=
  issueFrame_withTwin 0x103 rfl (stsRun_issues (readsD_memStore rfl) (readsA_src rfl) (readsB_src rfl) hk) (fun _ _ _ => ⟨rfl, rfl, rfl, rfl⟩)
theorem str_issueFrame (hk : ∀ ps b, kind (.store ps b) = true) :
    IssueFrames kind (.str f) (.strTwin f m) :=
  issueFrame_withTwin 0x109 rfl (strRun_issues (readsD_memStore rfl) (readsA_src rfl) (readsB_src rfl) hk) (fun _ _ _ => ⟨rfl, rfl, rfl, rfl⟩)
theorem ldv_issueFrame (hk : ∀ a b c d, kind (.tileRead a b c d) = true) :
    IssueFrames kind (.ldv f) (.ldvTwin f m) :=
  issueFrame_withTwin 0x105 rfl (ldvRun_issues rfl hk) (fun _ _ _ => ⟨rfl, rfl, rfl, rfl⟩)
theorem stt_issueFrame (hk : ∀ a b c d f g h i, kind (.tileWrite a b c d f g h i) = true) :
    IssueFrames kind (.stt f) (.sttTwin f m) :=
  issueFrame_withTwin 0x106 rfl (sttRun_issues rfl hk) (fun _ _ _ => ⟨rfl, rfl, rfl, rfl⟩)
theorem seminc_issueFrame (hk : ∀ a b c d f, kind (.semInc a b c d f) = true) :
    IssueFrames kind (.seminc f) (.semincTwin f m) :=
  issueFrame_withTwin 0x124 rfl (semIncRun_issues false (readsA_src rfl) (readsB_src rfl) hk) (fun _ _ _ => ⟨rfl, rfl, rfl, rfl⟩)
theorem semset_issueFrame (hk : ∀ a b c d f, kind (.semInc a b c d f) = true) :
    IssueFrames kind (.semset f) (.semsetTwin f m) :=
  issueFrame_withTwin 0x126 rfl (semIncRun_issues true (readsA_src rfl) (readsB_src rfl) hk) (fun _ _ _ => ⟨rfl, rfl, rfl, rfl⟩)
theorem semrd_issueFrame (hk : ∀ a b c d, kind (.semRead a b c d) = true) :
    IssueFrames kind (.semrd f) (.semrdTwin f m) :=
  issueFrame_withTwin 0x127 rfl (semRdRun_issues rfl (readsA_src rfl) hk) (fun _ _ _ => ⟨rfl, rfl, rfl, rfl⟩)
theorem tgpost_issueFrame (hk : ∀ a b, kind (.post a b) = true) :
    IssueFrames kind (.tgpost f) (.tgpostTwin f m) :=
  issueFrame_withTwin 0x128 rfl (tgpostRun_issues (readsA_src rfl) hk) (fun _ _ _ => ⟨rfl, rfl, rfl, rfl⟩)
theorem tglink_issueFrame (hk : ∀ a b c d, kind (.link a b c d) = true) :
    IssueFrames kind (.tglink f) (.tglinkTwin f m) :=
  issueFrame_withTwin 0x12B rfl (tglinkRun_issues rfl hk) (fun _ _ _ => ⟨rfl, rfl, rfl, rfl⟩)
theorem tginit_issueFrame (hs : ∀ a b, kind (.store a b) = true) (hg : ∀ a b, kind (.go a b) = true) :
    IssueFrames kind (.tginit f) (.tginitTwin f m) :=
  issueFrame_withTwin 0x12A rfl (tginitRun_issues hs hg) (fun _ _ _ => ⟨rfl, rfl, rfl, rfl⟩)

/-! ### Atomics -/

theorem atomAdd_issueFrame (hk : ∀ a b c d, kind (.atomic a b c d) = true) : IssueFrames kind (.atomAdd f) (.atomAddTwin f m) :=
  issueFrame_withTwin 0x10B rfl (atomRun_issues false false rfl (readsA_src rfl) (fun _ => readsB_src rfl) hk)
    (fun _ _ _ => ⟨rfl, rfl, rfl, rfl⟩)
theorem atomFadd_issueFrame (hk : ∀ a b c d, kind (.atomic a b c d) = true) : IssueFrames kind (.atomFadd f) (.atomFaddTwin f m) :=
  issueFrame_withTwin 0x10C rfl (atomRun_issues false false rfl (readsA_src rfl) (fun _ => readsB_src rfl) hk)
    (fun _ _ _ => ⟨rfl, rfl, rfl, rfl⟩)
theorem atomMin_issueFrame (hk : ∀ a b c d, kind (.atomic a b c d) = true) : IssueFrames kind (.atomMin f) (.atomMinTwin f m) :=
  issueFrame_withTwin 0x10D rfl (atomRun_issues false false rfl (readsA_src rfl) (fun _ => readsB_src rfl) hk)
    (fun _ _ _ => ⟨rfl, rfl, rfl, rfl⟩)
theorem atomMax_issueFrame (hk : ∀ a b c d, kind (.atomic a b c d) = true) : IssueFrames kind (.atomMax f) (.atomMaxTwin f m) :=
  issueFrame_withTwin 0x10E rfl (atomRun_issues false false rfl (readsA_src rfl) (fun _ => readsB_src rfl) hk)
    (fun _ _ _ => ⟨rfl, rfl, rfl, rfl⟩)
theorem atomAnd_issueFrame (hk : ∀ a b c d, kind (.atomic a b c d) = true) : IssueFrames kind (.atomAnd f) (.atomAndTwin f m) :=
  issueFrame_withTwin 0x10F rfl (atomRun_issues false false rfl (readsA_src rfl) (fun _ => readsB_src rfl) hk)
    (fun _ _ _ => ⟨rfl, rfl, rfl, rfl⟩)
theorem atomOr_issueFrame (hk : ∀ a b c d, kind (.atomic a b c d) = true) : IssueFrames kind (.atomOr f) (.atomOrTwin f m) :=
  issueFrame_withTwin 0x110 rfl (atomRun_issues false false rfl (readsA_src rfl) (fun _ => readsB_src rfl) hk)
    (fun _ _ _ => ⟨rfl, rfl, rfl, rfl⟩)
theorem atomXor_issueFrame (hk : ∀ a b c d, kind (.atomic a b c d) = true) : IssueFrames kind (.atomXor f) (.atomXorTwin f m) :=
  issueFrame_withTwin 0x111 rfl (atomRun_issues false false rfl (readsA_src rfl) (fun _ => readsB_src rfl) hk)
    (fun _ _ _ => ⟨rfl, rfl, rfl, rfl⟩)
theorem atomXchg_issueFrame (hk : ∀ a b c d, kind (.atomic a b c d) = true) : IssueFrames kind (.atomXchg f) (.atomXchgTwin f m) :=
  issueFrame_withTwin 0x112 rfl (atomRun_issues false false rfl (readsA_src rfl) (fun _ => readsB_src rfl) hk)
    (fun _ _ _ => ⟨rfl, rfl, rfl, rfl⟩)
theorem atomCas_issueFrame (hk : ∀ a b c d, kind (.atomic a b c d) = true) : IssueFrames kind (.atomCas f) (.atomCasTwin f m) :=
  issueFrame_withTwin 0x113 rfl (atomRun_issues false true rfl (readsA_src rfl) nofun hk)
    (fun _ _ _ => ⟨rfl, rfl, rfl, rfl⟩)
theorem atomInc_issueFrame (hk : ∀ a b c d, kind (.atomic a b c d) = true) : IssueFrames kind (.atomInc f) (.atomIncTwin f m) :=
  issueFrame_withTwin 0x114 rfl (atomRun_issues false false rfl (readsA_src rfl) (fun _ => readsB_src rfl) hk)
    (fun _ _ _ => ⟨rfl, rfl, rfl, rfl⟩)
theorem atomDec_issueFrame (hk : ∀ a b c d, kind (.atomic a b c d) = true) : IssueFrames kind (.atomDec f) (.atomDecTwin f m) :=
  issueFrame_withTwin 0x115 rfl (atomRun_issues false false rfl (readsA_src rfl) (fun _ => readsB_src rfl) hk)
    (fun _ _ _ => ⟨rfl, rfl, rfl, rfl⟩)
theorem atomHadd2_issueFrame (hk : ∀ a b c d, kind (.atomic a b c d) = true) : IssueFrames kind (.atomHadd2 f) (.atomHadd2Twin f m) :=
  issueFrame_withTwin 0x116 rfl (atomRun_issues false false rfl (readsA_src rfl) (fun _ => readsB_src rfl) hk)
    (fun _ _ _ => ⟨rfl, rfl, rfl, rfl⟩)
theorem atomsAdd_issueFrame (hk : ∀ a b c d, kind (.atomic a b c d) = true) : IssueFrames kind (.atomsAdd f) (.atomsAddTwin f m) :=
  issueFrame_withTwin 0x117 rfl (atomRun_issues true false rfl (readsA_src rfl) (fun _ => readsB_src rfl) hk)
    (fun _ _ _ => ⟨rfl, rfl, rfl, rfl⟩)
theorem atomsCas_issueFrame (hk : ∀ a b c d, kind (.atomic a b c d) = true) : IssueFrames kind (.atomsCas f) (.atomsCasTwin f m) :=
  issueFrame_withTwin 0x118 rfl (atomRun_issues true true rfl (readsA_src rfl) nofun hk)
    (fun _ _ _ => ⟨rfl, rfl, rfl, rfl⟩)
theorem atomsXchg_issueFrame (hk : ∀ a b c d, kind (.atomic a b c d) = true) : IssueFrames kind (.atomsXchg f) (.atomsXchgTwin f m) :=
  issueFrame_withTwin 0x119 rfl (atomRun_issues true false rfl (readsA_src rfl) (fun _ => readsB_src rfl) hk)
    (fun _ _ _ => ⟨rfl, rfl, rfl, rfl⟩)

end

/-- Settles O42: every memory instruction issues operations of its kind and reads only what its fields name (`IssueBody`),
from which its frame follows (`issueFrame_withTwin`). -/
theorem memoryInstructionFrame : Obligations.MemoryInstructionFrame := by
  unfold Obligations.MemoryInstructionFrame
  refine ⟨fun f m => ?load, fun f m => ?store, fun f m => ldv_issueFrame f m (fun _ _ _ _ => rfl),
    fun f m => stt_issueFrame f m (fun _ _ _ _ _ _ _ _ => rfl), fun f m => ?atomic, fun f m => ?sem,
    fun f m => semrd_issueFrame f m (fun _ _ _ _ => rfl), fun f m => tgpost_issueFrame f m (fun _ _ => rfl),
    fun f m => tglink_issueFrame f m (fun _ _ _ _ => rfl), fun f m => tginit_issueFrame f m (fun _ _ => rfl) (fun _ _ => rfl)⟩
  case load =>
    have hk : ∀ ls n d, (fun k : OpKind => match k with | .load _ _ _ => true | _ => false) (.load ls n d) = true :=
      fun _ _ _ => rfl
    exact ⟨ld_issueFrame f m hk, lds_issueFrame f m hk, lda_issueFrame f m hk, ldo_issueFrame f m hk⟩
  case store =>
    have hk : ∀ ps b, (fun k : OpKind => match k with | .store _ _ => true | _ => false) (.store ps b) = true := fun _ _ => rfl
    exact ⟨st_issueFrame f m hk, sts_issueFrame f m hk, str_issueFrame f m hk⟩
  case atomic =>
    have hk : ∀ a b c d, (fun k : OpKind => match k with | .atomic _ _ _ _ => true | _ => false) (.atomic a b c d) = true :=
      fun _ _ _ _ => rfl
    exact ⟨atomAdd_issueFrame f m hk, atomFadd_issueFrame f m hk, atomMin_issueFrame f m hk, atomMax_issueFrame f m hk,
      atomAnd_issueFrame f m hk, atomOr_issueFrame f m hk, atomXor_issueFrame f m hk, atomXchg_issueFrame f m hk,
      atomCas_issueFrame f m hk, atomInc_issueFrame f m hk, atomDec_issueFrame f m hk, atomHadd2_issueFrame f m hk,
      atomsAdd_issueFrame f m hk, atomsCas_issueFrame f m hk, atomsXchg_issueFrame f m hk⟩
  case sem =>
    have hk : ∀ a b c d e, (fun k : OpKind => match k with | .semInc _ _ _ _ _ => true | _ => false) (.semInc a b c d e) = true :=
      fun _ _ _ _ _ => rfl
    exact ⟨seminc_issueFrame f m hk, semset_issueFrame f m hk⟩

end Sys2Proof.Machine
end

section
/-! What holds of an instruction whose participants' operations go in flight, from what holds of each thing that the shape
does (R57, R59, R128, R213), whatever its requests have Maluk prepare (R239). -/

namespace Sys2Proof.Machine

section
variable {s : State} {cx : Cx} {flag words : Nat} {hasD : Bool} {rd : Nat → Rd Req} {P : List Nat → State → Prop} {Q : State → Prop}

/-- Threads of the run that do not trap. -/
def Going (cx : Cx) (T tids : List Nat) : Prop := ∀ i ∈ tids, i ∈ cx.low :: cx.fl.run ∧ i ∉ T

/-- `P T` holds while the participants issue, T being the threads that trap, and `Q` when the instruction is over: each thing
that the shape does keeps them. -/
structure IssueSteps (s : State) (cx : Cx) (flag words : Nat) (hasD : Bool) (rd : Nat → Rd Req) (P : List Nat → State → Prop)
    (Q : State → Prop) : Prop where
  stall : ∀ b, Q (stallRun s cx b)
  whole : ∀ t, Q (trapWhole s cx true t)
  skip : Q (modGroup s cx.gid (fun g => advance g cx.slots))
  traps : ∀ (gs : List (Got Req)) ts, (∀ x ∈ ts, x.1 ∈ cx.low :: cx.fl.run) →
    P (ts.map (·.1)) (trapRun (touchAll s cx gs) cx false ts)
  count : ∀ {T t} n k, P T t → P T (beginCount t cx flag n k)
  write : ∀ {T t g tids} first, readOne s cx rd false g.tid = .ok g → Going cx T [g.tid] → Going cx T tids → P T t →
    P T (setPending (modThread t cx.gid g.tid (fun _ => g.work.th)) (reqDst cx words hasD g tids first))
  prep : ∀ {T t g} d, readOne s cx rd false g.tid = .ok g → P T t → P T (g.val.prep t (g.val.kind d)).1
  add : ∀ {T t g} u d o, readOne s cx rd false g.tid = .ok g → g.tid ∈ cx.low :: cx.fl.run → o.who = cx.who g.tid →
    P T u → (o.kind = (g.val.prep u (g.val.kind d)).2 ∨ (g.val.list ≠ [] ∧ o.kind = .load g.val.list 0 { gid := cx.gid })) →
    P T t → P T (addOp t o)
  fence : ∀ {T t i} deps, Going cx T [i] → P T t → P T (addFence t { gid := cx.gid, tid := i } deps)
  mark : ∀ {T t} tok tids, P T t →
    P T (modGroup t cx.gid (fun g => passed { g with flight := g.flight.map (fun f => { f with tok := tok }) } tids))
  past : ∀ {T t}, P T t → Q (modGroup t cx.gid (fun g => advance g cx.slots))
  part : ∀ {T t} b, P T t → Q (stallRun t cx b)

theorem going_single {T : List Nat} {i : Nat} (h : i ∈ cx.low :: cx.fl.run) (hn : i ∉ T) : Going cx T [i] := by
  intro j hj
  obtain rfl : j = i := by simpa using hj
  exact ⟨h, hn⟩

variable (H : IssueSteps s cx flag words hasD rd P Q)
include H

/-- One participant's operation goes in flight. -/
theorem IssueSteps.issueOne {T : List Nat} {t : State} {g : Got Req} {tids run : List Nat} (tok : Nat) (first : Bool)
    (hg : readOne s cx rd false g.tid = .ok g) (hT : Going cx T [g.tid]) (hd : Going cx T tids) (hr : Going cx T run) (h : P T t) :
    P T (issueOne t { cx with fl := { cx.fl with run := run } } tok flag (reqDst cx words hasD g tids first) g) := by
  have hi : g.tid ∈ cx.low :: cx.fl.run := (hT g.tid List.mem_cons_self).1
  have h1 := H.write first hg hT hd h
  obtain ⟨t1, ht⟩ : ∃ t1, setPending (modThread t cx.gid g.tid (fun _ => g.work.th)) (reqDst cx words hasD g tids first) = t1 :=
    ⟨_, rfl⟩
  rw [ht] at h1
  have h2 := H.prep (reqDst cx words hasD g tids first) hg h1
  rcases hp : g.val.prep t1 (g.val.kind (reqDst cx words hasD g tids first)) with ⟨t2, k⟩
  rw [hp] at h2
  have hk : k = (g.val.prep t1 (g.val.kind (reqDst cx words hasD g tids first))).2 := by rw [hp]
  have h3 : ∀ o o' : Op, o.who = cx.who g.tid → o.kind = k → o'.who = cx.who g.tid →
      o'.kind = .load g.val.list 0 { gid := cx.gid } →
      P T (if g.val.list.isEmpty then addOp t2 o else addOp (addOp t2 o) o') := by
    intro o o' ho hok ho' hok'
    have h4 := H.add t1 _ o hg hi ho h1 (.inl (hok.trans hk)) h2
    split
    · exact h4
    · rename_i he
      exact H.add t1 (reqDst cx words hasD g tids first) o' hg hi ho' h1 (.inr ⟨by simpa using he, hok'⟩) h4
  unfold Sys2Proof.Machine.issueOne
  simp only [ht, hp]
  split
  · have hby : Going cx T (Cx.by { cx with fl := { cx.fl with run := run } } g.tid) := by
      unfold Cx.by
      split
      · exact hr
      · exact hT
    refine List.foldlRecOn _ _ ?_ (fun t ht i hi => ?_)
    · exact h3 _ _ (by rfl) (by rfl) (by rfl) (by rfl)
    · exact H.fence _ (going_single (hby i hi).1 (hby i hi).2) ht
  · exact h3 _ _ rfl rfl rfl rfl

/-- The participants' operations go in flight one after another. -/
theorem IssueSteps.issueAll {T : List Nat} {t : State} (tok : Nat) (gs : List (Got Req)) (hu : cx.uni = false)
    (hgs : ∀ g ∈ gs, readOne s cx rd false g.tid = .ok g ∧ Going cx T [g.tid]) (h : P T t) :
    P T (issueAll t cx tok flag words hasD gs) := by
  have he : ∀ t d (g : Got Req), Sys2Proof.Machine.issueOne t cx tok flag d g
      = Sys2Proof.Machine.issueOne t { cx with fl := { cx.fl with run := [] } } tok flag d g := by
    intro t d g
    have e : Cx.uni { cx with fl := { cx.fl with run := [] } } = cx.uni := rfl
    simp only [Sys2Proof.Machine.issueOne, Cx.fence, runOverlap, Cx.by, e, hu]
    rfl
  unfold Sys2Proof.Machine.issueAll
  refine List.foldlRecOn (motive := fun acc : State × Bool => P T acc.1) _ _ h (fun acc ha g hg => ?_)
  obtain ⟨h1, h2⟩ := hgs g hg
  rw [he]
  exact H.issueOne tok acc.2 h1 h2 h2 (fun i hi => nomatch hi) ha

/-- The limit on counts (R129). -/
theorem IssueSteps.guard63 {t : State} {tok : Nat} (h : ∃ u, Q u ∧ (t = u ∨ t = letGo u cx.gid tok)) :
    ∃ u, Q u ∧ (Sys2Proof.Machine.guard63 s t cx = u ∨ Sys2Proof.Machine.guard63 s t cx = letGo u cx.gid tok) := by
  unfold Sys2Proof.Machine.guard63
  split
  · exact h
  · split
    · exact ⟨_, H.stall _, .inl rfl⟩
    · exact h

/-- What each thing that the shape does keeps holds when the instruction is over. -/
theorem IssueSteps.asyncExec (room : Nat) :
    ∃ u, Q u ∧ (asyncExec s cx flag words hasD rd room = u ∨ asyncExec s cx flag words hasD rd room = letGo u cx.gid cx.fl.tok) := by
  unfold Sys2Proof.Machine.asyncExec
  dsimp only
  split
  · obtain ⟨hgot, -⟩ := readAll_got (s := s) (cx := cx) (rd := rd) (hasD := false) (ts := [cx.low])
    split
    · exact ⟨_, H.stall _, .inl rfl⟩
    · exact ⟨_, H.whole _, .inl rfl⟩
    · rename_i g gs _ _ hr
      obtain ⟨t, ht, hrd⟩ := hgot g (by rw [hr]; exact List.mem_cons_self)
      obtain rfl : t = cx.low := by simpa using ht
      have hlow : g.tid = cx.low := (readOne_ok hrd).1
      rw [← hlow] at hrd
      have htr : ∀ x ∈ (if hasD then othersD s cx (g.val.n.getD words) (cx.fl.run.filter (· ≠ g.tid)) else (false, [])).2,
          x.1 ∈ cx.fl.run ∧ x.1 ≠ g.tid := by
        intro x hx
        split at hx
        · simpa using othersD_traps _ _ _ _ x hx
        · cases hx
      generalize (if hasD then othersD s cx (g.val.n.getD words) (cx.fl.run.filter (· ≠ g.tid)) else (false, [])) = pt at htr ⊢
      obtain ⟨pend, traps⟩ := pt
      dsimp only at htr ⊢
      split
      · exact ⟨_, H.stall _, .inl rfl⟩
      · have hgo : Going cx (traps.map (·.1)) (cx.fl.run.filter (fun t => !(traps.map (·.1)).contains t)) := by
          intro i hi
          simp only [List.mem_filter, Bool.not_eq_true', List.contains_eq_mem, decide_eq_false_iff_not] at hi
          exact ⟨List.mem_cons_of_mem _ hi.1, hi.2⟩
        have hself : Going cx (traps.map (·.1)) [g.tid] := by
          refine going_single (by rw [hlow]; exact List.mem_cons_self) (fun hx => ?_)
          obtain ⟨x, hx, ex⟩ := List.mem_map.1 hx
          exact (htr x hx).2 ex
        exact H.guard63 ⟨_, H.past (H.issueOne _ true hrd hself hgo hgo
          (H.count 1 _ (H.traps _ traps (fun x hx => List.mem_cons_of_mem _ (htr x hx).1)))), .inl rfl⟩
    · exact ⟨_, H.skip, .inl rfl⟩
  · rename_i hu
    have hu : cx.uni = false := by simpa using hu
    obtain ⟨hgot, htraps⟩ := readAll_got (s := s) (cx := cx) (rd := rd) (hasD := false) (ts := cx.todo.take room)
    have hsp := readAll_split (s := s) (cx := cx) (rd := rd) (hasD := false) (ts := cx.todo.take room)
    have hts : ∀ i ∈ cx.todo.take room, i ∈ cx.low :: cx.fl.run := fun i hi => todo_sub cx (List.mem_of_mem_take hi)
    have h1 := H.traps (readAll s cx rd false (cx.todo.take room)).got (readAll s cx rd false (cx.todo.take room)).traps
      (fun x hx => hts _ (htraps x hx))
    have hgs : ∀ g ∈ (readAll s cx rd false (cx.todo.take room)).got, readOne s cx rd false g.tid = .ok g
        ∧ Going cx ((readAll s cx rd false (cx.todo.take room)).traps.map (·.1)) [g.tid] := by
      intro g hg
      obtain ⟨i, hi, e⟩ := hgot g hg
      have hid : g.tid = i := (readOne_ok e).1
      subst hid
      refine ⟨e, going_single (hts _ hi) (fun hx => ?_)⟩
      obtain ⟨x, hx, ex⟩ := List.mem_map.1 hx
      obtain ⟨tr, et⟩ := hsp x hx
      rw [ex, e] at et
      cases et
    generalize trapRun (touchAll s cx (readAll s cx rd false (cx.todo.take room)).got) cx false
      (readAll s cx rd false (cx.todo.take room)).traps = s1 at h1 ⊢
    generalize (match (readAll s cx rd false (cx.todo.take room)).stall with
      | some b => some b
      | none => if room < cx.todo.length then some true else none) = stop
    split
    · split
      · exact ⟨_, H.stall _, .inl rfl⟩
      · refine H.guard63 ⟨_, H.part (T := (readAll s cx rd false (cx.todo.take room)).traps.map (·.1)) _ ?_, .inl rfl⟩
        unfold issuePart
        split
        · exact h1
        · exact H.mark _ _ (H.issueAll _ _ hu hgs (H.count _ _ h1))
    · exact H.guard63 ⟨_, H.past (H.issueAll _ _ hu hgs (H.count _ _ h1)), .inr rfl⟩

end

end Sys2Proof.Machine
end

section
/-! The frame of an instruction whose participants' requests Maluk may prepare (R239), and of one that needs a team. -/

namespace Sys2Proof.Machine

/-- What Maluk prepares for a request keeps every frame of the state, and gives an operation of the kind. -/
def Prepares (kind : OpKind → Bool) (s : State) (cx : Cx) (q : Req) : Prop :=
  ∀ {R : Nat → Thread → Prop} {K : Op → Prop} {al : Allow} {run : List Nat} {t : State} (d : Dst),
    Framed R K true al run cx.gid cx.g s t →
    Framed R K true al run cx.gid cx.g s (q.prep t (q.kind d)).1 ∧ kind (q.prep t (q.kind d)).2 = true

/-- A request for an operation of the kind, with a list only where the kind takes loads, and results where the instruction may
write them. -/
structure KindReq (kind : OpKind → Bool) (al : Allow) (s : State) (cx : Cx) (words : Nat) (hasD : Bool) (q : Req) : Prop where
  prepares : Prepares kind s cx q
  list : q.list ≠ [] → kind (.load q.list 0 { gid := cx.gid }) = true
  dest : hasD = true → DestOk al cx.f.d.toNat (q.n.getD words)

section
variable {kind : OpKind → Bool} {al : Allow} {s : State} {cx : Cx} {flag words : Nat} {hasD : Bool} {rd : Nat → Rd Req}

/-- The result registers of a request. -/
theorem reqDst_ok {g : Got Req} {T tids : List Nat} (hd : hasD = true → DestOk al cx.f.d.toNat (g.val.n.getD words))
    (ht : Going cx T tids) (first : Bool) :
    DstOk al (cx.low :: cx.fl.run) cx.g cx.gid (reqDst cx words hasD g tids first)
      ∧ ∀ r ∈ (reqDst cx words hasD g tids first).regs, r.1 ∉ T := by
  unfold reqDst
  split
  · rename_i hD
    refine ⟨dstFor_ok (hd hD) (fun i hi => (ht i hi).1) _, fun r hr => ?_⟩
    unfold dstFor at hr
    dsimp only at hr
    split at hr
    · obtain ⟨i, hi, rfl⟩ := List.mem_map.1 hr
      exact (ht i hi).2
    · split at hr <;> cases hr
  · exact ⟨⟨rfl, by simp, by simp⟩, by simp⟩

/-- The frame is kept by each thing that the shape does. -/
theorem framed_issueSteps (hg : getGroup s cx.gid = some cx.g) (hf : cx.g.flight = some cx.fl) (hkey : al.key = false)
    (hrd : ∀ tid, Asks al (KindReq kind al s cx words hasD) (rd tid)) :
    IssueSteps s cx flag words hasD rd
      (fun T t => Framed (SplitRel al cx.g T) (IssuedOp kind (cx.low :: cx.fl.run) cx.gid) true al (cx.low :: cx.fl.run) cx.gid cx.g s t)
      (fun t => Framed (IssueRel al cx.g) (IssuedOp kind (cx.low :: cx.fl.run) cx.gid) true al (cx.low :: cx.fl.run) cx.gid cx.g s t) := by
  have hr : cx.fl.run ⊆ cx.low :: cx.fl.run := fun x hx => List.mem_cons_of_mem _ hx
  have hL := issueRel_loose al cx.g
  have h0 : Framed (IssueRel al cx.g) (IssuedOp kind (cx.low :: cx.fl.run) cx.gid) true al (cx.low :: cx.fl.run) cx.gid cx.g s s :=
    framed_trapped hL (framed_start hg hf hr)
  have hq : ∀ {g : Got Req}, readOne s cx rd false g.tid = .ok g → KindReq kind al s cx words hasD g.val :=
    fun h => readOne_gives (hrd _).2 h
  exact {
    stall := framed_stall h0
    whole := framed_trapWhole hL hg hf hr _
    skip := framed_advance hL.2 h0 _
    traps := fun gs ts ht => split_traps hg hf hr gs false ts ht
    count := fun n k h => beginCount_framed h _ _ _
    write := fun {T t g tids} first hread hself ht h => by
      obtain ⟨hmem, hn⟩ := hself _ List.mem_cons_self
      obtain ⟨-, hmoved⟩ := readOne_moved (fun tid => (hrd tid).1) hread
      obtain ⟨hdst, hT⟩ := reqDst_ok (hq hread).dest ht first
      exact setPending_framed (framed_modThread h hmem (fun _ => g.work.th)
        (fun b _ => ⟨fun hm => absurd hm hn, fun _ => issued_of_moved hkey hmoved⟩)) hdst hT
    prep := fun d hread h => ((hq hread).prepares d h).1
    add := fun {T t g} u d o hread hmem hwho hu hkind h => framed_addOp h o (by
      refine ⟨?_, g.tid, hmem, hwho⟩
      rcases hkind with hk | ⟨hne, hk⟩
      · exact (congrArg kind hk).trans ((hq hread).prepares d hu).2
      · exact (congrArg kind hk).trans ((hq hread).list hne))
    fence := fun deps hself h => by
      obtain ⟨hmem, hn⟩ := hself _ List.mem_cons_self
      exact framed_modThread h hmem _ (fun b hb => ⟨fun hm => absurd hm hn, fun hm => issued_fence _ (hb.2 hm)⟩)
    mark := fun tok tids h => by
      refine framed_modGroup h _ (fun _ => rfl) (fun _ _ _ => ⟨rfl, Iff.rfl, Iff.rfl⟩) (fun _ e => by cases e) (fun g fl e => ?_)
      simp only [passed, Option.map_eq_some_iff] at e
      obtain ⟨f1, ⟨f2, e2, rfl⟩, rfl⟩ := e
      exact ⟨f2, e2, fun _ hx => hx⟩
    past := fun h => framed_advance hL.2 (framed_mono h issueRel_of_split) _
    part := fun b h => framed_stall (framed_mono h issueRel_of_split) b }

end

/-- Maluk prepares nothing. -/
theorem prepares_nothing {kind : OpKind → Bool} {s : State} {cx : Cx} {q : Req} (hp : ∀ s k, q.prep s k = (s, k))
    (hk : ∀ d, kind (q.kind d) = true) : Prepares kind s cx q := fun d h => by
  rw [hp]
  exact ⟨h, hk d⟩

section
variable {e : Entry} {kind : OpKind → Bool} {more : CoreForm → Allow → Allow} {pre : State → Group → Prop}

/-- An instruction whose participants ask for operations of the kind issues them. -/
theorem issueBody_prepares {flag words : Cx → Nat} {hasD : Bool} {rd : State → Cx → Nat → Rd Req} {room : State → Cx → Nat}
    (hkey : ∀ c, (more c (allowOf c)).key = false)
    (hrd : ∀ s cx c tid, c.e = e → SameForm cx c → fieldOk e c.m e.d c.f.d.toNat = true → Runs s cx → pre s cx.g →
      Asks (more c (allowOf c)) (KindReq kind (more c (allowOf c)) s cx (words cx) hasD) (rd s cx tid)) :
    IssueBody e kind more pre (fun s cx => asyncExec s cx (flag cx) (words cx) hasD (rd s cx) (room s cx)) := by
  intro s cx c he hc hl hr hpre
  obtain ⟨hg, hf, hctx⟩ := hr
  exact (framed_issueSteps hg hf (hkey c) (fun tid => hrd s cx c tid he hc hl ⟨hg, hf, hctx⟩ hpre)).asyncExec _

/-- A trap of the whole run issues nothing. -/
theorem issuesOnly_trapWhole {al : Allow} {s : State} {cx : Cx} (hr : Runs s cx) (u : Bool) (t : Trap) :
    IssuesOnly kind al s cx (trapWhole s cx u t) := by
  obtain ⟨hg, hf, -⟩ := hr
  exact ⟨_, framed_trapWhole (issueRel_loose al cx.g) hg hf (fun x hx => List.mem_cons_of_mem _ hx) u t, .inl rfl⟩

/-- An instruction that needs a team issues what it issues with it, and traps without it. -/
theorem issueBody_team {body : Nat → State → Cx → State} (h : ∀ key, IssueBody e kind more pre (body key)) :
    IssueBody e kind more pre (fun s cx => teamRun s cx 0 true (fun key => body key s cx)) := by
  intro s cx c he hc hl hr hpre
  dsimp only
  unfold teamRun
  split
  · exact h _ s cx c he hc hl hr hpre
  · exact issuesOnly_trapWhole hr _ _

end

end Sys2Proof.Machine
end

section
/-! The frame of the pocket and heap instructions (R257-R268, R286, R287). -/

namespace Sys2Proof.Machine

/-- What is done under a condition, and what goes on then. -/
theorem asks_when {β : Type} {al : Allow} {P : β → Prop} {p : Prop} [Decidable p] {m : Rd PUnit} {k : PUnit → Rd β} (hm : RdKeeps al m)
    (hk : ∀ u, Asks al P (k u)) : Asks al P (if p then m >>= k else pure PUnit.unit >>= k) := by
  split
  · exact asks_bind hm hk
  · exact asks_bind (rdKeeps_pure _) hk

theorem rdKeeps_regionRd {al : Allow} (s : State) (cx : Cx) (coarse : Bool) : RdKeeps al (regionRd s cx coarse) :=
  rdKeeps_ite (rdKeeps_trap _) (rdKeeps_pure _)

section
variable {kind : OpKind → Bool} {e : Entry}

/-! ### Pockets -/

/-- A request on the team's pocket table is plain. -/
theorem plainReq_pocket (hk : ∀ o t, kind (.pocket o t) = true) (key : Nat) (o : Dst → PocketOp) (deps : List Dep) :
    PlainReq kind (pocketReq key o deps) := ⟨fun _ _ => rfl, fun _ => hk _ _, rfl, rfl⟩

/-- The result register of a `.out .w32` field. -/
theorem outWordUse (hd : e.d = .out .w32) : ∀ cx c, c.e = e → SameForm cx c →
    ∃ u ∈ useOf c.e c.m c.e.d c.f.d.toNat, u.writes = true ∧ u.code = c.f.d.toNat ∧ 1 ≤ u.words :=
  outUse hd (fun _ _ => Nat.le_refl _)

/-- The key and the value of a pocket instruction. -/
theorem asks_keyValue {P : Req → Prop} {s : State} {cx : Cx} {c : CoreForm} {tid : Nat} {k : Option Nat → Option Nat → Rd Req}
    (hc : SameForm cx c) (hra : ReadsA c.e) (hrb : ReadsB c.e) (hk : ∀ a b, Asks (allowOf c) P (k a b)) :
    Asks (allowOf c) P (readLate (readA s cx tid true) >>= fun a => readLate (readB s cx tid false) >>= fun b => k a b) :=
  asks_bind (rdKeeps_late (rdKeeps_fieldA hc hra _)) (fun a =>
    asks_bind (rdKeeps_late (rdKeeps_fieldB hc hrb _)) (fun b => hk a b))

theorem pinsRun_issues (count : Bool) (hra : ReadsA e) (hrb : ReadsB e) (hk : ∀ o t, kind (.pocket o t) = true) :
    Issues e kind (fun s cx => pinsRun s cx count) :=
  issueBody_team (fun key => issueBody_async (flag := Cx.setb) (words := fun _ => 1) (hasD := false) nofun
    (fun _ _ _ _ he hc => asks_keyValue hc (he ▸ hra) (he ▸ hrb) (fun _ _ =>
      asks_bind (rdKeeps_regionRd _ _ _) (fun _ => asks_pure (plainReq_pocket hk key _ _)))))

theorem plupRun_issues (hd : e.d = .out .w32) (hra : ReadsA e) (hrb : ReadsB e) (hk : ∀ o t, kind (.pocket o t) = true) :
    Issues e kind plupRun :=
  issueBody_team (fun key => issueBody_async (flag := Cx.seta) (words := fun _ => 1) (fun _ => outWordUse hd)
    (fun _ _ _ _ he hc => asks_keyValue hc (he ▸ hra) (he ▸ hrb) (fun _ _ =>
      asks_bind (rdKeeps_regionRd _ _ _) (fun _ => asks_check (fun _ => asks_when (rdKeeps_stall _) (fun _ =>
        asks_check (fun _ => asks_pure (plainReq_pocket hk key _ _))))))))

theorem prdRun_issues (hd : e.d = .out .w32) (hra : ReadsA e) (hrb : ReadsB e) (hk : ∀ o t, kind (.pocket o t) = true) :
    Issues e kind prdRun :=
  issueBody_team (fun key => issueBody_async (flag := Cx.seta) (words := fun _ => 1) (fun _ => outWordUse hd)
    (fun _ _ _ _ he hc => asks_keyValue hc (he ▸ hra) (he ▸ hrb) (fun _ _ =>
      asks_bind (rdKeeps_remotesRd _) (fun _ => asks_bind (rdKeeps_regionRd _ _ _) (fun _ =>
        asks_bind (rdKeeps_alignRd _ _ _) (fun _ => asks_bind (rdKeeps_liftT _) (fun _ =>
          asks_pure (plainReq_pocket hk key _ _))))))))

theorem pdrnRun_issues (hd : e.d = .out .w32) (hrb : ReadsB e) (hk : ∀ a b c, kind (.drain a b c) = true) :
    Issues e kind pdrnRun :=
  issueBody_team (fun key => issueBody_async (flag := Cx.setb) (words := fun _ => 1) (fun _ => outWordUse hd)
    (fun s cx c tid he hc => asks_bind (rdKeeps_readBlock _ _) (fun ws =>
      asks_bind (rdKeeps_late (rdKeeps_fieldB hc (he ▸ hrb) _)) (fun b => asks_bind (rdKeeps_complGranted _) (fun _ =>
        asks_bind (rdKeeps_regionRd _ _ _) (fun _ => asks_check (fun _ => by
          split
          · exact asks_trap _
          · exact asks_bind (rdKeeps_alignRd _ _ _) (fun _ => asks_bind (rdKeeps_alignRd _ _ _) (fun _ =>
              asks_pure ⟨fun _ _ => rfl, fun _ => hk _ _ _, rfl, rfl⟩)))))))))

theorem pclrRun_issues (hk : ∀ o t, kind (.pocket o t) = true) : Issues e kind pclrRun :=
  issueBody_team (fun key => issueBody_async (flag := Cx.setb) (words := fun _ => 1) (hasD := false) nofun
    (fun _ _ _ _ _ _ => asks_when (rdKeeps_regionRd _ _ _) (fun _ => asks_when (rdKeeps_regionRd _ _ _) (fun _ =>
      asks_pure (plainReq_pocket hk key _ _)))))

theorem pdelRun_issues (hd : e.d = .out .w32) (hra : ReadsA e) (hk : ∀ o t, kind (.pocket o t) = true) : Issues e kind pdelRun :=
  issueBody_team (fun key => issueBody_async (flag := Cx.setb) (words := fun _ => 1) (fun _ => outWordUse hd)
    (fun _ _ _ _ he hc => asks_bind (rdKeeps_late (rdKeeps_fieldA hc (he ▸ hra) _)) (fun _ =>
      asks_bind (rdKeeps_regionRd _ _ _) (fun _ => asks_pure (plainReq_pocket hk key _ _)))))

/-! ### Heaps -/

/-- A heap instruction issues operations on its slot's heap. -/
theorem heapExec_issues {flag : Cx → Nat} {words : Nat} {hasD acquire : Bool} {rel : State → Cx → Nat → List Dep}
    {op : State → Cx → Nat → Rd (Dst → HeapOp)}
    (hd : hasD = true → ∀ cx c, c.e = e → SameForm cx c →
      ∃ u ∈ useOf c.e c.m c.e.d c.f.d.toNat, u.writes = true ∧ u.code = c.f.d.toNat ∧ words ≤ u.words)
    (ho : ∀ s cx c tid, c.e = e → SameForm cx c → RdKeeps (allowOf c) (op s cx tid)) (hk : ∀ h o, kind (.heap h o) = true) :
    Issues e kind (fun s cx => heapExec s cx (flag cx) words hasD acquire (rel s cx) (op s cx)) :=
  issueBody_async (flag := flag) (words := fun _ => words) hd (fun s cx c tid he hc => by
    split
    · exact asks_trap _
    · exact asks_bind (ho s cx c tid he hc) (fun _ => asks_pure ⟨fun _ _ => rfl, fun _ => hk _ _, rfl, rfl⟩))

theorem outDoubleUse (hd : e.d = .out .w64) (hw : ∀ m, wide e m .w64 = true) : ∀ cx c, c.e = e → SameForm cx c →
    ∃ u ∈ useOf c.e c.m c.e.d c.f.d.toNat, u.writes = true ∧ u.code = c.f.d.toNat ∧ 2 ≤ u.words :=
  outUse (words := fun _ => 2) hd (fun cx _ => by rw [hw]; exact Nat.le_refl _)

theorem hpushRun_issues (hd : e.d = .out .w32) (hra : ReadsA e) (hrb : ReadsB e) (hk : ∀ h o, kind (.heap h o) = true) :
    Issues e kind hpushRun :=
  heapExec_issues (flag := Cx.setb) (fun _ => outWordUse hd) (fun _ _ _ _ he hc =>
    rdKeeps_bind (rdKeeps_fieldA hc (he ▸ hra) _) (fun _ => rdKeeps_bind (rdKeeps_fieldB hc (he ▸ hrb) _) (fun _ =>
      rdKeeps_pure _))) hk

theorem htakeRun_issues (hd : e.d = .out .w64) (hw : ∀ m, wide e m .w64 = true) (hk : ∀ h o, kind (.heap h o) = true) :
    Issues e kind htakeRun :=
  heapExec_issues (flag := Cx.setb) (rel := fun _ _ _ => []) (op := fun _ _ _ => pure (fun d => .take d))
    (fun _ => outDoubleUse hd hw) (fun _ _ _ _ _ _ => rdKeeps_pure _) hk

theorem hbudRun_issues (hra : ReadsA e) (hk : ∀ h o, kind (.heap h o) = true) : Issues e kind hbudRun :=
  heapExec_issues (flag := Cx.setb) (rel := fun _ _ _ => []) nofun (fun _ _ _ _ he hc =>
    rdKeeps_bind (rdKeeps_fieldA hc (he ▸ hra) _) (fun _ => rdKeeps_pure _)) hk

theorem hdelRun_issues (hd : e.d = .out .w32) (hra : ReadsA e) (hk : ∀ h o, kind (.heap h o) = true) : Issues e kind hdelRun :=
  heapExec_issues (flag := Cx.setb) (rel := fun _ _ _ => []) (fun _ => outWordUse hd) (fun _ _ _ _ he hc =>
    rdKeeps_bind (rdKeeps_fieldA hc (he ▸ hra) _) (fun _ => rdKeeps_pure _)) hk

theorem hpeekRun_issues (hd : e.d = .out .w64) (hw : ∀ m, wide e m .w64 = true) (hk : ∀ h o, kind (.heap h o) = true) :
    Issues e kind hpeekRun :=
  heapExec_issues (flag := Cx.seta) (rel := fun _ _ _ => []) (op := fun _ _ _ => pure (fun d => .peek d))
    (fun _ => outDoubleUse hd hw) (fun _ _ _ _ _ _ => rdKeeps_pure _) hk

theorem hlenRun_issues (hd : e.d = .out .w32) (hk : ∀ h o, kind (.heap h o) = true) : Issues e kind hlenRun :=
  heapExec_issues (flag := Cx.seta) (rel := fun _ _ _ => []) (op := fun _ _ _ => pure (fun d => .size d))
    (fun _ => outWordUse hd) (fun _ _ _ _ _ _ => rdKeeps_pure _) hk

end

/-! ### The instructions and their twins -/

section
variable {kind : OpKind → Bool} (f : FR) (m : Mod)

theorem pins_issueFrame (hk : ∀ o t, kind (.pocket o t) = true) : IssueFrames kind (.pins f) (.pinsTwin f m) :=
  issueFrame_withTwin 0x145 rfl (pinsRun_issues false (readsA_src rfl) (readsB_src rfl) hk) (fun _ _ _ => ⟨rfl, rfl, rfl, rfl⟩)
theorem pcnt_issueFrame (hk : ∀ o t, kind (.pocket o t) = true) : IssueFrames kind (.pcnt f) (.pcntTwin f m) :=
  issueFrame_withTwin 0x147 rfl (pinsRun_issues true (readsA_src rfl) (readsB_src rfl) hk) (fun _ _ _ => ⟨rfl, rfl, rfl, rfl⟩)
theorem plup_issueFrame (hk : ∀ o t, kind (.pocket o t) = true) : IssueFrames kind (.plup f) (.plupTwin f m) :=
  issueFrame_withTwin 0x146 rfl (plupRun_issues rfl (readsA_src rfl) (readsB_src rfl) hk) (fun _ _ _ => ⟨rfl, rfl, rfl, rfl⟩)
theorem prd_issueFrame (hk : ∀ o t, kind (.pocket o t) = true) : IssueFrames kind (.prd f) (.prdTwin f m) :=
  issueFrame_withTwin 0x148 rfl (prdRun_issues rfl (readsA_src rfl) (readsB_src rfl) hk) (fun _ _ _ => ⟨rfl, rfl, rfl, rfl⟩)
theorem pdrn_issueFrame (hk : ∀ a b c, kind (.drain a b c) = true) : IssueFrames kind (.pdrn f) (.pdrnTwin f m) :=
  issueFrame_withTwin 0x149 rfl (pdrnRun_issues rfl (readsB_src rfl) hk) (fun _ _ _ => ⟨rfl, rfl, rfl, rfl⟩)
theorem pclr_issueFrame (hk : ∀ o t, kind (.pocket o t) = true) : IssueFrames kind (.pclr f) (.pclrTwin f m) :=
  issueFrame_withTwin 0x14A rfl (pclrRun_issues hk) (fun _ _ _ => ⟨rfl, rfl, rfl, rfl⟩)
theorem pdel_issueFrame (hk : ∀ o t, kind (.pocket o t) = true) : IssueFrames kind (.pdel f) (.pdelTwin f m) :=
  issueFrame_withTwin 0x14B rfl (pdelRun_issues rfl (readsA_src rfl) hk) (fun _ _ _ => ⟨rfl, rfl, rfl, rfl⟩)

theorem hpush_issueFrame (hk : ∀ h o, kind (.heap h o) = true) : IssueFrames kind (.hpush f) (.hpushTwin f m) :=
  issueFrame_withTwin 0x14F rfl (hpushRun_issues rfl (readsA_src rfl) (readsB_src rfl) hk) (fun _ _ _ => ⟨rfl, rfl, rfl, rfl⟩)
theorem htake_issueFrame (hk : ∀ h o, kind (.heap h o) = true) : IssueFrames kind (.htake f) (.htakeTwin f m) :=
  issueFrame_withTwin 0x150 rfl (htakeRun_issues rfl (fun _ => rfl) hk) (fun _ _ _ => ⟨rfl, rfl, rfl, rfl⟩)
theorem hbud_issueFrame (hk : ∀ h o, kind (.heap h o) = true) : IssueFrames kind (.hbud f) (.hbudTwin f m) :=
  issueFrame_withTwin 0x151 rfl (hbudRun_issues (readsA_src rfl) hk) (fun _ _ _ => ⟨rfl, rfl, rfl, rfl⟩)
theorem hdel_issueFrame (hk : ∀ h o, kind (.heap h o) = true) : IssueFrames kind (.hdel f) (.hdelTwin f m) :=
  issueFrame_withTwin 0x152 rfl (hdelRun_issues rfl (readsA_src rfl) hk) (fun _ _ _ => ⟨rfl, rfl, rfl, rfl⟩)
theorem hpeek_issueFrame (hk : ∀ h o, kind (.heap h o) = true) : IssueFrames kind (.hpeek f) (.hpeekTwin f m) :=
  issueFrame_withTwin 0x153 rfl (hpeekRun_issues rfl (fun _ => rfl) hk) (fun _ _ _ => ⟨rfl, rfl, rfl, rfl⟩)
theorem hlen_issueFrame (hk : ∀ h o, kind (.heap h o) = true) : IssueFrames kind (.hlen f) (.hlenTwin f m) :=
  issueFrame_withTwin 0x154 rfl (hlenRun_issues rfl hk) (fun _ _ _ => ⟨rfl, rfl, rfl, rfl⟩)

end

end Sys2Proof.Machine
end

section
/-! The frame of SPAWN, SVC and the privileged instructions (R163, R172, R358-R361). -/

namespace Sys2Proof.Machine

section
variable {kind : OpKind → Bool} {more : CoreForm → Allow → Allow} {pre : State → Group → Prop} {e : Entry} {body : State → Cx → State}

/-- An instruction without a twin whose operation goes in flight has its frame. -/
theorem issueFrame_base {i : Instr} {f : FR} (op : Nat) (he : entryOf op = some e) (hb : IssueBody e kind more pre body)
    (hv : view i = .r op f) (hx : ∀ s, exec i s = coreR op f s (body s)) : IssueFrame i kind more pre := by
  intro s t gid g fl c hc hcur hg hf hpre h
  rw [coreForm_r hv he] at hc
  cases hc
  rw [hx] at h
  simp only [coreR, withEntry, he] at h
  refine issueFrame_of_withRun (c := ⟨op, false, e, baseMod e, f⟩) hcur hg hf hpre (fun hl => ?_) hb h
  simp only [fieldsOk, Bool.and_eq_true] at hl
  exact hl.1.1

/-- The same of an instruction of format I14, but SRD, whose field D is checked apart (R184). -/
theorem issueFrame_imm {i : Instr} {f : FI} (op : Nat) (hop : op ≠ 0x066) (he : entryOf op = some e)
    (hb : IssueBody e kind more pre body) (hv : view i = .i op f) (hx : ∀ s, exec i s = coreI op f s (body s)) :
    IssueFrame i kind more pre := by
  intro s t gid g fl c hc hcur hg hf hpre h
  rw [coreForm_i hv he] at hc
  cases hc
  rw [hx] at h
  simp only [coreI, withEntry, he] at h
  refine issueFrame_of_withRun (c := ⟨op, false, e, baseMod e, { u := f.u, d := f.d, a := 0, b := 0 }⟩) hcur hg hf hpre
    (fun hl => ?_) hb h
  have hne : (op == 0x066) = false := beq_eq_false_iff_ne.2 hop
  rw [hne, Bool.false_or, Bool.and_eq_true] at hl
  exact hl.1

end

/-! ### Spawns and services -/

/-- What a thread asks for at a SPAWN. -/
def spawnAsk (s : State) (cx : Cx) (tid : Nat) : Rd Req := do
  let a ← readA s cx tid true
  let b ← readB s cx tid true
  if isHeader cx.k (BitVec.ofNat 64 a) then
    pure { kind := fun d => .spawn a (BitVec.ofNat 64 b) d, deps := relDeps s cx tid 4,
           after := fun tok s => ofExecution s cx.gid tok }
  else trapRd { code := cTARGET }

theorem execSpawn_eq (f : FR) (s : State) :
    execSpawn f s = coreR 0x008 f s (fun cx => asyncExec s cx cx.setb 1 true (spawnAsk s cx)) := rfl

/-- What a thread asks for at an SVC. -/
def svcAsk (f : FI) (s : State) (cx : Cx) (tid : Nat) : Rd Req := do
  let args ← readBlock (f.d.toNat + 1) 7
  pure { kind := fun d => .service f.imm.toNat args d, deps := performed (ownStores s cx tid) }

theorem execSvc_eq (f : FI) (s : State) :
    execSvc f s = coreI 0x012 f s (fun cx => asyncExec s cx cx.setb 1 true (svcAsk f s cx)) := rfl

section
variable {kind : OpKind → Bool} {e : Entry}

theorem spawn_issues (hd : e.d = .out .w32) (hra : ReadsA e) (hrb : ReadsB e) (hk : ∀ a b d, kind (.spawn a b d) = true) :
    Issues e kind (fun s cx => asyncExec s cx cx.setb 1 true (spawnAsk s cx)) :=
  issueBody_async (flag := Cx.setb) (words := fun _ => 1) (fun _ => outWordUse hd) (fun _ _ _ _ he hc =>
    asks_bind (rdKeeps_fieldA hc (he ▸ hra) _) (fun _ => asks_bind (rdKeeps_fieldB hc (he ▸ hrb) _) (fun _ => by
      split
      · exact asks_pure ⟨fun _ _ => rfl, fun _ => hk _ _ _, rfl, rfl⟩
      · exact asks_trap _)))

/-- The status register of a service. -/
theorem svcUse (hd : e.d = .svc) : ∀ cx c, c.e = e → SameForm cx c →
    ∃ u ∈ useOf c.e c.m c.e.d c.f.d.toNat, u.writes = true ∧ u.code = c.f.d.toNat ∧ 1 ≤ u.words := by
  intro cx c he _
  subst he
  exact ⟨⟨c.f.d.toNat, 1, false, true⟩, by simp [useOf, hd], rfl, rfl, Nat.le_refl _⟩

theorem svc_issues (f : FI) (hd : e.d = .svc) (hk : ∀ n l d, kind (.service n l d) = true) :
    Issues e kind (fun s cx => asyncExec s cx cx.setb 1 true (svcAsk f s cx)) :=
  issueBody_async (flag := Cx.setb) (words := fun _ => 1) (fun _ => svcUse hd) (fun _ _ _ _ _ _ =>
    asks_bind (rdKeeps_readBlock _ _) (fun _ => asks_pure ⟨fun _ _ => rfl, fun _ => hk _ _ _, rfl, rfl⟩))

/-! ### Privileged instructions -/

theorem plainReq_system (hk : ∀ o, kind (.system o) = true) (o : Dst → SysOp) (ls : List Loc) (b : Bool) :
    PlainReq kind { kind := fun d => .system (o d), locs := ls, stores := b } := ⟨fun _ _ => rfl, fun _ => hk _, rfl, rfl⟩

theorem privwrRun_issues (hra : ReadsA e) (hrb : ReadsB e) (hk : ∀ o, kind (.system o) = true) : Issues e kind privwrRun :=
  issueBody_async (flag := Cx.setb) (words := fun _ => 1) (hasD := false) nofun (fun _ _ _ _ he hc =>
    asks_bind (rdKeeps_fieldA hc (he ▸ hra) _) (fun _ => asks_bind (rdKeeps_fieldB hc (he ▸ hrb) _) (fun _ =>
      asks_check (fun _ => asks_pure (plainReq_system hk _ _ _)))))

theorem tlbinvRun_issues (hra : ReadsA e) (hrb : ReadsB e) (hk : ∀ o, kind (.system o) = true) : Issues e kind tlbinvRun :=
  issueBody_async (flag := Cx.setb) (words := fun _ => 1) (hasD := false) nofun (fun _ _ _ _ he hc =>
    asks_bind (rdKeeps_fieldA hc (he ▸ hra) _) (fun _ => asks_bind (rdKeeps_fieldB hc (he ▸ hrb) _) (fun _ =>
      asks_check (fun _ => asks_pure (plainReq_system hk _ _ _)))))

theorem ctxswRun_issues (hra : ReadsA e) (hk : ∀ o, kind (.system o) = true) : Issues e kind ctxswRun :=
  issueBody_async (flag := Cx.setb) (words := fun _ => 1) (hasD := false) nofun (fun _ _ _ _ he hc =>
    asks_bind (rdKeeps_fieldA hc (he ▸ hra) _) (fun _ => asks_pure (plainReq_system hk _ _ _)))

theorem cacheflRun_issues (hra : ReadsA e) (hk : ∀ o, kind (.system o) = true) : Issues e kind cacheflRun :=
  issueBody_async (flag := Cx.setb) (words := fun _ => 1) (hasD := false) nofun (fun _ _ _ _ he hc =>
    asks_bind (rdKeeps_fieldA hc (he ▸ hra) _) (fun _ => asks_bind (rdKeeps_liftT _) (fun _ =>
      asks_bind (rdKeeps_touch _) (fun _ => asks_pure (plainReq_system hk _ _ _)))))

theorem poisclrRun_issues (hra : ReadsA e) (hk : ∀ o, kind (.system o) = true) : Issues e kind poisclrRun :=
  issueBody_async (flag := Cx.setb) (words := fun _ => 1) (hasD := false) nofun (fun _ _ _ _ he hc =>
    asks_bind (rdKeeps_fieldA hc (he ▸ hra) _) (fun _ => asks_bind (rdKeeps_alignRd _ _ _) (fun _ =>
      asks_bind (rdKeeps_liftT _) (fun _ => asks_bind (rdKeeps_touch _) (fun _ => asks_pure (plainReq_system hk _ _ _))))))

theorem haltRun_issues (hra : ReadsA e) (hk : ∀ o, kind (.system o) = true) : Issues e kind haltRun :=
  issueBody_async (flag := Cx.setb) (words := fun _ => 1) (hasD := false) nofun (fun _ _ _ _ he hc =>
    asks_bind (rdKeeps_fieldA hc (he ▸ hra) _) (fun _ => asks_bind (rdKeeps_liftT _) (fun _ =>
      asks_pure (plainReq_system hk _ _ _))))

theorem evpostRun_issues (hd : e.d = .out .w32) (hra : ReadsA e) (hrb : ReadsB e) (hk : ∀ o, kind (.system o) = true) :
    Issues e kind evpostRun :=
  issueBody_async (flag := Cx.setb) (words := fun _ => 1) (fun _ => outWordUse hd) (fun _ _ _ _ he hc =>
    asks_bind (rdKeeps_fieldA hc (he ▸ hra) _) (fun _ => asks_bind (rdKeeps_fieldB hc (he ▸ hrb) _) (fun _ =>
      asks_check (fun _ => asks_pure (plainReq_system hk _ _ _)))))

/-- PRIVRD may write the two registers that a wide selector fills (R360). -/
def privrdAllow (c : CoreForm) (a : Allow) : Allow := { a with dest := [⟨c.f.d.toNat, 2, false, true⟩] }

/-- One or two result words fit in what PRIVRD may write. -/
theorem privrdDest {c : CoreForm} {n : Nat} (hd : e.d = .outAny) (hl : fieldOk e c.m e.d c.f.d.toNat = true) (hn : n ≤ 2) :
    DestOk (privrdAllow c (allowOf c)) c.f.d.toNat n := by
  refine ⟨⟨c.f.d.toNat, 2, false, true⟩, List.mem_cons_self, rfl, hn, fun h1 h2 => ?_⟩
  simp only [hd, fieldOk, Bool.or_eq_true, decide_eq_true_eq, beq_iff_eq] at hl
  omega

theorem privrdRun_issues (hd : e.d = .outAny) (hra : ReadsA e) (hk : ∀ o, kind (.system o) = true) :
    IssueBody e kind privrdAllow (fun _ _ => True) privrdRun := by
  refine issueBody_prepares (flag := Cx.seta) (words := fun _ => 1) (hasD := true) (fun _ => rfl) (fun s cx c tid he hc hl _ _ => ?_)
  have hsel : RdKeeps (privrdAllow c (allowOf c)) (readA s cx tid false) := rdKeeps_fieldA hc (he ▸ hra) _
  have hreq : ∀ sel, Asks (privrdAllow c (allowOf c)) (KindReq kind (privrdAllow c (allowOf c)) s cx 1 true)
      (pure { kind := fun d => .system (.read sel d), n := some (if sel = 1 then 2 else 1) }) := by
    refine fun sel => asks_pure ⟨prepares_nothing (fun _ _ => rfl) (fun _ => hk _), fun h => absurd rfl h, fun _ => ?_⟩
    rw [hc.2.2]
    refine privrdDest hd hl ?_
    change (if sel = 1 then 2 else 1) ≤ 2
    split <;> decide
  refine asks_bind hsel (fun sel => asks_check (fun _ => asks_bind rdKeeps_get (fun w => ?_)))
  dsimp only
  split
  · exact asks_bind (rdKeeps_trap _) (fun _ => hreq sel)
  · exact asks_when (rdKeeps_stall _) (fun _ => hreq sel)

end

section
variable {kind : OpKind → Bool}

theorem spawn_issueFrame (f : FR) (hk : ∀ a b d, kind (.spawn a b d) = true) : IssueFrame (.spawn f) kind :=
  issueFrame_base 0x008 rfl (spawn_issues rfl (readsA_src rfl) (readsB_pair rfl) hk) rfl (execSpawn_eq f)
theorem svc_issueFrame (f : FI) (hk : ∀ n l d, kind (.service n l d) = true) : IssueFrame (.svc f) kind :=
  issueFrame_imm 0x012 (by decide) rfl (svc_issues f rfl hk) rfl (execSvc_eq f)

variable (f : FR) (hk : ∀ o, kind (.system o) = true)
include hk

theorem privrd_issueFrame : IssueFrame (.privrd f) kind privrdAllow :=
  issueFrame_base 0x166 rfl (privrdRun_issues rfl (readsA_src rfl) hk) rfl (fun _ => rfl)
theorem privwr_issueFrame : IssueFrame (.privwr f) kind :=
  issueFrame_base 0x167 rfl (privwrRun_issues (readsA_src rfl) (readsB_src rfl) hk) rfl (fun _ => rfl)
theorem tlbinv_issueFrame : IssueFrame (.tlbinv f) kind :=
  issueFrame_base 0x168 rfl (tlbinvRun_issues (readsA_src rfl) (readsB_src rfl) hk) rfl (fun _ => rfl)
theorem ctxsw_issueFrame : IssueFrame (.ctxsw f) kind :=
  issueFrame_base 0x169 rfl (ctxswRun_issues (readsA_src rfl) hk) rfl (fun _ => rfl)
theorem cachefl_issueFrame : IssueFrame (.cachefl f) kind :=
  issueFrame_base 0x16A rfl (cacheflRun_issues (readsA_src rfl) hk) rfl (fun _ => rfl)
theorem poisclr_issueFrame : IssueFrame (.poisclr f) kind :=
  issueFrame_base 0x16B rfl (poisclrRun_issues (readsA_src rfl) hk) rfl (fun _ => rfl)
theorem halt_issueFrame : IssueFrame (.halt f) kind :=
  issueFrame_base 0x16C rfl (haltRun_issues (readsA_src rfl) hk) rfl (fun _ => rfl)
theorem evpost_issueFrame : IssueFrame (.evpost f) kind :=
  issueFrame_base 0x16D rfl (evpostRun_issues rfl (readsA_src rfl) (readsB_src rfl) hk) rfl (fun _ => rfl)

end

end Sys2Proof.Machine
end

section
/-! The frame of the copy instructions where every page of the context's windows is present (R232-R242): what Maluk prepares
for a copy then only touches translations. -/

namespace Sys2Proof.Machine

/-! ### Pages that are present -/

/-- A walk reads memory only. -/
theorem walkFrom_congr {s t : State} (h : t.mem = s.mem) (va n : Nat) :
    ∀ level table, walkFrom t va n level table = walkFrom s va n level table := by
  have hb : rdByte t = rdByte s := funext (fun pa => by simp only [rdByte, h])
  have hm : ∀ pa k, rdMem t pa k = rdMem s pa k := fun pa k => by simp only [rdMem, rdBytes, hb]
  induction n with
  | zero => exact fun _ _ => rfl
  | succ n ih => exact fun level table => by simp only [walkFrom, hm, ih]

/-- An address that an access finds not present has no page in the tables, whichever unit looks. -/
theorem translate_missing {s : State} {unit ctx va : Nat} {a : Acc} (h : translate s unit ctx va a = .error 0) :
    ∀ t u, t.ctxs = s.ctxs → t.mem = s.mem → tlbFind t u ctx va = none → translate t u ctx va a = .error 0 := by
  intro t u hc hm hf
  unfold translate at h ⊢
  rw [hc]
  cases hctx : mfind s.ctxs ctx with
  | none => simp [hctx] at h
  | some c =>
    simp only [hctx] at h ⊢
    by_cases h1 : 2 ^ 56 ≤ va
    · rw [if_pos h1] at h; cases h
    · rw [if_neg h1] at h ⊢
      by_cases h2 : a = .write ∧ ((windowsAt c va).any fun w => w.kind == .args) = true
      · rw [if_pos h2] at h; cases h
      · rw [if_neg h2] at h ⊢
        by_cases h3 : c.heapBase ≤ va ∧ va < c.heapLimit
        · rw [if_pos h3] at h
          split at h <;> cases h
        · rw [if_neg h3] at h ⊢
          by_cases h4 : (windowsAt c va).isEmpty = true
          · rw [if_pos h4] at h; cases h
          · rw [if_neg h4] at h ⊢
            have hw : walk t c va = walk s c va := walkFrom_congr hm _ _ _ _
            rw [hf, hw]
            split at h
            · split at h <;> cases h
            · exact h

/-- A unit that holds no translation, and shares none. -/
theorem exists_unit_without_tlb (s : State) : ∃ unit, ∀ ctx va, tlbFind s unit ctx va = none := by
  obtain ⟨unit, hu⟩ := Infinite.exists_notMem_finset ((s.tlb.map (·.unit)).toFinset ∪ Finset.range Config.cores)
  simp only [Finset.mem_union, List.mem_toFinset, List.mem_map, Finset.mem_range, not_or, not_exists, not_and, Nat.not_lt] at hu
  refine ⟨unit, fun ctx va => List.find?_eq_none.2 (fun e he => ?_)⟩
  have h1 : (e.unit == unit) = false := beq_eq_false_iff_ne.2 (hu.1 e he)
  have h2 : ¬ unit < Config.cores := Nat.not_lt.2 hu.2
  simp [h1, h2]

/-- Pages stay present while memory and contexts stay. -/
theorem pagesPresent_congr {s t : State} {ctx : Nat} (h : PagesPresent s ctx) (hc : t.ctxs = s.ctxs) (hm : t.mem = s.mem) :
    PagesPresent t ctx := by
  intro unit va a he
  obtain ⟨u, hu⟩ := exists_unit_without_tlb s
  exact h u va a (translate_missing he s u hc.symm hm.symm (hu ctx va))

section
variable {R : Nat → Thread → Prop} {K : Op → Prop} {cnt : Bool} {al : Allow} {run : List Nat} {gid : Nat} {g : Group} {s t : State}
  {ctx : Nat}

theorem framed_ctxs (H : Framed R K cnt al run gid g s t) : t.ctxs = s.ctxs := by rw [H.1]
theorem framed_mem (H : Framed R K cnt al run gid g s t) : t.mem = s.mem := by rw [H.1]

/-- What is resolved where every page is present is only touched. -/
theorem framed_resolveAt (hp : PagesPresent s ctx) (H : Framed R K cnt al run gid g s t) (unit va : Nat) (a : Acc) (x : Exec) :
    Framed R K cnt al run gid g s (resolveAt t unit ctx va a x).1 := by
  have hn := pagesPresent_congr hp (framed_ctxs H) (framed_mem H) unit va a
  unfold resolveAt resolvePa
  cases hr : translate t unit ctx va a with
  | ok pa => exact framed_touchUnit H _ _ _ _
  | error r =>
    cases r with
    | zero => exact absurd hr hn
    | succ r => exact H

theorem framed_resolveDest (hp : PagesPresent s ctx) (unit n : Nat) (a : Acc) (x : Exec) (keep : Bool) (d : Dest)
    (H : Framed R K cnt al run gid g s t) : Framed R K cnt al run gid g s (resolveDest unit ctx n a x keep t d).1 := by
  unfold resolveDest
  split
  · exact H
  · dsimp only
    split
    · exact H
    · rename_i va _ _ _
      have h := framed_resolveAt hp H unit va a x
      split <;> (rename_i e; rw [e] at h; exact h)

theorem framed_resolveDests (hp : PagesPresent s ctx) (unit n : Nat) (x : Exec) (keep : Bool) (ds : List Dest) :
    ∀ t, Framed R K cnt al run gid g s t → Framed R K cnt al run gid g s (resolveDests unit ctx n x keep ds t).1 := by
  induction ds with
  | nil => exact fun t H => H
  | cons d ds ih => exact fun t H => ih _ (framed_resolveDest hp unit n .write x keep d H)

theorem framed_resolveElems (hp : PagesPresent s ctx) (unit n : Nat) (x : Exec) (keep : Bool) (es : List Elem) :
    ∀ t, Framed R K cnt al run gid g s t → Framed R K cnt al run gid g s (resolveElems unit ctx n x keep es t).1 := by
  induction es with
  | nil => exact fun t H => H
  | cons e es ih =>
    intro t H
    unfold resolveElems
    cases e.src with
    | none => exact ih _ (framed_resolveDests hp unit n x keep e.dst _ H)
    | some d => exact ih _ (framed_resolveDests hp unit n x keep e.dst _ (framed_resolveDest hp unit n .read x false d H))

end

/-- What Maluk prepares for a copy keeps the frame where every page is present, and the operation stays a copy. -/
theorem prepares_copy {kind : OpKind → Bool} {s : State} {cx : Cx} {q : Req} {x : Exec} {keep : Bool}
    (hp : PagesPresent s cx.ctx) (hk : ∀ c i l, kind (.copy c i l) = true)
    (hq : q.prep = prepCopy cx.g.core cx.ctx x keep) (hc : ∀ d, ∃ c i l, q.kind d = .copy c i l) : Prepares kind s cx q := by
  intro R K al run t d H
  obtain ⟨c, i, l, e⟩ := hc d
  rw [hq, e]
  exact ⟨framed_resolveElems hp _ _ _ _ c.elems t H, hk _ _ _⟩

/-! ### What a copy reads and asks for -/

section
variable {kind : OpKind → Bool} {al : Allow} {s : State} {cx : Cx}

/-- A checked record's copy. -/
theorem copyReq_asks (hp : PagesPresent s cx.ctx) (hk : ∀ c i l, kind (.copy c i l) = true) (hd : DestOk al cx.f.d.toNat 1)
    {list : List Loc} (hl : list ≠ [] → kind (.load list 0 { gid := cx.gid }) = true) (tid : Nat) (l : Layout) (bad mis : Bool)
    (dsts : List Nat) (keep : Bool) (compl : Nat) (red : Option (Nat × Nat)) (strict : Bool) :
    Asks al (KindReq kind al s cx 1 true) (copyReq s cx tid l bad mis dsts keep compl red strict list) := by
  refine asks_bind (rdKeeps_complGranted _) (fun _ => asks_check (fun _ => asks_check (fun _ => ?_)))
  split
  · exact asks_trap _
  · refine asks_check (fun _ => ?_)
    have hreq : ∀ es w, Asks al (KindReq kind al s cx 1 true) (pure
        { kind := fun d => .copy
            { esize := l.esize, elems := es, fill := l.hem, red := red, compl := w, orient := l.orient, srcOrient := l.sorient,
              strict := strict, forbid := 0, abort := false, charge := copyCharge l red.isSome es, dst := d } false []
          deps := relDeps s cx tid 4, prep := prepCopy cx.g.core cx.ctx (runExec s cx.gid cx.fl.slot) keep, list := list }) :=
      fun es w => asks_pure ⟨prepares_copy hp hk rfl (fun _ => ⟨_, _, _, rfl⟩), hl, fun _ => hd⟩
    dsimp only
    split
    case' h_1 => refine asks_bind (rdKeeps_trap _) (fun _ => ?_)
    all_goals
      refine asks_check (fun _ => asks_bind (rdKeeps_liftT _) (fun es => ?_))
      split
      · exact asks_bind (rdKeeps_trap _) (fun _ => hreq es _)
      · exact hreq es _

/-- A read that is tried leaves the thread as it was. -/
theorem rdKeeps_try {α : Type} (x : Rd α) : RdKeeps al (tryRd x) := by
  intro w v w' h
  change (match x w with
    | .ok (v, _) => Except.ok (some v, w)
    | .error (Stop.trap _) => .ok (none, w)
    | .error e => .error e) = .ok (v, w') at h
  split at h
  · cases h; exact moved_refl al _
  · cases h; exact moved_refl al _
  · cases h

/-- Which trap a read takes changes nothing of what it moves. -/
theorem rdKeeps_afterAlign {α : Type} (l : Layout) {x : Rd α} (h : RdKeeps al x) : RdKeeps al (afterAlign l x) := by
  intro w v w' e
  change (match x w with
    | .error (Stop.trap t) => Except.error (Stop.trap (if recordMisaligned l then { code := cALIGN, addr := l.src } else t))
    | r => r) = .ok (v, w') at e
  split at e
  · cases e
  · exact h w v w' e

theorem rdKeeps_listWord (tid va : Nat) : RdKeeps al (listWord s cx tid va) :=
  rdKeeps_bind (rdKeeps_globalRd _ _ _) (fun _ => rdKeeps_bind (rdKeeps_readNow _ _) (fun _ => rdKeeps_pure _))

theorem rdKeeps_listBases (tid : Nat) : ∀ n va, RdKeeps al (listBases s cx tid va n)
  | 0, _ => rdKeeps_pure _
  | n + 1, _ => rdKeeps_bind (rdKeeps_listWord _ _) (fun _ => rdKeeps_bind (rdKeeps_listBases tid n _) (fun _ => rdKeeps_pure _))

theorem rdKeeps_listDenied (tid : Nat) (l : Layout) (va : Option Nat) : RdKeeps al (listDenied s cx tid l va) := by
  cases va with
  | none =>
    exact rdKeeps_bind (rdKeeps_pure _) (fun _ => rdKeeps_bind (rdKeeps_complGranted _) (fun _ =>
      rdKeeps_bind (rdKeeps_pure _) (fun _ => rdKeeps_guard)))
  | some va =>
    refine rdKeeps_bind (rdKeeps_try _) (fun _ => rdKeeps_bind (rdKeeps_complGranted _) (fun _ => ?_))
    exact rdKeeps_ite (rdKeeps_bind (rdKeeps_try _) (fun _ => rdKeeps_guard)) (rdKeeps_bind (rdKeeps_pure _) (fun _ => rdKeeps_guard))

end

section
variable {kind : OpKind → Bool} {e : Entry}

/-- Copies go in flight where every page of the context's windows is present. -/
abbrev IssuesPresent (e : Entry) (kind : OpKind → Bool) (body : State → Cx → State) : Prop :=
  IssueBody e kind (fun _ a => a) (fun s g => PagesPresent s (ctxOf s g.launch)) body

/-- The status register of a copy. -/
theorem copyStatusDest {cx : Cx} {c : CoreForm} (hd : e.d = .out .w32) (he : c.e = e) (hc : SameForm cx c) :
    DestOk (allowOf c) cx.f.d.toNat 1 := by
  obtain ⟨u, hu, hw, hcode, hn⟩ := outWordUse hd cx c he hc
  rw [hc.2.2]
  exact destOk_use hu hw hcode hn

/-- An instruction whose participants ask for copies issues them, up to the room of its core (R242). -/
theorem copyExec_issues {rd : State → Cx → Nat → Rd Req}
    (hrd : ∀ s cx c tid, c.e = e → SameForm cx c → PagesPresent s cx.ctx →
      Asks (allowOf c) (KindReq kind (allowOf c) s cx 1 true) (rd s cx tid)) :
    IssuesPresent e kind (fun s cx => copyExec s cx (rd s cx)) :=
  issueBody_prepares (flag := Cx.setb) (words := fun _ => 1) (room := fun s cx => Config.coreCopies - openCopies s cx.g.core)
    (fun _ => rfl) (fun s cx c tid he hc _ hr hp => by
      obtain ⟨-, -, hctx⟩ := hr
      rw [← hctx] at hp
      exact hrd s cx c tid he hc hp)

theorem copyRun_issues (hd : e.d = .out .w32) (hrb : ReadsB e) (hk : ∀ c i l, kind (.copy c i l) = true) :
    IssuesPresent e kind copyRun :=
  copyExec_issues (fun _ _ _ _ he hc hp => asks_bind (rdKeeps_readBlock _ _) (fun _ =>
    asks_bind (rdKeeps_late (rdKeeps_fieldB hc (he ▸ hrb) _)) (fun _ =>
      copyReq_asks hp hk (copyStatusDest hd he hc) (fun h => absurd rfl h) _ _ _ _ _ _ _ _ _)))

theorem copysRun_issues (hd : e.d = .out .w32) (hk : ∀ c i l, kind (.copy c i l) = true) : IssuesPresent e kind copysRun :=
  copyExec_issues (fun _ _ _ _ he hc hp => asks_bind (rdKeeps_readBlock _ _) (fun _ =>
    copyReq_asks hp hk (copyStatusDest hd he hc) (fun h => absurd rfl h) _ _ _ _ _ _ _ _ _))

/-- COPYM and COPYR: the loads of the list go in flight beside the copy (R213). -/
theorem copyListRun_issues (red : Cx → Option (Nat × Nat)) (size : Cx → Nat) (hd : e.d = .out .w32) (hrb : ReadsB e)
    (hk : ∀ c i l, kind (.copy c i l) = true) (hl : ∀ l n d, kind (.load l n d) = true) :
    IssuesPresent e kind (fun s cx => copyListRun s cx red size) :=
  copyExec_issues (fun _ _ _ _ he hc hp => asks_bind (rdKeeps_readBlock _ _) (fun _ =>
    asks_bind (rdKeeps_late (rdKeeps_fieldB hc (he ▸ hrb) _)) (fun _ => asks_bind (rdKeeps_listDenied _ _ _) (fun _ =>
      asks_check (fun _ => asks_when (rdKeeps_afterAlign _ rdKeeps_settle) (fun _ =>
        asks_bind (rdKeeps_afterAlign _ (rdKeeps_listWord _ _)) (fun _ => asks_check (fun _ =>
          asks_bind (rdKeeps_afterAlign _ (rdKeeps_listBases _ _ _)) (fun _ =>
            copyReq_asks hp hk (copyStatusDest hd he hc) (fun _ => hl _ _ _) _ _ _ _ _ _ _ _ _)))))))))

end

/-- The frame of a copy instruction, and of its twin, where every page is present. -/
abbrev CopyFrames (kind : OpKind → Bool) (base twin : Instr) : Prop :=
  WithTwin (fun i => IssueFrame i kind (fun _ a => a) (fun s g => PagesPresent s (ctxOf s g.launch))) base twin

section
variable {kind : OpKind → Bool} (f : FR) (m : Mod) (hk : ∀ c i l, kind (.copy c i l) = true)
include hk

theorem copy_issueFrame : CopyFrames kind (.copy f) (.copyTwin f m) :=
  issueFrame_withTwin 0x120 rfl (copyRun_issues rfl (readsB_src rfl) hk) (fun _ _ _ => ⟨rfl, rfl, rfl, rfl⟩)
theorem copys_issueFrame : CopyFrames kind (.copys f) (.copysTwin f m) :=
  issueFrame_withTwin 0x121 rfl (copysRun_issues rfl hk) (fun _ _ _ => ⟨rfl, rfl, rfl, rfl⟩)
theorem copym_issueFrame (hl : ∀ l n d, kind (.load l n d) = true) : CopyFrames kind (.copym f) (.copymTwin f m) :=
  issueFrame_withTwin 0x122 rfl (copyListRun_issues (fun _ => none) (fun _ => 0) rfl (readsB_src rfl) hk hl)
    (fun _ _ _ => ⟨rfl, rfl, rfl, rfl⟩)
theorem copyr_issueFrame (hl : ∀ l n d, kind (.load l n d) = true) : CopyFrames kind (.copyr f) (.copyrTwin f m) :=
  issueFrame_withTwin 0x123 rfl (copyListRun_issues (fun cx => some (bitsOf cx.opt 3 1, cx.ty))
    (fun cx => if cx.ty = 1 ∨ cx.ty = 2 then 2 else 4) rfl (readsB_src rfl) hk hl) (fun _ _ _ => ⟨rfl, rfl, rfl, rfl⟩)

end

/-- Settles O43: every one of these instructions issues operations of its kind and reads only what its fields name
(`IssueBody`); what Maluk prepares for a copy touches translations only (`prepares_copy`). -/
theorem pocketHeapSystemInstructionFrame : Obligations.PocketHeapSystemInstructionFrame := by
  unfold Obligations.PocketHeapSystemInstructionFrame
  refine ⟨fun f m => ?pocket, fun f m => pdrn_issueFrame f m (fun _ _ _ => rfl), fun f m => ?heap,
    fun f => spawn_issueFrame f (fun _ _ _ => rfl), fun f => svc_issueFrame f (fun _ _ _ => rfl), fun f => ?system,
    fun f => privrd_issueFrame f (fun _ => rfl), fun f m => ?copy, fun f m => ?list⟩
  case pocket =>
    have hk : ∀ o t, (fun k : OpKind => match k with | .pocket _ _ => true | _ => false) (.pocket o t) = true := fun _ _ => rfl
    exact ⟨pins_issueFrame f m hk, pcnt_issueFrame f m hk, plup_issueFrame f m hk, prd_issueFrame f m hk,
      pclr_issueFrame f m hk, pdel_issueFrame f m hk⟩
  case heap =>
    have hk : ∀ h o, (fun k : OpKind => match k with | .heap _ _ => true | _ => false) (.heap h o) = true := fun _ _ => rfl
    exact ⟨hpush_issueFrame f m hk, htake_issueFrame f m hk, hbud_issueFrame f m hk, hdel_issueFrame f m hk,
      hpeek_issueFrame f m hk, hlen_issueFrame f m hk⟩
  case system =>
    have hk : ∀ o, (fun k : OpKind => match k with | .system _ => true | _ => false) (.system o) = true := fun _ => rfl
    exact ⟨privwr_issueFrame f hk, tlbinv_issueFrame f hk, ctxsw_issueFrame f hk, cachefl_issueFrame f hk,
      poisclr_issueFrame f hk, halt_issueFrame f hk, evpost_issueFrame f hk⟩
  case copy =>
    have hk : ∀ c i l, (fun k : OpKind => match k with | .copy _ _ _ => true | _ => false) (.copy c i l) = true := fun _ _ _ => rfl
    exact ⟨copy_issueFrame f m hk, copys_issueFrame f m hk⟩
  case list =>
    have hk : ∀ c i l, (fun k : OpKind => match k with | .copy _ _ _ => true | .load _ _ _ => true | _ => false) (.copy c i l)
        = true := fun _ _ _ => rfl
    have hl : ∀ l n d, (fun k : OpKind => match k with | .copy _ _ _ => true | .load _ _ _ => true | _ => false) (.load l n d)
        = true := fun _ _ _ => rfl
    exact ⟨copym_issueFrame f m hk hl, copyr_issueFrame f m hk hl⟩

end Sys2Proof.Machine
end

section
/-! What changes no byte and no register (R22, R311): the steps of waits, barriers, cleats and traps, one lemma for each thing that
they do to the state. -/

namespace Sys2Proof.Machine

/-! ### The relation -/

/-- No register of a thread has changed, nor has a stream of it moved. -/
def Settled (a b : Thread) : Prop := SameRegisters a b ∧ SameStreams a b

/-- A group of which no register has changed but the distribution descriptors `ds`; streams may have moved in the threads that
`M` names. -/
def QuietGroup (ds : List Nat) (M : Nat → Prop) (g h : Group) : Prop :=
  h.scal = g.scal ∧ h.spend = g.spend ∧ h.spois = g.spois ∧ (∀ d, d ∉ ds → mget {} h.dists d = mget {} g.dists d)
    ∧ ∀ k, SameRegisters (thread g k) (thread h k) ∧ (SameStreams (thread g k) (thread h k) ∨ M k)

/-- Nothing that the machine stores has changed. -/
structure QuietStore (s t : State) : Prop where
  bytes : ∀ a, rdByte t a = rdByte s a
  scratch : ∀ k p, rdScratch t k p = rdScratch s k p
  vers : t.vers = s.vers
  pois : t.pois = s.pois
  heaps : t.heaps = s.heaps
  shrouds : t.shrouds = s.shrouds
  seqWords : t.seqWords = s.seqWords
  dies : t.dies = s.dies
  clusters : t.clusters = s.clusters
  ports : t.ports = s.ports
  timebase : t.timebase = s.timebase
  sems : ∀ k, (getCore t k).sems = (getCore s k).sems

/-- Every group that is there was there, and is quiet. -/
def QuietGroups (ds : List Nat) (M : Nat → Nat → Prop) (s t : State) : Prop :=
  ∀ j h, getGroup t j = some h → ∃ g, getGroup s j = some g ∧ QuietGroup ds (M j) g h

/-- Nothing stored has changed, and every group that is there is quiet. -/
def Quiet (ds : List Nat) (M : Nat → Nat → Prop) (s t : State) : Prop := QuietStore s t ∧ QuietGroups ds M s t

theorem sameRegisters_refl (a : Thread) : SameRegisters a a := ⟨rfl, rfl, rfl, rfl, rfl, rfl⟩
theorem sameStreams_refl (a : Thread) : SameStreams a a := ⟨rfl, rfl, rfl⟩

theorem sameRegisters_trans {a b c : Thread} (h : SameRegisters a b) (k : SameRegisters b c) : SameRegisters a c := by
  obtain ⟨h1, h2, h3, h4, h5, h6⟩ := h
  obtain ⟨k1, k2, k3, k4, k5, k6⟩ := k
  exact ⟨k1.trans h1, k2.trans h2, k3.trans h3, k4.trans h4, k5.trans h5, k6.trans h6⟩

theorem sameStreams_trans {a b c : Thread} (h : SameStreams a b) (k : SameStreams b c) : SameStreams a c := by
  obtain ⟨h1, h2, h3⟩ := h
  obtain ⟨k1, k2, k3⟩ := k
  exact ⟨k1.trans h1, k2.trans h2, k3.trans h3⟩

section
variable {ds : List Nat} {M : Nat → Prop} {g h k : Group}

theorem quietGroup_refl (g : Group) : QuietGroup ds M g g :=
  ⟨rfl, rfl, rfl, fun _ _ => rfl, fun _ => ⟨sameRegisters_refl _, .inl (sameStreams_refl _)⟩⟩

theorem quietGroup_trans (a : QuietGroup ds M g h) (b : QuietGroup ds M h k) : QuietGroup ds M g k := by
  obtain ⟨a1, a2, a3, a4, a5⟩ := a
  obtain ⟨b1, b2, b3, b4, b5⟩ := b
  refine ⟨b1.trans a1, b2.trans a2, b3.trans a3, fun d hd => (b4 d hd).trans (a4 d hd), fun i => ?_⟩
  obtain ⟨ar, as⟩ := a5 i
  obtain ⟨br, bs⟩ := b5 i
  refine ⟨sameRegisters_trans ar br, ?_⟩
  rcases as with as | hm
  · rcases bs with bs | hm
    · exact .inl (sameStreams_trans as bs)
    · exact .inr hm
  · exact .inr hm

/-- A group that keeps its threads, scalar registers and descriptors is quiet. -/
theorem quietGroup_of_eq (ht : h.threads = g.threads) (h1 : h.scal = g.scal) (h2 : h.spend = g.spend) (h3 : h.spois = g.spois)
    (h4 : h.dists = g.dists) : QuietGroup ds M g h := by
  refine ⟨h1, h2, h3, fun d _ => by rw [h4], fun i => ?_⟩
  have e : thread h i = thread g i := by unfold thread; rw [ht]
  rw [e]
  exact ⟨sameRegisters_refl _, .inl (sameStreams_refl _)⟩

/-- A thread whose registers stay, and whose streams stay where `M` does not name it. -/
theorem quietGroup_setThread {i : Nat} {th : Thread} (hr : SameRegisters (thread g i) th) (hs : SameStreams (thread g i) th ∨ M i) :
    QuietGroup ds M g (setThread g i th) := by
  refine ⟨rfl, rfl, rfl, fun _ _ => rfl, fun j => ?_⟩
  rcases thread_setThread g i j th with e | ⟨rfl, e⟩
  · rw [e]; exact ⟨sameRegisters_refl _, .inl (sameStreams_refl _)⟩
  · rw [e]; exact ⟨hr, hs⟩

theorem quietGroup_setPc (g : Group) (i : Nat) (pc : W64) : QuietGroup ds M g (setThread g i { thread g i with pc := pc }) :=
  quietGroup_setThread ⟨rfl, rfl, rfl, rfl, rfl, rfl⟩ (.inl ⟨rfl, rfl, rfl⟩)

/-- Every thread is changed in the same way. -/
theorem quietGroup_map {f : Thread → Thread} (hf : ∀ th, Settled th (f th)) :
    QuietGroup ds M g { g with threads := g.threads.map f } := by
  refine ⟨rfl, rfl, rfl, fun _ _ => rfl, fun i => ?_⟩
  unfold thread
  rw [List.getD_eq_getElem?_getD, List.getD_eq_getElem?_getD, List.getElem?_map]
  cases g.threads[i]? with
  | none => exact ⟨sameRegisters_refl _, .inl (sameStreams_refl _)⟩
  | some th => exact ⟨(hf th).1, .inl (hf th).2⟩

theorem quietGroup_foldl {α : Type} {f : Group → α → Group} (hf : ∀ g x, QuietGroup ds M g (f g x)) (l : List α) :
    QuietGroup ds M g (l.foldl f g) :=
  List.foldlRecOn l f (quietGroup_refl g) (fun _ hh x _ => quietGroup_trans hh (hf _ x))

/-! ### How a run goes on -/

theorem quietGroup_endClause (pcs : List (Nat × W64)) (back : Bool) : QuietGroup ds M g (endClause g pcs back) := by
  unfold endClause
  split
  · exact quietGroup_refl g
  · have hpcs : QuietGroup ds M g (pcs.foldl (fun g x => setThread g x.1 { thread g x.1 with pc := x.2 }) g) :=
      quietGroup_foldl (fun g x => quietGroup_setPc g x.1 x.2) pcs
    exact quietGroup_trans hpcs (quietGroup_of_eq rfl rfl rfl rfl rfl)

theorem quietGroup_advance (n : Nat) : QuietGroup ds M g (advance g n) := by
  unfold advance
  split
  · exact quietGroup_refl g
  · split
    · exact quietGroup_endClause _ _
    · split
      · exact quietGroup_of_eq rfl rfl rfl rfl rfl
      · exact quietGroup_endClause _ _

theorem quietGroup_addTok (id flag n : Nat) : QuietGroup ds M g (addTok g id flag n) := by
  unfold addTok
  split
  · exact quietGroup_of_eq rfl rfl rfl rfl rfl
  · exact quietGroup_refl g

end

/-! ### What the state does -/

theorem quietStore_refl (s : State) : QuietStore s s :=
  ⟨fun _ => rfl, fun _ _ => rfl, rfl, rfl, rfl, rfl, rfl, rfl, rfl, rfl, rfl, fun _ => rfl⟩

/-- Only the groups have changed. -/
theorem quietStore_groups {s t : State} (h : t = { s with groups := t.groups }) : QuietStore s t := by
  rw [h]
  exact ⟨fun _ => rfl, fun _ _ => rfl, rfl, rfl, rfl, rfl, rfl, rfl, rfl, rfl, rfl, fun _ => rfl⟩

theorem quietStore_trans {s t u : State} (a : QuietStore s t) (b : QuietStore t u) : QuietStore s u where
  bytes x := (b.bytes x).trans (a.bytes x)
  scratch k p := (b.scratch k p).trans (a.scratch k p)
  vers := b.vers.trans a.vers
  pois := b.pois.trans a.pois
  heaps := b.heaps.trans a.heaps
  shrouds := b.shrouds.trans a.shrouds
  seqWords := b.seqWords.trans a.seqWords
  dies := b.dies.trans a.dies
  clusters := b.clusters.trans a.clusters
  ports := b.ports.trans a.ports
  timebase := b.timebase.trans a.timebase
  sems k := (b.sems k).trans (a.sems k)

section
variable {ds : List Nat} {M : Nat → Nat → Prop} {s t u : State}

theorem quiet_refl (s : State) : Quiet ds M s s := ⟨quietStore_refl s, fun _ g hg => ⟨g, hg, quietGroup_refl g⟩⟩

theorem quiet_trans (a : Quiet ds M s t) (b : Quiet ds M t u) : Quiet ds M s u := by
  obtain ⟨as, ag⟩ := a
  obtain ⟨bs, bg⟩ := b
  refine ⟨quietStore_trans as bs, fun j h hh => ?_⟩
  obtain ⟨k, hk, qk⟩ := bg j h hh
  obtain ⟨g, hg, qg⟩ := ag j k hk
  exact ⟨g, hg, quietGroup_trans qg qk⟩

/-- The same, the later step first: it says where the earlier one ends. -/
theorem quiet_after (b : Quiet ds M t u) (a : Quiet ds M s t) : Quiet ds M s u := quiet_trans a b

/-- A list of quiet steps is quiet. -/
theorem quiet_foldl {α : Type} {f : State → α → State} (l : List α) (hf : ∀ t, ∀ x ∈ l, Quiet ds M t (f t x)) :
    Quiet ds M s (l.foldl f s) :=
  List.foldlRecOn l f (quiet_refl s) (fun _ ht x hx => quiet_trans ht (hf _ x hx))

/-- Operations in flight, translations, caches, faults, events, contexts and launches are no part of what stays. -/
theorem quiet_other
    (h : t = { s with ops := t.ops, nextId := t.nextId, tlb := t.tlb, walks := t.walks, cached := t.cached, stale := t.stale,
                      faults := t.faults, events := t.events, evSeq := t.evSeq, outN := t.outN, ctxs := t.ctxs,
                      launches := t.launches }) : Quiet ds M s t := by
  rw [h]
  exact ⟨⟨fun _ => rfl, fun _ _ => rfl, rfl, rfl, rfl, rfl, rfl, rfl, rfl, rfl, rfl, fun _ => rfl⟩,
    fun _ g hg => ⟨g, hg, quietGroup_refl g⟩⟩

/-- A change of a group. -/
theorem quiet_modGroup (gid : Nat) {f : Group → Group} (hf : ∀ g, getGroup s gid = some g → QuietGroup ds (M gid) g (f g)) :
    Quiet ds M s (modGroup s gid f) := by
  refine ⟨quietStore_groups rfl, fun j h hh => ?_⟩
  rw [getGroup_modGroup] at hh
  by_cases hj : j = gid
  · subst hj
    rw [if_pos rfl] at hh
    obtain ⟨g, hg, rfl⟩ := Option.map_eq_some_iff.1 hh
    exact ⟨g, hg, hf g hg⟩
  · rw [if_neg hj] at hh
    exact ⟨h, hh, quietGroup_refl h⟩

/-- A change of a group's issue state. -/
theorem quiet_modGroup_issue (gid : Nat) {f : Group → Group}
    (hf : ∀ g, (f g).threads = g.threads ∧ (f g).scal = g.scal ∧ (f g).spend = g.spend ∧ (f g).spois = g.spois ∧ (f g).dists = g.dists) :
    Quiet ds M s (modGroup s gid f) :=
  quiet_modGroup gid (fun g _ => by
    obtain ⟨h1, h2, h3, h4, h5⟩ := hf g
    exact quietGroup_of_eq h1 h2 h3 h4 h5)

/-- A change of a thread that leaves its registers and streams. -/
theorem quiet_modThread (gid tid : Nat) {f : Thread → Thread} (hf : ∀ th, Settled th (f th)) : Quiet ds M s (modThread s gid tid f) :=
  quiet_modGroup gid (fun g _ => quietGroup_setThread (hf (thread g tid)).1 (.inl (hf (thread g tid)).2))

/-- A change of several threads. -/
theorem quiet_modThreads (gid : Nat) (tids : List Nat) {f : Nat → Thread → Thread} (hf : ∀ i th, Settled th (f i th)) :
    Quiet ds M s (modThreads s gid tids f) :=
  quiet_modGroup gid (fun _ _ => quietGroup_foldl (fun g i =>
    quietGroup_setThread (hf i (thread g i)).1 (.inl (hf i (thread g i)).2)) tids)

/-- A thread's copy commits: against the state where it was read, its registers stay. -/
theorem quiet_commit {gid tid : Nat} {g : Group} {th : Thread} (h : Quiet ds M s t) (hg : getGroup s gid = some g)
    (hr : SameRegisters (thread g tid) th) (hm : SameStreams (thread g tid) th ∨ M gid tid) :
    Quiet ds M s (modThread t gid tid (fun _ => th)) := by
  obtain ⟨hs, hq⟩ := h
  refine ⟨quietStore_trans hs (quietStore_groups rfl), fun j x hx => ?_⟩
  unfold modThread at hx
  rw [getGroup_modGroup] at hx
  by_cases hj : j = gid
  · subst hj
    rw [if_pos rfl] at hx
    obtain ⟨y, hy, rfl⟩ := Option.map_eq_some_iff.1 hx
    obtain ⟨g', hg', q1, q2, q3, q4, q5⟩ := hq j y hy
    obtain rfl : g' = g := Option.some.inj (hg'.symm.trans hg)
    refine ⟨g', hg', q1, q2, q3, q4, fun i => ?_⟩
    rcases thread_setThread y tid i th with e | ⟨rfl, e⟩
    · rw [e]; exact q5 i
    · rw [e]; exact ⟨hr, hm⟩
  · rw [if_neg hj] at hx
    exact hq j x hx

/-- A change of a team that leaves its scratchpad. -/
theorem quiet_modTeam (key : Nat) {f : Team → Team} (hf : ∀ t, (f t).scratch = t.scratch) : Quiet ds M s (modTeam s key f) := by
  refine ⟨⟨fun _ => rfl, fun k p => ?_, rfl, rfl, rfl, rfl, rfl, rfl, rfl, rfl, rfl, fun _ => rfl⟩,
    fun _ g hg => ⟨g, hg, quietGroup_refl g⟩⟩
  unfold rdScratch modTeam
  simp only [mfind_mmod]
  by_cases hk : k = key
  · subst hk
    rw [if_pos rfl]
    cases mfind s.teams k with
    | none => rfl
    | some t => simp only [Option.map_some, hf]
  · rw [if_neg hk]

/-- Cores whose semaphores stay. -/
theorem quiet_cores (h : t = { s with cores := t.cores }) (hs : ∀ k, (getCore t k).sems = (getCore s k).sems) : Quiet ds M s t := by
  have h' : t = { s with cores := t.cores } := h
  generalize t.cores = c at h'
  subst h'
  exact ⟨⟨fun _ => rfl, fun _ _ => rfl, rfl, rfl, rfl, rfl, rfl, rfl, rfl, rfl, rfl, hs⟩,
    fun _ g hg => ⟨g, hg, quietGroup_refl g⟩⟩

/-- A group that has ended is there no more. -/
theorem quiet_dropGroup (gid : Nat) : Quiet ds M s { s with groups := mdel s.groups gid } := by
  refine ⟨quietStore_groups rfl, fun j h hh => ⟨h, ?_, quietGroup_refl h⟩⟩
  simp only [getGroup, mfind_mdel] at hh ⊢
  split at hh
  · cases hh
  · exact hh

end

end Sys2Proof.Machine
end

section
/-! Traps, flags, barriers, cleat rounds and the ends of groups and teams are quiet (R22, R32-R37, R43, R128, R311, R350). -/

namespace Sys2Proof.Machine

section
variable {ds : List Nat} {M : Nat → Nat → Prop} {s t : State}

/-! ### Traps and events -/

theorem quiet_addOp (o : Op) : Quiet ds M s (addOp s o) := quiet_other rfl

theorem quiet_postFault (lid gid tid : Nat) (rs : List TrapRec) : Quiet ds M s (postFault s lid gid tid rs) := by
  unfold postFault postLaunch
  split
  · exact quiet_refl s
  · split
    · exact quiet_refl s
    · exact quiet_other rfl

theorem quiet_reportDeferred (lid : Nat) (x : Tid) (pc : W64) (d : Deferred) : Quiet ds M s (reportDeferred s lid x pc d) :=
  quiet_postFault _ _ _ _

theorem quiet_deliverUser (k : Option Kernel) (lid gid tid sub : Nat) (a : TrapAt) (tr : Trap) :
    Quiet ds M s (deliverUser s k lid gid tid sub a tr) := by
  unfold deliverUser
  split
  · exact quiet_refl s
  · dsimp only
    split
    · exact quiet_modThread gid tid (fun _ => ⟨⟨rfl, rfl, rfl, rfl, rfl, rfl⟩, rfl, rfl, rfl⟩)
    · exact quiet_after (quiet_postFault _ _ _ _)
        (quiet_modThread gid tid (fun _ => ⟨⟨rfl, rfl, rfl, rfl, rfl, rfl⟩, rfl, rfl, rfl⟩))

theorem quiet_parkPage (gid tid sub : Nat) (a : TrapAt) (tr : Trap) : Quiet ds M s (parkPage s gid tid sub a tr) :=
  quiet_modThread gid tid (fun _ => ⟨⟨rfl, rfl, rfl, rfl, rfl, rfl⟩, rfl, rfl, rfl⟩)

theorem quiet_leaveRun (gid tid : Nat) : Quiet ds M s (modGroup s gid (fun g => leaveRun g tid)) :=
  quiet_modGroup_issue gid (fun _ => ⟨rfl, rfl, rfl, rfl, rfl⟩)

theorem quiet_takeTrapsAs (sub : Nat) (k : Option Kernel) (ctx lid gid : Nat) (a : TrapAt) (ts : List (Nat × Trap)) :
    Quiet ds M s (takeTrapsAs s sub k ctx lid gid a ts) := by
  refine quiet_foldl ts (fun t x _ => ?_)
  have hleave : Quiet ds M t (dropWalks (modGroup t gid (fun g => leaveRun g x.1)) (· == runExec t gid a.slot)) :=
    quiet_trans (quiet_leaveRun gid x.1) (quiet_other rfl)
  dsimp only
  split
  · exact quiet_trans hleave (quiet_trans (quiet_parkPage gid x.1 sub a x.2) (quiet_other rfl))
  · exact quiet_trans hleave (quiet_deliverUser _ _ _ _ _ _ _)

theorem quiet_countMiss (gid core ctx va : Nat) : Quiet ds M s (countMiss s gid core ctx va) := by
  unfold countMiss
  split
  · exact quiet_modGroup_issue gid (fun _ => ⟨rfl, rfl, rfl, rfl, rfl⟩)
  · exact quiet_refl s

theorem quiet_nextId (n : Nat) : Quiet ds M s { s with nextId := n } := quiet_other rfl

theorem quiet_takeTraps (k : Option Kernel) (ctx lid gid : Nat) (a : TrapAt) (ts : List (Nat × Trap)) :
    Quiet ds M s (takeTraps s k ctx lid gid a ts) := by
  unfold takeTraps
  split
  · exact quiet_refl _
  · exact quiet_after (quiet_takeTrapsAs _ _ _ _ _ _ _) (quiet_after
      (quiet_modGroup_issue gid (fun _ => ⟨rfl, rfl, rfl, rfl, rfl⟩)) (quiet_nextId _))

theorem quiet_trapRun (cx : Cx) (u : Bool) (ts : List (Nat × Trap)) : Quiet ds M s (trapRun s cx u ts) :=
  quiet_after (quiet_takeTraps _ _ _ _ _ _) (quiet_foldl (faultVas ts) (fun _ _ _ => quiet_countMiss _ _ _ _))

theorem quiet_advance (gid n : Nat) : Quiet ds M s (modGroup s gid (fun g => advance g n)) :=
  quiet_modGroup gid (fun _ _ => quietGroup_advance n)

theorem quiet_endClause (gid : Nat) (pcs : List (Nat × W64)) (back : Bool) :
    Quiet ds M s (modGroup s gid (fun g => endClause g pcs back)) :=
  quiet_modGroup gid (fun _ _ => quietGroup_endClause pcs back)

theorem quiet_addTok (gid id flag n : Nat) : Quiet ds M s (modGroup s gid (fun g => addTok g id flag n)) :=
  quiet_modGroup gid (fun _ _ => quietGroup_addTok id flag n)

theorem quiet_passed (gid : Nat) (ts : List Nat) : Quiet ds M s (modGroup s gid (fun g => passed g ts)) :=
  quiet_modGroup_issue gid (fun _ => ⟨rfl, rfl, rfl, rfl, rfl⟩)

theorem quiet_trapWhole (cx : Cx) (u : Bool) (tr : Trap) : Quiet ds M s (trapWhole s cx u tr) :=
  quiet_trans (quiet_trapRun cx u _) (quiet_advance _ _)

theorem quiet_stallRun (cx : Cx) (b : Bool) : Quiet ds M s (stallRun s cx b) :=
  quiet_modGroup_issue cx.gid (fun _ => ⟨rfl, rfl, rfl, rfl, rfl⟩)

theorem quiet_guard63 {new : State} (cx : Cx) (h : Quiet ds M s new) : Quiet ds M s (guard63 s new cx) := by
  unfold guard63
  split
  · exact h
  · split
    · exact quiet_stallRun _ _
    · exact h

/-! ### Translations and caches -/

theorem quiet_touchUnit (unit ctx va : Nat) (x : Exec) : Quiet ds M s (touchUnit s unit ctx va x) := by
  unfold touchUnit
  split
  · split
    · exact quiet_other rfl
    · unfold askWalk
      split
      · exact quiet_refl s
      · exact quiet_other rfl
  · exact quiet_refl s

theorem quiet_touchTlb (gid core ctx slot va : Nat) : Quiet ds M s (touchTlb s gid core ctx slot va) :=
  quiet_trans (quiet_countMiss _ _ _ _) (quiet_touchUnit _ _ _ _)

theorem quiet_fillLine (l : Line) : Quiet ds M s (fillLine s l) := quiet_other rfl

theorem quiet_fillFrom (core ctx orient pa : Nat) (l1 : Bool) : Quiet ds M s (fillFrom s core ctx orient pa l1) := by
  unfold fillFrom
  split
  · exact quiet_refl s
  · have h3 := quiet_trans (quiet_fillLine (ds := ds) (M := M) (s := s) (lineAt (llcUnit (stackOf pa)) ctx orient pa))
      (quiet_trans (quiet_fillLine (lineAt (l2Unit (homeDie pa)) ctx orient pa)) (quiet_fillLine (lineAt (secondUnit core pa) ctx orient pa)))
    dsimp only
    split
    · exact h3
    · exact quiet_trans h3 (quiet_trans (quiet_fillLine _) (quiet_other rfl))

theorem quiet_touchAll {α : Type} (cx : Cx) (gs : List (Got α)) : Quiet ds M s (touchAll s cx gs) :=
  quiet_foldl gs (fun _ g _ => quiet_trans (quiet_foldl g.work.vas (fun _ _ _ => quiet_touchTlb _ _ _ _ _))
    (quiet_foldl g.work.lines (fun _ _ _ => quiet_fillFrom _ _ _ _ _)))

/-! ### Flags -/

theorem quiet_wakeThread (gid : Nat) (g : Group) (tid : Nat) : Quiet ds M s (wakeThread s gid g tid) := by
  have hst : Quiet ds M s (modThread s gid tid (fun t => { t with st := .ready })) :=
    quiet_modThread gid tid (fun _ => ⟨⟨rfl, rfl, rfl, rfl, rfl, rfl⟩, rfl, rfl, rfl⟩)
  unfold wakeThread
  dsimp only
  split
  · split
    · exact quiet_refl s
    · split
      · exact hst
      · exact quiet_trans hst (quiet_after (quiet_takeTrapsAs _ _ _ _ _ _ _)
          (quiet_modThread gid tid (fun _ => ⟨⟨rfl, rfl, rfl, rfl, rfl, rfl⟩, rfl, rfl, rfl⟩)))
  · exact quiet_refl s

theorem quiet_wakeFlags (gid : Nat) : Quiet ds M s (wakeFlags s gid) := by
  unfold wakeFlags
  split
  · exact quiet_refl s
  · exact quiet_foldl _ (fun _ _ _ => quiet_wakeThread _ _ _)

theorem quiet_lowerFlag (gid tok : Nat) : Quiet ds M s (lowerFlag s gid tok) := by
  unfold lowerFlag
  split
  · exact quiet_refl s
  · exact quiet_after (quiet_wakeFlags _) (quiet_modGroup_issue gid (fun _ => ⟨rfl, rfl, rfl, rfl, rfl⟩))

theorem quiet_letGo (gid tok : Nat) : Quiet ds M s (letGo s gid tok) := by
  unfold letGo
  split
  · exact quiet_refl s
  · exact quiet_trans (quiet_lowerFlag _ _) (quiet_lowerFlag _ _)

theorem quiet_addFence (x : Tid) (d : List Dep) : Quiet ds M s (addFence s x d) :=
  quiet_modThread x.gid x.tid (fun _ => ⟨⟨rfl, rfl, rfl, rfl, rfl, rfl⟩, rfl, rfl, rfl⟩)

/-! ### Barriers -/

theorem quiet_barrierCheck (key b : Nat) : Quiet ds M s (barrierCheck s key b) := by
  unfold barrierCheck
  split
  · exact quiet_refl s
  · dsimp only
    split
    · exact quiet_refl s
    · refine quiet_after (quiet_foldl _ (fun u x _ => ?_)) (quiet_modTeam key (fun _ => rfl))
      have harr : Quiet ds M u (modThread u x.gid x.tid (fun t => { t with arrived := t.arrived.filter (· ≠ b) })) :=
        quiet_modThread x.gid x.tid (fun _ => ⟨⟨rfl, rfl, rfl, rfl, rfl, rfl⟩, rfl, rfl, rfl⟩)
      split
      · exact quiet_trans harr (quiet_after (quiet_addFence _ _)
          (quiet_modThread x.gid x.tid (fun _ => ⟨⟨rfl, rfl, rfl, rfl, rfl, rfl⟩, rfl, rfl, rfl⟩)))
      · exact harr

theorem quiet_barrierArrive (key b : Nat) (x : Tid) : Quiet ds M s (barrierArrive s key b x) := by
  unfold barrierArrive
  split
  · exact quiet_refl s
  · exact quiet_after (quiet_modTeam key (fun _ => rfl))
      (quiet_modThread x.gid x.tid (fun _ => ⟨⟨rfl, rfl, rfl, rfl, rfl, rfl⟩, rfl, rfl, rfl⟩))

theorem quiet_barrierObserve (key b : Nat) (x : Tid) : Quiet ds M s (barrierObserve s key b x) := by
  unfold barrierObserve
  split
  · exact quiet_refl s
  · exact quiet_addFence _ _

/-! ### Cleats -/

theorem quiet_setCleat (key c : Nat) (cl : Cleat) : Quiet ds M s (setCleat s key c cl) := quiet_modTeam key (fun _ => rfl)

theorem quiet_endRound (key c : Nat) (cl : Cleat) : Quiet ds M s (endRound s key c cl) := by
  unfold endRound
  dsimp only
  split
  · exact quiet_setCleat _ _ _
  · refine quiet_trans (quiet_setCleat _ _ _) (quiet_foldl _ (fun _ gid _ => quiet_modGroup gid (fun g _ => quietGroup_map (fun th => ?_))))
    split
    · exact ⟨⟨rfl, rfl, rfl, rfl, rfl, rfl⟩, rfl, rfl, rfl⟩
    · exact ⟨sameRegisters_refl th, sameStreams_refl th⟩

theorem quiet_releaseSigner (x : Tid) : Quiet ds M s (releaseSigner s x) := by
  unfold releaseSigner grantGroup
  refine quiet_after (quiet_after (quiet_modGroup_issue x.gid (fun g => ?_)) (quiet_nextId _))
    (quiet_modThread x.gid x.tid (fun _ => ⟨⟨rfl, rfl, rfl, rfl, rfl, rfl⟩, rfl, rfl, rfl⟩))
  split
  · exact ⟨rfl, rfl, rfl, rfl, rfl⟩
  · exact ⟨rfl, rfl, rfl, rfl, rfl⟩

theorem quiet_lowerSigners (sg : List Signer) : Quiet ds M s (lowerSigners s sg) :=
  quiet_foldl _ (fun _ _ _ => quiet_lowerFlag _ _)

theorem quiet_issueCall (key : Nat) (tm : Team) (cl : Cleat) (call : Call) : Quiet ds M s (issueCall s key tm cl call) := by
  unfold issueCall
  split
  · exact quiet_refl s
  · exact quiet_addOp _

theorem quiet_closeCheck (key c : Nat) : Quiet ds M s (closeCheck s key c) := by
  have hrel : ∀ (u : State) (l : List Signer), Quiet ds M u (l.foldl (fun s x => releaseSigner s x.who) u) :=
    fun u l => quiet_foldl l (fun _ _ _ => quiet_releaseSigner _)
  unfold closeCheck
  split
  · exact quiet_refl s
  · dsimp only
    split
    · exact quiet_refl s
    · split
      · exact quiet_refl s
      · split
        · split
          · exact quiet_trans (quiet_trans (quiet_lowerSigners _) (quiet_endRound _ _ _)) (hrel _ _)
          · exact quiet_trans (quiet_lowerSigners _) (quiet_endRound _ _ _)
        · split
          · exact quiet_trans (quiet_endRound _ _ _) (hrel _ _)
          · split
            · exact quiet_endRound _ _ _
            · exact quiet_trans (quiet_issueCall _ _ _ _) (quiet_endRound _ _ _)

theorem quiet_teamCheck (key : Nat) : Quiet ds M s (teamCheck s key) :=
  quiet_trans (quiet_foldl _ (fun _ _ _ => quiet_closeCheck _ _)) (quiet_foldl _ (fun _ _ _ => quiet_barrierCheck _ _))

/-- A thread signs a cleat, or does not. -/
theorem quiet_sign (key c : Nat) (sg : Signer) (op : Nat) (fmt : Option W32) (reg : Nat) (call : Option Call) :
    Quiet ds M s (sign s key c sg op fmt reg call).2 := by
  unfold sign
  split
  · exact quiet_refl s
  · dsimp only
    split
    · exact quiet_refl s
    · split
      · exact quiet_refl s
      · split
        · exact quiet_setCleat _ _ _
        · split
          · exact quiet_setCleat _ _ _
          · exact quiet_setCleat _ _ _

/-! ### Ends -/

theorem quiet_setRegion (ctx key : Nat) (coarse : Bool) (r : Region) : Quiet ds M s (setRegion s ctx key coarse r) := by
  unfold setRegion
  split
  · exact quiet_refl s
  · refine quiet_after (quiet_other rfl) (quiet_modTeam key (fun t => ?_))
    split <;> rfl

theorem quiet_teamEnd (key : Nat) : Quiet ds M s (teamEnd s key) := by
  unfold teamEnd
  split
  · exact quiet_refl s
  · split
    · exact quiet_refl s
    · exact quiet_after (quiet_after (quiet_other rfl) (quiet_modTeam key (fun _ => rfl)))
        (quiet_after (quiet_setRegion _ _ _ _) (quiet_setRegion _ _ _ _))

/-- Bins are no semaphores. -/
theorem quiet_binFlush (lid : Nat) : Quiet ds M s (binFlush s lid) := by
  unfold binFlush
  split
  · exact quiet_refl s
  · split
    · exact quiet_refl s
    · refine quiet_cores rfl (fun k => ?_)
      unfold getCore mget
      dsimp only
      induction s.cores with
      | nil => rfl
      | cons x l ih =>
        obtain ⟨i, c⟩ := x
        simp only [List.map_cons, mfind]
        split
        · rfl
        · exact ih

theorem quiet_setCore_bins (core : Nat) (b : NMap Bin) :
    Quiet ds M s (setCore s core { getCore s core with bins := b }) := by
  refine quiet_cores rfl (fun k => ?_)
  unfold setCore getCore
  rw [mget_mset]
  split
  · rename_i h; subst h; rfl
  · rfl

theorem quiet_binReady (core bin : Nat) : Quiet ds M s (binReady s core bin) := quiet_setCore_bins _ _

theorem quiet_setTimer (core bin v : Nat) : Quiet ds M s (setTimer s core bin v) := by
  unfold setTimer
  dsimp only
  split
  · exact quiet_trans (quiet_setCore_bins _ _) (quiet_binReady _ _)
  · exact quiet_setCore_bins _ _

theorem quiet_groupEnd (gid : Nat) : Quiet ds M s (groupEnd s gid) := by
  unfold groupEnd
  split
  · exact quiet_refl s
  · split
    · exact quiet_refl s
    · refine quiet_trans (quiet_dropGroup gid) (quiet_trans ?_ (quiet_binFlush _))
      split
      · exact quiet_refl _
      · exact quiet_teamEnd _

theorem quiet_exitThread (gid tid : Nat) : Quiet ds M s (exitThread s gid tid) := by
  unfold exitThread
  split
  · exact quiet_refl s
  · exact quiet_after (quiet_foldl _ (fun _ _ _ => quiet_reportDeferred _ _ _ _))
      (quiet_modThread gid tid (fun _ => ⟨⟨rfl, rfl, rfl, rfl, rfl, rfl⟩, rfl, rfl, rfl⟩))

theorem quiet_afterExit (gid : Nat) : Quiet ds M s (afterExit s gid) := by
  unfold afterExit
  split
  · exact quiet_refl s
  · refine quiet_trans ?_ (quiet_groupEnd gid)
    split
    · exact quiet_refl s
    · exact quiet_teamCheck _

/-! ### Task records -/

theorem quiet_wakeTasks : Quiet ds M s (wakeTasks s) := by
  refine ⟨quietStore_groups rfl, fun j h hh => ?_⟩
  unfold wakeTasks getGroup at hh
  unfold getGroup
  dsimp only at hh
  have key : ∀ l : NMap Group, mfind (l.map (fun (gid, g) => (gid, { g with threads := g.threads.map (fun t =>
      match t.st with
      | .waiting (.task pa) => if bitOf (rdMem s (pa + 4) 4) 2 then { t with st := .ready } else t
      | _ => t) }))) j = some h → ∃ g, mfind l j = some g ∧ QuietGroup ds (M j) g h := by
    intro l
    induction l with
    | nil => intro e; cases e
    | cons x l ih =>
      obtain ⟨i, g⟩ := x
      simp only [List.map_cons, mfind]
      split
      · intro e
        cases e
        refine ⟨g, rfl, quietGroup_map (fun th => ?_)⟩
        split
        · split
          · exact ⟨⟨rfl, rfl, rfl, rfl, rfl, rfl⟩, rfl, rfl, rfl⟩
          · exact ⟨sameRegisters_refl th, sameStreams_refl th⟩
        · exact ⟨sameRegisters_refl th, sameStreams_refl th⟩
      · exact ih
  exact key s.groups hh

end

end Sys2Proof.Machine
end

section
/-! Reading, signing and committing are quiet (R25, R34, R53): what an instruction of a run does when it only reads its operands. -/

namespace Sys2Proof.Machine

/-! ### Reading -/

/-- What reading any operand may move: the streams and the place in the random stream (R53, R54). -/
def anyOperand : Allow := { streams := [0, 1, 2, 3], draws := true }

theorem srcOk_any (code : Nat) : SrcOk anyOperand code :=
  ⟨fun h1 h2 => by simp only [anyOperand, List.mem_cons, List.not_mem_nil, or_false]; omega, fun _ => rfl⟩

theorem sameRegisters_of_moved {a b : Thread} (h : Moved anyOperand a b) : SameRegisters a b := by
  obtain ⟨h1, -, -, hk⟩ := h
  rw [h1] at hk ⊢
  exact ⟨rfl, rfl, rfl, rfl, rfl, hk rfl⟩

section
variable {s : State} {cx : Cx} {tid : Nat}

theorem rdKeeps_anyA (wide : Bool) : RdKeeps anyOperand (readA s cx tid wide) := rdKeeps_readA _ (srcOk_any _)
theorem rdKeeps_anyB (wide : Bool) : RdKeeps anyOperand (readB s cx tid wide) := rdKeeps_readB _ (fun _ => srcOk_any _)
theorem rdKeeps_anyD (wide : Bool) : RdKeeps anyOperand (readD s cx tid wide) := rdKeeps_readD _ (srcOk_any _)

/-- What is done under a condition, and what goes on then. -/
theorem rdKeeps_when {al : Allow} {α : Type} {p : Prop} [Decidable p] {m : Rd PUnit} {k : PUnit → Rd α} (hm : RdKeeps al m)
    (hk : ∀ u, RdKeeps al (k u)) : RdKeeps al (if p then m >>= k else pure PUnit.unit >>= k) := by
  split
  · exact rdKeeps_bind hm hk
  · exact rdKeeps_bind (rdKeeps_pure _) hk

theorem rdKeeps_takeNote {al : Allow} : RdKeeps al takeNote := by
  intro w v w' h
  cases h
  exact moved_refl al _

theorem rdKeeps_descRegs {al : Allow} (d : Desc) (n : Nat) : RdKeeps al (descRegs cx d n) :=
  rdKeeps_ite (rdKeeps_pure _) (rdKeeps_bind rdKeeps_get (fun _ => rdKeeps_ite (rdKeeps_stall _) (rdKeeps_readBlock _ _)))

theorem rdKeeps_spansRd {al : Allow} (l : List Span) : RdKeeps al (spansRd cx l) := rdKeeps_remotesRd _

end

/-! ### Commits -/

/-- Streams may move in the threads of the run. -/
def RunMoves (cx : Cx) (j k : Nat) : Prop := j = cx.gid ∧ k ∈ cx.low :: cx.fl.run

section
variable {ds : List Nat} {M : Nat → Nat → Prop} {s t : State} {cx : Cx}

/-- The copy of a participant that has read commits. -/
theorem quiet_commitRead {α : Type} {rd : Nat → Rd α} {i : Nat} {g : Got α} (h : Quiet ds (RunMoves cx) s t)
    (hg : getGroup s cx.gid = some cx.g) (hrd : ∀ tid, RdKeeps anyOperand (rd tid)) (hi : i ∈ cx.low :: cx.fl.run)
    (hr : readOne s cx rd false i = .ok g) : Quiet ds (RunMoves cx) s (modThread t cx.gid g.tid (fun _ => g.work.th)) := by
  obtain ⟨rfl, hm⟩ := readOne_moved hrd hr
  exact quiet_commit h hg (sameRegisters_of_moved hm) (.inr ⟨rfl, hi⟩)

/-- The copies of all that have read commit. -/
theorem quiet_commitReads {α : Type} {rd : Nat → Rd α} {tids : List Nat} (h : Quiet ds (RunMoves cx) s t)
    (hg : getGroup s cx.gid = some cx.g) (hrd : ∀ tid, RdKeeps anyOperand (rd tid)) (hi : ∀ i ∈ tids, i ∈ cx.low :: cx.fl.run) :
    Quiet ds (RunMoves cx) s ((readAll s cx rd false tids).got.foldl (fun s g => modThread s cx.gid g.tid (fun _ => g.work.th)) t) :=
  List.foldlRecOn _ _ h (fun _ ht g hgm => by
    obtain ⟨i, hm, hr⟩ := readAll_got.1 g hgm
    exact quiet_commitRead ht hg hrd (hi i hm) hr)

/-- What commits has no destination, no predicate and no register of its own. -/
structure Harmless (cx : Cx) (M : Nat → Nat → Prop) (g : Got Out) : Prop where
  plan : g.plan = .none
  preds : g.val.preds = []
  regs : SameRegisters (thread cx.g g.tid) (g.val.upd g.work.th)
  streams : SameStreams (thread cx.g g.tid) (g.val.upd g.work.th) ∨ M cx.gid g.tid

theorem quiet_commitAll (hg : getGroup s cx.gid = some cx.g) (outs : List (Got Out)) (ho : ∀ g ∈ outs, Harmless cx M g)
    (h : Quiet ds M s t) : Quiet ds M s (commitAll t cx outs) := by
  unfold commitAll
  refine List.foldlRecOn (motive := fun acc : State × Bool => Quiet ds M s acc.1) _ _ h (fun acc ha g hgm => ?_)
  obtain ⟨hp, hq, hr, hs⟩ := ho g hgm
  dsimp only
  rw [hp]
  unfold commitOne
  rw [hq]
  exact quiet_commit ha hg hr hs

/-- A lane instruction without a destination, whose update leaves registers and streams of a thread. -/
theorem quiet_laneExec {α : Type} {rd : Nat → Rd α} {fin : List (Got α) → Got α → Out} {whole : Bool}
    (hg : getGroup s cx.gid = some cx.g) (hrd : ∀ tid, RdKeeps anyOperand (rd tid))
    (hfin : ∀ gs g, (fin gs g).preds = [] ∧ ∀ th, Settled th ((fin gs g).upd th)) :
    Quiet ds (RunMoves cx) s (laneExec s cx false rd fin whole) := by
  have hread : ∀ {i : Nat} {gs : List (Got α)} {g : Got α}, i ∈ cx.low :: cx.fl.run → readOne s cx rd false i = .ok g →
      Harmless cx (RunMoves cx) { g with val := fin gs g } := by
    intro i gs g hi hr
    obtain ⟨hp, hup⟩ := hfin gs g
    obtain ⟨-, _, _, -, -, -, hplan⟩ := readOne_ok hr
    obtain ⟨rfl, hm⟩ := readOne_moved hrd hr
    exact ⟨(hplan rfl).2, hp, sameRegisters_trans (sameRegisters_of_moved hm) (hup _).1, .inr ⟨rfl, hi⟩⟩
  unfold laneExec
  split
  · dsimp only
    split
    · exact quiet_stallRun _ _
    · exact quiet_trapWhole _ _ _
    · rename_i g gs _ _ hgot
      obtain ⟨i, hi, hr⟩ := readAll_got.1 g (by rw [hgot]; exact List.mem_cons_self)
      have hi : i ∈ cx.low :: cx.fl.run := by rw [List.mem_singleton.1 hi]; exact List.mem_cons_self
      simp only [Bool.false_eq_true, if_false]
      refine quiet_trans (quiet_commitAll hg _ ?_ (quiet_after (quiet_trapRun _ _ _) (quiet_touchAll _ _))) (quiet_advance _ _)
      intro x hx
      rcases List.mem_cons.1 hx with rfl | hx
      · exact hread hi hr
      · obtain ⟨hp, hup⟩ := hfin [g] g
        unfold uniformOuts at hx
        obtain ⟨k, -, hk⟩ := List.mem_filterMap.1 hx
        simp only [Bool.not_false, true_or, if_true, Option.some.injEq] at hk
        subst hk
        exact ⟨rfl, hp, (hup _).1, .inl (hup _).2⟩
    · exact quiet_advance _ _
  · have hall : Quiet ds (RunMoves cx) s (laneRetire s cx (readAll s cx rd false cx.todo) fin) := by
      refine quiet_commitAll hg _ ?_ (quiet_after (quiet_trapRun _ _ _) (quiet_touchAll _ _))
      intro x hx
      obtain ⟨g, hgm, rfl⟩ := List.mem_map.1 hx
      obtain ⟨i, hi, hr⟩ := readAll_got.1 g hgm
      exact hread (todo_sub cx hi) hr
    dsimp only
    split
    · split
      · exact quiet_stallRun _ _
      · exact quiet_after (quiet_stallRun _ _) (quiet_after (quiet_passed _ _) hall)
    · exact quiet_after (quiet_advance _ _) hall

/-! ### Signing -/

/-- The copy that a signer commits, if it commits one. -/
def CommitOk (cx : Cx) (M : Nat → Nat → Prop) (tid : Nat) (th : Option Thread) : Prop :=
  ∀ t, th = some t → SameRegisters (thread cx.g tid) t ∧ (SameStreams (thread cx.g tid) t ∨ M cx.gid tid)

theorem commitOk_none {tid : Nat} : CommitOk cx M tid none := fun _ e => nomatch e

theorem quiet_commitWork {tid : Nat} {th : Option Thread} (hg : getGroup s cx.gid = some cx.g) (hth : CommitOk cx M tid th)
    (h : Quiet ds M s t) : Quiet ds M s (commitWork t cx.gid tid th) := by
  unfold commitWork
  split
  · exact h
  · rename_i x
    obtain ⟨hr, hs⟩ := hth x rfl
    exact quiet_commit h hg hr hs

theorem quiet_waitSecond (tid c : Nat) : Quiet ds M s (waitSecond s cx tid c) := by
  unfold waitSecond
  exact quiet_after (quiet_modThread cx.gid tid (fun _ => ⟨⟨rfl, rfl, rfl, rfl, rfl, rfl⟩, rfl, rfl, rfl⟩)) (quiet_leaveRun _ _)

theorem quiet_signOne {key c tid : Nat} {counted : Bool} {wait : Option Wait} {acc : SignAcc} {sg : Sig} {th : Option Thread}
    (hg : getGroup s cx.gid = some cx.g) (hth : CommitOk cx M tid th) (h : Quiet ds M s acc.s) :
    Quiet ds M s (signOne cx key c counted wait acc tid sg th).s := by
  unfold signOne
  dsimp only
  generalize hsign : sign acc.s key c _ _ _ _ _ = r
  have hq : Quiet ds M s r.2 := by rw [← hsign]; exact quiet_trans h (quiet_sign _ _ _ _ _ _ _)
  obtain ⟨r, u⟩ := r
  have hw : Quiet ds M s (commitWork u cx.gid tid th) := quiet_commitWork hg hth hq
  cases r with
  | outside =>
    dsimp only
    exact quiet_after (quiet_modThread cx.gid tid (fun t => by
      split
      · exact ⟨⟨rfl, rfl, rfl, rfl, rfl, rfl⟩, rfl, rfl, rfl⟩
      · exact ⟨sameRegisters_refl t, sameStreams_refl t⟩)) hw
  | second => exact quiet_trans hq (quiet_waitSecond _ _)
  | diverged fmt => exact quiet_trans hq (quiet_closeCheck _ _)
  | done =>
    dsimp only
    split
    · exact h
    · refine quiet_after (quiet_closeCheck _ _) ?_
      generalize commitWork u cx.gid tid th = v at hw
      have htok : ∀ b tok, Quiet ds M s
          (if b = true then modGroup { v with nextId := v.nextId + 1 } cx.gid (fun g => addTok g tok cx.setb 1) else v) := by
        intro b tok
        split
        · exact quiet_after (quiet_addTok _ _ _ _) (quiet_trans hw (quiet_nextId _))
        · exact hw
      cases wait with
      | none => exact htok _ _
      | some w =>
        exact quiet_after (quiet_modThread cx.gid tid (fun _ => ⟨⟨rfl, rfl, rfl, rfl, rfl, rfl⟩, rfl, rfl, rfl⟩)) (htok _ _)

theorem quiet_signEach {key c : Nat} {counted : Bool} {wait : Option Wait} (hg : getGroup s cx.gid = some cx.g)
    (sigs : List (Nat × Sig × Option Thread)) (hs : ∀ x ∈ sigs, CommitOk cx M x.1 x.2.2) (acc : SignAcc) (h : Quiet ds M s acc.s) :
    Quiet ds M s (signEach cx key c counted wait acc sigs).s :=
  List.foldlRecOn (motive := fun acc : SignAcc => Quiet ds M s acc.s) _ _ h (fun _ ha x hx => quiet_signOne hg (hs x hx) ha)

theorem quiet_signRun {key c : Nat} {counted : Bool} {wait : Option Wait} (hg : getGroup s cx.gid = some cx.g)
    (sigs : List (Nat × Sig × Option Thread)) (hs : ∀ x ∈ sigs, CommitOk cx M x.1 x.2.2) :
    Quiet ds M s (signRun s cx key c counted wait sigs) :=
  quiet_after (quiet_trapRun _ _ _) (quiet_signEach hg sigs hs _ (quiet_refl s))

/-- A reading at a later state of what the run's threads have: their registers are those of the run. -/
theorem quiet_signThreads {key c : Nat} {rd : State → Nat → Rd Sig} (hg : getGroup s cx.gid = some cx.g)
    (hrd : ∀ u tid, RdKeeps anyOperand (rd u tid)) (tids : List Nat) (ht : ∀ i ∈ tids, i ∈ cx.low :: cx.fl.run) :
    ∀ acc : SignAcc, Quiet ds (RunMoves cx) s acc.s → Quiet ds (RunMoves cx) s (signThreads cx key c rd tids acc).1.s := by
  induction tids with
  | nil => exact fun _ h => h
  | cons i tids ih =>
    intro acc h
    have ih := ih (fun k hk => ht k (List.mem_cons_of_mem _ hk))
    unfold signThreads
    split
    · exact h
    · exact ih _ h
    · rename_i g hr
      obtain ⟨rfl, hm⟩ := readOne_moved (hrd acc.s) hr
      refine ih _ (quiet_signOne hg (fun t e => ?_) (quiet_trans h (quiet_touchAll _ _)))
      cases e
      exact ⟨sameRegisters_of_moved hm, .inr ⟨rfl, ht _ List.mem_cons_self⟩⟩

end

/-! ### Instructions -/

/-- With these fields, `body` is quiet, whatever run stands in the state. -/
def QuietBody (f : FR) (ds : List Nat) (body : State → Cx → State) : Prop :=
  ∀ s cx, cx.f = f → getGroup s cx.gid = some cx.g → Quiet ds (RunMoves cx) s (body s cx)

section
variable {i : Instr} {op : Nat} {ds : List Nat} {body : State → Cx → State}

/-- An instruction is quiet when what it answers is. -/
theorem quietFrame_of (h : ∀ s t, exec i s = .next t → ∃ cx : Cx, s.cur = .group cx.gid ∧ getGroup s cx.gid = some cx.g ∧
    cx.g.flight = some cx.fl ∧ Quiet ds (RunMoves cx) s t) : QuietFrame i ds := by
  intro s t he
  obtain ⟨cx, hcur, hg, hf, hs, hq⟩ := h s t he
  refine ⟨hs.bytes, hs.scratch, hs.vers, hs.pois, hs.heaps, hs.shrouds, hs.seqWords, hs.dies, hs.clusters, hs.ports, hs.timebase,
    hs.sems, fun j h hh => ?_⟩
  obtain ⟨g, hgj, h1, h2, h3, h4, h5⟩ := hq j h hh
  refine ⟨g, hgj, h1, h2, h3, h4, fun k => ⟨(h5 k).1, ?_⟩⟩
  rcases (h5 k).2 with hk | ⟨rfl, hm⟩
  · exact .inl hk
  · rw [hg] at hgj
    cases hgj
    exact .inr ⟨hcur, cx.fl, hf, hm⟩

/-- The checks of a core instruction are quiet, and so is its body. -/
theorem quiet_withRun {s t : State} {ext legal : Bool} {e : Entry} {m : Mod} {f : FR} (hb : QuietBody f ds body)
    (h : withRun s op ext e m f legal (body s) = .next t) : ∃ cx : Cx, s.cur = .group cx.gid ∧ getGroup s cx.gid = some cx.g ∧
      cx.g.flight = some cx.fl ∧ Quiet ds (RunMoves cx) s t := by
  unfold withRun at h
  split at h
  · cases h
  · rename_i cx hr
    obtain ⟨hcur, hg, hf, -, -, hcf⟩ := runCx_some hr
    refine ⟨cx, hcur, hg, hf, ?_⟩
    split at h
    · cases h; exact quiet_trapWhole _ _ _
    · dsimp only at h
      split at h
      · cases h; exact quiet_trapWhole _ _ _
      · cases h; exact hb s cx hcf hg

theorem quietFrame_r {f : FR} (hx : ∀ s, exec i s = coreR op f s (body s)) (hb : QuietBody f ds body) : QuietFrame i ds := by
  refine quietFrame_of (fun s t h => ?_)
  rw [hx] at h
  unfold coreR withEntry at h
  split at h
  · exact quiet_withRun hb h
  · cases h

theorem quietFrame_t {f : FR} {m : Mod} (hx : ∀ s, exec i s = coreT op f m s (body s)) (hb : QuietBody f ds body) : QuietFrame i ds := by
  refine quietFrame_of (fun s t h => ?_)
  rw [hx] at h
  unfold coreT withEntry at h
  split at h
  · exact quiet_withRun hb h
  · cases h

theorem quietFrame_i {f : FI} (hx : ∀ s, exec i s = coreI op f s (body s))
    (hb : QuietBody { u := f.u, d := f.d, a := 0, b := 0 } ds body) : QuietFrame i ds := by
  refine quietFrame_of (fun s t h => ?_)
  rw [hx] at h
  unfold coreI withEntry at h
  split at h
  · exact quiet_withRun hb h
  · cases h

/-- A base instruction and its twin. -/
theorem quietFrame_withTwin {j : Instr} {f : FR} {m : Mod} (op : Nat) (hb : QuietBody f ds body)
    (hx : ∀ s, exec i s = coreR op f s (body s)) (hy : ∀ s, exec j s = coreT op f m s (body s)) :
    WithTwin (fun i => QuietFrame i ds) i j := ⟨quietFrame_r hx hb, quietFrame_t hy hb⟩

end

end Sys2Proof.Machine
end

section
/-! Waits, rejoins, barriers, traps, engine calls and DLOAD change no register and no byte (R22, R167, R169, R171, R207). -/

namespace Sys2Proof.Machine

section
variable {ds : List Nat} {M : Nat → Nat → Prop} {s : State} {cx : Cx}

/-! ### Bodies that need a team -/

theorem quiet_teamRun {index : Nat} {inRange : Bool} {body : Nat → State} (h : ∀ key, Quiet ds M s (body key)) :
    Quiet ds M s (teamRun s cx index inRange body) := by
  unfold teamRun
  split
  · split
    · exact h _
    · exact quiet_trapWhole _ _ _
  · exact quiet_trapWhole _ _ _

/-! ### Rejoins, barriers and exits -/

theorem quiet_rejoinRun (hg : getGroup s cx.gid = some cx.g) (w : Wait) : Quiet ds M s (rejoinRun s cx w) :=
  quiet_teamRun (fun _ => quiet_after (quiet_endClause _ _ _) (quiet_signRun hg _ (fun x hx => by
    obtain ⟨i, -, rfl⟩ := List.mem_map.1 hx
    exact commitOk_none)))

/-- A thread waits, or goes to its next clause. -/
theorem quiet_setWait (gid tid : Nat) (w : TState) (pc : W64) :
    Quiet ds M s (modThread s gid tid (fun t => { t with st := w, pc := pc })) :=
  quiet_modThread gid tid (fun _ => ⟨⟨rfl, rfl, rfl, rfl, rfl, rfl⟩, rfl, rfl, rfl⟩)

theorem quiet_setPc (gid tid : Nat) (pc : W64) : Quiet ds M s (modThread s gid tid (fun t => { t with pc := pc })) :=
  quiet_modThread gid tid (fun _ => ⟨⟨rfl, rfl, rfl, rfl, rfl, rfl⟩, rfl, rfl, rfl⟩)

theorem quiet_setState (gid tid : Nat) (w : TState) : Quiet ds M s (modThread s gid tid (fun t => { t with st := w })) :=
  quiet_modThread gid tid (fun _ => ⟨⟨rfl, rfl, rfl, rfl, rfl, rfl⟩, rfl, rfl, rfl⟩)

end

section
variable (f : FR)

theorem rejn_quiet : QuietFrame (.rejn f) :=
  quietFrame_r (op := 0x00A) (fun _ => rfl) (fun _ _ _ hg => quiet_rejoinRun hg _)

theorem rejnCmt_quiet : QuietFrame (.rejnCmt f) :=
  quietFrame_r (op := 0x00B) (body := fun s cx =>
    rejoinRun { s with nextId := s.nextId + 1 } cx (.commit f.a.toNat cx.fl.hdr cx.fl.slot s.nextId)) (fun _ => rfl)
    (fun s _ _ hg => quiet_trans (quiet_nextId _) (quiet_rejoinRun (s := { s with nextId := s.nextId + 1 }) hg _))

theorem bar_quiet : QuietFrame (.bar f) :=
  quietFrame_r (op := 0x00C) (fun _ => rfl) (fun _ _ _ _ => quiet_teamRun (fun _ => quiet_after (quiet_endClause _ _ _)
    (quiet_foldl _ (fun _ _ _ => quiet_after (quiet_barrierCheck _ _) (quiet_after (quiet_setWait _ _ _ _) (quiet_barrierArrive _ _ _))))))

theorem bara_quiet : QuietFrame (.bara f) :=
  quietFrame_r (op := 0x00D) (fun _ => rfl) (fun _ _ _ _ => quiet_teamRun (fun _ => quiet_after (quiet_advance _ _)
    (quiet_foldl _ (fun _ _ _ => quiet_after (quiet_barrierCheck _ _) (quiet_barrierArrive _ _ _)))))

theorem barw_quiet : QuietFrame (.barw f) :=
  quietFrame_r (op := 0x00E) (fun _ => rfl) (fun _ _ _ _ => quiet_teamRun (fun _ => quiet_after (quiet_endClause _ _ _)
    (quiet_foldl _ (fun _ _ _ => by
      split
      · exact quiet_setWait _ _ _ _
      · exact quiet_after (quiet_setPc _ _ _) (quiet_barrierObserve _ _ _)))))

theorem clset_quiet : QuietFrame (.clset f) :=
  quietFrame_r (op := 0x00F) (fun _ => rfl) (fun _ _ _ _ => quiet_teamRun (fun _ => by
    split
    · exact quiet_stallRun _ _
    · exact quiet_trapWhole _ _ _
    · refine quiet_after (quiet_advance _ _) ?_
      split
      · exact quiet_refl _
      · exact quiet_setCleat _ _ _))

theorem exit_quiet : QuietFrame (.exit f) :=
  quietFrame_r (op := 0x006) (fun _ => rfl) (fun _ _ _ _ => quiet_after (quiet_afterExit _)
    (quiet_after (quiet_endClause _ _ _) (quiet_foldl _ (fun _ _ _ => quiet_exitThread _ _))))

theorem yield_quiet : QuietFrame (.yield f) :=
  quietFrame_r (op := 0x007) (fun _ => rfl) (fun _ cx _ _ => quiet_modGroup cx.gid (fun _ _ =>
    quietGroup_trans (quietGroup_advance 1) (quietGroup_of_eq rfl rfl rfl rfl rfl)))

end

/-! ### BINCFG, WAITF and TRAP -/

section
variable (f : FI)

/-- BINCFG's body: the run's threads set the timer, each as its operand is read. -/
def bincfgBody (s : State) (cx : Cx) : State :=
  let r := readAll s cx (fun tid => readD s cx tid false) false (if cx.uni then [cx.low] else cx.todo)
  match cx.uni, r.traps, r.stall with
  | true, _, some b => stallRun s cx b
  | true, (_, t) :: _, none => trapWhole s cx true t
  | _, _, stall =>
    let s := r.got.foldl (fun s g => setTimer (modThread s cx.gid g.tid (fun _ => g.work.th)) cx.g.core f.imm.toNat g.val)
      (trapRun (touchAll s cx r.got) cx false r.traps)
    match stall with
    | some b => stallRun (modGroup s cx.gid (fun g => passed g (r.got.map (·.tid)))) cx b
    | none => modGroup s cx.gid (fun g => advance g 1)

theorem execBincfg_eq (s : State) : execBincfg f s = coreI 0x009 f s (bincfgBody f s) := rfl

theorem bincfg_quiet : QuietFrame (.bincfg f) := by
  refine quietFrame_i (op := 0x009) (execBincfg_eq f) (fun s cx _ hg => ?_)
  have hrd : ∀ tid, RdKeeps anyOperand (readD s cx tid false) := fun _ => rdKeeps_anyD _
  have htids : ∀ i ∈ (if cx.uni then [cx.low] else cx.todo), i ∈ cx.low :: cx.fl.run := by
    intro i hi
    split at hi
    · rw [List.mem_singleton.1 hi]; exact List.mem_cons_self
    · exact todo_sub cx hi
  have hset : Quiet [] (RunMoves cx) s ((readAll s cx (fun tid => readD s cx tid false) false
      (if cx.uni then [cx.low] else cx.todo)).got.foldl
        (fun s g => setTimer (modThread s cx.gid g.tid (fun _ => g.work.th)) cx.g.core f.imm.toNat g.val)
      (trapRun (touchAll s cx (readAll s cx (fun tid => readD s cx tid false) false (if cx.uni then [cx.low] else cx.todo)).got) cx
        false (readAll s cx (fun tid => readD s cx tid false) false (if cx.uni then [cx.low] else cx.todo)).traps)) := by
    refine List.foldlRecOn _ _ (quiet_after (quiet_trapRun _ _ _) (quiet_touchAll _ _)) (fun t ht g hgm => ?_)
    obtain ⟨i, hi, hr⟩ := readAll_got.1 g hgm
    exact quiet_trans (quiet_commitRead ht hg hrd (htids i hi) hr) (quiet_setTimer _ _ _)
  unfold bincfgBody
  dsimp only
  split
  · exact quiet_stallRun _ _
  · exact quiet_trapWhole _ _ _
  · split
    · exact quiet_after (quiet_stallRun _ _) (quiet_after (quiet_passed _ _) hset)
    · exact quiet_after (quiet_advance _ _) hset

theorem waitf_quiet : QuietFrame (.waitf f) :=
  quietFrame_i (op := 0x010) (fun _ => rfl) (fun _ cx _ _ => quiet_after (quiet_wakeFlags _) (quiet_after (quiet_endClause _ _ _)
    (quiet_after (quiet_modThreads cx.gid cx.fl.run (fun _ _ => ⟨⟨rfl, rfl, rfl, rfl, rfl, rfl⟩, rfl, rfl, rfl⟩)) (quiet_nextId _))))

theorem trap_quiet : QuietFrame (.trap f) :=
  quietFrame_i (op := 0x011) (fun _ => rfl) (fun _ _ _ _ => quiet_trapWhole _ _ _)

end

/-! ### SEQBIND -/

theorem seqbind_quiet (f : FR) : QuietFrame (.seqbind f) :=
  quietFrame_r (op := 0x164) (body := seqbindRun) (fun _ => rfl) (fun s cx _ hg => by
    refine quiet_laneExec hg (fun tid => ?_) (fun _ _ => ⟨rfl, fun _ => ⟨⟨rfl, rfl, rfl, rfl, rfl, rfl⟩, rfl, rfl, rfl⟩⟩)
    have hread : RdKeeps anyOperand (do
        let a ← readA s cx tid false
        if a = 0xFFFFFFFF then pure none
        else if cx.c.seqCount ≤ a then trapRd { code := cFIELD }
        else pure (some (cx.c.seqBase + a))) :=
      rdKeeps_bind (rdKeeps_anyA _) (fun a => rdKeeps_ite (rdKeeps_pure _) (rdKeeps_ite (rdKeeps_trap _) (rdKeeps_pure _)))
    dsimp only
    split
    · exact rdKeeps_when (rdKeeps_trap _) (fun _ => hread)
    · exact hread)

end Sys2Proof.Machine
end

section
/-! Waits on semaphores and records, fences, prefetches, engine calls, PCFG and DLOAD change no register and no byte. -/

namespace Sys2Proof.Machine

/-! ### SEMWAIT and TGWAIT -/

/-- The threads that read for a run which waits together. -/
theorem waiters_run (cx : Cx) : ∀ i ∈ (if cx.uni then [cx.low] else cx.fl.run), i ∈ cx.low :: cx.fl.run := by
  intro i hi
  split at hi
  · rw [List.mem_singleton.1 hi]; exact List.mem_cons_self
  · exact List.mem_cons_of_mem _ hi

/-- What a waiting run does once its threads have read: they take their traps and commit. -/
theorem quiet_readers {α : Type} {ds : List Nat} {s : State} {cx : Cx} {rd : Nat → Rd α} (hg : getGroup s cx.gid = some cx.g)
    (hrd : ∀ tid, RdKeeps anyOperand (rd tid)) :
    Quiet ds (RunMoves cx) s ((readAll s cx rd false (if cx.uni then [cx.low] else cx.fl.run)).got.foldl
      (fun s g => modThread s cx.gid g.tid (fun _ => g.work.th))
      (trapRun (touchAll s cx (readAll s cx rd false (if cx.uni then [cx.low] else cx.fl.run)).got) cx false
        (readAll s cx rd false (if cx.uni then [cx.low] else cx.fl.run)).traps)) :=
  quiet_commitReads (quiet_after (quiet_trapRun _ _ _) (quiet_touchAll _ _)) hg hrd (waiters_run cx)

theorem semWaitRun_quiet (f : FR) : QuietBody f [] semWaitRun := by
  intro s cx _ hg
  unfold semWaitRun
  dsimp only
  split
  · exact quiet_stallRun _ _
  · split
    · exact quiet_trapWhole _ _ _
    · refine quiet_after (quiet_endClause _ _ _) (quiet_after (quiet_foldl _ (fun _ _ _ => quiet_setState _ _ _))
        (quiet_readers hg (fun tid => ?_)))
      refine rdKeeps_bind (rdKeeps_anyA _) (fun _ => rdKeeps_bind (rdKeeps_late (rdKeeps_anyB _)) (fun _ =>
        rdKeeps_bind (rdKeeps_liftT _) (fun _ => rdKeeps_bind rdKeeps_settle (fun _ => ?_))))
      exact rdKeeps_when (rdKeeps_stall _) (fun _ => rdKeeps_pure _)

theorem tgwaitRun_quiet (f : FR) : QuietBody f [] tgwaitRun := by
  intro s cx _ hg
  unfold tgwaitRun
  dsimp only
  split
  · exact quiet_stallRun _ _
  · split
    · exact quiet_trapWhole _ _ _
    · refine quiet_after quiet_wakeTasks (quiet_after (quiet_endClause _ _ _) (quiet_after
        (quiet_foldl _ (fun _ _ _ => quiet_setState _ _ _)) (quiet_readers hg (fun tid => ?_))))
      refine rdKeeps_bind (rdKeeps_anyA _) (fun _ => rdKeeps_bind (rdKeeps_alignRd _ _ _) (fun _ =>
        rdKeeps_bind (rdKeeps_recordRd _ _) (fun _ => rdKeeps_bind (rdKeeps_poisonRd _ _ _) (fun _ => ?_))))
      exact rdKeeps_when (rdKeeps_stall _) (fun _ => rdKeeps_pure _)

/-! ### FENCE and PREF -/

theorem fenceRun_quiet (f : FR) : QuietBody f [] fenceRun := fun _ _ _ _ =>
  quiet_after (quiet_advance _ _) (quiet_foldl _ (fun _ _ _ => quiet_addFence _ _))

theorem prefRun_quiet (f : FR) : QuietBody f [] prefRun := by
  intro s cx _ hg
  have hrd : ∀ tid, RdKeeps anyOperand (do let (a, b) ← ldaOps s cx tid; pure (wrapN 64 ((a : Int) + b))) := fun tid =>
    rdKeeps_bind (rdKeeps_bind (rdKeeps_anyA _) (fun _ => rdKeeps_bind (rdKeeps_bind (rdKeeps_anyB _) (fun _ => rdKeeps_pure _))
      (fun _ => rdKeeps_pure _))) (fun _ => rdKeeps_pure _)
  unfold prefRun
  dsimp only
  split
  · exact quiet_stallRun _ _
  · refine quiet_after (quiet_advance _ _) (List.foldlRecOn _ _ (quiet_refl s) (fun t ht g hgm => ?_))
    obtain ⟨i, hi, hr⟩ := readAll_got.1 g hgm
    have hc := quiet_commitRead ht hg hrd (waiters_run cx i hi) hr
    split
    · exact quiet_trans hc (quiet_fillLine _)
    · exact hc

/-! ### Engine calls -/

section
variable {s : State} {cx : Cx} {tid : Nat}

theorem rdKeeps_mmaSig : RdKeeps anyOperand (mmaSig s cx tid) := by
  refine rdKeeps_bind (rdKeeps_readBlock _ _) (fun ws => rdKeeps_bind (rdKeeps_late (rdKeeps_anyD _)) (fun fw =>
    rdKeeps_check (fun _ => rdKeeps_bind (rdKeeps_spansRd _) (fun _ => rdKeeps_bind rdKeeps_get (fun w => ?_)))))
  dsimp only
  split
  case' h_1 => refine rdKeeps_bind (rdKeeps_trap _) (fun _ => ?_)
  case' h_2 => refine rdKeeps_bind (rdKeeps_trap _) (fun _ => ?_)
  all_goals
    exact rdKeeps_check (fun _ => rdKeeps_check (fun _ => rdKeeps_check (fun _ => rdKeeps_check (fun _ =>
      rdKeeps_bind (rdKeeps_descRegs _ _) (fun _ => rdKeeps_bind (rdKeeps_descRegs _ _) (fun _ =>
        rdKeeps_bind rdKeeps_takeNote (fun _ => rdKeeps_pure _)))))))

theorem rdKeeps_joinSig : RdKeeps anyOperand (joinSig s cx tid) :=
  rdKeeps_bind (rdKeeps_readBlock _ _) (fun _ => rdKeeps_bind (rdKeeps_late (rdKeeps_anyD _)) (fun _ =>
    rdKeeps_bind (rdKeeps_spansRd _) (fun _ => rdKeeps_check (fun _ => rdKeeps_check (fun _ => rdKeeps_check (fun _ =>
      rdKeeps_bind rdKeeps_takeNote (fun _ => rdKeeps_pure _)))))))

theorem rdKeeps_normSig : RdKeeps anyOperand (normSig s cx tid) :=
  rdKeeps_bind (rdKeeps_readBlock _ _) (fun _ => rdKeeps_bind (rdKeeps_late (rdKeeps_anyD _)) (fun _ =>
    rdKeeps_bind (rdKeeps_spansRd _) (fun _ => rdKeeps_check (fun _ => rdKeeps_check (fun _ =>
      rdKeeps_bind rdKeeps_takeNote (fun _ => rdKeeps_pure _))))))

theorem quiet_callEndRun {ds : List Nat} {M : Nat → Nat → Prop} {r : SignAcc × Option Bool} (h : Quiet ds M s r.1.s) :
    Quiet ds M s (callEndRun s cx r) := by
  have ht := quiet_trans h (quiet_trapRun cx false r.1.traps)
  unfold callEndRun
  dsimp only
  split
  · exact quiet_guard63 cx (quiet_after (quiet_stallRun _ _) (quiet_after (quiet_passed _ _) ht))
  · exact quiet_guard63 cx (quiet_after (quiet_modGroup cx.gid (fun _ _ =>
      quietGroup_trans (h := charge _ _) (quietGroup_of_eq rfl rfl rfl rfl rfl) (quietGroup_advance _))) ht)

end

/-- An engine call whose operands only read is quiet. -/
theorem callRun_quiet (f : FR) {rd : Cx → State → Nat → Rd Sig} (hrd : ∀ cx u tid, RdKeeps anyOperand (rd cx u tid)) :
    QuietBody f [] (fun s cx => callRun s cx (rd cx)) := by
  intro s cx _ hg
  dsimp only
  unfold callRun
  refine quiet_teamRun (fun key => ?_)
  dsimp only
  split
  · split
    · exact quiet_stallRun _ _
    · exact quiet_trapWhole _ _ _
    · rename_i g hr
      obtain ⟨hlow, hm⟩ := readOne_moved (hrd cx s) hr
      refine quiet_callEndRun (quiet_signEach hg _ (fun x hx t e => ?_) _ (quiet_touchAll _ _))
      obtain ⟨i, -, rfl⟩ := List.mem_map.1 hx
      dsimp only at e ⊢
      split at e
      · rename_i hi
        cases e
        rw [hi, hlow]
        exact ⟨sameRegisters_of_moved hm, .inr ⟨rfl, List.mem_cons_self⟩⟩
      · cases e
  · exact quiet_callEndRun (quiet_signThreads hg (hrd cx) _ (todo_sub cx) _ (quiet_refl s))

/-! ### PCFG -/

/-- An instruction without a result, whose participants' requests prepare quietly, is quiet. -/
theorem quiet_asyncExec {ds : List Nat} {s : State} {cx : Cx} {flag words room : Nat} {rd : Nat → Rd Req}
    (hg : getGroup s cx.gid = some cx.g)
    (hrd : ∀ tid, Asks anyOperand (fun q => ∀ t k, Quiet ds (RunMoves cx) t (q.prep t k).1) (rd tid)) :
    Quiet ds (RunMoves cx) s (asyncExec s cx flag words false rd room) := by
  have hsteps : IssueSteps s cx flag words false rd (fun _ t => Quiet ds (RunMoves cx) s t) (fun t => Quiet ds (RunMoves cx) s t) := {
    stall := fun _ => quiet_stallRun _ _
    whole := fun _ => quiet_trapWhole _ _ _
    skip := quiet_advance _ _
    traps := fun _ _ _ => quiet_after (quiet_trapRun _ _ _) (quiet_touchAll _ _)
    count := fun n k h => quiet_trans h (by
      unfold beginCount
      split
      · refine quiet_after (quiet_modGroup cx.gid (fun _ _ => ?_)) (quiet_nextId _)
        exact quietGroup_trans (quietGroup_addTok _ _ _) (quietGroup_addTok _ _ _)
      · exact quiet_modGroup_issue cx.gid (fun _ => ⟨rfl, rfl, rfl, rfl, rfl⟩))
    write := fun first hread hself _ h =>
      quiet_after (quiet_modGroup_issue cx.gid (fun _ => ⟨rfl, rfl, rfl, rfl, rfl⟩))
        (quiet_commitRead h hg (fun tid => (hrd tid).1) (hself _ List.mem_cons_self).1 hread)
    prep := fun d hread h => quiet_trans h (readOne_gives (hrd _).2 hread _ _)
    add := fun _ _ _ _ _ _ _ _ h => quiet_trans h (quiet_addOp _)
    fence := fun _ _ h => quiet_trans h (quiet_addFence _ _)
    mark := fun _ _ h => quiet_trans h (quiet_modGroup_issue cx.gid (fun _ => ⟨rfl, rfl, rfl, rfl, rfl⟩))
    past := fun h => quiet_trans h (quiet_advance _ _)
    part := fun _ h => quiet_trans h (quiet_stallRun _ _) }
  obtain ⟨u, hu, e | e⟩ := hsteps.asyncExec room
  · rw [e]; exact hu
  · rw [e]; exact quiet_trans hu (quiet_letGo _ _)

theorem pcfgRun_quiet (f : FR) : QuietBody f [] pcfgRun := fun _ _ _ hg =>
  quiet_teamRun (fun key => quiet_asyncExec hg (fun _ => asks_bind (rdKeeps_anyA _) (fun _ => asks_check (fun _ =>
    asks_pure (fun _ _ => quiet_modTeam key (fun _ => rfl))))))

/-! ### DLOAD -/

theorem quietGroup_setDist {M : Nat → Prop} (g : Group) (d : Nat) (v : Dist) :
    QuietGroup [d] M g { g with dists := mset {} g.dists d v } :=
  ⟨rfl, rfl, rfl, fun _ hd => mget_mset_ne (fun e => hd (List.mem_singleton.2 e)),
    fun _ => ⟨sameRegisters_refl _, .inl (sameStreams_refl _)⟩⟩

/-- DLOAD writes the descriptor of field D. -/
theorem dloadRun_quiet (f : FR) : QuietBody f [f.d.toNat] dloadRun := by
  intro s cx hf _
  unfold dloadRun
  split
  · exact quiet_stallRun _ _
  · exact quiet_trapWhole _ _ _
  · subst hf
    exact quiet_modGroup cx.gid (fun _ _ => quietGroup_trans (quietGroup_setDist _ _ _) (quietGroup_advance _))

/-- Settles O45: of each instruction of the list every step that it makes is quiet (`Quiet`), so all of it is. -/
theorem waitsAndEngineCallsFrame : Obligations.WaitsAndEngineCallsFrame := by
  unfold Obligations.WaitsAndEngineCallsFrame
  exact ⟨rejn_quiet, rejnCmt_quiet, bar_quiet, bara_quiet, barw_quiet, clset_quiet, exit_quiet, yield_quiet, bincfg_quiet,
    waitf_quiet, trap_quiet, seqbind_quiet,
    fun f _ => quietFrame_withTwin 0x125 (semWaitRun_quiet f) (fun _ => rfl) (fun _ => rfl),
    fun f _ => quietFrame_withTwin 0x129 (tgwaitRun_quiet f) (fun _ => rfl) (fun _ => rfl),
    fun f _ => quietFrame_withTwin 0x10A (fenceRun_quiet f) (fun _ => rfl) (fun _ => rfl),
    fun f _ => quietFrame_withTwin 0x107 (prefRun_quiet f) (fun _ => rfl) (fun _ => rfl),
    fun f _ => quietFrame_withTwin 0x140 (callRun_quiet f (fun _ _ _ => rdKeeps_mmaSig)) (fun _ => rfl) (fun _ => rfl),
    fun f _ => quietFrame_withTwin 0x141 (callRun_quiet f (fun _ _ _ => rdKeeps_mmaSig)) (fun _ => rfl) (fun _ => rfl),
    fun f _ => quietFrame_withTwin 0x142 (callRun_quiet f (fun _ _ _ => rdKeeps_mmaSig)) (fun _ => rfl) (fun _ => rfl),
    fun f _ => quietFrame_withTwin 0x143 (callRun_quiet f (fun _ _ _ => rdKeeps_joinSig)) (fun _ => rfl) (fun _ => rfl),
    fun f _ => quietFrame_withTwin 0x14C (callRun_quiet f (fun _ _ _ => rdKeeps_normSig)) (fun _ => rfl) (fun _ => rfl),
    fun f _ => quietFrame_withTwin 0x144 (pcfgRun_quiet f) (fun _ => rfl) (fun _ => rfl),
    fun f _ => quietFrame_withTwin 0x0E3 (dloadRun_quiet f) (fun _ => rfl) (fun _ => rfl)⟩

end Sys2Proof.Machine
end

section
/-! The launch scheduler: the order of the candidates, the search among them, and what a placed team holds (R332-R336). -/

namespace Sys2Proof.Machine

/-! ### Lists by a key -/

section
variable {α : Type} {key : α → Nat}

/-- The least by a key is of the list, and none of the list is less. -/
theorem minBy_some {l : List α} : ∀ {a}, minBy key l = some a → a ∈ l ∧ ∀ b ∈ l, key a ≤ key b := by
  induction l with
  | nil => intro a h; cases h
  | cons x l ih =>
    intro a h
    unfold minBy at h
    cases hm : minBy key l with
    | none =>
      rw [hm] at h
      cases h
      have hl : l = [] := by
        cases l with
        | nil => rfl
        | cons y l =>
          unfold minBy at hm
          split at hm
          · cases hm
          · split at hm <;> cases hm
      subst hl
      exact ⟨List.mem_cons_self, fun b hb => by rw [List.mem_singleton.1 hb]⟩
    | some m =>
      obtain ⟨hml, hle⟩ := ih hm
      rw [hm] at h
      dsimp only at h
      split at h
      · rename_i hx
        cases h
        refine ⟨List.mem_cons_self, fun b hb => ?_⟩
        rcases List.mem_cons.1 hb with rfl | hb
        · exact Nat.le_refl _
        · exact Nat.le_trans hx (hle b hb)
      · rename_i hx
        cases h
        refine ⟨List.mem_cons_of_mem _ hml, fun b hb => ?_⟩
        rcases List.mem_cons.1 hb with rfl | hb
        · exact Nat.le_of_lt (Nat.lt_of_not_le hx)
        · exact hle b hb

theorem mem_insBy {x y : α} {l : List α} : y ∈ insBy key x l ↔ y = x ∨ y ∈ l := by
  induction l with
  | nil => simp [insBy]
  | cons a l ih =>
    unfold insBy
    split
    · simp
    · simp only [List.mem_cons, ih]
      exact or_left_comm

/-- Insertion keeps a list sorted. -/
theorem insBy_pairwise {x : α} {l : List α} (h : l.Pairwise (fun a b => key a ≤ key b)) :
    (insBy key x l).Pairwise (fun a b => key a ≤ key b) := by
  induction l with
  | nil => exact List.pairwise_singleton _ _
  | cons a l ih =>
    obtain ⟨ha, hl⟩ := List.pairwise_cons.1 h
    unfold insBy
    split
    · rename_i hx
      refine List.pairwise_cons.2 ⟨fun b hb => ?_, h⟩
      rcases List.mem_cons.1 hb with rfl | hb
      · exact Nat.le_of_lt hx
      · exact Nat.le_trans (Nat.le_of_lt hx) (ha b hb)
    · rename_i hx
      refine List.pairwise_cons.2 ⟨fun b hb => ?_, ih hl⟩
      rcases mem_insBy.1 hb with rfl | hb
      · exact Nat.le_of_not_lt hx
      · exact ha b hb

theorem sortBy_pairwise (l : List α) : (sortBy key l).Pairwise (fun a b => key a ≤ key b) :=
  List.foldlRecOn (motive := List.Pairwise (fun a b => key a ≤ key b)) l _ List.Pairwise.nil (fun _ h _ _ => insBy_pairwise h)

theorem mem_of_mem_sortBy {y : α} {l : List α} : y ∈ sortBy key l → y ∈ l :=
  List.foldlRecOn (motive := fun acc => y ∈ acc → y ∈ l) l _ (fun h => nomatch h)
    (fun _ ih x hx hy => by
      rcases mem_insBy.1 hy with rfl | hy
      · exact hx
      · exact ih hy)

/-- Keys without repeats name one entry each. -/
theorem mfind_of_mem {m : NMap α} {i : Nat} {v : α} (hn : (m.map (·.1)).Nodup) (h : (i, v) ∈ m) : mfind m i = some v := by
  induction m with
  | nil => cases h
  | cons x m ih =>
    obtain ⟨j, w⟩ := x
    obtain ⟨hj, hm⟩ := List.nodup_cons.1 hn
    unfold mfind
    rcases List.mem_cons.1 h with e | hmem
    · cases e
      rw [if_pos rfl]
    · have hne : i ≠ j := by
        rintro rfl
        exact hj (List.mem_map.2 ⟨(i, v), hmem, rfl⟩)
      rw [if_neg hne]
      exact ih hm hmem

end

/-! ### The order of the candidates (R334, R356) -/

/-- The place of a kind of candidate within its priority. -/
def candRank (c : Cand) : Nat :=
  match c with
  | .resume _ _ => 0
  | .gang _ _ => 1
  | .spawn _ _ => 2
  | .head _ _ => 3

/-- The candidates of one priority. -/
def rankedAt (s : State) (p : Nat) : List Ranked :=
  (resumeCands s).filter (fun x => x.2 == p) ++ (gangCands s).filter (fun x => x.2 == p)
    ++ (spawnCands s).filter (fun x => x.2 == p) ++ headCands s p

theorem candidates_eq (s : State) : candidates s = [3, 2, 1, 0].flatMap (rankedAt s) := rfl

section
variable {s : State} {p : Nat} {x : Ranked}

theorem resumeCands_rank (h : x ∈ resumeCands s) : candRank x.1 = 0 := by
  obtain ⟨c, -, hc⟩ := List.mem_flatMap.1 h
  obtain ⟨y, -, hy⟩ := List.mem_filterMap.1 hc
  split at hy
  · cases hy
  · split at hy
    · cases hy; rfl
    · cases hy

theorem gangCands_rank (h : x ∈ gangCands s) : candRank x.1 = 1 := by
  obtain ⟨y, -, rfl⟩ := List.mem_map.1 h
  rfl

theorem spawnCands_rank (h : x ∈ spawnCands s) : candRank x.1 = 2 := by
  obtain ⟨c, -, hc⟩ := List.mem_flatMap.1 h
  obtain ⟨y, -, hy⟩ := List.mem_filterMap.1 hc
  dsimp only at hy
  split at hy
  · obtain ⟨l, -, rfl⟩ := Option.map_eq_some_iff.1 hy; rfl
  · cases hy

/-- A head candidate stands for the head of a VI's queue. -/
theorem headCands_some {i : Nat} (h : (match queueHead s ((mget 0 s.turnVi p + i) % 64) p with
      | none => none
      | some (id, l) => match kernelOf s id with
        | none => none
        | some k => if waiting s l && decide (l.placed % k.gang = 0) then some ((.head id l.placed, p) : Ranked) else none) = some x) :
    ∃ id l, queueHead s ((mget 0 s.turnVi p + i) % 64) p = some (id, l) ∧ x = (.head id l.placed, p) := by
  cases hq : queueHead s ((mget 0 s.turnVi p + i) % 64) p with
  | none => simp [hq] at h
  | some y =>
    obtain ⟨id, l⟩ := y
    simp only [hq] at h
    split at h
    · cases h
    · split at h
      · cases h; exact ⟨id, l, rfl, rfl⟩
      · cases h

theorem headCands_mem (h : x ∈ headCands s p) :
    ∃ i < 64, ∃ id l, queueHead s ((mget 0 s.turnVi p + i) % 64) p = some (id, l) ∧ x = (.head id l.placed, p) := by
  obtain ⟨i, hi, hx⟩ := List.mem_filterMap.1 h
  exact ⟨i, List.mem_range.1 hi, headCands_some (hx ▸ rfl)⟩

theorem headCands_rank (h : x ∈ headCands s p) : candRank x.1 = 3 := by
  obtain ⟨i, -, id, l, -, rfl⟩ := headCands_mem h
  rfl

theorem mem_filter_prio {l : List Ranked} (h : x ∈ l.filter (fun x => x.2 == p)) : x ∈ l ∧ x.2 = p := by
  obtain ⟨h1, h2⟩ := List.mem_filter.1 h
  exact ⟨h1, by simpa using h2⟩

theorem headCands_prio (h : x ∈ headCands s p) : x.2 = p := by
  obtain ⟨i, -, id, l, -, rfl⟩ := headCands_mem h
  rfl

theorem rankedAt_prio (h : x ∈ rankedAt s p) : x.2 = p := by
  rcases List.mem_append.1 h with h | h
  · rcases List.mem_append.1 h with h | h
    · rcases List.mem_append.1 h with h | h
      · exact (mem_filter_prio h).2
      · exact (mem_filter_prio h).2
    · exact (mem_filter_prio h).2
  · exact headCands_prio h

/-- A relation that holds from a higher priority to a lower one, and from an earlier kind to a later one, holds along the
candidates when it holds along each kind. -/
theorem candidates_pairwise {R : Ranked → Ranked → Prop} (hprio : ∀ a b : Ranked, b.2 < a.2 → R a b)
    (hrank : ∀ a b : Ranked, a.2 = b.2 → candRank a.1 < candRank b.1 → R a b)
    (hres : (resumeCands s).Pairwise (fun a b => a.2 = b.2 → R a b)) (hgang : (gangCands s).Pairwise (fun a b => a.2 = b.2 → R a b))
    (hspawn : (spawnCands s).Pairwise (fun a b => a.2 = b.2 → R a b)) (hhead : ∀ p, (headCands s p).Pairwise R) :
    (candidates s).Pairwise R := by
  have hseg : ∀ (l : List Ranked) p, l.Pairwise (fun a b => a.2 = b.2 → R a b) → (l.filter (fun x => x.2 == p)).Pairwise R :=
    fun l p h => (h.filter _).imp_of_mem (fun ha hb hab => hab ((mem_filter_prio ha).2.trans (mem_filter_prio hb).2.symm))
  rw [candidates_eq]
  refine List.pairwise_flatMap.2 ⟨fun p _ => ?_, ?_⟩
  · have hp : ∀ a b : Ranked, a ∈ rankedAt s p → b ∈ rankedAt s p → candRank a.1 < candRank b.1 → R a b :=
      fun a b ha hb hr => hrank a b ((rankedAt_prio ha).trans (rankedAt_prio hb).symm) hr
    unfold rankedAt at hp ⊢
    refine List.pairwise_append.2 ⟨List.pairwise_append.2 ⟨List.pairwise_append.2 ⟨hseg _ p hres, hseg _ p hgang, ?_⟩,
      hseg _ p hspawn, ?_⟩, hhead p, ?_⟩
    · intro a ha b hb
      refine hp a b (by simp only [List.mem_append]; exact .inl (.inl (.inl ha))) (by simp only [List.mem_append]; exact .inl (.inl (.inr hb))) ?_
      rw [resumeCands_rank (mem_filter_prio ha).1, gangCands_rank (mem_filter_prio hb).1]
      decide
    · intro a ha b hb
      refine hp a b (by simp only [List.mem_append] at ha ⊢; exact .inl (.inl ha)) (by simp only [List.mem_append]; exact .inl (.inr hb)) ?_
      rw [spawnCands_rank (mem_filter_prio hb).1]
      rcases List.mem_append.1 ha with ha | ha
      · rw [resumeCands_rank (mem_filter_prio ha).1]; decide
      · rw [gangCands_rank (mem_filter_prio ha).1]; decide
    · intro a ha b hb
      refine hp a b (List.mem_append_left _ ha) (List.mem_append_right _ hb) ?_
      rw [headCands_rank hb]
      rcases List.mem_append.1 ha with ha | ha
      · rcases List.mem_append.1 ha with ha | ha
        · rw [resumeCands_rank (mem_filter_prio ha).1]; decide
        · rw [gangCands_rank (mem_filter_prio ha).1]; decide
      · rw [spawnCands_rank (mem_filter_prio ha).1]; decide
  · have hlt : [3, 2, 1, 0].Pairwise (fun a b : Nat => b < a) := by decide
    refine hlt.imp (fun hab x hx y hy => hprio x y ?_)
    rw [rankedAt_prio hx, rankedAt_prio hy]
    exact hab

/-- The candidates stand by priority, and within one by kind. -/
theorem candidates_byRank (s : State) :
    (candidates s).Pairwise (fun a b => b.2 < a.2 ∨ (a.2 = b.2 ∧ candRank a.1 ≤ candRank b.1)) := by
  have hsame : ∀ (l : List Ranked) n, (∀ x ∈ l, candRank x.1 = n) →
      l.Pairwise (fun a b => a.2 = b.2 → b.2 < a.2 ∨ (a.2 = b.2 ∧ candRank a.1 ≤ candRank b.1)) :=
    fun l n h => List.pairwise_of_forall_mem_list (fun a ha b hb e => .inr ⟨e, by rw [h a ha, h b hb]⟩)
  refine candidates_pairwise (fun a b h => .inl h) (fun a b h hr => .inr ⟨h, Nat.le_of_lt hr⟩) (hsame _ 0 (fun _ => resumeCands_rank))
    (hsame _ 1 (fun _ => gangCands_rank)) (hsame _ 2 (fun _ => spawnCands_rank)) (fun p => ?_)
  exact (hsame _ 3 (fun _ => headCands_rank)).imp_of_mem (fun ha hb hab =>
    hab ((headCands_prio ha).trans (headCands_prio hb).symm))

/-- Members of started gangs stand by the time their gang started. -/
theorem candidates_byGangTime (hn : (s.launches.map (·.1)).Nodup) :
    (candidates s).Pairwise (fun a b => ∀ i j n m la lb ka kb, a.1 = .gang i n → b.1 = .gang j m → a.2 = b.2 →
      mfind s.launches i = some la → mfind s.launches j = some lb → kernelOf s i = some ka → kernelOf s j = some kb →
      gangTime la ka.gang ≤ gangTime lb kb.gang) := by
  refine candidates_pairwise (fun a b h i j n m la lb ka kb _ _ e => absurd h (by rw [e]; exact Nat.lt_irrefl _)) ?_ ?_ ?_ ?_ ?_
  · intro a b _ h i j n m la lb ka kb ha hb
    rw [ha, hb] at h
    exact absurd h (Nat.lt_irrefl 1)
  · refine List.pairwise_of_forall_mem_list (fun a ha b _ _ i j n m la lb ka kb e => ?_)
    have h := resumeCands_rank ha
    rw [e] at h
    cases h
  · unfold gangCands
    refine List.pairwise_map.2 ((sortBy_pairwise _).imp_of_mem ?_)
    intro a b ha hb hab _ i j n m la lb ka kb ea eb _ hla hlb hka hkb
    have time : ∀ {x : Nat × Nat × Launch} {i n l k}, x ∈ s.launches.filterMap (fun (i, l) =>
        match kernelOf s i with
        | none => none
        | some k => if waiting s l && decide (l.placed % k.gang ≠ 0) then some (gangTime l k.gang, i, l) else none) →
        Cand.gang x.2.1 x.2.2.placed = .gang i n → mfind s.launches i = some l → kernelOf s i = some k → x.1 = gangTime l k.gang := by
      intro x i n l k hx e hl hk
      obtain ⟨y, hy, he⟩ := List.mem_filterMap.1 hx
      obtain ⟨j, l'⟩ := y
      have hl' := mfind_of_mem hn hy
      cases hk' : kernelOf s j with
      | none => simp [hk'] at he
      | some k' =>
        simp only [hk'] at he
        split at he
        · cases he
          cases e
          rw [hl] at hl'
          rw [hk] at hk'
          cases hl'
          cases hk'
          rfl
        · cases he
    rw [← time (mem_of_mem_sortBy ha) ea hla hka, ← time (mem_of_mem_sortBy hb) eb hlb hkb]
    exact hab
  · refine List.pairwise_of_forall_mem_list (fun a ha b _ _ i j n m la lb ka kb e => ?_)
    have h := spawnCands_rank ha
    rw [e] at h
    cases h
  · refine fun p => List.pairwise_of_forall_mem_list (fun a ha b _ i j n m la lb ka kb e => ?_)
    obtain ⟨i, -, id, l, -, rfl⟩ := headCands_mem ha
    cases e

/-- The head of a VI's queue is its oldest launch with a team to place. -/
theorem queueHead_some {vi prio id : Nat} {l : Launch} (h : queueHead s vi prio = some (id, l)) :
    (id, l) ∈ s.launches ∧ viOf s l = vi ∧ l.priority = prio ∧ ∀ x ∈ s.launches, viOf s x.2 = vi → x.2.priority = prio →
      x.2.aborted = false → x.2.ended = false → x.2.placed < x.2.teams → l.order ≤ x.2.order := by
  obtain ⟨hm, hle⟩ := minBy_some h
  obtain ⟨hl, hp⟩ := List.mem_filter.1 hm
  simp only [Bool.and_eq_true, beq_iff_eq] at hp
  obtain ⟨⟨⟨⟨hvi, hprio⟩, -⟩, -⟩, -⟩ := hp
  refine ⟨hl, hvi, hprio, fun x hx h1 h2 h3 h4 h5 => hle x (List.mem_filter.2 ⟨hx, ?_⟩)⟩
  simp [h1, h2, h3, h4, h5]

/-- Head teams stand in the VIs' turn, from the VI that holds it. -/
theorem candidates_byTurn (hn : (s.launches.map (·.1)).Nodup) :
    (candidates s).Pairwise (fun a b => ∀ i j n m la lb, a.1 = .head i n → b.1 = .head j m → a.2 = b.2 →
      mfind s.launches i = some la → mfind s.launches j = some lb →
      (viOf s la + 64 - mget 0 s.turnVi a.2 % 64) % 64 < (viOf s lb + 64 - mget 0 s.turnVi a.2 % 64) % 64) := by
  refine candidates_pairwise (fun a b h i j n m la lb _ _ e => absurd h (by rw [e]; exact Nat.lt_irrefl _)) ?_ ?_ ?_ ?_ ?_
  · intro a b _ h i j n m la lb ha hb
    rw [ha, hb] at h
    exact absurd h (Nat.lt_irrefl 3)
  · refine List.pairwise_of_forall_mem_list (fun a ha b _ _ i j n m la lb e => ?_)
    have h := resumeCands_rank ha
    rw [e] at h
    cases h
  · refine List.pairwise_of_forall_mem_list (fun a ha b _ _ i j n m la lb e => ?_)
    have h := gangCands_rank ha
    rw [e] at h
    cases h
  · refine List.pairwise_of_forall_mem_list (fun a ha b _ _ i j n m la lb e => ?_)
    have h := spawnCands_rank ha
    rw [e] at h
    cases h
  · intro p
    have turn : ∀ {k i n l} {x : Ranked}, k < 64 → (∃ id l, queueHead s ((mget 0 s.turnVi p + k) % 64) p = some (id, l)
        ∧ x = (.head id l.placed, p)) → x.1 = .head i n → mfind s.launches i = some l →
        (viOf s l + 64 - mget 0 s.turnVi p % 64) % 64 = k := by
      intro k i n l x hk ⟨id, l', hq, hx⟩ e hl
      subst hx
      cases e
      obtain ⟨hm, hvi, -⟩ := queueHead_some hq
      rw [mfind_of_mem hn hm] at hl
      cases hl
      rw [hvi]
      omega
    unfold headCands
    refine List.pairwise_filterMap.2 (List.pairwise_lt_range.imp_of_mem ?_)
    intro k k' hk hk' hlt a ha b hb i j n m la lb ea eb _ hla hlb
    have hak := headCands_some (x := a) (i := k) (p := p) (s := s) (ha ▸ rfl)
    have hbk := headCands_some (x := b) (i := k') (p := p) (s := s) (hb ▸ rfl)
    have hp : a.2 = p := by
      obtain ⟨id, l, -, rfl⟩ := hak
      rfl
    rw [hp, turn (List.mem_range.1 hk) hak ea hla, turn (List.mem_range.1 hk') hbk eb hlb]
    exact hlt

end

/-! ### The search among the candidates (R334, R335) -/

/-- The search passes over those that do not fit and do not drain. -/
theorem firstFit_passes {s : State} {prefs : List (Nat × Nat)} {pre rest : List Ranked}
    (h : ∀ y ∈ pre, placeCand s prefs y = none ∧ s.draining.contains y.1 = false) :
    ∀ passed, firstFit s prefs (pre ++ rest) passed = firstFit s prefs rest (passed ++ pre.map (·.1)) := by
  induction pre with
  | nil => intro passed; simp
  | cons y pre ih =>
    intro passed
    obtain ⟨hy, hd⟩ := h y List.mem_cons_self
    have ih := ih (fun z hz => h z (List.mem_cons_of_mem _ hz)) (passed ++ [y.1])
    simp only [List.cons_append, firstFit, hy, hd, Bool.false_eq_true, if_false, ih, List.map_cons, List.append_assoc, List.nil_append]

/-! ### A placed team (R31, R33, R333, R336) -/

/-- Groups become resident one after another, each with a number of its own. -/
theorem addGroups_spec (mk : Nat → Group) (s : State) (n : Nat) :
    let r := (List.range n).foldl (fun (acc : State × List Nat) i =>
      ((addGroup acc.1 (mk i)).1, acc.2 ++ [(addGroup acc.1 (mk i)).2])) (s, [])
    r.2.length = n ∧ (∀ gid ∈ r.2, gid < r.1.nextId) ∧
      ∀ i gid, r.2[i]? = some gid → ∃ lane, getGroup r.1 gid = some { mk i with lane := lane, bound := gid } := by
  induction n with
  | zero => simp
  | succ n ih =>
    rw [List.range_succ, List.foldl_append]
    generalize (List.range n).foldl (fun (acc : State × List Nat) i =>
      ((addGroup acc.1 (mk i)).1, acc.2 ++ [(addGroup acc.1 (mk i)).2])) (s, []) = r at ih
    obtain ⟨u, gids⟩ := r
    obtain ⟨hlen, hlt, hget⟩ := ih
    simp only [List.foldl_cons, List.foldl_nil, addGroup] at hlen hlt hget ⊢
    refine ⟨by rw [List.length_append, hlen]; rfl, fun gid hg => ?_, fun i gid hg => ?_⟩
    · rcases List.mem_append.1 hg with hg | hg
      · exact Nat.lt_succ_of_lt (hlt gid hg)
      · rw [List.mem_singleton.1 hg]; exact Nat.lt_succ_self _
    · rw [List.getElem?_append] at hg
      split at hg
      · obtain ⟨lane, hl⟩ := hget i gid hg
        refine ⟨lane, ?_⟩
        have hne : gid ≠ u.nextId := Nat.ne_of_lt (hlt gid (List.mem_of_getElem? hg))
        simpa only [getGroup, mfind_mput, if_neg hne] using hl
      · rename_i hi
        rw [hlen] at hi hg
        have hin : i = n := by
          by_contra hne
          have : i - n ≠ 0 := by omega
          obtain ⟨k, hk⟩ := Nat.exists_eq_succ_of_ne_zero this
          rw [hk] at hg
          cases hg
        subst hin
        rw [Nat.sub_self] at hg
        cases hg
        exact ⟨_, (mfind_mput _ _ _ _).trans (if_pos rfl)⟩

end Sys2Proof.Machine
end

section
/-! The scheduler's events act (R40-R43, R163, R332-R356). -/

namespace Sys2Proof.Machine

/-! ### A placed team -/

/-- Group i of a team at its start. -/
def startGroup (lid : Nat) (l : Launch) (k : Kernel) (index home mask : Nat) (sc : NMap W64) (i : Nat) : Group :=
  launchedGroup l k lid (teamKey lid index) index i (if onHome mask i then home else otherCore home) sc

/-- The state in which a team's groups have become resident, and their numbers. -/
def startGroups (s : State) (lid : Nat) (l : Launch) (k : Kernel) (index home mask : Nat) : State × List Nat :=
  let a := argScalars (makeBars (readRecord s l.ctx) home k.bars) l k
  (List.range k.team).foldl (fun (acc : State × List Nat) i =>
    ((addGroup acc.1 (startGroup lid l k index home mask a.2 i)).1,
      acc.2 ++ [(addGroup acc.1 (startGroup lid l k index home mask a.2 i)).2])) (a.1, [])

/-- A team at its start. -/
def startedTeam (lid : Nat) (k : Kernel) (index home : Nat) (image : Nat × Nat) (gids : List Nat) : Team :=
  { launch := lid, index := index, cluster := clusterOf home, home := home, groups := gids, cfg := startCfg k.coarse k.fine,
    cfgNew := startCfg k.coarse k.fine, image := image }

/-- A team enters the map of teams, with the operations held for it, and its launch counts it. -/
def enterTeam (s : State) (lid : Nat) (k : Kernel) (index : Nat) (t : Team) : State :=
  let s := { s with teams := mput s.teams (teamKey lid index) t }
  let held := (s.ops.filter (fun o => (opTeams s o).contains (teamKey lid index))).map (·.id)
  modLaunch (modTeam s (teamKey lid index) (fun t => { t with held := held })) lid (fun l => { l with
    placed := l.placed + 1
    gangs := if l.gangs.any (fun x => x.1 == index / k.gang) then l.gangs else l.gangs ++ [(index / k.gang, s.time)] })

/-- What stands in the map of teams once a team has entered it. -/
theorem enterTeam_team (s : State) (lid : Nat) (k : Kernel) (index : Nat) (t : Team) : ∃ held : List Nat,
    mfind (enterTeam s lid k index t).teams (teamKey lid index) = some { t with held := held } := by
  unfold enterTeam
  dsimp only [modLaunch, modTeam]
  rw [mfind_mmod, if_pos rfl, mfind_mput, if_pos rfl]
  exact ⟨_, rfl⟩

section
variable (s : State) (lid : Nat) (l : Launch) (k : Kernel) (index home mask : Nat) (image : Nat × Nat)

/-- A team starts by its groups and then itself entering the state. -/
theorem startTeam_eq : startTeam s lid l k index home mask image
    = enterTeam (startGroups s lid l k index home mask).1 lid k index
        (startedTeam lid k index home image (startGroups s lid l k index home mask).2) := by
  dsimp only [startTeam, startGroups]
  generalize argScalars (makeBars (readRecord s l.ctx) home k.bars) l k = a
  obtain ⟨s1, sc⟩ := a
  dsimp only [addGroup, startGroup]
  generalize List.foldl _ _ (List.range k.team) = b
  obtain ⟨u, gids⟩ := b
  rfl

/-- A team's start puts its groups and itself in the state, and notes what was held for it. -/
theorem startTeam_holds : ∃ held : List Nat,
    (startTeam s lid l k index home mask image).groups = (startGroups s lid l k index home mask).1.groups ∧
    mfind (startTeam s lid l k index home mask image).teams (teamKey lid index)
      = some { startedTeam lid k index home image (startGroups s lid l k index home mask).2 with held := held } := by
  rw [startTeam_eq]
  obtain ⟨held, hteam⟩ := enterTeam_team (startGroups s lid l k index home mask).1 lid k index
    (startedTeam lid k index home image (startGroups s lid l k index home mask).2)
  exact ⟨held, rfl, hteam⟩

/-- A team's groups at its start. -/
theorem startGroups_spec : ∃ sc : NMap W64, (startGroups s lid l k index home mask).2.length = k.team ∧
    ∀ i gid, (startGroups s lid l k index home mask).2[i]? = some gid → ∃ lane,
      getGroup (startGroups s lid l k index home mask).1 gid
        = some { startGroup lid l k index home mask sc i with lane := lane, bound := gid } := by
  obtain ⟨hlen, -, hget⟩ := addGroups_spec
    (startGroup lid l k index home mask (argScalars (makeBars (readRecord s l.ctx) home k.bars) l k).2)
    (argScalars (makeBars (readRecord s l.ctx) home k.bars) l k).1 k.team
  exact ⟨_, hlen, hget⟩

/-- A launched group's threads stand at the entry, each with its place in the random stream. -/
theorem startGroup_thread (sc : NMap W64) (i : Nat) {tid : Nat} (h : tid < k.group) :
    thread (startGroup lid l k index home mask sc i) tid = launchedThread l k index i tid := by
  simp [thread, startGroup, launchedGroup, List.getD_eq_getElem?_getD, h]

end

/-! ### Placement -/

theorem placementPass_powered {prefs : List (Nat × Nat)} {s : State} (h : powered s = true) :
    exec (.placementPass prefs) s = .next (placeAll prefs (Config.cores * (Config.coreGroups + 1) - 1 + 1) (dropPassed s)) := by
  change execPlacementPass prefs s = _
  unfold execPlacementPass
  rw [if_pos h]
  rfl

/-! ### Timers -/

theorem binDue_expired {s : State} {c : Core} {b : Bin} {lid entry : Nat} (hb : b.bound = some (lid, entry)) (ht : b.timer ≠ 0)
    (hh : b.held ≠ []) (hr : b.ready = false) (hs : b.since + b.timer ≤ s.time) (hc : c.susp.contains (ctxOf s lid) = false) :
    binDue s c b = true := by
  unfold binDue
  rw [hb]
  have hc : ctxOf s lid ∉ c.susp := by simpa using hc
  simp [ht, hh, hr, hs, hc]

/-- Settles O31: the order of the candidates by `candidates_byRank`, `candidates_byGangTime` and `candidates_byTurn`, the search
by `firstFit_passes`, a placed team by `startTeam_holds` and `startGroups_spec`; each other event is its own equation. -/
theorem schedulerActs : Obligations.SchedulerActs := by
  unfold Obligations.SchedulerActs
  refine ⟨fun s => ?rank, fun s hn => ⟨candidates_byGangTime hn, candidates_byTurn hn⟩, fun s vi prio id l h => queueHead_some h,
    fun s prefs pre x post hc hpre => ?search, fun prefs s hp => ?place, fun s lid l k index home mask image _ => ?team,
    fun s => rfl, fun core ctx s c hcore hctx => ?preempt, fun core s hb => ?restart,
    fun id s o entry payload d l k i ha hk hl hker hbin hready hab => ?entry, fun core bin s lid entry => ?timer,
    fun lid s l k hl he ho => ?ended⟩
  case rank =>
    exact (candidates_byRank s).imp (fun h => h.imp id (fun ⟨h1, h2⟩ => ⟨h1, by
      unfold candRank at h2
      exact h2⟩))
  case search =>
    rw [hc, firstFit_passes hpre, List.nil_append]
    refine ⟨fun s' hx => ?_, fun hx hd => ?_⟩
    · rw [firstFit, hx]
    · simp only [firstFit, hx, hd, if_true]
  case place =>
    rw [placementPass_powered hp]
    refine ⟨fun passed h => ?_, fun passed s' c h => ?_⟩
    · rw [placeAll, h]
    · rw [placeAll, h]
  case team =>
    obtain ⟨held, hgroups, hteam⟩ := startTeam_holds s lid l k index home mask image
    obtain ⟨sc, hlen, hget⟩ := startGroups_spec s lid l k index home mask
    refine ⟨_, hteam, rfl, rfl, rfl, rfl, rfl, rfl, rfl, fun p => ?_, rfl, rfl, rfl, fun c => ?_, rfl, hlen, fun i gid hi => ?_⟩
    · unfold rdScratch
      rw [hteam]
      rfl
    · rw [← hlen]
      rfl
    · obtain ⟨lane, hg⟩ := hget i gid hi
      refine ⟨_, (congrArg (fun m => mfind m gid) hgroups).trans hg, rfl, rfl, rfl, ?_, rfl, rfl, ?_, fun tid ht => ?_⟩
      · change (if onHome mask i then home else otherCore home) = _
        simp [onHome]
      · simp [startGroup, launchedGroup]
      · have hth := startGroup_thread lid l k index home mask sc i ht
        change thread { startGroup lid l k index home mask sc i with lane := lane, bound := gid } tid = _ at hth
        dsimp only
        rw [hth]
        exact ⟨rfl, rfl, rfl, rfl, rfl, rfl, rfl, rfl⟩
  case preempt =>
    change execPreempt core ctx s = _
    unfold execPreempt
    rw [if_pos ⟨hcore, by rw [hctx]; rfl⟩]
  case restart =>
    change execCoreRestart core s = _
    unfold execCoreRestart
    split
    · rename_i t ht
      exact absurd ht (hb t)
    · rfl
  case entry =>
    refine (onOp_acts ha).trans (congrArg Host.Outcome.next ?_)
    simp only [hk, hl, hker, hbin, hready, hab, Bool.false_eq_true, if_false]
  case timer =>
    intro c b hb ht hh hr hs hc
    change execBinTimerExpiry core bin s = _
    unfold execBinTimerExpiry
    rw [if_pos (binDue_expired hb ht hh hr hs hc)]
    rfl
  case ended =>
    intro s1 s2 hk
    change execLaunchEnd lid s = _
    unfold execLaunchEnd
    simp only [hl, he, ho, Bool.not_true, Bool.or_self, Bool.false_eq_true, if_false]
    change Host.Outcome.next (reap (match kernelOf s2 lid with | some k => dropWindows s2 l k | none => s2) l.ctx) = _
    rw [hk]

end Sys2Proof.Machine
end

section
/-! LOAD_COMPLETE and LONG_OP_RESULT on ready operations (R59, R96, R222, R265, R266, R287). -/

namespace Sys2Proof.Machine

/-- A tile read whose sector no engine owns fills the scratchpad and delivers the sector's version (R96, R222). -/
theorem tileReadDone_unowned {s : State} {o : Op} {pa team : Nat} {addr : W32} {d : Dst} {e : Ecc}
    (h : anyOwned s ((rangeFrom pa 1024).map Loc.g) = false) :
    tileReadDone s o pa team addr d e =
      (let gl := (rangeFrom pa 1024).map Loc.g
       let s1 := readFresh (readEcc s e gl) o.core gl
       let parts := pieces 32 ((tileScratch team addr).zip (gl.map (homeByte s1)))
       let s2 := ((List.range 32).zip parts).foldl (fun s2 x =>
         performPart s2 .home 0 x.2 (isPoisoned s1 (quarterOf pa + x.1)) (saddr addr.toNat).rot) s1
       endOp (arrive s2 d (version s1 (sectorOf pa)) false) o) := by
  unfold tileReadDone
  simp only [h, Bool.false_eq_true, if_false]

/-- Settles O27: each result is read off at an operation that may act (`onOp_acts`); a load and a tile read take the branch
of lines that no engine owns, a lookup and a PRD that of a region that is on. -/
theorem completionsOfResults : Obligations.CompletionsOfResults := by
  unfold Obligations.CompletionsOfResults
  refine ⟨?load, ?tile, ?lookup, ?read, ?peek, ?sem, ?size, ?priv, ?long⟩
  case load =>
    intro id e s o locs fmt d h hk ho
    refine (onOp_acts h).trans (congrArg Host.Outcome.next ?_)
    simp only [hk, loadDone, ho, Bool.false_eq_true, if_false]
  case tile =>
    intro id e s o pa team addr d h hk gl ho
    refine (onOp_acts h).trans (congrArg Host.Outcome.next ?_)
    simp only [hk]
    exact tileReadDone_unowned ho
  case lookup =>
    intro id e s o team key coarse elem d r lg h hk hr
    refine (onOp_acts h).trans (congrArg Host.Outcome.next ?_)
    simp only [hk, lookupDone, hr] <;> rfl
  case read =>
    intro id e s o team key addr d r lg h hk hr
    refine (onOp_acts h).trans (congrArg Host.Outcome.next ?_)
    simp only [hk, prdDone, hr] <;> rfl
  case peek =>
    intro id e s o k d h hk
    refine (onOp_acts h).trans (congrArg Host.Outcome.next ?_)
    simp only [hk]
    cases (getHeap s k).ents <;> rfl
  case sem =>
    intro id e s o c x i d h hk
    refine (onOp_acts h).trans (congrArg Host.Outcome.next ?_)
    simp only [hk]
  case size =>
    intro id e s o k d h hk
    refine (onOp_acts h).trans (congrArg Host.Outcome.next ?_)
    simp only [hk]
  case priv =>
    intro id e s o n d h hk
    refine (onOp_acts h).trans (congrArg Host.Outcome.next ?_)
    simp only [hk]
  case long =>
    intro id s o d v h hk
    refine (onOp_acts h).trans (congrArg Host.Outcome.next ?_)
    simp only [hk]

end Sys2Proof.Machine
end

section
/-! Reads of a scalar register (R50), and of a poisoned one (R103, R401). -/

namespace Sys2Proof.Machine

/-- A read of a scalar register gives its value at the width asked for, the same for every thread (R50); where the register
is poisoned the reader notes a POISON trap, which is raised once its operands are read (R103, R401). -/
theorem readCode_scalar {s : State} {cx : Cx} {tid k : Nat} {wide : Bool} {w : Work} (hk : k < 16) :
    (readCode s cx tid (96 + k) wide).run w =
      .ok (if wide then (mget 0 cx.g.scal k).toNat else (mget 0 cx.g.scal k).toNat % 2 ^ 32,
        if cx.g.spois.contains k then { w with note := some (firstTrap w.note { code := cPOISON }) } else w) := by
  have notWin : ¬ 96 + k < 96 := by omega
  have isScal : 96 + k < 112 := by omega
  unfold readCode
  rw [if_neg notWin, if_pos isScal, Nat.add_sub_cancel_left]
  cases cx.g.spois.contains k <;> rfl

/-- A move of scalar register 0 to register 16. -/
def movOfScalar0 : Instr := .mov { u := false, d := 16, a := 96, b := 0 }

/-- One lane thread in a clause of one slot, after ECC has found an uncorrectable error in the group's scalar register 0. -/
def scalar0Struck : State := strike (placeLane State.reset 1 []) (.scal 1 0) .uncorrectable

/-- The move runs there, in a group whose scalar register 0 is poisoned. -/
theorem scalar0Struck_runs_poisoned :
    ∃ cx, runOf movOfScalar0 scalar0Struck = some cx ∧ cx.g.spois.contains 0 = true :=
  (Option.any_eq_true (fun cx : Cx => cx.g.spois.contains 0) _).mp (by decide +kernel)

/-- Refutes O50: its first clause says that every read of a scalar register leaves the reader as it was, and no hypothesis
keeps the register unpoisoned. In `scalar0Struck` the thread that reads scalar register 0 comes out with POISON noted
(`readCode_scalar`), as R103 and R401 ask. -/
theorem not_scalarRegisters : ¬ Obligations.ScalarRegisters := by
  unfold Obligations.ScalarRegisters
  rintro ⟨hread, -⟩
  obtain ⟨cx, -, hpois⟩ := scalar0Struck_runs_poisoned
  have hclaim := hread scalar0Struck cx 0 0 { th := thread cx.g 0 } (by decide) true
  rw [readCode_scalar (by decide), if_pos hpois] at hclaim
  simp at hclaim

end Sys2Proof.Machine
end

section
/-! Operations performed at the home: where the statement about the bytes they store does not hold (O46). -/

namespace Sys2Proof.Machine

/-- WRITE_PERFORM of a tile write that may act performs the part (R223). -/
theorem exec_writePerform_tileWrite {s : State} {id part : Nat} {o : Op} {pa team : Nat} {addr : W32} {aon : Bool}
    {data : Option (List Byte)} {pois : List Bool} {left : List Nat} {d : Dst} (h : Acts s id o)
    (hk : o.kind = .tileWrite pa team addr aon data pois left d) :
    exec (.writePerform id part) s = .next (tilePart s o pa team addr aon data pois left d part) := by
  refine (onOp_acts h).trans (congrArg Host.Outcome.next ?_)
  simp only [hk]

/-- One byte more than a tile has. -/
def longTile : List Byte := List.replicate 1024 0 ++ [1]

/-- A tile write of those bytes under .aon to the sector at address 0, from scratchpad address 0 of team 0. -/
def longTileWrite : Op :=
  { id := 1, who := .port 0, ctx := 0, launch := 0, core := 0, kind := .tileWrite 0 0 0 true (some longTile) [] [] {} }

/-- The machine after reset, with that operation in flight and the team that it names. -/
def longTileWriting : State :=
  { State.reset with
    teams := [(0, { launch := 0, index := 0, cluster := 0, home := 0, groups := [] })]
    ops := [longTileWrite] }

theorem longTileWriting_acts : Acts longTileWriting 1 longTileWrite := by
  unfold Acts
  decide +kernel

/-- What its WRITE_PERFORM leaves. -/
def longTileWritten : State := tilePart longTileWriting longTileWrite 0 0 0 true (some longTile) [] [] {} 0

theorem longTileWritten_changes_past_sector : rdByte longTileWritten 1024 ≠ rdByte longTileWriting 1024 := by decide +kernel

/-- The sector ends before address 1024. -/
theorem past_sector_not_mem : Loc.g 1024 ∉ (rangeFrom 0 1024).map Loc.g := by decide +kernel

/-- Refutes O46: its clause about a tile write under .aon binds the operation's data by nothing, and `writeSector` writes all
the bytes that the data holds. `longTileWriting` has a tile write of 1025 bytes in flight; WRITE_PERFORM changes the byte at
address 1024, outside the tile at addresses 0 to 1023 (`longTileWritten_changes_past_sector`). -/
theorem not_memoryOperationsFrame : ¬ Obligations.MemoryOperationsFrame := by
  unfold Obligations.MemoryOperationsFrame
  rintro ⟨-, -, htile, -⟩
  have stays : Stays longTileWriting longTileWrite := fun _ hc => nomatch hc
  obtain ⟨hbytes, -⟩ := htile 1 0 longTileWriting longTileWritten longTileWrite 0 0 0 (some longTile) [] [] {} rfl stays rfl
    (exec_writePerform_tileWrite longTileWriting_acts rfl)
  exact longTileWritten_changes_past_sector (hbytes 1024 past_sector_not_mem)

end Sys2Proof.Machine
end

section
/-! WRITE_PERFORM and ATOMIC_PERFORM on ready operations (R87, R94-R98, R223, R246, R248, R263, R287, R358, R361). -/

namespace Sys2Proof.Machine

/-- A piece of a store that is not blocked is performed; the last one ends the store after `last` (R87, R94). -/
theorem storePart_performs {s : State} {o : Op} {ps : List (List (Loc × Byte))} {pois : List Bool} {part : Nat}
    {p : List (Loc × Byte)} {put : List (List (Loc × Byte)) → List Bool → OpKind} {last : State → State}
    (hp : ps[part]? = some p) (hfree : partBlocked s o ps p = false) :
    storePart s o ps pois part put last =
      (let s1 := leaveLines (performPart s (writerOf o) 0 p (pois.getD part false)) o (ps.eraseIdx part)
       if (ps.eraseIdx part).isEmpty then wroteEnd (last s1) o
       else wakeTasks (putOp s1 { o with kind := put (ps.eraseIdx part) (pois.eraseIdx part) })) := by
  simp only [storePart, hp, hfree, Bool.false_eq_true, if_false]

/-- The status of HPUSH, and the heap it leaves (R287). -/
theorem heapPush_eq (dl : Nat) (req cost : W32) (h : Heap) :
    heapPush dl req cost h =
      (let st := if Config.heapEntries ≤ h.ents.length then 1 else if req = 0xFFFFFFFF then 2
         else if h.ents.any (fun e => e.req == req) then 3 else 0
       (st, if st = 0 then heapInsert { deadline := dl, req := req, cost := cost } h else h)) := by
  unfold heapPush
  by_cases hfull : Config.heapEntries ≤ h.ents.length
  · simp only [if_pos hfull, Nat.one_ne_zero, if_false]
  · by_cases hnone : req = 0xFFFFFFFF
    · simp only [if_neg hfull, if_pos hnone, Nat.add_one_ne_zero, if_false]
    · simp only [if_neg hfull, if_neg hnone]
      split <;> rfl

/-- Settles O28: each act is read off at an operation that may act (`onOp_acts`); stores and TGINIT by their pieces
(`storePart_performs`), HPUSH by its status (`heapPush_eq`), the others by the equation of the function that does their kind. -/
theorem completionsOfWrites : Obligations.CompletionsOfWrites := by
  unfold Obligations.CompletionsOfWrites
  refine ⟨?store, ?sem, ?post, ?release, ?graph, ?go, ?tile, ?sector, ?budget, ?push, ?take, ?remove, ?cfg, ?add, ?del, ?clear,
    ?timebase, ?tlbInv, ?tlbInvSent, ?preempt, ?preempted, ?resume, ?flush, ?clearPoison, ?halt, ?event, ?atomic⟩
  case store =>
    intro id part s o ps pois p h hk hp hfree
    refine (onOp_acts h).trans (congrArg Host.Outcome.next ?_)
    simp only [hk]
    exact storePart_performs hp hfree
  case sem =>
    intro id part s o c x i v set h hk
    refine (onOp_acts h).trans (congrArg Host.Outcome.next ?_)
    simp only [hk]
  case post =>
    intro id part s o va locs h hk hfree
    refine (onOp_acts h).trans (congrArg Host.Outcome.next ?_)
    simp only [hk, hfree, Bool.false_eq_true, if_false]
  case release =>
    intro id part s o va s' pa h hk hpa hfree
    refine (onOp_acts h).trans (congrArg Host.Outcome.next ?_)
    simp only [hk, hpa, hfree, Bool.false_eq_true, if_false]
  case graph =>
    intro id part s o vi seq va s' pa h hk hpa hfree
    refine (onOp_acts h).trans (congrArg Host.Outcome.next ?_)
    simp only [hk, hpa, hfree, graphAnswer, Bool.false_eq_true, if_false]
  case go =>
    intro id part s o va ps p h hk hp hfree
    refine (onOp_acts h).trans (congrArg Host.Outcome.next ?_)
    simp only [hk]
    exact storePart_performs hp hfree
  case tile =>
    intro id part s o pa team addr data pois left d h hk hleft hfree
    refine (exec_writePerform_tileWrite h hk).trans (congrArg Host.Outcome.next ?_)
    rw [tilePart, if_neg (Bool.eq_false_iff.1 hfree)]
    have named : ¬ (!left.contains part) = true := by rw [hleft]; exact Bool.false_ne_true
    cases data with
    | none =>
      simp only [Option.getD_none, Option.isSome_none, Bool.false_eq_true, if_false, if_neg named]
    | some bs => exact (if_neg Bool.false_ne_true).trans (if_neg named)
  case sector =>
    intro id part s o pa team addr pois left d h hk hfree
    refine (exec_writePerform_tileWrite h hk).trans (congrArg Host.Outcome.next ?_)
    rw [tilePart, if_neg (Bool.eq_false_iff.1 hfree)]
    exact if_pos rfl
  case budget =>
    intro id part s o k v inc h hk
    refine (onOp_acts h).trans (congrArg Host.Outcome.next ?_)
    simp only [hk, heapDone, heapBudget]
  case push =>
    intro id part s o k dl req cost d h hk
    refine (onOp_acts h).trans (congrArg Host.Outcome.next ?_)
    simp only [hk, heapDone, heapPush_eq]
  case take =>
    intro id part s o k d h hk
    refine (onOp_acts h).trans (congrArg Host.Outcome.next ?_)
    simp only [hk, heapDone, heapPair]
    cases (getHeap s k).ents <;> rfl
  case remove =>
    intro id part s o k req d h hk
    refine (onOp_acts h).trans (congrArg Host.Outcome.next ?_)
    simp only [hk, heapDone]
  case cfg =>
    intro id part s o team w h hk
    refine (onOp_acts h).trans (congrArg Host.Outcome.next ?_)
    simp only [hk, pocketDone]
  case add =>
    intro id part s o team k v count h hk
    refine (onOp_acts h).trans (congrArg Host.Outcome.next ?_)
    simp only [hk, pocketDone] <;> rfl
  case del =>
    intro id part s o team k coarse d r lg h hk hr
    refine (onOp_acts h).trans (congrArg Host.Outcome.next ?_)
    simp only [hk, pocketDone, hr]
    cases (partsOf r lg k).isEmpty <;> rfl
  case clear =>
    intro id part s o team sel t h hk ht
    refine (onOp_acts h).trans (congrArg Host.Outcome.next ?_)
    simp only [hk, pocketDone, ht, Option.bind_some]
  case timebase =>
    intro id part s o v h hk
    refine (onOp_acts h).trans (congrArg Host.Outcome.next ?_)
    simp only [hk, systemDone, if_true]
  case tlbInv =>
    intro id part s o va ctx all h hk
    refine (onOp_acts h).trans (congrArg Host.Outcome.next ?_)
    simp only [hk, systemDone, tlbInvSend, Bool.false_eq_true, if_false]
  case tlbInvSent =>
    intro id part s o va ctx all h hk
    refine (onOp_acts h).trans (congrArg Host.Outcome.next ?_)
    simp only [hk, systemDone, if_true]
  case preempt =>
    intro id part s o ctx h hk
    refine (onOp_acts h).trans (congrArg Host.Outcome.next ?_)
    simp only [hk, systemDone, Bool.false_eq_true, if_false]
  case preempted =>
    intro id part s o ctx h hk hst
    refine (onOp_acts h).trans (congrArg Host.Outcome.next ?_)
    simp only [hk, systemDone, hst, if_true]
  case resume =>
    intro id part s o ctx h hk hsusp hfits
    refine (onOp_acts h).trans (congrArg Host.Outcome.next ?_)
    simp only [hk, systemDone, hsusp, hfits, Bool.not_true, Bool.false_eq_true, if_false, if_true]
  case flush =>
    intro id part s o pa h hk
    refine (onOp_acts h).trans (congrArg Host.Outcome.next ?_)
    simp only [hk, systemDone]
  case clearPoison =>
    intro id part s o pa h hk hfree
    refine (onOp_acts h).trans (congrArg Host.Outcome.next ?_)
    simp only [hk, systemDone, hfree, Bool.false_eq_true, if_false]
  case halt =>
    intro id part s o core h hk
    refine (onOp_acts h).trans (congrArg Host.Outcome.next ?_)
    simp only [hk, systemDone]
  case event =>
    intro id part s o vi code d h hk
    refine (onOp_acts h).trans (congrArg Host.Outcome.next ?_)
    simp only [hk, systemDone]
  case atomic =>
    intro id s o locs op r lanes h hk hfree
    refine (onOp_acts h).trans (congrArg Host.Outcome.next ?_)
    simp only [hk, atomicDone, hfree, Bool.false_eq_true, if_false]

end Sys2Proof.Machine
end

section
/-! The invariant of the machine under the state's own operations (R85, R95, R368, R374). -/

namespace Sys2Proof.Machine

variable {s t : State} {o : Op} {e : Ecc} {k : Option Kernel} {a : TrapAt} {tr : Trap} {ts : List (Nat × Trap)}
  {gid tid lid core ctx va unit die bin sub slot id n : Nat}

/-! ### Updates of fields that the invariant does not speak of -/

theorem sound_modGroup {f : Group → Group} (h : Sound s) : Sound (modGroup s gid f) := h
theorem sound_modThread {f : Thread → Thread} (h : Sound s) : Sound (modThread s gid tid f) := h
theorem sound_modTeam {f : Team → Team} (h : Sound s) : Sound (modTeam s n f) := h
theorem sound_modCtx {f : Ctx → Ctx} (h : Sound s) : Sound (modCtx s ctx f) := h
theorem sound_modLaunch {f : Launch → Launch} (h : Sound s) : Sound (modLaunch s lid f) := h
theorem sound_setCore {c : Core} (h : Sound s) : Sound (setCore s core c) := h
theorem sound_setCluster {c : Cluster} (h : Sound s) : Sound (setCluster s n c) := h
theorem sound_setHeap {p : Heap} (h : Sound s) : Sound (setHeap s n p) := h
theorem sound_setShroud {x : Shroud} (h : Sound s) : Sound (setShroud s n x) := h
theorem sound_post {x : Event} (h : Sound s) : Sound (post s x) := h
theorem sound_dropWalks {p : Exec → Bool} (h : Sound s) : Sound (dropWalks s p) := h
theorem sound_tlbFill {x : TlbEnt} (h : Sound s) : Sound (tlbFill s x) := h
theorem sound_carry (h : Sound s) : Sound (carry s o) := h
theorem sound_dropOp (h : Sound s) : Sound (dropOp s id) := h
theorem sound_putOp (h : Sound s) : Sound (putOp s o) := h
theorem sound_arrive {d : Dst} {v : Nat} {pois : Bool} (h : Sound s) : Sound (arrive s d v pois) := h
theorem sound_invalQuarter (h : Sound s) : Sound (invalQuarter s unit n) := h
theorem sound_dropCached {p : Line → Bool} (h : Sound s) : Sound (dropCached s p) := h
theorem sound_fillLine {l : Line} (h : Sound s) : Sound (fillLine s l) := h

/-! ### Traps and translation -/

theorem sound_countMiss (h : Sound s) : Sound (countMiss s gid core ctx va) := by
  unfold countMiss
  split
  · exact sound_modGroup h
  · exact h

theorem sound_postLaunch {kind : Nat} {body : List Byte} (h : Sound s) : Sound (postLaunch s lid kind body) := by
  unfold postLaunch
  split
  · exact h
  · exact sound_post h

theorem sound_postFault {recs : List TrapRec} (h : Sound s) : Sound (postFault s lid gid tid recs) := by
  unfold postFault
  split
  · exact h
  · exact sound_postLaunch h

theorem sound_deliverUser (h : Sound s) : Sound (deliverUser s k lid gid tid sub a tr) := by
  unfold deliverUser
  split
  · exact h
  · dsimp only
    split
    · exact sound_modThread h
    · exact sound_postFault (sound_modThread h)

theorem sound_takeTrapsAs (h : Sound s) : Sound (takeTrapsAs s sub k ctx lid gid a ts) := by
  refine sound_foldl (fun s x hs => ?_) ts h
  dsimp only
  split
  · exact sound_of_eq hs rfl rfl rfl
  · exact sound_deliverUser (sound_dropWalks (sound_modGroup hs))

theorem sound_takeTraps (h : Sound s) : Sound (takeTraps s k ctx lid gid a ts) := by
  unfold takeTraps
  split
  · exact h
  · exact sound_takeTrapsAs (sound_modGroup h)

theorem sound_trapSlot {w : W32} (h : Sound s) : Sound (trapSlot s gid w tr) := by
  unfold trapSlot
  split
  · exact h
  · split
    · dsimp only
      split
      · exact sound_modGroup (sound_takeTraps (sound_countMiss h))
      · exact sound_modGroup (sound_takeTraps h)
    · exact h

theorem sound_askWalk {x : Exec} (h : Sound s) : Sound (askWalk s die unit ctx va x) := by
  unfold askWalk
  split <;> exact h

theorem sound_touchUnit {x : Exec} (h : Sound s) : Sound (touchUnit s unit ctx va x) := by
  unfold touchUnit
  split
  · split
    · exact sound_tlbFill h
    · exact sound_askWalk h
  · exact h

theorem sound_touchTlb (h : Sound s) : Sound (touchTlb s gid core ctx slot va) := sound_touchUnit (sound_countMiss h)

theorem sound_touchWord {fl : Flight} (h : Sound s) : Sound (touchWord s gid core ctx fl va) := by
  unfold touchWord
  split
  · exact sound_touchUnit h
  · exact sound_touchTlb h

theorem sound_touchFetch {next : Option W32} (h : Sound s) : Sound (touchFetch s gid next) := by
  unfold touchFetch
  split
  · exact h
  · split
    · dsimp only
      split
      · exact sound_touchWord (sound_touchWord h)
      · exact sound_touchWord h
    · exact h

theorem sound_trapFetch {w : W32} (h : Sound s) : Sound (trapFetch s gid w tr) := by
  unfold trapFetch
  dsimp only
  split
  · exact sound_trapSlot (sound_touchFetch h)
  · exact sound_trapSlot h

/-! ### Flags, deferred traps and the end of an operation -/

theorem sound_wakeThread {g : Group} (h : Sound s) : Sound (wakeThread s gid g tid) := by
  unfold wakeThread
  dsimp only
  split
  · split
    · exact h
    · split
      · exact sound_modThread h
      · exact sound_takeTrapsAs (sound_modThread (sound_modThread h))
  · exact h

theorem sound_wakeFlags (h : Sound s) : Sound (wakeFlags s gid) := by
  unfold wakeFlags
  split
  · exact h
  · exact sound_foldl (fun _ _ hs => sound_wakeThread hs) _ h

theorem sound_lowerFlag {tok : Nat} (h : Sound s) : Sound (lowerFlag s gid tok) := by
  unfold lowerFlag
  split
  · exact h
  · exact sound_wakeFlags (sound_modGroup h)

theorem sound_finishOp (h : Sound s) : Sound (finishOp s o) := by
  unfold finishOp
  dsimp only
  split
  · exact sound_lowerFlag (sound_carry (sound_dropOp h))
  · exact sound_carry (sound_dropOp h)

theorem sound_binFlush (h : Sound s) : Sound (binFlush s lid) := by
  unfold binFlush
  split
  · exact h
  · split <;> exact h

theorem rising_filter {α : Type} {m : NMap α} {b : Nat} {p : Nat × α → Bool} (h : risingFrom b m = true) :
    risingFrom b (m.filter p) = true := by
  induction m generalizing b with
  | nil => rfl
  | cons x m ih =>
    simp only [risingFrom, Bool.and_eq_true, decide_eq_true_eq] at h
    obtain ⟨hb, hm⟩ := h
    rw [List.filter_cons]
    split
    · simp only [risingFrom, Bool.and_eq_true, decide_eq_true_eq]
      exact ⟨hb, ih hm⟩
    · exact rising_weaken (ih hm) (by omega)

theorem canonical_filter {α : Type} [DecidableEq α] {d : α} {m : NMap α} {p : Nat × α → Bool} (h : canonical d m = true) :
    canonical d (m.filter p) = true := by
  simp only [canonical, Bool.and_eq_true] at h ⊢
  obtain ⟨hrise, hall⟩ := h
  refine ⟨rising_filter hrise, List.all_eq_true.2 (fun x hx => ?_)⟩
  exact List.all_eq_true.1 hall x (List.mem_filter.1 hx).1

/-- Frames that are zeroed are taken out of the list of bytes (R85). -/
theorem sound_zeroFrames {rs : List (Nat × Nat)} (h : Sound s) : Sound (zeroFrames rs s) :=
  ⟨canonical_filter h.1, h.2⟩

theorem sound_destroyCtx (h : Sound s) : Sound (destroyCtx s ctx) := by
  unfold destroyCtx
  split
  · exact sound_zeroFrames h
  · exact h

theorem sound_reap (h : Sound s) : Sound (reap s ctx) := by
  unfold reap
  split
  · exact h
  · split
    · exact h
    · dsimp only
      split
      · exact sound_destroyCtx h
      · split <;> exact sound_destroyCtx h

theorem sound_endOp (h : Sound s) : Sound (endOp s o) := sound_reap (sound_binFlush (sound_finishOp h))

theorem sound_reportDeferred {x : Tid} {pc : W64} {d : Deferred} (h : Sound s) : Sound (reportDeferred s lid x pc d) :=
  sound_postFault h

theorem sound_noteDeferred {xs : List Tid} {d : Deferred} (h : Sound s) : Sound (noteDeferred s lid xs d) := by
  refine sound_foldl (fun s x hs => ?_) xs h
  split
  · split
    · exact sound_modThread hs
    · exact sound_reportDeferred hs
  · exact sound_reportDeferred hs

theorem sound_failOp {code addr info2 : Nat} (h : Sound s) : Sound (failOp s o code addr info2) :=
  sound_noteDeferred (sound_dropWalks h)

theorem sound_latePoison {ds : List Dst} {p : Bool} (h : Sound s) : Sound (latePoison s o ds p) := by
  unfold latePoison
  split
  · exact sound_failOp h
  · exact h

end Sys2Proof.Machine
end

section
/-! The invariant under the halyard's events: a die's reef level and REEF_MIN stay levels (R362-R375). -/

namespace Sys2Proof.Machine

variable {s : State} {d : Die} {c : Core} {gid core die k n : Nat}

/-- A die's reef level and REEF_MIN are levels, 0 to 7 (R368, R374). -/
def LevelsOk (d : Die) : Prop := d.reef ≤ 7 ∧ d.reefMin ≤ 7

theorem mget_of_forall {α : Type} {P : α → Prop} {d : α} {m : NMap α} (hd : P d) (h : ∀ x ∈ m, P x.2) (k : Nat) : P (mget d m k) := by
  induction m with
  | nil => exact hd
  | cons e m ih =>
    obtain ⟨i, w⟩ := e
    unfold mget
    rw [mfind]
    split
    · exact h (i, w) List.mem_cons_self
    · exact ih (fun x hx => h x (List.mem_cons_of_mem _ hx))

theorem levelsOk_getDie (h : Sound s) : LevelsOk (getDie s k) := by
  obtain ⟨-, -, hdies⟩ := h
  exact mget_of_forall (P := LevelsOk) (by unfold LevelsOk; decide) hdies k

theorem sound_setDie (h : Sound s) (hd : LevelsOk d) : Sound (setDie s k d) := by
  obtain ⟨hmem, hvers, hdies⟩ := h
  refine ⟨hmem, hvers, fun x hx => ?_⟩
  rcases mem_mset hx with rfl | hx
  · exact hd
  · exact hdies x hx

/-! ### Claims, cars and units -/

theorem sound_dropClaim (h : Sound s) : Sound (dropClaim s core) := sound_setDie h (levelsOk_getDie h)

theorem sound_setQueue {q : List CanvasWait} (h : Sound s) : Sound (setQueue s core q) := by
  unfold setQueue
  extract_lets c old q t
  split
  · exact sound_setCore h
  · exact sound_dropClaim (sound_setCore h)

theorem sound_refreshQueue (h : Sound s) : Sound (refreshQueue s core) := sound_setQueue h

theorem sound_spendCanvas (h : Sound s) : Sound (spendCanvas s core gid) := sound_setQueue (sound_setCore h)

theorem levelsOk_stationStep {claim : Option Claim} {station : Nat} (hd : LevelsOk d) :
    LevelsOk (stationStep claim core station c d).2 := by
  unfold stationStep
  dsimp only
  split
  · exact hd
  · split
    · exact hd
    · split <;> exact hd

theorem sound_stationsStep (h : Sound s) : Sound (stationsStep s die) := by
  refine sound_foldl (fun s i hs => ?_) _ h
  exact sound_setDie (sound_setCore hs) (levelsOk_stationStep (levelsOk_getDie hs))

theorem levelsOk_reserveStep (hd : LevelsOk d) : LevelsOk (reserveStep d) := by
  unfold reserveStep withdraw setCar
  exact hd

theorem sound_dieStep (h : Sound s) : Sound (dieStep s die) := by
  have hd : LevelsOk (getDie s die) := levelsOk_getDie h
  unfold dieStep
  exact sound_stationsStep (sound_setDie h (levelsOk_reserveStep hd))

theorem sound_countWaits (h : Sound s) : Sound (countWaits s) := by
  refine sound_foldl (fun s i hs => ?_) _ h
  exact sound_foldl (fun _ _ hs => sound_modGroup hs) _ hs

theorem sound_returnUnits (h : Sound s) : Sound (returnUnits s die) := by
  refine sound_foldl (fun s i hs => ?_) _ h
  exact sound_setDie (sound_setCore hs) (levelsOk_getDie (k := die) hs)

theorem sound_capHeld (h : Sound s) : Sound (capHeld s die) := by
  refine sound_foldl (fun s i hs => ?_) _ h
  exact sound_setDie (sound_setCore hs) (levelsOk_getDie (k := die) hs)

/-! ### Reef levels -/

theorem sound_writeTarget {target : Nat} (h : Sound s) : Sound (writeTarget s k target) := sound_setCluster h

theorem sound_refillClusters (h : Sound s) : Sound (refillClusters s die) := by
  refine sound_foldl (fun s i hs => ?_) _ h
  dsimp only
  split
  · exact sound_writeTarget (sound_setCluster hs)
  · exact sound_setCluster hs

/-- The governor's level is at most 7 (R368). -/
theorem nextReef_le {applied wish : Nat} : nextReef d applied wish ≤ 7 := by
  unfold nextReef
  split
  · exact Nat.le_refl 7
  · exact Nat.min_le_left 7 _

theorem sound_setReef {r : Nat} (h : Sound s) (hr : r ≤ 7) : Sound (setReef s die r) := by
  unfold setReef
  dsimp only
  have hs : ∀ {f : State → Nat → Core}, Sound ((List.range Config.coresPerDie).foldl (fun s i =>
      setCore s (die * Config.coresPerDie + i) (f s i)) s) := fun {f} => sound_foldl (fun s i hs => sound_setCore hs) _ h
  refine sound_setDie hs ?_
  split
  · exact ⟨hr, (levelsOk_getDie hs).2⟩
  · exact ⟨hr, (levelsOk_getDie hs).2⟩

theorem sound_dieBoundary {wish : List Nat} (h : Sound s) : Sound (dieBoundary wish s die) := by
  unfold dieBoundary
  exact sound_refillClusters (sound_capHeld (sound_setReef (sound_returnUnits h) nextReef_le))

end Sys2Proof.Machine
end

section
/-! The invariant under operations in flight, task records and what is performed at the home (R85-R105, R214-R248, R261-R268). -/

namespace Sys2Proof.Machine

variable {s t : State} {o : Op} {e : Ecc} {d : Dst} {w : Writer} {locs : List Loc} {bs : List Byte} {pois : Bool} {addr : W32}
  {gid tid lid core ctx va pa unit die bin team key orient code off part n : Nat}

/-! ### Caches, ECC and version words -/

theorem sound_acceptCopies {q : Nat} (h : Sound s) : Sound (acceptCopies s w q) := sound_cachesOnly h (acceptCopies_only s w q)

theorem sound_countUnit (h : Sound s) : Sound (countUnit s e unit) := by
  unfold countUnit
  dsimp only
  split <;> exact h

theorem sound_countEcc (h : Sound s) : Sound (countEcc s e pa) := by
  unfold countEcc
  dsimp only
  split
  · exact sound_countUnit h
  · exact sound_of_eq (sound_countUnit h) rfl rfl rfl
  · exact sound_of_eq (sound_countUnit h) rfl rfl rfl

theorem sound_readEcc (h : Sound s) : Sound (readEcc s e locs) := by
  unfold readEcc
  split
  · exact sound_countEcc h
  · exact h

theorem sound_freshQuarter {q : Nat} (h : Sound s) : Sound (freshQuarter s core q) := by
  unfold freshQuarter
  split
  · exact sound_invalQuarter (sound_invalQuarter h)
  · exact h

theorem sound_readFresh (h : Sound s) : Sound (readFresh s core locs) := sound_foldl (fun _ _ hs => sound_freshQuarter hs) _ h

theorem sound_fillFrom {l1 : Bool} (h : Sound s) : Sound (fillFrom s core ctx orient pa l1) := by
  unfold fillFrom
  split
  · exact h
  · extract_lets s1 s2 s3 l s4
    have h3 : Sound s3 := sound_fillLine (sound_fillLine (sound_fillLine h))
    split
    · exact h3
    · exact sound_of_eq (s := s4) (sound_fillLine h3) rfl rfl rfl

theorem sound_loadFill {fmt : Nat} (h : Sound s) : Sound (loadFill s o fmt locs) := by
  unfold loadFill
  split
  · exact sound_fillFrom h
  · exact h

theorem sound_wrScratch {b : Byte} (h : Sound s) : Sound (wrScratch s team n b) := sound_modTeam h

theorem sound_poisonScratch {ws : List Nat} {on : Bool} (h : Sound s) : Sound (poisonScratch s team ws on) := sound_modTeam h

theorem sound_performPart {p : List (Loc × Byte)} {rot : Nat} (h : Sound s) : Sound (performPart s w orient p pois rot) := by
  unfold performPart
  split
  · exact h
  · exact sound_performQuarter h _ _ _ _
  · rename_i k q b rest
    have hs : Sound (((Loc.s k q, b) :: rest).foldl (fun s x => match x.1 with
        | .s t p => wrScratch s t p x.2
        | .g _ => s) s) := by
      refine sound_foldl (fun s x hs => ?_) _ h
      split
      · exact sound_wrScratch hs
      · exact hs
    dsimp only
    split
    · exact sound_poisonScratch hs
    · split
      · exact sound_poisonScratch hs
      · exact hs

theorem sound_writeSector {ps : List Bool} (h : Sound s) : Sound (writeSector s w pa bs ps) := by
  unfold writeSector
  extract_lets s1 s2 s3 s4
  have h2 : Sound s2 := sound_foldl (fun _ _ hs => sound_acceptCopies hs) _ (sound_dropCached h)
  have h3 : Sound s3 := sound_of_eq h2 rfl rfl rfl
  exact sound_foldl (fun _ _ hs => sound_setPoison hs _ _) _ (sound_bumpVersion (sound_wrBytes h3 _ _) _)

theorem sound_wrWordBy {v : Nat} (h : Sound s) : Sound (wrWordBy s w pa v) := sound_performQuarter h _ _ _ _

theorem sound_wrWord {v : Nat} (h : Sound s) : Sound (wrWord s pa v) := sound_wrWordBy h

theorem sound_chargeQuota (h : Sound s) : Sound (chargeQuota s ctx n) := by
  unfold chargeQuota
  split
  · exact h
  · dsimp only
    split
    · exact sound_post (sound_wrBytes (sound_modCtx h) _ _)
    · exact sound_wrBytes (sound_modCtx h) _ _

/-! ### Results of reads -/

theorem sound_loadDone {fmt : Nat} (h : Sound s) : Sound (loadDone s o locs fmt d e) := by
  unfold loadDone
  split
  · exact h
  · dsimp only
    split
    · exact sound_endOp (sound_loadFill (sound_arrive (sound_latePoison (sound_readEcc h))))
    · exact sound_endOp (sound_loadFill (sound_arrive (sound_latePoison (sound_readFresh (sound_readEcc h)))))

theorem sound_tileReadDone (h : Sound s) : Sound (tileReadDone s o pa team addr d e) := by
  unfold tileReadDone
  dsimp only
  split
  · exact h
  · exact sound_endOp (sound_arrive (sound_foldl (fun _ _ hs => sound_performPart hs) _ (sound_readFresh (sound_readEcc h))))

theorem sound_arrivePreds {b : Bool} (h : Sound s) : Sound (arrivePreds s d b) := sound_modGroup h

theorem sound_lookupDone {coarse : Bool} (h : Sound s) : Sound (lookupDone s o team key coarse n d) := by
  unfold lookupDone
  split
  · exact sound_endOp (sound_arrivePreds (sound_arrive (sound_failOp h)))
  · exact sound_endOp (sound_arrivePreds (sound_arrive h))

theorem sound_callWrite (h : Sound s) : Sound (callWrite s key n off bs pois) :=
  sound_foldl (fun _ _ hs => sound_performPart hs) _ h

theorem sound_prdDone (h : Sound s) : Sound (prdDone s o team key addr d) := by
  unfold prdDone
  split
  · exact sound_endOp (sound_arrive (sound_failOp h))
  · exact sound_endOp (sound_arrive (sound_callWrite h))

theorem sound_endRelease (h : Sound s) : Sound (endRelease s n) := by
  unfold endRelease
  split
  · exact h
  · split <;> exact h

theorem sound_endHeap (h : Sound s) : Sound (endHeap s o n) := sound_endRelease (sound_endOp h)

/-! ### Task records -/

theorem sound_wakeTasks (h : Sound s) : Sound (wakeTasks s) := h

theorem sound_wroteEnd (h : Sound s) : Sound (wroteEnd s o) := sound_wakeTasks (sound_endOp h)

theorem sound_resolvePa {a : Acc} (h : Sound s) : Sound (resolvePa s unit ctx va a).1 := by
  unfold resolvePa
  split
  · dsimp only
    exact sound_makePresent h _ _
  · exact h

theorem sound_of_resolvePa {a : Acc} {r : Except Nat Nat} (h : Sound s) (hr : resolvePa s unit ctx va a = (t, r)) : Sound t := by
  have ht := sound_resolvePa (unit := unit) (ctx := ctx) (va := va) (a := a) h
  rwa [hr] at ht

theorem sound_setFlags {bits : Nat} (h : Sound s) : Sound (setFlags s pa bits) := sound_wrWord h

theorem sound_postTaskFault {l : Option Nat} (h : Sound s) : Sound (postTaskFault s ctx l va code off) := by
  unfold postTaskFault
  dsimp only
  split
  · exact sound_postLaunch h
  · exact sound_post h

theorem sound_addOp (h : Sound s) : Sound (addOp s o) := h

theorem sound_enqueue {q : Queued} (h : Sound s) : Sound (enqueue s n q) := sound_setShroud h

theorem sound_dispatch (h : Sound s) : Sound (dispatch s ctx va pa).1 := by
  unfold dispatch
  extract_lets fl u fail entry target
  have hu : Sound u := sound_setFlags h
  have hfail : ∀ l code, Sound (fail u l code).1 := fun _ _ => sound_postTaskFault (sound_setFlags hu)
  split
  · exact h
  · split
    · exact hfail _ _
    · split
      · exact hfail _ _
      · split
        · split
          · exact sound_addOp hu
          · exact hfail _ _
        · split
          · exact sound_enqueue hu
          · exact hfail _ _
        · exact hu
        · exact hfail _ _

theorem sound_wakeSem {v : W32} (h : Sound s) : Sound (wakeSem s core ctx n v) := h

theorem sound_setSem {v : W32} (h : Sound s) : Sound (setSem s core ctx n v) := sound_wakeSem (sound_setCore h)

theorem sound_complete {c : Compl} (h : Sound s) : Sound (complete s ctx c) := by
  unfold complete
  split
  · exact sound_setSem h
  · exact h

theorem sound_release {post : State → Nat → State} (hpost : ∀ s va, Sound s → Sound (post s va)) (h : Sound s) :
    Sound (release post ctx s va) := by
  unfold release
  split
  · exact sound_of_resolvePa h ‹_›
  · rename_i u pa hr
    have hu : Sound u := sound_of_resolvePa h hr
    split
    · exact sound_addOp hu
    · dsimp only
      split
      · exact sound_postTaskFault (sound_setFlags hu)
      · split
        · have hd : ∀ {v}, Sound (dispatch (wrWord u pa v) ctx va pa).1 := sound_dispatch (sound_wrWord hu)
          split
          · exact hpost _ _ hd
          · exact hd
        · exact sound_wrWord hu

theorem sound_postTree (h : Sound s) : Sound (postTree ctx n s va) := by
  induction n generalizing s va with
  | zero => exact h
  | succ n ih =>
    unfold postTree
    split
    · exact sound_of_resolvePa h ‹_›
    · rename_i u pa hr
      have hu : Sound u := sound_of_resolvePa h hr
      split
      · exact hu
      · dsimp only
        refine sound_foldl (fun s x hs => sound_release (fun _ _ => ih) hs) _ ?_
        split
        · exact sound_complete (sound_setFlags hu)
        · exact sound_setFlags hu

theorem sound_postRecord (h : Sound s) : Sound (postRecord s ctx va) := sound_wakeTasks (sound_postTree h)

theorem sound_releaseHeld (h : Sound s) : Sound (releaseHeld s ctx va) :=
  sound_wakeTasks (sound_release (fun _ _ hs => sound_postTree hs) h)

theorem sound_dispatchRecord (h : Sound s) : Sound (dispatchRecord s ctx va pa) := by
  unfold dispatchRecord
  dsimp only
  split
  · exact sound_postRecord (sound_dispatch h)
  · exact sound_dispatch h

theorem sound_goLast (h : Sound s) : Sound (goLast o va s) := by
  unfold goLast
  split
  · exact sound_of_resolvePa h ‹_›
  · have hu := sound_of_resolvePa h ‹_›
    split
    · exact sound_dispatchRecord hu
    · exact hu

theorem sound_graphAnswer {vi seq status : Nat} (h : Sound s) : Sound (graphAnswer s vi seq status) := h

/-! ### Stores, tiles, pockets and heaps -/

theorem sound_leaveLines {ps : List (List (Loc × Byte))} (h : Sound s) : Sound (leaveLines s o ps) := h

theorem sound_storePart {ps : List (List (Loc × Byte))} {qs : List Bool} {put : List (List (Loc × Byte)) → List Bool → OpKind}
    {last : State → State} (hlast : ∀ s, Sound s → Sound (last s)) (h : Sound s) : Sound (storePart s o ps qs part put last) := by
  unfold storePart
  split
  · split
    · exact sound_wroteEnd (hlast _ h)
    · exact h
  · split
    · exact h
    · have hs : ∀ {p q qs}, Sound (leaveLines (performPart s (writerOf o) 0 p q) o qs) := sound_leaveLines (sound_performPart h)
      dsimp only
      split
      · exact sound_wroteEnd (hlast _ hs)
      · exact sound_wakeTasks (sound_putOp hs)

theorem sound_tilePart {aon : Bool} {data : Option (List Byte)} {ps : List Bool} {left : List Nat} (h : Sound s) :
    Sound (tilePart s o pa team addr aon data ps left d part) := by
  unfold tilePart
  extract_lets ls q
  split
  · exact h
  · split
    split
    · exact sound_wroteEnd (sound_arrive (sound_writeSector h))
    · split
      · exact h
      · extract_lets q u rest
        have hu : Sound u := sound_performPart h
        split
        · exact sound_wroteEnd (sound_arrive hu)
        · exact sound_wakeTasks (sound_putOp hu)

theorem sound_setRegion {coarse : Bool} {r : Region} (h : Sound s) : Sound (setRegion s ctx key coarse r) := by
  unfold setRegion
  split
  · exact h
  · exact sound_modCtx (sound_modTeam h)

theorem sound_noticeArena {id : Nat} (h : Sound s) : Sound (noticeArena s id) := by
  unfold noticeArena
  split <;> exact h

end Sys2Proof.Machine
end

section
/-! The invariant under system operations, atomics, links, copies, drains and cleat calls (R97, R242, R247, R268, R278-R281, R361). -/

namespace Sys2Proof.Machine

variable {s t : State} {o : Op} {e : Ecc} {d : Dst} {w : Writer} {locs : List Loc} {bs : List Byte} {pois : Bool} {addr : W32} {x : Exec}
  {gid tid lid core ctx va pa unit die bin team key orient code off part home need id k n : Nat}

/-- The state of a pair that a function gives. -/
theorem sound_fst {α : Type} {p : State × α} {r : α} (h : Sound p.1) (hp : p = (t, r)) : Sound t := by
  rw [hp] at h
  exact h

/-- The state in which a table update or a call ends, waits or fails. -/
def WorkSound : Work1 → Prop
  | .ok s => Sound s
  | .wait s => Sound s
  | .fail s _ _ _ => Sound s

/-! ### Pockets, heaps and system operations -/

theorem workSound_addTable {coarse : Bool} {adds : List PAdd} (h : Sound s) : WorkSound (addTable s id ctx key coarse adds) := by
  unfold addTable
  split
  · split
    · exact h
    · split
      · exact h
      · dsimp only
        split
        · exact sound_setRegion h
        · split
          · exact sound_setRegion h
          · exact sound_noticeArena h
  · exact h

theorem sound_pocketDone {p : PocketOp} (h : Sound s) : Sound (pocketDone s o p team) := by
  unfold pocketDone
  split
  · exact sound_endOp (sound_modTeam (sound_setRegion (sound_setRegion h)))
  · rename_i k v count
    have hw := workSound_addTable (id := o.id) (ctx := o.ctx) (key := team) (coarse := false)
      (adds := [{ key := k, val := [v], count := count, pois := false }]) h
    split
    · rename_i u hu
      rw [hu] at hw
      exact sound_endOp hw
    · rename_i u hu
      rw [hu] at hw
      exact hw
    · rename_i u code a i hu
      rw [hu] at hw
      exact sound_endOp (sound_failOp hw)
  · split
    · exact sound_endOp (sound_arrive (sound_failOp h))
    · exact sound_endOp (sound_arrive (sound_setRegion h))
  · extract_lets on u v
    have hu : Sound u := by
      change Sound (ite _ _ _)
      split
      · exact sound_setRegion h
      · exact h
    have hv : Sound v := by
      change Sound (ite _ _ _)
      split
      · exact sound_setRegion hu
      · exact hu
    exact sound_endOp hv
  · exact h

theorem sound_heapDone {p : HeapOp} (h : Sound s) : Sound (heapDone s o k p) := by
  unfold heapDone
  extract_lets q
  split
  · exact sound_endHeap (sound_arrive (sound_setHeap h))
  · split
    · split
      · exact sound_endHeap (sound_arrive (sound_setHeap h))
      · exact sound_endHeap (sound_arrive h)
    · exact sound_endHeap (sound_arrive h)
  · exact sound_endHeap (sound_setHeap h)
  · exact sound_endHeap (sound_arrive (sound_setHeap h))
  · exact h

theorem sound_tlbInvSend {all : Bool} (h : Sound s) : Sound (tlbInvSend s o va ctx all) := h

theorem sound_readRecord (h : Sound s) : Sound (readRecord s ctx) := h

theorem sound_modBins {f : Bin → Bin} (h : Sound s) : Sound (modBins s core ctx f) := h

theorem sound_preemptCore {byCtxsw : Bool} (h : Sound s) : Sound (preemptCore s core ctx byCtxsw) := by
  unfold preemptCore
  extract_lets gs
  split
  · exact h
  · have hg : Sound (gs.foldl (fun s g => modGroup s g.1 (fun g => { g with susp := true })) (readRecord s ctx)) :=
      sound_foldl (fun _ _ hs => sound_modGroup hs) _ (sound_readRecord h)
    exact sound_setQueue (sound_setCore (sound_modBins (sound_dropWalks hg)))

theorem sound_spillBars {keys : List Nat} (h : Sound s) : Sound (spillBars home need keys s) := by
  induction keys generalizing s with
  | nil => exact h
  | cons key keys ih =>
    unfold spillBars
    split
    · exact h
    · exact ih (sound_modTeam h)

theorem sound_makeBars (h : Sound s) : Sound (makeBars s home need) := by
  unfold makeBars
  exact sound_spillBars h

theorem sound_restoreBars (h : Sound s) : Sound (restoreBars s key) := by
  unfold restoreBars
  split
  · split
    · exact sound_modTeam (sound_makeBars h)
    · exact h
  · exact h

theorem sound_resumeCore (h : Sound s) : Sound (resumeCore s core ctx) := by
  unfold resumeCore
  extract_lets gs u v w c
  have hu : Sound u := by
    refine sound_foldl (fun s g hs => ?_) gs (sound_readRecord h)
    exact sound_of_eq hs rfl rfl rfl
  have hv : Sound v := by
    refine sound_foldl (fun s g hs => ?_) _ hu
    split
    · exact sound_restoreBars hs
    · exact hs
  exact sound_setCore (sound_modBins hv)

theorem sound_systemDone {p : SysOp} (h : Sound s) : Sound (systemDone s o p) := by
  unfold systemDone
  split
  · refine sound_endOp ?_
    split <;> exact h
  · split
    · exact sound_endOp h
    · exact sound_tlbInvSend h
  · split
    · split
      · exact sound_endOp h
      · exact h
    · exact sound_putOp (sound_preemptCore h)
  · split
    · exact sound_endOp h
    · split
      · exact sound_endOp (sound_resumeCore h)
      · exact h
  · exact sound_endOp (sound_dropCached h)
  · split
    · exact h
    · exact sound_wroteEnd (sound_performQuarter h _ _ _ _)
  · exact sound_endOp (sound_setCore h)
  · split
    · exact sound_endOp (sound_arrive h)
    · exact sound_endOp (sound_arrive (sound_of_eq h rfl rfl rfl))
  · exact h

/-! ### Atomics, links and lines -/

theorem sound_atomicDone {op : Nat} {lanes : List ALane} (h : Sound s) : Sound (atomicDone s o locs op lanes) := by
  unfold atomicDone
  split
  · exact h
  · exact sound_wroteEnd (sound_foldl (fun _ _ hs => sound_arrive hs) _ (sound_latePoison (sound_readFresh (sound_performPart h))))

theorem sound_linkDone {succ : Nat} (h : Sound s) : Sound (linkDone s o succ locs d) := by
  unfold linkDone
  split
  · exact h
  · split
    · split
      · exact sound_wroteEnd (sound_arrive h)
      · extract_lets n
        split
        · exact sound_wroteEnd (sound_arrive h)
        · exact sound_wroteEnd (sound_arrive (sound_readFresh (sound_wrWordBy (sound_performQuarter (sound_wrWordBy h) _ _ _ _))))
    · exact h

theorem sound_acquireNext {lines : List Nat} (h : Sound s) : Sound (acquireNext s o lines) := by
  unfold acquireNext
  split
  · exact h
  · split <;> exact h

/-! ### What an engine translates as it reaches an element -/

theorem sound_resolveAt {a : Acc} (h : Sound s) : Sound (resolveAt s unit ctx va a x).1 := by
  unfold resolveAt
  split
  · exact sound_touchUnit (sound_of_resolvePa h ‹_›)
  · exact sound_of_resolvePa h ‹_›

theorem sound_resolveDest {a : Acc} {keep : Bool} {p : Dest} (h : Sound s) : Sound (resolveDest unit ctx n a x keep s p).1 := by
  unfold resolveDest
  split
  · exact h
  · extract_lets left
    split
    · exact h
    · split
      · exact sound_fst (sound_resolveAt h) ‹_›
      · exact sound_fst (sound_resolveAt h) ‹_›

theorem sound_engineLocs (h : Sound s) : Sound (engineLocs s unit ctx x va n).1 := by
  induction n generalizing s va with
  | zero => exact h
  | succ n ih =>
    unfold engineLocs
    extract_lets va
    split
    rename_i u p hu
    have hu : Sound u := sound_fst (sound_resolveDest h) hu
    split
    · exact hu
    · split
      · exact sound_fst (ih hu) ‹_›
      · exact sound_fst (ih hu) ‹_›

theorem sound_drainEntries {p : Drain} {keys : List Nat} (h : Sound s) : Sound (drainEntries unit ctx x p keys n s).1 := by
  induction keys generalizing s n with
  | nil => exact h
  | cons key keys ih =>
    unfold drainEntries
    split
    · exact sound_fst (sound_engineLocs h) ‹_›
    · rename_i u kl hu
      have hu : Sound u := sound_fst (sound_engineLocs h) hu
      split
      · exact sound_fst (sound_engineLocs hu) ‹_›
      · exact ih (sound_fst (sound_engineLocs hu) ‹_›)

theorem sound_drainPlan {p : Drain} (h : Sound s) : Sound (drainPlan s o p key).1 := sound_drainEntries h

theorem sound_resolveDests {keep : Bool} {ds : List Dest} (h : Sound s) : Sound (resolveDests unit ctx n x keep ds s).1 := by
  induction ds generalizing s with
  | nil => exact h
  | cons p ds ih =>
    unfold resolveDests
    exact ih (sound_resolveDest h)

theorem sound_resolveElems {keep : Bool} {es : List Elem} (h : Sound s) : Sound (resolveElems unit ctx n x keep es s).1 := by
  induction es generalizing s with
  | nil => exact h
  | cons p es ih =>
    unfold resolveElems
    dsimp only
    split
    · exact ih (sound_resolveDests h)
    · exact ih (sound_resolveDests (sound_resolveDest h))

theorem sound_copyReach {c : Copy} (h : Sound s) : Sound (copyReach s o c).1 := sound_resolveElems h

/-! ### What an engine writes -/

theorem sound_settleScratch {ws : Written} {ps : List Loc} {q : Nat × List Nat} (h : Sound s) : Sound (settleScratch ws ps s q) := by
  unfold settleScratch
  split
  · exact sound_poisonScratch h
  · split
    · exact sound_poisonScratch h
    · exact h

theorem sound_performWritten {ws : Written} {ps : List Loc} {qs : List (Nat × List Nat)} (h : Sound s) :
    Sound (performWritten s ctx orient ws ps qs) := by
  unfold performWritten
  extract_lets gs u v
  have hu : Sound u := by
    refine sound_foldl (fun s q hs => ?_) _ h
    extract_lets bs u
    exact sound_performQuarter (sound_foldl (fun _ _ hs => sound_fillLine hs) _ hs) _ _ _ _
  have hv : Sound v := by
    refine sound_foldl (fun s y hs => ?_) _ hu
    split
    · exact sound_wrScratch hs
    · exact hs
  exact sound_foldl (fun _ _ hs => sound_settleScratch hs) _ hv

theorem sound_fillSources {c : Copy} (h : Sound s) : Sound (fillSources s o c) := by
  unfold fillSources
  refine List.foldlRecOn (motive := fun acc : List Nat × State => Sound acc.2) _ _ h (fun acc hacc p _ => ?_)
  split
  · extract_lets k
    split
    · exact hacc
    · exact sound_fillFrom hacc
  · exact hacc

theorem sound_copyPerform {c : Copy} (h : Sound s) : Sound (copyPerform s o c).1 := by
  unfold copyPerform
  split
  · exact h
  · exact sound_performWritten (sound_fillSources (sound_of_eq h rfl rfl rfl))

theorem sound_drainPerform {p : Drain} {es : List DEnt} {fault : Bool} (h : Sound s) : Sound (drainPerform s o p key es fault).1 := by
  unfold drainPerform
  split
  · exact h
  · exact sound_setRegion (sound_performWritten h)

/-! ### Cleat calls -/

theorem sound_lowerSigners {sg : List Signer} (h : Sound s) : Sound (lowerSigners s sg) :=
  sound_foldl (fun _ _ hs => sound_lowerFlag hs) _ h

theorem sound_endCall {sg : List Signer} (h : Sound s) : Sound (endCall s o sg) := by
  unfold endCall
  exact sound_reap (sound_lowerSigners (sound_of_eq (sound_dropOp (id := o.id) h) rfl rfl rfl))

theorem sound_callEnd {sg : List Signer} {r : Work1} (h : WorkSound r) : Sound (callEnd o sg r) := by
  unfold callEnd
  split
  · exact sound_endCall h
  · exact h
  · exact sound_endCall (sound_foldl (fun _ _ hs => sound_noteDeferred hs) _ (sound_dropWalks h))

theorem sound_engineRead (h : Sound s) : Sound (engineRead s unit ctx x va n).1 := by
  induction n generalizing s va with
  | zero => exact h
  | succ n ih =>
    unfold engineRead
    extract_lets va
    split
    · exact h
    · split
      · exact sound_fst (sound_resolveAt h) ‹_›
      · rename_i u pa hu
        have hu : Sound u := sound_fst (sound_resolveAt h) hu
        split
        · exact sound_fst (ih hu) ‹_›
        · exact sound_fst (ih hu) ‹_›

theorem sound_vlogits {vbase i : Nat} {r : VRow} {js : List Nat} (h : Sound s) :
    Sound (vlogits s unit ctx x key k vbase i r js).1 := by
  induction js generalizing s with
  | nil => exact h
  | cons j js ih =>
    unfold vlogits
    extract_lets v
    have hread : ∀ {s c n va bs}, Sound s → Sound (if c = 0 then (s, Except.ok (bs, false)) else engineRead s unit ctx x va n).1 := by
      intro s c n va bs hs
      split
      · exact hs
      · exact sound_engineRead hs
    split
    rename_i u b eu
    have hu : Sound u := sound_fst (hread h) eu
    split
    rename_i v m ev
    have hv : Sound v := sound_fst (hread hu) ev
    split
    · exact hv
    · exact hv
    · dsimp only
      split
      · exact sound_fst (ih hv) ‹_›
      · exact sound_fst (ih hv) ‹_›

theorem workSound_vstatRows {ws : List W32} {is : List Nat} (h : Sound s) : WorkSound (vstatRows unit ctx x key k ws is s) := by
  induction is generalizing s with
  | nil => exact h
  | cons i is ih =>
    unfold vstatRows
    extract_lets w vn
    split
    · exact sound_fst (sound_engineRead h) ‹_›
    · rename_i u bs p hu
      have hu : Sound u := sound_fst (sound_engineRead h) hu
      extract_lets r
      split
      · exact sound_fst (sound_vlogits hu) ‹_›
      · exact ih (sound_callWrite (sound_callWrite (sound_fst (sound_vlogits hu) ‹_›)))

theorem workSound_mmaPerform {c : Call} {sg : List Signer} {ranks : List Tid} (h : Sound s) :
    WorkSound (mmaPerform s o c key sg ranks) := by
  have hw := workSound_addTable (id := o.id) (ctx := o.ctx) (key := key) (coarse := true) (adds := mmaAdds s key c sg ranks) h
  unfold mmaPerform
  split
  · rename_i u hu
    rw [hu] at hw
    split
    · exact workSound_vstatRows hw
    · exact hw
  · exact hw

theorem sound_tripRow {tap slot trips : Nat} (h : Sound s) : Sound (tripRow s ctx tap slot trips pois) := by
  unfold tripRow
  extract_lets vi ev w w' u
  have hev : ∀ v kind ws, Sound v → Sound (ev v kind ws) := fun _ _ _ hs => sound_post hs
  have hu : Sound u := by
    change Sound (ite _ _ _)
    split
    · exact h
    · exact hev _ _ _ (sound_of_eq h rfl rfl rfl)
  split
  · exact hev _ _ _ hu
  · exact hu

theorem sound_normOne {c : Call} {active : Bool} (h : Sound s) : Sound (normOne ctx key c active s n) := by
  unfold normOne
  dsimp only
  split
  · exact sound_callWrite (sound_callWrite (sound_tripRow h))
  · exact sound_callWrite h

theorem sound_normPerform {c : Call} (h : Sound s) : Sound (normPerform s o c key) := by
  unfold normPerform
  refine sound_foldl (fun _ _ hs => sound_normOne hs) _ ?_
  split
  · exact sound_post h
  · exact h

end Sys2Proof.Machine
end

section
/-! The invariant under clauses that begin, rounds, page faults that are answered, placement and the ends of teams, launches and
contexts (R34-R43, R332-R356). -/

namespace Sys2Proof.Machine

variable {s t : State} {o : Op} {a : TrapAt} {x : Tid} {tm : Team} {cl : Cleat} {l : Launch} {kern : Kernel} {prefs : List (Nat × Nat)}
  {gid tid lid core ctx va pa unit key home index mask bin sub b c n : Nat}

/-! ### Clauses -/

theorem sound_firstSlotTraps {i : Issue} (h : Sound s) : Sound (firstSlotTraps s gid i core ctx lid) := by
  unfold firstSlotTraps
  refine sound_foldl (fun s y hs => ?_) _ h
  split
  · exact hs
  · exact sound_takeTraps (sound_modThread hs)

theorem sound_beginClause {g : Group} {i : Issue} (h : Sound s) : Sound (beginClause s gid g i) := by
  unfold beginClause
  extract_lets ctx u v
  have hv : Sound v := sound_foldl (fun _ _ hs => sound_touchTlb hs) _ (sound_modGroup h)
  split
  · exact sound_modGroup (sound_takeTraps hv)
  · exact sound_modGroup (sound_firstSlotTraps hv)

/-! ### Rounds and barriers -/

theorem sound_grantGroup (h : Sound s) : Sound (grantGroup s gid) := h

theorem sound_releaseSigner (h : Sound s) : Sound (releaseSigner s x) := sound_grantGroup (sound_modThread h)

theorem sound_commitSigner (h : Sound s) : Sound (commitSigner s tm x) := by
  unfold commitSigner
  extract_lets th
  split
  · extract_lets a trap
    have htrap : ∀ u tr, Sound u → Sound (trap u tr) := fun _ _ hs => sound_takeTrapsAs hs
    split
    · exact htrap _ _ (sound_modThread h)
    · split
      · split
        · exact htrap _ _ h
        · exact sound_releaseSigner h
      · exact sound_releaseSigner h
  · exact h

theorem sound_setCleat (h : Sound s) : Sound (setCleat s key c cl) := sound_modTeam h

theorem sound_endRound (h : Sound s) : Sound (endRound s key c cl) := by
  unfold endRound
  extract_lets u
  have hu : Sound u := sound_setCleat h
  split
  · exact hu
  · exact sound_foldl (fun _ _ hs => sound_modGroup hs) _ hu

theorem sound_commitClose (h : Sound s) : Sound (commitClose s key c) := by
  unfold commitClose
  split
  · exact h
  · extract_lets cl
    split
    · exact h
    · split
      · exact h
      · exact sound_foldl (fun _ _ hs => sound_commitSigner hs) _ (sound_endRound h)

theorem sound_issueCall {call : Call} (h : Sound s) : Sound (issueCall s key tm cl call) := by
  unfold issueCall
  split
  · exact h
  · exact sound_addOp h

theorem sound_closeCheck (h : Sound s) : Sound (closeCheck s key c) := by
  unfold closeCheck
  split
  · exact h
  · extract_lets cl
    split
    · exact h
    · split
      · exact h
      · split
        · have hu : Sound (endRound (lowerSigners s cl.signers) key c cl) := sound_endRound (sound_lowerSigners h)
          split
          · exact sound_foldl (fun _ _ hs => sound_releaseSigner hs) _ hu
          · exact hu
        · split
          · exact sound_foldl (fun _ _ hs => sound_releaseSigner hs) _ (sound_endRound h)
          · split
            · exact sound_endRound h
            · exact sound_endRound (sound_issueCall h)

theorem sound_addFence {ds : List Dep} (h : Sound s) : Sound (addFence s x ds) := sound_modThread h

theorem sound_barrierCheck (h : Sound s) : Sound (barrierCheck s key b) := by
  unfold barrierCheck
  split
  · exact h
  · extract_lets ps
    split
    · exact h
    · refine sound_foldl (fun s y hs => ?_) _ (sound_modTeam h)
      dsimp only
      split
      · exact sound_addFence (sound_modThread (sound_modThread hs))
      · exact sound_modThread hs

theorem sound_teamCheck (h : Sound s) : Sound (teamCheck s key) :=
  sound_foldl (fun _ _ hs => sound_barrierCheck hs) _ (sound_foldl (fun _ _ hs => sound_closeCheck hs) _ h)

theorem sound_afterUnpark {gids : List Nat} (h : Sound s) : Sound (afterUnpark s gids) :=
  sound_foldl (fun _ _ hs => sound_teamCheck hs) _ h

/-! ### Page faults that Maluk answers -/

theorem sound_unparkThread (h : Sound s) : Sound (unparkThread sub s x) := sound_modThread h

theorem sound_deliverParked (h : Sound s) : Sound (deliverParked sub s x) := by
  unfold deliverParked
  split
  · exact h
  · extract_lets t
    split
    · exact h
    · split
      · exact sound_modThread h
      · exact sound_postFault h

theorem sound_resolveFault {f : PageFault} (h : Sound s) : Sound (resolveFault sub s f) := by
  unfold resolveFault
  split
  · exact sound_foldl (fun _ _ hs => sound_unparkThread hs) _ (sound_makePresent h _ _)
  · exact sound_foldl (fun _ _ hs => sound_deliverParked hs) _ h

/-! ### Placement -/

theorem sound_argBytes (h : Sound s) : Sound (argBytes ctx n va s).1 := by
  induction n generalizing s va with
  | zero => exact h
  | succ n ih =>
    unfold argBytes
    split
    · exact ih (sound_of_resolvePa h ‹_›)
    · exact ih (sound_of_resolvePa h ‹_›)

theorem sound_argScalars (h : Sound s) : Sound (argScalars s l kern).1 := sound_argBytes h

theorem sound_addGroup {g : Group} (h : Sound s) : Sound (addGroup s g).1 := h

theorem sound_startTeam {image : Nat × Nat} (h : Sound s) : Sound (startTeam s lid l kern index home mask image) := by
  have hgroups : Sound (startGroups s lid l kern index home mask).1 := by
    unfold startGroups
    refine List.foldlRecOn (motive := fun acc : State × List Nat => Sound acc.1) _ _ ?_ (fun acc hacc i _ => sound_addGroup hacc)
    exact sound_argScalars (sound_makeBars (sound_readRecord h))
  rw [startTeam_eq]
  exact sound_of_eq hgroups rfl rfl rfl

theorem sound_startSpawned (h : Sound s) : Sound (startSpawned s core bin) := by
  unfold startSpawned
  extract_lets c b
  split
  · exact h
  · split
    · exact sound_addGroup (sound_argScalars (sound_setCore h))
    · exact h

theorem sound_of_placeCand {y : Ranked} (h : Sound s) (ht : placeCand s prefs y = some t) : Sound t := by
  unfold placeCand at ht
  extract_lets team at ht
  have hteam : ∀ lid r, team lid = some r → Sound r.1 := by
    intro lid r hr
    change (match mfind s.launches lid, kernelOf s lid with | some l, some k => _ | _, _ => _) = some r at hr
    split at hr
    · simp only [Option.bind_eq_some_iff, Option.map_eq_some_iff] at hr
      obtain ⟨p, -, q, -, rfl⟩ := hr
      exact sound_startTeam h
    · cases hr
  split at ht
  · split at ht
    · cases ht
      exact sound_resumeCore h
    · cases ht
  · obtain ⟨r, hr, rfl⟩ := Option.map_eq_some_iff.1 ht
    exact hteam _ _ hr
  · obtain ⟨r, hr, rfl⟩ := Option.map_eq_some_iff.1 ht
    exact hteam _ _ hr
  · split at ht
    · cases ht
    · split at ht
      · cases ht
      · split at ht
        · cases ht
          exact sound_startSpawned h
        · cases ht

theorem sound_of_firstFit {ys : List Ranked} {passed : List Cand} {cand : Cand} (h : Sound s)
    (ht : (firstFit s prefs ys passed).1 = some (t, cand)) : Sound t := by
  induction ys generalizing passed with
  | nil => cases ht
  | cons y ys ih =>
    unfold firstFit at ht
    split at ht
    · cases ht
      exact sound_of_placeCand h ‹_›
    · split at ht
      · cases ht
      · exact ih ht

theorem sound_notePassed {cs : List Cand} (h : Sound s) : Sound (notePassed s cs) := h

theorem sound_placeAll (h : Sound s) : Sound (placeAll prefs n s) := by
  induction n generalizing s with
  | zero => exact h
  | succ n ih =>
    unfold placeAll
    split
    · exact sound_notePassed h
    · rename_i u cand passed hu
      have hu : Sound u := sound_of_firstFit (cand := cand) h (by rw [hu])
      exact ih (sound_of_eq hu rfl rfl rfl)

theorem sound_dropPassed (h : Sound s) : Sound (dropPassed s) := h

/-! ### The ends of teams, launches, contexts and VIs -/

theorem sound_teamEnd (h : Sound s) : Sound (teamEnd s key) := by
  unfold teamEnd
  split
  · exact h
  · split
    · exact h
    · exact sound_modLaunch (sound_modTeam (sound_setRegion (sound_setRegion h)))

theorem sound_abortLaunch (h : Sound s) : Sound (abortLaunch s lid) := by
  unfold abortLaunch
  split
  · exact h
  · split
    · exact h
    · extract_lets u gone v w y
      have hv : Sound v := h
      have hw : Sound w := sound_foldl (fun _ _ hs => sound_setQueue hs) _ hv
      have hy : Sound y := sound_of_eq hw rfl rfl rfl
      exact sound_foldl (fun _ _ hs => sound_teamEnd hs) _ hy

theorem sound_killCtx (h : Sound s) : Sound (killCtx s ctx) :=
  sound_reap (sound_modCtx (sound_foldl (fun _ _ hs => sound_abortLaunch hs) _ h))

theorem sound_endVi {vi : Nat} (h : Sound s) : Sound (endVi s vi) := by
  unfold endVi
  extract_lets u v
  have hu : Sound u := h
  have hv : Sound v := sound_foldl (fun _ _ hs => sound_killCtx hs) _ hu
  split <;> exact hv

theorem sound_dropWindows (h : Sound s) : Sound (dropWindows s l kern) := sound_modCtx h

end Sys2Proof.Machine
end

section
/-! The invariant under what core instructions share: traps of a run, transfers, results, operations that go in flight, signatures
and waits (R22-R37, R57-R59, R128-R140, R158-R172). -/

namespace Sys2Proof.Machine

variable {s t : State} {cx : Cx} {f : FR} {x : Tid} {tr : Trap}
  {gid tid lid core ctx va key bin words flag tok b c n : Nat} {hasD uniform counted : Bool}

theorem sound_ite {p : Prop} [Decidable p] (hs : Sound s) (ht : Sound t) : Sound (if p then s else t) := by
  split
  · exact hs
  · exact ht

/-! ### Traps of a run and waits for operands -/

theorem sound_stallRun (h : Sound s) : Sound (stallRun s cx counted) := sound_modGroup h

theorem sound_trapRun {ts : List (Nat × Trap)} (h : Sound s) : Sound (trapRun s cx uniform ts) := by
  unfold trapRun
  exact sound_takeTraps (sound_foldl (fun _ _ hs => sound_countMiss hs) _ h)

theorem sound_trapWhole (h : Sound s) : Sound (trapWhole s cx uniform tr) := sound_modGroup (sound_trapRun h)

theorem sound_touchAll {α : Type} {gs : List (Got α)} (h : Sound s) : Sound (touchAll s cx gs) := by
  refine sound_foldl (fun s g hs => ?_) gs h
  exact sound_foldl (fun _ _ hs => sound_fillFrom hs) _ (sound_foldl (fun _ _ hs => sound_touchTlb hs) _ hs)

/-! ### Transfers -/

theorem sound_transferRun {dest : List (Nat × Option W64)} (h : Sound s) : Sound (transferRun s cx dest) := by
  unfold transferRun
  refine sound_modGroup (sound_foldl (fun s y hs => ?_) _ h)
  split
  · exact sound_modThread hs
  · exact hs

theorem sound_branchRun {fb : FB} {cond : Thread → Bool} (h : Sound s) : Sound (branchRun s cx fb cond) := by
  unfold branchRun
  exact sound_transferRun (sound_trapRun h)

theorem sound_putLink {code : Option Nat} (h : Sound s) : Sound (putLink s cx code tid) := by
  unfold putLink
  split
  · exact h
  · exact sound_modThread h

theorem sound_jumpEach {link : Option Nat} {r : ReadRes Nat} {bad go : List (Got Nat)} (h : Sound s) :
    Sound (jumpEach s cx link r bad go) := by
  unfold jumpEach
  exact sound_foldl (fun _ _ hs => sound_putLink (sound_modThread hs)) _ (sound_trapRun (sound_touchAll h))

theorem sound_jumpRun {link : Option Nat} {target : Nat → Rd Nat} (h : Sound s) : Sound (jumpRun s cx link target) := by
  unfold jumpRun
  extract_lets rd bad
  split
  · split
    · exact sound_stallRun h
    · exact sound_trapWhole h
    · split
      · exact sound_trapWhole h
      · dsimp only
        exact sound_ite (sound_stallRun h) (sound_transferRun (sound_foldl (fun _ _ hs => sound_putLink hs) _
          (sound_modThread (sound_trapRun (sound_touchAll h)))))
  · split
    · exact sound_stallRun (sound_modGroup (sound_jumpEach h))
    · exact sound_transferRun (sound_jumpEach h)

/-! ### Ends of threads and groups -/

theorem sound_exitThread (h : Sound s) : Sound (exitThread s gid tid) := by
  unfold exitThread
  split
  · exact h
  · exact sound_foldl (fun _ _ hs => sound_reportDeferred hs) _ (sound_modThread h)

theorem sound_groupEnd (h : Sound s) : Sound (groupEnd s gid) := by
  unfold groupEnd
  split
  · exact h
  · split
    · exact h
    · extract_lets u v
      have hu : Sound u := h
      have hv : Sound v := by
        change Sound (match _ with | none => u | some key => teamEnd u key)
        split
        · exact hu
        · exact sound_teamEnd hu
      exact sound_binFlush hv

theorem sound_afterExit (h : Sound s) : Sound (afterExit s gid) := by
  unfold afterExit
  split
  · exact h
  · dsimp only
    split
    · exact sound_groupEnd h
    · exact sound_groupEnd (sound_teamCheck h)

/-! ### Results of lane instructions -/

theorem sound_commitOne {first : Bool} {th : Thread} {p : Plan} {o : Out} (h : Sound s) :
    Sound (commitOne cx s first tid th p o) := by
  unfold commitOne
  dsimp only
  split
  · split
    · exact sound_addOp (sound_modThread h)
    · exact sound_modThread h
  · split
    · exact sound_modThread h
    · split
      · exact sound_addOp (sound_modGroup (sound_modThread h))
      · exact sound_modGroup (sound_modThread h)
  · exact sound_addOp (sound_modThread h)
  · exact sound_modThread h

theorem sound_commitAll {outs : List (Got Out)} (h : Sound s) : Sound (commitAll s cx outs) := by
  unfold commitAll
  exact List.foldlRecOn (motive := fun acc : State × Bool => Sound acc.1) _ _ h (fun _ hacc _ _ => sound_commitOne hacc)

theorem sound_laneRetire {α : Type} {r : ReadRes α} {fin : List (Got α) → Got α → Out} (h : Sound s) :
    Sound (laneRetire s cx r fin) := sound_commitAll (sound_trapRun (sound_touchAll h))

theorem sound_laneExec {α : Type} {rd : Nat → Rd α} {fin : List (Got α) → Got α → Out} {whole : Bool} (h : Sound s) :
    Sound (laneExec s cx hasD rd fin whole) := by
  unfold laneExec
  split
  · extract_lets r
    split
    · exact sound_stallRun h
    · exact sound_trapWhole h
    · dsimp only
      exact sound_ite (sound_stallRun h) (sound_modGroup (sound_commitAll (sound_trapRun (sound_touchAll h))))
    · exact sound_modGroup h
  · extract_lets r
    split
    · split
      · exact sound_stallRun h
      · exact sound_stallRun (sound_modGroup (sound_laneRetire h))
    · exact sound_modGroup (sound_laneRetire h)

/-! ### Operations that go in flight -/

/-- What Maluk prepares for a request keeps the invariant. -/
def ReqSound (q : Req) : Prop := ∀ u k, Sound u → Sound (q.prep u k).1

theorem sound_setPending {d : Dst} (h : Sound s) : Sound (setPending s d) := sound_modGroup h

theorem sound_beginCount {lists : Nat} (h : Sound s) : Sound (beginCount s cx flag n lists) := by
  unfold beginCount
  split <;> exact h

theorem sound_letGo (h : Sound s) : Sound (letGo s gid tok) := by
  unfold letGo
  split
  · exact h
  · exact sound_lowerFlag (sound_lowerFlag h)

theorem sound_guard63 (hs : Sound s) (ht : Sound t) : Sound (guard63 s t cx) := by
  unfold guard63
  split
  · exact ht
  · split
    · exact sound_stallRun hs
    · exact ht

/-- Each thing that an issuing instruction does keeps the invariant. -/
theorem issueSteps_sound {rd : Nat → Rd Req} (h : Sound s) (hrd : ∀ tid, RdGives ReqSound (rd tid)) :
    IssueSteps s cx flag words hasD rd (fun _ t => Sound t) Sound where
  stall _ := sound_stallRun h
  whole _ := sound_trapWhole h
  skip := sound_modGroup h
  traps _ _ _ := sound_trapRun (sound_touchAll h)
  count _ _ ht := sound_beginCount ht
  write _ _ _ _ ht := sound_setPending (sound_modThread ht)
  prep _ hread ht := readOne_gives (hrd _) hread _ _ ht
  add _ _ _ _ _ _ _ _ ht := sound_addOp ht
  fence _ _ ht := sound_addFence ht
  mark _ _ ht := sound_modGroup ht
  past ht := sound_modGroup ht
  part _ ht := sound_stallRun ht

theorem sound_asyncExec {rd : Nat → Rd Req} {room : Nat} (hrd : ∀ tid, RdGives ReqSound (rd tid)) (h : Sound s) :
    Sound (asyncExec s cx flag words hasD rd room) := by
  obtain ⟨u, hu, e⟩ := (issueSteps_sound (cx := cx) (flag := flag) (words := words) (hasD := hasD) h hrd).asyncExec room
  rcases e with e | e
  · rw [e]
    exact hu
  · rw [e]
    exact sound_letGo hu

theorem sound_issueAtomic {first : Nat} {gs : List (Got AReq)} (h : Sound s) : Sound (issueAtomic cx words tok first s gs) := by
  unfold issueAtomic
  split
  · exact h
  · exact sound_addOp (sound_foldl (fun _ _ hs => sound_setPending (sound_modThread hs)) _ h)

theorem sound_atomRun {scratch cas : Bool} (h : Sound s) : Sound (atomRun s cx scratch cas) := by
  unfold atomRun
  extract_lets words r rest
  dsimp only
  split
  · exact sound_stallRun h
  · split
    · exact sound_trapWhole h
    · split
      · exact sound_stallRun h
      · exact sound_guard63 h (sound_modGroup (sound_foldl (fun _ _ hs => sound_issueAtomic hs) _
          (sound_modGroup (sound_of_eq (sound_trapRun (sound_touchAll h)) rfl rfl rfl))))

/-! ### Teams, signatures and calls -/

theorem sound_teamRun {index : Nat} {inRange : Bool} {body : Nat → State} (hb : ∀ key, Sound (body key)) (h : Sound s) :
    Sound (teamRun s cx index inRange body) := by
  unfold teamRun
  split
  · split
    · exact hb _
    · exact sound_trapWhole h
  · exact sound_trapWhole h

theorem sound_sign {sg : Signer} {op reg : Nat} {fmt : Option W32} {call : Option Call} (h : Sound s) :
    Sound (sign s key c sg op fmt reg call).2 := by
  unfold sign
  split
  · exact h
  · extract_lets cl
    split
    · exact h
    · split
      · exact h
      · split
        · exact sound_setCleat h
        · split
          · exact sound_setCleat h
          · exact sound_setCleat h

theorem sound_commitWork {th : Option Thread} (h : Sound s) : Sound (commitWork s gid tid th) := by
  unfold commitWork
  split
  · exact h
  · exact sound_modThread h

theorem sound_waitSecond (h : Sound s) : Sound (waitSecond s cx tid c) := sound_modThread (sound_modGroup h)

theorem sound_signOne {wait : Option Wait} {acc : SignAcc} {sg : Sig} {th : Option Thread} (h : Sound acc.s) :
    Sound (signOne cx key c counted wait acc tid sg th).s := by
  have hsign : ∀ {signer reg fmt call r u}, sign acc.s key c signer cx.opcode fmt reg call = (r, u) → Sound u := by
    intro signer reg fmt call r u e
    have hu := sound_sign (key := key) (c := c) (sg := signer) (op := cx.opcode) (reg := reg) (fmt := fmt) (call := call) h
    rwa [e] at hu
  unfold signOne
  dsimp only
  split
  · rename_i u e
    exact sound_modThread (sound_commitWork (hsign e))
  · rename_i u e
    exact sound_waitSecond (hsign e)
  · rename_i fmt u e
    exact sound_closeCheck (hsign e)
  · rename_i u e
    split
    · exact h
    · have hu : Sound (commitWork u cx.gid tid th) := sound_commitWork (hsign e)
      refine sound_closeCheck ?_
      cases wait with
      | none => exact sound_ite (sound_of_eq hu rfl rfl rfl) hu
      | some w => exact sound_modThread (sound_ite (sound_of_eq hu rfl rfl rfl) hu)

theorem sound_signEach {wait : Option Wait} {acc : SignAcc} {sigs : List (Nat × Sig × Option Thread)} (h : Sound acc.s) :
    Sound (signEach cx key c counted wait acc sigs).s := by
  unfold signEach
  exact List.foldlRecOn (motive := fun acc : SignAcc => Sound acc.s) _ _ h (fun _ hacc _ _ => sound_signOne hacc)

theorem sound_signThreads {rd : State → Nat → Rd Sig} {ts : List Nat} {acc : SignAcc} (h : Sound acc.s) :
    Sound (signThreads cx key c rd ts acc).1.s := by
  induction ts generalizing acc with
  | nil => exact h
  | cons t ts ih =>
    unfold signThreads
    split
    · exact h
    · exact ih h
    · exact ih (sound_signOne (sound_touchAll h))

theorem sound_signRun {wait : Option Wait} {sigs : List (Nat × Sig × Option Thread)} (h : Sound s) :
    Sound (signRun s cx key c counted wait sigs) := by
  unfold signRun
  exact sound_trapRun (sound_signEach h)

theorem sound_rejoinRun {wait : Wait} (h : Sound s) : Sound (rejoinRun s cx wait) := by
  unfold rejoinRun
  exact sound_teamRun (fun key => sound_modGroup (sound_signRun h)) h

theorem sound_callEndRun {r : SignAcc × Option Bool} (h : Sound s) (hr : Sound r.1.s) : Sound (callEndRun s cx r) := by
  unfold callEndRun
  extract_lets u
  have hu : Sound u := sound_trapRun hr
  split
  · exact sound_guard63 h (sound_stallRun (sound_modGroup hu))
  · exact sound_guard63 h (sound_modGroup hu)

theorem sound_callRun {rd : State → Nat → Rd Sig} (h : Sound s) : Sound (callRun s cx rd) := by
  unfold callRun
  refine sound_teamRun (fun key => ?_) h
  extract_lets acc
  split
  · split
    · exact sound_stallRun h
    · exact sound_trapWhole h
    · exact sound_callEndRun h (sound_signEach (sound_touchAll h))
  · exact sound_callEndRun h (sound_signThreads h)

theorem sound_barrierArrive (h : Sound s) : Sound (barrierArrive s key b x) := by
  unfold barrierArrive
  split
  · exact h
  · exact sound_modTeam (sound_modThread h)

theorem sound_barrierObserve (h : Sound s) : Sound (barrierObserve s key b x) := by
  unfold barrierObserve
  split
  · exact h
  · exact sound_addFence h

theorem sound_binReady (h : Sound s) : Sound (binReady s core bin) := sound_setCore h

theorem sound_setTimer {v : Nat} (h : Sound s) : Sound (setTimer s core bin v) := by
  unfold setTimer
  dsimp only
  split
  · exact sound_binReady (sound_setCore h)
  · exact sound_setCore h

/-! ### Waits on semaphores and records, fences and prefetches -/

theorem sound_semWaitRun (h : Sound s) : Sound (semWaitRun s cx) := by
  unfold semWaitRun
  extract_lets r
  split
  · exact sound_stallRun h
  · split
    · exact sound_trapWhole h
    · refine sound_modGroup (sound_foldl (fun _ _ hs => sound_modThread hs) _ ?_)
      exact sound_foldl (fun _ _ hs => sound_modThread hs) _ (sound_trapRun (sound_touchAll h))

theorem sound_tgwaitRun (h : Sound s) : Sound (tgwaitRun s cx) := by
  unfold tgwaitRun
  extract_lets r
  split
  · exact sound_stallRun h
  · split
    · exact sound_trapWhole h
    · refine sound_wakeTasks (sound_modGroup (sound_foldl (fun _ _ hs => sound_modThread hs) _ ?_))
      exact sound_foldl (fun _ _ hs => sound_modThread hs) _ (sound_trapRun (sound_touchAll h))

theorem sound_fenceRun (h : Sound s) : Sound (fenceRun s cx) :=
  sound_modGroup (sound_foldl (fun _ _ hs => sound_addFence hs) _ h)

theorem sound_prefRun (h : Sound s) : Sound (prefRun s cx) := by
  unfold prefRun
  extract_lets tids r
  split
  · exact sound_stallRun h
  · refine sound_modGroup (sound_foldl (fun s g hs => ?_) _ h)
    dsimp only
    split
    · exact sound_fillLine (sound_modThread hs)
    · exact sound_modThread hs

theorem sound_dloadRun (h : Sound s) : Sound (dloadRun s cx) := by
  unfold dloadRun
  split
  · exact sound_stallRun h
  · exact sound_trapWhole h
  · exact sound_modGroup h

theorem sound_tretRun (h : Sound s) : Sound (tretRun s cx) := by
  unfold tretRun
  exact sound_modGroup (sound_foldl (fun _ _ hs => sound_modThread hs) _ (sound_trapRun h))

/-! ### Copies and pocket configurations: what Maluk prepares -/

theorem sound_prepCopy {unit : Nat} {y : Exec} {keep : Bool} {k : OpKind} (h : Sound s) :
    Sound (prepCopy unit ctx y keep s k).1 := by
  unfold prepCopy
  split
  · exact sound_resolveElems h
  · exact h

end Sys2Proof.Machine
end

section
/-! The invariant under what Maluk does for a request (R323-R400): page tables, sections, contexts, launches and heaps. -/

namespace Sys2Proof.Machine

variable {s t : State} {q : MReq} {ctx lid va port kind n : Nat}

/-! ### Frames, page tables and sections -/

theorem sound_of_allocRun {m align : Nat} {x : Nat × State} (h : Sound s) (hx : allocRun s m align = some x) : Sound x.2 := by
  unfold allocRun at hx
  dsimp only at hx
  split at hx
  all_goals
    split at hx
    · cases hx
    · cases hx
      exact sound_of_eq h rfl rfl rfl

theorem sound_clearFrom {lo hi level table at_ : Nat} (h : Sound s) : Sound (clearFrom lo hi n level table at_ s) := by
  induction n generalizing s level table at_ with
  | zero => exact h
  | succ n ih =>
    unfold clearFrom
    refine sound_foldl (fun s i hs => ?_) _ h
    dsimp only
    split
    · exact hs
    · split
      · exact sound_wrEntry hs _ _
      · exact ih hs

theorem sound_unmapRange (h : Sound s) : Sound (unmapRange s ctx va n) := by
  unfold unmapRange
  split
  · exact h
  · rename_i c _
    exact sound_of_eq (s := clearFrom va (va + n) 5 0 c.root 0 s) (sound_clearFrom h) rfl rfl rfl

theorem sound_dropMapped {w : Window} (h : Sound s) : Sound (dropMapped s ctx w) := sound_modCtx (sound_unmapRange h)

theorem sound_dropSection {k : WinKind} (h : Sound s) : Sound (dropSection s ctx va k) := by
  unfold dropSection
  split
  · exact h
  · exact sound_dropMapped h

theorem sound_of_readRange {k : Nat} {x : List Byte × State} (h : Sound s) (hx : readRange ctx k va n s = some x) : Sound x.2 := by
  induction k generalizing s va n x with
  | zero =>
    unfold readRange at hx
    split at hx
    · cases hx
      exact h
    · cases hx
  | succ k ih =>
    unfold readRange at hx
    split at hx
    · cases hx
      exact h
    · dsimp only at hx
      split at hx
      · cases hx
      · obtain ⟨y, hy, rfl⟩ := Option.map_eq_some_iff.1 hx
        exact ih (x := y) (sound_of_resolvePa h ‹_›) hy

theorem sound_mapRun {root pa pages flags : Nat} (h : Sound s) : Sound (mapRun s root va pa pages flags) :=
  sound_foldl (fun _ _ hs => sound_mapFrom hs _ _ _ _ _ _) _ h

theorem sound_of_placeSection {k : WinKind} {bs : List Byte} {x : Nat × State} (h : Sound s)
    (hx : placeSection s ctx k bs = some x) : Sound x.2 := by
  unfold placeSection at hx
  split at hx
  · cases hx
  · dsimp only at hx
    split at hx
    · rename_i hrun
      cases hx
      exact sound_modCtx (sound_mapRun (sound_wrBytes (sound_of_allocRun h hrun) _ _))
    · cases hx

theorem sound_of_loadKernel {p : Parsed} {x : Nat × State} (h : Sound s) (hx : loadKernel s ctx p = some x) : Sound x.2 := by
  unfold loadKernel at hx
  split at hx
  · cases hx
  · rename_i text u htext
    have hu : Sound u := sound_of_placeSection h htext
    dsimp only at hx
    split at hx
    · cases hx
    · rename_i base v hdata
      have hv : Sound v := by
        split at hdata
        · cases hdata
          exact hu
        · exact sound_of_placeSection hu hdata
      split at hx
      · cases hx
      · rename_i sh w hshroud
        have hw : Sound w := by
          split at hshroud
          · cases hshroud
            exact hv
          · exact sound_of_allocRun hv hshroud
        split at hx
        · cases hx
        · cases hx
          exact sound_of_eq (sound_wrBytes hw sh p.shroud) rfl rfl rfl

theorem sound_of_loadAll {ps : List Parsed} {x : List Nat × State} (h : Sound s) (hx : loadAll ctx ps s = some x) : Sound x.2 := by
  induction ps generalizing s x with
  | nil =>
    cases hx
    exact h
  | cons p ps ih =>
    unfold loadAll at hx
    split at hx
    · cases hx
    · rename_i kid u hu
      obtain ⟨y, hy, rfl⟩ := Option.map_eq_some_iff.1 hx
      exact ih (s := u) (x := y) (sound_of_loadKernel h hu) hy

/-! ### Requests -/

theorem sound_setPort {p : Port} (h : Sound s) : Sound (setPort s port p) := h

theorem sound_of_seqWrite {f : W32 → W32} {r : Reply} (h : Sound s) (hr : seqWrite s q f = .ok r) : Sound r.s := by
  unfold seqWrite at hr
  split at hr
  · cases hr
  · dsimp only at hr
    split at hr
    · cases hr
    · cases hr
      exact sound_of_eq h rfl rfl rfl

/-- Where a request is granted, the state of its reply is of the invariant. -/
def ActSound (act : State → MReq → Except Nat Reply) : Prop := ∀ s q r, Sound s → act s q = .ok r → Sound r.s

theorem actSound_openVi : ActSound openViAct := by
  intro s q r h hr
  unfold openViAct at hr
  split at hr
  · cases hr
  · split at hr
    · cases hr
    · cases hr
      exact sound_of_eq h rfl rfl rfl

theorem actSound_closeVi : ActSound (fun s q => .ok { s := endVi s q.vi }) := by
  intro s q r h hr
  cases hr
  exact sound_endVi h

theorem actSound_negotiate : ActSound negotiateAct := fun _ _ _ _ hr => nomatch hr

theorem actSound_createCtx : ActSound createCtxAct := by
  intro s q r h hr
  unfold createCtxAct at hr
  dsimp only at hr
  split at hr
  · cases hr
  · split at hr
    · cases hr
    · split at hr
      · rename_i id arena u hfree harena
        have hu : Sound u := sound_of_allocRun h harena
        split at hr
        · rename_i pa root v hroot
          have hv : Sound v := by
            obtain ⟨x, hx, hroot⟩ := Option.bind_eq_some_iff.1 hroot
            obtain ⟨y, hy, hroot⟩ := Option.map_eq_some_iff.1 hroot
            cases hroot
            have hxs : Sound x.2 := by
              split at hx
              · cases hx
                exact hu
              · exact sound_of_allocRun hu hx
            exact sound_of_allocRun hxs hy
          cases hr
          refine sound_writeRecord ?_ id
          exact sound_of_eq hv rfl rfl rfl
        · cases hr
      · cases hr

theorem actSound_destroyCtx : ActSound destroyCtxAct := by
  intro s q r h hr
  unfold destroyCtxAct at hr
  split at hr
  · cases hr
  · split at hr
    · cases hr
    · cases hr
      exact sound_killCtx h

theorem actSound_mapWindow : ActSound mapWindowAct := by
  intro s q r h hr
  unfold mapWindowAct at hr
  dsimp only at hr
  split at hr
  · cases hr
  · split at hr
    · cases hr
    · split at hr
      · cases hr
      · split at hr
        · cases hr
        · cases hr
          exact sound_modCtx h

theorem actSound_unmapWindow : ActSound unmapWindowAct := by
  intro s q r h hr
  unfold unmapWindowAct at hr
  split at hr
  · cases hr
  · split at hr
    · cases hr
    · split at hr
      · cases hr
      · cases hr
        exact sound_dropMapped h

theorem actSound_loadObject : ActSound loadObjectAct := by
  intro s q r h hr
  unfold loadObjectAct at hr
  dsimp only at hr
  split at hr
  · cases hr
  · split at hr
    · cases hr
    · split at hr
      · cases hr
      · split at hr
        · cases hr
        · rename_i bs u hread
          split at hr
          · cases hr
          · split at hr
            · cases hr
            · rename_i kids v hload
              cases hr
              exact sound_of_loadAll (sound_of_readRange h hread) hload

theorem actSound_unload : ActSound unloadAct := by
  intro s q r h hr
  unfold unloadAct at hr
  dsimp only at hr
  split at hr
  · cases hr
  · split at hr
    · cases hr
    · rename_i k _
      split at hr
      · cases hr
      · cases hr
        have hdrop : Sound (dropSection (dropSection s (q.f 0 4) k.text .text) (q.f 0 4) k.dataBase .data) :=
          sound_dropSection (sound_dropSection h)
        exact sound_of_eq hdrop rfl rfl rfl

theorem actSound_launch : ActSound launchAct := by
  intro s q r h hr
  unfold launchAct at hr
  dsimp only at hr
  split at hr
  · cases hr
  · split at hr
    · split at hr
      · cases hr
      · split at hr
        · cases hr
        · split at hr
          · cases hr
            exact sound_of_eq h rfl rfl rfl
          · cases hr
    · cases hr
    · cases hr

theorem actSound_abort : ActSound abortAct := by
  intro s q r h hr
  unfold abortAct at hr
  split at hr
  · cases hr
  · cases hr
    exact sound_abortLaunch h

theorem actSound_unpark : ActSound unparkAct := by
  intro s q r h hr
  unfold unparkAct at hr
  dsimp only at hr
  split at hr
  · cases hr
  · cases hr
    exact sound_afterUnpark (sound_of_eq h rfl rfl rfl)

theorem actSound_postGraph : ActSound postGraphAct := by
  intro s q r h hr
  unfold postGraphAct at hr
  dsimp only at hr
  split at hr
  · cases hr
  · split at hr
    · cases hr
    · split at hr
      · cases hr
      · split at hr
        · cases hr
        · rename_i u pa hu
          have hu : Sound u := sound_of_resolvePa h hu
          split at hr
          · cases hr
            exact sound_addOp hu
          · cases hr
            exact sound_postRecord hu

/-- A query leaves the state as it was. -/
theorem actSound_queryContext : ActSound queryContextAct := by
  intro s q r h hr
  unfold queryContextAct at hr
  split at hr
  · cases hr
  · split at hr
    · cases hr
    · cases hr
      exact h

theorem actSound_queryLaunch : ActSound queryLaunchAct := by
  intro s q r h hr
  unfold queryLaunchAct at hr
  split at hr
  · cases hr
  · split at hr
    · cases hr
    · cases hr
      exact h

theorem actSound_queryGrant : ActSound queryGrantAct := by
  intro s q r h hr
  unfold queryGrantAct at hr
  split at hr
  · cases hr
  · cases hr
    exact h

theorem actSound_attest : ActSound attestAct := by
  intro s q r h hr
  unfold attestAct at hr
  dsimp only at hr
  split at hr
  · cases hr
  · split at hr
    · cases hr
    · cases hr
      exact sound_of_eq h rfl rfl rfl

theorem actSound_otherSubject : ActSound otherSubjectAct := fun _ _ _ _ hr => nomatch hr

theorem actSound_subscribe : ActSound subscribeAct := by
  intro s q r h hr
  unfold subscribeAct at hr
  dsimp only at hr
  split at hr
  · cases hr
  · split at hr
    · cases hr
      exact sound_of_eq h rfl rfl rfl
    · cases hr
      exact sound_of_eq h rfl rfl rfl

theorem actSound_assignHeap : ActSound assignHeapAct := by
  intro s q r h hr
  unfold assignHeapAct at hr
  dsimp only at hr
  split at hr
  · cases hr
  · split at hr
    · cases hr
    · split at hr
      · cases hr
      · split at hr
        · cases hr
        · cases hr
          exact sound_modRecord (sound_setHeap h) _ _

theorem actSound_releaseHeap : ActSound releaseHeapAct := by
  intro s q r h hr
  unfold releaseHeapAct at hr
  dsimp only at hr
  split at hr
  · cases hr
  · split at hr
    · cases hr
    · split at hr
      · cases hr
      · cases hr
        exact sound_endRelease (sound_setHeap (sound_modRecord h _ _))

theorem actSound_addQuota : ActSound addQuotaAct := by
  intro s q r h hr
  unfold addQuotaAct at hr
  dsimp only at hr
  split at hr
  · cases hr
  · split at hr
    · cases hr
    · cases hr
      exact sound_modRecord h _ _

theorem actSound_setArenaMax : ActSound setArenaMaxAct := by
  intro s q r h hr
  unfold setArenaMaxAct at hr
  dsimp only at hr
  split at hr
  · cases hr
  · split at hr
    · cases hr
    · cases hr
      exact sound_modRecord h _ _

theorem actSound_writeSteer : ActSound writeSteerAct := by
  intro s q r h hr
  unfold writeSteerAct at hr
  split at hr
  · cases hr
  · exact sound_of_seqWrite h hr

theorem actSound_clearTrip : ActSound clearTripAct := fun _ _ _ h hr => sound_of_seqWrite h hr

theorem actSound_writePaths : ActSound writePathsAct := by
  intro s q r h hr
  unfold writePathsAct at hr
  dsimp only at hr
  split at hr
  · cases hr
  · cases hr
    exact sound_setPort h

theorem actSound_writePkeys : ActSound writePkeysAct := by
  intro s q r h hr
  unfold writePkeysAct at hr
  dsimp only at hr
  split at hr
  · cases hr
  · cases hr
    exact sound_setPort h

theorem actSound_writeTap : ActSound writeTapAct := by
  intro s q r h hr
  unfold writeTapAct at hr
  dsimp only at hr
  split at hr
  · cases hr
  · split at hr
    · cases hr
    · cases hr
      exact sound_modCtx h

/-! ### The service of a request -/

/-- Where an execution answers a next state, it is of the invariant. -/
def SoundOut (x : Host.Outcome State Fault Refusal) : Prop := ∀ t, x = .next t → Sound t

theorem soundOut_next (h : Sound s) : SoundOut (.next s) := by
  intro t ht
  cases ht
  exact h

theorem soundOut_fault {x : Fault} : SoundOut (.fault x) := fun _ ht => nomatch ht

theorem sound_respond {m vi status : Nat} {body : List Byte} (h : Sound s) : Sound (respond s q m vi status body) := h

theorem sound_noteCounter (h : Sound s) : Sound (noteCounter s q) := by
  unfold noteCounter
  split <;> exact h

theorem sound_noteSeq (h : Sound s) : Sound (noteSeq s q) := by
  unfold noteSeq
  split <;> exact h

theorem soundOut_serve {m : Msg} {is : MReq → Bool} {act : State → MReq → Except Nat Reply} (hact : ActSound act) (h : Sound s) :
    SoundOut (serve s m is act) := by
  unfold serve
  extract_lets q n u
  have hu : Sound u := h
  split
  · exact soundOut_next h
  · split
    · exact soundOut_next (sound_respond hu)
    · split
      · exact soundOut_next (sound_respond hu)
      · split
        · exact soundOut_next (sound_respond hu)
        · have hv : Sound (noteSeq (noteCounter u q) q) := sound_noteSeq (sound_noteCounter hu)
          split
          · exact soundOut_next (sound_respond hv)
          · split
            · exact soundOut_next (sound_respond hv)
            · rename_i r hr
              have hr : Sound r.s := hact _ _ _ hv hr
              exact soundOut_next (sound_ite hr (sound_respond hr))

end Sys2Proof.Machine
end

section
/-! The invariant under the machine's events: clauses and canvases, the halyards, operations, engines, page faults, services, ports,
boot and errors. -/

namespace Sys2Proof.Machine

variable {s : State} {o : Op} {e : Ecc} {m : Msg} {r : Rma} {gid tid core lane ctx lid bin unit port id part die cluster k t n : Nat}

/-- Whatever next state the instruction answers in a state of the invariant is of the invariant. -/
def SoundExec (i : Instr) : Prop := ∀ s, Sound s → SoundOut (exec i s)

theorem soundOut_ite {c : Prop} [Decidable c] {a b : Host.Outcome State Fault Refusal} (ha : SoundOut a) (hb : SoundOut b) :
    SoundOut (if c then a else b) := by
  split
  · exact ha
  · exact hb

theorem soundOut_onOp {f : Op → State} (hf : ∀ o, Sound (f o)) (h : Sound s) : SoundOut (onOp s id f) := by
  unfold onOp
  split
  · exact soundOut_next h
  · exact soundOut_next (sound_ite (hf _) h)

/-! ### Clauses, canvases and the halyards -/

theorem clauseIssue_sound : SoundExec (.clauseIssue core lane) := by
  intro s h
  change SoundOut (execClauseIssue core lane s)
  unfold execClauseIssue
  split
  · exact soundOut_next h
  · extract_lets u
    have hu : Sound u := sound_refreshQueue h
    split
    · exact soundOut_next hu
    · split
      · exact soundOut_next hu
      · split
        · exact soundOut_next hu
        · rename_i gid byGrant passed _ g _ i _
          extract_lets need ctx
          split
          · exact soundOut_next (sound_setQueue hu)
          · rename_i a b c core' d f _
            have ha : Sound a := sound_ite hu (sound_chargeQuota (sound_spendCanvas hu))
            have hb : Sound b := sound_foldl (fun _ _ hs => sound_modGroup hs) _ ha
            have hc : Sound c := sound_ite (sound_modGroup hb) hb
            have hd : Sound d := sound_ite hc (sound_setCore hc)
            have hf : Sound f := sound_beginClause hd
            exact soundOut_next (sound_of_eq hf rfl rfl rfl)

theorem canvasGrant_sound : SoundExec (.canvasGrant core) := by
  intro s h
  change SoundOut (execCanvasGrant core s)
  unfold execCanvasGrant
  extract_lets u c
  have hu : Sound u := sound_refreshQueue h
  split
  · exact soundOut_next hu
  · split
    · exact soundOut_next hu
    · exact soundOut_next (sound_dropClaim (sound_setCore hu))

theorem halyardCycle_sound : SoundExec .halyardCycle := by
  intro s h
  change SoundOut (execHalyardCycle s)
  unfold execHalyardCycle
  split
  · exact soundOut_next h
  · extract_lets u
    have hu : Sound u := h
    exact soundOut_next (sound_countWaits (sound_foldl (fun _ _ hs => sound_dieStep hs) _ hu))

theorem canvasClaim_sound : SoundExec (.canvasClaim core) := by
  intro s h
  change SoundOut (execCanvasClaim core s)
  unfold execCanvasClaim
  extract_lets c d
  split
  · exact soundOut_next h
  · split
    · exact soundOut_next h
    · split
      · exact soundOut_next h
      · exact soundOut_next (sound_setDie h (levelsOk_getDie h))

theorem sound_setBoundary {v : State} {n : Nat} (h : Sound v) : Sound { v with boundary := n } := h

theorem intervalBoundary_sound {wish : List Nat} : SoundExec (.intervalBoundary wish) := by
  intro s h
  change SoundOut (execIntervalBoundary wish s)
  unfold execIntervalBoundary
  split
  · exact soundOut_next h
  · have hu : Sound { s with pace := paceBoundary s.pace } := h
    exact soundOut_next (sound_setBoundary (sound_foldl (fun _ _ hs => sound_dieBoundary hs) _ hu))

theorem vmailWrite_sound {target : Nat} : SoundExec (.vmailWrite cluster target) := fun _ h =>
  soundOut_next (sound_writeTarget h)

theorem voltageMoveDone_sound : SoundExec (.voltageMoveDone cluster) := by
  intro s h
  change SoundOut (execVoltageMoveDone cluster s)
  unfold execVoltageMoveDone
  extract_lets c
  split
  · exact soundOut_next h
  · split
    · exact soundOut_next (sound_setCluster h)
    · exact soundOut_next (sound_writeTarget (sound_setCluster h))

theorem bitsOf_10_8_le (v : Nat) : bitsOf v 10 8 ≤ 7 := Nat.le_of_lt_succ (Nat.mod_lt _ (by decide))

/-- HALYARD_CTL.REEF_MIN has three bits (R374). -/
theorem halyardCtlWrite_sound {v : Nat} : SoundExec (.halyardCtlWrite die v) := fun _ h =>
  soundOut_next (sound_setDie h ⟨(levelsOk_getDie h).1, bitsOf_10_8_le v⟩)

/-! ### Bins, launches and placement -/

theorem binTimerExpiry_sound : SoundExec (.binTimerExpiry core bin) := by
  intro s h
  change SoundOut (execBinTimerExpiry core bin s)
  unfold execBinTimerExpiry
  split
  · exact soundOut_next (sound_binReady h)
  · exact soundOut_next h

theorem sound_enterBin {entry width : Nat} {payload : W64} (h : Sound s) : Sound (enterBin s core bin lid entry width payload) :=
  sound_setCore h

theorem binEntry_sound : SoundExec (.binEntry id) := by
  intro s h
  refine soundOut_onOp (fun o => ?_) h
  split
  · split
    · split
      · exact h
      · split
        · exact h
        · split
          · exact sound_endOp (sound_arrive h)
          · exact sound_endOp (sound_arrive (sound_enterBin h))
    · exact sound_endOp h
  · exact h

theorem launchEnd_sound : SoundExec (.launchEnd lid) := by
  intro s h
  change SoundOut (execLaunchEnd lid s)
  unfold execLaunchEnd
  split
  · exact soundOut_next h
  · split
    · exact soundOut_next h
    · extract_lets u v w
      have hu : Sound u := sound_postLaunch h
      have hv : Sound v := hu
      have hw : Sound w := by
        change Sound (match kernelOf v lid with | some k => _ | none => v)
        split
        · exact sound_dropWindows hv
        · exact hv
      exact soundOut_next (sound_reap hw)

theorem preempt_sound : SoundExec (.preempt core ctx) := by
  intro s h
  change SoundOut (execPreempt core ctx s)
  unfold execPreempt
  split
  · exact soundOut_next (sound_preemptCore h)
  · exact soundOut_next h

theorem placementPass_sound {prefs : List (Nat × Nat)} : SoundExec (.placementPass prefs) := by
  intro s h
  change SoundOut (execPlacementPass prefs s)
  unfold execPlacementPass
  split
  · exact soundOut_next (sound_placeAll (sound_dropPassed h))
  · exact soundOut_next h

theorem drainStart_sound : SoundExec .drainStart := fun _ h => soundOut_next h

/-! ### Operations that complete -/

theorem loadComplete_sound : SoundExec (.loadComplete id e) := by
  intro s h
  refine soundOut_onOp (fun o => ?_) h
  split
  · exact sound_loadDone h
  · exact sound_tileReadDone h
  · exact sound_lookupDone h
  · exact sound_prdDone h
  · exact sound_endOp (sound_arrive h)
  · exact sound_endHeap (sound_arrive h)
  · exact sound_endHeap (sound_arrive h)
  · exact sound_endOp (sound_arrive h)
  · exact h

theorem longOpResult_sound : SoundExec (.longOpResult id) := by
  intro s h
  refine soundOut_onOp (fun o => ?_) h
  split
  · exact sound_endOp (sound_arrive h)
  · exact h

theorem writePerform_sound : SoundExec (.writePerform id part) := by
  intro s h
  refine soundOut_onOp (fun o => ?_) h
  split
  · exact sound_storePart (fun _ hs => hs) h
  · exact sound_storePart (fun _ hs => sound_goLast hs) h
  · exact sound_tilePart h
  · exact sound_endOp (sound_setSem h)
  · exact sound_ite h (sound_endOp (sound_postRecord h))
  · split
    · exact sound_endOp h
    · exact sound_ite h (sound_endOp (sound_releaseHeld (sound_of_resolvePa h ‹_›)))
  · split
    · exact sound_endOp (sound_graphAnswer h)
    · exact sound_ite h (sound_endOp (sound_postRecord (sound_graphAnswer (sound_of_resolvePa h ‹_›))))
  · exact sound_pocketDone h
  · exact sound_heapDone h
  · exact sound_systemDone h
  · exact h

theorem atomicPerform_sound : SoundExec (.atomicPerform id) := by
  intro s h
  refine soundOut_onOp (fun o => ?_) h
  split
  · exact sound_atomicDone h
  · exact sound_linkDone h
  · exact h

/-! ### Engines -/

theorem engineLineAcquire_sound : SoundExec (.engineLineAcquire id) := by
  intro s h
  refine soundOut_onOp (fun o => ?_) h
  split
  · exact sound_acquireNext h
  · split
    · exact sound_acquireNext h
    · exact h
  · exact sound_acquireNext (sound_putOp (sound_drainPlan h))
  · exact h

theorem copyIssue_sound : SoundExec (.copyIssue id) := by
  intro s h
  refine soundOut_onOp (fun o => ?_) h
  split
  · extract_lets k cl
    exact sound_ite h (sound_putOp (sound_copyReach (sound_chargeQuota (sound_setCluster h))))
  · exact h

theorem copyComplete_sound : SoundExec (.copyComplete id) := by
  intro s h
  refine soundOut_onOp (fun o => ?_) h
  split
  · exact sound_ite h (sound_wroteEnd (sound_arrive (sound_complete (sound_copyPerform h))))
  · exact h

theorem mmaComplete_sound : SoundExec (.mmaComplete id) := by
  intro s h
  refine soundOut_onOp (fun o => ?_) h
  split
  · exact sound_ite (sound_callEnd (workSound_mmaPerform h)) h
  · exact h

theorem joinComplete_sound : SoundExec (.joinComplete id) := by
  intro s h
  refine soundOut_onOp (fun o => ?_) h
  split
  · exact sound_ite (sound_callEnd (workSound_addTable h)) h
  · exact h

theorem normComplete_sound : SoundExec (.normComplete id) := by
  intro s h
  refine soundOut_onOp (fun o => ?_) h
  split
  · exact sound_ite (sound_callEnd (r := .ok _) (sound_normPerform h)) h
  · exact h

theorem pdrnComplete_sound : SoundExec (.pdrnComplete id) := by
  intro s h
  refine soundOut_onOp (fun o => ?_) h
  split
  · rename_i d key _ _
    have hplan : Sound (drainPlan s o d key).1 := sound_drainPlan h
    have hdone : ∀ {es fault}, Sound (drainPerform (drainPlan s o d key).1 o d key es fault).1 := sound_drainPerform hplan
    dsimp only
    refine sound_ite h (sound_wroteEnd (sound_arrive (sound_complete ?_)))
    split
    · exact sound_failOp hdone
    · exact sound_failOp hdone
    · exact hdone
  · exact h

theorem cmtRoundClose_sound {team cleat : Nat} : SoundExec (.cmtRoundClose team cleat) := fun _ h =>
  soundOut_next (sound_commitClose h)

theorem arenaBlockNotice_sound : SoundExec .arenaBlockNotice := by
  intro s h
  change SoundOut (execArenaBlockNotice s)
  unfold execArenaBlockNotice
  split
  · exact soundOut_next h
  · extract_lets u
    have hu : Sound u := h
    split
    · exact soundOut_next hu
    · split
      · exact soundOut_next hu
      · split
        · rename_i f v hv
          split at hv
          · exact soundOut_next (sound_modRecord (sound_allocFrame hu hv) _ _)
          · cases hv
        · exact soundOut_next hu

/-! ### Page faults and walks -/

theorem pageFaultResolve_sound {sub : Nat} : SoundExec (.pageFaultResolve sub) := by
  intro s h
  change SoundOut (execPageFaultResolve sub s)
  unfold execPageFaultResolve
  refine soundOut_next (sound_afterUnpark (sound_foldl (fun _ _ hs => sound_resolveFault hs) _ ?_))
  exact sound_of_eq h rfl rfl rfl

theorem pageWalk_sound : SoundExec (.pageWalk die) := by
  intro s h
  change SoundOut (execPageWalk die s)
  unfold execPageWalk
  split
  · exact soundOut_next h
  · exact soundOut_next (sound_of_eq h rfl rfl rfl)

theorem walkEnd_sound : SoundExec (.walkEnd id) := by
  intro s h
  change SoundOut (execWalkEnd id s)
  unfold execWalkEnd
  split
  · exact soundOut_next h
  · extract_lets u
    have hu : Sound u := h
    split
    · exact soundOut_next (sound_ite (sound_tlbFill (sound_tlbFill hu)) (sound_tlbFill hu))
    · exact soundOut_next hu

/-! ### Shroud queues and services -/

theorem shroudDispatchDeliver_sound : SoundExec (.shroudDispatchDeliver k) := by
  intro s h
  change SoundOut (execShroudDispatchDeliver k s)
  unfold execShroudDispatchDeliver
  extract_lets x
  split
  · exact soundOut_next h
  · split
    · exact soundOut_next (sound_setShroud h)
    · exact soundOut_next h

theorem shroudRoutineStart_sound : SoundExec (.shroudRoutineStart k t) := by
  intro s h
  change SoundOut (execShroudRoutineStart k t s)
  unfold execShroudRoutineStart
  extract_lets x
  split
  · exact soundOut_next h
  · split
    · exact soundOut_next h
    · rename_i q _
      have hu : Sound (resolveAt s (shroudUnit k) q.ctx (q.record + 0x10) .write (.routine k t)).1 := sound_resolveAt h
      generalize resolveAt s (shroudUnit k) q.ctx (q.record + 0x10) .write (.routine k t) = r at hu ⊢
      obtain ⟨u, pa⟩ := r
      replace hu : Sound u := hu
      dsimp only
      refine soundOut_ite (soundOut_next h) ?_
      split
      · exact soundOut_next (sound_setShroud hu)
      · exact soundOut_next (sound_of_eq (s := u) hu rfl rfl rfl)

theorem soundOut_onService {is : Nat → Bool} {f : Op → List W32 → Dst → State} (hf : ∀ o args d, Sound (f o args d)) (h : Sound s) :
    SoundOut (onService s id is f) := by
  refine soundOut_onOp (fun o => ?_) h
  split
  · exact sound_ite (hf _ _ _) h
  · exact h

theorem svcEcho_sound : SoundExec (.svcEcho id) := fun _ h => soundOut_onService (fun _ _ _ => sound_endOp (sound_arrive h)) h

theorem svcNote_sound : SoundExec (.svcNote id) := by
  intro s h
  refine soundOut_onService (fun o args d => ?_) h
  split
  · exact sound_endOp (sound_arrive h)
  · split
    · exact sound_endOp h
    · exact sound_endOp (sound_arrive (sound_of_eq h rfl rfl rfl))

theorem svcAbortSelf_sound : SoundExec (.svcAbortSelf id) := fun _ h =>
  soundOut_onService (fun _ _ _ => sound_endOp (sound_abortLaunch h)) h

theorem svcOtherService_sound : SoundExec (.svcOtherService id) := fun _ h =>
  soundOut_onService (fun _ _ _ => sound_endOp (sound_arrive h)) h

theorem malukHeapPush_sound {act : HeapAct} : SoundExec (.malukHeapPush n act) := by
  intro s h
  change SoundOut (execMalukHeapPush n act s)
  unfold execMalukHeapPush
  extract_lets p
  split
  · exact soundOut_next h
  · split
    · exact soundOut_next (sound_setHeap h)
    · exact soundOut_next (sound_setHeap h)

/-! ### Sessions and requests without a legal header -/

theorem sessionEndpointFails_sound {vi : Nat} : SoundExec (.sessionEndpointFails vi) := by
  intro s h
  change SoundOut (execSessionEndpointFails vi s)
  unfold execSessionEndpointFails
  split
  · exact soundOut_next (sound_endVi h)
  · exact soundOut_next h

theorem malformedRequest_sound : SoundExec (.malformedRequest m) := by
  intro s h
  change SoundOut (execMalformedRequest m s)
  unfold execMalformedRequest
  extract_lets q
  split
  · exact soundOut_next h
  · exact soundOut_next (sound_respond h)

/-! ### Ports -/

theorem sound_rmaParts {a : Acc} {va : Nat} {bs : List Byte} (h : Sound s) : Sound (rmaParts a ctx n va bs s).1 := by
  induction n generalizing s va bs with
  | zero => exact h
  | succ n ih =>
    unfold rmaParts
    split
    · exact h
    · extract_lets m
      split
      · exact ih (sound_of_resolvePa h ‹_›)
      · exact ih (sound_of_resolvePa h ‹_›)

theorem sound_dropRma (h : Sound s) : Sound (dropRma s r) := sound_setPort h

theorem sound_answer {status : Nat} {p : Bool} {data : List Byte} (h : Sound s) : Sound (answer s port status p data) := h

theorem sound_postLink {kind : Nat} (h : Sound s) : Sound (postLink s port kind) := sound_foldl (fun _ _ hs => sound_post hs) _ h

theorem rmaPut_sound : SoundExec (.rmaPut r) := by
  intro s h
  change SoundOut (execRmaPut r s)
  unfold execRmaPut
  split
  · exact soundOut_next h
  · split
    · exact soundOut_next (sound_dropRma h)
    · dsimp only
      split
      · exact soundOut_next (sound_addOp (sound_setPort (sound_rmaParts h)))
      · split
        · exact soundOut_next (sound_addOp (sound_addOp (sound_setPort (sound_rmaParts h))))
        · exact soundOut_next (sound_addOp (sound_setPort (sound_rmaParts h)))

theorem rmaGet_sound : SoundExec (.rmaGet r) := by
  intro s h
  change SoundOut (execRmaGet r s)
  unfold execRmaGet
  split
  · exact soundOut_next h
  · split
    · exact soundOut_next (sound_dropRma h)
    · dsimp only
      split
      · exact soundOut_next h
      · exact soundOut_next (sound_answer (sound_rmaParts h))

theorem rmaAtomic_sound : SoundExec (.rmaAtomic r) := by
  intro s h
  change SoundOut (execRmaAtomic r s)
  unfold execRmaAtomic
  split
  · exact soundOut_next h
  · split
    · exact soundOut_next (sound_dropRma h)
    · dsimp only
      split
      · exact soundOut_next h
      · exact soundOut_next (sound_answer (sound_wakeTasks (sound_performPart (sound_rmaParts h))))

theorem paceReceive_sound {pace : Nat} : SoundExec (.paceReceive port pace) := by
  intro s h
  change SoundOut (execPaceReceive port pace s)
  unfold execPaceReceive
  extract_lets p
  split
  · exact soundOut_next h
  · exact soundOut_next h

theorem linkLoss_sound : SoundExec (.linkLoss port) := by
  intro s h
  change SoundOut (execLinkLoss port s)
  unfold execLinkLoss
  extract_lets p
  split
  · exact soundOut_next h
  · rename_i ids gone u v w x _
    have hu : Sound u := h
    have hw : Sound w := sound_foldl (fun _ _ hs => sound_answer hs) _ (sound_setPort hu)
    exact soundOut_next (sound_foldl (fun _ _ hs => sound_reap hs) _ (sound_postLink hw))

theorem linkRestore_sound : SoundExec (.linkRestore port) := by
  intro s h
  change SoundOut (execLinkRestore port s)
  unfold execLinkRestore
  extract_lets p
  split
  · exact soundOut_next h
  · exact soundOut_next (sound_postLink (sound_setPort h))

theorem packetRetransmit_sound {msg : Nat} : SoundExec (.packetRetransmit port msg) := by
  intro s h
  change SoundOut (execPacketRetransmit port msg s)
  unfold execPacketRetransmit
  extract_lets p
  split
  · exact soundOut_next (sound_setPort h)
  · exact soundOut_next h

/-! ### Boot, resets, heat and errors -/

theorem sound_bootFail {stage cause : Nat} (h : Sound s) : Sound (bootFail s stage cause) := h

theorem sound_bootDone {stage : Nat} (h : Sound s) : Sound (bootDone s stage) := h

theorem powerOn_sound {image : List Byte} : SoundExec (.powerOn image) := by
  intro s h
  change SoundOut (execPowerOn image s)
  unfold execPowerOn
  split
  · exact soundOut_next h
  · extract_lets u
    have hu : Sound u := h
    split
    · exact soundOut_next (sound_bootFail hu)
    · exact soundOut_next (sound_of_eq hu rfl rfl rfl)

/-- Memory without a listed byte and no version word listed are of the invariant. -/
theorem sound_clearMemories (h : Sound s) : Sound (clearMemories s) := ⟨rfl, List.forall_mem_nil _, h.2.2⟩

/-- FIRST_STAGE takes REEF_MIN from three bits (R374). -/
theorem sound_openReefs (h : Sound s) : Sound (openReefs s n) := by
  refine sound_foldl (fun s k hs => ?_) _ h
  exact sound_setDie hs ⟨(levelsOk_getDie hs).1, Nat.le_of_lt_succ (Nat.mod_lt n (by decide))⟩

theorem sound_setTimebase (h : Sound s) : Sound { s with timebase := n } := h

theorem firstStage_sound {image : List Byte} : SoundExec (.firstStage n image) := by
  intro s h
  change SoundOut (execFirstStage n image s)
  unfold execFirstStage
  split
  · exact soundOut_next h
  · have hu := sound_openReefs (n := n) (sound_setTimebase (n := 0) (sound_clearMemories h))
    generalize openReefs _ n = u at hu ⊢
    split
    · exact soundOut_next (sound_bootFail hu)
    · exact soundOut_next (sound_bootDone (sound_of_eq hu rfl rfl rfl))

theorem sound_createService (h : Sound s) : Sound (createService s) := by
  unfold createService
  split
  · exact h
  · rename_i root u hu
    refine sound_writeRecord ?_ serviceCtx
    exact sound_of_eq (sound_of_allocRun h hu) rfl rfl rfl

theorem sound_bootMaluk {boot : Boot} {cores : List Nat} (h : Sound s) : Sound { s with boot := boot, masts := cores } := h

theorem malukStage_sound : SoundExec .malukStage := by
  intro s h
  change SoundOut (execMalukStage s)
  unfold execMalukStage
  split
  · exact soundOut_next h
  · extract_lets u
    have hu : Sound u := sound_foldl (fun _ _ hs => sound_setPort hs) _ h
    exact soundOut_next (sound_bootDone (sound_bootMaluk (sound_createService hu)))

theorem sound_reset : Sound State.reset := ⟨reset_mem_wf, List.forall_mem_nil _, List.forall_mem_nil _⟩

theorem fullReset_sound : SoundExec .fullReset := fun _ _ => soundOut_next (sound_of_eq sound_reset rfl rfl rfl)

theorem thermalThrottle_sound {temp : Nat} : SoundExec (.thermalThrottle die temp) := by
  intro s h
  change SoundOut (execThermalThrottle die temp s)
  unfold execThermalThrottle
  split
  · exact soundOut_next (sound_setDie h (levelsOk_getDie (k := die) h))
  · exact soundOut_next h

theorem thermalRelease_sound {temp : Nat} : SoundExec (.thermalRelease die temp) := by
  intro s h
  change SoundOut (execThermalRelease die temp s)
  unfold execThermalRelease
  split
  · exact soundOut_next (sound_setDie h (levelsOk_getDie (k := die) h))
  · exact soundOut_next h

theorem sound_overheat {temp : Nat} (h : Sound s) : Sound (overheat s temp) := by
  unfold overheat
  split
  · exact h
  · exact h
  · split
    · exact h
    · extract_lets u
      have hu : Sound u := sound_foldl (fun _ _ hs => sound_setCore hs) _ h
      clear_value u
      exact sound_of_eq hu rfl rfl rfl

theorem thermalShutdown_sound {temp : Nat} : SoundExec (.thermalShutdown temp) := fun _ h => soundOut_next (sound_overheat h)

theorem patrolScrub_sound {quarter : Nat} : SoundExec (.patrolScrub quarter e) := by
  intro s h
  change SoundOut (execPatrolScrub quarter e s)
  unfold execPatrolScrub
  split
  · exact soundOut_next (sound_countEcc h)
  · exact soundOut_next h

theorem errorCounterPoll_sound : SoundExec .errorCounterPoll := by
  intro s h
  change SoundOut (execErrorCounterPoll s)
  unfold execErrorCounterPoll
  split
  · exact soundOut_next h
  · exact soundOut_next h

theorem coreRestart_sound : SoundExec (.coreRestart core) := by
  intro s h
  change SoundOut (execCoreRestart core s)
  unfold execCoreRestart
  split
  · exact soundOut_next h
  · exact soundOut_next (sound_setCore h)

end Sys2Proof.Machine
end

section
/-! The invariant under shroud threads, Maluk's requests and the turns that are no instruction. -/

namespace Sys2Proof.Machine

variable {s : State} {o : Op} {e : Ecc} {m : Msg} {x : SThread} {gid tid unit port id die k t n ctx code : Nat}

theorem soundExec_of {i : Instr} (g : State → Host.Outcome State Fault Refusal) (hx : ∀ s, exec i s = g s)
    (hg : ∀ s, Sound s → SoundOut (g s)) : SoundExec i := by
  intro s h
  rw [hx]
  exact hg s h

/-! ### Shroud threads -/

theorem sound_setSThread (h : Sound s) : Sound (setSThread s k t x) := h

theorem sound_shNext {sh : Sh} (h : Sound s) : Sound (shNext s sh x) := h

theorem sound_freeThread (h : Sound s) : Sound (freeThread s k t) := by
  unfold freeThread
  extract_lets x u
  have hu : Sound u := sound_setShroud h
  split
  · exact hu
  · exact sound_binFlush hu

theorem sound_endFault (h : Sound s) : Sound (endFault s k t x code) := by
  unfold endFault
  refine sound_ite h ?_
  have hr := sound_resolveAt (unit := shroudUnit k) (ctx := x.ctx) (va := x.record) (a := .write) (x := .routine k t) h
  generalize resolveAt s (shroudUnit k) x.ctx x.record .write (.routine k t) = r at hr ⊢
  obtain ⟨u, pa⟩ := r
  refine sound_dropWalks (sound_freeThread (sound_postTaskFault ?_))
  cases pa with
  | ok pa => exact sound_setFlags hr
  | error n => exact hr

theorem sound_shFail {sh : Sh} (h : Sound s) : Sound (sh.fail s code) := sound_endFault h

theorem sound_shroudIllegal (h : Sound s) : Sound (shroudIllegal s k t) := by
  unfold shroudIllegal
  split
  · exact h
  · exact sound_endFault h

theorem sound_shroudPast (h : Sound s) : Sound (shroudPast s k t) := by
  unfold shroudPast
  split
  · exact h
  · exact sound_endFault h

theorem soundOut_shExec {ok : Bool} {body : Sh → State} (hb : ∀ sh, Sound (body sh)) (h : Sound s) : SoundOut (shExec s ok body) := by
  unfold shExec
  split
  · split
    · exact soundOut_fault
    · exact soundOut_next (sound_ite (hb _) (sound_endFault h))
  · exact soundOut_fault

theorem sound_shBranch {sh : Sh} {f : SB} {taken poison : Bool} (h : Sound s) : Sound (shBranch s sh f taken poison x) :=
  sound_ite (sound_shFail h) (sound_ite (sound_shFail h) (sound_ite (sound_setSThread h) (sound_shNext h)))

theorem sound_shAccess {sh : Sh} {va align bytes : Nat} {a : Acc} {aligned poison : Bool} {go : State → Nat → State}
    (hgo : ∀ u pa, Sound u → Sound (go u pa)) (h : Sound s) : Sound (shAccess s sh va align bytes a aligned poison go) := by
  unfold shAccess
  refine sound_ite (sound_shFail h) ?_
  have hr := sound_resolveAt (unit := shroudUnit sh.k) (ctx := sh.x.ctx) (va := va) (a := a) (x := .routine sh.k sh.t) h
  generalize resolveAt s (shroudUnit sh.k) sh.x.ctx va a (.routine sh.k sh.t) = r at hr ⊢
  obtain ⟨u, pa⟩ := r
  replace hr : Sound u := hr
  dsimp only
  split
  · exact sound_shFail hr
  · exact sound_shFail hr
  · exact sound_ite (sound_shFail hr) (hgo _ _ (sound_chargeQuota hr))

theorem sound_shLoad {sh : Sh} {va align bytes : Nat} {aligned : Bool} {a : BitVec 5} {offs : List Nat}
    {go : List Byte → List Bool → SThread} (h : Sound s) : Sound (shLoad s sh va align bytes aligned a offs go) :=
  sound_ite h (sound_shAccess (fun _ _ hu => sound_shNext hu) h)

theorem sound_shStore {sh : Sh} {va align : Nat} {bs : List Byte} {pois : List Bool} {scalars : Bool} (h : Sound s) :
    Sound (shStore s sh va align bs pois scalars) :=
  sound_shAccess (fun _ _ hu => sound_shNext (sound_addOp hu)) h

theorem sjmp_sound {f : SB} : SoundExec (.sjmp f) := soundExec_of (execSjmp f) (fun _ => rfl)
  fun _ h => soundOut_shExec (fun _ => sound_shBranch h) h
theorem sbrz_sound {f : SB} : SoundExec (.sbrz f) := soundExec_of (execSbrz f) (fun _ => rfl)
  fun _ h => soundOut_shExec (fun _ => sound_shBranch h) h
theorem sbrnz_sound {f : SB} : SoundExec (.sbrnz f) := soundExec_of (execSbrnz f) (fun _ => rfl)
  fun _ h => soundOut_shExec (fun _ => sound_shBranch h) h
theorem sloop_sound {f : SB} : SoundExec (.sloop f) := soundExec_of (execSloop f) (fun _ => rfl)
  fun _ h => soundOut_shExec (fun _ => sound_shBranch h) h

theorem salu_sound {f : SR} : SoundExec (.salu f) := soundExec_of (execSalu f) (fun _ => rfl)
  fun _ h => soundOut_shExec (fun _ => sound_shNext h) h
theorem salui_sound {f : SF} : SoundExec (.salui f) := soundExec_of (execSalui f) (fun _ => rfl)
  fun _ h => soundOut_shExec (fun _ => sound_shNext h) h
theorem smovi_sound {f : SI} : SoundExec (.smovi f) := soundExec_of (execSmovi f) (fun _ => rfl)
  fun _ h => soundOut_shExec (fun _ => sound_shNext h) h
theorem valu_sound {f : SR} : SoundExec (.valu f) := soundExec_of (execValu f) (fun _ => rfl)
  fun _ h => soundOut_shExec (fun _ => sound_shNext h) h
theorem vfma_sound {f : SR} : SoundExec (.vfma f) := soundExec_of (execVfma f) (fun _ => rfl)
  fun _ h => soundOut_shExec (fun _ => sound_shNext h) h
theorem vsqrt_sound {f : SR} : SoundExec (.vsqrt f) := soundExec_of (execVsqrt f) (fun _ => rfl)
  fun _ h => soundOut_shExec (fun _ => sound_shNext h) h
theorem vdiv_sound {f : SR} : SoundExec (.vdiv f) := soundExec_of (execVdiv f) (fun _ => rfl)
  fun _ h => soundOut_shExec (fun _ => sound_shNext h) h
theorem vbcast_sound {f : SR} : SoundExec (.vbcast f) := soundExec_of (execVbcast f) (fun _ => rfl)
  fun _ h => soundOut_shExec (fun _ => sound_shNext h) h
theorem vred_sound {f : SR} : SoundExec (.vred f) := soundExec_of (execVred f) (fun _ => rfl)
  fun _ h => soundOut_shExec (fun _ => sound_shNext h) h
theorem vcmp_sound {f : SR} : SoundExec (.vcmp f) := soundExec_of (execVcmp f) (fun _ => rfl)
  fun _ h => soundOut_shExec (fun _ => sound_shNext h) h
theorem vsel_sound {f : SR} : SoundExec (.vsel f) := soundExec_of (execVsel f) (fun _ => rfl)
  fun _ h => soundOut_shExec (fun _ => sound_shNext h) h
theorem vspk_sound {f : SR} : SoundExec (.vspk f) := soundExec_of (execVspk f) (fun _ => rfl)
  fun _ h => soundOut_shExec (fun _ => sound_shNext h) h

theorem sld_sound {f : SI} : SoundExec (.sld f) := soundExec_of (execSld f) (fun _ => rfl)
  fun _ h => soundOut_shExec (fun _ => sound_shLoad h) h
theorem vld_sound {f : SR} : SoundExec (.vld f) := soundExec_of (execVld f) (fun _ => rfl)
  fun _ h => soundOut_shExec (fun _ => sound_shLoad h) h
theorem sst_sound {f : SI} : SoundExec (.sst f) := soundExec_of (execSst f) (fun _ => rfl)
  fun _ h => soundOut_shExec (fun _ => sound_shStore h) h
theorem vst_sound {f : SR} : SoundExec (.vst f) := soundExec_of (execVst f) (fun _ => rfl)
  fun _ h => soundOut_shExec (fun _ => sound_shStore h) h

theorem sfence_sound {f : SR} : SoundExec (.sfence f) := soundExec_of (execSfence f) (fun _ => rfl) fun _ h =>
  soundOut_shExec (fun _ => sound_ite (sound_shFail h) (sound_shNext h)) h

theorem skey_sound {f : SR} : SoundExec (.skey f) := soundExec_of (execSkey f) (fun _ => rfl) fun _ h =>
  soundOut_shExec (fun _ => sound_ite (sound_shFail h) (sound_shNext h)) h

theorem ssem_sound {f : SR} : SoundExec (.ssem f) := soundExec_of (execSsem f) (fun _ => rfl) fun _ h =>
  soundOut_shExec (fun _ => sound_ite (sound_shFail h)
    (sound_ite (sound_shFail h) (sound_ite (sound_shFail h) (sound_shNext (sound_addOp h))))) h

theorem send_sound {f : SR} : SoundExec (.send f) := by
  refine soundExec_of (execSend f) (fun _ => rfl) fun s h => soundOut_shExec (fun sh => sound_ite h ?_) h
  have hp : Sound (postRecord s sh.x.ctx sh.x.record) := sound_postRecord h
  exact sound_freeThread (sound_ite hp (sound_postLaunch hp))

/-! ### Maluk's requests -/

theorem soundOut_serveKind {kind : Nat} {act : State → MReq → Except Nat Reply} (hact : ActSound act) (h : Sound s) :
    SoundOut (serveKind s m kind act) := soundOut_serve hact h

theorem soundOut_serveQuery {subj : Nat → Bool} {act : State → MReq → Except Nat Reply} (hact : ActSound act) (h : Sound s) :
    SoundOut (serveQuery s m subj act) := soundOut_serve hact h

theorem openVi_sound : SoundExec (.openVi m) := soundExec_of (execOpenVi m) (fun _ => rfl) fun _ h => soundOut_serveKind actSound_openVi h
theorem closeVi_sound : SoundExec (.closeVi m) := soundExec_of (execCloseVi m) (fun _ => rfl)
  fun _ h => soundOut_serveKind actSound_closeVi h
theorem negotiate_sound : SoundExec (.negotiate m) := soundExec_of (execNegotiate m) (fun _ => rfl)
  fun _ h => soundOut_serveKind actSound_negotiate h
theorem createCtx_sound : SoundExec (.createCtx m) := soundExec_of (execCreateCtx m) (fun _ => rfl)
  fun _ h => soundOut_serveKind actSound_createCtx h
theorem destroyCtx_sound : SoundExec (.destroyCtx m) := soundExec_of (execDestroyCtx m) (fun _ => rfl)
  fun _ h => soundOut_serveKind actSound_destroyCtx h
theorem mapWindow_sound : SoundExec (.mapWindow m) := soundExec_of (execMapWindow m) (fun _ => rfl)
  fun _ h => soundOut_serveKind actSound_mapWindow h
theorem unmapWindow_sound : SoundExec (.unmapWindow m) := soundExec_of (execUnmapWindow m) (fun _ => rfl)
  fun _ h => soundOut_serveKind actSound_unmapWindow h
theorem loadObject_sound : SoundExec (.loadObject m) := soundExec_of (execLoadObject m) (fun _ => rfl)
  fun _ h => soundOut_serveKind actSound_loadObject h
theorem unload_sound : SoundExec (.unload m) := soundExec_of (execUnload m) (fun _ => rfl) fun _ h => soundOut_serveKind actSound_unload h
theorem launch_sound : SoundExec (.launch m) := soundExec_of (execLaunch m) (fun _ => rfl) fun _ h => soundOut_serveKind actSound_launch h
theorem abort_sound : SoundExec (.abort m) := soundExec_of (execAbort m) (fun _ => rfl) fun _ h => soundOut_serveKind actSound_abort h
theorem unpark_sound : SoundExec (.unpark m) := soundExec_of (execUnpark m) (fun _ => rfl) fun _ h => soundOut_serveKind actSound_unpark h
theorem postGraph_sound : SoundExec (.postGraph m) := soundExec_of (execPostGraph m) (fun _ => rfl)
  fun _ h => soundOut_serveKind actSound_postGraph h
theorem queryContext_sound : SoundExec (.queryContext m) := soundExec_of (execQueryContext m) (fun _ => rfl)
  fun _ h => soundOut_serveQuery actSound_queryContext h
theorem queryLaunch_sound : SoundExec (.queryLaunch m) := soundExec_of (execQueryLaunch m) (fun _ => rfl)
  fun _ h => soundOut_serveQuery actSound_queryLaunch h
theorem queryGrant_sound : SoundExec (.queryGrant m) := soundExec_of (execQueryGrant m) (fun _ => rfl)
  fun _ h => soundOut_serveQuery actSound_queryGrant h
theorem queryOtherSubject_sound : SoundExec (.queryOtherSubject m) := soundExec_of (execQueryOtherSubject m) (fun _ => rfl)
  fun _ h => soundOut_serveQuery actSound_otherSubject h
theorem attest_sound : SoundExec (.attest m) := soundExec_of (execAttest m) (fun _ => rfl) fun _ h => soundOut_serveQuery actSound_attest h
theorem subscribe_sound : SoundExec (.subscribe m) := soundExec_of (execSubscribe m) (fun _ => rfl)
  fun _ h => soundOut_serveKind actSound_subscribe h
theorem assignHeap_sound : SoundExec (.assignHeap m) := soundExec_of (execAssignHeap m) (fun _ => rfl)
  fun _ h => soundOut_serveKind actSound_assignHeap h
theorem releaseHeap_sound : SoundExec (.releaseHeap m) := soundExec_of (execReleaseHeap m) (fun _ => rfl)
  fun _ h => soundOut_serveKind actSound_releaseHeap h
theorem addQuota_sound : SoundExec (.addQuota m) := soundExec_of (execAddQuota m) (fun _ => rfl)
  fun _ h => soundOut_serveKind actSound_addQuota h
theorem setArenaMax_sound : SoundExec (.setArenaMax m) := soundExec_of (execSetArenaMax m) (fun _ => rfl)
  fun _ h => soundOut_serveKind actSound_setArenaMax h
theorem writeTap_sound : SoundExec (.writeTap m) := soundExec_of (execWriteTap m) (fun _ => rfl)
  fun _ h => soundOut_serveKind actSound_writeTap h
theorem writeSteer_sound : SoundExec (.writeSteer m) := soundExec_of (execWriteSteer m) (fun _ => rfl)
  fun _ h => soundOut_serveKind actSound_writeSteer h
theorem clearTrip_sound : SoundExec (.clearTrip m) := soundExec_of (execClearTrip m) (fun _ => rfl)
  fun _ h => soundOut_serveKind actSound_clearTrip h
theorem writePaths_sound : SoundExec (.writePaths m) := soundExec_of (execWritePaths m) (fun _ => rfl)
  fun _ h => soundOut_serveKind actSound_writePaths h
theorem writePkeys_sound : SoundExec (.writePkeys m) := soundExec_of (execWritePkeys m) (fun _ => rfl)
  fun _ h => soundOut_serveKind actSound_writePkeys h

/-! ### Turns that are no instruction, and what every step does first -/

theorem sound_writeL1 (h : Sound s) : Sound (writeL1 s id) := by
  unfold writeL1
  split
  · exact h
  · exact sound_ite h h

theorem sound_invalCopy {q : Nat} (h : Sound s) : Sound (invalCopy s unit q) := sound_ite (sound_invalQuarter h) h

theorem sound_deliverEvent (h : Sound s) : Sound (deliverEvent s) := by
  unfold deliverEvent
  split
  · exact h
  · extract_lets u
    have hu : Sound u := h
    split
    · exact hu
    · exact sound_post hu

theorem sound_strikeShroud {f : SThread → SThread} (h : Sound s) : Sound (strikeShroud s e k t f) := by
  unfold strikeShroud
  extract_lets y
  split
  · exact h
  · exact sound_ite (sound_setShroud (sound_countUnit h)) (sound_countUnit h)

theorem sound_strike {p : Place} (h : Sound s) : Sound (strike s p e) := by
  unfold strike
  extract_lets bad
  split
  case h_1 => exact sound_ite (sound_countEcc h) h
  case h_2 => exact sound_ite (sound_ite (sound_setPoison (sound_countUnit h) _ _) (sound_countUnit h)) h
  case h_3 => exact sound_ite (sound_countUnit h) h
  case h_4 =>
    split
    · exact h
    · exact sound_ite (sound_modGroup (sound_countUnit h)) (sound_countUnit h)
  case h_5 => exact sound_strikeShroud h
  case h_6 => exact sound_strikeShroud h
  case h_7 =>
    split
    · exact h
    · exact sound_ite (sound_modThread (sound_countUnit h)) (sound_countUnit h)
  case h_8 =>
    split
    · exact h
    · exact sound_ite (sound_countUnit h) (sound_modTeam (sound_countUnit h))
  case h_9 =>
    split
    · exact h
    · exact sound_ite (sound_poisonScratch (sound_countUnit h)) (sound_countUnit h)

theorem sound_sendPacket (h : Sound s) : Sound (sendPacket s port) := sound_ite h h

theorem sound_senseTemp (h : Sound s) : Sound (senseTemp s die t) := by
  unfold senseTemp
  refine sound_ite h (sound_overheat (sound_ite (sound_setDie h (levelsOk_getDie (k := die) h)) h))

theorem sound_readStatus (h : Sound s) : Sound (readStatus s) := by
  unfold readStatus
  split
  · exact h
  · exact sound_ite h h
  · exact h

theorem sound_settle (h : Sound s) : Sound (settle s) := sound_foldl (fun _ _ hs => sound_refreshQueue hs) _ h

theorem sound_darkCores (h : Sound s) : Sound (darkCores s) := h

theorem sound_rails (h : Sound s) : Sound (rails s) := sound_ite h (sound_darkCores h)

end Sys2Proof.Machine
end

section
/-! The invariant under core instructions: the formats, the transfers and waits, and the instructions whose operation goes in flight. -/

namespace Sys2Proof.Machine

variable {s : State} {cx : Cx} {op : Nat} {body : Cx → State}

/-! ### The formats -/

theorem soundOut_withRun {opcode : Nat} {ext : Bool} {e : Entry} {m : Mod} {f : FR} {legal : Bool} (hb : ∀ cx, Sound (body cx))
    (h : Sound s) : SoundOut (withRun s opcode ext e m f legal body) := by
  unfold withRun
  split
  · exact soundOut_fault
  · split
    · exact soundOut_next (sound_trapWhole h)
    · extract_lets p
      split
      · exact soundOut_next (sound_trapWhole h)
      · exact soundOut_next (hb _)

theorem soundOut_withEntry {k : Entry → Host.Outcome State Fault Refusal} (hk : ∀ e, SoundOut (k e)) : SoundOut (withEntry op k) := by
  unfold withEntry
  split
  · exact hk _
  · exact soundOut_fault

theorem soundOut_coreR {f : FR} (hb : ∀ cx, Sound (body cx)) (h : Sound s) : SoundOut (coreR op f s body) :=
  soundOut_withEntry fun _ => soundOut_withRun hb h

theorem soundOut_coreT {f : FR} {m : Mod} (hb : ∀ cx, Sound (body cx)) (h : Sound s) : SoundOut (coreT op f m s body) :=
  soundOut_withEntry fun _ => soundOut_withRun hb h

theorem soundOut_coreI {f : FI} (hb : ∀ cx, Sound (body cx)) (h : Sound s) : SoundOut (coreI op f s body) :=
  soundOut_withEntry fun _ => soundOut_withRun hb h

theorem soundOut_coreB {f : FB} (hb : ∀ cx, Sound (body cx)) (h : Sound s) : SoundOut (coreB op f s body) :=
  soundOut_withEntry fun _ => soundOut_withRun hb h

/-! ### Instructions whose operation goes in flight: their frames name what they change -/

theorem runCx_of_withRun {opcode : Nat} {ext legal : Bool} {e : Entry} {m : Mod} {f : FR} {t : State}
    (h : withRun s opcode ext e m f legal body = .next t) : ∃ cx, runCx s opcode ext e m f = some cx := by
  unfold withRun at h
  split at h
  · cases h
  · exact ⟨_, ‹_›⟩

theorem sound_of_framed {R : Nat → Thread → Prop} {K : Op → Prop} {counted : Bool} {al : Allow} {run : List Nat} {gid : Nat}
    {g : Group} {t : State} (h : Sound s) (hf : Framed R K counted al run gid g s t) : Sound t := by
  obtain ⟨ht, -⟩ := hf
  rw [ht]
  exact h

/-- Where the instruction answers a next state a run of its form stands at work, and the frame of its issue leaves memory, versions and
dies. -/
theorem soundOut_of_issueFrame {i : Instr} {kind : OpKind → Bool} {more : CoreForm → Allow → Allow} {c : CoreForm}
    (hf : IssueFrame i kind more) (hc : coreForm i = some c)
    (hrun : ∀ t, exec i s = .next t → ∃ cx, runCx s c.op c.ext c.e c.m c.f = some cx) (h : Sound s) : SoundOut (exec i s) := by
  intro t ht
  obtain ⟨cx, hcx⟩ := hrun t ht
  obtain ⟨hcur, hg, hfl, -⟩ := runCx_some hcx
  obtain ⟨u, hu, rfl | rfl⟩ := hf s t cx.gid cx.g cx.fl c hc hcur hg hfl trivial ht
  · exact sound_of_framed h hu
  · exact sound_letGo (sound_of_framed h hu)

theorem soundExec_issueR {i : Instr} {f : FR} {e : Entry} {kind : OpKind → Bool} {more : CoreForm → Allow → Allow}
    {body : State → Cx → State} (hf : IssueFrame i kind more) (he : entryOf op = some e) (hv : view i = .r op f)
    (hx : ∀ s, exec i s = coreR op f s (body s)) : SoundExec i := by
  refine fun s h => soundOut_of_issueFrame hf (coreForm_r hv he) (fun t ht => ?_) h
  rw [hx] at ht
  simp only [coreR, withEntry, he] at ht
  exact runCx_of_withRun ht

theorem soundExec_issueT {i : Instr} {f : FR} {m : Mod} {e : Entry} {kind : OpKind → Bool} {more : CoreForm → Allow → Allow}
    {body : State → Cx → State} (hf : IssueFrame i kind more) (he : entryOf op = some e) (hv : view i = .twin op f m)
    (hx : ∀ s, exec i s = coreT op f m s (body s)) : SoundExec i := by
  refine fun s h => soundOut_of_issueFrame hf (coreForm_t hv he) (fun t ht => ?_) h
  rw [hx] at ht
  simp only [coreT, withEntry, he] at ht
  exact runCx_of_withRun ht

/-- An instruction of format R and its twin keep the invariant. -/
def BothSound (base : FR → Instr) (twin : FR → Mod → Instr) : Prop := (∀ f, SoundExec (base f)) ∧ ∀ f m, SoundExec (twin f m)

theorem bothSound_of_issues {base : FR → Instr} {twin : FR → Mod → Instr} {e : Entry} {kind : OpKind → Bool}
    {more : CoreForm → Allow → Allow} {body : State → Cx → State} (op : Nat) (he : entryOf op = some e)
    (hf : ∀ f m, WithTwin (fun i => IssueFrame i kind more) (base f) (twin f m)) (hm : Means base twin op body) : BothSound base twin :=
  ⟨fun f => soundExec_issueR (hf f (baseMod e)).1 he (hm f (baseMod e) .reset).1 fun s => (hm f (baseMod e) s).2.1,
    fun f m => soundExec_issueT (hf f m).2 he (hm f m .reset).2.2.1 fun s => (hm f m s).2.2.2⟩

theorem ld_sound : BothSound .ld .ldTwin :=
  bothSound_of_issues 0x100 rfl (ld_issueFrame (kind := fun _ => true) · · (fun _ _ _ => rfl)) fun _ _ _ => ⟨rfl, rfl, rfl, rfl⟩
theorem lds_sound : BothSound .lds .ldsTwin :=
  bothSound_of_issues 0x102 rfl (lds_issueFrame (kind := fun _ => true) · · (fun _ _ _ => rfl)) fun _ _ _ => ⟨rfl, rfl, rfl, rfl⟩
theorem lda_sound : BothSound .lda .ldaTwin :=
  bothSound_of_issues 0x108 rfl (lda_issueFrame (kind := fun _ => true) · · (fun _ _ _ => rfl)) fun _ _ _ => ⟨rfl, rfl, rfl, rfl⟩
theorem ldo_sound : BothSound .ldo .ldoTwin :=
  bothSound_of_issues 0x104 rfl (ldo_issueFrame (kind := fun _ => true) · · (fun _ _ _ => rfl)) fun _ _ _ => ⟨rfl, rfl, rfl, rfl⟩
theorem st_sound : BothSound .st .stTwin :=
  bothSound_of_issues 0x101 rfl (st_issueFrame (kind := fun _ => true) · · (fun _ _ => rfl)) fun _ _ _ => ⟨rfl, rfl, rfl, rfl⟩
theorem sts_sound : BothSound .sts .stsTwin :=
  bothSound_of_issues 0x103 rfl (sts_issueFrame (kind := fun _ => true) · · (fun _ _ => rfl)) fun _ _ _ => ⟨rfl, rfl, rfl, rfl⟩
theorem str_sound : BothSound .str .strTwin :=
  bothSound_of_issues 0x109 rfl (str_issueFrame (kind := fun _ => true) · · (fun _ _ => rfl)) fun _ _ _ => ⟨rfl, rfl, rfl, rfl⟩
theorem ldv_sound : BothSound .ldv .ldvTwin :=
  bothSound_of_issues 0x105 rfl (ldv_issueFrame (kind := fun _ => true) · · (fun _ _ _ _ => rfl)) fun _ _ _ => ⟨rfl, rfl, rfl, rfl⟩
theorem stt_sound : BothSound .stt .sttTwin :=
  bothSound_of_issues 0x106 rfl (stt_issueFrame (kind := fun _ => true) · · (fun _ _ _ _ _ _ _ _ => rfl)) fun _ _ _ => ⟨rfl, rfl, rfl, rfl⟩
theorem seminc_sound : BothSound .seminc .semincTwin :=
  bothSound_of_issues 0x124 rfl (seminc_issueFrame (kind := fun _ => true) · · (fun _ _ _ _ _ => rfl)) fun _ _ _ => ⟨rfl, rfl, rfl, rfl⟩
theorem semset_sound : BothSound .semset .semsetTwin :=
  bothSound_of_issues 0x126 rfl (semset_issueFrame (kind := fun _ => true) · · (fun _ _ _ _ _ => rfl)) fun _ _ _ => ⟨rfl, rfl, rfl, rfl⟩
theorem semrd_sound : BothSound .semrd .semrdTwin :=
  bothSound_of_issues 0x127 rfl (semrd_issueFrame (kind := fun _ => true) · · (fun _ _ _ _ => rfl)) fun _ _ _ => ⟨rfl, rfl, rfl, rfl⟩
theorem tgpost_sound : BothSound .tgpost .tgpostTwin :=
  bothSound_of_issues 0x128 rfl (tgpost_issueFrame (kind := fun _ => true) · · (fun _ _ => rfl)) fun _ _ _ => ⟨rfl, rfl, rfl, rfl⟩
theorem tginit_sound : BothSound .tginit .tginitTwin :=
  bothSound_of_issues 0x12A rfl (tginit_issueFrame (kind := fun _ => true) · · (fun _ _ => rfl) (fun _ _ => rfl))
    fun _ _ _ => ⟨rfl, rfl, rfl, rfl⟩
theorem tglink_sound : BothSound .tglink .tglinkTwin :=
  bothSound_of_issues 0x12B rfl (tglink_issueFrame (kind := fun _ => true) · · (fun _ _ _ _ => rfl)) fun _ _ _ => ⟨rfl, rfl, rfl, rfl⟩
theorem pins_sound : BothSound .pins .pinsTwin :=
  bothSound_of_issues 0x145 rfl (pins_issueFrame (kind := fun _ => true) · · (fun _ _ => rfl)) fun _ _ _ => ⟨rfl, rfl, rfl, rfl⟩
theorem plup_sound : BothSound .plup .plupTwin :=
  bothSound_of_issues 0x146 rfl (plup_issueFrame (kind := fun _ => true) · · (fun _ _ => rfl)) fun _ _ _ => ⟨rfl, rfl, rfl, rfl⟩
theorem pcnt_sound : BothSound .pcnt .pcntTwin :=
  bothSound_of_issues 0x147 rfl (pcnt_issueFrame (kind := fun _ => true) · · (fun _ _ => rfl)) fun _ _ _ => ⟨rfl, rfl, rfl, rfl⟩
theorem prd_sound : BothSound .prd .prdTwin :=
  bothSound_of_issues 0x148 rfl (prd_issueFrame (kind := fun _ => true) · · (fun _ _ => rfl)) fun _ _ _ => ⟨rfl, rfl, rfl, rfl⟩
theorem pdrn_sound : BothSound .pdrn .pdrnTwin :=
  bothSound_of_issues 0x149 rfl (pdrn_issueFrame (kind := fun _ => true) · · (fun _ _ _ => rfl)) fun _ _ _ => ⟨rfl, rfl, rfl, rfl⟩
theorem pclr_sound : BothSound .pclr .pclrTwin :=
  bothSound_of_issues 0x14A rfl (pclr_issueFrame (kind := fun _ => true) · · (fun _ _ => rfl)) fun _ _ _ => ⟨rfl, rfl, rfl, rfl⟩
theorem pdel_sound : BothSound .pdel .pdelTwin :=
  bothSound_of_issues 0x14B rfl (pdel_issueFrame (kind := fun _ => true) · · (fun _ _ => rfl)) fun _ _ _ => ⟨rfl, rfl, rfl, rfl⟩
theorem hpush_sound : BothSound .hpush .hpushTwin :=
  bothSound_of_issues 0x14F rfl (hpush_issueFrame (kind := fun _ => true) · · (fun _ _ => rfl)) fun _ _ _ => ⟨rfl, rfl, rfl, rfl⟩
theorem htake_sound : BothSound .htake .htakeTwin :=
  bothSound_of_issues 0x150 rfl (htake_issueFrame (kind := fun _ => true) · · (fun _ _ => rfl)) fun _ _ _ => ⟨rfl, rfl, rfl, rfl⟩
theorem hbud_sound : BothSound .hbud .hbudTwin :=
  bothSound_of_issues 0x151 rfl (hbud_issueFrame (kind := fun _ => true) · · (fun _ _ => rfl)) fun _ _ _ => ⟨rfl, rfl, rfl, rfl⟩
theorem hdel_sound : BothSound .hdel .hdelTwin :=
  bothSound_of_issues 0x152 rfl (hdel_issueFrame (kind := fun _ => true) · · (fun _ _ => rfl)) fun _ _ _ => ⟨rfl, rfl, rfl, rfl⟩
theorem hpeek_sound : BothSound .hpeek .hpeekTwin :=
  bothSound_of_issues 0x153 rfl (hpeek_issueFrame (kind := fun _ => true) · · (fun _ _ => rfl)) fun _ _ _ => ⟨rfl, rfl, rfl, rfl⟩
theorem hlen_sound : BothSound .hlen .hlenTwin :=
  bothSound_of_issues 0x154 rfl (hlen_issueFrame (kind := fun _ => true) · · (fun _ _ => rfl)) fun _ _ _ => ⟨rfl, rfl, rfl, rfl⟩

theorem spawn_sound (f : FR) : SoundExec (.spawn f) :=
  soundExec_issueR (op := 0x008) (spawn_issueFrame (kind := fun _ => true) f fun _ _ _ => rfl) rfl rfl fun _ => rfl
theorem privrd_sound (f : FR) : SoundExec (.privrd f) :=
  soundExec_issueR (op := 0x166) (privrd_issueFrame (kind := fun _ => true) f fun _ => rfl) rfl rfl fun _ => rfl
theorem privwr_sound (f : FR) : SoundExec (.privwr f) :=
  soundExec_issueR (op := 0x167) (privwr_issueFrame (kind := fun _ => true) f fun _ => rfl) rfl rfl fun _ => rfl
theorem tlbinv_sound (f : FR) : SoundExec (.tlbinv f) :=
  soundExec_issueR (op := 0x168) (tlbinv_issueFrame (kind := fun _ => true) f fun _ => rfl) rfl rfl fun _ => rfl
theorem ctxsw_sound (f : FR) : SoundExec (.ctxsw f) :=
  soundExec_issueR (op := 0x169) (ctxsw_issueFrame (kind := fun _ => true) f fun _ => rfl) rfl rfl fun _ => rfl
theorem cachefl_sound (f : FR) : SoundExec (.cachefl f) :=
  soundExec_issueR (op := 0x16A) (cachefl_issueFrame (kind := fun _ => true) f fun _ => rfl) rfl rfl fun _ => rfl
theorem poisclr_sound (f : FR) : SoundExec (.poisclr f) :=
  soundExec_issueR (op := 0x16B) (poisclr_issueFrame (kind := fun _ => true) f fun _ => rfl) rfl rfl fun _ => rfl
theorem halt_sound (f : FR) : SoundExec (.halt f) :=
  soundExec_issueR (op := 0x16C) (halt_issueFrame (kind := fun _ => true) f fun _ => rfl) rfl rfl fun _ => rfl
theorem evpost_sound (f : FR) : SoundExec (.evpost f) :=
  soundExec_issueR (op := 0x16D) (evpost_issueFrame (kind := fun _ => true) f fun _ => rfl) rfl rfl fun _ => rfl

/-! ### Services, copies and pocket configurations -/

/-- What a request of every kind but a copy and a pocket configuration prepares: nothing. -/
theorem reqSound_plain {q : Req} (hq : q.prep = fun u k => (u, k)) : ReqSound q := fun _ _ h => hq ▸ h

theorem rdGives_trap {α : Type} {P : α → Prop} {t : Trap} : RdGives P (trapRd t : Rd α) := fun _ _ _ e => nomatch e

/-- A check, and what goes on when it passes. -/
theorem rdGives_check {α : Type} {P : α → Prop} {p : Prop} [Decidable p] {m : Rd PUnit} {k : PUnit → Rd α}
    (hk : ∀ u, RdGives P (k u)) : RdGives P (if p then m >>= k else pure PUnit.unit >>= k) := by
  split
  · exact rdGives_bind hk
  · exact rdGives_bind hk

theorem svc_sound (f : FI) : SoundExec (.svc f) := by
  refine soundExec_of (execSvc f) (fun _ => rfl) fun s h => soundOut_coreI (fun cx => sound_asyncExec (fun tid => ?_) h) h
  exact rdGives_bind fun _ => rdGives_pure (reqSound_plain rfl)

/-- What Maluk resolves for a copy makes pages present (R239). -/
theorem copyReq_sound {tid : Nat} {l : Layout} {bad mis : Bool} {dsts : List Nat} {keep : Bool} {compl : Nat} {red : Option (Nat × Nat)}
    {strict : Bool} {list : List Loc} : RdGives ReqSound (copyReq s cx tid l bad mis dsts keep compl red strict list) := by
  refine rdGives_bind fun _ => rdGives_check fun _ => rdGives_check fun _ => ?_
  split
  · exact rdGives_trap
  · refine rdGives_check fun _ => ?_
    dsimp only
    split
    case' h_1 => refine rdGives_bind fun _ => ?_
    all_goals
      refine rdGives_check fun _ => rdGives_bind fun es => ?_
      split
      · exact rdGives_bind fun _ => rdGives_pure fun _ _ hu => sound_prepCopy hu
      · exact rdGives_pure fun _ _ hu => sound_prepCopy hu

theorem sound_copyRun (h : Sound s) : Sound (copyRun s cx) :=
  sound_asyncExec (fun _ => rdGives_bind fun _ => rdGives_bind fun _ => copyReq_sound) h

theorem sound_copysRun (h : Sound s) : Sound (copysRun s cx) :=
  sound_asyncExec (fun _ => rdGives_bind fun _ => copyReq_sound) h

theorem sound_copyListRun {red : Cx → Option (Nat × Nat)} {size : Cx → Nat} (h : Sound s) : Sound (copyListRun s cx red size) :=
  sound_asyncExec (fun _ => rdGives_bind fun _ => rdGives_bind fun _ => rdGives_bind fun _ => rdGives_check fun _ =>
    rdGives_check fun _ => rdGives_bind fun _ => rdGives_check fun _ => rdGives_bind fun _ => copyReq_sound) h

theorem sound_pcfgRun (h : Sound s) : Sound (pcfgRun s cx) := by
  refine sound_teamRun (fun key => sound_asyncExec (fun tid => ?_) h) h
  exact rdGives_bind fun _ => rdGives_check fun _ => rdGives_pure fun _ _ hu => sound_modTeam hu

/-! ### Exits, barriers, cleats, flags and bins -/

theorem sound_exitRun (h : Sound s) : Sound (afterExit (modGroup (cx.fl.run.foldl (fun s t => exitThread s cx.gid t) s) cx.gid
    (fun g => endClause g [] false)) cx.gid) :=
  sound_afterExit (sound_modGroup (sound_foldl (fun _ _ hs => sound_exitThread hs) _ h))

theorem exit_sound (f : FR) : SoundExec (.exit f) :=
  soundExec_of (execExit f) (fun _ => rfl) fun _ h => soundOut_coreR (fun _ => sound_exitRun h) h

theorem call_sound (f : FB) : SoundExec (.call f) :=
  soundExec_of (execCall f) (fun _ => rfl) fun _ h => soundOut_coreB (fun _ => sound_ite (sound_jumpRun h) (sound_trapWhole h)) h

theorem bar_sound (f : FR) : SoundExec (.bar f) := by
  refine soundExec_of (execBar f) (fun _ => rfl) fun s h => soundOut_coreR (fun cx => sound_teamRun (fun key => sound_modGroup ?_) h) h
  exact sound_foldl (fun _ _ hs => sound_barrierCheck (sound_modThread (sound_barrierArrive hs))) _ h

theorem bara_sound (f : FR) : SoundExec (.bara f) := by
  refine soundExec_of (execBara f) (fun _ => rfl) fun s h => soundOut_coreR (fun cx => sound_teamRun (fun key => sound_modGroup ?_) h) h
  exact sound_foldl (fun _ _ hs => sound_barrierCheck (sound_barrierArrive hs)) _ h

theorem barw_sound (f : FR) : SoundExec (.barw f) := by
  refine soundExec_of (execBarw f) (fun _ => rfl) fun s h => soundOut_coreR (fun cx => sound_teamRun (fun key => sound_modGroup ?_) h) h
  exact sound_foldl (fun _ _ hs => sound_ite (sound_modThread hs) (sound_modThread (sound_barrierObserve hs))) _ h

theorem clset_sound (f : FR) : SoundExec (.clset f) := by
  refine soundExec_of (execClset f) (fun _ => rfl) fun s h => soundOut_coreR (fun cx => sound_teamRun (fun key => ?_) h) h
  split
  · exact sound_stallRun h
  · exact sound_trapWhole h
  · refine sound_modGroup ?_
    split
    · exact h
    · exact sound_setCleat h

theorem waitf_sound (f : FI) : SoundExec (.waitf f) := by
  refine soundExec_of (execWaitf f) (fun _ => rfl) fun s h => soundOut_coreI (fun cx => sound_wakeFlags (sound_modGroup ?_)) h
  exact sound_modGroup (s := { s with nextId := s.nextId + 1 }) h

theorem bincfg_sound (f : FI) : SoundExec (.bincfg f) := by
  refine soundExec_of (execBincfg f) (fun _ => rfl) fun s h => soundOut_coreI (fun cx => ?_) h
  extract_lets rd r
  split
  · exact sound_stallRun h
  · exact sound_trapWhole h
  · rename_i u _ _ _ _ _
    have hu : Sound u := sound_foldl (fun _ _ hs => sound_setTimer (sound_modThread hs)) _ (sound_trapRun (sound_touchAll h))
    split
    · exact sound_stallRun (sound_modGroup hu)
    · exact sound_modGroup hu

/-! ### Lanes that name what they share -/

theorem sound_cvtf (h : Sound s) : Sound (cvtf s cx) := by
  unfold cvtf
  extract_lets w
  exact sound_laneExec h

theorem sound_spickRun (h : Sound s) : Sound (spickRun s cx) := by
  unfold spickRun
  extract_lets resid
  exact sound_laneExec h

theorem movrw_sound (f : FR) : SoundExec (.movrw f) := by
  refine soundExec_of (execMovrw f) (fun _ => rfl) fun s h => soundOut_coreR (fun cx => ?_) h
  extract_lets run
  have hrun : Sound run := sound_laneExec h
  split
  · split
    · exact sound_ite (sound_stallRun h) hrun
    · exact hrun
  · exact hrun

theorem moviLiteral_sound (f : FI) (w : W32) : SoundExec (.moviLiteral f w) :=
  soundExec_of (execMoviLiteral f w) (fun _ => rfl) fun _ h =>
    soundOut_withEntry fun _ => soundOut_withRun (fun _ => sound_laneExec h) h

end Sys2Proof.Machine
end

section
/-! Every step keeps the invariant: every instruction and event does, and so do the turns. -/

namespace Sys2Proof.Machine

variable {s : State} {i : Instr} {a : Agent}

/-- Every instruction and every machine event keeps the invariant: a core instruction by the body of its pipeline, one whose operation
goes in flight by its frame, an event or a shroud instruction by its own theorem. -/
theorem exec_sound (i : Instr) : SoundExec i := by
  intro s h
  unfold exec
  cases i with
  | clauseIssue core lane => exact clauseIssue_sound s h
  | canvasGrant core => exact canvasGrant_sound s h
  | halyardCycle => exact halyardCycle_sound s h
  | canvasClaim core => exact canvasClaim_sound s h
  | intervalBoundary wish => exact intervalBoundary_sound s h
  | vmailWrite cluster target => exact vmailWrite_sound s h
  | voltageMoveDone cluster => exact voltageMoveDone_sound s h
  | halyardCtlWrite die value => exact halyardCtlWrite_sound s h
  | binTimerExpiry core bin => exact binTimerExpiry_sound s h
  | binEntry op => exact binEntry_sound s h
  | launchEnd launch => exact launchEnd_sound s h
  | loadComplete op ecc => exact loadComplete_sound s h
  | longOpResult op => exact longOpResult_sound s h
  | writePerform op part => exact writePerform_sound s h
  | atomicPerform op => exact atomicPerform_sound s h
  | engineLineAcquire op => exact engineLineAcquire_sound s h
  | copyIssue op => exact copyIssue_sound s h
  | copyComplete op => exact copyComplete_sound s h
  | mmaComplete op => exact mmaComplete_sound s h
  | joinComplete op => exact joinComplete_sound s h
  | normComplete op => exact normComplete_sound s h
  | pdrnComplete op => exact pdrnComplete_sound s h
  | cmtRoundClose team cleat => exact cmtRoundClose_sound s h
  | arenaBlockNotice => exact arenaBlockNotice_sound s h
  | pageFaultResolve fault => exact pageFaultResolve_sound s h
  | pageWalk die => exact pageWalk_sound s h
  | preempt core ctx => exact preempt_sound s h
  | placementPass prefs => exact placementPass_sound s h
  | drainStart => exact drainStart_sound s h
  | shroudDispatchDeliver shroud => exact shroudDispatchDeliver_sound s h
  | shroudRoutineStart shroud thread => exact shroudRoutineStart_sound s h
  | svcEcho op => exact svcEcho_sound s h
  | svcNote op => exact svcNote_sound s h
  | svcAbortSelf op => exact svcAbortSelf_sound s h
  | openVi m => exact openVi_sound s h
  | closeVi m => exact closeVi_sound s h
  | negotiate m => exact negotiate_sound s h
  | createCtx m => exact createCtx_sound s h
  | destroyCtx m => exact destroyCtx_sound s h
  | mapWindow m => exact mapWindow_sound s h
  | unmapWindow m => exact unmapWindow_sound s h
  | loadObject m => exact loadObject_sound s h
  | unload m => exact unload_sound s h
  | launch m => exact launch_sound s h
  | abort m => exact abort_sound s h
  | unpark m => exact unpark_sound s h
  | postGraph m => exact postGraph_sound s h
  | queryContext m => exact queryContext_sound s h
  | queryLaunch m => exact queryLaunch_sound s h
  | queryGrant m => exact queryGrant_sound s h
  | attest m => exact attest_sound s h
  | subscribe m => exact subscribe_sound s h
  | assignHeap m => exact assignHeap_sound s h
  | releaseHeap m => exact releaseHeap_sound s h
  | addQuota m => exact addQuota_sound s h
  | setArenaMax m => exact setArenaMax_sound s h
  | writeTap m => exact writeTap_sound s h
  | writeSteer m => exact writeSteer_sound s h
  | clearTrip m => exact clearTrip_sound s h
  | writePaths m => exact writePaths_sound s h
  | writePkeys m => exact writePkeys_sound s h
  | rmaPut r => exact rmaPut_sound s h
  | rmaGet r => exact rmaGet_sound s h
  | rmaAtomic r => exact rmaAtomic_sound s h
  | paceReceive port pace => exact paceReceive_sound s h
  | linkLoss port => exact linkLoss_sound s h
  | linkRestore port => exact linkRestore_sound s h
  | powerOn image => exact powerOn_sound s h
  | firstStage reefMin image => exact firstStage_sound s h
  | malukStage => exact malukStage_sound s h
  | fullReset => exact fullReset_sound s h
  | thermalThrottle die temp => exact thermalThrottle_sound s h
  | thermalRelease die temp => exact thermalRelease_sound s h
  | thermalShutdown temp => exact thermalShutdown_sound s h
  | patrolScrub quarter ecc => exact patrolScrub_sound s h
  | errorCounterPoll => exact errorCounterPoll_sound s h
  | call f => exact call_sound f s h
  | exit f => exact exit_sound f s h
  | spawn f => exact spawn_sound f s h
  | bincfg f => exact bincfg_sound f s h
  | bar f => exact bar_sound f s h
  | bara f => exact bara_sound f s h
  | barw f => exact barw_sound f s h
  | clset f => exact clset_sound f s h
  | waitf f => exact waitf_sound f s h
  | svc f => exact svc_sound f s h
  | movrw f => exact movrw_sound f s h
  | ld f => exact ld_sound.1 f s h
  | st f => exact st_sound.1 f s h
  | lds f => exact lds_sound.1 f s h
  | sts f => exact sts_sound.1 f s h
  | ldo f => exact ldo_sound.1 f s h
  | ldv f => exact ldv_sound.1 f s h
  | stt f => exact stt_sound.1 f s h
  | lda f => exact lda_sound.1 f s h
  | str f => exact str_sound.1 f s h
  | seminc f => exact seminc_sound.1 f s h
  | semset f => exact semset_sound.1 f s h
  | semrd f => exact semrd_sound.1 f s h
  | tgpost f => exact tgpost_sound.1 f s h
  | tginit f => exact tginit_sound.1 f s h
  | tglink f => exact tglink_sound.1 f s h
  | pins f => exact pins_sound.1 f s h
  | plup f => exact plup_sound.1 f s h
  | pcnt f => exact pcnt_sound.1 f s h
  | prd f => exact prd_sound.1 f s h
  | pdrn f => exact pdrn_sound.1 f s h
  | pclr f => exact pclr_sound.1 f s h
  | pdel f => exact pdel_sound.1 f s h
  | hpush f => exact hpush_sound.1 f s h
  | htake f => exact htake_sound.1 f s h
  | hbud f => exact hbud_sound.1 f s h
  | hdel f => exact hdel_sound.1 f s h
  | hpeek f => exact hpeek_sound.1 f s h
  | hlen f => exact hlen_sound.1 f s h
  | privrd f => exact privrd_sound f s h
  | privwr f => exact privwr_sound f s h
  | tlbinv f => exact tlbinv_sound f s h
  | ctxsw f => exact ctxsw_sound f s h
  | cachefl f => exact cachefl_sound f s h
  | poisclr f => exact poisclr_sound f s h
  | halt f => exact halt_sound f s h
  | evpost f => exact evpost_sound f s h
  | moviLiteral f w => exact moviLiteral_sound f w s h
  | ldTwin f m => exact ld_sound.2 f m s h
  | stTwin f m => exact st_sound.2 f m s h
  | ldsTwin f m => exact lds_sound.2 f m s h
  | stsTwin f m => exact sts_sound.2 f m s h
  | ldoTwin f m => exact ldo_sound.2 f m s h
  | ldvTwin f m => exact ldv_sound.2 f m s h
  | sttTwin f m => exact stt_sound.2 f m s h
  | ldaTwin f m => exact lda_sound.2 f m s h
  | strTwin f m => exact str_sound.2 f m s h
  | semincTwin f m => exact seminc_sound.2 f m s h
  | semsetTwin f m => exact semset_sound.2 f m s h
  | semrdTwin f m => exact semrd_sound.2 f m s h
  | tgpostTwin f m => exact tgpost_sound.2 f m s h
  | tginitTwin f m => exact tginit_sound.2 f m s h
  | tglinkTwin f m => exact tglink_sound.2 f m s h
  | pinsTwin f m => exact pins_sound.2 f m s h
  | plupTwin f m => exact plup_sound.2 f m s h
  | pcntTwin f m => exact pcnt_sound.2 f m s h
  | prdTwin f m => exact prd_sound.2 f m s h
  | pdrnTwin f m => exact pdrn_sound.2 f m s h
  | pclrTwin f m => exact pclr_sound.2 f m s h
  | pdelTwin f m => exact pdel_sound.2 f m s h
  | hpushTwin f m => exact hpush_sound.2 f m s h
  | htakeTwin f m => exact htake_sound.2 f m s h
  | hbudTwin f m => exact hbud_sound.2 f m s h
  | hdelTwin f m => exact hdel_sound.2 f m s h
  | hpeekTwin f m => exact hpeek_sound.2 f m s h
  | hlenTwin f m => exact hlen_sound.2 f m s h
  | send f => exact send_sound s h
  | sjmp f => exact sjmp_sound s h
  | sbrz f => exact sbrz_sound s h
  | sbrnz f => exact sbrnz_sound s h
  | sloop f => exact sloop_sound s h
  | salu f => exact salu_sound s h
  | salui f => exact salui_sound s h
  | smovi f => exact smovi_sound s h
  | sld f => exact sld_sound s h
  | sst f => exact sst_sound s h
  | sfence f => exact sfence_sound s h
  | ssem f => exact ssem_sound s h
  | skey f => exact skey_sound s h
  | vld f => exact vld_sound s h
  | vst f => exact vst_sound s h
  | valu f => exact valu_sound s h
  | vfma f => exact vfma_sound s h
  | vsqrt f => exact vsqrt_sound s h
  | vdiv f => exact vdiv_sound s h
  | vbcast f => exact vbcast_sound s h
  | vred f => exact vred_sound s h
  | vcmp f => exact vcmp_sound s h
  | vsel f => exact vsel_sound s h
  | vspk f => exact vspk_sound s h
  | sessionEndpointFails vi => exact sessionEndpointFails_sound s h
  | walkEnd walk => exact walkEnd_sound s h
  | svcOtherService op => exact svcOtherService_sound s h
  | queryOtherSubject m => exact queryOtherSubject_sound s h
  | malformedRequest m => exact malformedRequest_sound s h
  | coreRestart core => exact coreRestart_sound s h
  | malukHeapPush heap act => exact malukHeapPush_sound s h
  | packetRetransmit port msg => exact packetRetransmit_sound s h
  | nop f | yield f =>
    exact soundOut_coreR (fun _ => sound_modGroup h) h
  | bra f | brcT k f | brcF k f | bre n k f =>
    exact soundOut_coreB (fun _ => sound_branchRun h) h
  | jmpi f | calli f | ret f =>
    exact soundOut_coreR (fun _ => sound_jumpRun h) h
  | rejn f | rejnCmt f =>
    exact soundOut_coreR (fun _ => sound_rejoinRun h) h
  | trap f =>
    exact soundOut_coreI (fun _ => sound_trapWhole h) h
  | iadd f | isub f | imul f | imulh f | imad f | imadw f | imin f | imax f | iabs f | ineg f | idiv f | irem f | isad f
  | isetp f | isel f | lea f | shl f | shr f | sar f | rotl f | iand f | ior f | ixor f | inot f | bfe f | bfi f | popc f | clz f
  | brev f | prmt f | mov f | movrel f | pand f | por f | pxor f | pnot f | ptov f | vtop f | fadd f | fsub f | fmul f | ffma f
  | fmin f | fmax f | fabs f | fneg f | fsetp f | fclass f | frcp f | frsq f | fsqrt f | fdiv f | fexp2 f | flog2 f | ftanh f
  | fsin f | fcos f | fsigm f | ferf f | frnd f | fscale f | hadd2 f | hsub2 f | hmul2 f | hfma2 f | hmin2 f | hmax2 f | habs2 f
  | hsetp2 f | hdot2 f | htanh2 f | hrcp2 f | cvti f | cvtif f | cvtii f | pack8 f | unpk8 f | pack4 f | unpk4 f | packds f
  | unpkds f | bscale f | cvt2 f | shfl f | shflx f | vote f | ballot f | ffs f | gred f | gscan f | bcast f | gmatch f
  | gcount f | wbind f | wunb f | wpos f | dkey f | dpos f | dget f | dset f | dskip f | dfork f | rand f | dinfo f | randn f
  | dpeek f | cpst f | smrg f | rmask f | trrd f | cycrd f | perfrd f | seqbind f | seqrd f =>
    exact soundOut_coreR (fun _ => sound_laneExec h) h
  | movi f | movh f | winb f | srd f =>
    exact soundOut_coreI (fun _ => sound_laneExec h) h
  | cvtf f =>
    exact soundOut_coreR (fun _ => sound_cvtf h) h
  | dload f =>
    exact soundOut_coreR (fun _ => sound_dloadRun h) h
  | pref f =>
    exact soundOut_coreR (fun _ => sound_prefRun h) h
  | fence f =>
    exact soundOut_coreR (fun _ => sound_fenceRun h) h
  | atomAdd f | atomFadd f | atomMin f | atomMax f | atomAnd f | atomOr f | atomXor f | atomXchg f | atomCas f | atomInc f
  | atomDec f | atomHadd2 f | atomsAdd f | atomsCas f | atomsXchg f =>
    exact soundOut_coreR (fun _ => sound_atomRun h) h
  | copy f =>
    exact soundOut_coreR (fun _ => sound_copyRun h) h
  | copys f =>
    exact soundOut_coreR (fun _ => sound_copysRun h) h
  | copym f | copyr f =>
    exact soundOut_coreR (fun _ => sound_copyListRun h) h
  | semwait f =>
    exact soundOut_coreR (fun _ => sound_semWaitRun h) h
  | tgwait f =>
    exact soundOut_coreR (fun _ => sound_tgwaitRun h) h
  | mma f | mmaq f | mmas f | join f | norm f =>
    exact soundOut_coreR (fun _ => sound_callRun h) h
  | pcfg f =>
    exact soundOut_coreR (fun _ => sound_pcfgRun h) h
  | spick f =>
    exact soundOut_coreR (fun _ => sound_spickRun h) h
  | tret f =>
    exact soundOut_coreR (fun _ => sound_tretRun h) h
  | iaddTwin f m | isubTwin f m | imulTwin f m | imulhTwin f m | imadTwin f m | imadwTwin f m | iminTwin f m | imaxTwin f m
  | iabsTwin f m | inegTwin f m | idivTwin f m | iremTwin f m | isadTwin f m | isetpTwin f m | iselTwin f m | leaTwin f m
  | shlTwin f m | shrTwin f m | sarTwin f m | rotlTwin f m | iandTwin f m | iorTwin f m | ixorTwin f m | inotTwin f m
  | bfeTwin f m | bfiTwin f m | popcTwin f m | clzTwin f m | brevTwin f m | prmtTwin f m | movTwin f m | faddTwin f m
  | fsubTwin f m | fmulTwin f m | ffmaTwin f m | fminTwin f m | fmaxTwin f m | fabsTwin f m | fnegTwin f m | fsetpTwin f m
  | fclassTwin f m | frcpTwin f m | frsqTwin f m | fsqrtTwin f m | fdivTwin f m | fexp2Twin f m | flog2Twin f m | ftanhTwin f m
  | fsinTwin f m | fcosTwin f m | fsigmTwin f m | ferfTwin f m | frndTwin f m | fscaleTwin f m | hadd2Twin f m | hsub2Twin f m
  | hmul2Twin f m | hfma2Twin f m | hmin2Twin f m | hmax2Twin f m | habs2Twin f m | hsetp2Twin f m | hdot2Twin f m
  | htanh2Twin f m | hrcp2Twin f m | cvtiTwin f m | cvtifTwin f m | cvtiiTwin f m | pack8Twin f m | unpk8Twin f m | pack4Twin f m
  | unpk4Twin f m | packdsTwin f m | unpkdsTwin f m | bscaleTwin f m | cvt2Twin f m | shflTwin f m | shflxTwin f m | voteTwin f m
  | ballotTwin f m | ffsTwin f m | gredTwin f m | gscanTwin f m | bcastTwin f m | gmatchTwin f m | gcountTwin f m | wbindTwin f m
  | wunbTwin f m | wposTwin f m | dkeyTwin f m | dposTwin f m | dgetTwin f m | dsetTwin f m | dskipTwin f m | dforkTwin f m
  | randTwin f m | dinfoTwin f m | randnTwin f m | dpeekTwin f m | cpstTwin f m | smrgTwin f m | rmaskTwin f m =>
    exact soundOut_coreT (fun _ => sound_laneExec h) h
  | cvtfTwin f m =>
    exact soundOut_coreT (fun _ => sound_cvtf h) h
  | dloadTwin f m =>
    exact soundOut_coreT (fun _ => sound_dloadRun h) h
  | prefTwin f m =>
    exact soundOut_coreT (fun _ => sound_prefRun h) h
  | fenceTwin f m =>
    exact soundOut_coreT (fun _ => sound_fenceRun h) h
  | atomAddTwin f m | atomFaddTwin f m | atomMinTwin f m | atomMaxTwin f m | atomAndTwin f m | atomOrTwin f m | atomXorTwin f m
  | atomXchgTwin f m | atomCasTwin f m | atomIncTwin f m | atomDecTwin f m | atomHadd2Twin f m | atomsAddTwin f m
  | atomsCasTwin f m | atomsXchgTwin f m =>
    exact soundOut_coreT (fun _ => sound_atomRun h) h
  | copyTwin f m =>
    exact soundOut_coreT (fun _ => sound_copyRun h) h
  | copysTwin f m =>
    exact soundOut_coreT (fun _ => sound_copysRun h) h
  | copymTwin f m | copyrTwin f m =>
    exact soundOut_coreT (fun _ => sound_copyListRun h) h
  | semwaitTwin f m =>
    exact soundOut_coreT (fun _ => sound_semWaitRun h) h
  | tgwaitTwin f m =>
    exact soundOut_coreT (fun _ => sound_tgwaitRun h) h
  | mmaTwin f m | mmaqTwin f m | mmasTwin f m | joinTwin f m | normTwin f m =>
    exact soundOut_coreT (fun _ => sound_callRun h) h
  | pcfgTwin f m =>
    exact soundOut_coreT (fun _ => sound_pcfgRun h) h
  | spickTwin f m =>
    exact soundOut_coreT (fun _ => sound_spickRun h) h

theorem soundOut_stepAgent (h : Sound s) : SoundOut (stepAgent a s) := by
  unfold stepAgent
  split
  · exact soundOut_next h
  · split
    · exact soundOut_next h
    · exact soundOut_next (sound_trapFetch h)
    · split
      · exact exec_sound _ _ (sound_touchFetch h)
      · exact soundOut_next (sound_trapSlot (sound_touchFetch h))
  · split
    · exact soundOut_next h
    · exact soundOut_next (sound_shroudPast h)
    · split
      · exact exec_sound _ _ h
      · exact soundOut_next (sound_shroudIllegal h)

theorem soundOut_stepTurn (h : Sound s) : SoundOut (stepTurn s) := by
  unfold stepTurn
  split
  case h_1 => exact soundOut_stepAgent h
  case h_2 i r _ =>
    have hu : Sound { s with turns := r } := h
    exact soundOut_ite (exec_sound i _ hu) (soundOut_next hu)
  case h_3 a r _ =>
    have hu : Sound { s with turns := r, cur := a } := h
    exact soundOut_stepAgent hu
  case h_4 id r _ =>
    have hu : Sound { s with turns := r } := h
    exact soundOut_next (sound_writeL1 hu)
  case h_5 u q r _ =>
    have hu : Sound { s with turns := r } := h
    exact soundOut_next (sound_invalCopy hu)
  case h_6 r _ =>
    have hu : Sound { s with turns := r } := h
    exact soundOut_next (sound_deliverEvent hu)
  case h_7 k r _ =>
    have hu : Sound { s with turns := r, tlb := s.tlb.eraseIdx k } := h
    exact soundOut_next hu
  case h_8 p e r _ =>
    have hu : Sound { s with turns := r } := h
    exact soundOut_next (sound_strike hu)
  case h_9 port r _ =>
    have hu : Sound { s with turns := r } := h
    exact soundOut_next (sound_sendPacket hu)
  case h_10 die t r _ =>
    have hu : Sound { s with turns := r } := h
    exact soundOut_next (sound_senseTemp hu)
  case h_11 r _ =>
    have hu : Sound { s with turns := r } := h
    exact soundOut_next (sound_readStatus hu)

/-- Settles O60: the invariant is on memory, version words and dies alone, and each operation over the state that an instruction, an
event or a turn is made of keeps it. -/
theorem invStep : Obligations.InvStep := by
  unfold Obligations.InvStep
  intro s t h hstep
  exact soundOut_stepTurn (sound_settle (sound_rails h)) t hstep

end Sys2Proof.Machine
end

section
/-! Words and their fields, and what the decoder answers (R131, R134, R135, R139, R294, R295). -/

namespace Sys2Proof

open BitVec (extractLsb'_append_extractLsb'_eq_extractLsb' extractLsb'_eq_self ofNat_toNat setWidth_eq)

/-! ### A word is what its own fields make up again -/

/-- A bit of a word is the field of width 1 at its place. -/
theorem bit1_getLsbD {n : Nat} (w : BitVec n) (k : Nat) : bit1 (w.getLsbD k) = w.extractLsb' k 1 := by
  apply BitVec.eq_of_getLsbD_eq
  intro i hi
  obtain rfl : i = 0 := by omega
  rw [bit1_zero]
  simp

theorem wordR_fields {w : W32} {b : Bool} (h : isTwin w = b) : wordR (bit1 b) (opcodeOf w) (frOf w) = w := by
  simp only [wordR, ← h, isTwin, opcodeOf, frOf, bit1_getLsbD, ofNat_toNat, setWidth_eq,
    extractLsb'_append_extractLsb'_eq_extractLsb']
  exact extractLsb'_eq_self

theorem wordI_fields {w : W32} {b : Bool} (h : isTwin w = b) : wordI (bit1 b) (opcodeOf w) (fiOf w) = w := by
  simp only [wordI, ← h, isTwin, opcodeOf, fiOf, bit1_getLsbD, ofNat_toNat, setWidth_eq,
    extractLsb'_append_extractLsb'_eq_extractLsb']
  exact extractLsb'_eq_self

/-- Format B has no twins: bit X of its words is 0. -/
theorem wordB_fields {w : W32} (h : isTwin w = false) : wordB (opcodeOf w) (fbOf w) = w := by
  have hx : (0 : BitVec 1) = w.extractLsb' 30 1 := by rw [← bit1_getLsbD, ← isTwin, h]; rfl
  simp only [wordB, hx, opcodeOf, fbOf, bit1_getLsbD, ofNat_toNat, setWidth_eq,
    extractLsb'_append_extractLsb'_eq_extractLsb']
  exact extractLsb'_eq_self

theorem wordM_fields (x : W32) : wordM (modOf x) = x := by
  simp only [wordM, modOf, bit1_getLsbD, extractLsb'_append_extractLsb'_eq_extractLsb']
  exact extractLsb'_eq_self

/-- The opcode of a shroud word, as the field it is (R294). -/
theorem ofNat_shroudOp (w : W32) : BitVec.ofNat 5 (w.extractLsb' 27 5).toNat = w.extractLsb' 27 5 := by
  rw [ofNat_toNat, setWidth_eq]

theorem wordSR_fields (w : W32) :
    BitVec.ofNat 5 (w.extractLsb' 27 5).toNat ++ (srOf w).d ++ (srOf w).a ++ (srOf w).b ++ (srOf w).f = w := by
  simp only [ofNat_shroudOp, srOf, extractLsb'_append_extractLsb'_eq_extractLsb']
  exact extractLsb'_eq_self
theorem wordSI_fields (w : W32) :
    BitVec.ofNat 5 (w.extractLsb' 27 5).toNat ++ (siOf w).d ++ (siOf w).a ++ (siOf w).imm = w := by
  simp only [ofNat_shroudOp, siOf, extractLsb'_append_extractLsb'_eq_extractLsb']
  exact extractLsb'_eq_self
theorem wordSF_fields (w : W32) :
    BitVec.ofNat 5 (w.extractLsb' 27 5).toNat ++ (sfOf w).d ++ (sfOf w).a ++ (sfOf w).fn ++ (sfOf w).imm = w := by
  simp only [ofNat_shroudOp, sfOf, extractLsb'_append_extractLsb'_eq_extractLsb']
  exact extractLsb'_eq_self
theorem wordSB_fields (w : W32) :
    BitVec.ofNat 5 (w.extractLsb' 27 5).toNat ++ (sbOf w).a ++ (sbOf w).z ++ (sbOf w).off = w := by
  simp only [ofNat_shroudOp, sbOf, extractLsb'_append_extractLsb'_eq_extractLsb']
  exact extractLsb'_eq_self

/-! ### The decoder answers what its tables hold, when that is well formed -/

theorem wellFormed_iff {i : Instr} : wellFormed i = true ↔ check i = none := Option.isNone_iff_eq_none

/-- What the decoder makes of an instruction that its tables hold: the instruction, or what it is rejected for. -/
def checked (i : Instr) : Except DecodeError Instr :=
  match check i with
  | some e => .error e
  | none => .ok i

theorem checked_eq_ok {i j : Instr} : checked j = .ok i ↔ j = i ∧ wellFormed i = true := by
  rw [wellFormed_iff, checked]
  split
  · next e hj => exact ⟨fun h => (nomatch h), fun ⟨h, hi⟩ => by rw [h, hi] at hj; cases hj⟩
  · next hj => exact ⟨fun h => by cases h; exact ⟨rfl, hj⟩, fun ⟨h, _⟩ => by rw [h]⟩

theorem decodeWord_base {w : W32} {x : Option W32} {i : Instr} (hw : isTwin w = false) :
    decodeWord w x = .ok i ↔ baseInstr (opcodeOf w) w = some i ∧ wellFormed i = true := by
  cases hb : baseInstr (opcodeOf w) w with
  | none => simp [decodeWord, hw, hb]
  | some j =>
    have hd : decodeWord w x = checked j := by
      simp only [decodeWord, hw, hb]
      rfl
    rw [hd, checked_eq_ok, Option.some.injEq]

/-- A twin's opcode is looked up before its extension word is read. -/
theorem decodeWord_twin {w : W32} {x : Option W32} {i : Instr} (hw : isTwin w = true) :
    decodeWord w x = .ok i ↔ (∃ j, twinInstr (opcodeOf w) w 0 = some j) ∧
      ∃ y, x = some y ∧ twinInstr (opcodeOf w) w y = some i ∧ wellFormed i = true := by
  cases h0 : twinInstr (opcodeOf w) w 0 with
  | none => simp only [decodeWord, hw, h0]; simp
  | some k =>
    cases x with
    | none => simp only [decodeWord, hw, h0]; simp
    | some y =>
      cases hy : twinInstr (opcodeOf w) w y with
      | none => simp only [decodeWord, hw, h0, hy]; simp [hy]
      | some j =>
        have hd : decodeWord w (some y) = checked j := by
          simp only [decodeWord, hw, h0, hy]
          rfl
        rw [hd, checked_eq_ok]
        simp [hy]

theorem decodeShroud_eq_ok {w : W32} {i : Instr} :
    decodeShroud w = .ok i ↔ look (w.extractLsb' 27 5).toNat (shroudRow w) = some i ∧ wellFormed i = true := by
  cases hl : look (w.extractLsb' 27 5).toNat (shroudRow w) with
  | none => simp only [decodeShroud, hl]; simp
  | some j =>
    have hd : decodeShroud w = checked j := by
      simp only [decodeShroud, hl]
      rfl
    rw [hd, checked_eq_ok, Option.some.injEq]

end Sys2Proof
end

section
/-! Decoding what was encoded (R131, R134, R135, R137, R138, R294). -/

namespace Sys2Proof.Laws

/-- Every instruction is found at the words that encode it, by the lemma of its format. -/
theorem found (i : Instr) : Found.Statement i := by
  cases i with
  | nop f | jmpi f | calli f | ret f | exit f | yield f | spawn f | rejn f | rejnCmt f | bar f | bara f | barw f | clset f
  | iadd f | isub f | imul f | imulh f | imad f | imadw f | imin f | imax f | iabs f | ineg f | idiv f | irem f | isad f
  | isetp f | isel f | lea f | shl f | shr f | sar f | rotl f | iand f | ior f | ixor f | inot f | bfe f | bfi f | popc f
  | clz f | brev f | prmt f | mov f | movrel f | movrw f | pand f | por f | pxor f | pnot f | ptov f | vtop f | fadd f | fsub f
  | fmul f | ffma f | fmin f | fmax f | fabs f | fneg f | fsetp f | fclass f | frcp f | frsq f | fsqrt f | fdiv f | fexp2 f
  | flog2 f | ftanh f | fsin f | fcos f | fsigm f | ferf f | frnd f | fscale f | hadd2 f | hsub2 f | hmul2 f | hfma2 f | hmin2 f
  | hmax2 f | habs2 f | hsetp2 f | hdot2 f | htanh2 f | hrcp2 f | cvtf f | cvti f | cvtif f | cvtii f | pack8 f | unpk8 f
  | pack4 f | unpk4 f | packds f | unpkds f | bscale f | cvt2 f | shfl f | shflx f | vote f | ballot f | ffs f | gred f
  | gscan f | bcast f | gmatch f | gcount f | wbind f | wunb f | wpos f | dload f | dkey f | dpos f | dget f | dset f | dskip f
  | dfork f | rand f | dinfo f | randn f | dpeek f | ld f | st f | lds f | sts f | ldo f | ldv f | stt f | pref f | lda f
  | str f | fence f | atomAdd f | atomFadd f | atomMin f | atomMax f | atomAnd f | atomOr f | atomXor f | atomXchg f | atomCas f
  | atomInc f | atomDec f | atomHadd2 f | atomsAdd f | atomsCas f | atomsXchg f | copy f | copys f | copym f | copyr f
  | seminc f | semwait f | semset f | semrd f | tgpost f | tgwait f | tginit f | tglink f | cpst f | mma f | mmaq f | mmas f
  | join f | pcfg f | pins f | plup f | pcnt f | prd f | pdrn f | pclr f | pdel f | norm f | smrg f | spick f | hpush f
  | htake f | hbud f | hdel f | hpeek f | hlen f | rmask f | tret f | trrd f | cycrd f | perfrd f | seqbind f | seqrd f
  | privrd f | privwr f | tlbinv f | ctxsw f | cachefl f | poisclr f | halt f | evpost f =>
    exact found_r (fun _ => rfl) (by decide) (fun _ => rfl) f
  | bincfg f | waitf f | trap f | svc f | movi f | movh f | winb f | srd f =>
    exact found_i (fun _ => rfl) (by decide) (fun _ => rfl) f
  | bra f | call f =>
    exact found_b (fun _ => rfl) (by decide) (fun _ => rfl) f
  | iaddTwin f m | isubTwin f m | imulTwin f m | imulhTwin f m | imadTwin f m | imadwTwin f m | iminTwin f m | imaxTwin f m
  | iabsTwin f m | inegTwin f m | idivTwin f m | iremTwin f m | isadTwin f m | isetpTwin f m | iselTwin f m | leaTwin f m
  | shlTwin f m | shrTwin f m | sarTwin f m | rotlTwin f m | iandTwin f m | iorTwin f m | ixorTwin f m | inotTwin f m
  | bfeTwin f m | bfiTwin f m | popcTwin f m | clzTwin f m | brevTwin f m | prmtTwin f m | movTwin f m | faddTwin f m
  | fsubTwin f m | fmulTwin f m | ffmaTwin f m | fminTwin f m | fmaxTwin f m | fabsTwin f m | fnegTwin f m | fsetpTwin f m
  | fclassTwin f m | frcpTwin f m | frsqTwin f m | fsqrtTwin f m | fdivTwin f m | fexp2Twin f m | flog2Twin f m | ftanhTwin f m
  | fsinTwin f m | fcosTwin f m | fsigmTwin f m | ferfTwin f m | frndTwin f m | fscaleTwin f m | hadd2Twin f m | hsub2Twin f m
  | hmul2Twin f m | hfma2Twin f m | hmin2Twin f m | hmax2Twin f m | habs2Twin f m | hsetp2Twin f m | hdot2Twin f m
  | htanh2Twin f m | hrcp2Twin f m | cvtfTwin f m | cvtiTwin f m | cvtifTwin f m | cvtiiTwin f m | pack8Twin f m | unpk8Twin f m
  | pack4Twin f m | unpk4Twin f m | packdsTwin f m | unpkdsTwin f m | bscaleTwin f m | cvt2Twin f m | shflTwin f m
  | shflxTwin f m | voteTwin f m | ballotTwin f m | ffsTwin f m | gredTwin f m | gscanTwin f m | bcastTwin f m | gmatchTwin f m
  | gcountTwin f m | wbindTwin f m | wunbTwin f m | wposTwin f m | dloadTwin f m | dkeyTwin f m | dposTwin f m | dgetTwin f m
  | dsetTwin f m | dskipTwin f m | dforkTwin f m | randTwin f m | dinfoTwin f m | randnTwin f m | dpeekTwin f m | ldTwin f m
  | stTwin f m | ldsTwin f m | stsTwin f m | ldoTwin f m | ldvTwin f m | sttTwin f m | prefTwin f m | ldaTwin f m | strTwin f m
  | fenceTwin f m | atomAddTwin f m | atomFaddTwin f m | atomMinTwin f m | atomMaxTwin f m | atomAndTwin f m | atomOrTwin f m
  | atomXorTwin f m | atomXchgTwin f m | atomCasTwin f m | atomIncTwin f m | atomDecTwin f m | atomHadd2Twin f m
  | atomsAddTwin f m | atomsCasTwin f m | atomsXchgTwin f m | copyTwin f m | copysTwin f m | copymTwin f m | copyrTwin f m
  | semincTwin f m | semwaitTwin f m | semsetTwin f m | semrdTwin f m | tgpostTwin f m | tgwaitTwin f m | tginitTwin f m
  | tglinkTwin f m | cpstTwin f m | mmaTwin f m | mmaqTwin f m | mmasTwin f m | joinTwin f m | pcfgTwin f m | pinsTwin f m
  | plupTwin f m | pcntTwin f m | prdTwin f m | pdrnTwin f m | pclrTwin f m | pdelTwin f m | normTwin f m | smrgTwin f m
  | spickTwin f m | hpushTwin f m | htakeTwin f m | hbudTwin f m | hdelTwin f m | hpeekTwin f m | hlenTwin f m | rmaskTwin f m =>
    exact found_t (fun _ _ => rfl) (by decide) (fun _ _ => rfl) f m
  | send f | salu f | sfence f | ssem f | skey f | vld f | vst f | valu f | vfma f | vsqrt f | vdiv f | vbcast f | vred f
  | vcmp f | vsel f | vspk f =>
    exact found_sr (fun _ => rfl) (by decide) (fun _ => rfl) f
  | smovi f | sld f | sst f =>
    exact found_si (fun _ => rfl) (by decide) (fun _ => rfl) f
  | salui f =>
    exact found_sf (fun _ => rfl) (by decide) (fun _ => rfl) f
  | sjmp f | sbrz f | sbrnz f | sloop f =>
    exact found_sb (fun _ => rfl) (by decide) (fun _ => rfl) f
  | moviLiteral f w => exact found_literal f w
  | brcT k f => exact found_brcT k f
  | brcF k f => exact found_brcF k f
  | bre n k f => exact found_bre n k f
  | _ => rfl

end Sys2Proof.Laws

namespace Sys2Proof

theorem isEvent_of_isCore {i : Instr} (h : isCore i = true) : isEvent i = false := by
  cases hv : view i <;> simp_all [isCore, isEvent]

/-- Decoding the words of a well-formed core instruction gives it back. -/
theorem decodeWords_encode {i : Instr} (hw : wellFormed i = true) (hc : isCore i = true) : decodeWords (encode i) = .ok i := by
  have h := Laws.found i
  unfold Laws.Found.Statement at h
  split at h
  · rw [isEvent_of_isCore hc] at h
    cases h
  · next w he =>
    obtain ⟨-, ht, hb⟩ | ⟨hn, -⟩ := h
    · rw [he]
      exact (decodeWord_base (x := none) ht).2 ⟨hb, hw⟩
    · rw [hc] at hn
      cases hn
  · next w x he =>
    obtain ⟨-, ht, hx, h0⟩ := h
    rw [he]
    exact (decodeWord_twin ht).2 ⟨h0, x, rfl, hx, hw⟩
  · cases h

/-- A well-formed shroud instruction is one word, which the shroud's decoder reads back. -/
theorem decodeShroud_encode {i : Instr} (hw : wellFormed i = true) (hc : isCore i = false) (he : isEvent i = false) :
    ∃ w, encode i = [w] ∧ decodeShroud w = .ok i := by
  have h := Laws.found i
  unfold Laws.Found.Statement at h
  split at h
  · rw [he] at h
    cases h
  · next w hwd =>
    obtain ⟨hn, -⟩ | ⟨-, hl⟩ := h
    · rw [hc] at hn
      cases hn
    · exact ⟨w, hwd, decodeShroud_eq_ok.2 ⟨hl, hw⟩⟩
  · rw [hc] at h
    cases h.1
  · cases h

/-- Settles O57: every instruction is found at the words that encode it, and the decoder answers what its tables hold. -/
theorem roundTrip : Obligations.RoundTrip :=
  ⟨fun _ => decodeWords_encode, fun _ => decodeShroud_encode⟩

end Sys2Proof
end

section
/-! Encoding what was decoded (R131, R134, R135, R137-R139, R294, R295): the fields that the tables read from a word make it up. -/

namespace Sys2Proof

/-! ### What the tables hold -/

/-- What the entry of a key in a table is, given what all its entries are. -/
theorem look_holds {α : Type} {P : Nat → α → Prop} {l : List (Nat × α)} (hl : ∀ e ∈ l, P e.1 e.2) {k : Nat} {x : α}
    (h : look k l = some x) : P k x := by
  induction l with
  | nil => cases h
  | cons e l ih =>
    obtain ⟨j, y⟩ := e
    rw [look] at h
    split at h
    · next hk =>
      cases h
      exact hk ▸ hl _ List.mem_cons_self
    · exact ih (fun e he => hl e (List.mem_cons_of_mem _ he)) h

/-- How the instruction of a base opcode is read from its word: in format I14, B or R (R131, R137). -/
def baseView (w : W32) (op : Nat) : View :=
  if op ∈ [0x009, 0x010, 0x011, 0x012, 0x061, 0x062, 0x065, 0x066] then .i op (fiOf w)
  else if op = 0x001 ∨ op = 0x003 ∨ op / 32 = 1 then .b op (fbOf w)
  else .r op (frOf w)

/-- How the twin of an opcode is read from its two words (R134, R138). -/
def twinView (w x : W32) (op : Nat) : View :=
  if op = 0x061 then .literal (fiOf w) x else .twin op (frOf w) (modOf x)

/-- How the shroud instruction of an opcode is read from its word (R294). -/
def shroudView (w : W32) (op : Nat) : View :=
  if op ∈ [1, 2, 3, 4] then .sb op (sbOf w)
  else if op = 6 then .sf op (sfOf w)
  else if op ∈ [7, 8, 9] then .si op (siOf w)
  else .sr op (srOf w)

/-- The entries of row n of a table, of 32 opcodes, are read as `read` says. -/
def RowReads (read : Nat → View) (n : Nat) (row : List (Nat × Instr)) : Prop :=
  row.map (fun e => view e.2) = (row.map Prod.fst).map (fun k => read (32 * n + k))

theorem look_row {read : Nat → View} {n op : Nat} {row : List (Nat × Instr)} {i : Instr} (h : look (op % 32) row = some i)
    (hn : op / 32 = n) (hr : RowReads read n row) : view i = read op := by
  have e : 32 * n + op % 32 = op := by omega
  rw [RowReads, List.map_map, List.map_inj_left] at hr
  exact e ▸ look_holds (P := fun k i => view i = read (32 * n + k)) hr h

/-- The branches of row 1 carry their predicate or end flag in the opcode (R137). -/
theorem branchRow_view {op : Nat} {w : W32} {i : Instr} (h : branchRow (op % 32) w = some i) (hn : op / 32 = 1) :
    view i = baseView w op := by
  have hv : baseView w op = .b op (fbOf w) := by
    have hi : op ∉ [0x009, 0x010, 0x011, 0x012, 0x061, 0x062, 0x065, 0x066] := by
      intro ho
      simp only [List.mem_cons, List.not_mem_nil, or_false] at ho
      omega
    rw [baseView, if_neg hi, if_pos (.inr (.inr hn))]
  rw [hv]
  unfold branchRow at h
  split at h
  case' isFalse => split at h
  all_goals
    cases h
    simp only [view, BitVec.toNat_ofNat, View.b.injEq, and_true]
    omega

theorem baseInstr_view {op : Nat} {w : W32} {i : Instr} (h : baseInstr op w = some i) : view i = baseView w op := by
  unfold baseInstr at h
  split at h
  case h_2 hn => exact branchRow_view h hn
  case h_13 => cases h
  all_goals
    next hn =>
      refine look_row h hn ?_
      simp only [RowReads, baseRow00, baseRow02, baseRow03, baseRow04, baseRow05, baseRow06, baseRow07, baseRow08, baseRow09,
        baseRow0A, baseRow0B, List.map]
      rfl

theorem twinInstr_view {op : Nat} {w x : W32} {i : Instr} (h : twinInstr op w x = some i) : view i = twinView w x op := by
  unfold twinInstr at h
  split at h
  case h_10 => cases h
  all_goals
    next hn => exact look_row h hn rfl

theorem shroudRow_view {op : Nat} {w : W32} {i : Instr} (h : look op (shroudRow w) = some i) : view i = shroudView w op :=
  look_holds (P := fun k i => view i = shroudView w k)
    (List.map_inj_left.1 (rfl : (shroudRow w).map (fun e => view e.2) = (shroudRow w).map (fun e => shroudView w e.1))) h

/-! ### Encoding what was read -/

theorem encode_of_baseView {w : W32} {i : Instr} (hw : isTwin w = false) (h : view i = baseView w (opcodeOf w)) :
    encode i = [w] ∧ isCore i = true := by
  have hr : wordR 0 (opcodeOf w) (frOf w) = w := wordR_fields (b := false) hw
  have hi : wordI 0 (opcodeOf w) (fiOf w) = w := wordI_fields (b := false) hw
  unfold baseView at h
  split at h
  · simp only [encode, isCore, h, hi, and_self]
  · split at h
    · simp only [encode, isCore, h, wordB_fields hw, and_self]
    · simp only [encode, isCore, h, hr, and_self]

theorem encode_of_twinView {w x : W32} {i : Instr} (hw : isTwin w = true) (h : view i = twinView w x (opcodeOf w)) :
    encode i = [w, x] ∧ isCore i = true := by
  have hr : wordR 1 (opcodeOf w) (frOf w) = w := wordR_fields (b := true) hw
  have hi : wordI 1 (opcodeOf w) (fiOf w) = w := wordI_fields (b := true) hw
  unfold twinView at h
  split at h
  · next ho => simp only [encode, isCore, h, ← ho, hi, and_self]
  · simp only [encode, isCore, h, hr, wordM_fields, and_self]

theorem encode_of_shroudView {w : W32} {i : Instr} (h : view i = shroudView w (w.extractLsb' 27 5).toNat) :
    encode i = [w] ∧ isCore i = false ∧ isEvent i = false := by
  unfold shroudView at h
  split at h
  · simp only [encode, isCore, isEvent, h, wordSB_fields, and_self]
  · split at h
    · simp only [encode, isCore, isEvent, h, wordSF_fields, and_self]
    · split at h
      · simp only [encode, isCore, isEvent, h, wordSI_fields, and_self]
      · simp only [encode, isCore, isEvent, h, wordSR_fields, and_self]

/-- Settles O58: what the tables hold has the fields of the word it was read from, and these make up the word. -/
theorem decodedIsWellFormed : Obligations.DecodedIsWellFormed := by
  refine ⟨fun w x i h => ?_, fun w i h => ?_⟩
  · cases hw : isTwin w with
    | false =>
      obtain ⟨hb, hwf⟩ := (decodeWord_base hw).1 h
      obtain ⟨he, hc⟩ := encode_of_baseView hw (baseInstr_view hb)
      exact ⟨hwf, hc, he⟩
    | true =>
      obtain ⟨-, y, rfl, ht, hwf⟩ := (decodeWord_twin hw).1 h
      obtain ⟨he, hc⟩ := encode_of_twinView hw (twinInstr_view ht)
      exact ⟨hwf, hc, he⟩
  · obtain ⟨hl, hwf⟩ := decodeShroud_eq_ok.1 h
    obtain ⟨he, hc, hev⟩ := encode_of_shroudView (shroudRow_view hl)
    exact ⟨hwf, hc, hev, he⟩

end Sys2Proof
end

section
/-! The checks of a core instruction before its own meaning (R123, R130, R139, R140): every core instruction makes them on the entry
of its opcode, and what fails them is taken by its whole run. -/

namespace Sys2Proof.Machine

/-! ### The meaning of every core instruction -/

/-- What an instruction of this view does is the run of some body behind the checks of its format. -/
def RunsBody (i : Instr) (s : State) : View → Prop
  | .r op f => ∃ body, exec i s = coreR op f s body
  | .i op f => ∃ body, exec i s = coreI op f s body
  | .b op f => ∃ body, exec i s = coreB op f s body
  | .twin op f m => ∃ body, exec i s = coreT op f m s body
  | .literal f _ => ∃ body, exec i s = withEntry 0x061 (fun e =>
      withRun s 0x261 true e (baseMod e) { u := f.u, d := f.d, a := 0, b := 0 } (fieldOk e (baseMod e) e.d f.d.toNat && f.imm == 0) body)
  | _ => True

/-- Each core instruction's meaning is a body behind the checks of its format; events and shroud instructions have no such checks. -/
theorem exec_runsBody (i : Instr) (s : State) : RunsBody i s (view i) := by
  cases i with
  | clauseIssue _ _ | canvasGrant _ | halyardCycle | canvasClaim _ | intervalBoundary _ | vmailWrite _ _ | voltageMoveDone _
  | halyardCtlWrite _ _ | binTimerExpiry _ _ | binEntry _ | launchEnd _ | loadComplete _ _ | longOpResult _ | writePerform _ _
  | atomicPerform _ | engineLineAcquire _ | copyIssue _ | copyComplete _ | mmaComplete _ | joinComplete _ | normComplete _
  | pdrnComplete _ | cmtRoundClose _ _ | arenaBlockNotice | pageFaultResolve _ | pageWalk _ | preempt _ _ | placementPass _
  | drainStart | shroudDispatchDeliver _ | shroudRoutineStart _ _ | svcEcho _ | svcNote _ | svcAbortSelf _ | openVi _ | closeVi _
  | negotiate _ | createCtx _ | destroyCtx _ | mapWindow _ | unmapWindow _ | loadObject _ | unload _ | launch _ | abort _
  | unpark _ | postGraph _ | queryContext _ | queryLaunch _ | queryGrant _ | attest _ | subscribe _ | assignHeap _ | releaseHeap _
  | addQuota _ | setArenaMax _ | writeTap _ | writeSteer _ | clearTrip _ | writePaths _ | writePkeys _ | rmaPut _ | rmaGet _
  | rmaAtomic _ | paceReceive _ _ | linkLoss _ | linkRestore _ | powerOn _ | firstStage _ _ | malukStage | fullReset
  | thermalThrottle _ _ | thermalRelease _ _ | thermalShutdown _ | patrolScrub _ _ | errorCounterPoll | send f | sjmp f | sbrz f
  | sbrnz f | sloop f | salu f | salui f | smovi f | sld f | sst f | sfence f | ssem f | skey f | vld f | vst f | valu f | vfma f
  | vsqrt f | vdiv f | vbcast f | vred f | vcmp f | vsel f | vspk f | sessionEndpointFails _ | walkEnd _ | svcOtherService _
  | queryOtherSubject _ | malformedRequest _ | coreRestart _ | malukHeapPush _ _ | packetRetransmit _ _ => trivial
  | _ => exact ⟨_, rfl⟩

theorem runCx_opcode {s : State} {op : Nat} {ext : Bool} {e : Entry} {m : Mod} {f : FR} {cx : Cx}
    (h : runCx s op ext e m f = some cx) : cx.opcode = op := by
  unfold runCx at h
  split at h
  · split at h
    · cases h
    · split at h
      · split at h
        · cases h
          rfl
        · cases h
      · cases h
  · cases h

/-! ### Legal fields are what makes an instruction well formed -/

theorem isNone_ite {α : Type} {b : Bool} {x : α} : (if b then none else some x : Option α).isNone = b := by cases b <;> rfl

theorem wellFormed_r {i : Instr} {op : Nat} {f : FR} {e : Entry} (hv : view i = .r op f) (he : entryOf op = some e) :
    wellFormed i = fieldsOk e (baseMod e) f := by
  simp only [wellFormed, check, hv, he, isNone_ite]

theorem wellFormed_i {i : Instr} {op : Nat} {f : FI} {e : Entry} (hv : view i = .i op f) (he : entryOf op = some e) :
    wellFormed i = ((op == 0x066 || fieldOk e (baseMod e) e.d f.d.toNat) && immOk op f) := by
  simp only [wellFormed, check, hv, he, isNone_ite]

theorem wellFormed_b {i : Instr} {op : Nat} {f : FB} {e : Entry} (hv : view i = .b op f) (he : entryOf op = some e) :
    wellFormed i = true := by
  simp only [wellFormed, check, hv, he, Option.isNone_none]

theorem wellFormed_twin {i : Instr} {op : Nat} {f : FR} {m : Mod} {e : Entry} (hv : view i = .twin op f m)
    (he : entryOf op = some e) : wellFormed i = (modOk e f.b m && fieldsOk e m f) := by
  simp only [wellFormed, check, hv, he]
  cases modOk e f.b m <;> simp [isNone_ite]

/-- MOVI's literal form has a legal D and a zero immediate, whichever of the two is asked first. -/
theorem wellFormed_literal {i : Instr} {f : FI} {w : W32} {e : Entry} (hv : view i = .literal f w) (he : entryOf 0x061 = some e) :
    wellFormed i = (fieldOk e (baseMod e) e.d f.d.toNat && f.imm == 0) := by
  obtain rfl : { d := .dst .w32 } = e := Option.some.inj he
  simp only [wellFormed, check, hv, isNone_ite, fieldOk, wide, pairOk]
  simp [Bool.and_comm]

/-- A core instruction makes its checks on its form, with the legality of its fields as one of them. -/
theorem exec_of_coreForm {i : Instr} {c : CoreForm} (h : coreForm i = some c) (s : State) :
    ∃ body, exec i s = withRun s c.op c.ext c.e c.m c.f (wellFormed i) body := by
  have hx := exec_runsBody i s
  unfold coreForm at h
  cases hv : view i <;> simp only [hv, RunsBody, Option.map_eq_some_iff, reduceCtorEq] at h hx
  all_goals
    obtain ⟨e, he, rfl⟩ := h
    obtain ⟨body, hx⟩ := hx
    refine ⟨body, hx.trans ?_⟩
  case r => simp only [coreR, withEntry, he, wellFormed_r hv he]
  case i => simp only [coreI, withEntry, he, wellFormed_i hv he]
  case b => simp only [coreB, withEntry, he, wellFormed_b hv he]
  case twin => simp only [coreT, withEntry, he, wellFormed_twin hv he]
  case literal => simp only [withEntry, he, wellFormed_literal hv he]

/-! ### The decode trap -/

/-- An illegal field, a place in the clause that the instruction may not have, or a missing feature (R139, R140). -/
def Misplaced (cx : Cx) (legal : Bool) (feats : List Nat) : Prop :=
  legal = false ∨ (cx.e.last = true ∧ cx.fl.slot + cx.slots ≠ hLen cx.fl.w0) ∨ hLen cx.fl.w0 < cx.fl.slot + cx.slots
    ∨ ∃ k ∈ cx.e.feat :: feats, cx.granted k = false

/-- The first question of the decode trap. -/
theorem misplaced_iff {cx : Cx} {legal : Bool} {feats : List Nat} :
    (!legal || (cx.e.last && !decide (cx.fl.slot + cx.slots = hLen cx.fl.w0)) || decide (hLen cx.fl.w0 < cx.fl.slot + cx.slots)
      || (cx.e.feat :: feats).any (fun k => !cx.granted k)) = true ↔ Misplaced cx legal feats := by
  simp [Misplaced, or_assoc]

theorem decodeTrap_misplaced {cx : Cx} {legal : Bool} {feats : List Nat} (h : Misplaced cx legal feats) :
    decodeTrap cx legal feats = some { code := cILLEGAL } := if_pos (misplaced_iff.2 h)

theorem decodeTrap_placed {cx : Cx} {legal : Bool} {feats : List Nat} (h : ¬ Misplaced cx legal feats) :
    decodeTrap cx legal feats =
      if cx.e.priv && !cx.c.priv then some { code := cPRIV }
      else if cx.isLast && !noFall (cx.opcode % 512) && !cx.hasNext then some { code := cTARGET }
      else none := if_neg (mt misplaced_iff.1 h)

theorem withRun_decodeTrap {s : State} {op : Nat} {ext legal : Bool} {e : Entry} {m : Mod} {f : FR} {cx : Cx} {t : Trap}
    {body : Cx → State} (hr : runCx s op ext e m f = some cx) (hd : decodeTrap cx legal (featsOf (op % 512) f.b m) = some t) :
    withRun s op ext e m f legal body = .next (trapWhole s cx cx.uni t) := by
  simp only [withRun, hr, hd]

theorem withRun_canvasTrap {s : State} {op : Nat} {ext legal : Bool} {e : Entry} {m : Mod} {f : FR} {cx : Cx} {t : Trap}
    {body : Cx → State} (hr : runCx s op ext e m f = some cx) (hd : decodeTrap cx legal (featsOf (op % 512) f.b m) = none)
    (hp : canvasTrap cx (price (op % 512) (f.b.toNat / 8 % 4 + 1)) = some t) :
    withRun s op ext e m f legal body = .next (trapWhole s cx false t) := by
  simp only [withRun, hr, hd, hp]

/-- Settles O54: every core instruction is its checks and then a body, and the checks ask in the order of the statement. -/
theorem decodeTrapsTaken : Obligations.DecodeTrapsTaken := by
  intro i s c cx hc hr bad past p
  obtain ⟨body, hx⟩ := exec_of_coreForm hc s
  obtain ⟨-, -, -, he, -, -⟩ := runCx_some hr
  have ho := runCx_opcode hr
  have hbad : Misplaced cx (wellFormed i) (featsOf (c.op % 512) c.f.b c.m) ↔ bad := by rw [Misplaced, he]
  have hpast : (cx.isLast && !noFall (cx.opcode % 512) && !cx.hasNext) = true ↔ past := by simp [past, ho, and_assoc]
  rw [hx]
  refine ⟨fun hb => ?_, fun hb hp hu => ?_, fun hb hp hl => ?_, fun hb hp hl hs => ?_⟩
  · exact withRun_decodeTrap hr (decodeTrap_misplaced (hbad.2 hb))
  · refine withRun_decodeTrap hr ((decodeTrap_placed (mt hbad.1 hb)).trans (if_pos ?_))
    rw [he, hp, hu]
    rfl
  · have hpriv : ¬ (cx.e.priv && !cx.c.priv) = true := by simpa [he] using hp
    exact withRun_decodeTrap hr ((decodeTrap_placed (mt hbad.1 hb)).trans ((if_neg hpriv).trans (if_pos (hpast.2 hl))))
  · have hpriv : ¬ (cx.e.priv && !cx.c.priv) = true := by simpa [he] using hp
    exact withRun_canvasTrap hr ((decodeTrap_placed (mt hbad.1 hb)).trans ((if_neg hpriv).trans (if_neg (mt hpast.1 hl)))) (if_pos hs)

end Sys2Proof.Machine
end

section
/-! The words that the spec works out (R131, R133, R134, R135, R137, R294). -/

namespace Sys2Proof.Machine

/-- Settles O56: the decoder is evaluated at each of the words. -/
theorem decodeWords : Obligations.DecodeWords := by
  unfold Obligations.DecodeWords
  and_intros
  all_goals rfl

end Sys2Proof.Machine
end

section
/-! Lane instructions that complete (R52, R57, R63, R156, R157, R174-R185): integer arithmetic, comparisons, shifts, bit fields, moves
and predicates. Each is the lane pipeline of Laws/Lane.lean with its own operands and its own result. -/

namespace Sys2Proof.Machine

/-! ### The run of an instruction -/

section
variable {i : Instr} {op : Nat} {s : State} {cx : Cx}

/-- The run of an instruction of format R executes its fields. -/
theorem runOf_fields {f : FR} (hv : view i = .r op f) (h : runOf i s = some cx) : cx.f = f := by
  obtain ⟨c, hc, hr, -, -, -⟩ := runOf_some h
  obtain ⟨-, -, -, -, -, hf⟩ := runCx_some hr
  simp only [coreForm, hv, Option.map_eq_some_iff] at hc
  obtain ⟨e, -, rfl⟩ := hc
  exact hf

/-- An instruction of format R completes as its body does. -/
theorem run_of_coreR {f : FR} {body : State → Cx → State} {ok : State → Cx → Prop} {t : State → Cx → State}
    (he : ∀ s, exec i s = coreR op f s (body s)) (hv : view i = .r op f)
    (hb : ∀ s cx, cx.f = f → ok s cx → body s cx = t s cx) : RunCompletes i ok t := by
  intro s cx h hok
  rw [he, coreR_next hv h, hb s cx (runOf_fields hv h) hok]

/-- An instruction of format I14 completes as its body does. -/
theorem run_of_coreI {f : FI} {body : State → Cx → State} {ok : State → Cx → Prop} {t : State → Cx → State}
    (he : ∀ s, exec i s = coreI op f s (body s)) (hv : view i = .i op f)
    (hb : ∀ s cx, ok s cx → body s cx = t s cx) : RunCompletes i ok t := by
  intro s cx h hok
  rw [he, coreI_next hv h, hb s cx hok]

/-- A branch completes as its body does. -/
theorem run_of_coreB {f : FB} {body : State → Cx → State} {ok : State → Cx → Prop} {t : State → Cx → State}
    (he : ∀ s, exec i s = coreB op f s (body s)) (hv : view i = .b op f)
    (hb : ∀ s cx, ok s cx → body s cx = t s cx) : RunCompletes i ok t := by
  intro s cx h hok
  rw [he, coreB_next hv h, hb s cx hok]

end

/-! ### From the lane shape to an instruction and its twin -/

section
variable {α : Type} {hasD : Bool} {rd : State → Cx → Nat → Rd α} {fin : Cx → List (Got α) → Got α → Out}

/-- An instruction that runs as the lane pipeline completes, and so does its twin. -/
theorem laneCompletes_withTwin {base : FR → Instr} {twin : FR → Mod → Instr} (f : FR) (m : Mod) (op : Nat)
    (hm : Means base twin op (fun s cx => laneExec s cx hasD (rd s cx) (fin cx))) :
    WithTwin (fun i => LaneCompletes i hasD rd fin) (base f) (twin f m) := by
  obtain ⟨hb, -, ht, -⟩ := hm f m .reset
  exact ⟨lane_of_coreR (fun s => (hm f m s).2.1) hb (fun _ _ => rfl),
    lane_of_coreT (fun s => (hm f m s).2.2.2) ht (fun _ _ => rfl)⟩

/-- The lane pipeline of an instruction that each thread executes, whatever U says. -/
theorem runCompletes_each {i : Instr} {op : Nat} {f : FI}
    (he : ∀ s, exec i s = coreI op f s (fun cx => laneExec s cx.each hasD (rd s cx) (fin cx))) (hv : view i = .i op f) :
    RunCompletes i (fun s cx => LaneOk s cx.each hasD (rd s cx) (fin cx))
      (fun s cx => laneDone s cx.each hasD (rd s cx) (fin cx)) :=
  run_of_coreI he hv (fun _ _ ok => laneExec_done ok)

end

/-! ### Integer arithmetic -/

/-- Settles O1: each entry runs as the lane pipeline (`laneCompletes_withTwin`), and its result is the exact function of the
entry, narrowed. -/
theorem integerArithmeticCompletes : Obligations.IntegerArithmeticCompletes := by
  unfold Obligations.IntegerArithmeticCompletes
  exact ⟨fun f m => laneCompletes_withTwin f m 0x040 (fun _ _ _ => ⟨rfl, rfl, rfl, rfl⟩),  -- IADD
    fun f m => laneCompletes_withTwin f m 0x041 (fun _ _ _ => ⟨rfl, rfl, rfl, rfl⟩),  -- ISUB
    fun f m => laneCompletes_withTwin f m 0x042 (fun _ _ _ => ⟨rfl, rfl, rfl, rfl⟩),  -- IMUL
    fun f m => laneCompletes_withTwin f m 0x043 (fun _ _ _ => ⟨rfl, rfl, rfl, rfl⟩),  -- IMULH
    fun f m => laneCompletes_withTwin f m 0x044 (fun _ _ _ => ⟨rfl, rfl, rfl, rfl⟩),  -- IMAD
    fun f m => laneCompletes_withTwin f m 0x045 (fun _ _ _ => ⟨rfl, rfl, rfl, rfl⟩),  -- IMADW
    fun f m => laneCompletes_withTwin f m 0x046 (fun _ _ _ => ⟨rfl, rfl, rfl, rfl⟩),  -- IMIN
    fun f m => laneCompletes_withTwin f m 0x047 (fun _ _ _ => ⟨rfl, rfl, rfl, rfl⟩),  -- IMAX
    fun f m => laneCompletes_withTwin f m 0x048 (fun _ _ _ => ⟨rfl, rfl, rfl, rfl⟩),  -- IABS
    fun f m => laneCompletes_withTwin f m 0x049 (fun _ _ _ => ⟨rfl, rfl, rfl, rfl⟩),  -- INEG
    fun f m => laneCompletes_withTwin f m 0x04C (fun _ _ _ => ⟨rfl, rfl, rfl, rfl⟩),  -- ISAD
    fun f m => laneCompletes_withTwin f m 0x04A (fun _ _ _ => ⟨rfl, rfl, rfl, rfl⟩),  -- IDIV
    fun f m => laneCompletes_withTwin f m 0x04B (fun _ _ _ => ⟨rfl, rfl, rfl, rfl⟩)⟩  -- IREM

/-! ### Comparison, selection, addresses, shifts, logic and bit fields -/

/-- Settles O2: each entry runs as the lane pipeline (`laneCompletes_withTwin`), and its result is the function of the entry. -/
theorem integerBitsComplete : Obligations.IntegerBitsComplete := by
  unfold Obligations.IntegerBitsComplete
  exact ⟨fun f m => laneCompletes_withTwin f m 0x04D (fun _ _ _ => ⟨rfl, rfl, rfl, rfl⟩),  -- ISETP
    fun f m => laneCompletes_withTwin f m 0x04E (fun _ _ _ => ⟨rfl, rfl, rfl, rfl⟩),  -- ISEL
    fun f m => laneCompletes_withTwin f m 0x04F (fun _ _ _ => ⟨rfl, rfl, rfl, rfl⟩),  -- LEA
    fun f m => laneCompletes_withTwin f m 0x050 (fun _ _ _ => ⟨rfl, rfl, rfl, rfl⟩),  -- SHL
    fun f m => laneCompletes_withTwin f m 0x051 (fun _ _ _ => ⟨rfl, rfl, rfl, rfl⟩),  -- SHR
    fun f m => laneCompletes_withTwin f m 0x052 (fun _ _ _ => ⟨rfl, rfl, rfl, rfl⟩),  -- SAR
    fun f m => laneCompletes_withTwin f m 0x053 (fun _ _ _ => ⟨rfl, rfl, rfl, rfl⟩),  -- ROTL
    fun f m => laneCompletes_withTwin f m 0x054 (fun _ _ _ => ⟨rfl, rfl, rfl, rfl⟩),  -- IAND
    fun f m => laneCompletes_withTwin f m 0x055 (fun _ _ _ => ⟨rfl, rfl, rfl, rfl⟩),  -- IOR
    fun f m => laneCompletes_withTwin f m 0x056 (fun _ _ _ => ⟨rfl, rfl, rfl, rfl⟩),  -- IXOR
    fun f m => laneCompletes_withTwin f m 0x057 (fun _ _ _ => ⟨rfl, rfl, rfl, rfl⟩),  -- INOT
    fun f m => laneCompletes_withTwin f m 0x058 (fun _ _ _ => ⟨rfl, rfl, rfl, rfl⟩),  -- BFE
    fun f m => laneCompletes_withTwin f m 0x059 (fun _ _ _ => ⟨rfl, rfl, rfl, rfl⟩),  -- BFI
    fun f m => laneCompletes_withTwin f m 0x05A (fun _ _ _ => ⟨rfl, rfl, rfl, rfl⟩),  -- POPC
    fun f m => laneCompletes_withTwin f m 0x05B (fun _ _ _ => ⟨rfl, rfl, rfl, rfl⟩),  -- CLZ
    fun f m => laneCompletes_withTwin f m 0x05C (fun _ _ _ => ⟨rfl, rfl, rfl, rfl⟩),  -- BREV
    fun f m => laneCompletes_withTwin f m 0x05D (fun _ _ _ => ⟨rfl, rfl, rfl, rfl⟩)⟩  -- PRMT

/-! ### Moves, special registers and predicates -/

/-- The literal form of MOVI gives each thread its literal (R182). -/
theorem moviLiteral_completes (f : FI) (w : W32) : LiteralCompletes (.moviLiteral f w) w.toNat := by
  intro s cx h ok
  have he : exec (.moviLiteral f w) s = execMoviLiteral f w s := rfl
  rw [he, literal_next h]
  exact congrArg Host.Outcome.next (laneExec_done ok)

/-- MOVRW under U = 1 waits for every thread's register at the index; where none is pending it is the lane pipeline (R63, R182). -/
theorem movrw_completes (f : FR) : RunCompletes (.movrw f)
    (fun s cx => LaneOk s cx false (readRw s cx) movrwOut ∧
      (cx.uni = true → ∀ g ∈ gotOf s cx false (readRw s cx), ∀ t ∈ cx.fl.run, g.val.2 ∉ (thread cx.g t).pend))
    (fun s cx => laneDone s cx false (readRw s cx) movrwOut) := by
  refine run_of_coreR (op := 0x064) (fun _ => rfl) rfl (fun s cx _ ⟨ok, hfree⟩ => ?_)
  rw [← laneExec_done (whole := false) ok]
  dsimp only
  split
  · rename_i hu
    split
    · rename_i g hg
      have hgot : g ∈ gotOf s cx false (readRw s cx) := by
        simp [gotOf, doers, hu, readAll, hg]
      have hany : cx.fl.run.any (fun t => (thread cx.g t).pend.contains g.val.2) = false := by
        simpa using hfree hu g hgot
      rw [hany]
      rfl
    · rfl
  · rfl

/-- Settles O3: the entries are the lane pipeline; MOVI, WINB and SRD as if U were 0 (`runCompletes_each`), MOVRW where no
register that it writes is pending (`movrw_completes`). -/
theorem movesComplete : Obligations.MovesComplete := by
  unfold Obligations.MovesComplete
  exact ⟨fun f m => laneCompletes_withTwin f m 0x060 (fun _ _ _ => ⟨rfl, rfl, rfl, rfl⟩),  -- MOV
    fun f => runCompletes_each (rd := readNone) (fin := fun _ _ _ => out32 (wrapN 32 (sext 14 f.imm.toNat))) (fun _ => rfl) rfl,  -- MOVI
    moviLiteral_completes,
    fun _ => lane_of_coreI (fun _ => rfl) rfl (fun _ _ => rfl),  -- MOVH
    fun _ => lane_of_coreR (fun _ => rfl) rfl (fun _ _ => rfl),  -- MOVREL
    movrw_completes,
    fun f => runCompletes_each (rd := fun _ cx => winbRd cx f) (fin := fun _ => winbOut) (fun _ => rfl) rfl,  -- WINB
    fun f => runCompletes_each (rd := fun _ cx => srdRd cx f) (fin := fun _ => srdOut f) (fun _ => rfl) rfl,  -- SRD
    fun _ => lane_of_coreR (fun _ => rfl) rfl (fun _ _ => rfl),  -- PAND
    fun _ => lane_of_coreR (fun _ => rfl) rfl (fun _ _ => rfl),  -- POR
    fun _ => lane_of_coreR (fun _ => rfl) rfl (fun _ _ => rfl),  -- PXOR
    fun _ => lane_of_coreR (fun _ => rfl) rfl (fun _ _ => rfl),  -- PNOT
    fun _ => lane_of_coreR (fun _ => rfl) rfl (fun _ _ => rfl),  -- PTOV
    fun _ => lane_of_coreR (fun _ => rfl) rfl (fun _ _ => rfl)⟩  -- VTOP

end Sys2Proof.Machine
end

section
/-! Transfers, waits, rejoins and barriers that complete (R158-R172): what the run of each instruction does once its checks have
passed. -/

namespace Sys2Proof.Machine

/-! ### Transfers -/

/-- A branch on a condition of each thread completes (R159). -/
theorem branchCompletes {i : Instr} {op : Nat} {f : FB} {cond : Thread → Bool}
    (he : ∀ s, exec i s = coreB op f s (fun cx => branchRun s cx f cond)) (hv : view i = .b op f) : BranchCompletes i f cond :=
  run_of_coreB he hv (fun _ _ ok => branchRun_done ok)

/-- CALL jumps with the link pair of window registers 0 and 1, each thread by itself, where its target is a header (R161). -/
theorem call_completes (f : FB) : RunCompletes (.call f)
    (fun s cx => isHeader cx.k (branchTarget cx f) = true ∧
      JumpOk s cx.each (some 0) (fun _ => pure (branchTarget cx f).toNat))
    (fun s cx => jumpDone s cx.each (some 0) (fun _ => pure (branchTarget cx f).toNat)) := by
  refine run_of_coreB (op := 0x003) (fun _ => rfl) rfl (fun s cx ok => ?_)
  obtain ⟨hh, hj⟩ := ok
  exact (if_pos hh).trans (jumpRun_done hj)

/-- Settles O10: NOP and YIELD go past their slot; the branches are `branchRun_done`, the jumps, calls and returns
`jumpRun_done`. -/
theorem transfersComplete : Obligations.TransfersComplete := by
  unfold Obligations.TransfersComplete
  exact ⟨fun _ => run_of_coreR (fun _ => rfl) rfl (fun _ _ _ _ => rfl),  -- NOP
    fun _ => run_of_coreR (fun _ => rfl) rfl (fun _ _ _ _ => rfl),  -- YIELD
    fun _ => branchCompletes (fun _ => rfl) rfl,  -- BRA
    fun _ _ => branchCompletes (fun _ => rfl) rfl,  -- BRC.T
    fun _ _ => branchCompletes (fun _ => rfl) rfl,  -- BRC.F
    fun _ _ _ => branchCompletes (fun _ => rfl) rfl,  -- BRE
    fun _ => run_of_coreR (fun _ => rfl) rfl (fun _ _ _ ok => jumpRun_done ok),  -- JMPI
    fun _ => run_of_coreR (fun _ => rfl) rfl (fun _ _ _ ok => jumpRun_done ok),  -- RET
    fun _ => run_of_coreR (fun _ => rfl) rfl (fun _ _ _ ok => jumpRun_done ok),  -- CALLI
    call_completes⟩

/-! ### Exits, spawns, timers, services, traps and waits for flags -/

/-- An instruction of format I14 whose operation goes in flight completes. -/
theorem async_of_coreI {i : Instr} {op : Nat} {f : FI} {body : State → Cx → State} {flag words : Cx → Nat} {hasD : Bool}
    {rd : State → Cx → Nat → Rd Req} (he : ∀ s, exec i s = coreI op f s (body s)) (hv : view i = .i op f)
    (hb : ∀ s cx, body s cx = asyncExec s cx (flag cx) (words cx) hasD (rd s cx)) : AsyncCompletes i flag words hasD rd :=
  run_of_coreI he hv (fun s cx ok => (hb s cx).trans (asyncExec_done ok))

/-- BINCFG whose threads read sets the timer for each of them in turn (R165). -/
theorem bincfg_completes (f : FI) : RunCompletes (.bincfg f) (fun s cx => Reads s cx false (fun t => readD s cx t false))
    (fun s cx =>
      let gs := gotOf s cx false (fun t => readD s cx t false)
      modGroup (gs.foldl (fun s g => setBinTimer (modThread s cx.gid g.tid (fun _ => g.work.th)) cx.g.core f.imm.toNat (g.val % 2 ^ 16))
        (touchAll s cx gs)) cx.gid (fun g => advance g 1)) := by
  refine run_of_coreI (op := 0x009) (fun _ => rfl) rfl (fun s cx ok => ?_)
  obtain ⟨hs, ht⟩ := ok
  simp only [doers] at hs ht
  simp only [hs, ht]
  cases hu : cx.uni <;> simp [gotOf, doers, hu, setTimer, setBinTimer]

/-- Settles O11: EXIT, TRAP and WAITF do what their bodies say; SPAWN and SVC are operations in flight, and BINCFG sets the
timers of the threads that read (`bincfg_completes`). -/
theorem exitSpawnServiceTrapWaitComplete : Obligations.ExitSpawnServiceTrapWaitComplete := by
  unfold Obligations.ExitSpawnServiceTrapWaitComplete
  exact ⟨fun _ => run_of_coreR (fun _ => rfl) rfl (fun _ _ _ _ => rfl),  -- EXIT
    fun _ => async_of_coreR (fun _ => rfl) rfl (fun _ _ => rfl),  -- SPAWN
    bincfg_completes,
    fun _ => async_of_coreI (fun _ => rfl) rfl (fun _ _ => rfl),  -- SVC
    fun _ => run_of_coreI (fun _ => rfl) rfl (fun _ _ _ => rfl),  -- TRAP
    fun _ => run_of_coreI (fun _ => rfl) rfl (fun _ _ _ => rfl)⟩  -- WAITF

/-! ### Rejoins, cleats and barriers -/

/-- A barrier or cleat instruction of a team's group runs its body (R166). -/
theorem teamRun_team {s : State} {cx : Cx} {key index : Nat} {inRange : Bool} {body : Nat → State} (hk : cx.team = some key)
    (hr : inRange = true) : teamRun s cx index inRange body = body key := by
  simp only [teamRun, hk, hr, if_true]

/-- The threads of a run whose signatures do not diverge sign and wait (R36, R37, R167). -/
theorem rejoinRun_done {s : State} {cx : Cx} {key : Nat} {wait : Wait} (hk : cx.team = some key)
    (h : (signAll s cx key cx.f.a.toNat false (some wait) (cx.fl.run.map (fun t => (t, {}, none)))).traps = []) :
    rejoinRun s cx wait = modGroup (signAll s cx key cx.f.a.toNat false (some wait) (cx.fl.run.map (fun t => (t, {}, none)))).s
      cx.gid (fun g => endClause g [] false) := by
  rw [← signRun_done h]
  exact teamRun_team hk rfl

/-- CLSET of a team's group sets the cleat's mask, or its next mask while the open round has a signer (R33, R168). -/
theorem clset_completes (f : FR) (key : Nat) (team : Team) (s : State) (cx : Cx) (g : Got Nat) (h : runOf (.clset f) s = some cx)
    (hk : cx.team = some key) (ht : mfind s.teams key = some team)
    (hg : readOne s cx (fun t => readA s cx t false) false cx.low = .ok g) :
    exec (.clset f) s = .next (modGroup (setCleat s key f.d.toNat
      (let cl := cleatOf team f.d.toNat
       if cl.sig.isSome then { cl with next := some (BitVec.ofNat 32 g.val) } else { cl with mask := BitVec.ofNat 32 g.val }))
      cx.gid (fun g => advance g 1)) := by
  have he : exec (.clset f) s = execClset f s := rfl
  rw [he, execClset, coreR_next rfl h]
  dsimp only
  rw [teamRun_team hk rfl, hg, ht]

/-- Settles O12: in a team's group the rejoins sign (`rejoinRun_done`), the barriers run their bodies in ascending `tid`
(`teamRun_team`), and CLSET sets a mask (`clset_completes`). -/
theorem rejoinsAndBarriersComplete : Obligations.RejoinsAndBarriersComplete := by
  unfold Obligations.RejoinsAndBarriersComplete
  refine ⟨fun f key => run_of_coreR (fun _ => rfl) rfl ?_, fun f key => run_of_coreR (fun _ => rfl) rfl ?_,
    fun f key => run_of_coreR (fun _ => rfl) rfl ?_, fun f key => run_of_coreR (fun _ => rfl) rfl ?_,
    fun f key => run_of_coreR (fun _ => rfl) rfl ?_, clset_completes⟩
  case refine_1 | refine_2 =>
    rintro s cx rfl ⟨hk, h⟩
    exact rejoinRun_done hk h
  case refine_3 | refine_4 | refine_5 =>
    rintro s cx - ⟨hk, hb⟩
    exact teamRun_team hk (decide_eq_true hb)

end Sys2Proof.Machine
end

section
/-! The frame of the transfers (R22, R26, R57, R159-R161, R349): a thread that goes on has only its counter, its link pair, its
handler mode and what its operands move changed; the others of the run have trapped. -/

namespace Sys2Proof.Machine

/-! ### A thread that takes a transfer -/

/-- A thread that has taken a transfer: retired, and out of handler mode or as it was. -/
def Went (al : Allow) (a b : Thread) : Prop := ∃ h, (h = a.handler ∨ h = none) ∧ Retired al { a with handler := h } b

section
variable {al : Allow} {a b : Thread}

theorem went_retired (h : Retired al a b) : Went al a b := ⟨a.handler, .inl rfl, h⟩

theorem went_wb (h : Went al a b) : b.wb = a.wb := by
  obtain ⟨x, -, hr⟩ := h
  exact (retired_wb hr).trans rfl

theorem went_pc (pc : W64) (h : Went al a b) : Went al a { b with pc := pc } := by
  obtain ⟨x, hx, hr⟩ := h
  exact ⟨x, hx, retired_pc pc hr⟩

/-- A taken transfer ends handler mode (R349). -/
theorem went_leaves (h : Went al a b) : Went al a { b with handler := none } := by
  obtain ⟨x, -, heq, hr⟩ := h
  refine ⟨none, .inr rfl, ?_, hr⟩
  rw [heq]

theorem went_putRegs {abs : Nat} {ws : List W32} (h : Went al a b) (hk : ∀ k ∈ rangeFrom abs ws.length, k ∈ al.regs a.wb) :
    Went al a (putRegs b abs ws false) := by
  have hwb := went_wb h
  obtain ⟨x, hx, hr⟩ := h
  exact ⟨x, hx, retired_trans hr (retired_putRegs b abs ws (hwb.symm ▸ hk))⟩

end

/-- What the threads of a run may have become. -/
def TransferRel (al : Allow) (g : Group) (k : Nat) (b : Thread) : Prop := Went al (thread g k) b ∨ Trapped (thread g k) b

theorem transferRel_loose (al : Allow) (g : Group) : Loose (TransferRel al g) g :=
  ⟨fun _ _ h => .inr h, fun i b pc h => h.imp (went_pc pc) (trapped_pc g i b pc)⟩

/-- What they have become once those of a list have trapped: the others may go on. -/
def LeaveRel (al : Allow) (g : Group) (T : List Nat) (k : Nat) (b : Thread) : Prop :=
  (k ∈ T → Trapped (thread g k) b) ∧ (k ∉ T → Went al (thread g k) b)

theorem transferRel_of_leave {al : Allow} {g : Group} {T : List Nat} (k : Nat) (b : Thread) (h : LeaveRel al g T k b) :
    TransferRel al g k b := by
  by_cases hk : k ∈ T
  · exact .inr (h.1 hk)
  · exact .inl (h.2 hk)

/-! ### The steps of a transfer -/

/-- What a transfer leaves as it was: it puts no operation in flight and counts none. -/
abbrev TransferFramed (R : Nat → Thread → Prop) (al : Allow) (s : State) (cx : Cx) (t : State) : Prop :=
  Framed R (fun _ => False) false al (cx.low :: cx.fl.run) cx.gid cx.g s t

/-- The run stands in the state's group. -/
def Stands (s : State) (cx : Cx) : Prop := getGroup s cx.gid = some cx.g ∧ cx.g.flight = some cx.fl

section
variable {al : Allow} {s t : State} {cx : Cx} {T : List Nat}

theorem run_sub (cx : Cx) : cx.fl.run ⊆ cx.low :: cx.fl.run := fun _ hx => List.mem_cons_of_mem _ hx

theorem transfer_start (hs : Stands s cx) : TransferFramed (TransferRel al cx.g) al s cx s :=
  framed_trapped (transferRel_loose al cx.g) (framed_start hs.1 hs.2 (run_sub cx))

theorem transfer_stall (hs : Stands s cx) (b : Bool) : TransferFramed (TransferRel al cx.g) al s cx (stallRun s cx b) :=
  framed_stall (transfer_start hs) b

theorem transfer_trapWhole (hs : Stands s cx) (u : Bool) (tr : Trap) :
    TransferFramed (TransferRel al cx.g) al s cx (trapWhole s cx u tr) :=
  framed_trapWhole (transferRel_loose al cx.g) hs.1 hs.2 (run_sub cx) u tr

/-- Some threads trap, and the others are as they were. -/
theorem leave_traps {α : Type} (hs : Stands s cx) (gs : List (Got α)) (u : Bool) (ts : List (Nat × Trap))
    (hi : ∀ x ∈ ts, x.1 ∈ cx.low :: cx.fl.run) :
    TransferFramed (LeaveRel al cx.g (ts.map (·.1))) al s cx (trapRun (touchAll s cx gs) cx u ts) := by
  obtain ⟨hg, hf⟩ := hs
  have h0 : TransferFramed (LeaveRel al cx.g (ts.map (·.1))) al s cx s :=
    framed_refl hg (fun f e => by rw [hf] at e; cases e; exact run_sub cx)
      (fun _ => ⟨fun _ => rfl, fun _ => went_retired (retired_refl _ _)⟩)
  have h1 := framed_foldl (f := fun s va => countMiss s cx.gid cx.g.core cx.ctx va) (faultVas ts)
    (fun t va _ h => framed_countMiss h _ _ _) _ (framed_touchAll h0 cx rfl gs)
  refine framed_takeTraps h1 _ _ _ _ ts (fun x hx b b' h k => ?_) hi
  have hm : x.1 ∈ ts.map (·.1) := List.mem_map_of_mem hx
  exact ⟨fun _ => trapped_trans (h.1 hm) k, fun hn => absurd hm hn⟩

/-- A thread that has not trapped changes as a transfer may change it. -/
theorem leave_modThread (H : TransferFramed (LeaveRel al cx.g T) al s cx t) {i : Nat} (hi : i ∈ cx.low :: cx.fl.run) (hn : i ∉ T)
    {f : Thread → Thread} (hf : ∀ b, Went al (thread cx.g i) b → Went al (thread cx.g i) (f b)) :
    TransferFramed (LeaveRel al cx.g T) al s cx (modThread t cx.gid i f) :=
  framed_modThread H hi f (fun b h => ⟨fun hm => absurd hm hn, fun hn => hf b (h.2 hn)⟩)

/-- The link pair is among the registers that the transfer may change. -/
def LinkOk (al : Allow) (link : Option Nat) : Prop := ∀ c, link = some c → ∀ wb, ∀ k ∈ rangeFrom (wb + c) 2, k ∈ al.regs wb

theorem leave_putLink {link : Option Nat} (hl : LinkOk al link) (H : TransferFramed (LeaveRel al cx.g T) al s cx t) {i : Nat}
    (hi : i ∈ cx.low :: cx.fl.run) (hn : i ∉ T) : TransferFramed (LeaveRel al cx.g T) al s cx (putLink t cx link i) := by
  cases link with
  | none => exact H
  | some c =>
    refine leave_modThread (f := fun b => putRegs b (b.wb + c) (leWords 2 (nextHeader cx.fl.hdr (hLen cx.fl.w0)).toNat) false)
      H hi hn (fun b h => went_putRegs h ?_)
    rw [leWords_length, went_wb h]
    exact hl c rfl _

/-- The clause ends: each thread's counter is its own. -/
theorem transfer_end (H : TransferFramed (LeaveRel al cx.g T) al s cx t) (pcs : List (Nat × W64)) (back : Bool)
    (hp : ∀ x ∈ pcs, x.1 ∈ cx.fl.run) :
    TransferFramed (TransferRel al cx.g) al s cx (modGroup t cx.gid (fun g => endClause g pcs back)) :=
  framed_end (transferRel_loose al cx.g).2 (framed_mono H transferRel_of_leave) (fun _ => pcs) back
    (fun _ _ _ _ x hx => run_sub cx (hp x hx))

/-- The threads that have not trapped go on at their places. -/
theorem transferRun_framed (H : TransferFramed (LeaveRel al cx.g T) al s cx t) (dest : List (Nat × Option W64))
    (hd : ∀ x ∈ dest, x.1 ∈ cx.fl.run ∧ x.1 ∉ T) : TransferFramed (TransferRel al cx.g) al s cx (transferRun t cx dest) := by
  refine transfer_end (T := T) (framed_foldl dest (fun t x hx H => ?_) t H) _ _ (fun y hy => ?_)
  · split
    · exact leave_modThread H (run_sub cx (hd x hx).1) (hd x hx).2 (fun _ => went_leaves)
    · exact H
  · obtain ⟨x, hx, rfl⟩ := List.mem_map.1 hy
    exact (hd x hx).1

/-! ### Branches -/

/-- A branch: the threads whose place is no header trap, and the others go on (R159). -/
theorem branchRun_framed (f : FB) (cond : Thread → Bool) (hs : Stands s cx) :
    TransferFramed (TransferRel al cx.g) al s cx (branchRun s cx f cond) := by
  unfold branchRun
  extract_lets target takes bad s1
  have h1 := leave_traps (al := al) hs ([] : List (Got Nat)) false ((cx.fl.run.filter bad).map (fun t => (t, { code := cTARGET })))
    (fun x hx => by
      obtain ⟨i, hi, rfl⟩ := List.mem_map.1 hx
      exact run_sub cx (List.mem_filter.1 hi).1)
  refine transferRun_framed h1 _ (fun x hx => ?_)
  obtain ⟨i, hi, rfl⟩ := List.mem_map.1 hx
  obtain ⟨hi, hb⟩ := List.mem_filter.1 hi
  refine ⟨hi, fun hT => ?_⟩
  simp only [List.map_map, List.mem_map, List.mem_filter, Function.comp] at hT
  obtain ⟨j, ⟨-, hj⟩, rfl⟩ := hT
  simp [hj] at hb

/-! ### Jumps, calls and returns -/

theorem rdKeeps_checkLink (c : Nat) : RdKeeps al (checkLink cx c) := by
  refine rdKeeps_bind rdKeeps_get (fun w => ?_)
  dsimp only
  split
  · exact rdKeeps_trap _
  · exact rdKeeps_ite (rdKeeps_stall _) (rdKeeps_pure _)

theorem rdKeeps_jumpRd {link : Option Nat} {target : Nat → Rd Nat} {i : Nat} (h : RdKeeps al (target i)) :
    RdKeeps al (jumpRd cx link target i) := by
  cases link with
  | some c => exact rdKeeps_bind (rdKeeps_checkLink c) (fun _ => h)
  | none => exact rdKeeps_bind (rdKeeps_pure ()) (fun _ => h)

/-- The traps of the other threads' link pairs are theirs. -/
theorem othersLink_traps (cx : Cx) (c : Nat) (ts : List Nat) : ∀ x ∈ (othersLink cx c ts).2, x.1 ∈ ts := by
  induction ts with
  | nil => exact fun _ hx => nomatch hx
  | cons t ts ih =>
    intro x hx
    simp only [othersLink] at hx
    split at hx
    · exact List.mem_cons_of_mem _ (ih x hx)
    · rcases List.mem_cons.1 hx with rfl | hx
      · exact List.mem_cons_self
      · exact List.mem_cons_of_mem _ (ih x hx)
    · exact List.mem_cons_of_mem _ (ih x hx)

/-- Threads that have read and have not trapped have their link pair and stand at their target. -/
theorem leave_jumped {link : Option Nat} (hl : LinkOk al link) (gs : List (Got Nat))
    (hg : ∀ g ∈ gs, g.tid ∈ cx.low :: cx.fl.run ∧ g.tid ∉ T ∧ Moved al (thread cx.g g.tid) g.work.th)
    (H : TransferFramed (LeaveRel al cx.g T) al s cx t) : TransferFramed (LeaveRel al cx.g T) al s cx (jumped t cx link gs) := by
  refine framed_foldl gs (fun t g hm H => ?_) t H
  obtain ⟨hi, hn, hr⟩ := hg g hm
  exact leave_putLink hl (leave_modThread H hi hn (fun _ _ => went_pc _ (went_retired (retired_of_moved hr)))) hi hn

/-- A jump that each thread makes by itself: those without a header as target trap, and the others go on (R26, R160, R161). -/
theorem jumpEach_framed {link : Option Nat} (hs : Stands s cx) (hl : LinkOk al link) {rd : Nat → Rd Nat} (hrd : ∀ i, RdKeeps al (rd i))
    (bad : Nat → Bool) :
    let r := readAll s cx rd false cx.todo
    let go := r.got.filter (fun g => !bad g.val)
    let T := (r.traps ++ (r.got.filter (fun g => bad g.val)).map (fun g => (g.tid, ({ code := cTARGET } : Trap)))).map (·.1)
    TransferFramed (LeaveRel al cx.g T) al s cx (jumpEach s cx link r (r.got.filter (fun g => bad g.val)) go)
      ∧ (∀ i ∈ T, i ∈ cx.todo) ∧ ∀ g ∈ go, g.tid ∈ cx.todo ∧ g.tid ∉ T := by
  intro r go T
  have hgot : ∀ g ∈ r.got, g.tid ∈ cx.todo ∧ readOne s cx rd false g.tid = .ok g
      ∧ Moved al (thread cx.g g.tid) g.work.th := fun g hg => by
    obtain ⟨i, hi, he⟩ := readAll_got.1 g hg
    obtain ⟨rfl, hm⟩ := readOne_moved hrd he
    exact ⟨hi, he, hm⟩
  have hT : ∀ i ∈ T, i ∈ cx.todo := fun i hi => by
    obtain ⟨x, hx, rfl⟩ := List.mem_map.1 hi
    rcases List.mem_append.1 hx with hx | hx
    · exact readAll_got.2 x hx
    · obtain ⟨g, hg, rfl⟩ := List.mem_map.1 hx
      exact (hgot g (List.mem_filter.1 hg).1).1
  have hgo : ∀ g ∈ go, g.tid ∈ cx.todo ∧ g.tid ∉ T := fun g hg => by
    obtain ⟨hg, hb⟩ := List.mem_filter.1 hg
    obtain ⟨hi, he, -⟩ := hgot g hg
    refine ⟨hi, fun hm => ?_⟩
    obtain ⟨x, hx, ex⟩ := List.mem_map.1 hm
    rcases List.mem_append.1 hx with hx | hx
    · obtain ⟨tr, et⟩ := readAll_split x hx
      rw [ex, he] at et
      cases et
    · obtain ⟨g', hg', rfl⟩ := List.mem_map.1 hx
      obtain ⟨hg', hb'⟩ := List.mem_filter.1 hg'
      obtain ⟨-, he', -⟩ := hgot g' hg'
      rw [show g'.tid = g.tid from ex, he] at he'
      cases he'
      simp [hb'] at hb
  have h1 := leave_traps (al := al) hs r.got false
    (r.traps ++ (r.got.filter (fun g => bad g.val)).map (fun g => (g.tid, { code := cTARGET })))
    (fun x hx => todo_sub cx (hT x.1 (List.mem_map_of_mem hx)))
  refine ⟨leave_jumped hl go (fun g hg => ?_) h1, hT, hgo⟩
  obtain ⟨hi, hn⟩ := hgo g hg
  exact ⟨todo_sub cx hi, hn, (hgot g (List.mem_filter.1 hg).1).2.2⟩

/-- A jump that each thread makes by itself: it stalls, or every thread of the run that has not trapped goes on. -/
theorem jumpRun_each_framed {link : Option Nat} {target : Nat → Rd Nat} (hs : Stands s cx) (hl : LinkOk al link)
    (ht : ∀ i, RdKeeps al (target i)) (hu : cx.uni = false) :
    TransferFramed (TransferRel al cx.g) al s cx (jumpRun s cx link target) := by
  unfold jumpRun
  extract_lets rd bad r go s1
  rw [if_neg (by simp [hu])]
  obtain ⟨h1, hT, hgo⟩ := jumpEach_framed (rd := rd) hs hl (fun i => rdKeeps_jumpRd (ht i)) bad
  split
  · exact framed_stall (framed_passed (framed_mono h1 transferRel_of_leave) _) _
  · refine transferRun_framed h1 _ (fun x hx => ?_)
    rcases List.mem_append.1 hx with hx | hx
    · obtain ⟨i, hi, rfl⟩ := List.mem_map.1 hx
      obtain ⟨hi, hp⟩ := List.mem_filter.1 hi
      refine ⟨hi, fun hm => ?_⟩
      have hn : (!cx.fl.past.contains i) = true := (List.mem_filter.1 (hT i hm)).2
      rw [hp] at hn
      cases hn
    · obtain ⟨g, hg, rfl⟩ := List.mem_map.1 hx
      exact ⟨(List.mem_filter.1 (hgo g hg).1).1, (hgo g hg).2⟩

/-- Under U = 1 the threads whose link pair is out of bounds trap, and the others go on at the one target (R57). -/
theorem uniformGo_framed {link : Option Nat} (hs : Stands s cx) (hl : LinkOk al link) {g : Got Nat} (htid : g.tid = cx.low)
    (hm : Moved al (thread cx.g cx.low) g.work.th) {traps : List (Nat × Trap)}
    (htr : ∀ x ∈ traps, x.1 ∈ cx.fl.run.filter (· ≠ g.tid)) (a : Option W64) :
    let go := cx.fl.run.filter (fun t => !(traps.map (·.1)).contains t)
    TransferFramed (TransferRel al cx.g) al s cx
      (transferRun (go.foldl (fun s t => putLink s cx link t)
        (modThread (trapRun (touchAll s cx [g]) cx false traps) cx.gid g.tid (fun _ => g.work.th))) cx (go.map (fun t => (t, a)))) := by
  intro go
  have hrest : ∀ x ∈ traps, x.1 ∈ cx.fl.run ∧ x.1 ≠ g.tid := fun x hx => by
    simpa using List.mem_filter.1 (htr x hx)
  have hlow : g.tid ∉ traps.map (·.1) := fun hx => by
    obtain ⟨x, hx, he⟩ := List.mem_map.1 hx
    exact (hrest x hx).2 he
  have hgo : ∀ i ∈ go, i ∈ cx.fl.run ∧ i ∉ traps.map (·.1) := fun i hi => by
    simpa using List.mem_filter.1 hi
  have h1 := leave_modThread (leave_traps (al := al) hs [g] false traps (fun x hx => run_sub cx (hrest x hx).1))
    (htid ▸ List.mem_cons_self) hlow (f := fun _ => g.work.th) (fun _ _ => went_retired (retired_of_moved (htid ▸ hm)))
  refine transferRun_framed (framed_foldl go (fun t i hi H => leave_putLink hl H (run_sub cx (hgo i hi).1) (hgo i hi).2) _ h1) _
    (fun x hx => ?_)
  obtain ⟨i, hi, rfl⟩ := List.mem_map.1 hx
  exact hgo i hi

/-- A jump under U = 1: the lowest-numbered thread supplies the target (R57). -/
theorem jumpRun_uniform_framed {link : Option Nat} {target : Nat → Rd Nat} (hs : Stands s cx) (hl : LinkOk al link)
    (ht : ∀ i, RdKeeps al (target i)) (hu : cx.uni = true) :
    TransferFramed (TransferRel al cx.g) al s cx (jumpRun s cx link target) := by
  unfold jumpRun
  extract_lets rd bad
  rw [if_pos hu]
  split
  · exact transfer_stall hs _
  · exact transfer_trapWhole hs _ _
  · rename_i g hg
    obtain ⟨htid, hm⟩ := readOne_moved (rd := rd) (fun i => rdKeeps_jumpRd (ht i)) hg
    split
    · exact transfer_trapWhole hs _ _
    · cases link with
      | none => exact uniformGo_framed (traps := []) hs hl htid hm (fun _ hx => nomatch hx) _
      | some c =>
        dsimp only
        split
        · exact transfer_stall hs _
        · exact uniformGo_framed hs hl htid hm (othersLink_traps cx c _) _

/-- A transfer whose target each thread supplies (R160, R161). -/
theorem jumpRun_framed {link : Option Nat} {target : Nat → Rd Nat} (hs : Stands s cx) (hl : LinkOk al link)
    (ht : ∀ i, RdKeeps al (target i)) : TransferFramed (TransferRel al cx.g) al s cx (jumpRun s cx link target) := by
  cases hu : cx.uni with
  | false => exact jumpRun_each_framed hs hl ht hu
  | true => exact jumpRun_uniform_framed hs hl ht hu

/-- TRET: a thread with no handler to leave, or no point to go on at, traps; the others leave handler mode (R349). -/
theorem tretRun_framed (hs : Stands s cx) : TransferFramed (TransferRel al cx.g) al s cx (tretRun s cx) := by
  unfold tretRun
  extract_lets skip bad go s1 s2
  have hbad : ∀ x ∈ bad, x.1 ∈ cx.fl.run ∧ (tretTrap cx.k skip (thread cx.g x.1)).isSome := fun x hx => by
    obtain ⟨i, hi, he⟩ := List.mem_filterMap.1 hx
    obtain ⟨tr, ht, rfl⟩ := Option.map_eq_some_iff.1 he
    exact ⟨hi, by rw [ht]; rfl⟩
  have hgo : ∀ x ∈ go, x.1 ∈ cx.fl.run ∧ x.1 ∉ bad.map (·.1) := fun x hx => by
    obtain ⟨i, hi, he⟩ := List.mem_filterMap.1 hx
    split at he
    · rename_i hn _
      cases he
      refine ⟨hi, fun hm => ?_⟩
      obtain ⟨y, hy, rfl⟩ := List.mem_map.1 hm
      have := (hbad y hy).2
      simp [hn] at this
    · cases he
  have h1 := leave_traps (al := al) hs ([] : List (Got Nat)) false bad (fun x hx => run_sub cx (hbad x hx).1)
  have h2 := framed_foldl go (fun t x hx H => leave_modThread H (run_sub cx (hgo x hx).1) (hgo x hx).2 (fun _ => went_leaves)) _ h1
  exact transfer_end h2 go false (fun x hx => (hgo x hx).1)

end

/-! ### From a run to an instruction -/

/-- Fields that are not legal trap before the body is reached (R139). -/
theorem withRun_illegal (s : State) (op : Nat) (ext : Bool) (e : Entry) (m : Mod) (f : FR) (body other : Cx → State) :
    withRun s op ext e m f false body = withRun s op ext e m f false other := by
  unfold withRun
  split
  · rfl
  · simp [decodeTrap]

/-- The checks of a transfer and its body keep its frame, where the body does so for legal fields. -/
theorem withRun_transfer {s t : State} {op : Nat} {ext legal : Bool} {e : Entry} {m : Mod} {f : FR} {body : Cx → State} {al : Allow}
    {gid : Nat} {g : Group} {fl : Flight} (hc : s.cur = .group gid) (hg : getGroup s gid = some g) (hf : g.flight = some fl)
    (hb : ∀ cx, legal = true → SameForm cx ⟨op, ext, e, m, f⟩ → Stands s cx →
      TransferFramed (TransferRel al cx.g) al s cx (body cx))
    (h : withRun s op ext e m f legal body = .next t) :
    Framed (TransferRel al g) (fun _ => False) false al (fl.run.headD 0 :: fl.run) gid g s t := by
  have key : ∀ body : Cx → State,
      (∀ cx, SameForm cx ⟨op, ext, e, m, f⟩ → Stands s cx → TransferFramed (TransferRel al cx.g) al s cx (body cx)) →
      withRun s op ext e m f legal body = .next t →
      Framed (TransferRel al g) (fun _ => False) false al (fl.run.headD 0 :: fl.run) gid g s t := by
    intro body hb h
    refine withRun_framed hc hg hf (transferRel_loose al g) (fun cx hr eg => ?_) h
    subst eg
    obtain ⟨-, h2, h3, h4, h5, h6⟩ := runCx_some hr
    exact hb cx ⟨h4, h5, h6⟩ ⟨h2, h3⟩
  cases legal with
  | false => exact key (fun _ => s) (fun _ _ hs => transfer_start hs) (withRun_illegal s op ext e m f body _ ▸ h)
  | true => exact key body (fun cx => hb cx rfl) h

/-- The frame of a transfer of format R. -/
theorem transferFrame_of_coreR {i : Instr} {op : Nat} {f : FR} {e : Entry} {body : State → Cx → State}
    {more : CoreForm → Allow → Allow}
    (he : ∀ s, exec i s = coreR op f s (body s)) (hv : view i = .r op f) (hee : entryOf op = some e)
    (hb : ∀ s cx c, c.e = e → c.f = f → fieldsOk e (baseMod e) f = true → SameForm cx c → Stands s cx →
      TransferFramed (TransferRel (more c (allowOf c)) cx.g) (more c (allowOf c)) s cx (body s cx)) : TransferFrame i more := by
  intro s t gid g fl c hc hcur hg hf h
  rw [coreForm_r hv hee] at hc
  cases hc
  simp only [he, coreR, withEntry, hee] at h
  exact withRun_transfer hcur hg hf (fun cx hl hform hs => hb s cx _ rfl rfl hl hform hs) h

/-- The frame of a branch or call, whatever its entry: it names no operand. -/
theorem transferFrame_of_coreB {i : Instr} {op : Nat} {f : FB} {body : State → Cx → State} {more : CoreForm → Allow → Allow}
    (he : ∀ s, exec i s = coreB op f s (body s)) (hv : view i = .b op f)
    (hb : ∀ s cx c, Stands s cx → TransferFramed (TransferRel (more c (allowOf c)) cx.g) (more c (allowOf c)) s cx (body s cx)) :
    TransferFrame i more := by
  intro s t gid g fl c hc hcur hg hf h
  simp only [coreForm, hv, Option.map_eq_some_iff] at hc
  obtain ⟨e, hee, rfl⟩ := hc
  simp only [he, coreB, withEntry, hee] at h
  exact withRun_transfer hcur hg hf (fun cx _ _ hs => hb s cx _ hs) h

/-! ### Each transfer -/

/-- No link pair, or one that is a destination of two registers. -/
theorem linkOk_none (al : Allow) : LinkOk al none := fun _ h => nomatch h
theorem linkOk_dest {al : Allow} {c : Nat} (hd : DestOk al c 2) (hc : c < 96) : LinkOk al (some c) := by
  intro c' h wb
  cases h
  exact destOk_regs hd hc

/-- What a transfer without a destination may change. -/
abbrev NoDest (_ : CoreForm) (a : Allow) : Allow := { a with dest := [] }

/-- A branch has the frame of a transfer (R159). -/
theorem branch_frame {i : Instr} {op : Nat} {f : FB} {cond : Thread → Bool}
    (he : ∀ s, exec i s = coreB op f s (fun cx => branchRun s cx f cond)) (hv : view i = .b op f) : TransferFrame i NoDest :=
  transferFrame_of_coreB he hv (fun _ _ _ hs => branchRun_framed f cond hs)

/-- JMPI and RET: the target is operand A (R160, R161). -/
theorem jumpA_frame {i : Instr} {op : Nat} {f : FR} {e : Entry}
    (he : ∀ s, exec i s = coreR op f s (fun cx => jumpRun s cx none (fun t => readA s cx t true))) (hv : view i = .r op f)
    (hee : entryOf op = some e) (ha : e.a = .src .w64) : TransferFrame i NoDest :=
  transferFrame_of_coreR he hv hee (fun _ _ _ hc _ _ hform hs =>
    jumpRun_framed hs (linkOk_none _) (fun _ => rdKeeps_sourceA hform _ (hc ▸ ha)))

/-- CALLI: the target is operand A, and the link pair the registers of field D, which are window registers (R161). -/
theorem calli_frame (f : FR) : TransferFrame (.calli f) (fun _ a => a) := by
  refine transferFrame_of_coreR (op := 0x004) (e := { d := .winEven 94, a := .src .w64, last := true }) (fun _ => rfl) rfl rfl
    (fun s cx c hc hf hl hform hs => ?_)
  have hd : c.f.d.toNat ≤ 94 := by
    simp only [fieldsOk, fieldOk, Bool.and_eq_true, decide_eq_true_eq] at hl
    rw [hf]
    exact hl.1.1.1
  have hdest : DestOk (allowOf c) c.f.d.toNat 2 :=
    destOk_use (u := ⟨c.f.d.toNat, 2, true, true⟩) (by simp [hc, useOf]) rfl rfl (Nat.le_refl 2)
  rw [← hf]
  exact jumpRun_framed hs (linkOk_dest hdest (by omega)) (fun _ => rdKeeps_sourceA hform _ (w := .w64) (by rw [hc]))

/-- CALL: the link pair is window registers 0 and 1 (R161). -/
theorem call_frame (f : FB) : TransferFrame (.call f) (fun _ a => { a with dest := [⟨0, 2, false, true⟩] }) := by
  refine transferFrame_of_coreB (op := 0x003) (fun _ => rfl) rfl (fun s cx c hs => ?_)
  have hlink : LinkOk { allowOf c with dest := [⟨0, 2, false, true⟩] } (some 0) :=
    linkOk_dest ⟨_, List.mem_singleton.2 rfl, rfl, Nat.le_refl 2, fun h => absurd h (by decide)⟩ (by decide)
  dsimp only
  split
  · exact jumpRun_framed (cx := cx.each) hs hlink (fun _ => rdKeeps_pure _)
  · exact transfer_trapWhole hs _ _

/-- TRET takes its point from the thread's record, and names no register (R349). -/
theorem tret_frame (f : FR) : TransferFrame (.tret f) NoDest :=
  transferFrame_of_coreR (op := 0x160) (fun _ => rfl) rfl rfl (fun _ _ _ _ _ _ _ hs => tretRun_framed hs)

/-! ### NOP, CPST and the samplers -/

/-- Under the entry `e`, `body` keeps the frame of a lane instruction. -/
def KeepsLaneFrame (e : Entry) (body : State → Cx → State) : Prop :=
  ∀ s cx c, c.e = e → SameForm cx c → Stands s cx →
    Framed (LaneRel (allowOf c) cx.g) (ResultOk (allowOf c) (cx.low :: cx.fl.run) cx.gid cx.g) false (allowOf c) (cx.low :: cx.fl.run)
      cx.gid cx.g s (body s cx)

/-- The checks of a core instruction and its body keep the frame of a lane instruction. -/
theorem withRun_lane {s t : State} {legal : Bool} {c : CoreForm} {body : State → Cx → State} {gid : Nat} {g : Group} {fl : Flight}
    (hb : KeepsLaneFrame c.e body) (hc : s.cur = .group gid) (hg : getGroup s gid = some g) (hf : g.flight = some fl)
    (h : withRun s c.op c.ext c.e c.m c.f legal (body s) = .next t) :
    Framed (LaneRel (allowOf c) g) (ResultOk (allowOf c) (fl.run.headD 0 :: fl.run) gid g) false (allowOf c) (fl.run.headD 0 :: fl.run)
      gid g s t := by
  rcases withRun_cases hc hg hf (laneRel_loose (allowOf c) g) h with h | ⟨cx, hr, rfl, rfl, rfl, rfl⟩
  · exact h
  · obtain ⟨-, h2, h3, hform⟩ := runCx_some hr
    exact hb s cx c rfl hform ⟨h2, h3⟩

/-- NOP goes past its slot (R158). -/
theorem nop_frame (f : FR) : LaneFrame (.nop f) (fun _ a => a) := by
  intro s t gid g fl c hc hcur hg hf h
  cases hc
  refine withRun_lane (body := fun s cx => modGroup s cx.gid (fun g => advance g 1)) (fun s cx c _ _ hs => ?_) hcur hg hf h
  have hl := laneRel_loose (allowOf c) cx.g
  exact framed_advance hl.2 (framed_trapped hl (framed_start hs.1 hs.2 (run_sub cx))) 1

/-- CPST reads no operand: its result is the number of the group's copies (R243). -/
theorem cpstRun_framed : KeepsLaneFrame { d := .dst .w32 } cpstRun := by
  intro s cx c he hform hs
  obtain ⟨h1, h2, h3⟩ := hform
  refine laneExec_framed 1 hs.1 hs.2 (fun _ => rdKeeps_pure ()) (fun _ => ?_) (fun gs tid g _ => ?_)
  · rw [h3]
    exact destOk_d (w := .w32) (.inl (by rw [he]))
  · exact ⟨fun _ => rfl, ⟨retired_refl _ _, fun _ t => retired_refl _ t⟩, fun q hq => nomatch hq⟩

theorem cpst_frame (f : FR) (m : Mod) : WithTwin (fun i => LaneFrame i (fun _ a => a)) (.cpst f) (.cpstTwin f m) := by
  constructor <;>
  · intro s t gid g fl c hc hcur hg hf h
    cases hc
    exact withRun_lane cpstRun_framed hcur hg hf h

/-- A lane instruction whose operands are a block of window registers, and whose results are n words for the window registers of
field D, may draw. -/
theorem laneBody_draws {α : Type} {e : Entry} {hi n : Nat} {rd : State → Cx → Nat → Rd α}
    {fin : Cx → List (Got α) → Got α → Out}
    (hd : e.d = .winEven hi) (hn : n ≤ if hi = 92 then 3 else if hi = 88 then 8 else 2)
    (hrd : ∀ s cx tid (al : Allow), al.draws = true → RdKeeps al (rd s cx tid)) (hfin : ∀ cx gs g, IsWords n (fin cx gs g)) :
    LaneBody e (fun _ a => { a with draws := true }) (fun s cx => laneExec s cx true (rd s cx) (fin cx)) := by
  refine ⟨α, true, false, rd, fin, fun _ => n, fun _ _ => rfl, fun s cx c he hc => ?_⟩
  obtain ⟨-, -, hf⟩ := hc
  have hdest : DestOk (allowOf c) c.f.d.toNat n :=
    destOk_use (u := ⟨c.f.d.toNat, if hi = 92 then 3 else if hi = 88 then 8 else 2, true, true⟩)
      (by simp only [he, hd, useOf, List.mem_singleton]) rfl rfl hn
  refine ⟨fun tid => hrd s cx tid _ rfl, fun _ => hf ▸ hdest, fun gs tid g _ => ?_⟩
  obtain ⟨k1, k2, k3⟩ := hfin cx gs g
  rw [k2, k3]
  exact ⟨fun _ => k1, ⟨retired_refl _ _, fun _ t => retired_refl _ t⟩, fun q hq => nomatch hq⟩

section
variable {al : Allow} {s : State} {cx : Cx}

theorem rdKeeps_scratchWord (tid addr off : Nat) : RdKeeps al (scratchWord s cx tid addr off) :=
  rdKeeps_bind (rdKeeps_liftT _) (fun _ => rdKeeps_bind (rdKeeps_readNow _ _) (fun _ => rdKeeps_pure _))

theorem rdKeeps_scratchWords (tid addr : Nat) (offs : List Nat) : RdKeeps al (scratchWords s cx tid addr offs) := by
  induction offs with
  | nil => exact rdKeeps_pure _
  | cons o r ih => exact rdKeeps_bind (rdKeeps_scratchWord _ _ _) (fun _ => rdKeeps_bind ih (fun _ => rdKeeps_pure _))

end

/-- SMRG draws one word, after its checks and the reads of its statistics (R284). -/
theorem smrg_lane {e : Entry} (hd : e.d = .winEven 92) : LaneBody e (fun _ a => { a with draws := true }) smrgRun :=
  laneBody_draws (n := 3) hd (Nat.le_refl 3)
    (fun _ _ _ _ hw => rdKeeps_bind (rdKeeps_readBlock _ _) (fun _ => rdKeeps_bind (rdKeeps_remotesRd _) (fun _ =>
      rdKeeps_check (fun _ => rdKeeps_check (fun _ => rdKeeps_bind (rdKeeps_scratchWords _ _ _) (fun _ =>
        rdKeeps_bind (rdKeeps_scratchWords _ _ _) (fun _ => rdKeeps_bind (rdKeeps_nextWord hw) (fun _ => rdKeeps_pure _))))))))
    (fun _ _ _ => ⟨rfl, rfl, rfl⟩)

/-- SPICK draws one word under `.resid`, after its checks and the reads of its words (R285). -/
theorem spick_lane {e : Entry} (hd : e.d = .winEven 94) : LaneBody e (fun _ a => { a with draws := true }) spickRun :=
  laneBody_draws (n := 2) hd (Nat.le_refl 2)
    (fun _ _ _ _ hw => rdKeeps_bind (rdKeeps_readBlock _ _) (fun _ => rdKeeps_bind (rdKeeps_remotesRd _) (fun _ =>
      rdKeeps_check (fun _ => rdKeeps_check (fun _ => rdKeeps_check (fun _ => rdKeeps_bind (rdKeeps_scratchWords _ _ _) (fun _ =>
        rdKeeps_ite
          (rdKeeps_bind (rdKeeps_scratchWords _ _ _) (fun _ => rdKeeps_bind (rdKeeps_nextWord hw) (fun _ => rdKeeps_pure _)))
          (rdKeeps_pure _))))))))
    (fun _ _ _ => ⟨rfl, rfl, rfl⟩)

/-- Settles O44: the transfers trap or move the threads of their run (`branchRun_framed`, `jumpRun_framed`, `tretRun_framed`), and
the others are the lane pipeline. -/
theorem transfersFrame : Obligations.TransfersFrame := by
  unfold Obligations.TransfersFrame
  exact ⟨nop_frame, fun _ => branch_frame (fun _ => rfl) rfl, fun _ => jumpA_frame (fun _ => rfl) rfl rfl rfl,
    fun _ => jumpA_frame (fun _ => rfl) rfl rfl rfl, tret_frame, fun _ _ => branch_frame (fun _ => rfl) rfl,
    fun _ _ => branch_frame (fun _ => rfl) rfl, fun _ _ _ => branch_frame (fun _ => rfl) rfl, call_frame, calli_frame, cpst_frame,
    fun _ _ => laneFrame_withTwin 0x14D rfl (smrg_lane rfl) (fun _ _ _ => ⟨rfl, rfl, rfl, rfl⟩),
    fun _ _ => laneFrame_withTwin 0x14E rfl (spick_lane rfl) (fun _ _ _ => ⟨rfl, rfl, rfl, rfl⟩)⟩

end Sys2Proof.Machine
end

section
/-! Floating point, packed pairs, conversions, group data, streams and draws that complete (R188-R211). Each is the lane pipeline with
its own operands and its own result, but DLOAD, which reads one block for its group. -/

namespace Sys2Proof.Machine

/-! ### The shared shapes of these instructions, each with its twin -/

section
variable {base : FR → Instr} {twin : FR → Mod → Instr}

/-- An instruction whose checks pass does what its body does, and so does its twin. -/
theorem exec_of_means {body : State → Cx → State} (f : FR) (m : Mod) (op : Nat) (hm : Means base twin op body) :
    WithTwin (fun i => ∀ s cx, runOf i s = some cx → exec i s = .next (body s cx)) (base f) (twin f m) := by
  obtain ⟨hb, -, ht, -⟩ := hm f m .reset
  exact ⟨fun s _ h => ((hm f m s).2.1).trans (coreR_next hb h), fun s _ h => ((hm f m s).2.2.2).trans (coreT_next ht h)⟩

/-- An exact value of the operands, rounded once to FP32 (R188). -/
theorem fpRun_completes {useB useD long : Bool} {v : Cx → Nat → Nat → Nat → FV × Bool} (f : FR) (m : Mod) (op : Nat)
    (hm : Means base twin op (fun s cx => fpRun s cx useB useD long (v cx))) :
    WithTwin (fun i => LaneCompletes i true (readFp useB useD) (rounded32 long v)) (base f) (twin f m) :=
  laneCompletes_withTwin f m op hm

/-- A function of the word a. -/
theorem fpUn_completes {long : Bool} {v : Cx → Nat → Nat} (f : FR) (m : Mod) (op : Nat)
    (hm : Means base twin op (fun s cx => fpUn s cx long (v cx))) :
    WithTwin (fun i => LaneCompletes i true readA32 (word1 long v)) (base f) (twin f m) :=
  laneCompletes_withTwin f m op hm

/-- A function of the words a and b. -/
theorem fpBin_completes {v : Cx → Nat → Nat → Nat} (f : FR) (m : Mod) (op : Nat)
    (hm : Means base twin op (fun s cx => fpBin s cx (v cx))) :
    WithTwin (fun i => LaneCompletes i true readAB32 (word2 v)) (base f) (twin f m) :=
  laneCompletes_withTwin f m op hm

/-- Two elements, each an exact value rounded once to the pair's format (R192). -/
theorem packRun_completes {useD : Bool} {v : Cx → FV → FV → FV → FV} (f : FR) (m : Mod) (op : Nat)
    (hm : Means base twin op (fun s cx => packRun s cx useD (v cx))) :
    WithTwin (fun i => LaneCompletes i true (readPack useD) (roundedPair v)) (base f) (twin f m) :=
  laneCompletes_withTwin f m op hm

/-- Where every participant has read its source, none waits for another, and group data is the lane pipeline (R197). -/
theorem groupExec_done {α : Type} {s : State} {cx : Cx} {hasD : Bool} {rd : Nat → Rd α}
    {fin : Cx → List (Nat × α) → Nat → α → Out} (ok : LaneOk s cx hasD rd (grouped hasD fin cx)) :
    groupExec s cx hasD rd (fin cx) = laneDone s cx hasD rd (grouped hasD fin cx) := laneExec_done ok

/-- Group data gives each thread its result from all participants' values. -/
theorem groupExec_completes {α : Type} {hasD : Bool} {rd : State → Cx → Nat → Rd α}
    {fin : Cx → List (Nat × α) → Nat → α → Out} (f : FR) (m : Mod) (op : Nat)
    (hm : Means base twin op (fun s cx => groupExec s cx hasD (rd s cx) (fin cx))) :
    WithTwin (fun i => LaneCompletes i hasD rd (grouped hasD fin)) (base f) (twin f m) := by
  refine And.imp ?_ ?_ (exec_of_means f m op hm)
  all_goals exact fun hx s cx h ok => (hx s cx h).trans (congrArg Host.Outcome.next (groupExec_done ok))

/-- What changes the random stream: each thread has the state that its own change leaves (R211). -/
theorem rngRun_completes {rd : State → Cx → Nat → Rd Unit} (f : FR) (m : Mod) (op : Nat)
    (hm : Means base twin op (fun s cx => rngRun s cx (rd s cx))) :
    WithTwin (fun i => LaneCompletes i false (fun s cx tid => do rd s cx tid; let w ← get; pure (rngOf w.th))
      (fun _ _ g => { upd := setRng g.val })) (base f) (twin f m) :=
  laneCompletes_withTwin f m op hm

/-- A draw into D moves the random stream by the words that it takes (R211). -/
theorem drawRun_completes {long : Bool} {draw : Cx → Rd (List W32)} (f : FR) (m : Mod) (op : Nat)
    (hm : Means base twin op (fun s cx => drawRun s cx long (draw cx))) :
    WithTwin (fun i => LaneCompletes i true (fun _ cx _ => do let ws ← draw cx; let w ← get; pure (ws, rngOf w.th))
      (fun _ _ g => { words := g.val.1, upd := setRng g.val.2, long := long })) (base f) (twin f m) :=
  laneCompletes_withTwin f m op hm

end

/-! ### Scalar floating point -/

/-- Settles O5: each entry is an exact value rounded once (`fpRun_completes`), a function of one word (`fpUn_completes`) or of two
(`fpBin_completes`), and FSETP the comparison of its operands. -/
theorem floatingPointCompletes : Obligations.FloatingPointCompletes := by
  unfold Obligations.FloatingPointCompletes
  exact ⟨fun f m => fpRun_completes f m 0x080 (fun _ _ _ => ⟨rfl, rfl, rfl, rfl⟩),  -- FADD
    fun f m => fpRun_completes f m 0x081 (fun _ _ _ => ⟨rfl, rfl, rfl, rfl⟩),  -- FSUB
    fun f m => fpRun_completes f m 0x082 (fun _ _ _ => ⟨rfl, rfl, rfl, rfl⟩),  -- FMUL
    fun f m => fpRun_completes f m 0x083 (fun _ _ _ => ⟨rfl, rfl, rfl, rfl⟩),  -- FFMA
    fun f m => fpBin_completes f m 0x084 (fun _ _ _ => ⟨rfl, rfl, rfl, rfl⟩),  -- FMIN
    fun f m => fpBin_completes f m 0x085 (fun _ _ _ => ⟨rfl, rfl, rfl, rfl⟩),  -- FMAX
    fun f m => fpUn_completes f m 0x086 (fun _ _ _ => ⟨rfl, rfl, rfl, rfl⟩),  -- FABS
    fun f m => fpUn_completes f m 0x087 (fun _ _ _ => ⟨rfl, rfl, rfl, rfl⟩),  -- FNEG
    fun f m => laneCompletes_withTwin f m 0x088 (fun _ _ _ => ⟨rfl, rfl, rfl, rfl⟩),  -- FSETP
    fun f m => fpUn_completes f m 0x089 (fun _ _ _ => ⟨rfl, rfl, rfl, rfl⟩),  -- FCLASS
    fun f m => fpUn_completes f m 0x08A (fun _ _ _ => ⟨rfl, rfl, rfl, rfl⟩),  -- FRCP
    fun f m => fpUn_completes f m 0x08B (fun _ _ _ => ⟨rfl, rfl, rfl, rfl⟩),  -- FRSQ
    fun f m => fpRun_completes f m 0x08C (fun _ _ _ => ⟨rfl, rfl, rfl, rfl⟩),  -- FSQRT
    fun f m => fpRun_completes f m 0x08D (fun _ _ _ => ⟨rfl, rfl, rfl, rfl⟩),  -- FDIV
    fun f m => fpUn_completes f m 0x08E (fun _ _ _ => ⟨rfl, rfl, rfl, rfl⟩),  -- FEXP2
    fun f m => fpUn_completes f m 0x08F (fun _ _ _ => ⟨rfl, rfl, rfl, rfl⟩),  -- FLOG2
    fun f m => fpUn_completes f m 0x090 (fun _ _ _ => ⟨rfl, rfl, rfl, rfl⟩),  -- FTANH
    fun f m => fpUn_completes f m 0x091 (fun _ _ _ => ⟨rfl, rfl, rfl, rfl⟩),  -- FSIN
    fun f m => fpUn_completes f m 0x092 (fun _ _ _ => ⟨rfl, rfl, rfl, rfl⟩),  -- FCOS
    fun f m => fpUn_completes f m 0x093 (fun _ _ _ => ⟨rfl, rfl, rfl, rfl⟩),  -- FSIGM
    fun f m => fpUn_completes f m 0x094 (fun _ _ _ => ⟨rfl, rfl, rfl, rfl⟩),  -- FERF
    fun f m => fpUn_completes f m 0x095 (fun _ _ _ => ⟨rfl, rfl, rfl, rfl⟩),  -- FRND
    fun f m => fpRun_completes f m 0x096 (fun _ _ _ => ⟨rfl, rfl, rfl, rfl⟩)⟩  -- FSCALE

/-! ### Packed pairs -/

/-- Settles O6: an entry whose elements are rounded is `packRun_completes`, one that gives a function of each element
`fpUn_completes` or `fpBin_completes`; HDOT2 rounds once (`fpRun_completes`), and HSETP2 compares element by element. -/
theorem packedPairsComplete : Obligations.PackedPairsComplete := by
  unfold Obligations.PackedPairsComplete
  exact ⟨fun f m => packRun_completes f m 0x0A0 (fun _ _ _ => ⟨rfl, rfl, rfl, rfl⟩),  -- HADD2
    fun f m => packRun_completes f m 0x0A1 (fun _ _ _ => ⟨rfl, rfl, rfl, rfl⟩),  -- HSUB2
    fun f m => packRun_completes f m 0x0A2 (fun _ _ _ => ⟨rfl, rfl, rfl, rfl⟩),  -- HMUL2
    fun f m => packRun_completes f m 0x0A3 (fun _ _ _ => ⟨rfl, rfl, rfl, rfl⟩),  -- HFMA2
    fun f m => fpBin_completes f m 0x0A4 (fun _ _ _ => ⟨rfl, rfl, rfl, rfl⟩),  -- HMIN2
    fun f m => fpBin_completes f m 0x0A5 (fun _ _ _ => ⟨rfl, rfl, rfl, rfl⟩),  -- HMAX2
    fun f m => fpUn_completes f m 0x0A6 (fun _ _ _ => ⟨rfl, rfl, rfl, rfl⟩),  -- HABS2
    fun f m => laneCompletes_withTwin f m 0x0A7 (fun _ _ _ => ⟨rfl, rfl, rfl, rfl⟩),  -- HSETP2
    fun f m => fpRun_completes f m 0x0A8 (fun _ _ _ => ⟨rfl, rfl, rfl, rfl⟩),  -- HDOT2
    fun f m => fpUn_completes f m 0x0A9 (fun _ _ _ => ⟨rfl, rfl, rfl, rfl⟩),  -- HTANH2
    fun f m => fpUn_completes f m 0x0AA (fun _ _ _ => ⟨rfl, rfl, rfl, rfl⟩)⟩  -- HRCP2

/-! ### Conversions -/

/-- Settles O7: an entry that gives a function of its words is `fpUn_completes` or `fpBin_completes`, and the others are the lane
pipeline (`laneCompletes_withTwin`) with their own operands and result. The nibble of PACK4 that no rule states is
`Config.unstated` of the operands in both (log 4). -/
theorem conversionsComplete : Obligations.ConversionsComplete := by
  unfold Obligations.ConversionsComplete
  exact ⟨fun f m => laneCompletes_withTwin f m 0x0C0 (fun _ _ _ => ⟨rfl, rfl, rfl, rfl⟩),  -- CVTF
    fun f m => laneCompletes_withTwin f m 0x0C1 (fun _ _ _ => ⟨rfl, rfl, rfl, rfl⟩),  -- CVTI
    fun f m => laneCompletes_withTwin f m 0x0C2 (fun _ _ _ => ⟨rfl, rfl, rfl, rfl⟩),  -- CVTIF
    fun f m => laneCompletes_withTwin f m 0x0C3 (fun _ _ _ => ⟨rfl, rfl, rfl, rfl⟩),  -- CVTII
    fun f m => laneCompletes_withTwin f m 0x0C4 (fun _ _ _ => ⟨rfl, rfl, rfl, rfl⟩),  -- PACK8
    fun f m => fpUn_completes f m 0x0C5 (fun _ _ _ => ⟨rfl, rfl, rfl, rfl⟩),  -- UNPK8
    fun f m => fpBin_completes f m 0x0C7 (fun _ _ _ => ⟨rfl, rfl, rfl, rfl⟩),  -- UNPK4
    fun f m => laneCompletes_withTwin f m 0x0C8 (fun _ _ _ => ⟨rfl, rfl, rfl, rfl⟩),  -- PACKDS
    fun f m => fpBin_completes f m 0x0C9 (fun _ _ _ => ⟨rfl, rfl, rfl, rfl⟩),  -- UNPKDS
    fun f m => fpUn_completes f m 0x0CA (fun _ _ _ => ⟨rfl, rfl, rfl, rfl⟩),  -- BSCALE
    fun f m => laneCompletes_withTwin f m 0x0CB (fun _ _ _ => ⟨rfl, rfl, rfl, rfl⟩),  -- CVT2
    fun f m => laneCompletes_withTwin f m 0x0C6 (fun _ _ _ => ⟨rfl, rfl, rfl, rfl⟩)⟩  -- PACK4

/-! ### Group data -/

/-- Settles O8: each entry runs as group data with its own result (`groupExec_completes`). -/
theorem groupDataCompletes : Obligations.GroupDataCompletes := by
  unfold Obligations.GroupDataCompletes
  exact ⟨fun f m => groupExec_completes f m 0x0D0 (fun _ _ _ => ⟨rfl, rfl, rfl, rfl⟩),  -- SHFL
    fun f m => groupExec_completes f m 0x0D1 (fun _ _ _ => ⟨rfl, rfl, rfl, rfl⟩),  -- SHFLX
    fun f m => groupExec_completes f m 0x0D7 (fun _ _ _ => ⟨rfl, rfl, rfl, rfl⟩),  -- BCAST
    fun f m => groupExec_completes f m 0x0D2 (fun _ _ _ => ⟨rfl, rfl, rfl, rfl⟩),  -- VOTE
    fun f m => groupExec_completes f m 0x0D3 (fun _ _ _ => ⟨rfl, rfl, rfl, rfl⟩),  -- BALLOT
    fun f m => groupExec_completes f m 0x0D4 (fun _ _ _ => ⟨rfl, rfl, rfl, rfl⟩),  -- FFS
    fun f m => groupExec_completes f m 0x0D8 (fun _ _ _ => ⟨rfl, rfl, rfl, rfl⟩),  -- GMATCH
    fun f m => groupExec_completes f m 0x0D9 (fun _ _ _ => ⟨rfl, rfl, rfl, rfl⟩),  -- GCOUNT
    fun f m => groupExec_completes f m 0x0D5 (fun _ _ _ => ⟨rfl, rfl, rfl, rfl⟩),  -- GRED
    fun f m => groupExec_completes f m 0x0D6 (fun _ _ _ => ⟨rfl, rfl, rfl, rfl⟩)⟩  -- GSCAN

/-! ### Streams and draws -/

/-- A block that the lowest-numbered thread reads becomes the group's descriptor (R207). -/
theorem dloadRun_done {s : State} {cx : Cx} {g : Got Dist} (h : readOne s cx (distRd cx) false cx.low = .ok g) :
    dloadRun s cx =
      modGroup s cx.gid (fun gr => advance { gr with dists := mset {} gr.dists cx.f.d.toNat g.val } cx.slots) := by
  unfold distRd at h
  simp only [dloadRun, h]

/-- DLOAD and its twin load the descriptor whatever U says. -/
theorem dload_completes (f : FR) (m : Mod) :
    WithTwin (fun i => ∀ s cx g, runOf i s = some cx → readOne s cx (distRd cx) false cx.low = .ok g →
      exec i s = .next
        (modGroup s cx.gid (fun gr => advance { gr with dists := mset {} gr.dists cx.f.d.toNat g.val } cx.slots)))
      (.dload f) (.dloadTwin f m) := by
  have hm : Means .dload .dloadTwin 0x0E3 dloadRun := fun _ _ _ => ⟨rfl, rfl, rfl, rfl⟩
  refine And.imp ?_ ?_ (exec_of_means f m 0x0E3 hm)
  all_goals exact fun hx s cx g h hg => (hx s cx h).trans (congrArg Host.Outcome.next (dloadRun_done hg))

/-- Settles O9: what changes the random stream is `rngRun_completes`, what draws into D `drawRun_completes`, and DLOAD
`dload_completes`; the others are the lane pipeline with their own operands. -/
theorem streamsAndDrawsComplete : Obligations.StreamsAndDrawsComplete := by
  unfold Obligations.StreamsAndDrawsComplete
  exact ⟨fun f m => laneCompletes_withTwin f m 0x0E0 (fun _ _ _ => ⟨rfl, rfl, rfl, rfl⟩),  -- WBIND
    fun f m => laneCompletes_withTwin f m 0x0E1 (fun _ _ _ => ⟨rfl, rfl, rfl, rfl⟩),  -- WUNB
    fun f m => laneCompletes_withTwin f m 0x0E2 (fun _ _ _ => ⟨rfl, rfl, rfl, rfl⟩),  -- WPOS
    fun f m => rngRun_completes f m 0x0E4 (fun _ _ _ => ⟨rfl, rfl, rfl, rfl⟩),  -- DKEY
    fun f m => rngRun_completes f m 0x0E5 (fun _ _ _ => ⟨rfl, rfl, rfl, rfl⟩),  -- DPOS
    fun f m => rngRun_completes f m 0x0E7 (fun _ _ _ => ⟨rfl, rfl, rfl, rfl⟩),  -- DSET
    fun f m => rngRun_completes f m 0x0E8 (fun _ _ _ => ⟨rfl, rfl, rfl, rfl⟩),  -- DSKIP
    fun f m => rngRun_completes f m 0x0E9 (fun _ _ _ => ⟨rfl, rfl, rfl, rfl⟩),  -- DFORK
    fun f m => laneCompletes_withTwin f m 0x0E6 (fun _ _ _ => ⟨rfl, rfl, rfl, rfl⟩),  -- DGET
    fun f m => drawRun_completes f m 0x0EA (fun _ _ _ => ⟨rfl, rfl, rfl, rfl⟩),  -- RAND
    fun f m => drawRun_completes f m 0x0EC (fun _ _ _ => ⟨rfl, rfl, rfl, rfl⟩),  -- RANDN
    fun f m => laneCompletes_withTwin f m 0x0EB (fun _ _ _ => ⟨rfl, rfl, rfl, rfl⟩),  -- DINFO
    fun f m => laneCompletes_withTwin f m 0x0ED (fun _ _ _ => ⟨rfl, rfl, rfl, rfl⟩),  -- DPEEK
    dload_completes⟩

end Sys2Proof.Machine
end

section
/-! Memory instructions that complete (R97, R106, R111, R213-R250): loads, stores, tiles, prefetch, fences, atomics, semaphores, task
records and copies, and TGLINK at the record's home. -/

namespace Sys2Proof.Machine

/-! ### The shared shapes of these instructions, each with its twin -/

section
variable {base : FR → Instr} {twin : FR → Mod → Instr} (f : FR) (m : Mod) (op : Nat)

/-- An instruction completes as its body does, and so does its twin. -/
theorem runCompletes_withTwin {body : State → Cx → State} {ok : State → Cx → Prop} {t : State → Cx → State}
    (hb : ∀ s cx, ok s cx → body s cx = t s cx) (hm : Means base twin op body) :
    WithTwin (fun i => RunCompletes i ok t) (base f) (twin f m) := by
  refine And.imp ?_ ?_ (exec_of_means f m op hm)
  all_goals exact fun hx s cx h hok => (hx s cx h).trans (congrArg Host.Outcome.next (hb s cx hok))

/-- Each thread's operation goes in flight where all of them read (R128). -/
theorem asyncCompletes_withTwin {flag words : Cx → Nat} {hasD : Bool} {rd : State → Cx → Nat → Rd Req}
    (hm : Means base twin op (fun s cx => asyncExec s cx (flag cx) (words cx) hasD (rd s cx))) :
    WithTwin (fun i => AsyncCompletes i flag words hasD rd) (base f) (twin f m) :=
  runCompletes_withTwin f m op (fun _ _ ok => asyncExec_done ok) hm

/-- A load of each thread (R217). -/
theorem loadCompletes_withTwin {acquire : Bool} {addr : State → Cx → Nat → Rd (Nat × List Loc)}
    (hm : Means base twin op (fun s cx => loadRun s cx acquire (addr s cx))) :
    WithTwin (fun i => AsyncCompletes i Cx.seta Cx.memWords true (fun s cx => loadReq s cx acquire (addr s cx)))
      (base f) (twin f m) :=
  asyncCompletes_withTwin f m op hm

/-- A store of each thread (R216). -/
theorem storeCompletes_withTwin {rel : State → Cx → Nat → List Dep} {ops : State → Cx → Nat → Rd (Nat × Int)}
    {addr : State → Cx → Nat → Nat × Int → Rd (Nat × List Loc)}
    (hm : Means base twin op (fun s cx => storeRun s cx (rel s cx) (ops s cx) (addr s cx))) :
    WithTwin (fun i => AsyncCompletes i Cx.setb (fun _ => 1) false (fun s cx => storeReq s cx (rel s cx) (ops s cx) (addr s cx)))
      (base f) (twin f m) :=
  asyncCompletes_withTwin f m op hm

/-- An atomic of a run (R97). -/
theorem atomCompletes_withTwin {scratch cas : Bool} (hm : Means base twin op (fun s cx => atomRun s cx scratch cas)) :
    WithTwin (fun i => AtomCompletes i scratch cas) (base f) (twin f m) :=
  runCompletes_withTwin f m op (fun _ _ ok => atomRun_done ok) hm

/-- A copy of each thread, where the core has room for them (R242). -/
theorem copyCompletes_withTwin {rd : State → Cx → Nat → Rd Req} (hm : Means base twin op (fun s cx => copyExec s cx (rd s cx))) :
    WithTwin (fun i => CopyCompletes i rd) (base f) (twin f m) :=
  runCompletes_withTwin f m op (fun _ _ ok => copyExec_done ok) hm

end

/-! ### Loads and stores -/

/-- Settles O13: the loads are `loadCompletes_withTwin`, the stores `storeCompletes_withTwin`, each with its own operands and
address. -/
theorem loadsAndStoresComplete : Obligations.LoadsAndStoresComplete := by
  unfold Obligations.LoadsAndStoresComplete
  exact ⟨fun f m => loadCompletes_withTwin f m 0x100 (fun _ _ _ => ⟨rfl, rfl, rfl, rfl⟩),  -- LD
    fun f m => storeCompletes_withTwin (rel := fun _ _ _ => []) f m 0x101 (fun _ _ _ => ⟨rfl, rfl, rfl, rfl⟩),  -- ST
    fun f m => loadCompletes_withTwin f m 0x102 (fun _ _ _ => ⟨rfl, rfl, rfl, rfl⟩),  -- LDS
    fun f m => storeCompletes_withTwin (rel := fun _ _ _ => []) f m 0x103 (fun _ _ _ => ⟨rfl, rfl, rfl, rfl⟩),  -- STS
    fun f m => loadCompletes_withTwin f m 0x108 (fun _ _ _ => ⟨rfl, rfl, rfl, rfl⟩),  -- LDA
    fun f m => storeCompletes_withTwin f m 0x109 (fun _ _ _ => ⟨rfl, rfl, rfl, rfl⟩)⟩  -- STR

/-! ### Tiles, prefetch and fences -/

/-- PREF whose threads do not stall fills the lines of those that have read; the others are dropped (R219). -/
theorem prefRun_done {s : State} {cx : Cx} (h : (readAll s cx (prefAddr s cx) false (runners cx)).stall = none) :
    prefRun s cx = modGroup ((gotRun s cx (prefAddr s cx)).foldl
      (fun s g => prefetch (modThread s cx.gid g.tid (fun _ => g.work.th)) cx g.val) s) cx.gid (fun g => advance g cx.slots) := by
  unfold prefRun
  dsimp only
  split
  case h_1 b hb => exact nomatch hb.symm.trans h
  case h_2 => rfl

/-- Settles O14: LDO, LDV and STT are operations in flight, PREF fills the lines (`prefRun_done`), and FENCE does what its body
says. -/
theorem tilesPrefetchFencesComplete : Obligations.TilesPrefetchFencesComplete := by
  unfold Obligations.TilesPrefetchFencesComplete
  exact ⟨fun f m => asyncCompletes_withTwin f m 0x104 (fun _ _ _ => ⟨rfl, rfl, rfl, rfl⟩),  -- LDO
    fun f m => asyncCompletes_withTwin f m 0x105 (fun _ _ _ => ⟨rfl, rfl, rfl, rfl⟩),  -- LDV
    fun f m => asyncCompletes_withTwin f m 0x106 (fun _ _ _ => ⟨rfl, rfl, rfl, rfl⟩),  -- STT
    fun f m => runCompletes_withTwin f m 0x107 (fun _ _ ok => prefRun_done ok) (fun _ _ _ => ⟨rfl, rfl, rfl, rfl⟩),  -- PREF
    fun f m => runCompletes_withTwin f m 0x10A (fun _ _ _ => rfl) (fun _ _ _ => ⟨rfl, rfl, rfl, rfl⟩)⟩  -- FENCE

/-! ### Atomics -/

/-- Settles O15: each entry is the atomic of a run (`atomCompletes_withTwin`), in global memory or a scratchpad, with one operand
or the pair of a compare and swap. -/
theorem atomicsComplete : Obligations.AtomicsComplete := by
  unfold Obligations.AtomicsComplete
  exact ⟨fun f m => atomCompletes_withTwin f m 0x10B (fun _ _ _ => ⟨rfl, rfl, rfl, rfl⟩),  -- ATOM.ADD
    fun f m => atomCompletes_withTwin f m 0x10C (fun _ _ _ => ⟨rfl, rfl, rfl, rfl⟩),  -- ATOM.FADD
    fun f m => atomCompletes_withTwin f m 0x10D (fun _ _ _ => ⟨rfl, rfl, rfl, rfl⟩),  -- ATOM.MIN
    fun f m => atomCompletes_withTwin f m 0x10E (fun _ _ _ => ⟨rfl, rfl, rfl, rfl⟩),  -- ATOM.MAX
    fun f m => atomCompletes_withTwin f m 0x10F (fun _ _ _ => ⟨rfl, rfl, rfl, rfl⟩),  -- ATOM.AND
    fun f m => atomCompletes_withTwin f m 0x110 (fun _ _ _ => ⟨rfl, rfl, rfl, rfl⟩),  -- ATOM.OR
    fun f m => atomCompletes_withTwin f m 0x111 (fun _ _ _ => ⟨rfl, rfl, rfl, rfl⟩),  -- ATOM.XOR
    fun f m => atomCompletes_withTwin f m 0x112 (fun _ _ _ => ⟨rfl, rfl, rfl, rfl⟩),  -- ATOM.XCHG
    fun f m => atomCompletes_withTwin f m 0x113 (fun _ _ _ => ⟨rfl, rfl, rfl, rfl⟩),  -- ATOM.CAS
    fun f m => atomCompletes_withTwin f m 0x114 (fun _ _ _ => ⟨rfl, rfl, rfl, rfl⟩),  -- ATOM.INC
    fun f m => atomCompletes_withTwin f m 0x115 (fun _ _ _ => ⟨rfl, rfl, rfl, rfl⟩),  -- ATOM.DEC
    fun f m => atomCompletes_withTwin f m 0x116 (fun _ _ _ => ⟨rfl, rfl, rfl, rfl⟩),  -- ATOM.HADD2
    fun f m => atomCompletes_withTwin f m 0x117 (fun _ _ _ => ⟨rfl, rfl, rfl, rfl⟩),  -- ATOMS.ADD
    fun f m => atomCompletes_withTwin f m 0x118 (fun _ _ _ => ⟨rfl, rfl, rfl, rfl⟩),  -- ATOMS.CAS
    fun f m => atomCompletes_withTwin f m 0x119 (fun _ _ _ => ⟨rfl, rfl, rfl, rfl⟩)⟩  -- ATOMS.XCHG

/-! ### Semaphores -/

/-- Settles O16: SEMINC, SEMSET and SEMRD are operations in flight, and SEMWAIT is `semWaitRun_done`. -/
theorem semaphoresComplete : Obligations.SemaphoresComplete := by
  unfold Obligations.SemaphoresComplete
  exact ⟨fun f m => asyncCompletes_withTwin f m 0x124 (fun _ _ _ => ⟨rfl, rfl, rfl, rfl⟩),  -- SEMINC
    fun f m => asyncCompletes_withTwin f m 0x126 (fun _ _ _ => ⟨rfl, rfl, rfl, rfl⟩),  -- SEMSET
    fun f m => asyncCompletes_withTwin f m 0x127 (fun _ _ _ => ⟨rfl, rfl, rfl, rfl⟩),  -- SEMRD
    fun f m => runCompletes_withTwin f m 0x125 (fun _ _ ok => semWaitRun_done ok) (fun _ _ _ => ⟨rfl, rfl, rfl, rfl⟩)⟩  -- SEMWAIT

/-! ### Task records -/

/-- Settles O17: TGPOST, TGINIT and TGLINK are operations in flight, TGWAIT is `tgwaitRun_done`, and CPST is the lane pipeline. -/
theorem taskGraphCompletes : Obligations.TaskGraphCompletes := by
  unfold Obligations.TaskGraphCompletes
  exact ⟨fun f m => asyncCompletes_withTwin f m 0x128 (fun _ _ _ => ⟨rfl, rfl, rfl, rfl⟩),  -- TGPOST
    fun f m => asyncCompletes_withTwin f m 0x12A (fun _ _ _ => ⟨rfl, rfl, rfl, rfl⟩),  -- TGINIT
    fun f m => asyncCompletes_withTwin f m 0x12B (fun _ _ _ => ⟨rfl, rfl, rfl, rfl⟩),  -- TGLINK
    fun f m => runCompletes_withTwin f m 0x129 (fun _ _ ok => tgwaitRun_done ok) (fun _ _ _ => ⟨rfl, rfl, rfl, rfl⟩),  -- TGWAIT
    fun f m => runCompletes_withTwin f m 0x12C (fun _ _ ok => laneExec_done ok) (fun _ _ _ => ⟨rfl, rfl, rfl, rfl⟩)⟩  -- CPST

/-! ### Copies -/

/-- Settles O18: each entry is the copy of its operands (`copyCompletes_withTwin`). -/
theorem copiesComplete : Obligations.CopiesComplete := by
  unfold Obligations.CopiesComplete
  exact ⟨fun f m => copyCompletes_withTwin f m 0x120 (fun _ _ _ => ⟨rfl, rfl, rfl, rfl⟩),  -- COPY
    fun f m => copyCompletes_withTwin f m 0x121 (fun _ _ _ => ⟨rfl, rfl, rfl, rfl⟩),  -- COPYS
    fun f m => copyCompletes_withTwin f m 0x122 (fun _ _ _ => ⟨rfl, rfl, rfl, rfl⟩),  -- COPYM
    fun f m => copyCompletes_withTwin f m 0x123 (fun _ _ _ => ⟨rfl, rfl, rfl, rfl⟩)⟩  -- COPYR

end Sys2Proof.Machine
end

section
/-! TGLINK at the record's home (R247): what ATOMIC_PERFORM of a link does, by the record's POSTED bit and NSUCC. -/

namespace Sys2Proof.Machine

/-- ATOMIC_PERFORM of a link that may act performs it. -/
theorem exec_atomicPerform_link {s : State} {id : Nat} {o : Op} {va succ : Nat} {locs : List Loc} {d : Dst} (h : Acts s id o)
    (hk : o.kind = .link va succ locs d) : exec (.atomicPerform id) s = .next (linkDone s o succ locs d) := by
  refine (onOp_acts h).trans (congrArg Host.Outcome.next ?_)
  simp only [hk]

/-- A record and its successor, at `pa` and `sp`, in lines that no engine owns. -/
structure FreeRecords (s : State) (locs : List Loc) (pa sp : Nat) : Prop where
  free : anyOwned s locs = false
  record : locs.head? = some (.g pa)
  successor : (locs.drop 128).head? = some (.g sp)

section
variable {s : State} {locs : List Loc} {pa sp : Nat} (h : FreeRecords s locs pa sp) (o : Op) (succ : Nat) (d : Dst)
include h

/-- A posted record takes no successor: status 1. -/
theorem linkDone_posted (posted : bitOf (rdMem s (pa + 4) 4) 2 = true) :
    linkDone s o succ locs d = wroteEnd (arrive s d 1 false) o := by
  simp only [linkDone, h.free, h.record, h.successor, posted, Bool.false_eq_true, if_false, if_true]

/-- A full record takes no successor: status 2; an NSUCC above 11 is taken as 11 (log 19). -/
theorem linkDone_full (unposted : bitOf (rdMem s (pa + 4) 4) 2 = false) (full : 11 ≤ rdMem s (pa + 0x20) 4) :
    linkDone s o succ locs d = wroteEnd (arrive s d 2 false) o := by
  simp only [linkDone, h.free, h.record, h.successor, unposted, full, Bool.false_eq_true, if_false, if_true]

/-- Any other record takes the successor: PRED_COUNT, then SUCC[NSUCC], then NSUCC; status 0. -/
theorem linkDone_links (unposted : bitOf (rdMem s (pa + 4) 4) 2 = false) (room : rdMem s (pa + 0x20) 4 < 11) :
    linkDone s o succ locs d =
      let n := rdMem s (pa + 0x20) 4
      let w := writerOf o
      let counted := wrWordBy s w sp ((rdMem s sp 4 + 1) % 2 ^ 32)
      let entered := performQuarter counted w 0 ((rangeFrom (pa + 0x28 + 8 * n) 8).zip (leBytes 8 succ)) false
      wroteEnd (arrive (readFresh (wrWordBy entered w (pa + 0x20) ((n + 1) % 2 ^ 32)) o.core locs) d 0 false) o := by
  simp only [linkDone, h.free, h.record, h.successor, unposted, Nat.not_le.mpr room, Bool.false_eq_true, if_false]

end

/-- Settles O49: the link is performed at the home (`exec_atomicPerform_link`), and its three outcomes are `linkDone_posted`,
`linkDone_full` and `linkDone_links`. That an NSUCC above 11 is taken as 11 is the model's reading (log 19, DEDUCED). -/
theorem taskLink : Obligations.TaskLink := by
  unfold Obligations.TaskLink
  intro id s o va succ locs d pa sp ha hk hfree hpa hsp
  have h : FreeRecords s locs pa sp := ⟨hfree, hpa, hsp⟩
  rw [exec_atomicPerform_link ha hk]
  exact ⟨fun posted => congrArg Host.Outcome.next (linkDone_posted h o succ d posted),
    fun unposted full => congrArg Host.Outcome.next (linkDone_full h o succ d unposted full),
    fun unposted room => congrArg Host.Outcome.next (linkDone_links h o succ d unposted room)⟩

end Sys2Proof.Machine
end

section
/-! The pocket instructions and the generation loop that complete (R261-R268, R283-R288): operations on a team's pocket table and on an
admission heap go in flight, and SMRG, SPICK and RMASK are the lane pipeline. -/

namespace Sys2Proof.Machine

/-! ### Pocket instructions -/

/-- A team's instruction whose operation goes in flight completes, and so does its twin (R261). -/
theorem teamCompletes_withTwin {base : FR → Instr} {twin : FR → Mod → Instr} (f : FR) (m : Mod) (op : Nat) {flag words : Cx → Nat}
    {hasD : Bool} {rd : State → Cx → Nat → Nat → Rd Req}
    (hm : Means base twin op
      (fun s cx => teamRun s cx 0 true (fun key => asyncExec s cx (flag cx) (words cx) hasD (rd s cx key)))) :
    WithTwin (fun i => TeamCompletes i flag words hasD rd) (base f) (twin f m) := by
  obtain ⟨hb, -, ht, -⟩ := hm f m .reset
  exact ⟨team_of_coreR (fun s => (hm f m s).2.1) hb (fun _ _ => rfl),
    team_of_coreT (fun s => (hm f m s).2.2.2) ht (fun _ _ => rfl)⟩

/-- Settles O20: each entry is an operation of a team's group on its pocket table (`teamCompletes_withTwin`), with its own operands
and checks. -/
theorem pocketInstructionsComplete : Obligations.PocketInstructionsComplete := by
  unfold Obligations.PocketInstructionsComplete
  exact ⟨fun f m => teamCompletes_withTwin f m 0x144 (fun _ _ _ => ⟨rfl, rfl, rfl, rfl⟩),  -- PCFG
    fun f m => teamCompletes_withTwin f m 0x145 (fun _ _ _ => ⟨rfl, rfl, rfl, rfl⟩),  -- PINS
    fun f m => teamCompletes_withTwin f m 0x147 (fun _ _ _ => ⟨rfl, rfl, rfl, rfl⟩),  -- PCNT
    fun f m => teamCompletes_withTwin f m 0x146 (fun _ _ _ => ⟨rfl, rfl, rfl, rfl⟩),  -- PLUP
    fun f m => teamCompletes_withTwin f m 0x148 (fun _ _ _ => ⟨rfl, rfl, rfl, rfl⟩),  -- PRD
    fun f m => teamCompletes_withTwin f m 0x149 (fun _ _ _ => ⟨rfl, rfl, rfl, rfl⟩),  -- PDRN
    fun f m => teamCompletes_withTwin f m 0x14A (fun _ _ _ => ⟨rfl, rfl, rfl, rfl⟩),  -- PCLR
    fun f m => teamCompletes_withTwin f m 0x14B (fun _ _ _ => ⟨rfl, rfl, rfl, rfl⟩)⟩  -- PDEL

/-! ### The generation loop -/

/-- A heap instruction on a mapped slot completes, and so does its twin (R286, R287). -/
theorem heapCompletes_withTwin {base : FR → Instr} {twin : FR → Mod → Instr} (f : FR) (m : Mod) (op : Nat) {flag words : Cx → Nat}
    {hasD acquire : Bool} {rel : State → Cx → Nat → List Dep} {ops : State → Cx → Nat → Rd (Dst → HeapOp)}
    (hm : Means base twin op (fun s cx => heapExec s cx (flag cx) (words cx) hasD acquire (rel s cx) (ops s cx))) :
    WithTwin (fun i => AsyncCompletes i flag words hasD (heapRd acquire rel ops)) (base f) (twin f m) :=
  asyncCompletes_withTwin f m op hm

/-- Settles O21: SMRG, SPICK and RMASK are the lane pipeline (`laneCompletes_withTwin`), each heap instruction an operation on its
slot's heap (`heapCompletes_withTwin`). A tile that SMRG's weights leave unstated is a free value of `smrgOf` (log 4). -/
theorem generationLoopCompletes : Obligations.GenerationLoopCompletes := by
  unfold Obligations.GenerationLoopCompletes
  exact ⟨fun f m => laneCompletes_withTwin f m 0x14D (fun _ _ _ => ⟨rfl, rfl, rfl, rfl⟩),  -- SMRG
    fun f m => laneCompletes_withTwin f m 0x14E (fun _ _ _ => ⟨rfl, rfl, rfl, rfl⟩),  -- SPICK
    fun f m => laneCompletes_withTwin f m 0x155 (fun _ _ _ => ⟨rfl, rfl, rfl, rfl⟩),  -- RMASK
    fun f m => heapCompletes_withTwin f m 0x14F (fun _ _ _ => ⟨rfl, rfl, rfl, rfl⟩),  -- HPUSH
    fun f m => heapCompletes_withTwin f m 0x150 (fun _ _ _ => ⟨rfl, rfl, rfl, rfl⟩),  -- HTAKE
    fun f m => heapCompletes_withTwin f m 0x151 (fun _ _ _ => ⟨rfl, rfl, rfl, rfl⟩),  -- HBUD
    fun f m => heapCompletes_withTwin f m 0x152 (fun _ _ _ => ⟨rfl, rfl, rfl, rfl⟩),  -- HDEL
    fun f m => heapCompletes_withTwin f m 0x153 (fun _ _ _ => ⟨rfl, rfl, rfl, rfl⟩),  -- HPEEK
    fun f m => heapCompletes_withTwin f m 0x154 (fun _ _ _ => ⟨rfl, rfl, rfl, rfl⟩)⟩  -- HLEN

end Sys2Proof.Machine
end

section
/-! What Maluk and the service units do of their own accord (R287, R290, R292, R343, R345, R352, R391): each event at a state that meets
its condition. -/

namespace Sys2Proof.Machine

/-! ### Services -/

/-- A service of a number that the event answers is served at an operation that may act (R172). -/
theorem onService_acts {s : State} {id n : Nat} {o : Op} {args : List W32} {d : Dst} {is : Nat → Bool} {f : Op → List W32 → Dst → State}
    (h : Acts s id o) (hk : o.kind = .service n args d) (hn : is n = true) : onService s id is f = .next (f o args d) := by
  unfold onService
  simp only [onOp_acts h, hk, hn, if_true]

/-! ### Maluk's heap operations -/

/-- Maluk pushes to a heap that a context holds, or sets its budget (R287). -/
theorem exec_malukHeapPush_held {s : State} {heap : Nat} {act : HeapAct} (ho : (getHeap s heap).owner.isSome = true)
    (hr : (getHeap s heap).releasing = none) :
    exec (.malukHeapPush heap act) s = .next (setHeap s heap
      (match act with
       | .push dl req cost => (heapPush (dl % 2 ^ 64) (BitVec.ofNat 32 req) (BitVec.ofNat 32 cost) (getHeap s heap)).2
       | .budget v => heapBudget (BitVec.ofNat 32 v) false (getHeap s heap))) := by
  have hheld : ¬ ((getHeap s heap).owner.isNone || (getHeap s heap).releasing.isSome) = true := by
    simp [Option.isSome_iff_ne_none.mp ho, hr]
  change execMalukHeapPush heap act s = _
  unfold execMalukHeapPush
  rw [if_neg hheld]
  cases act <;> rfl

/-- Settles O33: each event takes the branch that its conditions leave; the services are read off at an operation that may act
(`onService_acts`), and Maluk's heap operations at a heap that a context holds (`exec_malukHeapPush_held`). -/
theorem malukServesOfItsOwn : Obligations.MalukServesOfItsOwn := by
  unfold Obligations.MalukServesOfItsOwn
  refine ⟨fun sub s => rfl, fun die s w hpick => ?pageWalk, fun id s w c l hw hc hl => ?walkEnd,
    fun k s q r hheld hroom => ?deliver, fun k t s q s' pa x ht hk hfree hq hpa hown hx => ?routine,
    fun id s o args d ha hk => onService_acts ha hk rfl, fun id s o args d l ha hk hl => ?note,
    fun id s o args d ha hk => onService_acts ha hk rfl,
    fun n id s o args d ha hk hn => onService_acts ha hk (decide_eq_true hn),
    fun heap dl req cost s ho hr => exec_malukHeapPush_held ho hr, fun heap v s ho hr => exec_malukHeapPush_held ho hr⟩
  case pageWalk =>
    change execPageWalk die s = _
    simp only [execPageWalk, hpick]
  case walkEnd =>
    change execWalkEnd id s = _
    simp only [execWalkEnd, hw, hc, Option.map_some, hl]
  case deliver =>
    change execShroudDispatchDeliver k s = _
    simp only [execShroudDispatchDeliver, hheld, hroom, if_true]
  case routine =>
    have hidle : ¬ (4 ≤ t ∨ Config.shrouds ≤ k ∨ (mfind (getShroud s k).threads t).isSome) := by
      simp [Nat.not_le.mpr ht, Nat.not_le.mpr hk, hfree]
    change execShroudRoutineStart k t s = _
    simp only [execShroudRoutineStart, if_neg hidle, hq, hpa, hown, hx, Bool.false_eq_true, if_false]
  case note =>
    change execSvcNote id s = _
    rw [execSvcNote, onService_acts ha hk rfl, hl]

end Sys2Proof.Machine
end

section
/-! The meaning of every shroud instruction (R294-R296), and those that complete: control, scalars, fences, semaphores, keys and the
vector instructions (R292, R293, R297-R299, R302-R305, R307). -/

namespace Sys2Proof.Machine

/-! ### What a shroud instruction means -/

/-- The instruction does what `body` says, once a shroud thread runs a routine and the instruction's fields are legal. -/
def ShroudMeans (i : Instr) (body : State → Sh → State) : Prop := ∀ s, exec i s = shExec s (wellFormed i) (body s)

section
variable {i : Instr} {body : State → Sh → State} {s : State} {h : Sh}

/-- A thread that has a routine runs each well-formed instruction. -/
theorem routineOf_some {k t : Nat} {x : SThread} (hc : s.cur = .shroud k t)
    (hx : mfind (getShroud s k).threads t = some x) (hw : wellFormed i = true) :
    routineOf i s = some { k := k, t := t, x := x } := by
  simp only [routineOf, hc, hx, hw, if_true]

/-- The instruction's fields are legal where its thread is at its routine, so that its body runs. -/
theorem ShroudMeans.runs (hm : ShroudMeans i body) (hr : routineOf i s = some h) : exec i s = .next (body s h) :=
  (hm s).trans (shExec_next hr id)

/-- An illegal field ends the routine (R295, R296). -/
theorem ShroudMeans.illegal {k t : Nat} {x : SThread} (hm : ShroudMeans i body) (hw : wellFormed i = false)
    (hc : s.cur = .shroud k t) (hx : mfind (getShroud s k).threads t = some x) : exec i s = .next (endFault s k t x cILLEGAL) := by
  simp [hm s, shExec, hc, hx, hw]

/-- A body that gives `t` wherever `ok` holds completes with `t`. -/
theorem ShroudMeans.completes {ok : State → Sh → Prop} {t : State → Sh → State} (hm : ShroudMeans i body)
    (hb : ∀ s h, ok s h → body s h = t s h) : ShroudCompletes i ok t :=
  fun s h hr hok => (hm.runs hr).trans (congrArg Host.Outcome.next (hb s h hok))

/-! The checks that the formats make are what makes an instruction well formed. In each lemma `g` is the instruction's `exec`. -/

variable (g : State → Host.Outcome State Fault Refusal)

theorem shroudMeans_sr {op : Nat} {f : SR} (hv : view i = .sr op f)
    (hg : ∀ s, exec i s = g s ∧ g s = shExec s (srOk op f) (body s)) : ShroudMeans i body := fun s => by
  simp only [hg s, wellFormed, check, hv, isNone_ite]

theorem shroudMeans_si {op : Nat} {f : SI} (hv : view i = .si op f)
    (hg : ∀ s, exec i s = g s ∧ g s = shExec s (siOk op f) (body s)) : ShroudMeans i body := fun s => by
  simp only [hg s, wellFormed, check, hv, isNone_ite]

theorem shroudMeans_sf {op : Nat} {f : SF} (hv : view i = .sf op f)
    (hg : ∀ s, exec i s = g s ∧ g s = shExec s (isS f.d && isS f.a && decide (f.fn.toNat < 12)) (body s)) :
    ShroudMeans i body := fun s => by
  simp only [hg s, wellFormed, check, hv, isNone_ite, isS]

theorem shroudMeans_sb {op : Nat} {f : SB} (hv : view i = .sb op f) (ho : (op == 1) = false)
    (hg : ∀ s, exec i s = g s ∧ g s = shExec s (isS f.a && f.z == 0) (body s)) : ShroudMeans i body := fun s => by
  obtain ⟨hx, hg⟩ := hg s
  rw [hx, hg, Bool.and_comm]
  simp only [wellFormed, check, hv, isNone_ite, ho, Bool.false_eq_true, if_false, isS]

end

/-- SJMP's check is its own: its field A is zero. -/
theorem shroudMeans_sjmp (f : SB) : ShroudMeans (.sjmp f) (fun s h => shBranch s h f true false h.x) := fun s => by
  change execSjmp f s = _
  rw [execSjmp, Bool.and_comm]
  simp only [wellFormed, check, view, isNone_ite]
  rfl

/-! The branches each ask whether they are taken, and whether the register that decides is poisoned (R297). -/

theorem shroudMeans_sbrz (f : SB) : ShroudMeans (.sbrz f) (fun s h =>
    shBranch s h f (sreg h.x f.a == 0) (spoisd h.x f.a) h.x) :=
  shroudMeans_sb (execSbrz f) rfl rfl fun _ => ⟨rfl, rfl⟩

theorem shroudMeans_sbrnz (f : SB) : ShroudMeans (.sbrnz f) (fun s h =>
    shBranch s h f (sreg h.x f.a != 0) (spoisd h.x f.a) h.x) :=
  shroudMeans_sb (execSbrnz f) rfl rfl fun _ => ⟨rfl, rfl⟩

theorem shroudMeans_sloop (f : SB) : ShroudMeans (.sloop f) (fun s h =>
    shBranch s h f (sreg h.x f.a - 1 != 0) (spoisd h.x f.a) (setS h.x f.a (sreg h.x f.a - 1) false)) :=
  shroudMeans_sb (execSloop f) rfl rfl fun _ => ⟨rfl, rfl⟩

/-- Every instruction that is neither a core instruction nor an event has a meaning for a shroud thread. -/
theorem exists_shroudMeans (i : Instr) (h : (isCore i || isEvent i) = false) : ∃ body, ShroudMeans i body := by
  cases i with
  | sjmp f => exact ⟨_, shroudMeans_sjmp f⟩
  | sbrz f => exact ⟨_, shroudMeans_sbrz f⟩
  | sbrnz f => exact ⟨_, shroudMeans_sbrnz f⟩
  | sloop f => exact ⟨_, shroudMeans_sloop f⟩
  | salui f => exact ⟨_, shroudMeans_sf (execSalui f) rfl fun _ => ⟨rfl, rfl⟩⟩
  | smovi f => exact ⟨_, shroudMeans_si (execSmovi f) rfl fun _ => ⟨rfl, rfl⟩⟩
  | sld f => exact ⟨_, shroudMeans_si (execSld f) rfl fun _ => ⟨rfl, rfl⟩⟩
  | sst f => exact ⟨_, shroudMeans_si (execSst f) rfl fun _ => ⟨rfl, rfl⟩⟩
  | send f => exact ⟨_, shroudMeans_sr (execSend f) rfl fun _ => ⟨rfl, rfl⟩⟩
  | salu f => exact ⟨_, shroudMeans_sr (execSalu f) rfl fun _ => ⟨rfl, rfl⟩⟩
  | sfence f => exact ⟨_, shroudMeans_sr (execSfence f) rfl fun _ => ⟨rfl, rfl⟩⟩
  | ssem f => exact ⟨_, shroudMeans_sr (execSsem f) rfl fun _ => ⟨rfl, rfl⟩⟩
  | skey f => exact ⟨_, shroudMeans_sr (execSkey f) rfl fun _ => ⟨rfl, rfl⟩⟩
  | vld f => exact ⟨_, shroudMeans_sr (execVld f) rfl fun _ => ⟨rfl, rfl⟩⟩
  | vst f => exact ⟨_, shroudMeans_sr (execVst f) rfl fun _ => ⟨rfl, rfl⟩⟩
  | valu f => exact ⟨_, shroudMeans_sr (execValu f) rfl fun _ => ⟨rfl, rfl⟩⟩
  | vfma f => exact ⟨_, shroudMeans_sr (execVfma f) rfl fun _ => ⟨rfl, rfl⟩⟩
  | vsqrt f => exact ⟨_, shroudMeans_sr (execVsqrt f) rfl fun _ => ⟨rfl, rfl⟩⟩
  | vdiv f => exact ⟨_, shroudMeans_sr (execVdiv f) rfl fun _ => ⟨rfl, rfl⟩⟩
  | vbcast f => exact ⟨_, shroudMeans_sr (execVbcast f) rfl fun _ => ⟨rfl, rfl⟩⟩
  | vred f => exact ⟨_, shroudMeans_sr (execVred f) rfl fun _ => ⟨rfl, rfl⟩⟩
  | vcmp f => exact ⟨_, shroudMeans_sr (execVcmp f) rfl fun _ => ⟨rfl, rfl⟩⟩
  | vsel f => exact ⟨_, shroudMeans_sr (execVsel f) rfl fun _ => ⟨rfl, rfl⟩⟩
  | vspk f => exact ⟨_, shroudMeans_sr (execVspk f) rfl fun _ => ⟨rfl, rfl⟩⟩
  | _ => cases h

/-! ### Control, scalars, fences, semaphores and keys -/

/-- Settles O24: a branch by `shBranch_next`, each other instruction on the branch of its meaning that its conditions leave. -/
theorem shroudScalarsComplete : Obligations.ShroudScalarsComplete := by
  unfold Obligations.ShroudScalarsComplete
  refine ⟨fun f => ?sjmp, fun f => ?sbrz, fun f => ?sbrnz, fun f => ?sloop, fun f => ?send,
    fun f => (shroudMeans_sr (execSalu f) rfl fun _ => ⟨rfl, rfl⟩).completes fun _ _ _ => rfl,  -- SALU
    fun f => (shroudMeans_sf (execSalui f) rfl fun _ => ⟨rfl, rfl⟩).completes fun _ _ _ => rfl,  -- SALUI
    fun f => (shroudMeans_si (execSmovi f) rfl fun _ => ⟨rfl, rfl⟩).completes fun _ _ _ => rfl,  -- SMOVI
    fun f => ?sfence, fun f => ?skey, fun f => ?ssem⟩
  case sjmp => exact (shroudMeans_sjmp f).completes fun s h hin => shBranch_next fun _ => hin
  case sbrz =>
    refine (shroudMeans_sbrz f).completes fun s h ⟨hp, hin⟩ => ?_
    rw [hp, shBranch_next fun ht => hin (beq_iff_eq.1 ht)]
    simp only [beq_iff_eq]
  case sbrnz =>
    refine (shroudMeans_sbrnz f).completes fun s h ⟨hp, hin⟩ => ?_
    rw [hp, shBranch_next fun ht => hin (bne_iff_ne.1 ht)]
    simp only [bne_iff_ne]
  case sloop =>
    refine (shroudMeans_sloop f).completes fun s h ⟨hp, hin⟩ => ?_
    rw [hp, shBranch_next fun ht => hin (bne_iff_ne.1 ht)]
    simp only [bne_iff_ne]
  case send =>
    refine (shroudMeans_sr (execSend f) rfl fun _ => ⟨rfl, rfl⟩).completes fun s h ⟨hdeps, hown⟩ => ?_
    rw [hdeps, hown]
    rfl
  case sfence =>
    refine (shroudMeans_sr (execSfence f) rfl fun _ => ⟨rfl, rfl⟩).completes fun s h hg => if_neg ?_
    simp [hg]
  case skey =>
    refine (shroudMeans_sr (execSkey f) rfl fun _ => ⟨rfl, rfl⟩).completes fun s h ⟨ha, hb⟩ => if_neg ?_
    simp [ha, hb]
  case ssem =>
    refine (shroudMeans_sr (execSsem f) rfl fun _ => ⟨rfl, rfl⟩).completes
      fun s h ⟨hscope, hhigh, hvalid, hcore, hp⟩ => ?_
    have hfield : ¬ ((sreg h.x f.a).toNat / 2 ^ 16 ≠ 0 ∨ (!bitOf (sreg h.x f.a).toNat 15) = true
        ∨ 48 ≤ bitsOf (sreg h.x f.a).toNat 11 6) := by
      rintro (hx | hx | hx)
      · exact hx hhigh
      · rw [hvalid] at hx
        cases hx
      · exact absurd hcore (Nat.not_lt.mpr hx)
    simp only [hscope, hp, if_neg hfield, Bool.false_eq_true, if_false]

/-! ### Vectors -/

/-- Settles O25: each is its meaning, with no check of its own and no fault. -/
theorem shroudVectorsComplete : Obligations.ShroudVectorsComplete := by
  unfold Obligations.ShroudVectorsComplete
  exact ⟨fun f => (shroudMeans_sr (execValu f) rfl fun _ => ⟨rfl, rfl⟩).completes fun _ _ _ => rfl,  -- VALU
    fun f => (shroudMeans_sr (execVfma f) rfl fun _ => ⟨rfl, rfl⟩).completes fun _ _ _ => rfl,  -- VFMA
    fun f => (shroudMeans_sr (execVsqrt f) rfl fun _ => ⟨rfl, rfl⟩).completes fun _ _ _ => rfl,  -- VSQRT
    fun f => (shroudMeans_sr (execVdiv f) rfl fun _ => ⟨rfl, rfl⟩).completes fun _ _ _ => rfl,  -- VDIV
    fun f => (shroudMeans_sr (execVbcast f) rfl fun _ => ⟨rfl, rfl⟩).completes fun _ _ _ => rfl,  -- VBCAST
    fun f => (shroudMeans_sr (execVcmp f) rfl fun _ => ⟨rfl, rfl⟩).completes fun _ _ _ => rfl,  -- VCMP
    fun f => (shroudMeans_sr (execVsel f) rfl fun _ => ⟨rfl, rfl⟩).completes fun _ _ _ => rfl,  -- VSEL
    fun f => (shroudMeans_sr (execVred f) rfl fun _ => ⟨rfl, rfl⟩).completes fun _ _ _ => rfl,  -- VRED
    fun f => (shroudMeans_sr (execVspk f) rfl fun _ => ⟨rfl, rfl⟩).completes fun _ _ _ => rfl⟩  -- VSPK

end Sys2Proof.Machine
end

section
/-! Shroud loads and stores (R293, R296, R299-R301, R306): those that complete, and the order in which an access faults. -/

namespace Sys2Proof.Machine

/-! ### SLD, SST, VLD and VST complete -/

/-- Elements of n bytes each, one after another. -/
theorem length_flatMap_range {α : Type} {el : Nat → List α} {n e : Nat} (h : ∀ k, (el k).length = e) :
    ((List.range n).flatMap el).length = n * e := by
  simp [List.length_flatMap, h]

/-- Settles O26: a load by `shLoad_next`, a store by `shStore_next`. -/
theorem shroudMemoryCompletes : Obligations.ShroudMemoryCompletes := by
  unfold Obligations.ShroudMemoryCompletes
  refine ⟨fun f s h s' pa hr ha hp hf hm => ?sld, fun f s h s' pa hr ha hp hm => ?sst,
    fun f s h s' pa hr => ?vld, fun f s h s' pa hr => ?vst⟩
  case sld =>
    refine ((shroudMeans_si (execSld f) rfl fun _ => ⟨rfl, rfl⟩).runs hr).trans (congrArg Host.Outcome.next ?_)
    exact shLoad_next (by simp [ha]) hp hf hm
  case sst =>
    refine ((shroudMeans_si (execSst f) rfl fun _ => ⟨rfl, rfl⟩).runs hr).trans (congrArg Host.Outcome.next ?_)
    rw [hp]
    exact shStore_next ha hm
  case vld =>
    intro fm col e va offs hcol ha hp hf hm
    refine ((shroudMeans_sr (execVld f) rfl fun _ => ⟨rfl, rfl⟩).runs hr).trans (congrArg Host.Outcome.next ?_)
    refine shLoad_next ?_ hp hf hm
    have hsector : (!col || va % 1024 / 32 % 16 == 0) = true := by
      cases hc : col with
      | false => rfl
      | true => simpa using hcol hc
    change (!(!col || va % 1024 / 32 % 16 == 0) || va % (if col then 2 else 16 * e) != 0) = false
    rw [hsector, ha]
    rfl
  case vst =>
    intro g e n va ha hp hcoord hm
    refine ((shroudMeans_sr (execVst f) rfl fun _ => ⟨rfl, rfl⟩).runs hr).trans (congrArg Host.Outcome.next ?_)
    have hscalars : (spoisd h.x f.a || (f.f.toNat / 8 % 8 == 4 && spoisd h.x f.b)) = false := by
      rw [hp, Bool.false_or, Bool.and_eq_false_imp]
      exact fun h4 => hcoord (beq_iff_eq.1 h4)
    simp only [hscalars]
    refine shStore_next ha ?_
    rw [length_flatMap_range fun k => length_leBytes _ _]
    exact hm

end Sys2Proof.Machine
end

section
/-! Faults end a shroud routine (R293, R295-R297, R299-R301, R305): the order in which an instruction meets them, and what the
end of the routine leaves. -/

namespace Sys2Proof.Machine

/-! ### Branches -/

section
variable {s : State} {h : Sh} {f : SB} {taken poison : Bool} {x : SThread}

theorem shBranch_outside (ht : taken = true) (ho : ¬ shInside h f) :
    shBranch s h f taken poison x = endFault s h.k h.t h.x cTARGET := by
  unfold shBranch
  dsimp only
  rw [if_pos]
  · rfl
  · unfold shInside shTarget at ho
    simp only [ht, Bool.true_and, Bool.or_eq_true, decide_eq_true_eq]
    omega

theorem shBranch_poisoned (ht : taken = true → shInside h f) :
    shBranch s h f taken true x = endFault s h.k h.t h.x cPOISON := by
  unfold shBranch
  dsimp only
  rw [if_neg]
  · rfl
  · simp only [Bool.and_eq_true, Bool.or_eq_true, decide_eq_true_eq, not_and, not_or]
    intro h1
    obtain ⟨hlow, hhigh⟩ := ht h1
    unfold shTarget at hlow hhigh
    omega

/-- A branch ends the routine where it is taken out of it, else where its register is poisoned (R296, R297). -/
theorem branch_faults {i : Instr} {taken poison : State → Sh → Bool} {x : State → Sh → SThread}
    (hm : ShroudMeans i (fun s h => shBranch s h f (taken s h) (poison s h) (x s h))) (hr : routineOf i s = some h) :
    (taken s h = true → ¬ shInside h f → exec i s = .next (endFault s h.k h.t h.x 0x02)) ∧
    ((taken s h = true → shInside h f) → poison s h = true → exec i s = .next (endFault s h.k h.t h.x 0x0D)) := by
  refine ⟨fun ht ho => ?_, fun hin hp => ?_⟩
  · exact (hm.runs hr).trans (congrArg Host.Outcome.next (shBranch_outside ht ho))
  · rw [hm.runs hr, hp, shBranch_poisoned hin]
    rfl

end

/-! ### Accesses -/

/-- An access that its instruction does not align. -/
def shMisaligned (va align : Nat) (al : Bool) : Bool := !al || va % align != 0

section
variable {s s' : State} {h : Sh} {va align bytes pa b r : Nat} {acc : Acc} {al poison : Bool} {go : State → Nat → State}

theorem shAccess_misaligned (ha : shMisaligned va align al = true) :
    shAccess s h va align bytes acc al poison go = endFault s h.k h.t h.x cALIGN := by
  unfold shAccess
  exact if_pos ha

/-- An aligned access that finds no page it may reach (R296). -/
theorem shAccess_unmapped (ha : shMisaligned va align al = false)
    (hr : resolveAt s (shroudUnit h.k) h.x.ctx va acc (.routine h.k h.t) = (s', .error r)) :
    shAccess s h va align bytes acc al poison go = endFault s' h.k h.t h.x cPAGE := by
  unfold shMisaligned at ha
  simp [shAccess, ha, hr, Sh.fail]

/-- An aligned write that reaches an argument block (R62). -/
theorem shAccess_argBlock (ha : shMisaligned va align al = false)
    (hr : resolveAt s (shroudUnit h.k) h.x.ctx va .write (.routine h.k h.t) = (s', .ok pa))
    (hb : argsIn s' h.x.ctx va bytes = some b) :
    shAccess s h va align bytes .write al poison go = endFault s' h.k h.t h.x cPAGE := by
  unfold shMisaligned at ha
  simp [shAccess, ha, hr, hb, Sh.fail]

theorem shAccess_poisoned (ha : shMisaligned va align al = false) (hm : ShMapped s h va bytes acc s' pa) :
    shAccess s h va align bytes acc al true go = endFault s' h.k h.t h.x cPOISON := by
  obtain ⟨hr, hargs⟩ := hm
  have hfree : (if acc = .write then argsIn s' h.x.ctx va bytes else none) = none := by
    split
    · exact hargs ‹_›
    · rfl
  unfold shMisaligned at ha
  simp [shAccess, ha, hr, hfree, Sh.fail]

/-- An access meets its faults in their order (R296); a read asks nothing of its number of bytes. -/
theorem access_faults {i : Instr} {n : Nat} {misaligned : Prop}
    (hx : exec i s = .next (shAccess s h va align bytes acc al poison go))
    (ha : misaligned ↔ shMisaligned va align al = true) (hn : acc = .write → n = bytes) :
    StoreFaults i s h va n misaligned poison acc := by
  have aligned : ¬ misaligned → shMisaligned va align al = false := fun hna => Bool.eq_false_iff.2 (mt ha.2 hna)
  refine ⟨fun hma => ?_, fun hna s' r hr => ?_, fun hna hw s' pa b hr hb => ?_, fun hna hp s' pa hm => ?_⟩
  · rw [hx, shAccess_misaligned (ha.1 hma)]
    rfl
  · rw [hx, shAccess_unmapped (aligned hna) hr]
    rfl
  · subst hw
    rw [hx, shAccess_argBlock (aligned hna) hr (hn rfl ▸ hb)]
    rfl
  · obtain ⟨hr, hargs⟩ := hm
    rw [hx, hp, shAccess_poisoned (aligned hna) ⟨hr, fun hw => hn hw ▸ hargs hw⟩]
    rfl

/-- A load that waits for nothing is an access (R306). -/
theorem shLoad_free {a : BitVec 5} {offs : List Nat} {go : List Byte → List Bool → SThread} (hf : ShFree s h va offs) :
    shLoad s h va align bytes al a offs go = shAccess s h va align bytes .read al (spoisd h.x a) (fun s pa =>
      shNext s h (go (offs.map (fun o => rdByte s (pa + o))) (offs.map (fun o => isPoisoned s (quarterOf (pa + o)))))) := by
  obtain ⟨hblocked, hfence⟩ := hf
  unfold shLoad
  dsimp only
  rw [if_neg]
  cases hx : translate s (shroudUnit h.k) h.x.ctx va .read with
  | ok pa => simp [hblocked pa hx]
  | error r =>
    cases r with
    | zero => simp [hfence hx]
    | succ => simp

/-- A load meets its faults in their order (R296). -/
theorem load_faults {i : Instr} {misaligned : Prop} {a : BitVec 5} {offs : List Nat} {go : List Byte → List Bool → SThread}
    (hx : exec i s = .next (shLoad s h va align bytes al a offs go)) (ha : misaligned ↔ shMisaligned va align al = true) :
    LoadFaults i s h va offs misaligned (spoisd h.x a) :=
  fun hf => access_faults (hx.trans (congrArg Host.Outcome.next (shLoad_free hf))) ha (fun hw => nomatch hw)

/-- A store meets its faults in their order (R296). -/
theorem store_faults {i : Instr} {n : Nat} {bs : List Byte} {pois : List Bool}
    (hx : exec i s = .next (shStore s h va align bs pois poison)) (hn : n = bs.length) :
    StoreFaults i s h va n (va % align ≠ 0) poison :=
  access_faults hx (by simp [shMisaligned]) (fun _ => hn)

end

/-! ### Translations -/

section
variable {s : State} {unit ctx va pa r : Nat} {a : Acc} {x : Exec}

theorem resolveAt_ok (ht : translate s unit ctx va a = .ok pa) :
    resolveAt s unit ctx va a x = (touchUnit s unit ctx va x, .ok pa) := by
  simp only [resolveAt, resolvePa, ht]

/-- Only an absent page is made present (R291). -/
theorem resolveAt_error (ht : translate s unit ctx va a = .error r) (hr : r ≠ 0) :
    resolveAt s unit ctx va a x = (s, .error r) := by
  cases r with
  | zero => exact absurd rfl hr
  | succ r => simp only [resolveAt, resolvePa, ht]

/-- Bits above 55 are no address (R343). -/
theorem translate_high {c : Ctx} (hc : mfind s.ctxs ctx = some c) (hv : 2 ^ 56 ≤ va) :
    translate s unit ctx va a = .error 3 := by
  simp only [translate, hc, if_pos hv]

end

/-! ### The end of a routine -/

section
variable {s : State} {k t pa code : Nat} {x : SThread}

/-- An engine that owns the record's line holds the end back (R99). -/
theorem endFault_owned (ho : recordOwned s (shroudUnit k) x = true) : endFault s k t x code = s := if_pos ho

theorem binFlush_only (s : State) (lid : Nat) : ∃ c, binFlush s lid = { s with cores := c } := by
  unfold binFlush
  split
  · exact ⟨_, rfl⟩
  · split
    · exact ⟨_, rfl⟩
    · exact ⟨_, rfl⟩

/-- Freeing a thread takes it out of its shroud, and changes bins at most besides (R43). -/
theorem freeThread_only (s : State) (k t : Nat) : ∃ c, freeThread s k t =
    { setShroud s k { getShroud s k with threads := mdel (getShroud s k).threads t } with cores := c } := by
  unfold freeThread
  dsimp only
  split
  · exact ⟨_, rfl⟩
  · exact binFlush_only _ _

theorem mfind_freeThread (s : State) (k t : Nat) : mfind (getShroud (freeThread s k t) k).threads t = none := by
  obtain ⟨c, hc⟩ := freeThread_only s k t
  rw [hc]
  change mfind (mget {} (mset {} s.shrouds k _) k).threads t = none
  rw [mget_mset, if_pos rfl, mfind_mdel, if_pos rfl]

/-- A fault frees the thread (R296). -/
theorem endFault_frees (ho : recordOwned s (shroudUnit k) x = false) :
    mfind (getShroud (endFault s k t x code) k).threads t = none := by
  unfold endFault
  rw [ho, if_neg Bool.false_ne_true]
  exact mfind_freeThread _ k t

/-- The end of a routine whose record's page is present (R296). -/
theorem endFault_present (ho : recordOwned s (shroudUnit k) x = false)
    (ht : translate s (shroudUnit k) x.ctx x.record .write = .ok pa) : endFault s k t x code =
      dropWalks (freeThread (postTaskFault (setFlags (touchUnit s (shroudUnit k) x.ctx x.record (.routine k t)) pa 16)
        x.ctx (some x.launch) x.record code x.word) k t) (· == .routine k t) := by
  unfold endFault
  rw [ho, if_neg Bool.false_ne_true, resolveAt_ok ht]

/-- What the end of a routine leaves of memory and events once its fault is posted. -/
theorem freed_memory_events (s : State) (k t : Nat) (p : Exec → Bool) :
    (dropWalks (freeThread s k t) p).mem = s.mem ∧ (dropWalks (freeThread s k t) p).events = s.events := by
  obtain ⟨c, hc⟩ := freeThread_only s k t
  rw [hc]
  exact ⟨rfl, rfl⟩

end

/-! ### Words written at the home -/

/-- A word written at its home is its four bytes, with caches, versions and poison (R87, R95, R103). -/
theorem wrWord_only (s : State) (pa v : Nat) : ∃ c o p r,
    wrWord s pa v = { wrBytes s pa (leBytes 4 v) with cached := c, stale := o, pois := p, vers := r } := by
  obtain ⟨c, o, p, hq⟩ := performQuarter_eq s .home 0 pa (BitVec.ofNat 8 v)
    [(pa + 1, BitVec.ofNat 8 (v / 256)), (pa + 2, BitVec.ofNat 8 (v / 256 / 256)),
      (pa + 3, BitVec.ofNat 8 (v / 256 / 256 / 256))] false
  exact ⟨c, o, p, _, hq⟩

theorem leVal_lt (bs : List Byte) : leVal bs < 2 ^ (8 * bs.length) := by
  induction bs with
  | nil => exact Nat.one_pos
  | cons b bs ih =>
    have hb := b.isLt
    rw [leVal, List.length_cons, Nat.mul_succ, Nat.pow_add]
    omega

theorem rdMem_lt (s : State) (pa n : Nat) : rdMem s pa n < 2 ^ (8 * n) := by
  have h := leVal_lt (rdBytes s pa n)
  rwa [show (rdBytes s pa n).length = n by simp [rdBytes, rangeFrom]] at h

/-- Memory alone is what a read depends on. -/
theorem rdMem_congr {s t : State} (h : t.mem = s.mem) (pa n : Nat) : rdMem t pa n = rdMem s pa n := by
  unfold rdMem rdBytes rdByte
  rw [h]

theorem mem_rangeFrom {a n k : Nat} : k ∈ rangeFrom a n ↔ a ≤ k ∧ k < a + n := by
  simp only [rangeFrom, List.mem_map, List.mem_range]
  constructor
  · rintro ⟨i, hi, rfl⟩
    omega
  · intro h
    exact ⟨k - a, by omega, by omega⟩

/-! ### What the end leaves -/

section
variable {s : State} {k t pa code : Nat} {x : SThread}

/-- Setting flags of a record writes one word, and posts nothing. -/
theorem setFlags_touched (s : State) (unit ctx va : Nat) (e : Exec) (pa bits : Nat) : ∃ c o p r w l n g,
    setFlags (touchUnit s unit ctx va e) pa bits =
      { wrBytes s (pa + 4) (leBytes 4 (Nat.lor (rdMem s (pa + 4) 4) bits)) with
        cached := c, stale := o, pois := p, vers := r, walks := w, tlb := l, nextId := n, groups := g } := by
  obtain ⟨⟨w, l, n, g, hu⟩, -⟩ := notesMisses_touchUnit s unit ctx va e
  obtain ⟨c, o, p, r, hw⟩ := wrWord_only (touchUnit s unit ctx va e) (pa + 4)
    (Nat.lor (rdMem (touchUnit s unit ctx va e) (pa + 4) 4) bits)
  refine ⟨c, o, p, r, w, l, n, g, ?_⟩
  rw [setFlags, hw, hu]
  rfl

/-- A fault report to a launch that there is appends one event, to the launch's endpoint (R388). -/
theorem postTaskFault_launch (s : State) (ctx lid va code off : Nat) :
    (postTaskFault s ctx (some lid) va code off).mem = s.mem ∧
    ∀ l, mfind s.launches lid = some l → ∃ e, (postTaskFault s ctx (some lid) va code off).events = s.events ++ [e] ∧
      e.kind = 0x82 ∧ e.endpoint = l.endpoint ∧ e.body = leBytes 8 va ++ leBytes 4 code ++ leBytes 4 off := by
  unfold postTaskFault postLaunch
  dsimp only
  split
  · next hl => exact ⟨rfl, fun l h => nomatch hl.symm.trans h⟩
  · next l hl =>
    refine ⟨rfl, fun l' h => ?_⟩
    obtain rfl : l = l' := Option.some.inj (hl.symm.trans h)
    exact ⟨_, rfl, rfl, rfl, rfl⟩

/-- The end of a routine writes its record's FLAGS, and no byte besides. -/
theorem endFault_mem (ho : recordOwned s (shroudUnit k) x = false)
    (ht : translate s (shroudUnit k) x.ctx x.record .write = .ok pa) :
    (endFault s k t x code).mem = (wrBytes s (pa + 4) (leBytes 4 (Nat.lor (rdMem s (pa + 4) 4) 16))).mem := by
  obtain ⟨c, o, p, r, w, l, n, g, hf⟩ := setFlags_touched s (shroudUnit k) x.ctx x.record (.routine k t) pa 16
  rw [endFault_present ho ht, (freed_memory_events _ k t _).1, (postTaskFault_launch _ _ _ _ _ _).1, hf]

/-- FLAGS.FAULT is set in the record (R244, R296). -/
theorem endFault_flags (ho : recordOwned s (shroudUnit k) x = false)
    (ht : translate s (shroudUnit k) x.ctx x.record .write = .ok pa) :
    rdMem (endFault s k t x code) (pa + 4) 4 = Nat.lor (rdMem s (pa + 4) 4) 16 := by
  rw [rdMem_congr (endFault_mem ho ht), rdMem_wrBytes]
  exact Nat.mod_eq_of_lt (Nat.or_lt_two_pow (rdMem_lt s (pa + 4) 4) (by decide))

theorem endFault_onlyBytes (ho : recordOwned s (shroudUnit k) x = false)
    (ht : translate s (shroudUnit k) x.ctx x.record .write = .ok pa) :
    OnlyBytes (rangeFrom (pa + 4) 4) s (endFault s k t x code) := by
  intro a ha
  rw [mem_rangeFrom] at ha
  calc rdByte (endFault s k t x code) a
      = rdByte (wrBytes s (pa + 4) (leBytes 4 (Nat.lor (rdMem s (pa + 4) 4) 16))) a := by rw [rdByte, endFault_mem ho ht, rdByte]
    _ = rdByte s a := rdByte_wrBytes_out (by rw [length_leBytes]; omega)

/-- The launch's endpoint hears of the fault (R296, R388). -/
theorem endFault_event (ho : recordOwned s (shroudUnit k) x = false)
    (ht : translate s (shroudUnit k) x.ctx x.record .write = .ok pa) {l : Launch} (hl : mfind s.launches x.launch = some l) :
    ∃ e, (endFault s k t x code).events = s.events ++ [e] ∧ e.kind = 0x82 ∧ e.endpoint = l.endpoint ∧
      e.body = leBytes 8 x.record ++ leBytes 4 code ++ leBytes 4 x.word := by
  obtain ⟨c, o, p, r, w, tl, n, g, hf⟩ := setFlags_touched s (shroudUnit k) x.ctx x.record (.routine k t) pa 16
  have hrest := wrBytes_rest s (pa + 4) (leBytes 4 (Nat.lor (rdMem s (pa + 4) 4) 16))
  rw [endFault_present ho ht, (freed_memory_events _ k t _).2, hf, hrest]
  exact (postTaskFault_launch _ _ _ _ _ _).2 l hl

end

/-! ### The faults of each instruction -/

/-- What SSEM's own check asks of its word is that the word breaks its layout (R227, R305). -/
theorem semWord_malformed {w : Nat} : (w / 2 ^ 16 ≠ 0 ∨ (!bitOf w 15) = true ∨ 48 ≤ bitsOf w 11 6) ↔
    (2 ^ 16 ≤ w ∨ bitOf w 15 = false ∨ 48 ≤ bitsOf w 11 6) :=
  or_congr (by omega) (or_congr (by simp) Iff.rfl)

/-- SFENCE of scope FAB ends the routine where the grant has no FABRIC (R151, R154). -/
theorem sfence_denied {s : State} {h : Sh} {f : SR} (hr : routineOf (.sfence f) s = some h) (hscope : f.f.toNat % 8 = 5)
    (hg : h.granted s 9 = false) : exec (.sfence f) s = .next (endFault s h.k h.t h.x cILLEGAL) := by
  have hdenied : scopeDenied s h f = true := by simp [scopeDenied, hscope, hg]
  refine ((shroudMeans_sr (execSfence f) rfl fun _ => ⟨rfl, rfl⟩).runs hr).trans (congrArg Host.Outcome.next ?_)
  exact if_pos hdenied

/-- Settles O36: an instruction's faults are read off its meaning, in the order of its checks (`branch_faults`, `load_faults`,
`store_faults`), and what the end leaves is `endFault_frees`, `endFault_flags`, `endFault_onlyBytes` and `endFault_event`. -/
theorem shroudFaultsTaken : Obligations.ShroudFaultsTaken := by
  unfold Obligations.ShroudFaultsTaken
  refine ⟨fun i s k t x hcore hevent hw hc hx => ?illegal, fun i f s h taken poison hi hr => ?branch,
    fun f s h va hr hva => ?sld, fun f s h va hr hva => ?sst,
    fun f s h va e hr hva he => ?vld, fun f s h va e n hr hva he hn => ?vst,
    fun s unit ctx c va a x hc => ⟨fun hv => resolveAt_error (translate_high hc hv) (by decide),
      fun r ht hr => resolveAt_error ht hr⟩,
    fun f s h hr => ?ssem, fun f s h hr hscope hg => sfence_denied hr hscope hg, fun f s h hr hp => ?skey,
    fun s k t x code ho => endFault_owned ho, fun s k t x code pa ho ht => ?ended⟩
  case illegal =>
    obtain ⟨body, hm⟩ := exists_shroudMeans i (by rw [hcore, hevent]; rfl)
    exact hm.illegal hw hc hx
  case branch =>
    obtain ⟨rfl, rfl, rfl⟩ | ⟨rfl, rfl, rfl⟩ | ⟨rfl, rfl, rfl⟩ | ⟨rfl, -, rfl, rfl⟩ := hi
    · exact branch_faults (taken := fun _ _ => true) (poison := fun _ _ => false) (shroudMeans_sjmp f) hr
    · exact branch_faults (shroudMeans_sbrz f) hr
    · exact branch_faults (shroudMeans_sbrnz f) hr
    · exact branch_faults (shroudMeans_sloop f) hr
  case sld =>
    subst hva
    exact load_faults ((shroudMeans_si (execSld f) rfl fun _ => ⟨rfl, rfl⟩).runs hr) (by simp [shMisaligned])
  case sst =>
    subst hva
    exact store_faults ((shroudMeans_si (execSst f) rfl fun _ => ⟨rfl, rfl⟩).runs hr) (length_leBytes _ _).symm
  case vld =>
    subst hva he
    have hx := (shroudMeans_sr (execVld f) rfl fun _ => ⟨rfl, rfl⟩).runs hr
    dsimp only at hx
    refine ⟨fun hrow => ?_, fun hcol => ?_⟩
    · simp only [hrow, Bool.false_eq_true, if_false] at hx
      exact load_faults hx (by simp [shMisaligned, vBytes])
    · simp only [hcol, if_true] at hx
      exact load_faults hx (by simp [shMisaligned, or_comm])
  case vst =>
    subst hva he hn
    refine store_faults ((shroudMeans_sr (execVst f) rfl fun _ => ⟨rfl, rfl⟩).runs hr) ?_
    exact (length_flatMap_range fun k => length_leBytes _ _).symm
  case ssem =>
    intro w bad
    have hx := (shroudMeans_sr (execSsem f) rfl fun _ => ⟨rfl, rfl⟩).runs hr
    dsimp only at hx
    refine ⟨fun hd => ?_, fun hd hb => ?_, fun hd hb hp => ?_⟩
    · rw [hx, if_pos hd]
      rfl
    · rw [hx, if_neg (by rw [hd]; exact Bool.false_ne_true), if_pos (semWord_malformed.2 hb)]
      rfl
    · rw [hx, if_neg (by rw [hd]; exact Bool.false_ne_true), if_neg (mt semWord_malformed.1 hb), if_pos hp]
      rfl
  case skey =>
    refine ((shroudMeans_sr (execSkey f) rfl fun _ => ⟨rfl, rfl⟩).runs hr).trans (congrArg Host.Outcome.next ?_)
    exact if_pos (by simpa using hp)
  case ended =>
    exact ⟨endFault_frees ho, endFault_flags ho ht, endFault_onlyBytes ho ht, fun l hl => endFault_event ho ht hl⟩

end Sys2Proof.Machine
end

section
/-! SFENCE where its scope is denied: the statement that shroud arithmetic changes only its destination does not hold (O47). -/

namespace Sys2Proof.Machine

/-- A routine that ends leaves no frame: its thread is gone (R296). -/
theorem endFault_not_framed {s : State} {h : Sh} {code : Nat} {R : SThread → SThread → Prop}
    (ho : recordOwned s (shroudUnit h.k) h.x = false) : ¬ ShroudFramed R s (endFault s h.k h.t h.x code) h := by
  rintro ⟨-, -, -, -, -, y, hy, -⟩
  rw [endFault_frees ho] at hy
  cases hy

/-- SFENCE of scope FAB. -/
def fabricFence : SR := { d := 0, a := 0, b := 0, f := 5 }

/-- The machine after reset with a shroud thread at its only word, of a context whose VI has no FABRIC in its grant. -/
def noFabric : State := { placeShroud State.reset [] with vis := [(1, { src := 0, pkey := 0, grant := 0, endpoint := 0 })] }

/-- Its thread. -/
def noFabricThread : Sh :=
  { k := 0, t := 0, x := { ctx := 1, launch := 1, record := 0, routine := 0, code := placedFrame, len := 1 } }

theorem noFabric_routine : routineOf (.sfence fabricFence) noFabric = some noFabricThread :=
  routineOf_some (by decide +kernel) (by decide +kernel) (by decide +kernel)

theorem noFabric_grant : noFabricThread.granted noFabric 9 = false := by decide +kernel

theorem noFabric_unowned : recordOwned noFabric (shroudUnit noFabricThread.k) noFabricThread.x = false := by decide +kernel

/-- Refutes O47: its clause about SFENCE asks nothing of the grant. In `noFabric` an SFENCE of scope FAB, which is well
formed, ends the routine with ILLEGAL, as R151 and R154 ask and as O36 says; the thread is then free, so that it
stands at no next word (`endFault_not_framed`). -/
theorem not_shroudArithmeticFrame : ¬ Obligations.ShroudArithmeticFrame := by
  unfold Obligations.ShroudArithmeticFrame
  rintro ⟨-, -, -, -, -, -, -, -, -, -, -, -, hfence, -, -⟩
  exact endFault_not_framed noFabric_unowned (hfence fabricFence noFabric _ noFabricThread noFabric_routine
    (sfence_denied noFabric_routine (by decide) noFabric_grant))

end Sys2Proof.Machine
end

section
/-! Delivery of user-class traps (R171, R311, R347-R350): what a delivery leaves of the thread, the FAULT event of a thread that
parks, and a trap that every thread of a run takes (O51). -/

namespace Sys2Proof.Machine

/-! ### One thread -/

/-- The thread as it stands at the trap vector of its kernel (R349, R350). -/
def atVector (k : Kernel) (v : Nat) (a : TrapAt) (tr : Trap) (t : Thread) : Thread :=
  { t with st := .ready, pc := BitVec.ofNat 64 (k.text + v), trap := recordOf a tr, handler := some (handlerOf a tr) }

/-- The thread as it stands parked at its resume point (R347, R350). -/
def parkedAt (sub : Nat) (a : TrapAt) (tr : Trap) (t : Thread) : Thread :=
  { t with st := .parked sub, pc := resumePoint a, trap := recordOf a tr }

section
variable {s : State} {g : Group} {k : Kernel} {v lid gid tid sub ctx : Nat} {a : TrapAt} {tr : Trap}

theorem getGroup_modThread (hg : getGroup s gid = some g) (f : Thread → Thread) :
    getGroup (modThread s gid tid f) gid = some (setThread g tid (f (thread g tid))) := by
  rw [modThread, getGroup_modGroup, if_pos rfl, hg]
  rfl

/-- Outside handler mode, under a kernel with a trap vector, delivery moves the thread there and does nothing else. -/
theorem deliverUser_vector (hg : getGroup s gid = some g) (hv : k.trapvec = some v) (hh : (thread g tid).handler = none) :
    deliverUser s (some k) lid gid tid sub a tr = modThread s gid tid (atVector k v a tr) := by
  unfold deliverUser
  simp only [hg, Option.bind_some, hv, hh]
  rfl

/-- Without a trap vector, or in handler mode, delivery parks the thread and posts its records. -/
theorem deliverUser_parks (hg : getGroup s gid = some g) (h : k.trapvec = none ∨ (thread g tid).handler ≠ none) :
    deliverUser s (some k) lid gid tid sub a tr = postFault (modThread s gid tid (parkedAt sub a tr)) lid gid tid
      (faultRecs (thread g tid).handler (recordOf a tr)) := by
  unfold deliverUser
  simp only [hg, Option.bind_some]
  split
  · next hv hh => exact absurd h (by simp [hv, hh])
  · rfl

/-! ### The FAULT event -/

/-- The report of a fault moves no thread. -/
theorem getGroup_postFault (rs : List TrapRec) (j : Nat) : getGroup (postFault s lid gid tid rs) j = getGroup s j := by
  unfold postFault postLaunch
  split
  · rfl
  · split <;> rfl

/-- A launch hears of a fault at its endpoint: its tag, the records, the thread and the group (R388). -/
theorem postFault_event (hg : getGroup s gid = some g) (rs : List TrapRec) {l : Launch} (hl : mfind s.launches lid = some l) :
    ∃ e, (postFault s lid gid tid rs).events = s.events ++ [e] ∧ e.kind = 0x81 ∧ e.endpoint = l.endpoint ∧
      e.body = pad8 (leBytes 8 l.utag ++ rs.flatMap trapBytes ++ leBytes 4 tid ++ leBytes 4 g.grp) := by
  unfold postFault postLaunch
  simp only [hl, hg]
  exact ⟨_, rfl, rfl, rfl, rfl⟩

/-- The event of a thread outside handler mode holds its only record. -/
theorem faultRecs_bytes_none (r : TrapRec) : (faultRecs none r).flatMap trapBytes = trapBytes r := by
  simp [faultRecs]

/-- The event of a thread in handler mode holds the first trap's record before the second's (R350). -/
theorem faultRecs_bytes_some (h : Handler) (r : TrapRec) :
    (faultRecs (some h) r).flatMap trapBytes = trapBytes h.record ++ trapBytes r := by
  simp [faultRecs]

/-! ### A trap of every thread of a run -/

/-- A thread of a run that takes a user-class trap leaves the run for the vector (R22, R350). -/
theorem getGroup_trapOne (hg : getGroup s gid = some g) (hv : k.trapvec = some v) (hh : (thread g tid).handler = none)
    (hc : tr.code ≠ cPAGE) :
    getGroup (takeTrapsAs s sub (some k) ctx lid gid a [(tid, tr)]) gid
      = some (setThread (leaveRun g tid) tid (atVector k v a tr (thread g tid))) := by
  have hleave : getGroup (dropWalks (modGroup s gid (fun g => leaveRun g tid)) (· == runExec s gid a.slot)) gid
      = some (leaveRun g tid) := by
    refine (getGroup_modGroup s gid gid _).trans ?_
    rw [if_pos rfl, hg]
    rfl
  unfold takeTrapsAs
  simp only [List.foldl_cons, List.foldl_nil, hc, false_and, if_false]
  rw [deliverUser_vector hleave hv hh]
  exact getGroup_modThread hleave _

/-- That a thread leaves its run, whatever becomes of it, leaves the other threads as they were. -/
theorem thread_leaveRun_other {i j : Nat} (t : Thread) (hij : i ≠ j) :
    thread (setThread (leaveRun g i) i t) j = thread g j :=
  (thread_setThread _ i j t).resolve_right fun h => hij h.1

/-- The group runs what is left of its run once the threads of `l` have left it. -/
def LeftRun (l : List Nat) (g h : Group) : Prop :=
  ∀ fl, h.flight = some fl → ∃ fl', g.flight = some fl' ∧ ∀ i ∈ fl.run, i ∈ fl'.run ∧ i ∉ l

/-- Threads of a run that take a user-class trap, each once, all leave the run for the vector (R22, R349). -/
theorem takeTrapsAs_vector (hv : k.trapvec = some v) (hc : tr.code ≠ cPAGE) (l : List Nat) (hl : l.Nodup) : ∀ {s g},
    getGroup s gid = some g → (∀ i ∈ l, i < g.threads.length ∧ (thread g i).handler = none) →
    ∃ h, getGroup (takeTrapsAs s sub (some k) ctx lid gid a (l.map (fun i => (i, tr)))) gid = some h ∧ LeftRun l g h ∧
      (∀ i ∈ l, thread h i = atVector k v a tr (thread g i)) ∧ ∀ i, i ∉ l → thread h i = thread g i := by
  induction l with
  | nil => exact fun hg _ => ⟨_, hg, fun fl e => ⟨fl, e, fun i hi => ⟨hi, List.not_mem_nil⟩⟩, nofun, fun _ _ => rfl⟩
  | cons i l ih =>
    intro s g hg hthreads
    obtain ⟨hnotin, hl⟩ := List.nodup_cons.1 hl
    obtain ⟨hi, hh⟩ := hthreads i List.mem_cons_self
    have hne : ∀ j ∈ l, i ≠ j := fun j hj e => hnotin (e ▸ hj)
    obtain ⟨h, hgh, hleft, hin, hout⟩ := ih hl (getGroup_trapOne (a := a) (tr := tr) hg hv hh hc) fun j hj => by
      obtain ⟨hj', hhj⟩ := hthreads j (List.mem_cons_of_mem _ hj)
      rw [thread_leaveRun_other _ (hne j hj)]
      exact ⟨by simpa [setThread, leaveRun] using hj', hhj⟩
    refine ⟨h, hgh, fun fl e => ?_, fun j hj => ?_, fun j hj => ?_⟩
    · obtain ⟨fl', e', hrun⟩ := hleft fl e
      obtain ⟨fl0, e0, rfl⟩ := Option.map_eq_some_iff.1 e'
      refine ⟨fl0, e0, fun j hj => ?_⟩
      obtain ⟨hj0, hjl⟩ := hrun j hj
      obtain ⟨hj0, hji⟩ := List.mem_filter.1 hj0
      exact ⟨hj0, List.not_mem_cons_of_ne_of_not_mem (of_decide_eq_true hji) hjl⟩
    · rcases List.mem_cons.1 hj with rfl | hj
      · rw [hout j hnotin]
        exact thread_setThread_self hi _
      · rw [hin j hj, thread_leaveRun_other _ (hne j hj)]
    · obtain ⟨hji, hjl⟩ := List.ne_and_not_mem_of_not_mem_cons hj
      rw [hout j hjl, thread_leaveRun_other _ hji.symm]

/-- A run that no thread is left in ends where it stands: no thread moves. -/
theorem thread_advance_empty {h : Group} (he : ∀ fl, h.flight = some fl → fl.run = []) (n i : Nat) :
    thread (advance h n) i = thread h i := by
  unfold advance
  split
  · rfl
  · next fl e =>
    rw [if_pos (by rw [he fl e]; rfl)]
    unfold endClause
    rw [e]
    rfl

/-- No address of a trap of another class has page-faulted. -/
theorem faultVas_user (hc : tr.code ≠ cPAGE) (l : List Nat) : faultVas (l.map (fun i => (i, tr))) = [] := by
  have hnone : (l.map (fun i => (i, tr))).filterMap
      (fun t => if t.2.code = cPAGE ∧ !t.2.deferred then some t.2.addr else none) = [] := by
    simp [hc]
  rw [faultVas, hnone]
  rfl

/-- A user-class trap of a whole run, outside handler mode and under a kernel with a trap vector: every thread of the run goes
there, and the run is over (R349, R350). -/
theorem trapWhole_vector {cx : Cx} (hg : getGroup s cx.gid = some cx.g) (hf : cx.g.flight = some cx.fl)
    (hv : cx.k.trapvec = some v) (hc : tr.code ≠ cPAGE) (hd : cx.fl.run.Nodup)
    (hthreads : ∀ i ∈ cx.fl.run, i < cx.g.threads.length ∧ (thread cx.g i).handler = none) (uniform : Bool) :
    ∃ h, getGroup (trapWhole s cx uniform tr) cx.gid = some h ∧
      ∀ i ∈ cx.fl.run, thread h i = atVector cx.k v (cx.here uniform) tr (thread cx.g i) := by
  have htaken : ∃ h, getGroup (trapRun s cx uniform (cx.fl.run.map (fun i => (i, tr)))) cx.gid = some h ∧
      (∀ fl, h.flight = some fl → fl.run = []) ∧
      ∀ i ∈ cx.fl.run, thread h i = atVector cx.k v (cx.here uniform) tr (thread cx.g i) := by
    unfold trapRun takeTraps
    rw [faultVas_user hc]
    split
    · next hnone =>
      have hrun : cx.fl.run = [] := by simpa using hnone
      refine ⟨cx.g, hg, fun fl e => ?_, fun i hi => by simp [hrun] at hi⟩
      obtain rfl : cx.fl = fl := Option.some.inj (hf.symm.trans e)
      exact hrun
    · have hkeep : getGroup (modGroup { s with nextId := s.nextId + 1 } cx.gid (fun g => keepSub g (subOf s cx.gid))) cx.gid
          = some (keepSub cx.g (subOf s cx.gid)) := by
        rw [getGroup_modGroup, if_pos rfl]
        exact congrArg _ hg
      obtain ⟨h, hgh, hleft, hin, -⟩ := takeTrapsAs_vector (sub := subOf s cx.gid) (ctx := cx.ctx) (lid := cx.g.launch)
        (a := cx.here uniform) hv hc cx.fl.run hd hkeep hthreads
      refine ⟨h, hgh, fun fl e => ?_, hin⟩
      obtain ⟨fl', e', hrun⟩ := hleft fl e
      obtain ⟨fl0, e0, rfl⟩ := Option.map_eq_some_iff.1 e'
      obtain rfl : cx.fl = fl0 := Option.some.inj (hf.symm.trans e0)
      exact List.eq_nil_iff_forall_not_mem.2 fun i hi => (hrun i hi).2 (hrun i hi).1
  obtain ⟨h, hgh, hempty, hin⟩ := htaken
  refine ⟨advance h cx.slots, ?_, fun i hi => (thread_advance_empty hempty _ i).trans (hin i hi)⟩
  rw [trapWhole, getGroup_modGroup, if_pos rfl, hgh]
  rfl

end

/-! ### TRAP -/

/-- A run stands at its instruction as the instruction is encoded, with an extension word or without. -/
theorem runCx_ext {s : State} {op : Nat} {ext : Bool} {e : Entry} {m : Mod} {f : FR} {cx : Cx}
    (h : runCx s op ext e m f = some cx) : cx.ext = ext := by
  unfold runCx at h
  repeat' split at h
  all_goals cases h
  all_goals rfl

/-- Where the run of a TRAP stands: its threads trap with opcode 0x011 and no extension (R171). -/
theorem trap_run {f : FI} {s : State} {cx : Cx} (h : runOf (.trap f) s = some cx) :
    getGroup s cx.gid = some cx.g ∧ cx.g.flight = some cx.fl ∧ cx.opcode = 0x011 ∧ cx.ext = false := by
  obtain ⟨c, hc, hr, -, -, -⟩ := runOf_some h
  obtain ⟨-, hg, hf, -, -, -⟩ := runCx_some hr
  simp only [coreForm, view, Option.map_eq_some_iff] at hc
  obtain ⟨e, -, rfl⟩ := hc
  exact ⟨hg, hf, runCx_opcode hr, runCx_ext hr⟩

/-- Settles O51: a delivery is `deliverUser_vector` or `deliverUser_parks` with its event `postFault_event`, and TRAP is
`trapWhole_vector` of its run. -/
theorem userTrapDelivery : Obligations.UserTrapDelivery := by
  unfold Obligations.UserTrapDelivery
  refine ⟨fun s k lid gid tid sub a tr g v hg htid hv hh => ?vector, fun s k lid gid tid sub a tr g hg htid h => ?parks,
    fun _ _ => rfl, fun f s cx v hr hv hd hthreads => ?trap⟩
  case vector =>
    rw [deliverUser_vector hg hv hh]
    exact ⟨_, getGroup_modThread hg _, thread_setThread_self htid _⟩
  case parks =>
    have hparked := getGroup_modThread (tid := tid) hg (parkedAt sub a tr)
    rw [deliverUser_parks hg h]
    refine ⟨_, (getGroup_postFault _ _).trans hparked, thread_setThread_self htid _, fun l hl => ?_⟩
    obtain ⟨e, hev, hkind, hend, hbody⟩ := postFault_event (tid := tid) hparked
      (faultRecs (thread g tid).handler (recordOf a tr)) (l := l) hl
    refine ⟨e, hev, hkind, hend, hbody.trans ?_⟩
    cases (thread g tid).handler with
    | none => rw [faultRecs_bytes_none]; rfl
    | some first => rw [faultRecs_bytes_some]; rfl
  case trap =>
    obtain ⟨hg, hf, hop, hext⟩ := trap_run hr
    obtain ⟨-, -, -, -, htrap, -⟩ := exitSpawnServiceTrapWaitComplete
    obtain ⟨h, hgh, hin⟩ := trapWhole_vector (tr := { code := cUSER, info := f.imm.toNat }) hg hf hv
      (show cUSER ≠ cPAGE by decide) hd hthreads false
    refine ⟨_, h, htrap f s cx hr trivial, hgh, fun i hi => (hin i hi).trans ?_⟩
    simp only [Cx.here, hop, hext]
    rfl

end Sys2Proof.Machine
end

section
/-! The system instructions that complete (R348, R349, R353, R356, R358-R361, R383): trap return, the trap record, counters, sequence
slots, and the privileged operations that go in flight. -/

namespace Sys2Proof.Machine

/-! ### Trap return -/

/-- Threads that TRET returns: each goes on at its point, out of handler mode. -/
def returned (s : State) (cx : Cx) (go : List (Nat × W64)) : State :=
  modGroup (go.foldl (fun s x => modThread s cx.gid x.1 (fun t => { t with handler := none })) s) cx.gid
    (fun g => endClause g go false)

/-- TRET whose threads all return leads each to the point that its handler gives (R349, R359). -/
theorem tretRun_done {s : State} {cx : Cx} (h : ∀ t ∈ cx.fl.run, tretTrap cx.k (cx.f.a.toNat == 1) (thread cx.g t) = none) :
    tretRun s cx = returned s cx
      (cx.fl.run.filterMap (fun t => (thread cx.g t).handler.map (fun h => (t, tretPoint cx.k (cx.f.a.toNat == 1) h)))) := by
  have hbad : cx.fl.run.filterMap (fun t => (tretTrap cx.k (cx.f.a.toNat == 1) (thread cx.g t)).map (fun tr => (t, tr))) = [] :=
    List.filterMap_eq_nil_iff.2 fun t ht => by rw [h t ht]; rfl
  unfold tretRun
  dsimp only
  rw [hbad, trapRun_nil]
  refine congrArg (returned s cx) (List.filterMap_congr fun t ht => ?_)
  rw [h t ht]
  cases (thread cx.g t).handler <;> rfl

/-! ### Instructions of format R without a twin -/

/-- The lane pipeline of an instruction of format R that each thread executes, whatever U says (R131). -/
theorem runCompletes_eachR {α : Type} {hasD : Bool} {rd : State → Cx → Nat → Rd α} {fin : Cx → List (Got α) → Got α → Out}
    {i : Instr} {op : Nat} {f : FR} (he : ∀ s, exec i s = coreR op f s (fun cx => laneExec s cx.each hasD (rd s cx) (fin cx)))
    (hv : view i = .r op f) :
    RunCompletes i (fun s cx => LaneOk s cx.each hasD (rd s cx) (fin cx))
      (fun s cx => laneDone s cx.each hasD (rd s cx) (fin cx)) :=
  run_of_coreR he hv (fun _ _ _ ok => laneExec_done ok)

/-- Settles O22: TRET is `tretRun_done`; TRRD and SEQRD are the lane pipeline of each thread, whatever U says
(`runCompletes_eachR`), the others the lane pipeline. -/
theorem trapReturnAndCountersComplete : Obligations.TrapReturnAndCountersComplete := by
  unfold Obligations.TrapReturnAndCountersComplete
  exact ⟨fun _ => run_of_coreR (fun _ => rfl) rfl (fun _ _ _ ok => tretRun_done ok),  -- TRET
    fun f => runCompletes_eachR (fin := fun _ _ g => out32 g.val) (fun _ => rfl) rfl,  -- TRRD
    fun _ => lane_of_coreR (fun _ => rfl) rfl (fun _ _ => rfl),  -- CYCRD
    fun _ => lane_of_coreR (fun _ => rfl) rfl (fun _ _ => rfl),  -- PERFRD
    fun _ => lane_of_coreR (fun _ => rfl) rfl (fun _ _ => rfl),  -- SEQBIND
    fun f => runCompletes_eachR (fin := fun _ _ g => out32 g.val) (fun _ => rfl) rfl⟩  -- SEQRD

/-! ### Privileged operations -/

/-- Settles O23: each entry is an operation of each thread that goes in flight (`async_of_coreR`), with its own operands and
checks. -/
theorem privilegedInstructionsComplete : Obligations.PrivilegedInstructionsComplete := by
  unfold Obligations.PrivilegedInstructionsComplete
  exact ⟨fun _ => async_of_coreR (fun _ => rfl) rfl (fun _ _ => rfl),  -- PRIVRD
    fun _ => async_of_coreR (fun _ => rfl) rfl (fun _ _ => rfl),  -- PRIVWR
    fun _ => async_of_coreR (fun _ => rfl) rfl (fun _ _ => rfl),  -- TLBINV
    fun _ => async_of_coreR (fun _ => rfl) rfl (fun _ _ => rfl),  -- CTXSW
    fun _ => async_of_coreR (fun _ => rfl) rfl (fun _ _ => rfl),  -- CACHEFL
    fun _ => async_of_coreR (fun _ => rfl) rfl (fun _ _ => rfl),  -- POISCLR
    fun _ => async_of_coreR (fun _ => rfl) rfl (fun _ _ => rfl),  -- HALT
    fun _ => async_of_coreR (fun _ => rfl) rfl (fun _ _ => rfl)⟩  -- EVPOST

end Sys2Proof.Machine
end

section
/-! What Maluk answers to a request that it accepts (R384-R390), and the requests on VIs, contexts, windows, objects and launches that
complete: each lemma `…Act_ok` says what a kind's own checks leave where they pass. -/

namespace Sys2Proof.Machine

/-! ### An accepted request -/

/-- What an accepted request, whose response is number n, leaves: its own effect and the response, or a status and nothing else. -/
def answered (s : State) (q : MReq) (n : Nat) : Except Nat Reply → State
  | .ok r => if r.later then r.s else respond r.s q n (r.vi.getD q.vi) stOK r.body
  | .error st => respond s q n q.vi st []

/-- A request of a kind completes as its act does (R389). -/
theorem requestCompletes {i : Msg → Instr} {kind : Nat} {act : State → MReq → Except Nat Reply} {ok : State → MReq → Prop}
    {t : State → MReq → Nat → State} (he : ∀ m s, exec (i m) s = serveKind s m kind act)
    (ha : ∀ s q n, ok s q → answered s q n (act s q) = t s q n) : RequestCompletes i kind ok t := by
  intro m s hm hok
  rw [he, ← ha _ _ _ hok]
  cases hact : act (taken s (reqOf m)) (reqOf m) with
  | ok r => exact serveKind_ok hm hact
  | error st => exact serveKind_error hm hact

/-- A QUERY of a subject completes as its act does (R390). -/
theorem queryCompletes {i : Msg → Instr} {subj : Nat → Bool} {act : State → MReq → Except Nat Reply} {ok : State → MReq → Prop}
    {t : State → MReq → Nat → State} (he : ∀ m s, exec (i m) s = serveQuery s m subj act)
    (hs : ∀ s q, ok s q → subj (q.f 0 4) = true) (ha : ∀ s q n, ok s q → answered s q n (act s q) = t s q n) : RequestCompletes i 0x0E ok t := by
  intro m s hm hok
  rw [he, ← ha _ _ _ hok]
  cases hact : act (taken s (reqOf m)) (reqOf m) with
  | ok r => exact serveQuery_ok hm (hs _ _ hok) hact
  | error st => exact serveQuery_error hm (hs _ _ hok) hact

section
variable {s : State} {q : MReq}

/-! ### Virtual interfaces -/

theorem openViAct_ok {v : Nat} (he : endpointOk (q.f 16 8) = true)
    (hv : firstOf (fun v => (mfind s.vis v).isNone) (List.range 64) = some v) :
    openViAct s q =
      let grant := Nat.lor (Nat.land (Nat.land (q.f 0 16) (Config.policy v)) Config.featureMask) 1
      .ok { s := { s with
              vis := mput s.vis v { src := q.src, pkey := q.pkey, grant := grant, endpoint := q.f 16 8, seq := some q.seq }
              evSeq := mdel s.evSeq v }
            body := leBytes 16 grant
            vi := some v } := by
  simp [openViAct, he, hv]

/-! ### Contexts and windows -/

theorem createCtxAct_ok {id arena pa root : Nat} {s1 s2 s3 : State} (hz : q.f 12 4 = 0) (hheap : q.f 24 8 % 2 ^ 21 = 0)
    (hmax : q.f 4 4 ≤ Config.arenaAllowance q.vi) (hseq : s.seqNext + q.f 8 4 ≤ Config.sequenceSlots) (hid : freeCtx s = some id)
    (h1 : allocRun s (if q.f 0 4 = 0 then 256 else q.f 0 4) 1 = some (arena, s1))
    (h2 : (if q.f 24 8 = 0 then some (0, s1) else allocRun s1 (q.f 24 8 / 4096) 512) = some (pa, s2))
    (h3 : allocRun s2 (3 + Config.imageFrames) 1 = some (root, s3)) :
    createCtxAct s q =
      let heap := q.f 24 8
      let base := if heap = 0 then 0 else heapAt
      let c : Ctx := {
        vi := q.vi, recAt := root + 8192, heapBase := base, heapLimit := base + heap, root := root, imageBase := root + 12288,
        semImage := root + 4096, heapOff := if heap = 0 then 0 else (pa + (2 ^ 56 - heapAt)) % 2 ^ 48, arenaBase := arena,
        arenaBlocks := if q.f 0 4 = 0 then 256 else q.f 0 4, arenaMax := q.f 4 4, quota := sext 64 (q.f 16 8),
        seqBase := s3.seqNext, seqCount := q.f 8 4, windows := heapWindow heap }
      .ok { s := writeRecord { s3 with ctxs := mput s3.ctxs id c, seqNext := s3.seqNext + q.f 8 4 } id
            body := leBytes 4 id ++ leBytes 4 c.seqBase ++ leBytes 8 c.heapBase ++ leBytes 8 c.heapLimit } := by
  have hlegal : ¬ (q.f 12 4 ≠ 0 ∨ q.f 24 8 % 2 ^ 21 ≠ 0) := by omega
  have hroom : ¬ (Config.arenaAllowance q.vi < q.f 4 4 ∨ Config.sequenceSlots < s.seqNext + q.f 8 4) := by omega
  simp only [createCtxAct, if_neg hlegal, if_neg hroom, hid, h1, h2, h3, Option.bind_some, Option.map_some]

theorem destroyCtxAct_ok {c : Ctx} (hz : q.f 4 4 = 0) (hc : namedCtx s q (q.f 0 4) = .ok c) :
    destroyCtxAct s q = .ok { s := killCtx s (q.f 0 4) } := by
  simp [destroyCtxAct, hz, hc]

/-- The fields that MAP_WINDOW asks for are legal (R390). -/
def MapFieldsOk (q : MReq) : Prop :=
  q.f 4 4 < 8 ∧ q.f 8 8 % 4096 = 0 ∧ q.f 16 8 % 4096 = 0 ∧ q.f 16 8 ≠ 0 ∧ (q.f 24 4 = 0 ∨ bitOf (q.f 4 4) 2 = true)
    ∧ q.f 28 4 = 0 ∧ (q.f 8 8 ≠ 0 → q.f 8 8 + q.f 16 8 ≤ 2 ^ 56)

theorem mapWindowAct_ok {c : Ctx} {va : Nat} (hf : MapFieldsOk q) (hc : namedCtx s q (q.f 0 4) = .ok c)
    (hfree : q.f 8 8 ≠ 0 → meetsWindow c (q.f 8 8) (q.f 16 8) = false)
    (hva : (if q.f 8 8 = 0 then findRange c (q.f 16 8) else some (q.f 8 8)) = some va) :
    mapWindowAct s q =
      .ok { s := modCtx s (q.f 0 4) (fun c => { c with windows := c.windows ++ [askedWindow q va] }), body := leBytes 8 va } := by
  obtain ⟨hflags, hpage, hsize, hpos, hkey, hz, hend⟩ := hf
  have hlegal : ¬ (8 ≤ q.f 4 4 ∨ q.f 8 8 % 4096 ≠ 0 ∨ q.f 16 8 % 4096 ≠ 0 ∨ q.f 16 8 = 0
      ∨ (q.f 24 4 ≠ 0 ∧ !bitOf (q.f 4 4) 2) ∨ q.f 28 4 ≠ 0 ∨ (q.f 8 8 ≠ 0 ∧ 2 ^ 56 < q.f 8 8 + q.f 16 8)) := by
    rintro (h | h | h | h | ⟨hk, hn⟩ | h | ⟨h, hlt⟩)
    · omega
    · exact h hpage
    · exact h hsize
    · exact hpos h
    · rcases hkey with hkey | hkey
      · exact hk hkey
      · simp [hkey] at hn
    · exact h hz
    · exact absurd (hend h) (Nat.not_le.2 hlt)
  have hmeets : ¬ (q.f 8 8 ≠ 0 ∧ meetsWindow c (q.f 8 8) (q.f 16 8)) := fun ⟨hne, hm⟩ => by simp [hfree hne] at hm
  unfold mapWindowAct
  dsimp only
  rw [if_neg hlegal, hc]
  dsimp only
  rw [if_neg hmeets, hva]

theorem unmapWindowAct_ok {c : Ctx} {w : Window} (hz : q.f 4 4 = 0) (hc : namedCtx s q (q.f 0 4) = .ok c)
    (hw : c.windows.find? (fun w => w.kind == .user && w.va == q.f 8 8) = some w) :
    unmapWindowAct s q = .ok { s := dropMapped s (q.f 0 4) w } := by
  simp only [unmapWindowAct, hz, hc, hw, ne_eq, not_true_eq_false, if_false]

/-! ### Objects -/

theorem namedKernel_ok {ctx kid : Nat} {k : Kernel} (hk : getKernel s ctx kid = some k) : namedKernel s ctx kid = .ok k := by
  simp only [namedKernel, hk]

theorem loadObjectAct_ok {c : Ctx} {bs : List Byte} {s1 s2 : State} {ps kids} (hz : q.f 4 4 = 0) (hmin : 32 ≤ q.f 16 8)
    (hmax : q.f 16 8 ≤ 2 ^ 32) (hc : namedCtx s q (q.f 0 4) = .ok c) (hin : inWindow c (q.f 8 8) (q.f 16 8) (·.read) = true)
    (hread : readRange (q.f 0 4) (pagesOf (q.f 16 8) + 1) (q.f 8 8) (q.f 16 8) s = some (bs, s1))
    (hparse : parseObject bs (((mfind s1.vis q.vi).map (·.grant)).getD 1) = .ok ps) (hload : loadAll (q.f 0 4) ps s1 = some (kids, s2)) :
    loadObjectAct s q =
      .ok { s := s2
            body := leBytes 4 kids.length ++ leBytes 4 0
              ++ (kids.zip (List.range kids.length)).flatMap (fun x => leBytes 4 x.1 ++ leBytes 4 x.2) } := by
  have hlegal : ¬ (q.f 4 4 ≠ 0 ∨ q.f 16 8 < 32 ∨ 2 ^ 32 < q.f 16 8) := by omega
  simp only [loadObjectAct, if_neg hlegal, hc, hin, hread, hparse, hload, Bool.not_true, Bool.false_eq_true, if_false]

theorem unloadAct_ok {c : Ctx} {k : Kernel} (hc : namedCtx s q (q.f 0 4) = .ok c) (hk : getKernel s (q.f 0 4) (q.f 4 4) = some k)
    (hfree : s.launches.any (fun l => l.2.ctx == q.f 0 4 && l.2.kid == q.f 4 4 && !l.2.ended) = false) :
    unloadAct s q =
      let s1 := dropSection (dropSection s (q.f 0 4) k.text .text) (q.f 0 4) k.dataBase .data
      .ok { s := { s1 with kernels := mdel s1.kernels (kernelKey (q.f 0 4) (q.f 4 4)) } } := by
  simp only [unloadAct, hc, namedKernel_ok hk, hfree, Bool.false_eq_true, if_false]

/-! ### Launches -/

theorem launchAct_ok {c : Ctx} {k : Kernel} {tag pb : Nat} (hf : launchFieldsOk q = true) (hc : namedCtx s q (q.f 0 4) = .ok c)
    (hk : getKernel s (q.f 0 4) (q.f 4 4) = some k) (hargs : inWindow c (q.f 24 8) (max k.args 1) (fun _ => true) = true)
    (hfits : everFits k (bitOf (q.f 16 4) 0) = true) (htag : freeTag s (q.f 0 4) = some tag)
    (hpriv : (if privSize q k = 0 then some 0 else findRange c (privSize q k)) = some pb) :
    launchAct s q =
      let id := launchId q.vi (((mfind s.vis q.vi).map (·.launches)).getD 0)
      let s0 := { s with vis := mmod s.vis q.vi (fun v => { v with launches := v.launches + 1 }) }
      let s1 := modCtx s0 (q.f 0 4) (fun c => { c with windows := c.windows ++ launchWindows q k pb })
      .ok { s := { s1 with launches := mput s1.launches id (launchOf s0 q tag pb), nextId := s0.nextId + 1 }
            body := leBytes 8 id ++ leBytes 4 tag ++ leBytes 4 0 } := by
  simp only [launchAct, hf, hc, namedKernel_ok hk, hargs, hfits, htag, hpriv, Bool.not_true, Bool.false_eq_true, if_false]

theorem abortAct_ok {l : Launch} (hl : namedLaunch s q (q.f 0 8) = .ok l) : abortAct s q = .ok { s := abortLaunch s (q.f 0 8) } := by
  simp only [abortAct, hl]

theorem unparkAct_ok {l : Launch} (hl : namedLaunch s q (q.f 0 8) = .ok l) :
    unparkAct s q =
      let s1 := { s with groups := s.groups.map (fun x => (x.1, if x.2.launch = q.f 0 8 then unparkGroup s x.1 x.2 else x.2)) }
      .ok { s := afterUnpark s1 ((s.groups.filter (fun x => x.2.launch == q.f 0 8)).map (·.1)) } := by
  simp only [unparkAct, hl]

theorem postGraphAct_ok {c : Ctx} {s1 : State} {pa : Nat} (hz : q.f 4 4 = 0) (hc : namedCtx s q (q.f 0 4) = .ok c)
    (halign : q.f 8 8 % 128 = 0) (hin : inWindow c (q.f 8 8) 128 (·.write) = true)
    (hpa : resolvePa s homeUnit (q.f 0 4) (q.f 8 8) .write = (s1, .ok pa)) (hfree : ownedLoc s1 (.g pa) = false) :
    postGraphAct s q = .ok { s := postRecord s1 (q.f 0 4) (q.f 8 8) } := by
  simp [postGraphAct, hz, hc, halign, hin, hpa, hfree]

end

/-- Settles O34: each request takes the branch that its conditions leave, the lemma of its act, and is answered by it
(`requestCompletes`). -/
theorem sessionAndContextRequestsComplete : Obligations.SessionAndContextRequestsComplete := by
  unfold Obligations.SessionAndContextRequestsComplete
  refine ⟨fun v => requestCompletes (fun _ _ => rfl) fun s q n ⟨he, hv⟩ => congrArg (answered s q n) (openViAct_ok he hv),
    requestCompletes (act := fun s q => .ok { s := endVi s q.vi }) (fun _ _ => rfl) fun _ _ _ _ => rfl,  -- CLOSE_VI
    requestCompletes (act := negotiateAct) (fun _ _ => rfl) fun s q n he => ?negotiate,
    fun id arena s1 pa s2 root s3 => requestCompletes (fun _ _ => rfl) fun s q n ⟨hz, hheap, hmax, hseq, hid, h1, h2, h3⟩ =>
      congrArg (answered s q n) (createCtxAct_ok hz hheap hmax hseq hid h1 h2 h3),
    fun c => requestCompletes (fun _ _ => rfl) fun s q n ⟨hz, hc⟩ => congrArg (answered s q n) (destroyCtxAct_ok hz hc),
    fun c va => requestCompletes (fun _ _ => rfl) fun s q n ⟨hflags, hpage, hsize, hpos, hkey, hz, hend, hc, hfree, hva⟩ =>
      congrArg (answered s q n) (mapWindowAct_ok ⟨hflags, hpage, hsize, hpos, hkey, hz, hend⟩ hc hfree hva),
    fun c w => requestCompletes (fun _ _ => rfl) fun s q n ⟨hz, hc, hw⟩ => congrArg (answered s q n) (unmapWindowAct_ok hz hc hw),
    fun c bs s1 ps kids s2 => requestCompletes (fun _ _ => rfl) fun s q n ⟨hz, hmin, hmax, hc, hin, hread, hparse, hload⟩ =>
      congrArg (answered s q n) (loadObjectAct_ok hz hmin hmax hc hin hread hparse hload),
    fun c k => requestCompletes (fun _ _ => rfl) fun s q n ⟨hc, hk, hfree⟩ => congrArg (answered s q n) (unloadAct_ok hc hk hfree),
    fun c k tag pb => requestCompletes (fun _ _ => rfl) fun s q n ⟨hf, hc, hk, hargs, hfits, htag, hpriv⟩ =>
      congrArg (answered s q n) (launchAct_ok hf hc hk hargs hfits htag hpriv),
    fun l => requestCompletes (fun _ _ => rfl) fun s q n hl => congrArg (answered s q n) (abortAct_ok hl),
    fun l => requestCompletes (fun _ _ => rfl) fun s q n hl => congrArg (answered s q n) (unparkAct_ok hl),
    fun c s1 pa => requestCompletes (fun _ _ => rfl) fun s q n ⟨hz, hc, halign, hin, hpa, hfree⟩ =>
      congrArg (answered s q n) (postGraphAct_ok hz hc halign hin hpa hfree)⟩
  case negotiate =>
    simp only [negotiateAct, he, if_true]
    rfl

end Sys2Proof.Machine
end

section
/-! Requests on subscriptions, heaps, quotas and arenas, queries, and a session whose endpoint fails (R323, R338, R339, R371, R384-R400). -/

namespace Sys2Proof.Machine

section
variable {s : State} {q : MReq}

/-! ### Subscriptions -/

/-- A SUBSCRIBE of legal fields adds the subscription to the VI's, or to the operator's own (R390). -/
theorem subscribeAct_legal (he : endpointOk (q.f 0 8) = true) (hkinds : q.f 8 4 < 2 ^ 11) (hz : q.f 12 4 = 0)
    (hend : endpointOf s q.vi (q.f 0 8) ≠ 0) (hop : q.vi = 0xFF → Nat.land (q.f 8 4) 0x460 = q.f 8 4) :
    subscribeAct s q =
      let sub := (endpointOf s q.vi (q.f 0 8), q.f 8 4)
      if q.vi == 0xFF then .ok { s := { s with opSubs := s.opSubs ++ [sub] } }
      else .ok { s := { s with vis := mmod s.vis q.vi (fun v => { v with subs := v.subs ++ [sub] }) } } := by
  refine if_neg ?_
  rintro (h | h | h | h | ⟨hvi, h⟩)
  · simp [he] at h
  · exact absurd hkinds (Nat.not_lt.2 h)
  · exact h hz
  · exact hend h
  · exact h (hop (beq_iff_eq.1 hvi))

theorem subscribeAct_session (hvi : q.vi ≠ 0xFF) (he : endpointOk (q.f 0 8) = true) (hkinds : q.f 8 4 < 2 ^ 11) (hz : q.f 12 4 = 0)
    (hend : endpointOf s q.vi (q.f 0 8) ≠ 0) :
    subscribeAct s q =
      .ok { s := { s with vis := mmod s.vis q.vi (fun v => { v with subs := v.subs ++ [(endpointOf s q.vi (q.f 0 8), q.f 8 4)] }) } } :=
  (subscribeAct_legal he hkinds hz hend (absurd · hvi)).trans (if_neg (hvi ∘ beq_iff_eq.1))

theorem subscribeAct_operator (hvi : q.vi = 0xFF) (he : endpointOk (q.f 0 8) = true) (hz : q.f 12 4 = 0)
    (hend : endpointOf s q.vi (q.f 0 8) ≠ 0) (hkinds : q.f 8 4 < 2 ^ 11) (hop : Nat.land (q.f 8 4) 0x460 = q.f 8 4) :
    subscribeAct s q = .ok { s := { s with opSubs := s.opSubs ++ [(endpointOf s q.vi (q.f 0 8), q.f 8 4)] } } :=
  (subscribeAct_legal he hkinds hz hend fun _ => hop).trans (if_pos (beq_iff_eq.2 hvi))

/-! ### Heaps, quota, arena -/

theorem assignHeapAct_ok {c : Ctx} {h : Nat} (hslot : q.f 4 4 < 16) (hc : namedCtx s q (q.f 0 4) = .ok c)
    (hfree : mfind c.heapMap (q.f 4 4) = none) (hh : firstOf (fun h => (getHeap s h).owner.isNone) (List.range 16) = some h) :
    assignHeapAct s q =
      .ok { s := modRecord (setHeap s h { owner := some (q.f 0 4, q.f 4 4) }) (q.f 0 4)
              (fun c => { c with heapMap := mput c.heapMap (q.f 4 4) h })
            body := leBytes 4 h ++ leBytes 4 0 } := by
  simp only [assignHeapAct, if_neg (Nat.not_le.2 hslot), hc, hfree, hh, Option.isSome_none, Bool.false_eq_true, if_false]

theorem releaseHeapAct_ok {c : Ctx} {h : Nat} (hslot : q.f 4 4 < 16) (hc : namedCtx s q (q.f 0 4) = .ok c)
    (hh : mfind c.heapMap (q.f 4 4) = some h) :
    releaseHeapAct s q =
      let s1 := modRecord s (q.f 0 4) (fun c => { c with heapMap := mdel c.heapMap (q.f 4 4) })
      .ok { s := endRelease (setHeap s1 h { getHeap s1 h with releasing := some (q.vi, q.seq) }) h, later := true } := by
  simp only [releaseHeapAct, if_neg (Nat.not_le.2 hslot), hc, hh]

theorem addQuotaAct_ok {c : Ctx} (hz : q.f 4 4 = 0) (hpos : q.f 8 8 ≠ 0) (hmax : q.f 8 8 < 2 ^ 63)
    (hc : namedCtx s q (q.f 0 4) = .ok c) :
    addQuotaAct s q = .ok { s := modRecord s (q.f 0 4) (fun c => { c with quota := addedQuota c.quota (q.f 8 8) }) } := by
  have hlegal : ¬ (q.f 4 4 ≠ 0 ∨ q.f 8 8 = 0 ∨ 2 ^ 63 ≤ q.f 8 8) := by omega
  simp only [addQuotaAct, if_neg hlegal, hc]

theorem setArenaMaxAct_ok {c : Ctx} (hc : namedCtx s q (q.f 0 4) = .ok c)
    (hmax : q.f 4 4 ≤ c.arenaMax ∨ q.f 4 4 ≤ Config.arenaAllowance q.vi) :
    setArenaMaxAct s q = .ok { s := modRecord s (q.f 0 4) (fun c => { c with arenaMax := q.f 4 4 }) } := by
  have hroom : ¬ (c.arenaMax < q.f 4 4 ∧ Config.arenaAllowance q.vi < q.f 4 4) := by omega
  simp only [setArenaMaxAct, hc, if_neg hroom]

/-! ### Queries -/

theorem queryContextAct_ok {c : Ctx} (hz : argZero q 12 = true) (hc : namedCtx s q (q.f 8 4) = .ok c) :
    queryContextAct s q =
      .ok { s := s
            body := leBytes 4 (ctxFlags s c) ++ leBytes 4 c.arenaBlocks ++ leBytes 4 c.arenaMax ++ leBytes 4 0
              ++ leBytes 8 (wrapN 64 (quotaOf s c)) } := by
  simp only [queryContextAct, hz, hc, Bool.not_true, Bool.false_eq_true, if_false]

theorem queryLaunchAct_ok {l : Launch} (hz : argZero q 16 = true) (hl : namedLaunch s q (q.f 8 8) = .ok l) :
    queryLaunchAct s q =
      .ok { s := s
            body := leBytes 4 (if l.ended then 2 else if l.placed = 0 then 0 else 1) ++ leBytes 4 l.placed ++ leBytes 4 l.done
              ++ leBytes 4 (parkedCount s (q.f 8 8)) } := by
  simp only [queryLaunchAct, hz, hl, Bool.not_true, Bool.false_eq_true, if_false]

theorem queryGrantAct_ok {v : Vi} (hz : argZero q 8 = true) (hv : mfind s.vis q.vi = some v) :
    queryGrantAct s q = .ok { s := s, body := leBytes 16 v.grant } := by
  simp only [queryGrantAct, hz, hv, Bool.not_true, Bool.false_eq_true, if_false, Option.map_some, Option.getD_some]

theorem attestAct_ok (hz : q.f 4 4 = 0) (hleaf : s.secure.aliasLeaf < Config.aliasLeaves) :
    attestAct s q =
      let c := s.secure
      let b := reportBody s q
      .ok { s := { s with secure := { c with aliasLeaf := c.aliasLeaf + 1 } }
            body := b ++ Config.aliasSign c.boots b ++ Config.aliasLms c.boots c.aliasLeaf b } := by
  simp only [attestAct, hz, if_neg (Nat.not_le.2 hleaf), ne_eq, not_true_eq_false, if_false]

theorem otherSubjectAct_noObject (hz : q.f 4 4 = 0) : otherSubjectAct s q = .error stNOOBJ := by
  simp only [otherSubjectAct, hz, ne_eq, not_true_eq_false, if_false]

/-! ### Events that are no accepted request -/

/-- A message whose header breaks the table is answered BAD_REQUEST (R384). -/
theorem exec_malformedRequest {m : Msg} (hr : reaches s m = true) (hbad : reqHeaderOk (reqOf m) = false) :
    exec (.malformedRequest m) s = .next (respond { s with outN := s.outN + 1 } (reqOf m) s.outN (reqOf m).vi stBADREQ []) := by
  change execMalformedRequest m s = _
  simp only [execMalformedRequest, hr, hbad, Bool.not_true, Bool.or_false, Bool.false_eq_true, if_false]

/-- The session of an open VI ends with its endpoint (R323). -/
theorem exec_sessionEndpointFails {vi : Nat} {v : Vi} (hv : mfind s.vis vi = some v) :
    exec (.sessionEndpointFails vi) s = .next (endVi s vi) := by
  change execSessionEndpointFails vi s = _
  simp only [execSessionEndpointFails, hv, Option.isSome_some, if_true]

end

/-- Settles O35: each request takes the branch that its conditions leave, the lemma of its act, and is answered by it
(`requestCompletes`, `queryCompletes`). -/
theorem heapQuotaSubscriptionAndQueryRequestsComplete : Obligations.HeapQuotaSubscriptionAndQueryRequestsComplete := by
  unfold Obligations.HeapQuotaSubscriptionAndQueryRequestsComplete
  exact ⟨requestCompletes (fun _ _ => rfl) fun s q n ⟨hvi, he, hkinds, hz, hend⟩ =>
      congrArg (answered s q n) (subscribeAct_session hvi he hkinds hz hend),
    requestCompletes (fun _ _ => rfl) fun s q n ⟨hvi, he, hz, hend, hkinds, hop⟩ =>
      congrArg (answered s q n) (subscribeAct_operator hvi he hz hend hkinds hop),
    fun c h => requestCompletes (fun _ _ => rfl) fun s q n ⟨hslot, hc, hfree, hh⟩ =>
      congrArg (answered s q n) (assignHeapAct_ok hslot hc hfree hh),
    fun c h => requestCompletes (fun _ _ => rfl) fun s q n ⟨hslot, hc, hh⟩ =>
      congrArg (answered s q n) (releaseHeapAct_ok hslot hc hh),
    fun c => requestCompletes (fun _ _ => rfl) fun s q n ⟨hz, hpos, hmax, hc, _⟩ =>
      congrArg (answered s q n) (addQuotaAct_ok hz hpos hmax hc),
    fun c => requestCompletes (fun _ _ => rfl) fun s q n ⟨hc, hmax⟩ => congrArg (answered s q n) (setArenaMaxAct_ok hc hmax),
    fun vi s v hv => exec_sessionEndpointFails hv,
    fun c => queryCompletes (subj := (· == 1)) (act := queryContextAct) (fun _ _ => rfl) (fun s q ⟨hs, _⟩ => beq_iff_eq.2 hs)
      fun s q n ⟨_, hz, hc⟩ => congrArg (answered s q n) (queryContextAct_ok hz hc),
    fun l => queryCompletes (subj := (· == 2)) (act := queryLaunchAct) (fun _ _ => rfl) (fun s q ⟨hs, _⟩ => beq_iff_eq.2 hs)
      fun s q n ⟨_, hz, hl⟩ => congrArg (answered s q n) (queryLaunchAct_ok hz hl),
    fun v => queryCompletes (subj := (· == 3)) (act := queryGrantAct) (fun _ _ => rfl) (fun s q ⟨hs, _⟩ => beq_iff_eq.2 hs)
      fun s q n ⟨_, hz, hv⟩ => congrArg (answered s q n) (queryGrantAct_ok hz hv),
    queryCompletes (subj := (· == 0xA7)) (act := attestAct) (fun _ _ => rfl) (fun s q ⟨hs, _⟩ => beq_iff_eq.2 hs)
      fun s q n ⟨_, hz, hleaf⟩ => congrArg (answered s q n) (attestAct_ok hz hleaf),
    queryCompletes (subj := fun k => !knownSubject k) (act := otherSubjectAct) (fun _ _ => rfl) (fun s q ⟨hs, _⟩ => congrArg not hs)
      fun s q n ⟨_, hz⟩ => congrArg (answered s q n) (otherSubjectAct_noObject hz),
    fun m s hr hbad => exec_malformedRequest hr hbad⟩

end Sys2Proof.Machine
end

section
/-! Requests of the operator and of the fabric manager (R378, R379, R381, R390, R393, R395). -/

namespace Sys2Proof.Machine

section
variable {s : State} {q : MReq} {c : Ctx}

theorem anyCtx_ok {id : Nat} (hc : mfind s.ctxs id = some c) : anyCtx s id = .ok c := by
  simp only [anyCtx, hc]

theorem writeTapAct_ok (htap : q.f 4 4 < 8) (hok : tapOk (q.body.drop 8) = true) (hc : mfind s.ctxs (q.f 0 4) = some c) :
    writeTapAct s q = .ok { s := modCtx s (q.f 0 4) (fun c => { c with taps := mput c.taps (q.f 4 4) (tapOf (q.body.drop 8)) }) } := by
  have hlegal : ¬ (8 ≤ q.f 4 4 ∨ !tapOk (q.body.drop 8)) := by simp [Nat.not_le.2 htap, hok]
  simp only [writeTapAct, if_neg hlegal, anyCtx_ok hc]

/-- A write of a slot that the context has sets the word of that slot (R381). -/
theorem seqWrite_ok {f : W32 → W32} (hc : mfind s.ctxs (q.f 0 4) = some c) (hslot : q.f 4 4 < c.seqCount) :
    seqWrite s q f =
      let k := c.seqBase + q.f 4 4
      .ok { s := { s with seqWords := mset 0 s.seqWords k (f (mget 0 s.seqWords k)) } } := by
  simp only [seqWrite, anyCtx_ok hc, if_neg (Nat.not_le.2 hslot)]

theorem writeSteerAct_ok (hsteer : q.f 8 4 < 256) (hz : q.f 12 4 = 0) (hc : mfind s.ctxs (q.f 0 4) = some c)
    (hslot : q.f 4 4 < c.seqCount) :
    writeSteerAct s q =
      let k := c.seqBase + q.f 4 4
      let w := (mget 0 s.seqWords k &&& 0xFFFF00FF#32) ||| BitVec.ofNat 32 (q.f 8 4 * 256)
      .ok { s := { s with seqWords := mset 0 s.seqWords k w } } := by
  have hlegal : ¬ (256 ≤ q.f 8 4 ∨ q.f 12 4 ≠ 0) := by omega
  exact (if_neg hlegal).trans (seqWrite_ok hc hslot)

theorem writePathsAct_ok (hport : q.f 0 4 < 8) (hmin : 1 ≤ q.f 4 4) (hmax : q.f 4 4 ≤ 256) (hen : q.f 8 4 < 2) (hz : q.f 12 4 = 0)
    (hpad : q.f (16 + 2 * q.f 4 4) 8 = 0) :
    writePathsAct s q =
      let p := { getPort s (q.f 0 4) with paths := tableVals q 16 2 (q.f 4 4), paceEn := bitOf (q.f 8 4) 0 }
      .ok { s := setPort s (q.f 0 4) p } :=
  if_neg (by omega)

theorem writePkeysAct_ok (hport : q.f 0 4 < 8) (hmin : 1 ≤ q.f 4 4) (hmax : q.f 4 4 ≤ 64) (hpad : q.f (8 + 4 * q.f 4 4) 8 = 0) :
    writePkeysAct s q = .ok { s := setPort s (q.f 0 4) { getPort s (q.f 0 4) with pkeys := tableVals q 8 4 (q.f 4 4) } } :=
  if_neg (by omega)

end

/-- Settles O37: each request takes the branch that its conditions leave, the lemma of its act, and is answered by it
(`requestCompletes`). -/
theorem operatorAndFabricRequestsComplete : Obligations.OperatorAndFabricRequestsComplete := by
  unfold Obligations.OperatorAndFabricRequestsComplete
  exact ⟨fun c => requestCompletes (fun _ _ => rfl) fun s q n ⟨htap, hok, hc⟩ =>
      congrArg (answered s q n) (writeTapAct_ok htap hok hc),
    fun c => requestCompletes (fun _ _ => rfl) fun s q n ⟨hsteer, hz, hc, hslot⟩ =>
      congrArg (answered s q n) (writeSteerAct_ok hsteer hz hc hslot),
    fun c => requestCompletes (act := clearTripAct) (fun _ _ => rfl) fun s q n ⟨hc, hslot⟩ =>
      congrArg (answered s q n) (seqWrite_ok hc hslot),
    requestCompletes (fun _ _ => rfl) fun s q n ⟨hport, hmin, hmax, hen, hz, hpad⟩ =>
      congrArg (answered s q n) (writePathsAct_ok hport hmin hmax hen hz hpad),
    requestCompletes (fun _ _ => rfl) fun s q n ⟨hport, hmin, hmax, hpad⟩ =>
      congrArg (answered s q n) (writePkeysAct_ok hport hmin hmax hpad)⟩

end Sys2Proof.Machine
end

section
/-! Translation in a context's heap (R62, R341, R343), and the triples that Maluk gives the contexts that it creates (R325, R327,
R386). -/

namespace Sys2Proof.Machine

/-! ### Addresses of the heap -/

section
variable {s : State} {unit ctx va : Nat} {c : Ctx}

/-- An address of the heap is translated by the triple; an argument block is not written, and the heap is not executed (R62, R341). -/
theorem translate_heap {a : Acc} (hc : mfind s.ctxs ctx = some c) (hlo : c.heapBase ≤ va) (hhi : va < c.heapLimit) (hva : va < 2 ^ 56) :
    translate s unit ctx va a =
      if a = .write ∧ (windowsAt c va).any (fun w => w.kind == .args) then .error 2
      else if a = .fetch then .error 2
      else .ok ((va + c.heapOff) % 2 ^ 48) := by
  simp only [translate, hc, if_neg (Nat.not_le.2 hva), if_pos (And.intro hlo hhi)]

theorem missesTlb_heap (hc : mfind s.ctxs ctx = some c) (hlo : c.heapBase ≤ va) (hhi : va < c.heapLimit) :
    missesTlb s unit ctx va = false := by
  simp only [missesTlb, hc, hlo, hhi, and_self, decide_true, Bool.not_true, Bool.false_and]

end

/-! ### The triples of new contexts -/

section
variable {s s' : State} {n align pa id : Nat}

/-- The heap triple of a context is of multiples of 2 MiB. -/
def HeapAligned (c : Ctx) : Prop := c.heapBase % 2 ^ 21 = 0 ∧ c.heapLimit % 2 ^ 21 = 0 ∧ c.heapOff % 2 ^ 21 = 0

/-- Frames in a row begin at a multiple of the alignment asked for, and no context changes. -/
theorem allocRun_some (ha : 0 < align) (h : allocRun s n align = some (pa, s')) : align * 4096 ∣ pa ∧ s'.ctxs = s.ctxs := by
  have hround : ∀ k, align ∣ roundUp k align := fun k => by
    rw [roundUp, if_neg (Nat.ne_of_gt ha)]
    exact Nat.dvd_mul_left _ _
  unfold allocRun at h
  extract_lets first k at h
  have hk : align ∣ k := by
    dsimp only [k]
    split <;> exact hround _
  split at h
  · cases h
  · cases h
    exact ⟨Nat.mul_dvd_mul_right hk 4096, rfl⟩

theorem writeRecord_ctxs : (writeRecord s id).ctxs = s.ctxs := by
  unfold writeRecord
  split
  · rfl
  · rw [wrBytes_rest]

end

/-- The heap that Maluk maps for a new context is aligned: none, or one at 2^54 of whole 2 MiB pages (R386). -/
theorem heapAligned_new {c : Ctx} {heap pa : Nat} (hheap : heap % 2 ^ 21 = 0) (hpa : 512 * 4096 ∣ pa)
    (hbase : c.heapBase = if heap = 0 then 0 else heapAt) (hlimit : c.heapLimit = (if heap = 0 then 0 else heapAt) + heap)
    (hoff : c.heapOff = if heap = 0 then 0 else (pa + (2 ^ 56 - heapAt)) % 2 ^ 48) : HeapAligned c := by
  unfold HeapAligned
  rw [hbase, hlimit, hoff]
  unfold heapAt
  obtain ⟨k, rfl⟩ := hpa
  split <;> omega

/-- A context that CREATE_CTX makes has an aligned heap. -/
theorem createCtxAct_heapAligned {s : State} {q : MReq} {r : Reply} {id : Nat} {c : Ctx} (h : createCtxAct s q = .ok r)
    (hnew : mfind s.ctxs id = none) (hc : mfind r.s.ctxs id = some c) : HeapAligned c := by
  unfold createCtxAct at h
  dsimp only at h
  split at h
  · cases h
  next hfields =>
  have hheap : q.f 24 8 % 2 ^ 21 = 0 := not_not.1 fun hne => hfields (Or.inr hne)
  split at h
  · cases h
  split at h
  swap
  · cases h
  next id' arena s1 hid harena =>
  split at h
  swap
  · cases h
  next pa root s3 hroot =>
  obtain ⟨⟨pa', s2⟩, hpa, hroot⟩ := Option.bind_eq_some_iff.1 hroot
  obtain ⟨⟨root', s3'⟩, hrun, heq⟩ := Option.map_eq_some_iff.1 hroot
  cases heq
  have hheapRun : 512 * 4096 ∣ pa' ∧ s2.ctxs = s1.ctxs := by
    split at hpa
    · cases hpa
      exact ⟨Nat.dvd_zero _, rfl⟩
    · exact allocRun_some (by decide) hpa
  obtain ⟨halign, hctxs2⟩ := hheapRun
  have hctxs : s3.ctxs = s.ctxs := (allocRun_some (by decide) hrun).2.trans (hctxs2.trans (allocRun_some (by decide) harena).2)
  cases h
  dsimp only at hc
  rw [writeRecord_ctxs, mfind_mput, hctxs] at hc
  split at hc
  · cases hc
    exact heapAligned_new hheap halign rfl rfl rfl
  · exact nomatch hnew.symm.trans hc

/-- Maluk's service context has all of memory as its heap (R327). -/
theorem createService_heapAligned {s : State} {c : Ctx} (hnew : mfind s.ctxs serviceCtx = none)
    (hc : mfind (createService s).ctxs serviceCtx = some c) : HeapAligned c := by
  unfold createService at hc
  split at hc
  · exact nomatch hnew.symm.trans hc
  · rw [writeRecord_ctxs, mfind_mput, if_pos rfl] at hc
    cases hc
    exact ⟨Nat.zero_mod _, (by decide : 2 ^ 48 % 2 ^ 21 = 0), Nat.zero_mod _⟩

/-- Settles O48: a heap address is translated by the triple alone (`translate_heap`, `missesTlb_heap`; above bit 55 by
`translate_high`), and new triples are aligned (`createCtxAct_heapAligned`, `createService_heapAligned`). -/
theorem heapTranslation : Obligations.HeapTranslation := by
  unfold Obligations.HeapTranslation
  refine ⟨fun s ctx c va hc => ⟨fun hle => by omega, fun hlo hhi unit mem tlb => ?translates⟩,
    fun s q r id c h hnew hfound => createCtxAct_heapAligned h hnew hfound,
    fun s c hnew hfound => createService_heapAligned hnew hfound⟩
  have hcu : mfind ({ s with mem := mem, tlb := tlb } : State).ctxs ctx = some c := hc
  refine ⟨fun hva => ⟨translate_heap hcu hlo hhi hva, fun hargs => ?_, fun hargs => ?_, translate_heap hcu hlo hhi hva⟩,
    fun hva a => translate_high hcu hva, missesTlb_heap hcu hlo hhi⟩
  · rw [translate_heap hcu hlo hhi hva, hargs]
    rfl
  · rw [translate_heap hcu hlo hhi hva, hargs]
    rfl

end Sys2Proof.Machine
end

section
/-! The halyards (R362-R366, R369, R374, R375): events that act, HALYARD_CTL, and a die whose governor first-stage firmware has not
opened. -/

namespace Sys2Proof.Machine

/-! ### The halyard's events -/

section
variable {s : State}

/-- Before the boundary is due the cycle passes (R362). -/
theorem exec_halyardCycle_passes (h : s.time < s.boundary) : exec .halyardCycle s = .next
    (countWaits ((List.range Config.dies).foldl dieStep { s with time := s.time + 1, timebase := s.timebase + 1 })) :=
  if_neg (Nat.not_le.2 h)

/-- A head that has waited 96 cycles without a grant claims, unless its core has claimed before (R366). -/
theorem exec_canvasClaim_claims {core t : Nat} {w : CanvasWait} (hw : (getCore s core).canvas.head? = some w) (ht : w.headAt = some t)
    (hg : w.granted = none) (hdue : t + 96 ≤ s.time) (hfirst : (getDie s (dieOf core)).claims.any (fun c => c.core == core) = false) :
    exec (.canvasClaim core) s = .next (setDie s (dieOf core)
      { getDie s (dieOf core) with claims := (getDie s (dieOf core)).claims ++ [{ core := core, at_ := s.time }] }) := by
  change execCanvasClaim core s = _
  simp only [execCanvasClaim, hw, ht, hg, hfirst, Option.isSome_none, decide_eq_false (Nat.not_lt.2 hdue), Bool.or_self,
    Bool.false_eq_true, if_false]

/-- The dies and the pace as an interval boundary leaves them (R363, R396). -/
def boundaryTaken (wish : List Nat) (s : State) : State :=
  (List.range Config.dies).foldl (dieBoundary wish) { s with pace := paceBoundary s.pace }

/-- At the boundary every die's interval ends, and the next boundary is 1000 ns later (R363). -/
theorem exec_intervalBoundary_due {wish : List Nat} (h : s.boundary ≤ s.time) : exec (.intervalBoundary wish) s =
    .next { boundaryTaken wish s with boundary := (boundaryTaken wish s).boundary + 1000 } :=
  if_neg (Nat.not_lt.2 h)

/-- A voltage move of a cluster is over: it stands at its target (R375). -/
def moveOver (s : State) (cluster : Nat) : State :=
  let c := getCluster s cluster
  setCluster s cluster { c with cur := c.target, moving := false, fromMv := c.target, moveAt := 0, pending := none }

/-- A voltage move whose time is over ends; a pending target then starts its own (R375). -/
theorem exec_voltageMoveDone_ends {cluster : Nat} (hm : (getCluster s cluster).moving = true)
    (hdue : (getCluster s cluster).moveAt ≤ s.time) :
    exec (.voltageMoveDone cluster) s =
      .next ((getCluster s cluster).pending.elim (moveOver s cluster) (writeTarget (moveOver s cluster) cluster)) := by
  change execVoltageMoveDone cluster s = _
  unfold execVoltageMoveDone
  simp only [hm, Bool.not_true, decide_eq_false (Nat.not_lt.2 hdue), Bool.or_self, Bool.false_eq_true, if_false]
  cases (getCluster s cluster).pending <;> rfl

end

/-- Settles O32: each event takes the branch that its condition leaves; a mailbox takes any target, and HALYARD_CTL any word. -/
theorem halyardActs : Obligations.HalyardActs := by
  unfold Obligations.HalyardActs
  refine ⟨fun s h => exec_halyardCycle_passes h, fun core s w t hw ht hg hdue hfirst => exec_canvasClaim_claims hw ht hg hdue hfirst,
    fun wish s h => ⟨_, exec_intervalBoundary_due h, rfl⟩, fun _ _ _ => rfl, fun cluster s hm hdue hp => ?ends,
    fun cluster s t hm hdue hp => ?starts, fun _ _ _ => rfl⟩
  case ends | starts =>
    rw [exec_voltageMoveDone_ends hm hdue, hp]
    rfl

/-! ### HALYARD_CTL -/

/-- The fields of HALYARD_CTL stand side by side, each in its own bits (R374). -/
theorem ctlWord_fields {d : Die} (hr : d.reef < 8) (hm : d.reefMin < 8) (hc : d.claims.length < 256) :
    bitsOf (ctlWord d) 31 24 = d.claims.length ∧ bitsOf (ctlWord d) 23 11 = 0 ∧ bitsOf (ctlWord d) 10 8 = d.reefMin ∧
      bitsOf (ctlWord d) 7 3 = 0 ∧ bitsOf (ctlWord d) 2 0 = d.reef := by
  simp only [bitsOf, ctlWord, Nat.shiftRight_eq_div_pow]
  omega

/-- No die has a register written at power-on. -/
theorem getDie_reset (k : Nat) : getDie State.reset k = {} := rfl

/-! ### A die whose governor is shut -/

section
variable {s : State} {d : Die} {die j k : Nat}

/-- First-stage firmware has not written REEF_MIN, and the reef is 7 (R374). -/
def ReefShut (d : Die) : Prop := d.reefOpen = false ∧ d.reef = 7

theorem getDie_setDie : getDie (setDie s j d) k = if k = j then d else getDie s k := mget_mset s.dies j k d

/-- Writing a die keeps die k shut where what is written at k is. -/
theorem reefShut_setDie (h : ReefShut (getDie s k)) (hd : k = j → ReefShut d) : ReefShut (getDie (setDie s j d) k) := by
  rw [getDie_setDie]
  split
  · exact hd ‹_›
  · exact h

theorem reefShut_foldl {β : Type} {f : State → β → State} (l : List β)
    (hf : ∀ s x, ReefShut (getDie s k) → ReefShut (getDie (f s x) k)) (h : ReefShut (getDie s k)) :
    ReefShut (getDie (l.foldl f s) k) :=
  List.foldlRecOn (motive := fun t => ReefShut (getDie t k)) l f h fun t ht x _ => hf t x ht

theorem reefShut_returnUnits (h : ReefShut (getDie s k)) : ReefShut (getDie (returnUnits s die) k) :=
  reefShut_foldl _ (fun _ _ ht => reefShut_setDie ht fun e => e ▸ ht) h

theorem reefShut_capHeld (h : ReefShut (getDie s k)) : ReefShut (getDie (capHeld s die) k) :=
  reefShut_foldl _ (fun _ _ ht => reefShut_setDie ht fun e => e ▸ ht) h

theorem reefShut_refillClusters (h : ReefShut (getDie s k)) : ReefShut (getDie (refillClusters s die) k) := by
  refine reefShut_foldl _ (fun t i ht => ?_) h
  dsimp only
  split <;> exact ht

/-- While it is shut the governor takes level 7, whatever the wish (R374). -/
theorem nextReef_shut {applied wish : Nat} (h : ReefShut d) : nextReef d applied wish = 7 := if_pos (Or.inl (by simp [h.1]))

theorem reefShut_setReef {r : Nat} (h : ReefShut (getDie s k)) (hr : k = die → r = 7) : ReefShut (getDie (setReef s die r) k) := by
  unfold setReef
  dsimp only
  have ht : ∀ {f : State → Nat → Core}, ReefShut (getDie ((List.range Config.coresPerDie).foldl (fun s i =>
      setCore s (die * Config.coresPerDie + i) (f s i)) s) k) := fun {f} => reefShut_foldl _ (fun _ _ hu => hu) h
  refine reefShut_setDie ht fun e => ?_
  subst e
  split <;> exact ⟨ht.1, hr rfl⟩

theorem reefShut_dieBoundary {wish : List Nat} (h : ReefShut (getDie s k)) : ReefShut (getDie (dieBoundary wish s die) k) := by
  unfold dieBoundary
  dsimp only
  have hu : ReefShut (getDie (returnUnits s die) k) := reefShut_returnUnits h
  refine reefShut_refillClusters (reefShut_capHeld (reefShut_setReef hu ?_))
  rintro rfl
  exact nextReef_shut hu

theorem reefShut_boundaryTaken {wish : List Nat} (h : ReefShut (getDie s k)) : ReefShut (getDie (boundaryTaken wish s) k) :=
  reefShut_foldl (s := { s with pace := paceBoundary s.pace }) _ (fun _ _ hu => reefShut_dieBoundary hu) h

theorem reefShut_setBoundary {n : Nat} (h : ReefShut (getDie s k)) : ReefShut (getDie { s with boundary := n } k) := h

/-- An interval boundary leaves the reef of a shut governor at 7 (R374). -/
theorem reefShut_intervalBoundary {wish : List Nat} {t : State} (h : ReefShut (getDie s k))
    (ht : exec (.intervalBoundary wish) s = .next t) : ReefShut (getDie t k) := by
  rcases Nat.lt_or_ge s.time s.boundary with hlt | hge
  · have hs : exec (.intervalBoundary wish) s = .next s := if_pos hlt
    cases hs.symm.trans ht
    exact h
  · obtain rfl := Host.Outcome.next.inj ((exec_intervalBoundary_due hge).symm.trans ht)
    exact reefShut_setBoundary (reefShut_boundaryTaken h)

end

/-- Settles O52: a write is the model's event, the word is read field by field (`ctlWord_fields`), and a shut governor stays shut
over a boundary (`reefShut_intervalBoundary`). That a write opens no governor is the model's reading (log 22, DEDUCED). -/
theorem halyardControl : Obligations.HalyardControl := by
  unfold Obligations.HalyardControl
  exact ⟨fun _ _ _ => rfl, fun d hr hm hc => ctlWord_fields hr hm hc, fun k => by rw [getDie_reset]; exact ⟨rfl, rfl⟩,
    fun wish s t k hopen hreef ht => reefShut_intervalBoundary ⟨hopen, hreef⟩ ht⟩

end Sys2Proof.Machine
end

section
/-! The state at power-on (R374, R375, R397), and the events of the boot, of heat and of errors that act (R397-R405). -/

namespace Sys2Proof.Machine

/-! ### Power-on -/

/-- At power-on no turn is listed and no agent is current, so that a step changes nothing. -/
theorem step_reset : step State.reset = .next State.reset := step_of_cur (a := .none) rfl rfl

/-- A mailbox reads CURRENT_MV and TARGET_MV 450 at power-on (R375). -/
theorem vmailWord_reset (k : Nat) : vmailWord State.reset k = 450 * 2 ^ 20 + 450 := by
  have hc : getCluster State.reset k = {} := rfl
  simp only [vmailWord, currentMv, hc]
  decide

/-- Settles O55: nothing is listed at power-on, every die and cluster is at its reset value (`getDie_reset`), a step changes nothing
(`step_reset`; log 1, DESIGN CHOICE), and the invariant holds (`sound_reset`). -/
theorem resetState : Obligations.ResetState := by
  unfold Obligations.ResetState
  exact ⟨⟨rfl, rfl, rfl, rfl, rfl, rfl, rfl, rfl, rfl, rfl, rfl, rfl⟩, fun k => ⟨by rw [getDie_reset]; rfl, vmailWord_reset k⟩,
    step_reset, sound_reset⟩

/-! ### Boot stages -/

section
variable {s : State} {image : List Byte}

theorem exec_powerOn_accepts (hb : s.boot = .off) (hi : imageCause image = none) : exec (.powerOn image) s = .next { s with
    boot := .rom
    masts := [0]
    report := s.report ++ [(0, 0)]
    secure := { s.secure with svn1 := imageSvn image, meas1 := sha384 image } } := by
  change execPowerOn image s = _
  simp only [execPowerOn, hb, hi, bne_self_eq_false, Bool.false_eq_true, if_false]
  rfl

/-- Writing REEF_MIN of the dies touches nothing else. -/
theorem openReefs_rest (s : State) (n : Nat) : openReefs s n = { s with dies := (openReefs s n).dies } :=
  List.foldlRecOn (motive := fun t : State => t = { s with dies := t.dies }) _ _ rfl fun _ ht _ _ => by rw [ht]; rfl

theorem exec_firstStage_accepts {reefMin : Nat} (hb : s.boot = .rom) (hi : imageCause image = none) :
    exec (.firstStage reefMin image) s = .next
      (let s1 := openReefs { clearMemories s with timebase := 0 } reefMin
       { s1 with
         boot := .first
         report := s.report ++ [(1, 0)]
         secure := makeAlias { s1.secure with svn2 := imageSvn image, meas2 := sha384 image } }) := by
  have hreport : (openReefs { clearMemories s with timebase := 0 } reefMin).report = s.report := by rw [openReefs_rest]; rfl
  change execFirstStage reefMin image s = _
  unfold execFirstStage
  rw [if_neg (by simp [hb])]
  dsimp only
  generalize openReefs _ reefMin = u at hreport ⊢
  rw [hi, ← hreport]
  rfl

theorem exec_malukStage_serves (hb : s.boot = .first) : exec .malukStage s = .next
    (let s1 := createService ((List.range Config.ports).foldl (fun s k => setPort s k { getPort s k with up := true }) s)
     { s1 with boot := .maluk, masts := List.range Config.mastCores, report := s1.report ++ [(2, 0)] }) := by
  change execMalukStage s = _
  unfold execMalukStage
  rw [if_neg (by simp [hb])]
  dsimp only
  generalize createService _ = u
  rfl

/-! ### Heat and errors -/

/-- A device that runs shuts down at 115 °C (R405). -/
theorem overheat_shuts {temp : Nat} (hs : ∀ t, s.boot ≠ .shutdown t) (ho : s.boot ≠ .off) (ht : 115 ≤ temp) :
    overheat s temp =
      let s1 := (List.range Config.cores).foldl (fun s k => setCore s k { getCore s k with halted := true }) s
      { s1 with boot := .shutdown (s1.time + 1000000), report := s1.report ++ [(3, temp)] } := by
  unfold overheat
  split
  · exact absurd ‹_› (hs _)
  · exact absurd ‹_› ho
  · exact if_neg (Nat.not_lt.2 ht)

end

/-- Settles O39: each event takes the branch that its condition leaves; what a full reset keeps is read off its definition. -/
theorem bootThermalAndErrorEventsAct : Obligations.BootThermalAndErrorEventsAct := by
  unfold Obligations.BootThermalAndErrorEventsAct
  exact ⟨fun image s hb hi => exec_powerOn_accepts hb hi, fun reefMin image s hb hi => exec_firstStage_accepts hb hi,
    fun s hb => exec_malukStage_serves hb, fun _ => rfl,
    fun die temp s hd ht => if_pos ⟨hd, ht⟩,  -- THERMAL_THROTTLE
    fun die temp s hd ht => if_pos ⟨hd, ht⟩,  -- THERMAL_RELEASE
    fun temp s hs ho ht => congrArg Host.Outcome.next (overheat_shuts hs ho ht),
    fun quarter ecc s hq => if_pos hq,  -- PATROL_SCRUB
    fun s hb => if_pos hb⟩  -- ERROR_COUNTER_POLL

end Sys2Proof.Machine
end

section
/-! The ports (R392-R395): peers' accesses that a window permits, pace, links and retransmission. -/

namespace Sys2Proof.Machine

section
variable {s s1 : State} {r : Rma} {w : Window} {parts : List (List (Loc × Byte))}

/-! ### Accesses -/

/-- A put that a window permits has its writes in flight, after the earlier messages of its ROD flow (R393). -/
def putStarted (s : State) (r : Rma) (parts : List (List (Loc × Byte))) : State :=
  let p := getPort s r.port
  addOp (setPort s r.port { p with flight := liveMsgs s p ++ [{ id := s.nextId, flow := rodFlow r, path := p.paths }] })
    (portOp r (performed (flowDeps s p (rodFlow r))) (.store parts []))

theorem exec_rmaPut_plain (ht : portTakes s r [.rod, .rud, .rudi] = true) (hl : r.data.length = r.len)
    (hw : rmaWindow s r .write = some w) (hsem : r.sem = none)
    (hp : rmaParts .write r.ctx (r.len / 32 + 2) r.va r.data s = (s1, parts)) :
    exec (.rmaPut r) s = .next (putStarted s1 r parts) := by
  change execRmaPut r s = _
  simp only [execRmaPut, ht, hl, hw, hsem, hp, bne_self_eq_false, Bool.not_true, Bool.or_self, Option.isNone_some,
    Bool.false_eq_true, if_false]
  rfl

/-- A requested increment stands after the writes of its put (R393). -/
theorem exec_rmaPut_increments {core index n : Nat} (ht : portTakes s r [.rod, .rud, .rudi] = true) (hl : r.data.length = r.len)
    (hw : rmaWindow s r .write = some w) (hsem : r.sem = some (core, index, n)) (hcore : core < Config.cores) (hindex : index < 64)
    (hp : rmaParts .write r.ctx (r.len / 32 + 2) r.va r.data s = (s1, parts)) :
    exec (.rmaPut r) s = .next (addOp (putStarted s1 r parts)
      (portOp r (performed [s1.nextId]) (.semInc core r.ctx index (BitVec.ofNat 32 n) false))) := by
  change execRmaPut r s = _
  simp only [execRmaPut, ht, hl, hw, hsem, hcore, hindex, hp, bne_self_eq_false, Bool.not_true, Bool.or_self, Option.isNone_some,
    Bool.false_eq_true, if_false, and_self, if_true]
  rfl

theorem exec_rmaGet_answers (ht : portTakes s r [.rod, .rud, .rudi] = true) (hb : flowBusy s r = false)
    (hw : rmaWindow s r .read = some w)
    (hp : rmaParts .read r.ctx (r.len / 32 + 2) r.va (List.replicate r.len 0) s = (s1, parts))
    (hfree : anyOwned s1 (partLocs parts) = false) :
    exec (.rmaGet r) s = .next
      (answer s1 r.port stOK ((partLocs parts).any (locPoisoned s1)) ((partLocs parts).map (homeByte s1))) := by
  change execRmaGet r s = _
  simp only [execRmaGet, ht, hb, hw, hp, hfree, Bool.not_true, Bool.or_self, Option.isNone_some, Bool.false_eq_true, if_false]

theorem exec_rmaAtomic_answers {w' : Window} (ht : portTakes s r [.rod, .rud] = true) (hb : flowBusy s r = false)
    (hwidth : rmaWidth r.aop r.ty = some r.len) (hw : rmaWindow s r .read = some w) (hw' : rmaWindow s r .write = some w')
    (halign : r.va % r.len = 0) (hp : rmaParts .write r.ctx 2 r.va (List.replicate r.len 0) s = (s1, parts))
    (hfree : anyOwned s1 (partLocs parts) = false) :
    exec (.rmaAtomic r) s = .next
      (let ls := partLocs parts
       let old := leVal (ls.map (homeByte s1))
       let new := atomNew r.aop r.ty old (r.opnd % 2 ^ (8 * r.len)) (r.cmp % 2 ^ (8 * r.len))
       answer (wakeTasks (performPart s1 .home 0 (ls.zip (leBytes r.len new)) false)) r.port stOK
         (ls.any (locPoisoned s1)) (leBytes r.len old)) := by
  change execRmaAtomic r s = _
  simp only [execRmaAtomic, ht, hb, hwidth, hw, hw', halign, hp, hfree, bne_self_eq_false, Bool.not_true, Bool.or_self,
    Option.isNone_some, Bool.false_eq_true, if_false]

/-! ### Pace, links, retransmission -/

variable {port : Nat}

theorem exec_linkLoss_up (hb : s.boot = .maluk) (hup : (getPort s port).up = true) (hport : port < Config.ports) :
    exec (.linkLoss port) s = .next
      (let p := getPort s port
       let ids := (liveMsgs s p).map (·.id)
       let s1 := setPort { s with ops := s.ops.filter (fun o => !lostOp ids o), owned := s.owned.filter (fun x => !ids.contains x.2) }
         port { p with up := false, flight := [] }
       let s2 := postLink (ids.foldl (fun s _ => answer s port 11 false []) s1) port 0x87
       ((s.ops.filter (lostOp ids)).map (·.ctx)).foldl reap s2) := by
  change execLinkLoss port s = _
  simp only [execLinkLoss, hb, hup, decide_eq_false (Nat.not_le.2 hport), bne_self_eq_false, Bool.not_true, Bool.or_self,
    Bool.false_eq_true, if_false]

theorem exec_linkRestore_down (hb : s.boot = .maluk) (hdown : (getPort s port).up = false) (hport : port < Config.ports) :
    exec (.linkRestore port) s = .next (postLink (setPort s port { getPort s port with up := true }) port 0x88) := by
  change execLinkRestore port s = _
  simp only [execLinkRestore, hb, hdown, decide_eq_false (Nat.not_le.2 hport), bne_self_eq_false, Bool.or_self, Bool.false_eq_true,
    if_false]

theorem exec_packetRetransmit_counts {m : Nat} (hup : (getPort s port).up = true)
    (hm : (liveMsgs s (getPort s port)).any (fun x => x.id == m) = true) :
    exec (.packetRetransmit port m) s = .next (setPort s port { getPort s port with resent := (getPort s port).resent + 1 }) :=
  if_pos (by rw [hup, hm]; rfl)

end

/-- Settles O38: each access and event takes the branch that its conditions leave. -/
theorem portsAct : Obligations.PortsAct := by
  unfold Obligations.PortsAct
  exact ⟨fun r s w s1 parts ht hl hw hsem hp => exec_rmaPut_plain ht hl hw hsem hp,
    fun r s w s1 parts core index n ht hl hw hsem hcore hindex hp => exec_rmaPut_increments ht hl hw hsem hcore hindex hp,
    fun r s w s1 parts ht hb hw hp hfree => exec_rmaGet_answers ht hb hw hp hfree,
    fun r s w w' s1 parts ht hb hwidth hw hw' halign hp hfree => exec_rmaAtomic_answers ht hb hwidth hw hw' halign hp hfree,
    fun port pace s hport hup hen => if_pos ⟨hport, hup, hen⟩,  -- PACE_RECEIVE
    fun port s hb hup hport => exec_linkLoss_up hb hup hport, fun port s hb hdown hport => exec_linkRestore_down hb hdown hport,
    fun port m s hup hm => exec_packetRetransmit_counts hup hm⟩

end Sys2Proof.Machine
end
